-- ==== Sys2Proof/Word.lean ====
section
/-! DEFINITION. The word types of the model and their plainest arithmetic (R5, R7-R9). -/

namespace Sys2Proof

/-- A byte. -/
abbrev Byte := BitVec 8

/-- A 32-bit word: a register access, a token value. -/
abbrev Word := BitVec 32

/-- A 64-bit word: a doorbell write, the machine tick. -/
abbrev DWord := BitVec 64

/-- A string of bytes, the byte at the lowest address first. -/
abbrev Bytes := List Byte

/-- A finite map over naturals, held as a list of pairs in rising order of the key. -/
abbrev Tab (α : Type) := List (Nat × α)

end Sys2Proof
end

