-- ==== Sys2Proof/Syntax.lean ====
section
/-! DEFINITION. The commands of the block, one constructor for each row of spec/opcode_table.json, and the types of
their operands. The operands are the model's (log entry 2): the table gives no fields. -/

namespace Sys2Proof

/-- Who issues a register access: a host function through its BAR0, or the management controller's SetupWrite and
SetupRead (R75, R558). -/
inductive Src where
  | fn (f : Nat)
  | mgmt
  deriving DecidableEq, Repr

/-- A fabric transaction (R382, R383): header fields and the bytes that follow. `poison` is the cause that the data of a
forwarded row carries (R239; the header has no field for it, log entry 31), `lane` the virtual lane it travels on (R388, R392), `unit` for
a part of a tile the number of the tile's first WRITE and how many there are (R51; log entry 124). -/
structure Tx where
  type : Nat
  flags : Nat
  srcModule : Nat
  dstModule : Nat
  dstDie : Nat
  srcDie : Nat
  offset : Nat
  seq : Nat
  len : Nat
  tag : Nat
  cls : Nat
  body : Bytes
  poison : Nat := 0
  lane : Nat := 0
  unit : Option (Nat × Nat) := none
  deriving DecidableEq, Repr

/-- A Crimson notice (R518). -/
structure Notice where
  kind : Nat
  hops : Nat
  origin : Nat
  subject : Nat
  tag : Nat
  tick : Nat
  id : Nat
  arg : Nat
  detail : Nat
  deriving DecidableEq, Repr

/-- A control record of a collective (R423) by its fields. -/
structure CtlRec where
  kind : Nat
  slot : Nat
  rank : Nat
  seq : Nat
  arg : Nat
  body : Bytes
  deriving DecidableEq, Repr

/-- A token signal: its increment, and the queue and tag of the descriptor that sends it, where one does (R62, R65). -/
structure Signal where
  inc : Nat
  desc : Option (Nat × Nat)
  deriving DecidableEq, Repr

/-- An attention call: the tag of its descriptor, and where a parity error will be found in it (R250): the station, the block pair and the
row (log entry 2). -/
structure AtTag where
  tag : Nat
  parity : Option (Nat × Nat × Nat)
  deriving DecidableEq, Repr

/-- How a pass of the copy of a move ended (R330, R339): copied, or with a failure of its source or of its target. -/
inductive CopyResult where
  | copied
  | sourceFailed
  | targetFailed
  deriving DecidableEq, Repr

/-- What a scrub read of a line found (R511, R512). -/
inductive EccResult where
  | clean
  | corrected
  | uncorrectable
  deriving DecidableEq, Repr

/-- What a scrub of protected SRAM read (R511): a 64-bit word of a pool line, an entry of the Page Map, of the home records, of a
function's translation, of the shard table, or state that no descriptor owns. -/
inductive SramPlace where
  | pool (line word : Nat)
  | pageEntry (i : Nat)
  | home (r : Nat)
  | page (fn va : Nat)
  | shard (n : Nat)
  | state
  deriving DecidableEq, Repr

/-- The straps and findings of a cold reset (R25, R27, R549): SDA level, SCL level, and on each M die the far devices found and
the mask of absent flash channels. -/
structure Straps where
  sda : Nat
  scl : Nat
  farDevs : List Nat
  absent : List Nat
  deriving DecidableEq, Repr

/-- A firmware image as a verifier sees it (R561-R563): version, security version, the key slot of its signature, whether the signature
verifies, and the digests of its components 0x0001 to 0x0005. -/
structure FwImage where
  version : Nat
  svn : Nat
  key : Nat
  valid : Bool
  digests : List Bytes := []
  deriving DecidableEq, Repr

/-- One item of captured state in a snapshot image (R526), in the model's own form (log entry 50): what it is (0 random stream,
1 profile, 2 shard version, 3 layout epoch, 4 sequence, 5 page, 6 expert table entry, 7 schedule position), its
key, and its values. -/
structure SnItem where
  kind : Nat
  key : Nat
  vals : List Nat
  deriving DecidableEq, Repr

/-- One generation of a snapshot set (R527-R529): generation, set, job tag, the manifest's CRC-32C, the key identifier of an
encrypted image (R569), the captured state, the bytes of the state extents and of the shard extents in manifest order, and
whether every piece passes its CRC. -/
structure SnImage where
  gen : Nat
  set : Nat
  tag : Nat
  crc : Nat
  keyId : Option Nat
  items : List SnItem
  state : List Bytes
  shards : List Bytes
  intact : Bool
  deriving DecidableEq, Repr

/-- What a margin run reads on a lane, in the steps of the table of R580: both sides of its first quantity (timing of an HBM lane, vertical
offset of an Eskan lane), both sides of its second (Vref, horizontal offset), and for an Eskan lane the pre-FEC bit errors in 10¹⁰ bits at
zero offset. -/
structure LaneMargins where
  low1 : Nat
  high1 : Nat
  low2 : Nat
  high2 : Nat
  errors : Nat
  deriving DecidableEq, Repr

/-- What a margin run reads (R580, R583): the margins of a lane of a channel, and those after a repair; or a failing row, by
pseudo-channel, bank and row. -/
inductive Finding where
  | lane (chan lane : Nat) (before after : LaneMargins)
  | row (pc bank row : Nat)
  deriving DecidableEq, Repr

/-- A command. -/
inductive Instr where
  /-- QUEUE_ENABLE (R81). -/
  | queueEnable (src : Src) (q mask : Nat)
  /-- QUEUE_DISABLE (R103). -/
  | queueDisable (src : Src) (q mask : Nat)
  /-- QUEUE_DRAINED (R103). -/
  | queueDrained (q : Nat)
  /-- QUEUE_ABORT (R101). -/
  | queueAbort (src : Src) (q : Nat)
  /-- QUEUE_ABORT_DONE (R101). -/
  | queueAbortDone (q : Nat)
  /-- QUEUE_CLR_ERR (R103). -/
  | queueClrErr (src : Src) (q : Nat)
  /-- CR_ENABLE (R97). -/
  | crEnable (src : Src) (r cfg : Nat)
  /-- CR_DISABLE (R632). -/
  | crDisable (src : Src) (r cfg : Nat)
  /-- DOORBELL (R87). -/
  | doorbell (fn off size value : Nat)
  /-- DESCRIPTOR_FETCH (R89). -/
  | descriptorFetch (q : Nat) (data : Option Bytes)
  /-- ADMISSION (R91). -/
  | admission (die : Nat)
  /-- DISPATCH (R477). -/
  | dispatch (die : Nat)
  /-- RESOURCE_WAIT_END (R71). -/
  | resourceWaitEnd (q tag : Nat)
  /-- STATION_FIFO_ROOM (R70). -/
  | stationFifoRoom (die st : Nat)
  /-- NOP (R84). -/
  | nop (q tag : Nat)
  /-- MICRO_COMMAND_RETIRE (R72). -/
  | microCommandRetire (die st : Nat)
  /-- POST_HELD_COMPLETION (R98). -/
  | postHeldCompletion (r : Nat)
  /-- CR_MOD_TIMER (R99). -/
  | crModTimer (r : Nat)
  /-- CR_HEAD_DOORBELL (R99). -/
  | crHeadDoorbell (src : Src) (r size value : Nat)
  /-- BAR4_READ (R78). -/
  | bar4Read (fn off len : Nat)
  /-- BAR4_WRITE (R78). -/
  | bar4Write (fn off : Nat) (data : Bytes)
  /-- SEAL (R105). -/
  | seal (src : Src) (value : Nat)
  /-- REGISTER_WRITE (R13). -/
  | registerWrite (fn off size value : Nat)
  /-- STREAM_TAIL_READ (R66). -/
  | streamTailRead (src : Src) (die : Nat)
  /-- TICK_LO_READ (R508). -/
  | tickLoRead (src : Src)
  /-- HOST_LINK_DOWN (R104). -/
  | hostLinkDown (port : Nat)
  /-- HOST_LINK_UP (R104). -/
  | hostLinkUp (port : Nat)
  /-- HOST_PORT_RESET (R548). -/
  | hostPortReset (port : Nat)
  /-- TOKEN_SIGNAL (R62). -/
  | tokenSignal (die tok : Nat) (sent : Signal)
  /-- STREAM_COMMIT (R55). -/
  | streamCommit (die stream : Nat) (tile : Bytes)
  /-- STREAM_RELEASE (R55). -/
  | streamRelease (die stream st : Nat)
  /-- POOL_REQUEST_AGED (R44). -/
  | poolRequestAged (die bank : Nat) (first : Nat × Nat) (others : List (Nat × Nat))
  /-- MX_FWD (R126). -/
  | mxFwd (q tag : Nat)
  /-- MX_DGRAD (R126). -/
  | mxDgrad (q tag : Nat)
  /-- MX_WGRAD (R131). -/
  | mxWgrad (q tag : Nat)
  /-- MX_LOAD (R111). -/
  | mxLoad (die st : Nat)
  /-- SHADOW_READY (R111). -/
  | shadowReady (die st : Nat)
  /-- MX_STREAM (R114). -/
  | mxStream (die st : Nat) (parity : Option Nat)
  /-- MX_CNT_CLEAR (R140). -/
  | mxCntClear (src : Src) (die st value : Nat)
  /-- SL_GEMM (R155). -/
  | slGemm (q tag : Nat)
  /-- SL_SLICE (R157). -/
  | slSlice (q tag : Nat)
  /-- VX_EW (R162). -/
  | vxEw (q tag : Nat)
  /-- CV_CONVERT (R183). -/
  | cvConvert (q tag : Nat)
  /-- CV_RANDOM_SET (R185). -/
  | cvRandomSet (q tag : Nat)
  /-- CV_RANDOM_ADVANCE (R185). -/
  | cvRandomAdvance (q tag : Nat)
  /-- CV_RANDOM_MASK (R185). -/
  | cvRandomMask (q tag : Nat)
  /-- CV_RANDOM_WORDS (R185). -/
  | cvRandomWords (q tag : Nat)
  /-- CK_POLICY_BIND (R631). -/
  | ckPolicyBind (q tag : Nat)
  /-- CK_POLICY_RESET (R631). -/
  | ckPolicyReset (q tag : Nat)
  /-- CK_POLICY_UNBIND (R631). -/
  | ckPolicyUnbind (q tag : Nat)
  /-- CK_POLICY_READ (R631). -/
  | ckPolicyRead (q tag : Nat)
  /-- CK_SAMPLE_DONE (R199). -/
  | ckSampleDone (die : Nat) (corrupt : Bool)
  /-- AT_FWD (R225). -/
  | atFwd (q : Nat) (call : AtTag)
  /-- AT_BWD (R228). -/
  | atBwd (q : Nat) (call : AtTag)
  /-- AT_BPREP (R229). -/
  | atBprep (q tag : Nat)
  /-- AT_MERGE (R230). -/
  | atMerge (q tag : Nat)
  /-- RING_WAIT_TIMEOUT (R238). -/
  | ringWaitTimeout (die st : Nat)
  /-- AT_CNT_CLEAR (R250). -/
  | atCntClear (src : Src) (die st value : Nat)
  /-- PG_OPEN (R256). -/
  | pgOpen (q tag : Nat)
  /-- PG_APPEND (R272). -/
  | pgAppend (q tag : Nat)
  /-- PG_TRIM (R263). -/
  | pgTrim (q tag : Nat)
  /-- PG_CLOSE (R252). -/
  | pgClose (q tag : Nat)
  /-- PG_RESUME (R266). -/
  | pgResume (q tag : Nat)
  /-- PG_PIN (R266). -/
  | pgPin (q tag : Nat)
  /-- PG_MOVE (R269). -/
  | pgMove (q tag : Nat)
  /-- PG_QUERY (R267). -/
  | pgQuery (q tag : Nat)
  /-- PG_REBUILD_COMPACT (R277). -/
  | pgRebuildCompact (q tag : Nat)
  /-- PG_REBUILD_REHOME (R279). -/
  | pgRebuildRehome (q tag : Nat)
  /-- REBUILD_SWAP (R278). -/
  | rebuildSwap (die : Nat)
  /-- WALK_BEGIN (R261). -/
  | walkBegin (die seq owner first last : Nat)
  /-- WALK_END (R263). -/
  | walkEnd (die slot : Nat)
  /-- REMAP_COPY_DONE (R263). -/
  | remapCopyDone (die entry : Nat) (ok : Bool)
  /-- PG_DEMOTION_DONE (R273). -/
  | pgDemotionDone (die entry : Nat) (ok : Bool)
  /-- APPEND_PARK_TIMEOUT (R275). -/
  | appendParkTimeout (die seq : Nat)
  /-- PG_AGE_SWEEP (R273). -/
  | pgAgeSweep (die : Nat)
  /-- ST_RUN (R285). -/
  | stRun (q tag : Nat)
  /-- ST_STOP_AT_END (R294). -/
  | stStopAtEnd (q tag : Nat)
  /-- ST_STOP_NOW (R294). -/
  | stStopNow (q tag : Nat)
  /-- ENTRY_RELEASE (R289). -/
  | entryRelease (die slot : Nat)
  /-- SH_CTL_DEFINE (R301). -/
  | shCtlDefine (q tag : Nat)
  /-- SH_CTL_BEGIN_UPDATE (R302). -/
  | shCtlBeginUpdate (q tag : Nat)
  /-- SH_CTL_COMMIT (R302). -/
  | shCtlCommit (q tag : Nat)
  /-- SH_CTL_QUERY (R301). -/
  | shCtlQuery (q tag : Nat)
  /-- SH_CTL_FREE (R301). -/
  | shCtlFree (q tag : Nat)
  /-- TM_MAP (R628). -/
  | tmMap (q tag : Nat)
  /-- TM_UNMAP (R325). -/
  | tmUnmap (q tag : Nat)
  /-- TM_MOVE (R330). -/
  | tmMove (q tag : Nat)
  /-- TM_PIN_SET (R332). -/
  | tmPinSet (q tag : Nat)
  /-- TM_PIN_CLEAR (R332). -/
  | tmPinClear (q tag : Nat)
  /-- TM_QUERY (R343). -/
  | tmQuery (q tag : Nat)
  /-- TM_OBJ_PUT (R348). -/
  | tmObjPut (q tag : Nat)
  /-- TM_OBJ_GET (R348). -/
  | tmObjGet (q tag : Nat)
  /-- TM_OBJ_DELETE (R348). -/
  | tmObjDelete (q tag : Nat)
  /-- TM_OBJ_STAT (R347). -/
  | tmObjStat (q tag : Nat)
  /-- MOVE_COPY_DONE (R330). -/
  | moveCopyDone (rec chunks : Nat) (result : CopyResult)
  /-- MOVE_SOURCE_RELEASE (R330). -/
  | moveSourceRelease (rec : Nat)
  /-- POLICY_DEMOTE (R336). -/
  | policyDemote (mdie : Nat)
  /-- TIER_ACCESS_TIMEOUT (R339). -/
  | tierAccessTimeout (die mover : Nat)
  /-- FAR_DEVICE_FAIL (R342). -/
  | farDeviceFail (mdie dev : Nat)
  /-- MV_COPY (R369). -/
  | mvCopy (q tag : Nat)
  /-- MV_FILL (R368). -/
  | mvFill (q tag : Nat)
  /-- MV_INDEXED (R370). -/
  | mvIndexed (q tag : Nat)
  /-- MOVER_READ_DONE (R352). -/
  | moverReadDone (die mover : Nat) (demand badEcc : Bool)
  /-- MOVER_WRITE_ACK (R352). -/
  | moverWriteAck (die mover : Nat)
  /-- SLOT_COMMIT (R364). -/
  | slotCommit (die stream : Nat)
  /-- SLOT_AGE_EXPIRY (R366). -/
  | slotAgeExpiry (die stream : Nat)
  /-- QUE_SC_CLEAR (R375). -/
  | queScClear (src : Src) (die st value : Nat)
  /-- FLIT_RECEIVE (R380). -/
  | flitReceive (port : Nat) (flit : Bytes) (fecOk : Bool) (corrected : Nat)
  /-- PORT_ENABLE (R408). -/
  | portEnable (src : Src) (port value : Nat)
  /-- PORT_DISABLE (R459). -/
  | portDisable (src : Src) (port value : Nat)
  /-- PORT_TRAINED (R409). -/
  | portTrained (port lanes : Nat)
  /-- TRAINING_TIMEOUT (R408). -/
  | trainingTimeout (port : Nat)
  /-- PORT_MARGINING_DONE (R409). -/
  | portMarginingDone (port : Nat)
  /-- LANE_ERROR_RETRAIN (R411). -/
  | laneErrorRetrain (port lane : Nat)
  /-- RETRAIN_DONE (R408). -/
  | retrainDone (port : Nat)
  /-- RETRAIN_TIMEOUT (R408). -/
  | retrainTimeout (port : Nat)
  /-- NO_FLIT_TIMEOUT (R410). -/
  | noFlitTimeout (port : Nat)
  /-- PORT_LOST (R410). -/
  | portLost (port : Nat)
  /-- RETRAIN_HOLD_EXPIRY (R412). -/
  | retrainHoldExpiry (port : Nat)
  /-- WRITE (R395). -/
  | write (port : Option Nat) (t : Tx)
  /-- ACK (R397). -/
  | ack (port : Option Nat) (t : Tx)
  /-- NACK (R396). -/
  | nack (port : Option Nat) (t : Tx)
  /-- SIGNAL (R395). -/
  | signal (port : Option Nat) (t : Tx)
  /-- READ (R406). -/
  | read (port : Option Nat) (t : Tx)
  /-- READ_DATA (R406). -/
  | readData (port : Option Nat) (t : Tx)
  /-- NOTICE (R520). -/
  | notice (port : Option Nat) (n : Notice)
  /-- PRUNE (R406). -/
  | prune (port : Option Nat) (t : Tx)
  /-- FLOW_ACK_TIMER (R397). -/
  | flowAckTimer (flow : Nat)
  /-- FLOW_BUSY_RETRY (R397). -/
  | flowBusyRetry (flow : Nat)
  /-- FLOW_IDLE_RELEASE (R397). -/
  | flowIdleRelease (flow : Nat)
  /-- LOSS_LIMIT_EXPIRY (R398). -/
  | lossLimitExpiry (flow : Nat)
  /-- MULTICAST_BRANCH_PRUNE (R405). -/
  | multicastBranchPrune (fdie port group xfer behind idle : Nat)
  /-- MULTICAST_LAG_TIMEOUT (R406). -/
  | multicastLagTimeout (die xfer : Nat)
  /-- RETENTION_LIMIT_EXPIRY (R407). -/
  | retentionLimitExpiry (die xfer : Nat)
  /-- ROUTE_COPY (R402). -/
  | routeCopy (src : Src) (fdie : Nat)
  /-- ROUTE_COPY_DONE (R402). -/
  | routeCopyDone (fdie : Nat)
  /-- ROUTE_SWAP (R402). -/
  | routeSwap (src : Src) (fdie : Nat)
  /-- TICK_ALIGN_SEND (R500). -/
  | tickAlignSend (port : Nat)
  /-- RD_COMM_DEFINE (R418). -/
  | rdCommDefine (q tag : Nat)
  /-- RD_COMM_RETIRE (R418). -/
  | rdCommRetire (q tag : Nat)
  /-- RD_REDUCE (R425). -/
  | rdReduce (q tag : Nat)
  /-- RD_GATHER (R433). -/
  | rdGather (q tag : Nat)
  /-- RD_A2A (R436). -/
  | rdA2a (q tag : Nat)
  /-- RD_PERMUTE (R439). -/
  | rdPermute (q tag : Nat)
  /-- PERMUTE_EPOCH_ADVANCE (R439). -/
  | permuteEpochAdvance (die fn : Nat)
  /-- RD_EPOCH_RETIRE (R441). -/
  | rdEpochRetire (q tag : Nat)
  /-- RD_EXPERT_DISPATCH (R444). -/
  | rdExpertDispatch (q tag : Nat)
  /-- RD_EXPERT_COMBINE (R445). -/
  | rdExpertCombine (q tag : Nat)
  /-- RD_EXT_WRITE (R442). -/
  | rdExtWrite (q tag : Nat)
  /-- RD_EXT_SWAP (R442). -/
  | rdExtSwap (q tag : Nat)
  /-- RD_EXT_COPY (R442). -/
  | rdExtCopy (q tag : Nat)
  /-- READY (R428). -/
  | ready (die : Nat) (rec : CtlRec)
  /-- DATA (R427). -/
  | data (die : Nat) (rec : CtlRec)
  /-- CLOSE (R429). -/
  | close (die : Nat) (rec : CtlRec)
  /-- FAIL (R432). -/
  | fail (die : Nat) (rec : CtlRec)
  /-- LIST (R444). -/
  | list (die : Nat) (rec : CtlRec)
  /-- GATHER_REQ (R434). -/
  | gatherReq (die : Nat) (rec : CtlRec)
  /-- STRAGGLER_WINDOW_CLOSE (R428). -/
  | stragglerWindowClose (die slot seq : Nat)
  /-- CLOSE_TIMEOUT (R432). -/
  | closeTimeout (die slot seq : Nat)
  /-- DRAIN_GO (R458). -/
  | drainGo (src : Src) (fdie value : Nat)
  /-- DRAIN_COMPLETE (R458). -/
  | drainComplete (fdie : Nat)
  /-- DRAIN_RELEASE (R459). -/
  | drainRelease (src : Src) (fdie value : Nat)
  /-- DRAIN_HOLD_EXPIRY (R460). -/
  | drainHoldExpiry (fdie : Nat)
  /-- MAIN_INPUT_LOSS (R465). -/
  | mainInputLoss (volts : Nat)
  /-- MAIN_RETURN (R465). -/
  | mainReturn
  /-- PWR_RETURN_PERMIT (R468). -/
  | pwrReturnPermit (src : Src) (value : Nat)
  /-- BOTH_INPUTS_LOSS (R467). -/
  | bothInputsLoss
  /-- HOLDUP_STATIONS_STOP (R467). -/
  | holdupStationsStop
  /-- INPUT_RESTORED (R467). -/
  | inputRestored (main : Bool)
  /-- HOLDUP_SPENT (R467). -/
  | holdupSpent
  /-- BUDGET_DIVISION (R473). -/
  | budgetDivision (draws : List Nat)
  /-- DIE_GOVERNOR_SAMPLE (R475). -/
  | dieGovernorSample (die draw : Nat)
  /-- OPP_STEP_DONE (R470). -/
  | oppStepDone (die : Nat)
  /-- GV_MANUAL_SET (R471). -/
  | gvManualSet (src : Src) (die value : Nat)
  /-- GV_FREQ_WRITE (R471). -/
  | gvFreqWrite (src : Src) (die value : Nat)
  /-- GV_VOLT_WRITE (R471). -/
  | gvVoltWrite (src : Src) (die value : Nat)
  /-- BUDGET_WRITE (R474). -/
  | budgetWrite (src : Src) (backup : Bool) (value : Nat)
  /-- PWR_UV_WRITE (R492). -/
  | pwrUvWrite (src : Src) (value : Nat)
  /-- DIE_TEMP_READING (R478). -/
  | dieTempReading (die temp : Nat)
  /-- THROTTLE_CLOCK_STEP (R478). -/
  | throttleClockStep (die : Nat)
  /-- STACK_TEMP_READING (R478). -/
  | stackTempReading (stack temp : Nat)
  /-- HOT_STACK_STEP (R479). -/
  | hotStackStep (stack : Nat)
  /-- SEQUENCER_POWER_WAIT (R484). -/
  | sequencerPowerWait (die seqr mode : Nat)
  /-- GREY_IDLE_TIMER (R484). -/
  | greyIdleTimer (die : Nat)
  /-- GREY_ENTRY (R485). -/
  | greyEntry (die : Nat) (early : Bool)
  /-- CHARCOAL_ENTRY (R486). -/
  | charcoalEntry (die : Nat)
  /-- CHARCOAL_REACHED (R486). -/
  | charcoalReached (die : Nat)
  /-- WAKE_EVENT (R488). -/
  | wakeEvent (source die port : Nat)
  /-- CHARCOAL_WAKE_DONE (R487). -/
  | charcoalWakeDone (die : Nat)
  /-- AON_TIMER_MATCH (R488). -/
  | aonTimerMatch
  /-- I3C_ADDRESS_MATCH (R489). -/
  | i3cAddressMatch
  /-- REF_SELECT_WRITE (R497). -/
  | refSelectWrite (src : Src) (value : Nat)
  /-- REF_SOURCE_INVALID (R497). -/
  | refSourceInvalid (source : Nat)
  /-- REF_REVERT (R497). -/
  | refRevert
  /-- HOLDOVER_EXPIRY (R499). -/
  | holdoverExpiry (runts : List Nat)
  /-- CLOCK_SOURCE_FAIL (R502). -/
  | clockSourceFail (die dom : Nat) (stop runt : Bool)
  /-- DOMAIN_RESUME (R503). -/
  | domainResume (die dom pll : Nat)
  /-- MEMORY_CLOCK_TIMEOUT (R504). -/
  | memoryClockTimeout (die dom : Nat)
  /-- DOMAIN_SWITCH (R505). -/
  | domainSwitch (src : Src) (die dom value : Nat)
  /-- MARGIN_AUTO_SWITCH (R509). -/
  | marginAutoSwitch (die dom : Nat)
  /-- SWITCH_RAMP_STEP (R505). -/
  | switchRampStep (die dom : Nat)
  /-- CLK_OBS_ENABLE (R507). -/
  | clkObsEnable (src : Src) (value : Nat)
  /-- HEARTBEAT_SEND (R521). -/
  | heartbeatSend
  /-- HEARTBEAT_TIMEOUT (R521). -/
  | heartbeatTimeout (entry : Nat)
  /-- PROGRESS_TIMEOUT (R514). -/
  | progressTimeout (die st : Nat)
  /-- STATION_FENCE (R514). -/
  | stationFence (die st cause : Nat)
  /-- DIE_FENCE (R515). -/
  | dieFence (die cause : Nat)
  /-- POOL_SCRUB (R511). -/
  | poolScrub (die : Nat) (place : SramPlace) (bad : EccResult)
  /-- HBM_PATROL_SCRUB (R512). -/
  | hbmPatrolScrub (stack line : Nat) (bad : EccResult)
  /-- SN_DEFINE (R525). -/
  | snDefine (q tag : Nat)
  /-- SN_TAKE (R527). -/
  | snTake (q tag : Nat)
  /-- CAPTURE_DONE (R527). -/
  | captureDone (set : Nat)
  /-- LOCAL_LAYER_COMMIT (R531). -/
  | localLayerCommit (set : Nat) (ok : Bool)
  /-- SHARED_LAYER_COMMIT (R533). -/
  | sharedLayerCommit (set : Nat)
  /-- ROCE_RETRANSMIT_TIMEOUT (R533). -/
  | roceRetransmitTimeout (conn : Nat)
  /-- CONGESTION_NOTIFICATION (R533). -/
  | congestionNotification (conn : Nat)
  /-- SN_RESTORE (R536). -/
  | snRestore (q tag : Nat) (image : Option SnImage)
  /-- SN_CONN (R532). -/
  | snConn (q tag : Nat)
  /-- COLD_START (R550). -/
  | coldStart (main : Bool) (straps : Straps)
  /-- RESET_N_ASSERT (R548). -/
  | resetNAssert (straps : Straps)
  /-- MGT_RESET_WARM (R548). -/
  | mgtResetWarm (src : Src) (value : Nat)
  /-- MANAGEMENT_WATCHDOG (R548). -/
  | managementWatchdog
  /-- BOOT_VERIFY (R561). -/
  | bootVerify (slot : Nat) (img : FwImage)
  /-- F4_TAKEOVER (R551). -/
  | f4Takeover
  /-- LIMITED_SERVICE_ENTRY (R552). -/
  | limitedServiceEntry (die : Nat)
  /-- FULL_SERVICE_ENTRY (R554). -/
  | fullServiceEntry (die : Nat)
  /-- SET_PLACEMENT (R558). -/
  | setPlacement (data : Bytes)
  /-- WRITE_MODULE_TABLE (R558). -/
  | writeModuleTable (data : Bytes)
  /-- WRITE_OVERRIDE (R558). -/
  | writeOverride (data : Bytes)
  /-- WRITE_MULTICAST (R558). -/
  | writeMulticast (data : Bytes)
  /-- COPY_TABLES (R558). -/
  | copyTables (data : Bytes)
  /-- COMMIT_PLACEMENT (R559). -/
  | commitPlacement (data : Bytes)
  /-- SET_RECOVERY (R558). -/
  | setRecovery (data : Bytes)
  /-- WAKE (R558). -/
  | wake (data : Bytes)
  /-- SET_POWER_STATE (R558). -/
  | setPowerState (data : Bytes)
  /-- FENCE (R558). -/
  | fence (data : Bytes) (bare : Bool)
  /-- ALIGN_TICK (R560). -/
  | alignTick (data : Bytes) (bare : Bool)
  /-- SETUP_WRITE (R558). -/
  | setupWrite (data : Bytes) (bare : Bool)
  /-- SETUP_READ (R558). -/
  | setupRead (data : Bytes)
  /-- WARM_RESET (R548). -/
  | warmReset (data : Bytes)
  /-- COLD_RESET (R548). -/
  | coldReset (data : Bytes) (bare : Bool) (straps : Straps)
  /-- COMMIT_SVN (R562). -/
  | commitSvn (data : Bytes) (secured : Bool)
  /-- REVOKE_KEY (R562). -/
  | revokeKey (data : Bytes) (secured : Bool)
  /-- LOAD_KEY (R565). -/
  | loadKey (data : Bytes) (secured : Bool)
  /-- KEY_SEND_SELECT (R568). -/
  | keySendSelect (data : Bytes) (secured : Bool)
  /-- KEY_ERASE_SLOT (R565). -/
  | keyEraseSlot (data : Bytes) (secured : Bool)
  /-- KEY_ERASE_ALL (R565). -/
  | keyEraseAll (data : Bytes) (secured : Bool)
  /-- FIRMWARE_UPDATE (R562). -/
  | firmwareUpdate (img : FwImage)
  /-- ACTIVATE_FIRMWARE (R562). -/
  | activateFirmware
  /-- SPDM_MESSAGE (R564). -/
  | spdmMessage (session : Nat) (msg : Bytes)
  /-- PLDM_SENSOR_READ (R557). -/
  | pldmSensorRead (kind sensor : Nat)
  /-- BIST_START (R578). -/
  | bistStart (src : Src) (die value : Nat)
  /-- BIST_DONE (R579). -/
  | bistDone (die : Nat) (failed : List Nat)
  /-- MARGIN_START (R581). -/
  | marginStart (src : Src) (die value : Nat)
  /-- MARGIN_HOLD_BEGIN (R582). -/
  | marginHoldBegin (die : Nat)
  /-- MARGIN_RUN_DONE (R583). -/
  | marginRunDone (die lane margin : Nat) (found : List Finding)
  /-- ATB_SELECT (R576). -/
  | atbSelect (src : Src) (die value : Nat)
  /-- ATB_ROUTE (R577). -/
  | atbRoute (src : Src) (value : Nat)
  /-- PRESENT_OPEN (R612). -/
  | presentOpen
  /-- COOLANT_READING (R620). -/
  | coolantReading (flow inlet : Nat)
  /-- COOL_OK_RESTORE (R620). -/
  | coolOkRestore
  /-- MAIN_INPUT_VALID (R465). -/
  | mainInputValid (volts : Nat)
  /-- REFERENCE_SOURCE_VALID (R497). -/
  | referenceSourceValid (source : Nat)
  /-- AON_CRYSTAL_STOP (R494). -/
  | aonCrystalStop
  /-- PORT_PARTNER_DETECTED (R408). -/
  | portPartnerDetected (port : Nat)
  /-- IN_PACKAGE_LINK_LOST (R385). -/
  | inPackageLinkLost (a b : Nat)
  /-- ROCE_RESPONSE_RECEIVE (R533). -/
  | roceResponseReceive (conn psn : Nat) (data : Bytes)
  /-- PFC_PAUSE_FRAME (R464). -/
  | pfcPauseFrame (sport prio quanta : Nat)
  /-- SNAPSHOT_EXTENT_READ (R527). -/
  | snapshotExtentRead (set extent : Nat)
  deriving DecidableEq, Repr

end Sys2Proof
end

