-- ==== Sys2Proof/Machine/Maps.lean ====
section
/-! DEFINITION. Finite maps with a default value, and the byte memory: sorted lists in one canonical form (R9, R42). -/

namespace Sys2Proof.Machine

/-- The entry of a key, if the map lists it. -/
def tget? {α : Type} : Tab α → Nat → Option α
  | [], _ => none
  | (k, v) :: r, x => if k = x then some v else if x < k then none else tget? r x

/-- The value of a key, with the default for an unlisted one. -/
def tgetD {α : Type} (m : Tab α) (k : Nat) (d : α) : α := (tget? m k).getD d

/-- Insert or replace an entry, keeping the keys rising. -/
def tins {α : Type} : Tab α → Nat → α → Tab α
  | [], k, v => [(k, v)]
  | (a, b) :: r, k, v =>
    if k < a then (k, v) :: (a, b) :: r
    else if k = a then (k, v) :: r
    else (a, b) :: tins r k v

/-- Remove an entry. -/
def tdel {α : Type} : Tab α → Nat → Tab α
  | [], _ => []
  | (a, b) :: r, k => if a = k then r else if k < a then (a, b) :: r else (a, b) :: tdel r k

/-- Write a value: the default removes the entry, so equal maps are equal lists. -/
def tput {α : Type} [DecidableEq α] (m : Tab α) (k : Nat) (v d : α) : Tab α :=
  if v = d then tdel m k else tins m k v

/-- The keys rise strictly from a lower bound. -/
def risingFrom {α : Type} : Nat → Tab α → Bool
  | _, [] => true
  | b, (k, _) :: r => decide (b ≤ k) && risingFrom (k + 1) r

/-- The canonical form of a map: strictly rising keys. -/
def tabWf {α : Type} (m : Tab α) : Bool := risingFrom 0 m

/-- No entry equals the default. -/
def noDefault {α : Type} [DecidableEq α] (m : Tab α) (d : α) : Bool := m.all (fun p => decide (p.2 ≠ d))

/-- What an unlisted byte reads as (DESIGN CHOICE, log entry 5). -/
def emptyByte : Byte := 0

/-- The canonical form of the byte memory: addresses strictly rising, no entry equal to an unlisted byte. -/
abbrev Memory.wf (m : List Host.Cell) : Prop := (tabWf m && noDefault m emptyByte) = true

/-- One byte of memory. -/
def readByte (m : List Host.Cell) (a : Nat) : Byte := tgetD m a emptyByte

/-- The cells a byte string makes at an address, unlisted bytes left out. -/
def cellsOf : Nat → Bytes → List Host.Cell
  | _, [] => []
  | a, b :: r => if b = emptyByte then cellsOf (a + 1) r else (a, b) :: cellsOf (a + 1) r

/-- The cells below an address. -/
def cellsBelow (m : List Host.Cell) (a : Nat) : List Host.Cell := m.filter (fun p => decide (p.1 < a))

/-- The cells from an address on. -/
def cellsFrom (m : List Host.Cell) (a : Nat) : List Host.Cell := m.filter (fun p => decide (a ≤ p.1))

/-- Replace the `n` bytes at `a` by cells that lie within them. -/
def replaceCells (m : List Host.Cell) (a n : Nat) (cs : List Host.Cell) : List Host.Cell :=
  cellsBelow m a ++ cs ++ cellsFrom m (a + n)

/-- Write a byte string at an address. -/
def writeBytes (m : List Host.Cell) (a : Nat) (bs : Bytes) : List Host.Cell :=
  replaceCells m a bs.length (cellsOf a bs)

/-- Make `n` bytes at `a` read as unlisted. -/
def zeroBytes (m : List Host.Cell) (a n : Nat) : List Host.Cell := replaceCells m a n []

/-- Read `n` bytes at an address. -/
def readBytes (m : List Host.Cell) (a : Nat) : Nat → Bytes
  | 0 => []
  | n + 1 => readByte m a :: readBytes m (a + 1) n

/-- Copy `n` bytes from `src` to `dst`, as cells (large copies never build a byte string). -/
def copyCells (m : List Host.Cell) (src dst n : Nat) : List Host.Cell :=
  replaceCells m dst n
    ((cellsBelow (cellsFrom m src) (src + n)).map (fun p => (p.1 - src + dst, p.2)))

/-- A little-endian number (R9). -/
def leNat : Bytes → Nat
  | [] => 0
  | b :: r => b.toNat + 256 * leNat r

/-- The low `n` bytes of a number, little-endian (R9). -/
def toLe : Nat → Nat → Bytes
  | 0, _ => []
  | n + 1, v => BitVec.ofNat 8 v :: toLe n (v / 256)

/-- Bits [hi:lo] of a number, as the spec writes bit ranges (R8), by lowest bit and width. -/
def bits (v lo width : Nat) : Nat := v / 2 ^ lo % 2 ^ width

/-- One bit of a number. -/
def bit (v n : Nat) : Bool := v / 2 ^ n % 2 == 1

/-- A number with bits [lo+width-1:lo] replaced. -/
def setBits (v lo width x : Nat) : Nat :=
  v - bits v lo width * 2 ^ lo + x % 2 ^ width * 2 ^ lo

/-- A value saturated at a maximum. -/
def sat (max v : Nat) : Nat := if v > max then max else v

/-- Division rounding up. -/
def ceilDiv (a b : Nat) : Nat := (a + b - 1) / b

/-- A truth value as a bit. -/
def b2n (b : Bool) : Nat := if b then 1 else 0

/-- A two's-complement reading of `w` bits. -/
def signed (w v : Nat) : Int := if v % 2 ^ w ≥ 2 ^ (w - 1) then ((v % 2 ^ w : Nat) : Int) - 2 ^ w else ((v % 2 ^ w : Nat) : Int)

/-- The `w`-bit two's-complement code of an integer. -/
def unsigned (w : Nat) (i : Int) : Nat := (i % (2 ^ w : Int)).toNat

/-- The first `some` of a list of checks: the first failing check in table order. -/
def firstFail : List (Nat × Bool) → Option Nat
  | [] => none
  | (r, bad) :: rest => if bad then some r else firstFail rest

/-- Update the first element that satisfies a test. -/
def updFirst {α : Type} (p : α → Bool) (f : α → α) : List α → List α
  | [] => []
  | x :: r => if p x then f x :: r else x :: updFirst p f r

/-- Remove the first element that satisfies a test. -/
def delFirst {α : Type} (p : α → Bool) : List α → List α
  | [] => []
  | x :: r => if p x then r else x :: delFirst p r

end Sys2Proof.Machine
end

