-- ==== Sys2Proof/Machine/Crypto.lean ====
section
/-! DEFINITION. The checksum and the ciphers that the spec names: CRC-32C (R380), AES-256 with its GCM and XTS modes
(R566, R569). -/

namespace Sys2Proof.Machine

open Sys2Proof

/-! ## CRC-32C -/

/-- One bit step of the reflected CRC with polynomial 0x1EDC_6F41, whose reflection is 0x82F6_3B78 (R380). -/
def crcBit (c : Nat) : Nat := if c % 2 = 1 then (c / 2) ^^^ 0x82F63B78 else c / 2

/-- Eight bit steps. -/
def crcByte (c b : Nat) : Nat :=
  crcBit (crcBit (crcBit (crcBit (crcBit (crcBit (crcBit (crcBit (c ^^^ b))))))))

/-- CRC-32C of a string of bytes (R380). -/
def crc32c (bs : Bytes) : Nat := (bs.foldl (fun c b => crcByte c b.toNat) 0xFFFFFFFF) ^^^ 0xFFFFFFFF

/-! ## AES-256 -/

/-- Doubling in the field of AES. -/
def xtime (a : Nat) : Nat := if a ≥ 128 then (2 * a % 256) ^^^ 0x1B else 2 * a

/-- The product in the field of AES, by the bits of the second factor; `fuel` counts them. -/
def gmulGo : Nat → Nat → Nat → Nat
  | 0, _, _ => 0
  | fuel + 1, a, b => (if b % 2 = 1 then a else 0) ^^^ gmulGo fuel (xtime a) (b / 2)

/-- The product in the field of AES. -/
def gmul (a b : Nat) : Nat := gmulGo 8 a b

/-- The inverse in the field of AES: the power 254. -/
def ginv (a : Nat) : Nat :=
  let a2 := gmul a a
  let a4 := gmul a2 a2
  let a8 := gmul a4 a4
  let a16 := gmul a8 a8
  let a32 := gmul a16 a16
  let a64 := gmul a32 a32
  let a128 := gmul a64 a64
  gmul a128 (gmul a64 (gmul a32 (gmul a16 (gmul a8 (gmul a4 a2)))))

/-- Rotation of a byte to the left. -/
def rotl8 (a n : Nat) : Nat := (a * 2 ^ n) % 256 + a / 2 ^ (8 - n)

/-- The substitution of AES. -/
def sbox (a : Nat) : Nat :=
  let b := ginv a
  b ^^^ rotl8 b 1 ^^^ rotl8 b 2 ^^^ rotl8 b 3 ^^^ rotl8 b 4 ^^^ 0x63

/-- The inverse substitution of AES. -/
def sboxInv (a : Nat) : Nat := ginv (rotl8 a 1 ^^^ rotl8 a 3 ^^^ rotl8 a 6 ^^^ 0x05)

/-- Byte-wise exclusive or. -/
def xorBytes (a b : List Nat) : List Nat := List.zipWith (· ^^^ ·) a b

/-- Round keys of AES-256 as 4-byte words, newest first; `fuel` counts the words still to make. -/
def expandKey : Nat → Nat → List (List Nat) → List (List Nat)
  | 0, _, ws => ws
  | fuel + 1, i, ws =>
    let last := ws.headD []
    let t :=
      if i % 8 = 0 then xorBytes ((last.drop 1 ++ last.take 1).map sbox) [gmulGo 8 1 (2 ^ (i / 8 - 1)), 0, 0, 0]
      else if i % 8 = 4 then last.map sbox
      else last
    expandKey fuel (i + 1) (xorBytes (ws.getD 7 []) t :: ws)

/-- Pieces of four. -/
def fours : List Nat → List (List Nat)
  | a :: b :: c :: d :: r => [a, b, c, d] :: fours r
  | _ => []

/-- The 15 round keys of 16 bytes. -/
def roundKeys (key : List Nat) : List (List Nat) :=
  let ws := (expandKey 52 8 (fours key).reverse).reverse
  (List.range 15).map (fun r => ((ws.drop (4 * r)).take 4).flatten)

/-- Row shift of the state, kept by columns. -/
def shiftRows (st : List Nat) : List Nat := (List.range 16).map (fun i => st.getD ((i + 4 * (i % 4)) % 16) 0)

/-- Inverse row shift. -/
def shiftRowsInv (st : List Nat) : List Nat := (List.range 16).map (fun i => st.getD ((i + 12 * (i % 4)) % 16) 0)

/-- A circulant of four factors applied to every column. -/
def mixWith (f : List Nat) (st : List Nat) : List Nat :=
  (List.range 16).map (fun i =>
    (List.range 4).foldl (fun acc k => acc ^^^ gmul (st.getD (i / 4 * 4 + k) 0) (f.getD ((k + 4 - i % 4) % 4) 0)) 0)

/-- AES-256 of one block (FIPS 197). -/
def aesEnc (key block : List Nat) : List Nat :=
  let ks := roundKeys key
  let st := xorBytes block (ks.getD 0 [])
  let st := (List.range 13).foldl (fun st r =>
    xorBytes (mixWith [2, 3, 1, 1] (shiftRows (st.map sbox))) (ks.getD (r + 1) [])) st
  xorBytes (shiftRows (st.map sbox)) (ks.getD 14 [])

/-- The inverse of AES-256 of one block (FIPS 197). -/
def aesDec (key block : List Nat) : List Nat :=
  let ks := roundKeys key
  let st := (shiftRowsInv (xorBytes block (ks.getD 14 []))).map sboxInv
  let st := (List.range 13).foldl (fun st r =>
    (shiftRowsInv (mixWith [14, 11, 13, 9] (xorBytes st (ks.getD (13 - r) [])))).map sboxInv) st
  xorBytes st (ks.getD 0 [])

/-- The value of bytes, first byte most significant. -/
def beNat (bs : List Nat) : Nat := bs.foldl (fun a b => a * 256 + b) 0

/-- `n` bytes of a value, first byte most significant. -/
def toBe (n v : Nat) : List Nat := (List.range n).map (fun i => v / 2 ^ (8 * (n - 1 - i)) % 256)

/-! ## AES-256-GCM (R566, R567) -/

/-- One step of the product in the field of GCM: the two running values, for the bit `i` of `x` from the left. -/
def ghStep (x : Nat) (zv : Nat × Nat) (i : Nat) : Nat × Nat :=
  (if bit x (127 - i) then zv.1 ^^^ zv.2 else zv.1,
   if zv.2 % 2 = 1 then (zv.2 / 2) ^^^ (0xE1 * 2 ^ 120) else zv.2 / 2)

/-- The product in the field of GCM. -/
def ghMul (x y : Nat) : Nat := ((List.range 128).foldl (ghStep x) (0, y)).1

/-- Pad to whole blocks of 16. -/
def padBlock (bs : List Nat) : List Nat := bs ++ List.replicate ((16 - bs.length % 16) % 16) 0

/-- GHASH of authenticated data and ciphertext. -/
def ghash (h : Nat) (aad ct : List Nat) : Nat :=
  (chunks16 (padBlock aad ++ padBlock ct ++ toBe 8 (8 * aad.length) ++ toBe 8 (8 * ct.length))).foldl
    (fun y b => ghMul (y ^^^ beNat b) h) 0
where
  /-- Whole blocks of 16; `fuel` bounds them by the length. -/
  go : Nat → List Nat → List (List Nat)
    | 0, _ => []
    | fuel + 1, l => if l.isEmpty then [] else l.take 16 :: go fuel (l.drop 16)
  /-- Whole blocks of 16. -/
  chunks16 (l : List Nat) : List (List Nat) := go l.length l

/-- The key stream of GCM. -/
def gcmStream (key nonce : List Nat) (n : Nat) : List Nat :=
  ((List.range ((n + 15) / 16)).flatMap (fun i => aesEnc key (nonce ++ toBe 4 (i + 2)))).take n

/-- The tag of GCM. -/
def gcmTag (key nonce aad ct : List Nat) : List Nat :=
  xorBytes (aesEnc key (nonce ++ [0, 0, 0, 1])) (toBe 16 (ghash (beNat (aesEnc key (List.replicate 16 0))) aad ct))

/-- AES-256-GCM: ciphertext and tag. -/
def gcmSeal (key nonce aad pt : List Nat) : List Nat :=
  let ct := xorBytes pt (gcmStream key nonce pt.length)
  ct ++ gcmTag key nonce aad ct

/-- AES-256-GCM: the plain bytes, where the tag holds. -/
def gcmOpen (key nonce aad data : List Nat) : Option (List Nat) :=
  if data.length < 16 then none
  else
    let ct := data.take (data.length - 16)
    if gcmTag key nonce aad ct = data.drop (data.length - 16) then some (xorBytes ct (gcmStream key nonce ct.length)) else none

/-! ## AES-256-XTS (R569) -/

/-- Doubling of the tweak, held little-endian. -/
def tweakNext (t : Nat) : Nat := if t ≥ 2 ^ 127 then (2 * t % 2 ^ 128) ^^^ 0x87 else 2 * t

/-- The bytes of a value, lowest first. -/
def leList (n v : Nat) : List Nat := (List.range n).map (fun i => v / 2 ^ (8 * i) % 256)

/-- Blocks of one data unit under a block function and a running tweak; `fuel` bounds the blocks. -/
def xtsGo (f : List Nat → List Nat) : Nat → Nat → List Nat → List Nat
  | 0, _, _ => []
  | fuel + 1, t, l =>
    if l.isEmpty then []
    else xorBytes (f (xorBytes (l.take 16) (leList 16 t))) (leList 16 t) ++ xtsGo f fuel (tweakNext t) (l.drop 16)

/-- One data unit of AES-256-XTS with the key pair `k1`, `k2` and a tweak value. -/
def xtsUnit (enc : Bool) (k1 k2 : List Nat) (tweak : Nat) (l : List Nat) : List Nat :=
  let t := (aesEnc k2 (leList 16 tweak)).reverse.foldl (fun a b => a * 256 + b) 0
  xtsGo (if enc then aesEnc k1 else aesDec k1) (l.length / 16 + 1) t l

/-- The bytes of a string as numbers. -/
def natsOf (bs : Bytes) : List Nat := bs.map (·.toNat)

/-- Numbers as bytes. -/
def bytesOf (l : List Nat) : Bytes := l.map (BitVec.ofNat 8)

end Sys2Proof.Machine
end

