-- ==== Sys2Proof/Machine/Flags.lean ====
section
/-! DEFINITION. Completion status codes, their kinds, and the choice among the ends of micro-commands (R72, R606). -/

namespace Sys2Proof.Machine

open Sys2Proof

/-- Kind of a status code: success, informational, fault (R72, R606). -/
inductive Kind where
  | success
  | info
  | fault
  deriving DecidableEq, Repr

/-- The kind of a status code (R606). -/
def statusKind (st : Nat) : Kind :=
  if st = 0 then .success
  else if st < 0x10 ∨ (0x30 ≤ st ∧ st < 0x40) then .info
  else .fault

/-- A header signal is applied only on DONE or informational (R85). -/
def signals (st : Nat) : Bool := statusKind st != .fault

/-- Status codes of R606. -/
def DONE : Nat := 0x00
def DONE_LATE_ADDED : Nat := 0x01
def DONE_PARTIAL : Nat := 0x02
def MB_DROPPED : Nat := 0x03
def FAULT_TRANSLATION : Nat := 0x10
def FAULT_PROTECTION : Nat := 0x11
def FAULT_POISON : Nat := 0x12
def LAYOUT_STALE : Nat := 0x20
def WEIGHT_VERSION_MISMATCH : Nat := 0x21
def SEQ_PREEMPTED : Nat := 0x22
def ENTRY_STALE : Nat := 0x23
def PINNED : Nat := 0x24
def TIER_ERROR : Nat := 0x25
def SETTLING : Nat := 0x26
def TIER_FULL : Nat := 0x27
def OBJ_ABSENT : Nat := 0x28
def GEN_ABSENT : Nat := 0x29
def FORMAT_ESCALATED : Nat := 0x30
def CHECK_DISAGREE : Nat := 0x31
def FENCED : Nat := 0x40
def LINK_LOST : Nat := 0x41
def CONFLICT : Nat := 0x50
def ABORTED_BY_HOST : Nat := 0x60
def CANCELLED : Nat := 0x61
def FROZEN : Nat := 0x62
def INTERNAL : Nat := 0xFF

/-- Error-ring codes of R609. -/
def DB_FORMAT : Nat := 0x0001
def NOT_OWNED : Nat := 0x0002
def DB_DISABLED : Nat := 0x0003
def DB_RANGE : Nat := 0x0004
def FETCH_FAIL : Nat := 0x0005
def CFG_WHILE_ENABLED : Nat := 0x0006
def ENABLE_REFUSED : Nat := 0x0007
def SEALED_WRITE : Nat := 0x0008
def WINDOW_FENCED : Nat := 0x0009
def BAR4_RANGE : Nat := 0x000A
def CPL_LOST : Nat := 0x000B
def HEAD_RANGE : Nat := 0x000C
def VF_ORDER : Nat := 0x000D
def CLK_REFUSED : Nat := 0x000E
def FROZEN_BY_NOTICE : Nat := 0x000F
def SNAP_LAYER_FAIL : Nat := 0x0010
def TEST_DENIED : Nat := 0x0011
def SETUP_FORMAT : Nat := 0x0012

end Sys2Proof.Machine
end

