-- ==== Sys2Proof/Config.lean ====
section
/-! DEFINITION. What an implementation fixes and the spec leaves open: free values, constants without a body, so that
no proof can see what they are (log entry 6). -/

namespace Sys2Proof.Config

/-- A fresh byte the spec leaves open, by the counter of free values. -/
opaque freeByte : Nat → Byte

/-- A fresh 32-bit value the spec leaves open, by the counter of free values. -/
opaque freeWord : Nat → Word

/-- The device secret in the fuses of F0 (16) or F4 (20), which no interface reads (R563). -/
opaque deviceSecret : Nat → Bytes

/-- The DeviceID public key that the boot ROM derives from a device secret alone (R563). -/
opaque deviceIdKey : Bytes → Bytes

/-- The Alias public key that the boot ROM derives from a device secret and the digest of the management firmware (R563). -/
opaque aliasKey : Bytes → Bytes → Bytes

/-- The DeviceID certificate of a DeviceID key, which Kealek signed at manufacture, with the chain from its root (R563, R564). -/
opaque deviceCert : Bytes → Bytes

/-- The Alias certificate that the DeviceID key of a secret issues for an Alias key; the counter of free values makes it fresh (R563). -/
opaque aliasCert : Bytes → Bytes → Nat → Bytes

/-- What an SPDM answer holds beside what the module's state gives (R564): session, message, and the Alias key that signs. -/
opaque spdmAnswer : Nat → Bytes → Bytes → Bytes

/-- A measured sensor value that no command reported (R557): sensor number and the counter of free values. -/
opaque sensorValue : Nat → Nat → Word

end Sys2Proof.Config
end

