-- ==== Sys2Proof/Machine/Num.lean ====
section
/-! DEFINITION. Numbers: element encodings, exact values, the one rounding of R169, window sums, the random unit
(R121, R164-R178). Codes are naturals; exact values are fractions with a power of two. -/

namespace Sys2Proof.Machine

/-- An exact rational `n / d * 2^e` (`d` is 1 but for means and other quotients). -/
structure Ex where
  n : Int
  d : Nat
  e : Int
  deriving DecidableEq, Repr

/-- What a code stands for. The sign of a zero is kept. -/
inductive Val where
  | nan
  | inf (neg : Bool)
  | fin (neg : Bool) (x : Ex)
  deriving DecidableEq, Repr

/-- Exact zero. -/
def exZero : Ex := ⟨0, 1, 0⟩

/-- Power of two of an integer exponent, as numerator and denominator. -/
def pow2Pair (e : Int) : Nat × Nat := if e ≥ 0 then (2 ^ e.toNat, 1) else (1, 2 ^ (-e).toNat)

/-- Exact product. -/
def exMul (x y : Ex) : Ex := ⟨x.n * y.n, x.d * y.d, x.e + y.e⟩

/-- Exact sum. -/
def exAdd (x y : Ex) : Ex :=
  if x.n = 0 then y
  else if y.n = 0 then x
  else
    let e := if x.e ≤ y.e then x.e else y.e
    let a := x.n * (2 ^ (x.e - e).toNat : Nat)
    let b := y.n * (2 ^ (y.e - e).toNat : Nat)
    if x.d = y.d then ⟨a + b, x.d, e⟩ else ⟨a * y.d + b * x.d, x.d * y.d, e⟩

/-- Exact negation. -/
def exNeg (x : Ex) : Ex := ⟨-x.n, x.d, x.e⟩

/-- Exact magnitude. -/
def exAbs (x : Ex) : Ex := ⟨(x.n.natAbs : Int), x.d, x.e⟩

/-- Exact quotient by a positive natural. -/
def exDiv (x : Ex) (k : Nat) : Ex := ⟨x.n, x.d * k, x.e⟩

/-- Exact scaling by a power of two. -/
def exScale (x : Ex) (k : Int) : Ex := ⟨x.n, x.d, x.e + k⟩

/-- An integer as an exact value. -/
def exInt (i : Int) : Ex := ⟨i, 1, 0⟩

/-- Exact order: is `x < y`. -/
def exLt (x y : Ex) : Bool := decide ((exAdd x (exNeg y)).n < 0)

/-- Exact order: is `x ≤ y`. -/
def exLe (x y : Ex) : Bool := !exLt y x

/-- The larger of two. -/
def exMax (x y : Ex) : Ex := if exLt x y then y else x

/-- The exponent of the leading bit of a positive fraction. -/
def floorLog2 (n d : Nat) : Int :=
  let k : Int := (Nat.log2 n : Int) - (Nat.log2 d : Int)
  let (p, q) := pow2Pair k
  if n * q < d * p then k - 1 else k

/-- `e(x)` of R141: the exponent of the leading bit of a nonzero value. -/
def exLog2 (x : Ex) : Int := floorLog2 x.n.natAbs x.d + x.e

/-- The magnitude in steps of `2^k`: whole steps, and the remainder over its denominator. -/
def exSteps (x : Ex) (k : Int) : Nat × Nat × Nat :=
  let (p, q) := pow2Pair (x.e - k)
  let num := x.n.natAbs * p
  let den := x.d * q
  (num / den, num % den, den)

/-- Truncation toward zero to a multiple of `2^k`. -/
def exTrunc (x : Ex) (k : Int) : Ex :=
  let (w, _, _) := exSteps x k
  ⟨if x.n < 0 then -(w : Int) else (w : Int), 1, k⟩

/-- Rounding direction of one element (R169): to nearest even, or stochastic with the element's word. -/
inductive RMode where
  | rne
  | sr (u : Nat)
  deriving DecidableEq, Repr

/-- The rounding decision of R169 between `w` and `w + 1` for the fraction `r / d`. -/
def roundSteps (mode : RMode) (w r d : Nat) : Nat :=
  match mode with
  | .rne => if 2 * r < d then w else if 2 * r > d then w + 1 else if w % 2 = 0 then w else w + 1
  | .sr u => if u < r * 2 ^ 32 / d then w + 1 else w

/-- A floating-point element format (R164): fraction bits, exponent bits, bias, the largest finite code, whether it
has infinities, and the NaN code that conversions write (R167; 0: none). -/
structure FloatFmt where
  m : Nat
  ebits : Nat
  bias : Int
  maxCode : Nat
  hasInf : Bool
  nan : Nat
  deriving DecidableEq, Repr

/-- The floating-point layout of a format code (R48, R164). -/
def floatFmt (fmt : Nat) : Option FloatFmt :=
  match fmt with
  | 0x01 => some ⟨3, 4, 7, 0x7E, false, 0x7F⟩
  | 0x08 => some ⟨3, 4, 7, 0x7E, false, 0x7F⟩
  | 0x02 => some ⟨2, 5, 15, 0x7B, true, 0x7F⟩
  | 0x09 => some ⟨2, 5, 15, 0x7B, true, 0x7F⟩
  | 0x0A => some ⟨3, 2, 1, 0x1F, false, 0⟩
  | 0x0B => some ⟨2, 3, 3, 0x1F, false, 0⟩
  | 0x0C => some ⟨1, 2, 1, 0x7, false, 0⟩
  | 0x03 => some ⟨7, 8, 127, 0x7F7F, true, 0x7FC0⟩
  | 0x04 => some ⟨23, 8, 127, 0x7F7FFFFF, true, 0x7FC00000⟩
  | 0x05 => some ⟨52, 11, 1023, 0x7FEFFFFFFFFFFFFF, true, 0x7FF8000000000000⟩
  | _ => none

/-- Bits of one element (R48). -/
def fmtBits (fmt : Nat) : Nat :=
  match fmt with
  | 0x01 | 0x02 | 0x06 | 0x08 | 0x09 | 0x10 => 8
  | 0x03 | 0x12 => 16
  | 0x04 | 0x07 | 0x20 => 32
  | 0x05 | 0x11 => 64
  | 0x0A | 0x0B => 6
  | 0x0C => 4
  | _ => 0

/-- Whether a format code is one of R48. -/
def fmtKnown (fmt : Nat) : Bool := fmtBits fmt ≠ 0

/-- Whether a format has block scales (R48). -/
def isBlock (fmt : Nat) : Bool := 0x08 ≤ fmt && fmt ≤ 0x0C

/-- Block size of a block size code (R47); 0: none. -/
def blockSize (code : Nat) : Nat :=
  match code with
  | 1 => 16
  | 2 => 32
  | 3 => 64
  | 4 => 128
  | _ => 0

/-- A block size code suits its format (R48). -/
def blkSuits (fmt code : Nat) : Bool := if isBlock fmt then 1 ≤ code && code ≤ 4 else code == 0

/-- The magnitude a finite magnitude code stands for. -/
def fmtMag (f : FloatFmt) (code : Nat) : Ex :=
  let ef := code / 2 ^ f.m % 2 ^ f.ebits
  let mf := code % 2 ^ f.m
  if ef = 0 then ⟨mf, 1, 1 - f.bias - f.m⟩ else ⟨(2 ^ f.m + mf : Nat), 1, (ef : Int) - f.bias - f.m⟩

/-- The value of a floating-point code (R164). -/
def floatVal (f : FloatFmt) (code : Nat) : Val :=
  let w := f.m + f.ebits
  let neg := bit code w
  let mag := code % 2 ^ w
  if mag ≤ f.maxCode then
    let x := fmtMag f mag
    .fin neg (if neg then exNeg x else x)
  else if f.hasInf && mag % 2 ^ f.m == 0 then .inf neg
  else .nan

/-- The value of an element code of any format (R164, R166). Integers are two's complement. -/
def elemVal (fmt code : Nat) : Val :=
  match floatFmt fmt with
  | some f => floatVal f code
  | none =>
    let i : Int := if fmt = 0x20 then (code : Int) else signed (fmtBits fmt) code
    .fin (decide (i < 0)) (exInt i)

/-- What a rounding gives: the code, whether it left the range, whether a nonzero value became zero. -/
structure Rounded where
  code : Nat
  isOver : Bool
  isUnder : Bool
  deriving DecidableEq, Repr

/-- Round a finite exact value on the target's grid (R169). `isOver` says the rounded magnitude lies above the largest
finite one; the code is then the largest finite one of the sign. -/
def roundFin (f : FloatFmt) (mode : RMode) (neg : Bool) (x : Ex) : Rounded :=
  let sgn := if neg then 2 ^ (f.m + f.ebits) else 0
  if x.n = 0 then ⟨sgn, false, false⟩
  else
    let emin : Int := 1 - f.bias
    let top : Int := (f.maxCode / 2 ^ f.m : Nat) - f.bias
    let b := exLog2 x
    let b := if b < emin then emin else if b > top then top else b
    let (w, r, d) := exSteps x (b - f.m)
    let w := roundSteps mode w r d
    let code :=
      if w < 2 ^ f.m then w
      else
        let (w, b) := if w = 2 ^ (f.m + 1) && b < top then (2 ^ f.m, b + 1) else (w, b)
        if w ≥ 2 ^ (f.m + 1) then f.maxCode + 1
        else (b + f.bias).toNat * 2 ^ f.m + (w - 2 ^ f.m)
    if code > f.maxCode then ⟨sgn + f.maxCode, true, false⟩
    else ⟨sgn + code, false, w = 0⟩

/-- The sign an exact value has. -/
def exNegative (x : Ex) : Bool := decide (x.n < 0)

/-- Round to IEEE 754 binary32 to nearest even; above the maximum becomes infinity (R122). An exact zero is +0. -/
def toF32 (x : Ex) : Nat :=
  let r := roundFin ⟨23, 8, 127, 0x7F7FFFFF, true, 0x7FC00000⟩ .rne (exNegative x) x
  if r.isOver then r.code + 1 else r.code

/-- Whether rounding to binary32 overflows. -/
def f32Over (x : Ex) : Bool :=
  (roundFin ⟨23, 8, 127, 0x7F7FFFFF, true, 0x7FC00000⟩ .rne (exNegative x) x).isOver

/-- Canonical NaN of binary32 (R124, R167). -/
def nan32 : Nat := 0x7FC00000

/-- Infinity of binary32. -/
def inf32 (neg : Bool) : Nat := if neg then 0xFF800000 else 0x7F800000

/-- The value of a binary32 code. -/
def val32 (c : Nat) : Val := elemVal 0x04 c

/-- A value rounded to nearest even into a floating format, infinities and overflow as infinities (R122, R146, R162). -/
def ieeeRound (fmt : Nat) (v : Val) : Nat :=
  match floatFmt fmt with
  | none => 0
  | some f =>
    let top := 2 ^ (f.m + f.ebits)
    let inf := (2 ^ f.ebits - 1) * 2 ^ f.m
    match v with
    | .nan => f.nan
    | .inf neg => (if neg then top else 0) + inf
    | .fin neg x =>
      let r := roundFin f .rne neg x
      if r.isOver then (if neg then top else 0) + inf else r.code

/-- IEEE 754 addition of values; an exact zero of unlike signs is +0. -/
def vadd : Val → Val → Val
  | .nan, _ => .nan
  | _, .nan => .nan
  | .inf a, .inf b => if a = b then .inf a else .nan
  | .inf a, _ => .inf a
  | _, .inf b => .inf b
  | .fin a x, .fin b y =>
    let z := exAdd x y
    if z.n = 0 then .fin (a && b) exZero else .fin (exNegative z) z

/-- IEEE 754 multiplication of values. -/
def vmul : Val → Val → Val
  | .nan, _ => .nan
  | _, .nan => .nan
  | .inf a, .inf b => .inf (a != b)
  | .inf a, .fin b y => if y.n = 0 then .nan else .inf (a != b)
  | .fin a x, .inf b => if x.n = 0 then .nan else .inf (a != b)
  | .fin a x, .fin b y => .fin (a != b) (exMul x y)

/-- Negation of a value. -/
def vneg : Val → Val
  | .nan => .nan
  | .inf a => .inf (!a)
  | .fin a x => .fin (!a) (exNeg x)

/-- IEEE 754 binary32 addition of codes, round to nearest even (R123). -/
def add32 (a b : Nat) : Nat := ieeeRound 0x04 (vadd (val32 a) (val32 b))

/-- IEEE 754 binary32 multiplication of codes, round to nearest even. -/
def mul32 (a b : Nat) : Nat := ieeeRound 0x04 (vmul (val32 a) (val32 b))

/-- Whether a binary32 code is a NaN. -/
def isNan32 (c : Nat) : Bool := val32 c == .nan

/-- Whether a binary32 code is finite. -/
def isFin32 (c : Nat) : Bool := match val32 c with
  | .fin _ _ => true
  | _ => false

/-- Whether a value is an infinity. -/
def isInfV : Val → Bool
  | .inf _ => true
  | _ => false

/-- Exact sum of a list. -/
def exSum (l : List Ex) : Ex := l.foldl exAdd exZero

/-- The largest leading exponent of the nonzero values of a list. -/
def maxLog2 (l : List Ex) : Option Int :=
  l.foldl (fun acc x =>
    if x.n = 0 then acc
    else match acc with
      | none => some (exLog2 x)
      | some m => some (if exLog2 x > m then exLog2 x else m)) none

/-- The window sum of R121. -/
def windowSum (l : List Ex) : Ex :=
  match maxLog2 l with
  | none => exZero
  | some e => exSum (l.map (fun x => exTrunc x (e - 63)))

/-- The special outcome of a list of values: NaN, an infinity, or none (R124). -/
def specialOf (l : List Val) : Option Val :=
  let nan := l.any (fun v => v == .nan)
  let p := l.any (fun v => v == .inf false)
  let n := l.any (fun v => v == .inf true)
  if nan || (p && n) then some .nan
  else if p then some (.inf false)
  else if n then some (.inf true)
  else none

/-- The exact part of a finite value. -/
def finPart : Val → Ex
  | .fin _ x => x
  | _ => exZero

/-! ## The random unit (R176-R178) -/

/-- One Philox round over counter and key words. -/
def philoxRound (c : Nat × Nat × Nat × Nat) (k0 k1 : Nat) : Nat × Nat × Nat × Nat :=
  let (c0, c1, c2, c3) := c
  let p := 0xD2511F53 * c0
  let q := 0xCD9E8D57 * c2
  (Nat.xor (Nat.xor (q / 2 ^ 32) c1) k0, q % 2 ^ 32, Nat.xor (Nat.xor (p / 2 ^ 32) c3) k1, p % 2 ^ 32)

/-- `n` Philox rounds with the key schedule. -/
def philoxRounds : Nat → Nat × Nat × Nat × Nat → Nat → Nat → Nat × Nat × Nat × Nat
  | 0, c, _, _ => c
  | n + 1, c, k0, k1 =>
    philoxRounds n (philoxRound c k0 k1) ((k0 + 0x9E3779B9) % 2 ^ 32) ((k1 + 0xBB67AE85) % 2 ^ 32)

/-- Philox4x32-10 (R176). -/
def philox (c0 c1 c2 c3 k0 k1 : Nat) : Nat × Nat × Nat × Nat := philoxRounds 10 (c0, c1, c2, c3) k0 k1

/-- A random stream (R177, R179): seed, epoch, whether op 0 has written it since reset. -/
structure RStream where
  seed : Nat
  epoch : Nat
  isSet : Bool
  deriving DecidableEq, Repr

/-- A random stream that has never been written (R179). -/
def RStream.reset : RStream := ⟨0, 0, false⟩

/-- The counting tile of element (i, j) of a destination of `q` columns (R178). -/
def countTile (q i j : Nat) : Nat := ((i / 128) * ceilDiv q 512 + j / 512) % 2 ^ 32

/-- The word of element (i, j): `drop` takes the dropout key, otherwise the rounding key (R177, R178). -/
def elemWord (st : RStream) (drop : Bool) (tensor q i j : Nat) : Nat :=
  let e := (i % 128) * 512 + j % 512
  let k0 := st.seed % 2 ^ 32
  let k1 := Nat.xor (st.seed / 2 ^ 32 % 2 ^ 32) (b2n drop)
  let (w0, w1, w2, w3) := philox (e / 4) (countTile q i j) tensor st.epoch k0 k1
  match e % 4 with
  | 0 => w0
  | 1 => w1
  | 2 => w2
  | _ => w3

/-! ## Conversions (R168-R175) -/

/-- What one written element reports: NaN written, saturated or overflowed, underflowed, scale clamped (R188). -/
structure ConvFlags where
  nan : Nat
  sat : Nat
  isUnder : Nat
  scale : Bool
  clamped : Bool
  deriving DecidableEq, Repr

/-- No event. -/
def ConvFlags.none : ConvFlags := ⟨0, 0, 0, false, false⟩

/-- Events of two parts of a conversion together. -/
def convJoin (a b : ConvFlags) : ConvFlags :=
  ⟨a.nan + b.nan, a.sat + b.sat, a.isUnder + b.isUnder, a.scale || b.scale, a.clamped || b.clamped⟩

/-- The clamp of R175 on one value; `none`: no clamp. -/
def clampVal (c : Option Ex) (v : Val) : Val × Bool :=
  match c, v with
  | some c, .fin neg x =>
    if exLt c x then (.fin false c, true)
    else if exLt x (exNeg c) then (.fin true (exNeg c), true)
    else (.fin neg x, false)
  | _, v => (v, false)

/-- The clamp an FP32 clamp code stands for: zero means none (R175). -/
def clampOf (code : Nat) : Option Ex :=
  match val32 code with
  | .fin false x => if x.n = 0 then none else some x
  | _ => none

/-- Convert one value to a format without block scales (R171, R172). -/
def convPlain (fmt : Nat) (satBit : Bool) (mode : RMode) (v : Val) : Nat × ConvFlags :=
  match floatFmt fmt with
  | some f =>
    let sgn (neg : Bool) := if neg then 2 ^ (f.m + f.ebits) else 0
    let inf := (2 ^ f.ebits - 1) * 2 ^ f.m
    let fp8 := fmt = 0x01 ∨ fmt = 0x02
    match v with
    | .nan => (f.nan, ⟨1, 0, 0, false, false⟩)
    | .inf neg =>
      if f.hasInf then (sgn neg + inf, ConvFlags.none)
      else if satBit then (sgn neg + f.maxCode, ⟨0, 1, 0, false, false⟩)
      else (f.nan, ⟨1, 0, 0, false, false⟩)
    | .fin neg x =>
      let r := roundFin f mode neg x
      if r.isOver then
        if fp8 ∧ satBit then (r.code, ⟨0, 1, 0, false, false⟩)
        else if f.hasInf then (sgn neg + inf, ⟨0, 1, 0, false, false⟩)
        else (f.nan, ⟨1, 1, 0, false, false⟩)
      else (r.code, ⟨0, 0, b2n r.isUnder, false, false⟩)
  | none =>
    let w := fmtBits fmt
    let top := if fmt = 0x06 then 127 else 2 ^ 31 - 1
    match v with
    | .nan => (0, ConvFlags.none)
    | .inf neg => (unsigned w (if neg then -(top : Int) else top), ⟨0, 1, 0, false, false⟩)
    | .fin neg x =>
      let (q, r, d) := exSteps x 0
      let q := roundSteps mode q r d
      let o := decide (q > top)
      let q := if o then top else q
      (unsigned w (if neg then -(q : Int) else q), ⟨0, b2n o, b2n (decide (q = 0) && x.n != 0), false, false⟩)

/-- The exponent of the largest finite element of a block format (R174). -/
def blockEmax (fmt : Nat) : Int :=
  match fmt with
  | 0x08 => 8
  | 0x09 => 15
  | 0x0A => 2
  | 0x0B => 4
  | _ => 2

/-- The scale code of a block (R174), before the clamp to 0-254: from the largest finite magnitude. -/
def blockScale (fmt : Nat) (amax : Ex) : Int :=
  if amax.n = 0 then 127
  else
    match floatFmt fmt with
    | none => 127
    | some f =>
      let x := exLog2 amax - blockEmax fmt + 127
      if exLt (fmtMag f f.maxCode) (exScale amax (127 - x)) then x + 1 else x

/-- Convert one block (R173, R174): element codes, scale code, events. The modes give each element's rounding. -/
def convBlock (fmt : Nat) (satBit : Bool) (vs : List (Val × RMode)) : List Nat × Nat × ConvFlags :=
  match floatFmt fmt with
  | none => (vs.map (fun _ => 0), 0, ConvFlags.none)
  | some f =>
    let nanBlock : List Nat × Nat × ConvFlags := (vs.map (fun _ => 0), 0xFF, ⟨vs.length, 0, 0, true, false⟩)
    if vs.any (fun p => p.1 == .nan) then nanBlock
    else if vs.any (fun p => isInfV p.1) && fmt != 0x09 && !satBit then nanBlock
    else
      let amax := vs.foldl (fun m p => exMax m (exAbs (finPart p.1))) exZero
      let x := blockScale fmt amax
      if x > 254 ∧ ¬ satBit then nanBlock
      else
        let sc : Int := if x < 0 then 0 else if x > 254 then 254 else x
        let hit := decide (x < 0) || decide (x > 254)
        let one (p : Val × RMode) : Nat × ConvFlags :=
          match p.1 with
          | .inf neg =>
            if f.hasInf then ((if neg then 2 ^ (f.m + f.ebits) else 0) + (2 ^ f.ebits - 1) * 2 ^ f.m, ConvFlags.none)
            else ((if neg then 2 ^ (f.m + f.ebits) else 0) + f.maxCode, ⟨0, 1, 0, false, false⟩)
          | .fin neg y =>
            let r := roundFin f p.2 neg (exScale y (127 - sc))
            (r.code, ⟨0, b2n r.isOver, b2n r.isUnder, false, false⟩)
          | .nan => (0, ConvFlags.none)
        let rs := vs.map one
        (rs.map (·.1), sc.toNat,
          rs.foldl (fun a r => convJoin a r.2) ⟨0, 0, 0, hit, false⟩)

/-- A block element's value: the element times its scale; a 0xFF scale makes it NaN (R166). -/
def scaledVal (fmt code scale : Nat) : Val :=
  if scale = 0xFF then .nan
  else match elemVal fmt code with
    | .fin neg x => .fin neg (exScale x ((scale : Int) - 127))
    | v => v

/-! ## Rows in memory (R127, R165) -/

/-- Bytes the packed elements of a row take (R165: FP6 in groups of four). -/
def packedBytes (fmt cols : Nat) : Nat :=
  match fmtBits fmt with
  | 6 => ceilDiv cols 4 * 3
  | 4 => ceilDiv cols 2
  | b => cols * (b / 8)

/-- Bytes of a stored row: elements, then one scale byte for each block (R127). -/
def rowBytes (fmt blk cols : Nat) : Nat :=
  packedBytes fmt cols + (if isBlock fmt then ceilDiv cols (blockSize blk) else 0)

/-- Element code `j` of a packed row. -/
def elemCode (fmt : Nat) (row : Bytes) (j : Nat) : Nat :=
  match fmtBits fmt with
  | 6 => leNat ((row.drop (j / 4 * 3)).take 3) / 2 ^ (6 * (j % 4)) % 64
  | 4 => leNat ((row.drop (j / 2)).take 1) / 2 ^ (4 * (j % 2)) % 16
  | b => leNat ((row.drop (j * (b / 8))).take (b / 8))

/-- The scale code of the block that holds element `j`. -/
def scaleCode (fmt blk cols : Nat) (row : Bytes) (j : Nat) : Nat :=
  leNat ((row.drop (packedBytes fmt cols + j / blockSize blk)).take 1)

/-- The value of element `j` of a stored row. -/
def rowVal (fmt blk cols : Nat) (row : Bytes) (j : Nat) : Val :=
  if isBlock fmt then scaledVal fmt (elemCode fmt row j) (scaleCode fmt blk cols row j)
  else elemVal fmt (elemCode fmt row j)

/-- Split a list into chunks of `n`; `fuel` bounds their number. -/
def chunks {α : Type} : Nat → Nat → List α → List (List α)
  | 0, _, _ => []
  | fuel + 1, n, l => if l.isEmpty then [] else l.take n :: chunks fuel n (l.drop n)

/-- Pack element codes into a row (R165). -/
def packRow (fmt : Nat) (cs : List Nat) : Bytes :=
  match fmtBits fmt with
  | 6 => (chunks cs.length 4 cs).flatMap (fun g =>
      toLe 3 (g.getD 0 0 + g.getD 1 0 * 2 ^ 6 + g.getD 2 0 * 2 ^ 12 + g.getD 3 0 * 2 ^ 18))
  | 4 => (chunks cs.length 2 cs).flatMap (fun g => toLe 1 (g.getD 0 0 + g.getD 1 0 * 16))
  | b => cs.flatMap (fun c => toLe (b / 8) c)

/-- Convert a whole row of values into a stored row of the target format (R168-R175). -/
def convRow (fmt blk : Nat) (satBit : Bool) (vs : List (Val × RMode)) : Bytes × ConvFlags :=
  if isBlock fmt then
    let bs := (chunks vs.length (blockSize blk) vs).map (convBlock fmt satBit)
    (packRow fmt (bs.flatMap (·.1)) ++ bs.flatMap (fun b => toLe 1 b.2.1),
      bs.foldl (fun a b => convJoin a b.2.2) ConvFlags.none)
  else
    let rs := vs.map (fun p => convPlain fmt satBit p.2 p.1)
    (packRow fmt (rs.map (·.1)), rs.foldl (fun a r => convJoin a r.2) ConvFlags.none)

/-- The written step of the escalation ladder (R201): role 1 is gradient. -/
def ladder (role fmt level : Nat) : Nat :=
  let walk (l : List Nat) : Nat :=
    match l.findIdx? (· == fmt) with
    | none => fmt
    | some i => l.getD (if i + level < l.length then i + level else l.length - 1) fmt
  let fwd := [0x0C, 0x0A, 0x08, 0x03]
  let grad := [0x0C, 0x0B, 0x09, 0x03]
  if fmt = 0x0A ∨ fmt = 0x08 then walk fwd
  else if fmt = 0x0B ∨ fmt = 0x09 then walk grad
  else if fmt = 0x0C then (if role = 1 then walk grad else walk fwd)
  else if fmt = 0x01 ∨ fmt = 0x02 then (if level = 0 then fmt else 0x03)
  else fmt

/-- The default disagreement threshold of a written format (R197). -/
def defaultTau (fmt : Nat) : Nat :=
  match fmt with
  | 0x01 | 0x08 | 0x0A => 3
  | 0x02 | 0x09 | 0x0B => 2
  | 0x0C => 1
  | _ => 7

/-- Whether a conversion to this format is sampled (R197). -/
def sampledFmt (fmt : Nat) : Bool := fmt == 0x01 || fmt == 0x02 || fmt == 0x03 || isBlock fmt

/-- Whether a conversion sample disagrees (R196): pairs of exact value after the clamp and value written. -/
def sampleDisagrees (tau : Nat) (ps : List (Val × Val)) : Bool :=
  let fins := ps.filter (fun p => match p.1 with
    | .fin _ _ => true
    | _ => false)
  fins.any (fun p => match p.2 with
    | .fin _ _ => false
    | _ => true) ||
  exLt (exScale (windowSum (fins.map (fun p => exAbs (finPart p.1)))) (-(tau : Int)))
    (windowSum (fins.map (fun p => exAbs (exAdd (finPart p.2) (exNeg (finPart p.1))))))

end Sys2Proof.Machine
end

