-- ==== Sys2Proof/Machine/Regs.lean ====
section
/-! DEFINITION. Every field of every setup register, as the register tables of spec/ give it (R25, R66, R80, R97,
R105, R106, R140, R163, R206, R207, R250, R281, R312, R313, R350, R351, R375, R376, R413-R416, R451, R456, R457,
R491, R492, R508, R509, R545-R547, R572, R573, R586, R587): offset, stride, count, lowest bit, width, reset value,
access code and the dies that hold it. -/

namespace Sys2Proof.Machine

/-- Access codes of R13. -/
inductive Acc where
  | rw | ro | wo | w1c | rws | rwl
  deriving DecidableEq, Repr

/-- Which dies hold a register (R598-R602): compute, fabric, memory, the F0 block mirrored on F4, or every die. -/
inductive Blk where
  | comp | fab | mem | f04 | all
  deriving DecidableEq, Repr

/-- One field of a register table: the offset of instance 0, the distance between instances, their number, the lowest
bit, the width, the reset value, and how the reset value depends on the die (0: it does not). -/
structure Fld where
  off : Nat
  stride : Nat
  count : Nat
  lo : Nat
  width : Nat
  reset : Nat
  special : Nat
  acc : Acc
  blk : Blk
  deriving DecidableEq, Repr

namespace F

/-- HST_DIE_ID.DIE_INDEX [7:0] (R25). -/
def HST_DIE_ID_DIE_INDEX : Fld := ⟨0x00_0000, 0, 1, 0, 8, 0x0, 1, .ro, .all⟩
/-- HST_DIE_ID.DIE_TYPE [11:8] (R25). -/
def HST_DIE_ID_DIE_TYPE : Fld := ⟨0x00_0000, 0, 1, 8, 4, 0x0, 2, .ro, .all⟩
/-- HST_DIE_ID.STEP_LETTER [15:12] (R25). -/
def HST_DIE_ID_STEP_LETTER : Fld := ⟨0x00_0000, 0, 1, 12, 4, 0x1, 0, .ro, .all⟩
/-- HST_DIE_ID.STEP_DIGIT [19:16] (R25). -/
def HST_DIE_ID_STEP_DIGIT : Fld := ⟨0x00_0000, 0, 1, 16, 4, 0x1, 0, .ro, .all⟩
/-- MGT_MOD_ID.BUILD [1:0] (R25). -/
def MGT_MOD_ID_BUILD : Fld := ⟨0x00_0010, 0, 1, 0, 2, 0x1, 0, .ro, .f04⟩
/-- MGT_MOD_ID.FAR_DEV [15:8] (R25). -/
def MGT_MOD_ID_FAR_DEV : Fld := ⟨0x00_0010, 0, 1, 8, 8, 0x40, 0, .ro, .f04⟩
/-- MGT_MOD_ID.FLASH_CH [23:16] (R25). -/
def MGT_MOD_ID_FLASH_CH : Fld := ⟨0x00_0010, 0, 1, 16, 8, 0x40, 0, .ro, .f04⟩
/-- QUE_STREAM_SEL.STREAM [9:0] (R66). -/
def QUE_STREAM_SEL_STREAM : Fld := ⟨0x04_0000, 0, 1, 0, 10, 0x0, 0, .rw, .comp⟩
/-- QUE_STREAM_BASE.BASE [27:6] (R66). -/
def QUE_STREAM_BASE_BASE : Fld := ⟨0x04_0004, 0, 1, 6, 22, 0x0, 0, .ro, .comp⟩
/-- QUE_STREAM_SHAPE.SLOTS_M1 [7:0] (R66). -/
def QUE_STREAM_SHAPE_SLOTS_M1 : Fld := ⟨0x04_0008, 0, 1, 0, 8, 0x0, 0, .ro, .comp⟩
/-- QUE_STREAM_SHAPE.SLOT_LINES [18:8] (R66). -/
def QUE_STREAM_SHAPE_SLOT_LINES : Fld := ⟨0x04_0008, 0, 1, 8, 11, 0x0, 0, .ro, .comp⟩
/-- QUE_STREAM_SHAPE.CONS_M1 [20:19] (R66). -/
def QUE_STREAM_SHAPE_CONS_M1 : Fld := ⟨0x04_0008, 0, 1, 19, 2, 0x0, 0, .ro, .comp⟩
/-- QUE_STREAM_SHAPE.ACTIVE [21] (R66). -/
def QUE_STREAM_SHAPE_ACTIVE : Fld := ⟨0x04_0008, 0, 1, 21, 1, 0x0, 0, .ro, .comp⟩
/-- QUE_STREAM_SHAPE.PRODUCER [31:24] (R66). -/
def QUE_STREAM_SHAPE_PRODUCER : Fld := ⟨0x04_0008, 0, 1, 24, 8, 0x0, 0, .ro, .comp⟩
/-- QUE_STREAM_CONS.CONS0-CONS3 [31:0] (R66). -/
def QUE_STREAM_CONS_CONS0 : Fld := ⟨0x04_000C, 0, 1, 0, 32, 0xffffffff, 0, .ro, .comp⟩
/-- QUE_STREAM_TAIL.TAIL [31:0] (R66). -/
def QUE_STREAM_TAIL_TAIL : Fld := ⟨0x04_0010, 0, 1, 0, 32, 0x0, 0, .ro, .comp⟩
/-- QUE_STREAM_HEAD.HEAD [31:0] (R66). -/
def QUE_STREAM_HEAD_HEAD : Fld := ⟨0x04_0014, 0, 1, 0, 32, 0x0, 0, .ro, .comp⟩
/-- QUE_STREAM_STALL.FULL [15:0] (R66). -/
def QUE_STREAM_STALL_FULL : Fld := ⟨0x04_0018, 0, 1, 0, 16, 0x0, 0, .rw, .comp⟩
/-- QUE_STREAM_STALL.EMPTY [31:16] (R66). -/
def QUE_STREAM_STALL_EMPTY : Fld := ⟨0x04_0018, 0, 1, 16, 16, 0x0, 0, .rw, .comp⟩
/-- QUE_TOKEN_SEL.TOKEN [11:0] (R66). -/
def QUE_TOKEN_SEL_TOKEN : Fld := ⟨0x04_0100, 0, 1, 0, 12, 0x0, 0, .rw, .comp⟩
/-- QUE_TOKEN_VAL.VALUE [31:0] (R66). -/
def QUE_TOKEN_VAL_VALUE : Fld := ⟨0x04_0104, 0, 1, 0, 32, 0x0, 0, .ro, .comp⟩
/-- QUE_TOKEN_WAIT.WAITERS [4:0] (R66). -/
def QUE_TOKEN_WAIT_WAITERS : Fld := ⟨0x04_0108, 0, 1, 0, 5, 0x0, 0, .ro, .comp⟩
/-- QUE_POOL_AGED.AGED [31:0] (R66). -/
def QUE_POOL_AGED_AGED : Fld := ⟨0x04_0200, 0, 1, 0, 32, 0x0, 0, .rw, .comp⟩
/-- QUE_Q_BASE_LO.BASE [31:12] (R80). -/
def QUE_Q_BASE_LO_BASE : Fld := ⟨0x10_0000, 32, 4096, 12, 20, 0x0, 0, .rw, .comp⟩
/-- QUE_Q_BASE_HI.BASE [31:0] (R80). -/
def QUE_Q_BASE_HI_BASE : Fld := ⟨0x10_0004, 32, 4096, 0, 32, 0x0, 0, .rw, .comp⟩
/-- QUE_Q_CFG.SIZE_LOG2 [3:0] (R80). -/
def QUE_Q_CFG_SIZE_LOG2 : Fld := ⟨0x10_0008, 32, 4096, 0, 4, 0x6, 0, .rw, .comp⟩
/-- QUE_Q_CFG.LOC [4] (R80). -/
def QUE_Q_CFG_LOC : Fld := ⟨0x10_0008, 32, 4096, 4, 1, 0x0, 0, .rw, .comp⟩
/-- QUE_Q_CFG.PRIO [7:5] (R80). -/
def QUE_Q_CFG_PRIO : Fld := ⟨0x10_0008, 32, 4096, 5, 3, 0x0, 0, .rw, .comp⟩
/-- QUE_Q_CFG.WEIGHT [11:8] (R80). -/
def QUE_Q_CFG_WEIGHT : Fld := ⟨0x10_0008, 32, 4096, 8, 4, 0x0, 0, .rw, .comp⟩
/-- QUE_Q_CFG.OUTST_M1 [19:12] (R80). -/
def QUE_Q_CFG_OUTST_M1 : Fld := ⟨0x10_0008, 32, 4096, 12, 8, 0xff, 0, .rw, .comp⟩
/-- QUE_Q_CFG.CR [27:20] (R80). -/
def QUE_Q_CFG_CR : Fld := ⟨0x10_0008, 32, 4096, 20, 8, 0x0, 0, .rw, .comp⟩
/-- QUE_Q_CTRL.ENABLE [0] (R80). -/
def QUE_Q_CTRL_ENABLE : Fld := ⟨0x10_000C, 32, 4096, 0, 1, 0x0, 0, .rw, .comp⟩
/-- QUE_Q_CTRL.ABORT [1] (R80). -/
def QUE_Q_CTRL_ABORT : Fld := ⟨0x10_000C, 32, 4096, 1, 1, 0x0, 0, .wo, .comp⟩
/-- QUE_Q_CTRL.CLR_ERR [2] (R80). -/
def QUE_Q_CTRL_CLR_ERR : Fld := ⟨0x10_000C, 32, 4096, 2, 1, 0x0, 0, .wo, .comp⟩
/-- QUE_Q_CTRL.OPC_MASK [31:16] (R80). -/
def QUE_Q_CTRL_OPC_MASK : Fld := ⟨0x10_000C, 32, 4096, 16, 16, 0xffff, 0, .rw, .comp⟩
/-- QUE_Q_STATUS.STATE [1:0] (R80). -/
def QUE_Q_STATUS_STATE : Fld := ⟨0x10_0010, 32, 4096, 0, 2, 0x0, 0, .ro, .comp⟩
/-- QUE_Q_STATUS.IDLE [2] (R80). -/
def QUE_Q_STATUS_IDLE : Fld := ⟨0x10_0010, 32, 4096, 2, 1, 0x1, 0, .ro, .comp⟩
/-- QUE_Q_STATUS.OUTST [11:3] (R80). -/
def QUE_Q_STATUS_OUTST : Fld := ⟨0x10_0010, 32, 4096, 3, 9, 0x0, 0, .ro, .comp⟩
/-- QUE_Q_STATUS.ERR [15:12] (R80). -/
def QUE_Q_STATUS_ERR : Fld := ⟨0x10_0010, 32, 4096, 12, 4, 0x0, 0, .ro, .comp⟩
/-- QUE_Q_STATUS.LOST_CPL [31:16] (R80). -/
def QUE_Q_STATUS_LOST_CPL : Fld := ⟨0x10_0010, 32, 4096, 16, 16, 0x0, 0, .ro, .comp⟩
/-- QUE_Q_HEAD.FETCH_HEAD [15:0] (R80). -/
def QUE_Q_HEAD_FETCH_HEAD : Fld := ⟨0x10_0014, 32, 4096, 0, 16, 0x0, 0, .ro, .comp⟩
/-- QUE_Q_HEAD.TAIL [31:16] (R80). -/
def QUE_Q_HEAD_TAIL : Fld := ⟨0x10_0014, 32, 4096, 16, 16, 0x0, 0, .ro, .comp⟩
/-- QUE_Q_HWB_LO.ADDR [31:3] (R80). -/
def QUE_Q_HWB_LO_ADDR : Fld := ⟨0x10_0018, 32, 4096, 3, 29, 0x0, 0, .rw, .comp⟩
/-- QUE_Q_HWB_HI.ADDR [31:0] (R80). -/
def QUE_Q_HWB_HI_ADDR : Fld := ⟨0x10_001C, 32, 4096, 0, 32, 0x0, 0, .rw, .comp⟩
/-- QUE_CR_BASE_LO.BASE [31:12] (R97). -/
def QUE_CR_BASE_LO_BASE : Fld := ⟨0x14_0000, 32, 256, 12, 20, 0x0, 0, .rw, .comp⟩
/-- QUE_CR_BASE_HI.BASE [31:0] (R97). -/
def QUE_CR_BASE_HI_BASE : Fld := ⟨0x14_0004, 32, 256, 0, 32, 0x0, 0, .rw, .comp⟩
/-- QUE_CR_CFG.SIZE_LOG2 [4:0] (R97). -/
def QUE_CR_CFG_SIZE_LOG2 : Fld := ⟨0x14_0008, 32, 256, 0, 5, 0x6, 0, .rw, .comp⟩
/-- QUE_CR_CFG.LOC [5] (R97). -/
def QUE_CR_CFG_LOC : Fld := ⟨0x14_0008, 32, 256, 5, 1, 0x0, 0, .rw, .comp⟩
/-- QUE_CR_CFG.ENABLE [6] (R97). -/
def QUE_CR_CFG_ENABLE : Fld := ⟨0x14_0008, 32, 256, 6, 1, 0x0, 0, .rw, .comp⟩
/-- QUE_CR_CFG.VEC [26:16] (R97). -/
def QUE_CR_CFG_VEC : Fld := ⟨0x14_0008, 32, 256, 16, 11, 0x1, 0, .rw, .comp⟩
/-- QUE_CR_MOD.CNT [7:0] (R97). -/
def QUE_CR_MOD_CNT : Fld := ⟨0x14_000C, 32, 256, 0, 8, 0x1, 0, .rw, .comp⟩
/-- QUE_CR_MOD.TIME [23:8] (R97). -/
def QUE_CR_MOD_TIME : Fld := ⟨0x14_000C, 32, 256, 8, 16, 0x0, 0, .rw, .comp⟩
/-- QUE_CR_TAIL.TAIL [31:0] (R97). -/
def QUE_CR_TAIL_TAIL : Fld := ⟨0x14_0010, 32, 256, 0, 32, 0x0, 0, .ro, .comp⟩
/-- QUE_CR_HEAD.HEAD [31:0] (R97). -/
def QUE_CR_HEAD_HEAD : Fld := ⟨0x14_0014, 32, 256, 0, 32, 0x0, 0, .ro, .comp⟩
/-- QUE_CR_STATUS.ARMED [0] (R97). -/
def QUE_CR_STATUS_ARMED : Fld := ⟨0x14_0018, 32, 256, 0, 1, 0x0, 0, .ro, .comp⟩
/-- QUE_CR_STATUS.FULL [1] (R97). -/
def QUE_CR_STATUS_FULL : Fld := ⟨0x14_0018, 32, 256, 1, 1, 0x0, 0, .ro, .comp⟩
/-- QUE_CR_STATUS.FULL_STALL [31:16] (R97). -/
def QUE_CR_STATUS_FULL_STALL : Fld := ⟨0x14_0018, 32, 256, 16, 16, 0x0, 0, .rw, .comp⟩
/-- HST_SEAL.SEAL [0] (R105). -/
def HST_SEAL_SEAL : Fld := ⟨0x00_0100, 0, 1, 0, 1, 0x0, 0, .rwl, .f04⟩
/-- HST_WIN_SEL.DIE [4:0] (R105). -/
def HST_WIN_SEL_DIE : Fld := ⟨0x00_0104, 0, 1, 0, 5, 0x0, 0, .rw, .f04⟩
/-- HST_BAR4_CFG.SIZE [3:0] (R105). -/
def HST_BAR4_CFG_SIZE : Fld := ⟨0x00_0108, 0, 1, 0, 4, 0x0, 0, .rwl, .f04⟩
/-- HST_BAR4_BASE_LO.BASE [31:30] (R105). -/
def HST_BAR4_BASE_LO_BASE : Fld := ⟨0x00_010C, 0, 1, 30, 2, 0x0, 0, .rwl, .f04⟩
/-- HST_BAR4_BASE_HI.BASE [15:0] (R105). -/
def HST_BAR4_BASE_HI_BASE : Fld := ⟨0x00_0110, 0, 1, 0, 16, 0x0, 0, .rwl, .f04⟩
/-- HST_FN_CFG.OPC_MASK [15:0] (R105). -/
def HST_FN_CFG_OPC_MASK : Fld := ⟨0x01_0000, 4, 68, 0, 16, 0x0, 0, .rwl, .f04⟩
/-- HST_FN_CFG.MAX_EC [17:16] (R105). -/
def HST_FN_CFG_MAX_EC : Fld := ⟨0x01_0000, 4, 68, 16, 2, 0x0, 0, .rwl, .f04⟩
/-- HST_FN_CFG.MAX_PRIO [20:18] (R105). -/
def HST_FN_CFG_MAX_PRIO : Fld := ⟨0x01_0000, 4, 68, 18, 3, 0x0, 0, .rwl, .f04⟩
/-- HST_FN_CFG.GW_EN [21] (R105). -/
def HST_FN_CFG_GW_EN : Fld := ⟨0x01_0000, 4, 68, 21, 1, 0x0, 0, .rwl, .f04⟩
/-- HST_FN_ERR_BASE_LO.BASE [31:12] (R105). -/
def HST_FN_ERR_BASE_LO_BASE : Fld := ⟨0x01_1000, 16, 68, 12, 20, 0x0, 0, .rw, .f04⟩
/-- HST_FN_ERR_BASE_HI.BASE [31:0] (R105). -/
def HST_FN_ERR_BASE_HI_BASE : Fld := ⟨0x01_1004, 16, 68, 0, 32, 0x0, 0, .rw, .f04⟩
/-- HST_FN_ERR_HEAD.HEAD [31:0] (R105). -/
def HST_FN_ERR_HEAD_HEAD : Fld := ⟨0x01_1008, 16, 68, 0, 32, 0x0, 0, .rw, .f04⟩
/-- HST_FN_ERR_TAIL.TAIL [15:0] (R105). -/
def HST_FN_ERR_TAIL_TAIL : Fld := ⟨0x01_100C, 16, 68, 0, 16, 0x0, 0, .ro, .f04⟩
/-- HST_FN_ERR_TAIL.OVF [31:16] (R105). -/
def HST_FN_ERR_TAIL_OVF : Fld := ⟨0x01_100C, 16, 68, 16, 16, 0x0, 0, .ro, .f04⟩
/-- QUE_GRP_OWN.OWNER [7:0] (R106). -/
def QUE_GRP_OWN_OWNER : Fld := ⟨0x15_0000, 4, 64, 0, 8, 0x0, 0, .rwl, .comp⟩
/-- QUE_TOK_OWN.OWNER [7:0] (R106). -/
def QUE_TOK_OWN_OWNER : Fld := ⟨0x15_0100, 4, 48, 0, 8, 0x0, 0, .rwl, .comp⟩
/-- QUE_CR_OWN.OWNER [7:0] (R106). -/
def QUE_CR_OWN_OWNER : Fld := ⟨0x15_0200, 4, 256, 0, 8, 0x0, 0, .rwl, .comp⟩
/-- MX_STATE.ISSUE [1:0] (R140). -/
def MX_STATE_ISSUE : Fld := ⟨0x20_0000, 256, 4, 0, 2, 0x0, 0, .ro, .comp⟩
/-- MX_STATE.ACT_SET [2] (R140). -/
def MX_STATE_ACT_SET : Fld := ⟨0x20_0000, 256, 4, 2, 1, 0x0, 0, .ro, .comp⟩
/-- MX_STATE.SHADOW [4:3] (R140). -/
def MX_STATE_SHADOW : Fld := ⟨0x20_0000, 256, 4, 3, 2, 0x0, 0, .ro, .comp⟩
/-- MX_STATE.CMD [14:8] (R140). -/
def MX_STATE_CMD : Fld := ⟨0x20_0000, 256, 4, 8, 7, 0x0, 0, .ro, .comp⟩
/-- MX_STATE.DRAIN [22:16] (R140). -/
def MX_STATE_DRAIN : Fld := ⟨0x20_0000, 256, 4, 16, 7, 0x0, 0, .ro, .comp⟩
/-- MX_CNT_CTRL.FREEZE [0] (R140). -/
def MX_CNT_CTRL_FREEZE : Fld := ⟨0x20_0004, 256, 4, 0, 1, 0x0, 0, .rw, .comp⟩
/-- MX_CNT_CTRL.CLEAR [1] (R140). -/
def MX_CNT_CTRL_CLEAR : Fld := ⟨0x20_0004, 256, 4, 1, 1, 0x0, 0, .wo, .comp⟩
/-- MX_CYC_VALID.VALID [31:0] (R140). -/
def MX_CYC_VALID_VALID : Fld := ⟨0x20_0008, 256, 4, 0, 32, 0x0, 0, .rw, .comp⟩
/-- MX_CYC_EMPTY.EMPTY [31:0] (R140). -/
def MX_CYC_EMPTY_EMPTY : Fld := ⟨0x20_000C, 256, 4, 0, 32, 0x0, 0, .rw, .comp⟩
/-- MX_CYC_BANK.BANK [31:0] (R140). -/
def MX_CYC_BANK_BANK : Fld := ⟨0x20_0010, 256, 4, 0, 32, 0x0, 0, .rw, .comp⟩
/-- MX_CYC_DRAIN.DRAIN [31:0] (R140). -/
def MX_CYC_DRAIN_DRAIN : Fld := ⟨0x20_0014, 256, 4, 0, 32, 0x0, 0, .rw, .comp⟩
/-- MX_CYC_LOAD.LOAD [31:0] (R140). -/
def MX_CYC_LOAD_LOAD : Fld := ⟨0x20_0018, 256, 4, 0, 32, 0x0, 0, .rw, .comp⟩
/-- MX_CYC_GOV.GOV [31:0] (R140). -/
def MX_CYC_GOV_GOV : Fld := ⟨0x20_001C, 256, 4, 0, 32, 0x0, 0, .rw, .comp⟩
/-- MX_CYC_IDLE.IDLE [31:0] (R140). -/
def MX_CYC_IDLE_IDLE : Fld := ⟨0x20_0020, 256, 4, 0, 32, 0x0, 0, .rw, .comp⟩
/-- MX_ROWS_SKIP.SKIP [31:0] (R140). -/
def MX_ROWS_SKIP_SKIP : Fld := ⟨0x20_0024, 256, 4, 0, 32, 0x0, 0, .rw, .comp⟩
/-- MX_PASSES.PASSES [31:0] (R140). -/
def MX_PASSES_PASSES : Fld := ⟨0x20_0028, 256, 4, 0, 32, 0x0, 0, .rw, .comp⟩
/-- MX_ERR.PARITY [15:0] (R140). -/
def MX_ERR_PARITY : Fld := ⟨0x20_002C, 256, 4, 0, 16, 0x0, 0, .rw, .comp⟩
/-- MX_ERR.POISON_ROWS [31:16] (R140). -/
def MX_ERR_POISON_ROWS : Fld := ⟨0x20_002C, 256, 4, 16, 16, 0x0, 0, .rw, .comp⟩
/-- SL_STATE.PHASE [1:0] (R163). -/
def SL_STATE_PHASE : Fld := ⟨0x24_0000, 0, 1, 0, 2, 0x0, 0, .ro, .comp⟩
/-- SL_CALLS.CALLS [31:0] (R163). -/
def SL_CALLS_CALLS : Fld := ⟨0x24_0004, 0, 1, 0, 32, 0x0, 0, .rw, .comp⟩
/-- SL_UNMET.UNMET [31:0] (R163). -/
def SL_UNMET_UNMET : Fld := ⟨0x24_0008, 0, 1, 0, 32, 0x0, 0, .rw, .comp⟩
/-- SL_ELEMS.ELEMS [31:0] (R163). -/
def SL_ELEMS_ELEMS : Fld := ⟨0x24_000C, 0, 1, 0, 32, 0x0, 0, .rw, .comp⟩
/-- SL_ZEROED.ZEROED [31:0] (R163). -/
def SL_ZEROED_ZEROED : Fld := ⟨0x24_0010, 0, 1, 0, 32, 0x0, 0, .rw, .comp⟩
/-- CV_RS_SEL.STREAM [7:0] (R206). -/
def CV_RS_SEL_STREAM : Fld := ⟨0x28_0000, 0, 1, 0, 8, 0x0, 0, .rw, .comp⟩
/-- CV_RS_SEED_LO.SEED [31:0] (R206). -/
def CV_RS_SEED_LO_SEED : Fld := ⟨0x28_0004, 0, 1, 0, 32, 0x0, 0, .ro, .comp⟩
/-- CV_RS_SEED_HI.SEED [31:0] (R206). -/
def CV_RS_SEED_HI_SEED : Fld := ⟨0x28_0008, 0, 1, 0, 32, 0x0, 0, .ro, .comp⟩
/-- CV_RS_EPOCH.EPOCH [31:0] (R206). -/
def CV_RS_EPOCH_EPOCH : Fld := ⟨0x28_000C, 0, 1, 0, 32, 0x0, 0, .ro, .comp⟩
/-- CV_RS_STATE.SET [0] (R206). -/
def CV_RS_STATE_SET : Fld := ⟨0x28_0010, 0, 1, 0, 1, 0x0, 0, .ro, .comp⟩
/-- CV_CNT_SR.SR [31:0] (R206). -/
def CV_CNT_SR_SR : Fld := ⟨0x28_0020, 0, 1, 0, 32, 0x0, 0, .rw, .comp⟩
/-- CV_CNT_SAT.SAT [31:0] (R206). -/
def CV_CNT_SAT_SAT : Fld := ⟨0x28_0024, 0, 1, 0, 32, 0x0, 0, .rw, .comp⟩
/-- CV_CNT_UFL.UFL [31:0] (R206). -/
def CV_CNT_UFL_UFL : Fld := ⟨0x28_0028, 0, 1, 0, 32, 0x0, 0, .rw, .comp⟩
/-- CV_CNT_NAN.NAN [31:0] (R206). -/
def CV_CNT_NAN_NAN : Fld := ⟨0x28_002C, 0, 1, 0, 32, 0x0, 0, .rw, .comp⟩
/-- CV_CK_STALL.STALL [31:0] (R206). -/
def CV_CK_STALL_STALL : Fld := ⟨0x28_0030, 0, 1, 0, 32, 0x0, 0, .rw, .comp⟩
/-- CK_TT_SEL.INDEX [9:0] (R207). -/
def CK_TT_SEL_INDEX : Fld := ⟨0x2A_0000, 0, 1, 0, 10, 0x0, 0, .rw, .comp⟩
/-- CK_TT_TAG.TAG [21:0] (R207). -/
def CK_TT_TAG_TAG : Fld := ⟨0x2A_0004, 0, 1, 0, 22, 0x0, 0, .ro, .comp⟩
/-- CK_TT_TAG.BOUND [31] (R207). -/
def CK_TT_TAG_BOUND : Fld := ⟨0x2A_0004, 0, 1, 31, 1, 0x0, 0, .ro, .comp⟩
/-- CK_TT_CFG.CTL [7:0] (R207). -/
def CK_TT_CFG_CTL : Fld := ⟨0x2A_0008, 0, 1, 0, 8, 0x1, 0, .ro, .comp⟩
/-- CK_TT_CFG.STREAM [15:8] (R207). -/
def CK_TT_CFG_STREAM : Fld := ⟨0x2A_0008, 0, 1, 8, 8, 0x0, 0, .ro, .comp⟩
/-- CK_TT_CFG.LOG2N [20:16] (R207). -/
def CK_TT_CFG_LOG2N : Fld := ⟨0x2A_0008, 0, 1, 16, 5, 0x8, 0, .ro, .comp⟩
/-- CK_TT_CFG.TAU [31:24] (R207). -/
def CK_TT_CFG_TAU : Fld := ⟨0x2A_0008, 0, 1, 24, 8, 0x0, 0, .ro, .comp⟩
/-- CK_TT_LEVEL.LEVEL [1:0] (R207). -/
def CK_TT_LEVEL_LEVEL : Fld := ⟨0x2A_000C, 0, 1, 0, 2, 0x0, 0, .ro, .comp⟩
/-- CK_TT_LEVEL.CEIL [3:2] (R207). -/
def CK_TT_LEVEL_CEIL : Fld := ⟨0x2A_000C, 0, 1, 2, 2, 0x0, 0, .ro, .comp⟩
/-- CK_TT_LEVEL.DISAGREE [31:16] (R207). -/
def CK_TT_LEVEL_DISAGREE : Fld := ⟨0x2A_000C, 0, 1, 16, 16, 0x0, 0, .ro, .comp⟩
/-- CK_SAMPLES.SAMPLES [31:0] (R207). -/
def CK_SAMPLES_SAMPLES : Fld := ⟨0x2A_0010, 0, 1, 0, 32, 0x0, 0, .rw, .comp⟩
/-- CK_DISAGREE.DISAGREE [31:0] (R207). -/
def CK_DISAGREE_DISAGREE : Fld := ⟨0x2A_0014, 0, 1, 0, 32, 0x0, 0, .rw, .comp⟩
/-- CK_ESCALATED.ESCALATED [31:0] (R207). -/
def CK_ESCALATED_ESCALATED : Fld := ⟨0x2A_0018, 0, 1, 0, 32, 0x0, 0, .rw, .comp⟩
/-- CK_QUEUE.PENDING [3:0] (R207). -/
def CK_QUEUE_PENDING : Fld := ⟨0x2A_001C, 0, 1, 0, 4, 0x0, 0, .ro, .comp⟩
/-- AT_STATE.ISSUE [1:0] (R250). -/
def AT_STATE_ISSUE : Fld := ⟨0x2C_0000, 256, 2, 0, 2, 0x0, 0, .ro, .comp⟩
/-- AT_STATE.MODE [2] (R250). -/
def AT_STATE_MODE : Fld := ⟨0x2C_0000, 256, 2, 2, 1, 0x0, 0, .ro, .comp⟩
/-- AT_STATE.CMD [14:8] (R250). -/
def AT_STATE_CMD : Fld := ⟨0x2C_0000, 256, 2, 8, 7, 0x0, 0, .ro, .comp⟩
/-- AT_CNT_CTRL.FREEZE [0] (R250). -/
def AT_CNT_CTRL_FREEZE : Fld := ⟨0x2C_0004, 256, 2, 0, 1, 0x0, 0, .rw, .comp⟩
/-- AT_CNT_CTRL.CLEAR [1] (R250). -/
def AT_CNT_CTRL_CLEAR : Fld := ⟨0x2C_0004, 256, 2, 1, 1, 0x0, 0, .wo, .comp⟩
/-- AT_CYC_VALID.VALID [31:0] (R250). -/
def AT_CYC_VALID_VALID : Fld := ⟨0x2C_0008, 256, 2, 0, 32, 0x0, 0, .rw, .comp⟩
/-- AT_CYC_EMPTY.EMPTY [31:0] (R250). -/
def AT_CYC_EMPTY_EMPTY : Fld := ⟨0x2C_000C, 256, 2, 0, 32, 0x0, 0, .rw, .comp⟩
/-- AT_CYC_LOAD.LOAD [31:0] (R250). -/
def AT_CYC_LOAD_LOAD : Fld := ⟨0x2C_0010, 256, 2, 0, 32, 0x0, 0, .rw, .comp⟩
/-- AT_CYC_RING.RING [31:0] (R250). -/
def AT_CYC_RING_RING : Fld := ⟨0x2C_0014, 256, 2, 0, 32, 0x0, 0, .rw, .comp⟩
/-- AT_CYC_GOV.GOV [31:0] (R250). -/
def AT_CYC_GOV_GOV : Fld := ⟨0x2C_0018, 256, 2, 0, 32, 0x0, 0, .rw, .comp⟩
/-- AT_CYC_IDLE.IDLE [31:0] (R250). -/
def AT_CYC_IDLE_IDLE : Fld := ⟨0x2C_001C, 256, 2, 0, 32, 0x0, 0, .rw, .comp⟩
/-- AT_PAIRS.PAIRS [31:0] (R250). -/
def AT_PAIRS_PAIRS : Fld := ⟨0x2C_0020, 256, 2, 0, 32, 0x0, 0, .rw, .comp⟩
/-- AT_PAIRS_SKIP.SKIP [31:0] (R250). -/
def AT_PAIRS_SKIP_SKIP : Fld := ⟨0x2C_0024, 256, 2, 0, 32, 0x0, 0, .rw, .comp⟩
/-- AT_ROWS_SPECIAL.NAN [15:0] (R250). -/
def AT_ROWS_SPECIAL_NAN : Fld := ⟨0x2C_0028, 256, 2, 0, 16, 0x0, 0, .rw, .comp⟩
/-- AT_ROWS_SPECIAL.EMPTY [31:16] (R250). -/
def AT_ROWS_SPECIAL_EMPTY : Fld := ⟨0x2C_0028, 256, 2, 16, 16, 0x0, 0, .rw, .comp⟩
/-- AT_ERR.POISON [15:0] (R250). -/
def AT_ERR_POISON : Fld := ⟨0x2C_002C, 256, 2, 0, 16, 0x0, 0, .rw, .comp⟩
/-- AT_ERR.PARITY [31:16] (R250). -/
def AT_ERR_PARITY : Fld := ⟨0x2C_002C, 256, 2, 16, 16, 0x0, 0, .rw, .comp⟩
/-- AT_RING_FWD.HOPS [31:0] (R250). -/
def AT_RING_FWD_HOPS : Fld := ⟨0x2C_0200, 0, 1, 0, 32, 0x0, 0, .rw, .comp⟩
/-- AT_RING_TMO.TMO [15:0] (R250). -/
def AT_RING_TMO_TMO : Fld := ⟨0x2C_0204, 0, 1, 0, 16, 0x0, 0, .rw, .comp⟩
/-- PG_STATE.ACT_BANK [0] (R281). -/
def PG_STATE_ACT_BANK : Fld := ⟨0x30_0000, 0, 1, 0, 1, 0x0, 0, .ro, .comp⟩
/-- PG_STATE.REBUILD [2:1] (R281). -/
def PG_STATE_REBUILD : Fld := ⟨0x30_0000, 0, 1, 1, 2, 0x0, 0, .ro, .comp⟩
/-- PG_STATE.WALKS [13:8] (R281). -/
def PG_STATE_WALKS : Fld := ⟨0x30_0000, 0, 1, 8, 6, 0x0, 0, .ro, .comp⟩
/-- PG_STATE.PARKED [31:16] (R281). -/
def PG_STATE_PARKED : Fld := ⟨0x30_0000, 0, 1, 16, 16, 0x0, 0, .ro, .comp⟩
/-- PG_KV_BASE.BASE [21:0] (R281). -/
def PG_KV_BASE_BASE : Fld := ⟨0x30_0004, 0, 1, 0, 22, 0x0, 0, .rwl, .comp⟩
/-- PG_KV_COUNT.COUNT [16:0] (R281). -/
def PG_KV_COUNT_COUNT : Fld := ⟨0x30_0008, 0, 1, 0, 17, 0x0, 0, .rwl, .comp⟩
/-- PG_PARK_LIMIT.LIMIT [15:0] (R281). -/
def PG_PARK_LIMIT_LIMIT : Fld := ⟨0x30_000C, 0, 1, 0, 16, 0x7d0, 0, .rw, .comp⟩
/-- PG_CLASS_RSV.RSV [16:0] (R281). -/
def PG_CLASS_RSV_RSV : Fld := ⟨0x30_0010, 4, 4, 0, 17, 0x0, 0, .rwl, .comp⟩
/-- PG_CLASS_FREE.FREE [16:0] (R281). -/
def PG_CLASS_FREE_FREE : Fld := ⟨0x30_0020, 4, 4, 0, 17, 0x0, 0, .ro, .comp⟩
/-- PG_SHARED_FREE.FREE [16:0] (R281). -/
def PG_SHARED_FREE_FREE : Fld := ⟨0x30_0030, 0, 1, 0, 17, 0x0, 0, .ro, .comp⟩
/-- PG_SPAN_FREE.FREE [17:0] (R281). -/
def PG_SPAN_FREE_FREE : Fld := ⟨0x30_0034, 0, 1, 0, 18, 0x20000, 0, .ro, .comp⟩
/-- PG_SPAN_MAX.MAX [17:0] (R281). -/
def PG_SPAN_MAX_MAX : Fld := ⟨0x30_0038, 0, 1, 0, 18, 0x20000, 0, .ro, .comp⟩
/-- PG_SEQ_SEL.INDEX [11:0] (R281). -/
def PG_SEQ_SEL_INDEX : Fld := ⟨0x30_0040, 0, 1, 0, 12, 0x0, 0, .rw, .comp⟩
/-- PG_SEQ_STATE.STATE [1:0] (R281). -/
def PG_SEQ_STATE_STATE : Fld := ⟨0x30_0044, 0, 1, 0, 2, 0x0, 0, .ro, .comp⟩
/-- PG_SEQ_STATE.PARKED [2] (R281). -/
def PG_SEQ_STATE_PARKED : Fld := ⟨0x30_0044, 0, 1, 2, 1, 0x0, 0, .ro, .comp⟩
/-- PG_SEQ_STATE.CLASS [4:3] (R281). -/
def PG_SEQ_STATE_CLASS : Fld := ⟨0x30_0044, 0, 1, 3, 2, 0x0, 0, .ro, .comp⟩
/-- PG_SEQ_STATE.PRIO [7:5] (R281). -/
def PG_SEQ_STATE_PRIO : Fld := ⟨0x30_0044, 0, 1, 5, 3, 0x0, 0, .ro, .comp⟩
/-- PG_SEQ_STATE.OWNER [14:8] (R281). -/
def PG_SEQ_STATE_OWNER : Fld := ⟨0x30_0044, 0, 1, 8, 7, 0x0, 0, .ro, .comp⟩
/-- PG_SEQ_STATE.EPOCH [31:16] (R281). -/
def PG_SEQ_STATE_EPOCH : Fld := ⟨0x30_0044, 0, 1, 16, 16, 0x0, 0, .ro, .comp⟩
/-- PG_SEQ_LEN.LENGTH [31:0] (R281). -/
def PG_SEQ_LEN_LENGTH : Fld := ⟨0x30_0048, 0, 1, 0, 32, 0x0, 0, .ro, .comp⟩
/-- PG_SEQ_BASE.BASE [16:0] (R281). -/
def PG_SEQ_BASE_BASE : Fld := ⟨0x30_004C, 0, 1, 0, 17, 0x0, 0, .ro, .comp⟩
/-- PG_SEQ_MAPPED.MAPPED [17:0] (R281). -/
def PG_SEQ_MAPPED_MAPPED : Fld := ⟨0x30_0050, 0, 1, 0, 18, 0x0, 0, .ro, .comp⟩
/-- PG_SEQ_FIRST.FIRST [17:0] (R281). -/
def PG_SEQ_FIRST_FIRST : Fld := ⟨0x30_0054, 0, 1, 0, 18, 0x0, 0, .ro, .comp⟩
/-- PG_CNT_WALKS.WALKS [31:0] (R281). -/
def PG_CNT_WALKS_WALKS : Fld := ⟨0x30_0080, 0, 1, 0, 32, 0x0, 0, .rw, .comp⟩
/-- PG_CNT_DEFER.DEFER [31:0] (R281). -/
def PG_CNT_DEFER_DEFER : Fld := ⟨0x30_0084, 0, 1, 0, 32, 0x0, 0, .rw, .comp⟩
/-- PG_CNT_DEMOTE.DEMOTE [31:0] (R281). -/
def PG_CNT_DEMOTE_DEMOTE : Fld := ⟨0x30_0088, 0, 1, 0, 32, 0x0, 0, .rw, .comp⟩
/-- PG_CNT_PARK.PARK [31:0] (R281). -/
def PG_CNT_PARK_PARK : Fld := ⟨0x30_008C, 0, 1, 0, 32, 0x0, 0, .rw, .comp⟩
/-- PG_CNT_PREEMPT.PREEMPT [31:0] (R281). -/
def PG_CNT_PREEMPT_PREEMPT : Fld := ⟨0x30_0090, 0, 1, 0, 32, 0x0, 0, .rw, .comp⟩
/-- PG_CNT_STALE.STALE [31:0] (R281). -/
def PG_CNT_STALE_STALE : Fld := ⟨0x30_0094, 0, 1, 0, 32, 0x0, 0, .rw, .comp⟩
/-- QUE_ST_STATE.STATE [1:0] (R312). -/
def QUE_ST_STATE_STATE : Fld := ⟨0x16_0000, 64, 4, 0, 2, 0x0, 0, .ro, .comp⟩
/-- QUE_ST_STATE.BUSY [5:2] (R312). -/
def QUE_ST_STATE_BUSY : Fld := ⟨0x16_0000, 64, 4, 2, 4, 0x0, 0, .ro, .comp⟩
/-- QUE_ST_STATE.REPLAY [6] (R312). -/
def QUE_ST_STATE_REPLAY : Fld := ⟨0x16_0000, 64, 4, 6, 1, 0x0, 0, .ro, .comp⟩
/-- QUE_ST_NEXT.NEXT [31:0] (R312). -/
def QUE_ST_NEXT_NEXT : Fld := ⟨0x16_0004, 64, 4, 0, 32, 0x0, 0, .ro, .comp⟩
/-- QUE_ST_STEP.STEP [31:0] (R312). -/
def QUE_ST_STEP_STEP : Fld := ⟨0x16_0008, 64, 4, 0, 32, 0x0, 0, .ro, .comp⟩
/-- QUE_ST_ITEMS.ITEMS [31:0] (R312). -/
def QUE_ST_ITEMS_ITEMS : Fld := ⟨0x16_000C, 64, 4, 0, 32, 0x0, 0, .rw, .comp⟩
/-- QUE_ST_DROP.DROPPED [15:0] (R312). -/
def QUE_ST_DROP_DROPPED : Fld := ⟨0x16_0010, 64, 4, 0, 16, 0x0, 0, .rw, .comp⟩
/-- QUE_ST_DROP.RERUN [31:16] (R312). -/
def QUE_ST_DROP_RERUN : Fld := ⟨0x16_0010, 64, 4, 16, 16, 0x0, 0, .rw, .comp⟩
/-- QUE_ST_LATE.LATE [31:0] (R312). -/
def QUE_ST_LATE_LATE : Fld := ⟨0x16_0014, 64, 4, 0, 32, 0x0, 0, .rw, .comp⟩
/-- QUE_ST_MOVEFAIL.MOVEFAIL [31:0] (R312). -/
def QUE_ST_MOVEFAIL_MOVEFAIL : Fld := ⟨0x16_0018, 64, 4, 0, 32, 0x0, 0, .rw, .comp⟩
/-- QUE_ST_SLOTWAIT.SLOTWAIT [31:0] (R312). -/
def QUE_ST_SLOTWAIT_SLOTWAIT : Fld := ⟨0x16_001C, 64, 4, 0, 32, 0x0, 0, .rw, .comp⟩
/-- RD_SH_SEL.SHARD [9:0] (R313). -/
def RD_SH_SEL_SHARD : Fld := ⟨0x34_0000, 0, 1, 0, 10, 0x0, 0, .rw, .comp⟩
/-- RD_SH_STEP.STEP [31:0] (R313). -/
def RD_SH_STEP_STEP : Fld := ⟨0x34_0004, 0, 1, 0, 32, 0x0, 0, .ro, .comp⟩
/-- RD_SH_VER.EPOCH [15:0] (R313). -/
def RD_SH_VER_EPOCH : Fld := ⟨0x34_0008, 0, 1, 0, 16, 0x0, 0, .ro, .comp⟩
/-- RD_SH_VER.STATE [17:16] (R313). -/
def RD_SH_VER_STATE : Fld := ⟨0x34_0008, 0, 1, 16, 2, 0x0, 0, .ro, .comp⟩
/-- RD_SH_REFS.REFS [15:0] (R313). -/
def RD_SH_REFS_REFS : Fld := ⟨0x34_000C, 0, 1, 0, 16, 0x0, 0, .ro, .comp⟩
/-- RD_SH_REFS.WAITING [31:16] (R313). -/
def RD_SH_REFS_WAITING : Fld := ⟨0x34_000C, 0, 1, 16, 16, 0x0, 0, .ro, .comp⟩
/-- RD_SH_UNDERFLOW.UNDERFLOW [31:0] (R313). -/
def RD_SH_UNDERFLOW_UNDERFLOW : Fld := ⟨0x34_0010, 0, 1, 0, 32, 0x0, 0, .rw, .comp⟩
/-- RD_SH_MISMATCH.MISMATCH [31:0] (R313). -/
def RD_SH_MISMATCH_MISMATCH : Fld := ⟨0x34_0014, 0, 1, 0, 32, 0x0, 0, .rw, .comp⟩
/-- TM_STATE.FAR_OK [0] (R350). -/
def TM_STATE_FAR_OK : Fld := ⟨0x40_0000, 0, 1, 0, 1, 0x1, 0, .ro, .mem⟩
/-- TM_STATE.FLASH_OK [1] (R350). -/
def TM_STATE_FLASH_OK : Fld := ⟨0x40_0000, 0, 1, 1, 1, 0x1, 0, .ro, .mem⟩
/-- TM_STATE.FAR_DEVS [5:2] (R350). -/
def TM_STATE_FAR_DEVS : Fld := ⟨0x40_0000, 0, 1, 2, 4, 0x8, 0, .ro, .mem⟩
/-- TM_STATE.MOVES [15:8] (R350). -/
def TM_STATE_MOVES : Fld := ⟨0x40_0000, 0, 1, 8, 8, 0x0, 0, .ro, .mem⟩
/-- TM_STATE.WAITING [31:16] (R350). -/
def TM_STATE_WAITING : Fld := ⟨0x40_0000, 0, 1, 16, 16, 0x0, 0, .ro, .mem⟩
/-- TM_CFG.DEMOTE [1:0] (R350). -/
def TM_CFG_DEMOTE : Fld := ⟨0x40_0004, 0, 1, 0, 2, 0x0, 0, .rw, .mem⟩
/-- TM_CFG.FAR_PRIO [4:2] (R350). -/
def TM_CFG_FAR_PRIO : Fld := ⟨0x40_0004, 0, 1, 2, 3, 0x0, 0, .rw, .mem⟩
/-- TM_SETTLE.SETTLE [15:0] (R350). -/
def TM_SETTLE_SETTLE : Fld := ⟨0x40_0008, 0, 1, 0, 16, 0x1388, 0, .rw, .mem⟩
/-- TM_LIMIT_HBM.LIMIT [15:0] (R350). -/
def TM_LIMIT_HBM_LIMIT : Fld := ⟨0x40_000C, 0, 1, 0, 16, 0x32, 0, .rw, .mem⟩
/-- TM_LIMIT_FAR.LIMIT [15:0] (R350). -/
def TM_LIMIT_FAR_LIMIT : Fld := ⟨0x40_0010, 0, 1, 0, 16, 0xc8, 0, .rw, .mem⟩
/-- TM_LIMIT_FLASH.LIMIT [15:0] (R350). -/
def TM_LIMIT_FLASH_LIMIT : Fld := ⟨0x40_0014, 0, 1, 0, 16, 0x4e20, 0, .rw, .mem⟩
/-- TM_WM_HBM.LOW [12:0] (R350). -/
def TM_WM_HBM_LOW : Fld := ⟨0x40_0018, 4, 2, 0, 13, 0x80, 0, .rw, .mem⟩
/-- TM_WM_HBM.HIGH [28:16] (R350). -/
def TM_WM_HBM_HIGH : Fld := ⟨0x40_0018, 4, 2, 16, 13, 0x100, 0, .rw, .mem⟩
/-- TM_WM_FAR.LOW [15:0] (R350). -/
def TM_WM_FAR_LOW : Fld := ⟨0x40_0020, 0, 1, 0, 16, 0x200, 0, .rw, .mem⟩
/-- TM_WM_FAR.HIGH [31:16] (R350). -/
def TM_WM_FAR_HIGH : Fld := ⟨0x40_0020, 0, 1, 16, 16, 0x400, 0, .rw, .mem⟩
/-- TM_REC_FREE.FREE [19:0] (R350). -/
def TM_REC_FREE_FREE : Fld := ⟨0x40_0024, 0, 1, 0, 20, 0x80000, 0, .ro, .mem⟩
/-- TM_FLASH_STATE.RDONLY [7:0] (R350). -/
def TM_FLASH_STATE_RDONLY : Fld := ⟨0x40_0028, 0, 1, 0, 8, 0x0, 0, .ro, .mem⟩
/-- TM_FLASH_STATE.WEAR [15:8] (R350). -/
def TM_FLASH_STATE_WEAR : Fld := ⟨0x40_0028, 0, 1, 8, 8, 0x0, 0, .ro, .mem⟩
/-- TM_FLASH_STATE.ABSENT [23:16] (R350). -/
def TM_FLASH_STATE_ABSENT : Fld := ⟨0x40_0028, 0, 1, 16, 8, 0x0, 0, .ro, .mem⟩
/-- TM_FLASH_FREE.FREE [31:0] (R350). -/
def TM_FLASH_FREE_FREE : Fld := ⟨0x40_002C, 0, 1, 0, 32, 0x0, 0, .ro, .mem⟩
/-- TM_CNT_DEMOTE.DEMOTE [31:0] (R350). -/
def TM_CNT_DEMOTE_DEMOTE : Fld := ⟨0x40_0040, 0, 1, 0, 32, 0x0, 0, .rw, .mem⟩
/-- TM_CNT_PROMOTE.PROMOTE [31:0] (R350). -/
def TM_CNT_PROMOTE_PROMOTE : Fld := ⟨0x40_0044, 0, 1, 0, 32, 0x0, 0, .rw, .mem⟩
/-- TM_CNT_SETTLING.SETTLING [31:0] (R350). -/
def TM_CNT_SETTLING_SETTLING : Fld := ⟨0x40_0048, 0, 1, 0, 32, 0x0, 0, .rw, .mem⟩
/-- TM_CNT_PINNED.PINNED [31:0] (R350). -/
def TM_CNT_PINNED_PINNED : Fld := ⟨0x40_004C, 0, 1, 0, 32, 0x0, 0, .rw, .mem⟩
/-- TM_CNT_TIMEOUT.TIMEOUT [31:0] (R350). -/
def TM_CNT_TIMEOUT_TIMEOUT : Fld := ⟨0x40_0050, 0, 1, 0, 32, 0x0, 0, .rw, .mem⟩
/-- TM_CNT_LOST.LOST [31:0] (R350). -/
def TM_CNT_LOST_LOST : Fld := ⟨0x40_0054, 0, 1, 0, 32, 0x0, 0, .rw, .mem⟩
/-- TM_CNT_FULL.FULL [31:0] (R350). -/
def TM_CNT_FULL_FULL : Fld := ⟨0x40_0058, 0, 1, 0, 32, 0x0, 0, .rw, .mem⟩
/-- TM_CNT_HELD.HELD [31:0] (R350). -/
def TM_CNT_HELD_HELD : Fld := ⟨0x40_005C, 0, 1, 0, 32, 0x0, 0, .rw, .mem⟩
/-- TM_FN_TBL.GRAN [11:0] (R351). -/
def TM_FN_TBL_GRAN : Fld := ⟨0x02_0000, 4, 68, 0, 12, 0x0, 0, .rwl, .f04⟩
/-- TM_FN_TBL.VALID [31] (R351). -/
def TM_FN_TBL_VALID : Fld := ⟨0x02_0000, 4, 68, 31, 1, 0x0, 0, .rwl, .f04⟩
/-- TM_GRAN_OWN.OWNER [7:0] (R351). -/
def TM_GRAN_OWN_OWNER : Fld := ⟨0x03_0000, 4, 3072, 0, 8, 0x0, 0, .rwl, .f04⟩
/-- TM_FGRAN_OWN.OWNER [7:0] (R351). -/
def TM_FGRAN_OWN_OWNER : Fld := ⟨0x04_0000, 4, 4096, 0, 8, 0x0, 0, .rwl, .f04⟩
/-- QUE_SC_CTRL.FREEZE [0] (R375). -/
def QUE_SC_CTRL_FREEZE : Fld := ⟨0x3C_0000, 64, 14, 0, 1, 0x0, 0, .rw, .comp⟩
/-- QUE_SC_CTRL.CLEAR [1] (R375). -/
def QUE_SC_CTRL_CLEAR : Fld := ⟨0x3C_0000, 64, 14, 1, 1, 0x0, 0, .wo, .comp⟩
/-- QUE_SC_CNT0.CNT0 [31:0] (R375). -/
def QUE_SC_CNT0_CNT0 : Fld := ⟨0x3C_0004, 64, 14, 0, 32, 0x0, 0, .rw, .comp⟩
/-- QUE_SC_CNT1.CNT1 [31:0] (R375). -/
def QUE_SC_CNT1_CNT1 : Fld := ⟨0x3C_0008, 64, 14, 0, 32, 0x0, 0, .rw, .comp⟩
/-- QUE_SC_CNT2.CNT2 [31:0] (R375). -/
def QUE_SC_CNT2_CNT2 : Fld := ⟨0x3C_000C, 64, 14, 0, 32, 0x0, 0, .rw, .comp⟩
/-- QUE_SC_CNT3.CNT3 [31:0] (R375). -/
def QUE_SC_CNT3_CNT3 : Fld := ⟨0x3C_0010, 64, 14, 0, 32, 0x0, 0, .rw, .comp⟩
/-- QUE_SC_CNT4.CNT4 [31:0] (R375). -/
def QUE_SC_CNT4_CNT4 : Fld := ⟨0x3C_0014, 64, 14, 0, 32, 0x0, 0, .rw, .comp⟩
/-- QUE_SC_CNT5.CNT5 [31:0] (R375). -/
def QUE_SC_CNT5_CNT5 : Fld := ⟨0x3C_0018, 64, 14, 0, 32, 0x0, 0, .rw, .comp⟩
/-- QUE_SC_CNT6.CNT6 [31:0] (R375). -/
def QUE_SC_CNT6_CNT6 : Fld := ⟨0x3C_001C, 64, 14, 0, 32, 0x0, 0, .rw, .comp⟩
/-- MV_STATE.OUTST [10:0] (R376). -/
def MV_STATE_OUTST : Fld := ⟨0x38_0000, 256, 4, 0, 11, 0x0, 0, .ro, .comp⟩
/-- MV_STATE.FENCED [11] (R376). -/
def MV_STATE_FENCED : Fld := ⟨0x38_0000, 256, 4, 11, 1, 0x0, 0, .ro, .comp⟩
/-- MV_STATE.STREAMS [23:16] (R376). -/
def MV_STATE_STREAMS : Fld := ⟨0x38_0000, 256, 4, 16, 8, 0x0, 0, .ro, .comp⟩
/-- MV_LEVEL_SEL.LEVEL [2:0] (R376). -/
def MV_LEVEL_SEL_LEVEL : Fld := ⟨0x38_0004, 256, 4, 0, 3, 0x0, 0, .rw, .comp⟩
/-- MV_LEVEL.OUTST [10:0] (R376). -/
def MV_LEVEL_OUTST : Fld := ⟨0x38_0008, 256, 4, 0, 11, 0x0, 0, .ro, .comp⟩
/-- MV_CNT_RD.RD [31:0] (R376). -/
def MV_CNT_RD_RD : Fld := ⟨0x38_0010, 256, 4, 0, 32, 0x0, 0, .rw, .comp⟩
/-- MV_CNT_WR.WR [31:0] (R376). -/
def MV_CNT_WR_WR : Fld := ⟨0x38_0014, 256, 4, 0, 32, 0x0, 0, .rw, .comp⟩
/-- MV_CNT_NARROW.NARROW [31:0] (R376). -/
def MV_CNT_NARROW_NARROW : Fld := ⟨0x38_0018, 256, 4, 0, 32, 0x0, 0, .rw, .comp⟩
/-- MV_CNT_REFETCH.STALE [15:0] (R376). -/
def MV_CNT_REFETCH_STALE : Fld := ⟨0x38_001C, 256, 4, 0, 16, 0x0, 0, .rw, .comp⟩
/-- MV_CNT_REFETCH.AGED [31:16] (R376). -/
def MV_CNT_REFETCH_AGED : Fld := ⟨0x38_001C, 256, 4, 16, 16, 0x0, 0, .rw, .comp⟩
/-- MV_CNT_LOCKED.LOCKED [31:0] (R376). -/
def MV_CNT_LOCKED_LOCKED : Fld := ⟨0x38_0020, 256, 4, 0, 32, 0x0, 0, .rw, .comp⟩
/-- MV_CNT_RA_DROP.XLATE [15:0] (R376). -/
def MV_CNT_RA_DROP_XLATE : Fld := ⟨0x38_0024, 256, 4, 0, 16, 0x0, 0, .rw, .comp⟩
/-- MV_CNT_RA_DROP.PROT [31:16] (R376). -/
def MV_CNT_RA_DROP_PROT : Fld := ⟨0x38_0024, 256, 4, 16, 16, 0x0, 0, .rw, .comp⟩
/-- MV_CNT_NOPF.NOPF [31:0] (R376). -/
def MV_CNT_NOPF_NOPF : Fld := ⟨0x38_0028, 256, 4, 0, 32, 0x0, 0, .rw, .comp⟩
/-- MV_CNT_POISON.POISON [31:0] (R376). -/
def MV_CNT_POISON_POISON : Fld := ⟨0x38_002C, 256, 4, 0, 32, 0x0, 0, .rw, .comp⟩
/-- MV_GEN_FREE.FREE [18:0] (R376). -/
def MV_GEN_FREE_FREE : Fld := ⟨0x38_0400, 0, 1, 0, 19, 0x68000, 0, .ro, .comp⟩
/-- MV_CNT_UNTRACKED.UNTRACKED [31:0] (R376). -/
def MV_CNT_UNTRACKED_UNTRACKED : Fld := ⟨0x38_0404, 0, 1, 0, 32, 0x0, 0, .rw, .comp⟩
/-- FAB_PORT_CFG.ENABLE [0] (R413). -/
def FAB_PORT_CFG_ENABLE : Fld := ⟨0x50_0000, 256, 6, 0, 1, 0x0, 0, .rw, .fab⟩
/-- FAB_PORT_CFG.DIR [3:1] (R413). -/
def FAB_PORT_CFG_DIR : Fld := ⟨0x50_0000, 256, 6, 1, 3, 0x7, 0, .rw, .fab⟩
/-- FAB_PORT_CFG.INTERPOD [4] (R413). -/
def FAB_PORT_CFG_INTERPOD : Fld := ⟨0x50_0000, 256, 6, 4, 1, 0x0, 0, .rw, .fab⟩
/-- FAB_PORT_CFG.HALF [5] (R413). -/
def FAB_PORT_CFG_HALF : Fld := ⟨0x50_0000, 256, 6, 5, 1, 0x0, 0, .rw, .fab⟩
/-- FAB_PORT_CFG.NARROW [6] (R413). -/
def FAB_PORT_CFG_NARROW : Fld := ⟨0x50_0000, 256, 6, 6, 1, 0x0, 0, .rw, .fab⟩
/-- FAB_PORT_STATE.STATE [2:0] (R413). -/
def FAB_PORT_STATE_STATE : Fld := ⟨0x50_0004, 256, 6, 0, 3, 0x0, 0, .ro, .fab⟩
/-- FAB_PORT_STATE.HALF [3] (R413). -/
def FAB_PORT_STATE_HALF : Fld := ⟨0x50_0004, 256, 6, 3, 1, 0x0, 0, .ro, .fab⟩
/-- FAB_PORT_STATE.NARROW [4] (R413). -/
def FAB_PORT_STATE_NARROW : Fld := ⟨0x50_0004, 256, 6, 4, 1, 0x0, 0, .ro, .fab⟩
/-- FAB_PORT_LANES.MAP [23:0] (R413). -/
def FAB_PORT_LANES_MAP : Fld := ⟨0x50_0008, 256, 6, 0, 24, 0xfac688, 0, .ro, .fab⟩
/-- FAB_PORT_FEC.CORR [31:0] (R413). -/
def FAB_PORT_FEC_CORR : Fld := ⟨0x50_000C, 256, 6, 0, 32, 0x0, 0, .rw, .fab⟩
/-- FAB_PORT_UNCORR.UNCORR [31:0] (R413). -/
def FAB_PORT_UNCORR_UNCORR : Fld := ⟨0x50_0010, 256, 6, 0, 32, 0x0, 0, .rw, .fab⟩
/-- FAB_PORT_CRC.CRC [31:0] (R413). -/
def FAB_PORT_CRC_CRC : Fld := ⟨0x50_0014, 256, 6, 0, 32, 0x0, 0, .rw, .fab⟩
/-- FAB_PORT_REPLAY.REPLAY [31:0] (R413). -/
def FAB_PORT_REPLAY_REPLAY : Fld := ⟨0x50_0018, 256, 6, 0, 32, 0x0, 0, .rw, .fab⟩
/-- FAB_PORT_DOWN.LOST [15:0] (R413). -/
def FAB_PORT_DOWN_LOST : Fld := ⟨0x50_001C, 256, 6, 0, 16, 0x0, 0, .rw, .fab⟩
/-- FAB_PORT_DOWN.RETRAIN [31:16] (R413). -/
def FAB_PORT_DOWN_RETRAIN : Fld := ⟨0x50_001C, 256, 6, 16, 16, 0x0, 0, .rw, .fab⟩
/-- FAB_PORT_ERR.ERR [31:0] (R413). -/
def FAB_PORT_ERR_ERR : Fld := ⟨0x50_0020, 256, 6, 0, 32, 0x0, 0, .rw, .fab⟩
/-- FAB_CLS_FLOOR.FLOOR [12:0] (R414). -/
def FAB_CLS_FLOOR_FLOOR : Fld := ⟨0x50_1000, 4, 5, 0, 13, 0x0, 3, .rwl, .fab⟩
/-- FAB_CLS_WEIGHT.ORD [15:0] (R414). -/
def FAB_CLS_WEIGHT_ORD : Fld := ⟨0x50_1020, 0, 1, 0, 16, 0x1248, 0, .rw, .fab⟩
/-- FAB_CLS_WEIGHT.POD [31:16] (R414). -/
def FAB_CLS_WEIGHT_POD : Fld := ⟨0x50_1020, 0, 1, 16, 16, 0x2382, 0, .rw, .fab⟩
/-- FAB_LOSS_LIMIT.LIMIT [15:0] (R414). -/
def FAB_LOSS_LIMIT_LIMIT : Fld := ⟨0x50_1024, 0, 1, 0, 16, 0xa, 0, .rw, .fab⟩
/-- FAB_LOSS_LIMIT.HOLD [31:16] (R414). -/
def FAB_LOSS_LIMIT_HOLD : Fld := ⟨0x50_1024, 0, 1, 16, 16, 0x64, 0, .rw, .fab⟩
/-- FAB_MC_LAG.FLITS [15:0] (R414). -/
def FAB_MC_LAG_FLITS : Fld := ⟨0x50_1028, 0, 1, 0, 16, 0x40, 0, .rw, .fab⟩
/-- FAB_MC_LAG.TIME [31:16] (R414). -/
def FAB_MC_LAG_TIME : Fld := ⟨0x50_1028, 0, 1, 16, 16, 0x1f4, 0, .rw, .fab⟩
/-- FAB_ROUTE_CTRL.ACTIVE [0] (R414). -/
def FAB_ROUTE_CTRL_ACTIVE : Fld := ⟨0x50_1100, 0, 1, 0, 1, 0x0, 0, .ro, .fab⟩
/-- FAB_ROUTE_CTRL.COPY [1] (R414). -/
def FAB_ROUTE_CTRL_COPY : Fld := ⟨0x50_1100, 0, 1, 1, 1, 0x0, 0, .wo, .fab⟩
/-- FAB_ROUTE_CTRL.SWAP [2] (R414). -/
def FAB_ROUTE_CTRL_SWAP : Fld := ⟨0x50_1100, 0, 1, 2, 1, 0x0, 0, .wo, .fab⟩
/-- FAB_ROUTE_CTRL.BUSY [3] (R414). -/
def FAB_ROUTE_CTRL_BUSY : Fld := ⟨0x50_1100, 0, 1, 3, 1, 0x0, 0, .ro, .fab⟩
/-- FAB_ROUTE_CTRL.ERR [4] (R414). -/
def FAB_ROUTE_CTRL_ERR : Fld := ⟨0x50_1100, 0, 1, 4, 1, 0x0, 0, .w1c, .fab⟩
/-- FAB_DIM.X [4:0] (R414). -/
def FAB_DIM_X : Fld := ⟨0x50_1104, 0, 1, 0, 5, 0x0, 0, .rw, .fab⟩
/-- FAB_DIM.Y [9:5] (R414). -/
def FAB_DIM_Y : Fld := ⟨0x50_1104, 0, 1, 5, 5, 0x0, 0, .rw, .fab⟩
/-- FAB_DIM.Z [14:10] (R414). -/
def FAB_DIM_Z : Fld := ⟨0x50_1104, 0, 1, 10, 5, 0x0, 0, .rw, .fab⟩
/-- FAB_DIM.WRAP [17:15] (R414). -/
def FAB_DIM_WRAP : Fld := ⟨0x50_1104, 0, 1, 15, 3, 0x0, 0, .rw, .fab⟩
/-- FAB_OVR_SEL.INDEX [11:0] (R414). -/
def FAB_OVR_SEL_INDEX : Fld := ⟨0x50_1200, 0, 1, 0, 12, 0x0, 0, .rw, .fab⟩
/-- FAB_OVR_MATCH.VALUE [15:0] (R414). -/
def FAB_OVR_MATCH_VALUE : Fld := ⟨0x50_1204, 0, 1, 0, 16, 0x0, 0, .rw, .fab⟩
/-- FAB_OVR_MATCH.MASK [31:16] (R414). -/
def FAB_OVR_MATCH_MASK : Fld := ⟨0x50_1204, 0, 1, 16, 16, 0x0, 0, .rw, .fab⟩
/-- FAB_OVR_PORTS_LO.PORTS [31:0] (R414). -/
def FAB_OVR_PORTS_LO_PORTS : Fld := ⟨0x50_1208, 0, 1, 0, 32, 0x0, 0, .rw, .fab⟩
/-- FAB_OVR_PORTS_HI.PORTS [15:0] (R414). -/
def FAB_OVR_PORTS_HI_PORTS : Fld := ⟨0x50_120C, 0, 1, 0, 16, 0x0, 0, .rw, .fab⟩
/-- FAB_OVR_PORTS_HI.CLASSES [20:16] (R414). -/
def FAB_OVR_PORTS_HI_CLASSES : Fld := ⟨0x50_120C, 0, 1, 16, 5, 0x0, 0, .rw, .fab⟩
/-- FAB_OVR_PORTS_HI.VALID [31] (R414). -/
def FAB_OVR_PORTS_HI_VALID : Fld := ⟨0x50_120C, 0, 1, 31, 1, 0x0, 0, .rw, .fab⟩
/-- FAB_MOD_SEL.MODULE [13:0] (R414). -/
def FAB_MOD_SEL_MODULE : Fld := ⟨0x50_1300, 0, 1, 0, 14, 0x0, 0, .rw, .fab⟩
/-- FAB_MOD_COORD.POD [5:0] (R414). -/
def FAB_MOD_COORD_POD : Fld := ⟨0x50_1304, 0, 1, 0, 6, 0x0, 0, .rw, .fab⟩
/-- FAB_MOD_COORD.X [10:6] (R414). -/
def FAB_MOD_COORD_X : Fld := ⟨0x50_1304, 0, 1, 6, 5, 0x0, 0, .rw, .fab⟩
/-- FAB_MOD_COORD.Y [15:11] (R414). -/
def FAB_MOD_COORD_Y : Fld := ⟨0x50_1304, 0, 1, 11, 5, 0x0, 0, .rw, .fab⟩
/-- FAB_MOD_COORD.Z [20:16] (R414). -/
def FAB_MOD_COORD_Z : Fld := ⟨0x50_1304, 0, 1, 16, 5, 0x0, 0, .rw, .fab⟩
/-- FAB_MOD_COORD.VALID [31] (R414). -/
def FAB_MOD_COORD_VALID : Fld := ⟨0x50_1304, 0, 1, 31, 1, 0x0, 0, .rw, .fab⟩
/-- FAB_MC_SEL.GROUP [9:0] (R414). -/
def FAB_MC_SEL_GROUP : Fld := ⟨0x50_1400, 0, 1, 0, 10, 0x0, 0, .rw, .fab⟩
/-- FAB_MC_DIES.DIES [15:0] (R414). -/
def FAB_MC_DIES_DIES : Fld := ⟨0x50_1404, 0, 1, 0, 16, 0x0, 0, .rw, .fab⟩
/-- FAB_MC_PORTS_LO.PORTS [31:0] (R414). -/
def FAB_MC_PORTS_LO_PORTS : Fld := ⟨0x50_1408, 0, 1, 0, 32, 0x0, 0, .rw, .fab⟩
/-- FAB_MC_PORTS_HI.PORTS [15:0] (R414). -/
def FAB_MC_PORTS_HI_PORTS : Fld := ⟨0x50_140C, 0, 1, 0, 16, 0x0, 0, .rw, .fab⟩
/-- FAB_MC_PORTS_HI.COUNT [30:16] (R414). -/
def FAB_MC_PORTS_HI_COUNT : Fld := ⟨0x50_140C, 0, 1, 16, 15, 0x0, 0, .rw, .fab⟩
/-- FAB_MC_PORTS_HI.VALID [31] (R414). -/
def FAB_MC_PORTS_HI_VALID : Fld := ⟨0x50_140C, 0, 1, 31, 1, 0x0, 0, .rw, .fab⟩
/-- FAB_WIN_SEL.WINDOW [7:0] (R416). -/
def FAB_WIN_SEL_WINDOW : Fld := ⟨0x44_0000, 0, 1, 0, 8, 0x0, 0, .rw, .comp⟩
/-- FAB_WIN_CFG.ENABLE [0] (R416). -/
def FAB_WIN_CFG_ENABLE : Fld := ⟨0x44_0004, 0, 1, 0, 1, 0x0, 0, .rw, .comp⟩
/-- FAB_WIN_CFG.KIND [1] (R416). -/
def FAB_WIN_CFG_KIND : Fld := ⟨0x44_0004, 0, 1, 1, 1, 0x0, 0, .rw, .comp⟩
/-- FAB_WIN_CFG.WRITE [2] (R416). -/
def FAB_WIN_CFG_WRITE : Fld := ⟨0x44_0004, 0, 1, 2, 1, 0x0, 0, .rw, .comp⟩
/-- FAB_WIN_CFG.OWNER [9:3] (R416). -/
def FAB_WIN_CFG_OWNER : Fld := ⟨0x44_0004, 0, 1, 3, 7, 0x0, 0, .rw, .comp⟩
/-- FAB_WIN_CFG.TAG [31:16] (R416). -/
def FAB_WIN_CFG_TAG : Fld := ⟨0x44_0004, 0, 1, 16, 16, 0x0, 0, .rw, .comp⟩
/-- FAB_WIN_BASE_LO.BASE [31:21] (R416). -/
def FAB_WIN_BASE_LO_BASE : Fld := ⟨0x44_0008, 0, 1, 21, 11, 0x0, 0, .rw, .comp⟩
/-- FAB_WIN_BASE_HI.BASE [19:0] (R416). -/
def FAB_WIN_BASE_HI_BASE : Fld := ⟨0x44_000C, 0, 1, 0, 20, 0x0, 0, .rw, .comp⟩
/-- FAB_WIN_LEN.LEN [14:0] (R416). -/
def FAB_WIN_LEN_LEN : Fld := ⟨0x44_0010, 0, 1, 0, 15, 0x0, 0, .rw, .comp⟩
/-- FAB_RX_REFUSED.REFUSED [31:0] (R416). -/
def FAB_RX_REFUSED_REFUSED : Fld := ⟨0x44_0100, 0, 1, 0, 32, 0x0, 0, .rw, .comp⟩
/-- FAB_RX_DUP.DUP [31:0] (R416). -/
def FAB_RX_DUP_DUP : Fld := ⟨0x44_0104, 0, 1, 0, 32, 0x0, 0, .rw, .comp⟩
/-- FAB_RX_BUSY.BUSY [31:0] (R416). -/
def FAB_RX_BUSY_BUSY : Fld := ⟨0x44_0108, 0, 1, 0, 32, 0x0, 0, .rw, .comp⟩
/-- FAB_RX_FLOWS.FLOWS [12:0] (R416). -/
def FAB_RX_FLOWS_FLOWS : Fld := ⟨0x44_010C, 0, 1, 0, 13, 0x0, 0, .ro, .comp⟩
/-- FAB_FN_TAG.TAG [15:0] (R415). -/
def FAB_FN_TAG_TAG : Fld := ⟨0x05_0000, 4, 68, 0, 16, 0x0, 0, .rwl, .f04⟩
/-- FAB_SELF.MODULE [13:0] (R414). -/
def FAB_SELF_MODULE : Fld := ⟨0x05_0200, 0, 1, 0, 14, 0x0, 0, .ro, .f04⟩
/-- FAB_SELF.VALID [14] (R414). -/
def FAB_SELF_VALID : Fld := ⟨0x05_0200, 0, 1, 14, 1, 0x0, 0, .ro, .f04⟩
/-- FAB_SELF_COORD.POD [5:0] (R414). -/
def FAB_SELF_COORD_POD : Fld := ⟨0x05_0204, 0, 1, 0, 6, 0x0, 0, .ro, .f04⟩
/-- FAB_SELF_COORD.X [10:6] (R414). -/
def FAB_SELF_COORD_X : Fld := ⟨0x05_0204, 0, 1, 6, 5, 0x0, 0, .ro, .f04⟩
/-- FAB_SELF_COORD.Y [15:11] (R414). -/
def FAB_SELF_COORD_Y : Fld := ⟨0x05_0204, 0, 1, 11, 5, 0x0, 0, .ro, .f04⟩
/-- FAB_SELF_COORD.Z [20:16] (R414). -/
def FAB_SELF_COORD_Z : Fld := ⟨0x05_0204, 0, 1, 16, 5, 0x0, 0, .ro, .f04⟩
/-- FAB_SELF_COORD.VALID [31] (R414). -/
def FAB_SELF_COORD_VALID : Fld := ⟨0x05_0204, 0, 1, 31, 1, 0x0, 0, .ro, .f04⟩
/-- RD_STATE.ACTIVE [8:0] (R451). -/
def RD_STATE_ACTIVE : Fld := ⟨0x36_0000, 0, 1, 0, 9, 0x0, 0, .ro, .comp⟩
/-- RD_EPOCH_SEL.FUNCTION [6:0] (R451). -/
def RD_EPOCH_SEL_FUNCTION : Fld := ⟨0x36_0004, 0, 1, 0, 7, 0x0, 0, .rw, .comp⟩
/-- RD_EPOCH.EPOCH [15:0] (R451). -/
def RD_EPOCH_EPOCH : Fld := ⟨0x36_0008, 0, 1, 0, 16, 0x0, 0, .ro, .comp⟩
/-- RD_EPOCH.MAP [16] (R451). -/
def RD_EPOCH_MAP : Fld := ⟨0x36_0008, 0, 1, 16, 1, 0x0, 0, .ro, .comp⟩
/-- RD_ACC_FLOOR.FLOOR [10:0] (R451). -/
def RD_ACC_FLOOR_FLOOR : Fld := ⟨0x36_000C, 0, 1, 0, 11, 0x100, 0, .rwl, .comp⟩
/-- RD_ACC_FREE.FREE [13:0] (R451). -/
def RD_ACC_FREE_FREE : Fld := ⟨0x36_0010, 0, 1, 0, 14, 0x1800, 0, .ro, .comp⟩
/-- RD_COMM_SEL.SLOT [5:0] (R451). -/
def RD_COMM_SEL_SLOT : Fld := ⟨0x36_0014, 0, 1, 0, 6, 0x0, 0, .rw, .comp⟩
/-- RD_COMM_SIZE.N [18:0] (R451). -/
def RD_COMM_SIZE_N : Fld := ⟨0x36_0018, 0, 1, 0, 19, 0x0, 0, .ro, .comp⟩
/-- RD_COMM_SIZE.VALID [31] (R451). -/
def RD_COMM_SIZE_VALID : Fld := ⟨0x36_0018, 0, 1, 31, 1, 0x0, 0, .ro, .comp⟩
/-- RD_COMM_RANK.RANK [18:0] (R451). -/
def RD_COMM_RANK_RANK : Fld := ⟨0x36_001C, 0, 1, 0, 19, 0x0, 0, .ro, .comp⟩
/-- RD_COMM_RANK.OWNER [25:19] (R451). -/
def RD_COMM_RANK_OWNER : Fld := ⟨0x36_001C, 0, 1, 19, 7, 0x0, 0, .ro, .comp⟩
/-- RD_COMM_SHAPE.GROUPS [18:0] (R451). -/
def RD_COMM_SHAPE_GROUPS : Fld := ⟨0x36_0020, 0, 1, 0, 19, 0x0, 0, .ro, .comp⟩
/-- RD_COMM_SHAPE.M_M1 [22:19] (R451). -/
def RD_COMM_SHAPE_M_M1 : Fld := ⟨0x36_0020, 0, 1, 19, 4, 0x0, 0, .ro, .comp⟩
/-- RD_COMM_SHAPE.SPAN [24:23] (R451). -/
def RD_COMM_SHAPE_SPAN : Fld := ⟨0x36_0020, 0, 1, 23, 2, 0x0, 0, .ro, .comp⟩
/-- RD_COMM_SEQ.SEQ [31:0] (R451). -/
def RD_COMM_SEQ_SEQ : Fld := ⟨0x36_0024, 0, 1, 0, 32, 0x0, 0, .ro, .comp⟩
/-- RD_CNT_REDUCE.REDUCE [31:0] (R451). -/
def RD_CNT_REDUCE_REDUCE : Fld := ⟨0x36_0040, 0, 1, 0, 32, 0x0, 0, .rw, .comp⟩
/-- RD_CNT_LATE.LATE [31:0] (R451). -/
def RD_CNT_LATE_LATE : Fld := ⟨0x36_0044, 0, 1, 0, 32, 0x0, 0, .rw, .comp⟩
/-- RD_CNT_DROP.DROP [31:0] (R451). -/
def RD_CNT_DROP_DROP : Fld := ⟨0x36_0048, 0, 1, 0, 32, 0x0, 0, .rw, .comp⟩
/-- RD_CNT_RES_DROP.RES_DROP [31:0] (R451). -/
def RD_CNT_RES_DROP_RES_DROP : Fld := ⟨0x36_004C, 0, 1, 0, 32, 0x0, 0, .rw, .comp⟩
/-- RD_CNT_STALE.STALE [31:0] (R451). -/
def RD_CNT_STALE_STALE : Fld := ⟨0x36_0050, 0, 1, 0, 32, 0x0, 0, .rw, .comp⟩
/-- RD_CNT_MAPFWD.MAPFWD [31:0] (R451). -/
def RD_CNT_MAPFWD_MAPFWD : Fld := ⟨0x36_0054, 0, 1, 0, 32, 0x0, 0, .rw, .comp⟩
/-- RD_CNT_ACCWAIT.ACCWAIT [31:0] (R451). -/
def RD_CNT_ACCWAIT_ACCWAIT : Fld := ⟨0x36_0058, 0, 1, 0, 32, 0x0, 0, .rw, .comp⟩
/-- RD_CNT_REROUTE.REROUTE [31:0] (R451). -/
def RD_CNT_REROUTE_REROUTE : Fld := ⟨0x36_005C, 0, 1, 0, 32, 0x0, 0, .rw, .comp⟩
/-- RD_CNT_PASS.PASS [31:0] (R451). -/
def RD_CNT_PASS_PASS : Fld := ⟨0x36_0060, 0, 1, 0, 32, 0x0, 0, .rw, .comp⟩
/-- RD_EXT_STATE.ACTIVE [0] (R451). -/
def RD_EXT_STATE_ACTIVE : Fld := ⟨0x36_0064, 0, 1, 0, 1, 0x0, 0, .ro, .comp⟩
/-- RD_EXT_STATE.BUSY [1] (R451). -/
def RD_EXT_STATE_BUSY : Fld := ⟨0x36_0064, 0, 1, 1, 1, 0x0, 0, .ro, .comp⟩
/-- FAB_DRAIN.PORTS [5:0] (R457). -/
def FAB_DRAIN_PORTS : Fld := ⟨0x50_1500, 0, 1, 0, 6, 0x0, 0, .rw, .fab⟩
/-- FAB_DRAIN.GO [6] (R457). -/
def FAB_DRAIN_GO : Fld := ⟨0x50_1500, 0, 1, 6, 1, 0x0, 0, .wo, .fab⟩
/-- FAB_DRAIN.RELEASE [7] (R457). -/
def FAB_DRAIN_RELEASE : Fld := ⟨0x50_1500, 0, 1, 7, 1, 0x0, 0, .wo, .fab⟩
/-- FAB_DRAIN.ACTIVE [8] (R457). -/
def FAB_DRAIN_ACTIVE : Fld := ⟨0x50_1500, 0, 1, 8, 1, 0x0, 0, .ro, .fab⟩
/-- FAB_DRAIN.DRAINED [9] (R457). -/
def FAB_DRAIN_DRAINED : Fld := ⟨0x50_1500, 0, 1, 9, 1, 0x0, 0, .ro, .fab⟩
/-- FAB_DRAIN.TIMEOUT [10] (R457). -/
def FAB_DRAIN_TIMEOUT : Fld := ⟨0x50_1500, 0, 1, 10, 1, 0x0, 0, .ro, .fab⟩
/-- FAB_DRAIN.HOLD [31:16] (R457). -/
def FAB_DRAIN_HOLD : Fld := ⟨0x50_1500, 0, 1, 16, 16, 0x64, 0, .rw, .fab⟩
/-- FAB_DRAIN_HELD.HELD [31:0] (R457). -/
def FAB_DRAIN_HELD_HELD : Fld := ⟨0x50_1504, 0, 1, 0, 32, 0x0, 0, .rw, .fab⟩
/-- FAB_SELF_CELL.CELL [15:0] (R456). -/
def FAB_SELF_CELL_CELL : Fld := ⟨0x05_0208, 0, 1, 0, 16, 0x0, 0, .ro, .f04⟩
/-- GV_STATE.PS [1:0] (R491). -/
def GV_STATE_PS : Fld := ⟨0x60_0000, 0, 1, 0, 2, 0x0, 0, .ro, .comp⟩
/-- GV_STATE.OPP [5:2] (R491). -/
def GV_STATE_OPP : Fld := ⟨0x60_0000, 0, 1, 2, 4, 0x6, 0, .ro, .comp⟩
/-- GV_STATE.MANUAL [6] (R491). -/
def GV_STATE_MANUAL : Fld := ⟨0x60_0000, 0, 1, 6, 1, 0x0, 0, .ro, .comp⟩
/-- GV_STATE.DIE_LVL [8:7] (R491). -/
def GV_STATE_DIE_LVL : Fld := ⟨0x60_0000, 0, 1, 7, 2, 0x0, 0, .ro, .comp⟩
/-- GV_STATE.STK0_LVL [10:9] (R491). -/
def GV_STATE_STK0_LVL : Fld := ⟨0x60_0000, 0, 1, 9, 2, 0x0, 0, .ro, .comp⟩
/-- GV_STATE.STK1_LVL [12:11] (R491). -/
def GV_STATE_STK1_LVL : Fld := ⟨0x60_0000, 0, 1, 11, 2, 0x0, 0, .ro, .comp⟩
/-- GV_TEMP.DIE [7:0] (R491). -/
def GV_TEMP_DIE : Fld := ⟨0x60_0004, 0, 1, 0, 8, 0x0, 0, .ro, .comp⟩
/-- GV_TEMP.STK0 [15:8] (R491). -/
def GV_TEMP_STK0 : Fld := ⟨0x60_0004, 0, 1, 8, 8, 0x0, 0, .ro, .comp⟩
/-- GV_TEMP.STK1 [23:16] (R491). -/
def GV_TEMP_STK1 : Fld := ⟨0x60_0004, 0, 1, 16, 8, 0x0, 0, .ro, .comp⟩
/-- GV_POWER.DRAW [11:0] (R491). -/
def GV_POWER_DRAW : Fld := ⟨0x60_0008, 0, 1, 0, 12, 0x0, 0, .ro, .comp⟩
/-- GV_POWER.SHARE [27:16] (R491). -/
def GV_POWER_SHARE : Fld := ⟨0x60_0008, 0, 1, 16, 12, 0x249, 0, .ro, .comp⟩
/-- GV_CAP.FMAX [11:0] (R491). -/
def GV_CAP_FMAX : Fld := ⟨0x60_000C, 0, 1, 0, 12, 0x7d0, 0, .rw, .comp⟩
/-- GV_CTRL.MANUAL [0] (R491). -/
def GV_CTRL_MANUAL : Fld := ⟨0x60_0010, 0, 1, 0, 1, 0x0, 0, .rw, .comp⟩
/-- GV_CTRL.AUTO_GREY [1] (R491). -/
def GV_CTRL_AUTO_GREY : Fld := ⟨0x60_0010, 0, 1, 1, 1, 0x1, 0, .rw, .comp⟩
/-- GV_CTRL.GREY_IDLE [31:16] (R491). -/
def GV_CTRL_GREY_IDLE : Fld := ⟨0x60_0010, 0, 1, 16, 16, 0x64, 0, .rw, .comp⟩
/-- GV_PS_TARGET.TARGET [1:0] (R491). -/
def GV_PS_TARGET_TARGET : Fld := ⟨0x60_0014, 0, 1, 0, 2, 0x0, 0, .rw, .comp⟩
/-- GV_FREQ.MHZ [11:0] (R491). -/
def GV_FREQ_MHZ : Fld := ⟨0x60_0018, 0, 1, 0, 12, 0x0, 0, .wo, .comp⟩
/-- GV_VOLT.MV [11:0] (R491). -/
def GV_VOLT_MV : Fld := ⟨0x60_001C, 0, 1, 0, 12, 0x0, 0, .wo, .comp⟩
/-- GV_VF_STATUS.LAST [7:0] (R491). -/
def GV_VF_STATUS_LAST : Fld := ⟨0x60_0020, 0, 1, 0, 8, 0x0, 0, .ro, .comp⟩
/-- GV_VF_STATUS.OVERRIDE [8] (R491). -/
def GV_VF_STATUS_OVERRIDE : Fld := ⟨0x60_0020, 0, 1, 8, 1, 0x0, 0, .w1c, .comp⟩
/-- GV_STK_BW.STK0 [3:0] (R491). -/
def GV_STK_BW_STK0 : Fld := ⟨0x60_0024, 0, 1, 0, 4, 0x8, 0, .ro, .comp⟩
/-- GV_STK_BW.STK1 [7:4] (R491). -/
def GV_STK_BW_STK1 : Fld := ⟨0x60_0024, 0, 1, 4, 4, 0x8, 0, .ro, .comp⟩
/-- GV_CNT_HOT.HOT [31:0] (R491). -/
def GV_CNT_HOT_HOT : Fld := ⟨0x60_0028, 0, 1, 0, 32, 0x0, 0, .rw, .comp⟩
/-- GV_CNT_THROTTLE.THROTTLE [31:0] (R491). -/
def GV_CNT_THROTTLE_THROTTLE : Fld := ⟨0x60_002C, 0, 1, 0, 32, 0x0, 0, .rw, .comp⟩
/-- GV_CNT_HOLD.HOLD [31:0] (R491). -/
def GV_CNT_HOLD_HOLD : Fld := ⟨0x60_0030, 0, 1, 0, 32, 0x0, 0, .rw, .comp⟩
/-- GV_CNT_ABORT.ABORT [31:0] (R491). -/
def GV_CNT_ABORT_ABORT : Fld := ⟨0x60_0034, 0, 1, 0, 32, 0x0, 0, .rw, .comp⟩
/-- GV_MOD.BUDGET [15:0] (R492). -/
def GV_MOD_BUDGET : Fld := ⟨0x06_0000, 0, 1, 0, 16, 0x32c8, 0, .ro, .f04⟩
/-- GV_MOD.DRAW [31:16] (R492). -/
def GV_MOD_DRAW : Fld := ⟨0x06_0000, 0, 1, 16, 16, 0x0, 0, .ro, .f04⟩
/-- PWR_STATE.SRC [0] (R492). -/
def PWR_STATE_SRC : Fld := ⟨0x07_0000, 0, 1, 0, 1, 0x0, 0, .ro, .f04⟩
/-- PWR_STATE.MAIN_OK [1] (R492). -/
def PWR_STATE_MAIN_OK : Fld := ⟨0x07_0000, 0, 1, 1, 1, 0x1, 0, .ro, .f04⟩
/-- PWR_STATE.BACKUP_OK [2] (R492). -/
def PWR_STATE_BACKUP_OK : Fld := ⟨0x07_0000, 0, 1, 2, 1, 0x1, 0, .ro, .f04⟩
/-- PWR_STATE.COOL_OK [3] (R492). -/
def PWR_STATE_COOL_OK : Fld := ⟨0x07_0000, 0, 1, 3, 1, 0x1, 0, .ro, .f04⟩
/-- PWR_STATE.RETURN [4] (R492). -/
def PWR_STATE_RETURN : Fld := ⟨0x07_0000, 0, 1, 4, 1, 0x0, 0, .wo, .f04⟩
/-- PWR_MAIN_BUDGET.WATTS [15:0] (R492). -/
def PWR_MAIN_BUDGET_WATTS : Fld := ⟨0x07_0004, 0, 1, 0, 16, 0x32c8, 0, .rwl, .f04⟩
/-- PWR_BACKUP_BUDGET.WATTS [15:0] (R492). -/
def PWR_BACKUP_BUDGET_WATTS : Fld := ⟨0x07_0008, 0, 1, 0, 16, 0x1f40, 0, .rwl, .f04⟩
/-- PWR_UV.THRESH [15:0] (R492). -/
def PWR_UV_THRESH : Fld := ⟨0x07_000C, 0, 1, 0, 16, 0x11f8, 0, .rwl, .f04⟩
/-- PWR_CNT_SWITCH.TO_BACKUP [7:0] (R492). -/
def PWR_CNT_SWITCH_TO_BACKUP : Fld := ⟨0x07_0010, 0, 1, 0, 8, 0x0, 0, .rws, .f04⟩
/-- PWR_CNT_SWITCH.TO_MAIN [15:8] (R492). -/
def PWR_CNT_SWITCH_TO_MAIN : Fld := ⟨0x07_0010, 0, 1, 8, 8, 0x0, 0, .rws, .f04⟩
/-- PWR_CNT_SWITCH.HELD [23:16] (R492). -/
def PWR_CNT_SWITCH_HELD : Fld := ⟨0x07_0010, 0, 1, 16, 8, 0x0, 0, .rws, .f04⟩
/-- PWR_CNT_SWITCH.RIDE [31:24] (R492). -/
def PWR_CNT_SWITCH_RIDE : Fld := ⟨0x07_0010, 0, 1, 24, 8, 0x0, 0, .rws, .f04⟩
/-- AON_WAKE_LAST.SRC [3:0] (R492). -/
def AON_WAKE_LAST_SRC : Fld := ⟨0x08_0000, 0, 1, 0, 4, 0x0, 0, .rws, .f04⟩
/-- AON_WAKE_LAST.DIE [8:4] (R492). -/
def AON_WAKE_LAST_DIE : Fld := ⟨0x08_0000, 0, 1, 4, 5, 0x0, 0, .rws, .f04⟩
/-- AON_WAKE_LAST.PORT [21:16] (R492). -/
def AON_WAKE_LAST_PORT : Fld := ⟨0x08_0000, 0, 1, 16, 6, 0x0, 0, .rws, .f04⟩
/-- AON_WAKE_TIME.COUNT [31:0] (R492). -/
def AON_WAKE_TIME_COUNT : Fld := ⟨0x08_0004, 0, 1, 0, 32, 0x0, 0, .rws, .f04⟩
/-- AON_WAKE_EN.EN [9:1] (R492). -/
def AON_WAKE_EN_EN : Fld := ⟨0x08_0008, 0, 1, 1, 9, 0x1ff, 0, .rw, .f04⟩
/-- AON_COUNT_LO.COUNT [31:0] (R492). -/
def AON_COUNT_LO_COUNT : Fld := ⟨0x08_0010, 0, 1, 0, 32, 0x0, 0, .ro, .f04⟩
/-- AON_COUNT_HI.COUNT [15:0] (R492). -/
def AON_COUNT_HI_COUNT : Fld := ⟨0x08_0014, 0, 1, 0, 16, 0x0, 0, .ro, .f04⟩
/-- AON_CMP_LO.CMP [31:0] (R492). -/
def AON_CMP_LO_CMP : Fld := ⟨0x08_0018, 0, 1, 0, 32, 0x0, 0, .rws, .f04⟩
/-- AON_CMP_HI.CMP [15:0] (R492). -/
def AON_CMP_HI_CMP : Fld := ⟨0x08_001C, 0, 1, 0, 16, 0x0, 0, .rws, .f04⟩
/-- CLK_REF_SEL.PRIMARY [5:0] (R508). -/
def CLK_REF_SEL_PRIMARY : Fld := ⟨0x09_0000, 0, 1, 0, 6, 0x0, 0, .rw, .f04⟩
/-- CLK_REF_SEL.PRI_EN [6] (R508). -/
def CLK_REF_SEL_PRI_EN : Fld := ⟨0x09_0000, 0, 1, 6, 1, 0x0, 0, .rw, .f04⟩
/-- CLK_REF_SEL.SECONDARY [13:8] (R508). -/
def CLK_REF_SEL_SECONDARY : Fld := ⟨0x09_0000, 0, 1, 8, 6, 0x0, 0, .rw, .f04⟩
/-- CLK_REF_SEL.SEC_EN [14] (R508). -/
def CLK_REF_SEL_SEC_EN : Fld := ⟨0x09_0000, 0, 1, 14, 1, 0x0, 0, .rw, .f04⟩
/-- CLK_REF_SEL.LOCAL_EN [15] (R508). -/
def CLK_REF_SEL_LOCAL_EN : Fld := ⟨0x09_0000, 0, 1, 15, 1, 0x1, 0, .rw, .f04⟩
/-- CLK_REF_SEL.REVERT [16] (R508). -/
def CLK_REF_SEL_REVERT : Fld := ⟨0x09_0000, 0, 1, 16, 1, 0x0, 0, .rw, .f04⟩
/-- CLK_REF_STATE.SRC [1:0] (R508). -/
def CLK_REF_STATE_SRC : Fld := ⟨0x09_0004, 0, 1, 0, 2, 0x3, 0, .ro, .f04⟩
/-- CLK_REF_STATE.HOLDOVER [2] (R508). -/
def CLK_REF_STATE_HOLDOVER : Fld := ⟨0x09_0004, 0, 1, 2, 1, 0x0, 0, .ro, .f04⟩
/-- CLK_REF_STATE.PRI_OK [3] (R508). -/
def CLK_REF_STATE_PRI_OK : Fld := ⟨0x09_0004, 0, 1, 3, 1, 0x0, 0, .ro, .f04⟩
/-- CLK_REF_STATE.SEC_OK [4] (R508). -/
def CLK_REF_STATE_SEC_OK : Fld := ⟨0x09_0004, 0, 1, 4, 1, 0x0, 0, .ro, .f04⟩
/-- CLK_REF_STATE.LOC_OK [5] (R508). -/
def CLK_REF_STATE_LOC_OK : Fld := ⟨0x09_0004, 0, 1, 5, 1, 0x1, 0, .ro, .f04⟩
/-- CLK_REF_STATE.AON_OK [6] (R508). -/
def CLK_REF_STATE_AON_OK : Fld := ⟨0x09_0004, 0, 1, 6, 1, 0x1, 0, .ro, .f04⟩
/-- CLK_REF_STATE.OFFSET [31:16] (R508). -/
def CLK_REF_STATE_OFFSET : Fld := ⟨0x09_0004, 0, 1, 16, 16, 0x0, 0, .ro, .f04⟩
/-- CLK_TICK_LO.TICK [31:0] (R508). -/
def CLK_TICK_LO_TICK : Fld := ⟨0x09_0008, 0, 1, 0, 32, 0x0, 0, .ro, .f04⟩
/-- CLK_TICK_HI.TICK [31:0] (R508). -/
def CLK_TICK_HI_TICK : Fld := ⟨0x09_000C, 0, 1, 0, 32, 0x0, 0, .ro, .f04⟩
/-- CLK_TICK.VALID [0] (R508). -/
def CLK_TICK_VALID : Fld := ⟨0x09_0010, 0, 1, 0, 1, 0x0, 0, .ro, .f04⟩
/-- CLK_TICK.SLEWING [1] (R508). -/
def CLK_TICK_SLEWING : Fld := ⟨0x09_0010, 0, 1, 1, 1, 0x0, 0, .ro, .f04⟩
/-- CLK_TICK.ROOT [2] (R508). -/
def CLK_TICK_ROOT : Fld := ⟨0x09_0010, 0, 1, 2, 1, 0x0, 0, .ro, .f04⟩
/-- CLK_OBS.DIE [4:0] (R508). -/
def CLK_OBS_DIE : Fld := ⟨0x09_0020, 0, 1, 0, 5, 0x0, 0, .rw, .f04⟩
/-- CLK_OBS.DOMAIN [6:5] (R508). -/
def CLK_OBS_DOMAIN : Fld := ⟨0x09_0020, 0, 1, 5, 2, 0x0, 0, .rw, .f04⟩
/-- CLK_OBS.EN [8] (R508). -/
def CLK_OBS_EN : Fld := ⟨0x09_0020, 0, 1, 8, 1, 0x0, 0, .rw, .f04⟩
/-- CLK_OBS.PREEMPTED [9] (R508). -/
def CLK_OBS_PREEMPTED : Fld := ⟨0x09_0020, 0, 1, 9, 1, 0x0, 0, .w1c, .f04⟩
/-- CLK_OBS.LAST [23:16] (R508). -/
def CLK_OBS_LAST : Fld := ⟨0x09_0020, 0, 1, 16, 8, 0x0, 0, .ro, .f04⟩
/-- CLK_CNT_REF.SWITCH [7:0] (R508). -/
def CLK_CNT_REF_SWITCH : Fld := ⟨0x09_0024, 0, 1, 0, 8, 0x0, 0, .rws, .f04⟩
/-- CLK_CNT_REF.LOCAL [15:8] (R508). -/
def CLK_CNT_REF_LOCAL : Fld := ⟨0x09_0024, 0, 1, 8, 8, 0x0, 0, .rws, .f04⟩
/-- CLK_CNT_REF.LOSS [23:16] (R508). -/
def CLK_CNT_REF_LOSS : Fld := ⟨0x09_0024, 0, 1, 16, 8, 0x0, 0, .rws, .f04⟩
/-- CLK_DOM_STATE.SRC [0] (R509). -/
def CLK_DOM_STATE_SRC : Fld := ⟨0x64_0000, 16, 4, 0, 1, 0x0, 0, .ro, .all⟩
/-- CLK_DOM_STATE.LOCK0 [1] (R509). -/
def CLK_DOM_STATE_LOCK0 : Fld := ⟨0x64_0000, 16, 4, 1, 1, 0x0, 0, .ro, .all⟩
/-- CLK_DOM_STATE.LOCK1 [2] (R509). -/
def CLK_DOM_STATE_LOCK1 : Fld := ⟨0x64_0000, 16, 4, 2, 1, 0x0, 0, .ro, .all⟩
/-- CLK_DOM_STATE.STATE [4:3] (R509). -/
def CLK_DOM_STATE_STATE : Fld := ⟨0x64_0000, 16, 4, 3, 2, 0x3, 0, .ro, .all⟩
/-- CLK_DOM_STATE.RUNT [5] (R509). -/
def CLK_DOM_STATE_RUNT : Fld := ⟨0x64_0000, 16, 4, 5, 1, 0x0, 0, .ro, .all⟩
/-- CLK_DOM_STATE.DIV [10:6] (R509). -/
def CLK_DOM_STATE_DIV : Fld := ⟨0x64_0000, 16, 4, 6, 5, 0x10, 0, .ro, .all⟩
/-- CLK_DOM_CTRL.SWITCH [0] (R509). -/
def CLK_DOM_CTRL_SWITCH : Fld := ⟨0x64_0004, 16, 4, 0, 1, 0x0, 0, .wo, .all⟩
/-- CLK_DOM_CTRL.MARGIN_SW [1] (R509). -/
def CLK_DOM_CTRL_MARGIN_SW : Fld := ⟨0x64_0004, 16, 4, 1, 1, 0x0, 0, .rw, .all⟩
/-- CLK_DOM_CTRL.LAST [15:8] (R509). -/
def CLK_DOM_CTRL_LAST : Fld := ⟨0x64_0004, 16, 4, 8, 8, 0x0, 0, .ro, .all⟩
/-- CLK_DOM_CNT.STOPS [15:0] (R509). -/
def CLK_DOM_CNT_STOPS : Fld := ⟨0x64_0008, 16, 4, 0, 16, 0x0, 0, .rws, .all⟩
/-- CLK_DOM_CNT.SWITCHES [31:16] (R509). -/
def CLK_DOM_CNT_SWITCHES : Fld := ⟨0x64_0008, 16, 4, 16, 16, 0x0, 0, .rws, .all⟩
/-- SN_CFG.FREEZE [0] (R545). -/
def SN_CFG_FREEZE : Fld := ⟨0x0A_0000, 0, 1, 0, 1, 0x1, 0, .rw, .f04⟩
/-- SN_CFG.LEAVE [1] (R545). -/
def SN_CFG_LEAVE : Fld := ⟨0x0A_0000, 0, 1, 1, 1, 0x1, 0, .rw, .f04⟩
/-- SN_CFG.PART_GRAN [11:8] (R545). -/
def SN_CFG_PART_GRAN : Fld := ⟨0x0A_0000, 0, 1, 8, 4, 0x2, 0, .rwl, .f04⟩
/-- SN_PARTNER.MODULE [13:0] (R545). -/
def SN_PARTNER_MODULE : Fld := ⟨0x0A_0004, 0, 1, 0, 14, 0x0, 0, .rw, .f04⟩
/-- SN_PARTNER.VALID [14] (R545). -/
def SN_PARTNER_VALID : Fld := ⟨0x0A_0004, 0, 1, 14, 1, 0x0, 0, .rw, .f04⟩
/-- SN_WARD.MODULE [13:0] (R545). -/
def SN_WARD_MODULE : Fld := ⟨0x0A_0008, 0, 1, 0, 14, 0x0, 0, .rw, .f04⟩
/-- SN_WARD.VALID [14] (R545). -/
def SN_WARD_VALID : Fld := ⟨0x0A_0008, 0, 1, 14, 1, 0x0, 0, .rw, .f04⟩
/-- SN_LOCAL_RSV.GIB [15:0] (R545). -/
def SN_LOCAL_RSV_GIB : Fld := ⟨0x0A_000C, 0, 1, 0, 16, 0x0, 0, .rwl, .f04⟩
/-- SN_HB_CFG.PERIOD [7:0] (R545). -/
def SN_HB_CFG_PERIOD : Fld := ⟨0x0A_0010, 0, 1, 0, 8, 0xa, 0, .rw, .f04⟩
/-- SN_HB_CFG.MISSES [11:8] (R545). -/
def SN_HB_CFG_MISSES : Fld := ⟨0x0A_0010, 0, 1, 8, 4, 0x3, 0, .rw, .f04⟩
/-- SN_HB_CFG.EN [12] (R545). -/
def SN_HB_CFG_EN : Fld := ⟨0x0A_0010, 0, 1, 12, 1, 0x0, 0, .rw, .f04⟩
/-- SN_HB_WATCH.MODULE [13:0] (R545). -/
def SN_HB_WATCH_MODULE : Fld := ⟨0x0A_0020, 4, 8, 0, 14, 0x0, 0, .rw, .f04⟩
/-- SN_HB_WATCH.VALID [14] (R545). -/
def SN_HB_WATCH_VALID : Fld := ⟨0x0A_0020, 4, 8, 14, 1, 0x0, 0, .rw, .f04⟩
/-- SN_HB_WATCH.FAILED [15] (R545). -/
def SN_HB_WATCH_FAILED : Fld := ⟨0x0A_0020, 4, 8, 15, 1, 0x0, 0, .w1c, .f04⟩
/-- SN_HB_WATCH.TAG [31:16] (R545). -/
def SN_HB_WATCH_TAG : Fld := ⟨0x0A_0020, 4, 8, 16, 16, 0x0, 0, .rw, .f04⟩
/-- SN_SET_SEL.SET [1:0] (R545). -/
def SN_SET_SEL_SET : Fld := ⟨0x0A_0040, 0, 1, 0, 2, 0x0, 0, .rw, .f04⟩
/-- SN_GEN_PARTNER.GEN [31:0] (R545). -/
def SN_GEN_PARTNER_GEN : Fld := ⟨0x0A_0044, 0, 1, 0, 32, 0xffffffff, 0, .ro, .f04⟩
/-- SN_GEN_LOCAL.GEN [31:0] (R545). -/
def SN_GEN_LOCAL_GEN : Fld := ⟨0x0A_0048, 0, 1, 0, 32, 0xffffffff, 0, .ro, .f04⟩
/-- SN_GEN_SHARED.GEN [31:0] (R545). -/
def SN_GEN_SHARED_GEN : Fld := ⟨0x0A_004C, 0, 1, 0, 32, 0xffffffff, 0, .ro, .f04⟩
/-- SN_GEN_CLEAN.GEN [31:0] (R545). -/
def SN_GEN_CLEAN_GEN : Fld := ⟨0x0A_0050, 0, 1, 0, 32, 0xffffffff, 0, .ro, .f04⟩
/-- SN_GEN_HELD.GEN [31:0] (R545). -/
def SN_GEN_HELD_GEN : Fld := ⟨0x0A_0054, 0, 1, 0, 32, 0xffffffff, 0, .ro, .f04⟩
/-- SN_SET_STATE.DEFINED [0] (R545). -/
def SN_SET_STATE_DEFINED : Fld := ⟨0x0A_0058, 0, 1, 0, 1, 0x0, 0, .ro, .f04⟩
/-- SN_SET_STATE.OWNER [7:1] (R545). -/
def SN_SET_STATE_OWNER : Fld := ⟨0x0A_0058, 0, 1, 1, 7, 0x0, 0, .ro, .f04⟩
/-- SN_SET_STATE.CAPTURE [8] (R545). -/
def SN_SET_STATE_CAPTURE : Fld := ⟨0x0A_0058, 0, 1, 8, 1, 0x0, 0, .ro, .f04⟩
/-- SN_SET_STATE.LAYERS [11:9] (R545). -/
def SN_SET_STATE_LAYERS : Fld := ⟨0x0A_0058, 0, 1, 9, 3, 0x0, 0, .ro, .f04⟩
/-- SN_CNT_NOTICE.FWD [15:0] (R545). -/
def SN_CNT_NOTICE_FWD : Fld := ⟨0x0A_0060, 0, 1, 0, 16, 0x0, 0, .rw, .f04⟩
/-- SN_CNT_NOTICE.DUP [31:16] (R545). -/
def SN_CNT_NOTICE_DUP : Fld := ⟨0x0A_0060, 0, 1, 16, 16, 0x0, 0, .rw, .f04⟩
/-- SN_CNT_CRC.CRC [31:0] (R545). -/
def SN_CNT_CRC_CRC : Fld := ⟨0x0A_0064, 0, 1, 0, 32, 0x0, 0, .rw, .f04⟩
/-- SN_CNT_OPWAIT.OPWAIT [31:0] (R545). -/
def SN_CNT_OPWAIT_OPWAIT : Fld := ⟨0x0A_0068, 0, 1, 0, 32, 0x0, 0, .rw, .f04⟩
/-- MGT_ERR_CE.SRAM [15:0] (R546). -/
def MGT_ERR_CE_SRAM : Fld := ⟨0x68_0000, 0, 1, 0, 16, 0x0, 0, .rw, .all⟩
/-- MGT_ERR_CE.HBM [31:16] (R546). -/
def MGT_ERR_CE_HBM : Fld := ⟨0x68_0000, 0, 1, 16, 16, 0x0, 0, .rw, .all⟩
/-- MGT_ERR_UE.SRAM [15:0] (R546). -/
def MGT_ERR_UE_SRAM : Fld := ⟨0x68_0004, 0, 1, 0, 16, 0x0, 0, .rw, .all⟩
/-- MGT_ERR_UE.HBM [31:16] (R546). -/
def MGT_ERR_UE_HBM : Fld := ⟨0x68_0004, 0, 1, 16, 16, 0x0, 0, .rw, .all⟩
/-- MGT_ERR_PC.STK0 [2:0] (R546). -/
def MGT_ERR_PC_STK0 : Fld := ⟨0x68_0008, 0, 1, 0, 3, 0x0, 0, .ro, .all⟩
/-- MGT_ERR_PC.STK1 [5:3] (R546). -/
def MGT_ERR_PC_STK1 : Fld := ⟨0x68_0008, 0, 1, 3, 3, 0x0, 0, .ro, .all⟩
/-- MGT_FENCE.STATIONS [15:0] (R546). -/
def MGT_FENCE_STATIONS : Fld := ⟨0x68_000C, 0, 1, 0, 16, 0x0, 0, .ro, .all⟩
/-- MGT_FENCE.DIE [16] (R546). -/
def MGT_FENCE_DIE : Fld := ⟨0x68_000C, 0, 1, 16, 1, 0x0, 0, .ro, .all⟩
/-- MGT_FENCE.CAUSE [31:24] (R546). -/
def MGT_FENCE_CAUSE : Fld := ⟨0x68_000C, 0, 1, 24, 8, 0x0, 0, .ro, .all⟩
/-- MGT_ERR_SILENT.SILENT [31:0] (R546). -/
def MGT_ERR_SILENT_SILENT : Fld := ⟨0x68_0010, 0, 1, 0, 32, 0x0, 0, .rw, .all⟩
/-- MGT_ELOG_TAIL.TAIL [31:0] (R547). -/
def MGT_ELOG_TAIL_TAIL : Fld := ⟨0x0B_0000, 0, 1, 0, 32, 0x0, 0, .ro, .f04⟩
/-- MGT_ELOG_SEL.INDEX [9:0] (R547). -/
def MGT_ELOG_SEL_INDEX : Fld := ⟨0x0B_0004, 0, 1, 0, 10, 0x0, 0, .rw, .f04⟩
/-- MGT_ELOG_DATA.WORD [31:0] (R547). -/
def MGT_ELOG_DATA_WORD : Fld := ⟨0x0B_0020, 4, 8, 0, 32, 0x0, 0, .ro, .f04⟩
/-- MGT_SVC.LEVEL [2:0] (R572). -/
def MGT_SVC_LEVEL : Fld := ⟨0x0C_0000, 0, 1, 0, 3, 0x0, 0, .ro, .f04⟩
/-- MGT_SVC.CAL_SPLIT [3] (R572). -/
def MGT_SVC_CAL_SPLIT : Fld := ⟨0x0C_0000, 0, 1, 3, 1, 0x0, 0, .ro, .f04⟩
/-- MGT_SVC.RECOVERY [4] (R572). -/
def MGT_SVC_RECOVERY : Fld := ⟨0x0C_0000, 0, 1, 4, 1, 0x0, 0, .ro, .f04⟩
/-- MGT_SVC.MANAGER [5] (R572). -/
def MGT_SVC_MANAGER : Fld := ⟨0x0C_0000, 0, 1, 5, 1, 0x0, 0, .ro, .f04⟩
/-- MGT_SVC_DIES.LIMITED [15:0] (R572). -/
def MGT_SVC_DIES_LIMITED : Fld := ⟨0x0C_0004, 0, 1, 0, 16, 0x0, 0, .ro, .f04⟩
/-- MGT_SVC_DIES.FULL [31:16] (R572). -/
def MGT_SVC_DIES_FULL : Fld := ⟨0x0C_0004, 0, 1, 16, 16, 0x0, 0, .ro, .f04⟩
/-- MGT_BOOT_LIM.MS [31:0] (R572). -/
def MGT_BOOT_LIM_MS : Fld := ⟨0x0C_0008, 0, 1, 0, 32, 0x0, 0, .rws, .f04⟩
/-- MGT_BOOT_FULL.MS [31:0] (R572). -/
def MGT_BOOT_FULL_MS : Fld := ⟨0x0C_000C, 0, 1, 0, 32, 0x0, 0, .rws, .f04⟩
/-- MGT_STRAP.SDA [1:0] (R572). -/
def MGT_STRAP_SDA : Fld := ⟨0x0C_0010, 0, 1, 0, 2, 0x1, 0, .ro, .f04⟩
/-- MGT_STRAP.SCL [3:2] (R572). -/
def MGT_STRAP_SCL : Fld := ⟨0x0C_0010, 0, 1, 2, 2, 0x0, 0, .ro, .f04⟩
/-- MGT_STRAP.ADDR [10:4] (R572). -/
def MGT_STRAP_ADDR : Fld := ⟨0x0C_0010, 0, 1, 4, 7, 0x30, 0, .ro, .f04⟩
/-- MGT_RESET.WARM [0] (R572). -/
def MGT_RESET_WARM : Fld := ⟨0x0C_0014, 0, 1, 0, 1, 0x0, 0, .wo, .f04⟩
/-- MGT_RESET.CAUSE [7:4] (R572). -/
def MGT_RESET_CAUSE : Fld := ⟨0x0C_0014, 0, 1, 4, 4, 0x0, 0, .rws, .f04⟩
/-- MGT_FW.VERSION [31:0] (R572). -/
def MGT_FW_VERSION : Fld := ⟨0x0C_0018, 0, 1, 0, 32, 0x0, 0, .ro, .f04⟩
/-- MGT_FW_STATE.SLOT [0] (R572). -/
def MGT_FW_STATE_SLOT : Fld := ⟨0x0C_001C, 0, 1, 0, 1, 0x0, 0, .rws, .f04⟩
/-- MGT_FW_STATE.RUNNING [1] (R572). -/
def MGT_FW_STATE_RUNNING : Fld := ⟨0x0C_001C, 0, 1, 1, 1, 0x0, 0, .ro, .f04⟩
/-- MGT_FW_STATE.FALLBACK [2] (R572). -/
def MGT_FW_STATE_FALLBACK : Fld := ⟨0x0C_001C, 0, 1, 2, 1, 0x0, 0, .ro, .f04⟩
/-- MGT_FW_STATE.PENDING [3] (R572). -/
def MGT_FW_STATE_PENDING : Fld := ⟨0x0C_001C, 0, 1, 3, 1, 0x0, 0, .ro, .f04⟩
/-- MGT_FW_STATE.SVN [9:4] (R572). -/
def MGT_FW_STATE_SVN : Fld := ⟨0x0C_001C, 0, 1, 4, 6, 0x0, 0, .ro, .f04⟩
/-- MGT_FW_STATE.SVN_MIN [15:10] (R572). -/
def MGT_FW_STATE_SVN_MIN : Fld := ⟨0x0C_001C, 0, 1, 10, 6, 0x0, 0, .ro, .f04⟩
/-- MGT_FW_STATE.KEYS_REVOKED [19:16] (R572). -/
def MGT_FW_STATE_KEYS_REVOKED : Fld := ⟨0x0C_001C, 0, 1, 16, 4, 0x0, 0, .ro, .f04⟩
/-- SEC_KEY_SEL.SLOT [6:0] (R572). -/
def SEC_KEY_SEL_SLOT : Fld := ⟨0x0D_0000, 0, 1, 0, 7, 0x0, 0, .rw, .f04⟩
/-- SEC_KEY_STATE.VALID [0] (R572). -/
def SEC_KEY_STATE_VALID : Fld := ⟨0x0D_0004, 0, 1, 0, 1, 0x0, 0, .ro, .f04⟩
/-- SEC_KEY_STATE.KIND [1] (R572). -/
def SEC_KEY_STATE_KIND : Fld := ⟨0x0D_0004, 0, 1, 1, 1, 0x0, 0, .ro, .f04⟩
/-- SEC_KEY_STATE.KEY_SEL [2] (R572). -/
def SEC_KEY_STATE_KEY_SEL : Fld := ⟨0x0D_0004, 0, 1, 2, 1, 0x0, 0, .ro, .f04⟩
/-- SEC_KEY_STATE.SEND [3] (R572). -/
def SEC_KEY_STATE_SEND : Fld := ⟨0x0D_0004, 0, 1, 3, 1, 0x0, 0, .ro, .f04⟩
/-- SEC_KEY_STATE.SCOPE [6:4] (R572). -/
def SEC_KEY_STATE_SCOPE : Fld := ⟨0x0D_0004, 0, 1, 4, 3, 0x0, 0, .ro, .f04⟩
/-- SEC_KEY_STATE.TAG [31:16] (R572). -/
def SEC_KEY_STATE_TAG : Fld := ⟨0x0D_0004, 0, 1, 16, 16, 0x0, 0, .ro, .f04⟩
/-- SEC_KEY_ID.ID [31:0] (R572). -/
def SEC_KEY_ID_ID : Fld := ⟨0x0D_0008, 0, 1, 0, 32, 0x0, 0, .ro, .f04⟩
/-- SEC_CNT_AUTH.AUTH [31:0] (R572). -/
def SEC_CNT_AUTH_AUTH : Fld := ⟨0x0D_0010, 0, 1, 0, 32, 0x0, 0, .rw, .f04⟩
/-- SEC_CNT_PROT.PROT [31:0] (R572). -/
def SEC_CNT_PROT_PROT : Fld := ⟨0x0D_0014, 0, 1, 0, 32, 0x0, 0, .rw, .f04⟩
/-- SEC_RS_OWN.OWNER [7:0] (R573). -/
def SEC_RS_OWN_OWNER : Fld := ⟨0x6C_0000, 4, 16, 0, 8, 0x0, 0, .rwl, .comp⟩
/-- SEC_PF_OWN.OWNER [7:0] (R573). -/
def SEC_PF_OWN_OWNER : Fld := ⟨0x6C_0040, 4, 16, 0, 8, 0x0, 0, .rwl, .comp⟩
/-- SEC_SH_OWN.OWNER [7:0] (R573). -/
def SEC_SH_OWN_OWNER : Fld := ⟨0x6C_0080, 4, 16, 0, 8, 0x0, 0, .rwl, .comp⟩
/-- TST_ATB.SRC_A [7:0] (R586). -/
def TST_ATB_SRC_A : Fld := ⟨0x70_0000, 0, 1, 0, 8, 0x0, 0, .rw, .all⟩
/-- TST_ATB.SRC_B [15:8] (R586). -/
def TST_ATB_SRC_B : Fld := ⟨0x70_0000, 0, 1, 8, 8, 0x0, 0, .rw, .all⟩
/-- TST_ATB.ERR [16] (R586). -/
def TST_ATB_ERR : Fld := ⟨0x70_0000, 0, 1, 16, 1, 0x0, 0, .ro, .all⟩
/-- TST_BIST.TARGET [2:0] (R586). -/
def TST_BIST_TARGET : Fld := ⟨0x70_0004, 0, 1, 0, 3, 0x0, 0, .rw, .all⟩
/-- TST_BIST.START [3] (R586). -/
def TST_BIST_START : Fld := ⟨0x70_0004, 0, 1, 3, 1, 0x0, 0, .wo, .all⟩
/-- TST_BIST.BUSY [4] (R586). -/
def TST_BIST_BUSY : Fld := ⟨0x70_0004, 0, 1, 4, 1, 0x0, 0, .ro, .all⟩
/-- TST_BIST.PASS [5] (R586). -/
def TST_BIST_PASS : Fld := ⟨0x70_0004, 0, 1, 5, 1, 0x0, 0, .ro, .all⟩
/-- TST_BIST.LAST [15:8] (R586). -/
def TST_BIST_LAST : Fld := ⟨0x70_0004, 0, 1, 8, 8, 0x0, 0, .ro, .all⟩
/-- TST_BIST.FAILS [23:16] (R586). -/
def TST_BIST_FAILS : Fld := ⟨0x70_0004, 0, 1, 16, 8, 0x0, 0, .ro, .all⟩
/-- TST_MARGIN.TARGET [2:0] (R586). -/
def TST_MARGIN_TARGET : Fld := ⟨0x70_0008, 0, 1, 0, 3, 0x0, 0, .rw, .all⟩
/-- TST_MARGIN.START [3] (R586). -/
def TST_MARGIN_START : Fld := ⟨0x70_0008, 0, 1, 3, 1, 0x0, 0, .wo, .all⟩
/-- TST_MARGIN.REPAIR [4] (R586). -/
def TST_MARGIN_REPAIR : Fld := ⟨0x70_0008, 0, 1, 4, 1, 0x0, 0, .rw, .all⟩
/-- TST_MARGIN.BUSY [5] (R586). -/
def TST_MARGIN_BUSY : Fld := ⟨0x70_0008, 0, 1, 5, 1, 0x0, 0, .ro, .all⟩
/-- TST_MARGIN.WEAK [6] (R586). -/
def TST_MARGIN_WEAK : Fld := ⟨0x70_0008, 0, 1, 6, 1, 0x0, 0, .ro, .all⟩
/-- TST_MARGIN.LAST [15:8] (R586). -/
def TST_MARGIN_LAST : Fld := ⟨0x70_0008, 0, 1, 8, 8, 0x0, 0, .ro, .all⟩
/-- TST_MARGIN.LANE [23:16] (R586). -/
def TST_MARGIN_LANE : Fld := ⟨0x70_0008, 0, 1, 16, 8, 0x0, 0, .ro, .all⟩
/-- TST_MARGIN.MARGIN [31:24] (R586). -/
def TST_MARGIN_MARGIN : Fld := ⟨0x70_0008, 0, 1, 24, 8, 0x0, 0, .ro, .all⟩
/-- TST_PPR.USED0 [15:0] (R586). -/
def TST_PPR_USED0 : Fld := ⟨0x70_000C, 0, 1, 0, 16, 0x0, 0, .ro, .all⟩
/-- TST_PPR.USED1 [31:16] (R586). -/
def TST_PPR_USED1 : Fld := ⟨0x70_000C, 0, 1, 16, 16, 0x0, 0, .ro, .all⟩
/-- TST_ALLOW.ATB [0] (R587). -/
def TST_ALLOW_ATB : Fld := ⟨0x0E_0000, 0, 1, 0, 1, 0x1, 0, .rwl, .f04⟩
/-- TST_ALLOW.BIST [1] (R587). -/
def TST_ALLOW_BIST : Fld := ⟨0x0E_0000, 0, 1, 1, 1, 0x1, 0, .rwl, .f04⟩
/-- TST_ALLOW.MARGIN [2] (R587). -/
def TST_ALLOW_MARGIN : Fld := ⟨0x0E_0000, 0, 1, 2, 1, 0x1, 0, .rwl, .f04⟩
/-- TST_ALLOW.REPAIR [3] (R587). -/
def TST_ALLOW_REPAIR : Fld := ⟨0x0E_0000, 0, 1, 3, 1, 0x1, 0, .rwl, .f04⟩
/-- TST_ATB_ROUTE.DIE_A [4:0] (R587). -/
def TST_ATB_ROUTE_DIE_A : Fld := ⟨0x0E_0004, 0, 1, 0, 5, 0x0, 0, .rw, .f04⟩
/-- TST_ATB_ROUTE.EN_A [5] (R587). -/
def TST_ATB_ROUTE_EN_A : Fld := ⟨0x0E_0004, 0, 1, 5, 1, 0x0, 0, .rw, .f04⟩
/-- TST_ATB_ROUTE.DIE_B [12:8] (R587). -/
def TST_ATB_ROUTE_DIE_B : Fld := ⟨0x0E_0004, 0, 1, 8, 5, 0x0, 0, .rw, .f04⟩
/-- TST_ATB_ROUTE.EN_B [13] (R587). -/
def TST_ATB_ROUTE_EN_B : Fld := ⟨0x0E_0004, 0, 1, 13, 1, 0x0, 0, .rw, .f04⟩
/-- TST_RLOG_TAIL.TAIL [31:0] (R587). -/
def TST_RLOG_TAIL_TAIL : Fld := ⟨0x0E_0010, 0, 1, 0, 32, 0x0, 0, .ro, .f04⟩
/-- TST_RLOG_SEL.INDEX [11:0] (R587). -/
def TST_RLOG_SEL_INDEX : Fld := ⟨0x0E_0014, 0, 1, 0, 12, 0x0, 0, .rw, .f04⟩
/-- TST_RLOG_DATA.WORD [31:0] (R587). -/
def TST_RLOG_DATA_WORD : Fld := ⟨0x0E_0020, 4, 8, 0, 32, 0x0, 0, .ro, .f04⟩

/-- Fields of chapter 01, part 0. -/
def tbl01_0 : List Fld := [
  HST_DIE_ID_DIE_INDEX, HST_DIE_ID_DIE_TYPE, HST_DIE_ID_STEP_LETTER, HST_DIE_ID_STEP_DIGIT,
  MGT_MOD_ID_BUILD, MGT_MOD_ID_FAR_DEV, MGT_MOD_ID_FLASH_CH]
/-- Fields of chapter 02, part 0. -/
def tbl02_0 : List Fld := [
  QUE_STREAM_SEL_STREAM, QUE_STREAM_BASE_BASE, QUE_STREAM_SHAPE_SLOTS_M1, QUE_STREAM_SHAPE_SLOT_LINES,
  QUE_STREAM_SHAPE_CONS_M1, QUE_STREAM_SHAPE_ACTIVE, QUE_STREAM_SHAPE_PRODUCER, QUE_STREAM_CONS_CONS0,
  QUE_STREAM_TAIL_TAIL, QUE_STREAM_HEAD_HEAD, QUE_STREAM_STALL_FULL, QUE_STREAM_STALL_EMPTY,
  QUE_TOKEN_SEL_TOKEN, QUE_TOKEN_VAL_VALUE, QUE_TOKEN_WAIT_WAITERS, QUE_POOL_AGED_AGED]
/-- Fields of chapter 03, part 0. -/
def tbl03_0 : List Fld := [
  QUE_Q_BASE_LO_BASE, QUE_Q_BASE_HI_BASE, QUE_Q_CFG_SIZE_LOG2, QUE_Q_CFG_LOC,
  QUE_Q_CFG_PRIO, QUE_Q_CFG_WEIGHT, QUE_Q_CFG_OUTST_M1, QUE_Q_CFG_CR,
  QUE_Q_CTRL_ENABLE, QUE_Q_CTRL_ABORT, QUE_Q_CTRL_CLR_ERR, QUE_Q_CTRL_OPC_MASK,
  QUE_Q_STATUS_STATE, QUE_Q_STATUS_IDLE, QUE_Q_STATUS_OUTST, QUE_Q_STATUS_ERR,
  QUE_Q_STATUS_LOST_CPL, QUE_Q_HEAD_FETCH_HEAD, QUE_Q_HEAD_TAIL, QUE_Q_HWB_LO_ADDR,
  QUE_Q_HWB_HI_ADDR, QUE_CR_BASE_LO_BASE, QUE_CR_BASE_HI_BASE, QUE_CR_CFG_SIZE_LOG2,
  QUE_CR_CFG_LOC, QUE_CR_CFG_ENABLE, QUE_CR_CFG_VEC, QUE_CR_MOD_CNT,
  QUE_CR_MOD_TIME, QUE_CR_TAIL_TAIL, QUE_CR_HEAD_HEAD, QUE_CR_STATUS_ARMED,
  QUE_CR_STATUS_FULL, QUE_CR_STATUS_FULL_STALL, HST_SEAL_SEAL, HST_WIN_SEL_DIE,
  HST_BAR4_CFG_SIZE, HST_BAR4_BASE_LO_BASE, HST_BAR4_BASE_HI_BASE, HST_FN_CFG_OPC_MASK]
/-- Fields of chapter 03, part 1. -/
def tbl03_1 : List Fld := [
  HST_FN_CFG_MAX_EC, HST_FN_CFG_MAX_PRIO, HST_FN_CFG_GW_EN, HST_FN_ERR_BASE_LO_BASE,
  HST_FN_ERR_BASE_HI_BASE, HST_FN_ERR_HEAD_HEAD, HST_FN_ERR_TAIL_TAIL, HST_FN_ERR_TAIL_OVF,
  QUE_GRP_OWN_OWNER, QUE_TOK_OWN_OWNER, QUE_CR_OWN_OWNER]
/-- Fields of chapter 04, part 0. -/
def tbl04_0 : List Fld := [
  MX_STATE_ISSUE, MX_STATE_ACT_SET, MX_STATE_SHADOW, MX_STATE_CMD,
  MX_STATE_DRAIN, MX_CNT_CTRL_FREEZE, MX_CNT_CTRL_CLEAR, MX_CYC_VALID_VALID,
  MX_CYC_EMPTY_EMPTY, MX_CYC_BANK_BANK, MX_CYC_DRAIN_DRAIN, MX_CYC_LOAD_LOAD,
  MX_CYC_GOV_GOV, MX_CYC_IDLE_IDLE, MX_ROWS_SKIP_SKIP, MX_PASSES_PASSES,
  MX_ERR_PARITY, MX_ERR_POISON_ROWS]
/-- Fields of chapter 05, part 0. -/
def tbl05_0 : List Fld := [
  SL_STATE_PHASE, SL_CALLS_CALLS, SL_UNMET_UNMET, SL_ELEMS_ELEMS,
  SL_ZEROED_ZEROED]
/-- Fields of chapter 06, part 0. -/
def tbl06_0 : List Fld := [
  CV_RS_SEL_STREAM, CV_RS_SEED_LO_SEED, CV_RS_SEED_HI_SEED, CV_RS_EPOCH_EPOCH,
  CV_RS_STATE_SET, CV_CNT_SR_SR, CV_CNT_SAT_SAT, CV_CNT_UFL_UFL,
  CV_CNT_NAN_NAN, CV_CK_STALL_STALL, CK_TT_SEL_INDEX, CK_TT_TAG_TAG,
  CK_TT_TAG_BOUND, CK_TT_CFG_CTL, CK_TT_CFG_STREAM, CK_TT_CFG_LOG2N,
  CK_TT_CFG_TAU, CK_TT_LEVEL_LEVEL, CK_TT_LEVEL_CEIL, CK_TT_LEVEL_DISAGREE,
  CK_SAMPLES_SAMPLES, CK_DISAGREE_DISAGREE, CK_ESCALATED_ESCALATED, CK_QUEUE_PENDING]
/-- Fields of chapter 07, part 0. -/
def tbl07_0 : List Fld := [
  AT_STATE_ISSUE, AT_STATE_MODE, AT_STATE_CMD, AT_CNT_CTRL_FREEZE,
  AT_CNT_CTRL_CLEAR, AT_CYC_VALID_VALID, AT_CYC_EMPTY_EMPTY, AT_CYC_LOAD_LOAD,
  AT_CYC_RING_RING, AT_CYC_GOV_GOV, AT_CYC_IDLE_IDLE, AT_PAIRS_PAIRS,
  AT_PAIRS_SKIP_SKIP, AT_ROWS_SPECIAL_NAN, AT_ROWS_SPECIAL_EMPTY, AT_ERR_POISON,
  AT_ERR_PARITY, AT_RING_FWD_HOPS, AT_RING_TMO_TMO]
/-- Fields of chapter 08, part 0. -/
def tbl08_0 : List Fld := [
  PG_STATE_ACT_BANK, PG_STATE_REBUILD, PG_STATE_WALKS, PG_STATE_PARKED,
  PG_KV_BASE_BASE, PG_KV_COUNT_COUNT, PG_PARK_LIMIT_LIMIT, PG_CLASS_RSV_RSV,
  PG_CLASS_FREE_FREE, PG_SHARED_FREE_FREE, PG_SPAN_FREE_FREE, PG_SPAN_MAX_MAX,
  PG_SEQ_SEL_INDEX, PG_SEQ_STATE_STATE, PG_SEQ_STATE_PARKED, PG_SEQ_STATE_CLASS,
  PG_SEQ_STATE_PRIO, PG_SEQ_STATE_OWNER, PG_SEQ_STATE_EPOCH, PG_SEQ_LEN_LENGTH,
  PG_SEQ_BASE_BASE, PG_SEQ_MAPPED_MAPPED, PG_SEQ_FIRST_FIRST, PG_CNT_WALKS_WALKS,
  PG_CNT_DEFER_DEFER, PG_CNT_DEMOTE_DEMOTE, PG_CNT_PARK_PARK, PG_CNT_PREEMPT_PREEMPT,
  PG_CNT_STALE_STALE]
/-- Fields of chapter 09, part 0. -/
def tbl09_0 : List Fld := [
  QUE_ST_STATE_STATE, QUE_ST_STATE_BUSY, QUE_ST_STATE_REPLAY, QUE_ST_NEXT_NEXT,
  QUE_ST_STEP_STEP, QUE_ST_ITEMS_ITEMS, QUE_ST_DROP_DROPPED, QUE_ST_DROP_RERUN,
  QUE_ST_LATE_LATE, QUE_ST_MOVEFAIL_MOVEFAIL, QUE_ST_SLOTWAIT_SLOTWAIT, RD_SH_SEL_SHARD,
  RD_SH_STEP_STEP, RD_SH_VER_EPOCH, RD_SH_VER_STATE, RD_SH_REFS_REFS,
  RD_SH_REFS_WAITING, RD_SH_UNDERFLOW_UNDERFLOW, RD_SH_MISMATCH_MISMATCH]
/-- Fields of chapter 10, part 0. -/
def tbl10_0 : List Fld := [
  TM_STATE_FAR_OK, TM_STATE_FLASH_OK, TM_STATE_FAR_DEVS, TM_STATE_MOVES,
  TM_STATE_WAITING, TM_CFG_DEMOTE, TM_CFG_FAR_PRIO, TM_SETTLE_SETTLE,
  TM_LIMIT_HBM_LIMIT, TM_LIMIT_FAR_LIMIT, TM_LIMIT_FLASH_LIMIT, TM_WM_HBM_LOW,
  TM_WM_HBM_HIGH, TM_WM_FAR_LOW, TM_WM_FAR_HIGH, TM_REC_FREE_FREE,
  TM_FLASH_STATE_RDONLY, TM_FLASH_STATE_WEAR, TM_FLASH_STATE_ABSENT, TM_FLASH_FREE_FREE,
  TM_CNT_DEMOTE_DEMOTE, TM_CNT_PROMOTE_PROMOTE, TM_CNT_SETTLING_SETTLING, TM_CNT_PINNED_PINNED,
  TM_CNT_TIMEOUT_TIMEOUT, TM_CNT_LOST_LOST, TM_CNT_FULL_FULL, TM_CNT_HELD_HELD,
  TM_FN_TBL_GRAN, TM_FN_TBL_VALID, TM_GRAN_OWN_OWNER, TM_FGRAN_OWN_OWNER]
/-- Fields of chapter 11, part 0. -/
def tbl11_0 : List Fld := [
  QUE_SC_CTRL_FREEZE, QUE_SC_CTRL_CLEAR, QUE_SC_CNT0_CNT0, QUE_SC_CNT1_CNT1,
  QUE_SC_CNT2_CNT2, QUE_SC_CNT3_CNT3, QUE_SC_CNT4_CNT4, QUE_SC_CNT5_CNT5,
  QUE_SC_CNT6_CNT6, MV_STATE_OUTST, MV_STATE_FENCED, MV_STATE_STREAMS,
  MV_LEVEL_SEL_LEVEL, MV_LEVEL_OUTST, MV_CNT_RD_RD, MV_CNT_WR_WR,
  MV_CNT_NARROW_NARROW, MV_CNT_REFETCH_STALE, MV_CNT_REFETCH_AGED, MV_CNT_LOCKED_LOCKED,
  MV_CNT_RA_DROP_XLATE, MV_CNT_RA_DROP_PROT, MV_CNT_NOPF_NOPF, MV_CNT_POISON_POISON,
  MV_GEN_FREE_FREE, MV_CNT_UNTRACKED_UNTRACKED]
/-- Fields of chapter 12, part 0. -/
def tbl12_0 : List Fld := [
  FAB_PORT_CFG_ENABLE, FAB_PORT_CFG_DIR, FAB_PORT_CFG_INTERPOD, FAB_PORT_CFG_HALF,
  FAB_PORT_CFG_NARROW, FAB_PORT_STATE_STATE, FAB_PORT_STATE_HALF, FAB_PORT_STATE_NARROW,
  FAB_PORT_LANES_MAP, FAB_PORT_FEC_CORR, FAB_PORT_UNCORR_UNCORR, FAB_PORT_CRC_CRC,
  FAB_PORT_REPLAY_REPLAY, FAB_PORT_DOWN_LOST, FAB_PORT_DOWN_RETRAIN, FAB_PORT_ERR_ERR,
  FAB_CLS_FLOOR_FLOOR, FAB_CLS_WEIGHT_ORD, FAB_CLS_WEIGHT_POD, FAB_LOSS_LIMIT_LIMIT,
  FAB_LOSS_LIMIT_HOLD, FAB_MC_LAG_FLITS, FAB_MC_LAG_TIME, FAB_ROUTE_CTRL_ACTIVE,
  FAB_ROUTE_CTRL_COPY, FAB_ROUTE_CTRL_SWAP, FAB_ROUTE_CTRL_BUSY, FAB_ROUTE_CTRL_ERR,
  FAB_DIM_X, FAB_DIM_Y, FAB_DIM_Z, FAB_DIM_WRAP,
  FAB_OVR_SEL_INDEX, FAB_OVR_MATCH_VALUE, FAB_OVR_MATCH_MASK, FAB_OVR_PORTS_LO_PORTS,
  FAB_OVR_PORTS_HI_PORTS, FAB_OVR_PORTS_HI_CLASSES, FAB_OVR_PORTS_HI_VALID, FAB_MOD_SEL_MODULE]
/-- Fields of chapter 12, part 1. -/
def tbl12_1 : List Fld := [
  FAB_MOD_COORD_POD, FAB_MOD_COORD_X, FAB_MOD_COORD_Y, FAB_MOD_COORD_Z,
  FAB_MOD_COORD_VALID, FAB_MC_SEL_GROUP, FAB_MC_DIES_DIES, FAB_MC_PORTS_LO_PORTS,
  FAB_MC_PORTS_HI_PORTS, FAB_MC_PORTS_HI_COUNT, FAB_MC_PORTS_HI_VALID, FAB_WIN_SEL_WINDOW,
  FAB_WIN_CFG_ENABLE, FAB_WIN_CFG_KIND, FAB_WIN_CFG_WRITE, FAB_WIN_CFG_OWNER,
  FAB_WIN_CFG_TAG, FAB_WIN_BASE_LO_BASE, FAB_WIN_BASE_HI_BASE, FAB_WIN_LEN_LEN,
  FAB_RX_REFUSED_REFUSED, FAB_RX_DUP_DUP, FAB_RX_BUSY_BUSY, FAB_RX_FLOWS_FLOWS,
  FAB_FN_TAG_TAG, FAB_SELF_MODULE, FAB_SELF_VALID, FAB_SELF_COORD_POD,
  FAB_SELF_COORD_X, FAB_SELF_COORD_Y, FAB_SELF_COORD_Z, FAB_SELF_COORD_VALID]
/-- Fields of chapter 13, part 0. -/
def tbl13_0 : List Fld := [
  RD_STATE_ACTIVE, RD_EPOCH_SEL_FUNCTION, RD_EPOCH_EPOCH, RD_EPOCH_MAP,
  RD_ACC_FLOOR_FLOOR, RD_ACC_FREE_FREE, RD_COMM_SEL_SLOT, RD_COMM_SIZE_N,
  RD_COMM_SIZE_VALID, RD_COMM_RANK_RANK, RD_COMM_RANK_OWNER, RD_COMM_SHAPE_GROUPS,
  RD_COMM_SHAPE_M_M1, RD_COMM_SHAPE_SPAN, RD_COMM_SEQ_SEQ, RD_CNT_REDUCE_REDUCE,
  RD_CNT_LATE_LATE, RD_CNT_DROP_DROP, RD_CNT_RES_DROP_RES_DROP, RD_CNT_STALE_STALE,
  RD_CNT_MAPFWD_MAPFWD, RD_CNT_ACCWAIT_ACCWAIT, RD_CNT_REROUTE_REROUTE, RD_CNT_PASS_PASS,
  RD_EXT_STATE_ACTIVE, RD_EXT_STATE_BUSY]
/-- Fields of chapter 14, part 0. -/
def tbl14_0 : List Fld := [
  FAB_DRAIN_PORTS, FAB_DRAIN_GO, FAB_DRAIN_RELEASE, FAB_DRAIN_ACTIVE,
  FAB_DRAIN_DRAINED, FAB_DRAIN_TIMEOUT, FAB_DRAIN_HOLD, FAB_DRAIN_HELD_HELD,
  FAB_SELF_CELL_CELL]
/-- Fields of chapter 15, part 0. -/
def tbl15_0 : List Fld := [
  GV_STATE_PS, GV_STATE_OPP, GV_STATE_MANUAL, GV_STATE_DIE_LVL,
  GV_STATE_STK0_LVL, GV_STATE_STK1_LVL, GV_TEMP_DIE, GV_TEMP_STK0,
  GV_TEMP_STK1, GV_POWER_DRAW, GV_POWER_SHARE, GV_CAP_FMAX,
  GV_CTRL_MANUAL, GV_CTRL_AUTO_GREY, GV_CTRL_GREY_IDLE, GV_PS_TARGET_TARGET,
  GV_FREQ_MHZ, GV_VOLT_MV, GV_VF_STATUS_LAST, GV_VF_STATUS_OVERRIDE,
  GV_STK_BW_STK0, GV_STK_BW_STK1, GV_CNT_HOT_HOT, GV_CNT_THROTTLE_THROTTLE,
  GV_CNT_HOLD_HOLD, GV_CNT_ABORT_ABORT, GV_MOD_BUDGET, GV_MOD_DRAW,
  PWR_STATE_SRC, PWR_STATE_MAIN_OK, PWR_STATE_BACKUP_OK, PWR_STATE_COOL_OK,
  PWR_STATE_RETURN, PWR_MAIN_BUDGET_WATTS, PWR_BACKUP_BUDGET_WATTS, PWR_UV_THRESH,
  PWR_CNT_SWITCH_TO_BACKUP, PWR_CNT_SWITCH_TO_MAIN, PWR_CNT_SWITCH_HELD, PWR_CNT_SWITCH_RIDE]
/-- Fields of chapter 15, part 1. -/
def tbl15_1 : List Fld := [
  AON_WAKE_LAST_SRC, AON_WAKE_LAST_DIE, AON_WAKE_LAST_PORT, AON_WAKE_TIME_COUNT,
  AON_WAKE_EN_EN, AON_COUNT_LO_COUNT, AON_COUNT_HI_COUNT, AON_CMP_LO_CMP,
  AON_CMP_HI_CMP]
/-- Fields of chapter 16, part 0. -/
def tbl16_0 : List Fld := [
  CLK_REF_SEL_PRIMARY, CLK_REF_SEL_PRI_EN, CLK_REF_SEL_SECONDARY, CLK_REF_SEL_SEC_EN,
  CLK_REF_SEL_LOCAL_EN, CLK_REF_SEL_REVERT, CLK_REF_STATE_SRC, CLK_REF_STATE_HOLDOVER,
  CLK_REF_STATE_PRI_OK, CLK_REF_STATE_SEC_OK, CLK_REF_STATE_LOC_OK, CLK_REF_STATE_AON_OK,
  CLK_REF_STATE_OFFSET, CLK_TICK_LO_TICK, CLK_TICK_HI_TICK, CLK_TICK_VALID,
  CLK_TICK_SLEWING, CLK_TICK_ROOT, CLK_OBS_DIE, CLK_OBS_DOMAIN,
  CLK_OBS_EN, CLK_OBS_PREEMPTED, CLK_OBS_LAST, CLK_CNT_REF_SWITCH,
  CLK_CNT_REF_LOCAL, CLK_CNT_REF_LOSS, CLK_DOM_STATE_SRC, CLK_DOM_STATE_LOCK0,
  CLK_DOM_STATE_LOCK1, CLK_DOM_STATE_STATE, CLK_DOM_STATE_RUNT, CLK_DOM_STATE_DIV,
  CLK_DOM_CTRL_SWITCH, CLK_DOM_CTRL_MARGIN_SW, CLK_DOM_CTRL_LAST, CLK_DOM_CNT_STOPS,
  CLK_DOM_CNT_SWITCHES]
/-- Fields of chapter 17, part 0. -/
def tbl17_0 : List Fld := [
  SN_CFG_FREEZE, SN_CFG_LEAVE, SN_CFG_PART_GRAN, SN_PARTNER_MODULE,
  SN_PARTNER_VALID, SN_WARD_MODULE, SN_WARD_VALID, SN_LOCAL_RSV_GIB,
  SN_HB_CFG_PERIOD, SN_HB_CFG_MISSES, SN_HB_CFG_EN, SN_HB_WATCH_MODULE,
  SN_HB_WATCH_VALID, SN_HB_WATCH_FAILED, SN_HB_WATCH_TAG, SN_SET_SEL_SET,
  SN_GEN_PARTNER_GEN, SN_GEN_LOCAL_GEN, SN_GEN_SHARED_GEN, SN_GEN_CLEAN_GEN,
  SN_GEN_HELD_GEN, SN_SET_STATE_DEFINED, SN_SET_STATE_OWNER, SN_SET_STATE_CAPTURE,
  SN_SET_STATE_LAYERS, SN_CNT_NOTICE_FWD, SN_CNT_NOTICE_DUP, SN_CNT_CRC_CRC,
  SN_CNT_OPWAIT_OPWAIT, MGT_ERR_CE_SRAM, MGT_ERR_CE_HBM, MGT_ERR_UE_SRAM,
  MGT_ERR_UE_HBM, MGT_ERR_PC_STK0, MGT_ERR_PC_STK1, MGT_FENCE_STATIONS,
  MGT_FENCE_DIE, MGT_FENCE_CAUSE, MGT_ERR_SILENT_SILENT, MGT_ELOG_TAIL_TAIL]
/-- Fields of chapter 17, part 1. -/
def tbl17_1 : List Fld := [
  MGT_ELOG_SEL_INDEX, MGT_ELOG_DATA_WORD]
/-- Fields of chapter 18, part 0. -/
def tbl18_0 : List Fld := [
  MGT_SVC_LEVEL, MGT_SVC_CAL_SPLIT, MGT_SVC_RECOVERY, MGT_SVC_MANAGER,
  MGT_SVC_DIES_LIMITED, MGT_SVC_DIES_FULL, MGT_BOOT_LIM_MS, MGT_BOOT_FULL_MS,
  MGT_STRAP_SDA, MGT_STRAP_SCL, MGT_STRAP_ADDR, MGT_RESET_WARM,
  MGT_RESET_CAUSE, MGT_FW_VERSION, MGT_FW_STATE_SLOT, MGT_FW_STATE_RUNNING,
  MGT_FW_STATE_FALLBACK, MGT_FW_STATE_PENDING, MGT_FW_STATE_SVN, MGT_FW_STATE_SVN_MIN,
  MGT_FW_STATE_KEYS_REVOKED, SEC_KEY_SEL_SLOT, SEC_KEY_STATE_VALID, SEC_KEY_STATE_KIND,
  SEC_KEY_STATE_KEY_SEL, SEC_KEY_STATE_SEND, SEC_KEY_STATE_SCOPE, SEC_KEY_STATE_TAG,
  SEC_KEY_ID_ID, SEC_CNT_AUTH_AUTH, SEC_CNT_PROT_PROT, SEC_RS_OWN_OWNER,
  SEC_PF_OWN_OWNER, SEC_SH_OWN_OWNER]
/-- Fields of chapter 19, part 0. -/
def tbl19_0 : List Fld := [
  TST_ATB_SRC_A, TST_ATB_SRC_B, TST_ATB_ERR, TST_BIST_TARGET,
  TST_BIST_START, TST_BIST_BUSY, TST_BIST_PASS, TST_BIST_LAST,
  TST_BIST_FAILS, TST_MARGIN_TARGET, TST_MARGIN_START, TST_MARGIN_REPAIR,
  TST_MARGIN_BUSY, TST_MARGIN_WEAK, TST_MARGIN_LAST, TST_MARGIN_LANE,
  TST_MARGIN_MARGIN, TST_PPR_USED0, TST_PPR_USED1, TST_ALLOW_ATB,
  TST_ALLOW_BIST, TST_ALLOW_MARGIN, TST_ALLOW_REPAIR, TST_ATB_ROUTE_DIE_A,
  TST_ATB_ROUTE_EN_A, TST_ATB_ROUTE_DIE_B, TST_ATB_ROUTE_EN_B, TST_RLOG_TAIL_TAIL,
  TST_RLOG_SEL_INDEX, TST_RLOG_DATA_WORD]
/-- All register fields of the module. -/
def all : List Fld :=
  tbl01_0 ++
  tbl02_0 ++
  tbl03_0 ++
  tbl03_1 ++
  tbl04_0 ++
  tbl05_0 ++
  tbl06_0 ++
  tbl07_0 ++
  tbl08_0 ++
  tbl09_0 ++
  tbl10_0 ++
  tbl11_0 ++
  tbl12_0 ++
  tbl12_1 ++
  tbl13_0 ++
  tbl14_0 ++
  tbl15_0 ++
  tbl15_1 ++
  tbl16_0 ++
  tbl17_0 ++
  tbl17_1 ++
  tbl18_0 ++
  tbl19_0

end F
end Sys2Proof.Machine
end

