-- ==== Sys2Proof/Machine/State.lean ====
section
/-! DEFINITION. The state of the module: every register, buffer, table and mode the spec gives it, as plain data, and
the queue of waiting commands. -/

namespace Sys2Proof.Machine

open Sys2Proof

/-- Why a step can stop with a fault. No rule of the spec stops the block, so there is no reason: safe, since no
command ends a run. -/
inductive Fault where
  /-- No command raises it; it keeps the type inhabited. -/
  | none
  deriving DecidableEq, Repr

/-- Why a step can be refused. -/
inductive Refusal where
  /-- Raised by an arm of `exec` whose command has no meaning yet; safe, nothing is claimed of it. -/
  | notModelled (mnemonic : String)
  deriving DecidableEq, Repr

/-- A fetched descriptor that is not yet admitted: its fetch counter and its 64 bytes (R89); from a schedule item, its
place in the item's list plus 2^16 (R282). -/
structure Fetched where
  counter : Nat
  image : Bytes
  deriving DecidableEq, Repr

/-- What a queue holds beside its registers: fetched descriptors in ring order, FETCH_HEAD at the last head
write-back (R89), a pending disable (R103), and when it became eligible for admission (R92; 0: it is not). -/
structure QInt where
  fetched : List Fetched
  written : Nat
  draining : Bool
  eligible : Nat
  deriving DecidableEq, Repr

/-- The interior of a queue after reset. -/
def QInt.reset : QInt := ⟨[], 0, false, 0⟩

/-- The place of a tile in memory (R46, R127): start of its first row, bytes of elements per row, rows, bytes from one row to the
next, where the block scales of a row lie from the start of its elements, scale bytes per row, and, for rows that a page walk resolved,
the physical place of the start plus one (R261; 0: a mover translates it, R357). -/
structure Geo where
  va : Nat
  len : Nat
  rows : Nat
  pitch : Nat
  soff : Nat
  slen : Nat
  place : Nat
  deriving DecidableEq, Repr

/-- What the header of a tile says beside its place (R47): format, block size code, elements per row, index in its tensor, tensor,
whether it is sampled, whether it was written at a level above 0. -/
structure Head where
  fmt : Nat
  blk : Nat
  cols : Nat
  index : Nat
  tensor : Nat
  check : Bool
  risen : Bool
  deriving DecidableEq, Repr

/-- The header of bytes that carry no element format of their own: rows and bytes alone (R47, R369). -/
def Head.raw : Head := ⟨0, 0, 0, 0, 0, false, false⟩

/-- One tile of a descriptor's output on its way to job memory (R51, R627): its place, its header, its bytes (elements of each row, then
scales of each row), its poison cause (0: none), and the row of the result it begins with (R134, R135). -/
structure JobWrite where
  geo : Geo
  head : Head
  data : Bytes
  poison : Nat
  row : Nat
  deriving DecidableEq, Repr

/-- One tile that a mover reads into a stream slot (R352, R356). -/
structure JobRead where
  geo : Geo
  head : Head
  deriving DecidableEq, Repr

/-- Bytes of an extent that a descriptor's stations have taken in, or that its sequencer has read: address, content, poison cause, and
the weight version that came with it (R49, R55, R300). -/
structure Input where
  va : Nat
  data : Bytes
  cause : Nat
  version : Option (Nat × Nat)
  deriving DecidableEq, Repr

/-- A tile of a mover's copy (R369): source and destination address, row bytes, rows, pitches, its content once it is
committed, with its poison cause, and whether it is a narrow element (R371). -/
structure CopyTile where
  src : Nat
  dst : Nat
  len : Nat
  rows : Nat
  srcPitch : Nat
  dstPitch : Nat
  data : Option (Bytes × Nat)
  deriving DecidableEq, Repr

/-- What a micro-command does before it can retire. -/
inductive MKind where
  /-- Nothing: its work is finished when it is issued. -/
  | plain
  /-- The work of a station on the tiles that its descriptor's input streams bring: the number of the work in its program (R49, R70). -/
  | work (k : Nat)
  /-- A LOAD of a matrix station (R111, R114). -/
  | load
  /-- A STREAM of a matrix station: rows to issue, rows skipped by a mask, whether its set is the shadow, the number of its work in its
  program, and the row before which a parity error of its set was found (R114, R132, R135). -/
  | pass (rows skip : Nat) (swap : Bool) (k : Nat) (parity : Option Nat)
  /-- Reads of a mover into the slots of a stream: the tiles whose requests are not yet issued (R352). -/
  | reads (stream : Nat) (rs : List JobRead)
  /-- Writes of a mover out of the slots of a stream, or without one (0; else its number plus one): the tiles whose requests are not yet
  issued (R352, R627). -/
  | writes (stream : Nat) (ws : List JobWrite)
  /-- A copy of a mover (R369): its stream, the module, die and class of a fabric destination, tiles whose reads are not issued, tiles
  read or with content that are not yet written, and fabric transactions not yet acknowledged. -/
  | copy (stream : Nat) (far : Option (Nat × Nat × Nat)) (todo stores : List CopyTile) (left : Nat)
  /-- Waits for fabric transactions that are not yet acknowledged (R397). -/
  | acks (left : Nat)
  /-- Waits for an event of another command; the number says which. -/
  | event (code : Nat)
  /-- Waits on a token of its die (R70, R237). -/
  | token (tok value : Nat)
  deriving DecidableEq, Repr

/-- A micro-command (R70): its descriptor, its number in issue order, what it does, whether it has started and
whether it may retire, the status and detail bytes it ends with, and the increment it signals to its program's token when it
retires (0: none). -/
structure Micro where
  queue : Nat
  tag : Nat
  idx : Nat
  kind : MKind
  started : Bool
  ready : Bool
  status : Nat
  detail : Bytes
  sig : Nat
  deriving DecidableEq, Repr

/-- A step that a stream program has still to make (R70, R71): push a micro-command into the FIFO of a station, wait for a value of the
program's token, or go on with what a finished work of its stations gives. -/
inductive PStep where
  /-- Push a micro-command. -/
  | push (station : Nat) (m : Micro)
  /-- Wait until the program's token has a value. -/
  | await (value : Nat)
  /-- Go on with the results of a part of the work. -/
  | finish (k : Nat)
  deriving DecidableEq, Repr

/-- The end of a retired micro-command (R72). -/
structure Retired where
  idx : Nat
  status : Nat
  station : Nat
  detail : Bytes
  deriving DecidableEq, Repr

/-- A tensor profile (R180, R186): tag, ctl, random stream, sampling, threshold, starting and current level, ceiling,
disagreement count, clamp. -/
structure Profile where
  bound : Bool
  tag : Nat
  ctl : Nat
  stream : Nat
  check : Nat
  tau : Nat
  start : Nat
  level : Nat
  ceil : Nat
  disagree : Nat
  clamp : Nat
  deriving DecidableEq, Repr

/-- The default profile of R180: sat 1, random stream 0, 1 tile in 256, action report, no clamp, level 0. -/
def Profile.default : Profile := ⟨false, 0, 0x01, 0, 8, 0, 0, 0, 0, 0, 0⟩

/-- An admitted descriptor (R83, R91, R625): its queue, tag and image, the owning function, admission order, priority
level and whether it took the level's floor, the sequencer that holds it (4: the dispatcher), whether its opcode has
started, whether its program waits for a resource (R71), micro-commands issued and not retired, their ends, the status
an abort, cancel, freeze or fence gives it, its streams, the detail bytes and flags of its completion, and the home
records it pins (R332), whether its die gave full service at admission (R555) and since when the heat preference holds
it back, as tick plus one (R477; 0: it does not). `lane` is 0, or one more than its place in the list of the schedule item
that it belongs to (R282). `seqr` is 5 once it waits only for room in its completion ring (R98). `moved` counts the bytes its movers wrote
(R373). Then the steps its program has still to make (R70, R71), its sequencer tokens (R59, R60), what its stations have taken in, the
profile and random stream as its first micro-command found them (R179, R181), the matrix stations that issued rows for it (R138), and
parity errors of its passes, as the number of the pass and the row (R135). -/
structure Desc where
  queue : Nat
  tag : Nat
  image : Bytes
  fn : Nat
  age : Nat
  level : Nat
  inFloor : Bool
  seqr : Nat
  started : Bool
  waiting : Bool
  issued : Nat
  unretired : Nat
  retired : List Retired
  override : Option Nat
  streams : List Nat
  detail : Bytes
  flags : Nat
  pins : List Nat
  full : Bool
  heldAt : Nat
  lane : Nat
  moved : Nat
  todo : List PStep
  toks : List Nat
  inputs : List Input
  snap : Option (Profile × RStream)
  used : Nat
  marks : List (Nat × Nat)
  deriving DecidableEq, Repr

/-- A completion waiting to be written (R94, R98); `counted` says its descriptor was admitted and still holds its
outstanding count. -/
structure Cpl where
  queue : Nat
  tag : Nat
  status : Nat
  station : Nat
  detail : Bytes
  flags : Nat
  irq : Bool
  counted : Bool
  deriving DecidableEq, Repr

/-- What a completion ring holds beside its registers: held completions, the entry counter and tick of each entry
written since the last firing, and whether the newest entry fires at once (R98, R99). -/
structure RInt where
  held : List Cpl
  stamps : List (Nat × Nat)
  hot : Bool
  deriving DecidableEq, Repr

/-- The interior of a completion ring after reset. -/
def RInt.reset : RInt := ⟨[], [], false⟩

/-- A stream of a die's pool (R53-R55): base line, slot count, slot lines, producer, consumers with their head
counters (station, head), tail counter, and what the last read of the tail latched. -/
structure Stream where
  baseLine : Nat
  slots : Nat
  slotLines : Nat
  producer : Nat
  consumers : List (Nat × Word)
  tail : Word
  stallFull : Nat
  stallEmpty : Nat
  deriving DecidableEq, Repr

/-- What the fabric side holds for a die that is entering or in Charcoal, in order of arrival (R62, R486): a token
signal, a doorbell with its function, BAR2 offset, size and value, or a fabric transaction. -/
inductive Held where
  | sig (die tok inc : Nat)
  | bell (die fn off size value : Nat)
  | tx (die : Nat) (t : Tx)
  deriving DecidableEq, Repr

/-- Weighted round-robin of one priority level (R92): the queue served last and the turns it has left. -/
structure Wrr where
  queue : Nat
  left : Nat
  deriving DecidableEq, Repr

/-- A write to the block of a die with a forced core domain (R603): die, who wrote, offset, value. -/
structure HeldWrite where
  die : Nat
  src : Src
  off : Nat
  value : Nat
  deriving DecidableEq, Repr


/-- A sample pending at the check station (R199): its descriptor, tensor, whether it is a split sample, whether it
disagrees, and the format written. -/
structure Sample where
  queue : Nat
  tag : Nat
  idx : Nat
  tensor : Nat
  split : Bool
  disagrees : Bool
  fmt : Nat
  deriving DecidableEq, Repr

/-- The running state of a row and head (R215): m, l and o as FP32 codes, the NaN mark, the poison cause. A ring call of
AT_BWD holds dQ in `o` (R247). -/
structure AtRow where
  m : Nat
  l : Nat
  o : List Nat
  nan : Bool
  cause : Nat
  deriving DecidableEq, Repr

/-- An entry of the length table (R221). -/
structure LenEnt where
  q0 : Nat
  qn : Nat
  k0 : Nat
  kn : Nat
  qpos : Nat
  kpos : Nat
  docOff : Nat
  docCnt : Nat
  seq : Nat
  deriving DecidableEq, Repr

/-- What a call has read before its first block pair: its descriptor image, parameter block, length table, document table,
sparse bitmap, ring plan entries, and, for a paged call, where the regions of its sequences begin. -/
structure AtCall where
  img : Bytes
  par : Bytes
  ents : List LenEnt
  doc : Bytes
  sparse : Bytes
  plan : List Bytes
  fn : Nat
  die : Nat
  vas : List (Nat × Nat)
  deriving DecidableEq, Repr

/-- A running call of the attention class (R220, R236-R238): its descriptor, what it has read, the hop or query block it has come to, hops
whose pairs are computed, the phase of the current hop (0 before its arrive wait, 1 before its pairs, 2 before its credit wait, 3 before it
forwards K and V, 4 before its pairs are computed; 9: not in ring mode), the micro-command it waits for, its forwarding micro-commands,
the signals that follow a micro-command (its number, fabric address, increment), its rows with the states of their heads, block pairs in
all and skipped, signals that its works give in all, and the walk of its query block. -/
structure RingCall where
  queue : Nat
  tag : Nat
  call : AtCall
  hop : Nat
  done : Nat
  phase : Nat
  wait : Option Nat
  sends : List Nat
  sigs : List (Nat × Nat × Nat)
  rows : List (Nat × List AtRow)
  pairs : Nat
  skips : Nat
  sent : Nat
  walk : Option Nat
  deriving DecidableEq, Repr


/-- A Page Map entry (R257). -/
structure PEntry where
  valid : Bool
  tier : Nat
  region : Nat
  gen : Nat
  hostPin : Bool
  moving : Bool
  lost : Bool
  age : Nat
  deriving DecidableEq, Repr

/-- An entry after reset. -/
def PEntry.reset : PEntry := ⟨false, 0, 0, 0, false, false, false, 0⟩

/-- The edit of a sequence that is being processed (R262, R263, R274): its descriptor and opcode, when it parked (order
of arrival), its eflags, result and status, the walks it waits for, the regions it has detached, of a PG_MOVE the pages that it has still to
take and the page that gave its status, and of an APPEND the demotions that have failed for it, by sequence and page (R269, R273, R335). -/
structure Edit where
  queue : Nat
  tag : Nat
  op : Nat
  parked : Option Nat
  eflags : Nat
  result : Nat
  status : Nat
  blockers : List Nat
  held : List Nat
  todo : List Nat
  failed : Nat
  tried : List (Nat × Nat)
  deriving DecidableEq, Repr

/-- A sequence record that is not FREE (R251-R256): state 1 OPEN, 2 PREEMPTED, 3 CLOSING; owner; shape; region; class
and priority; walk epoch; length; first kept position; mapped pages; span; the edit in progress and those that wait. -/
structure SeqRec where
  state : Nat
  owner : Nat
  fmt : Nat
  blk : Nat
  d : Nat
  nkv : Nat
  va : Nat
  maxLen : Nat
  cls : Nat
  prio : Nat
  epoch : Nat
  length : Nat
  first : Nat
  mapped : Nat
  spanBase : Nat
  span : Nat
  current : Option Edit
  waiting : List (Nat × Nat)
  deriving DecidableEq, Repr

/-- A running walk (R260, R261): slot, sequence, the pages of its range, its number in order of arrival, whether it began before the last
bank swap, the walk epoch and max_len at its start, the entries of the pages that it resolves as they were then, and the attention call
that it serves, if one does. -/
structure Walk where
  die : Nat
  slot : Nat
  seq : Nat
  first : Nat
  last : Nat
  stamp : Nat
  preswap : Bool
  epoch : Nat
  limit : Nat
  table : List (Nat × PEntry)
  call : Option (Nat × Nat)
  deriving DecidableEq, Repr

/-- A page on its way to another region (R263, R269, R273, R279, R280): sequence, page, generation when it was taken,
old physical address, new tier and address, why (0 an edit, 1 a demotion, 2 a re-home, 3 a thermal drain), the descriptor
it serves, whether the copy has ended and how, and the walks that hold the old region. -/
structure Remap where
  die : Nat
  seq : Nat
  page : Nat
  gen : Nat
  old : Nat
  tier : Nat
  addr : Nat
  why : Nat
  queue : Nat
  tag : Nat
  copied : Option Bool
  blockers : List Nat
  deriving DecidableEq, Repr

/-- The rebuild of a die (R277-R279): whether one runs, its kind, descriptor and pages moved, where it goes on, and those
that wait. -/
structure Rebuild where
  running : Bool
  kind : Nat
  queue : Nat
  tag : Nat
  moved : Nat
  cursor : Nat
  waiting : List (Nat × Nat)
  deriving DecidableEq, Repr

/-- No rebuild. -/
def Rebuild.reset : Rebuild := ⟨false, 0, 0, 0, 0, 0, []⟩


/-- One virtual stage of a schedule header (R286). -/
structure Stage where
  base : Nat
  bytes : Nat
  slots : Nat
  layers : Nat
  actions : List Nat
  deriving DecidableEq, Repr

/-- A work item that runs in a lane (R287-R293): its entry, the part it runs (0 rc, 1 list, 2 redo, 3 rc again, 4 list
again, 5 drop), the descriptors of that part not yet ended, the ends it counts (position, status), mismatches met, and
whether it drops. -/
structure Item where
  idx : Nat
  image : Bytes
  part : Nat
  todo : Nat
  ends : List (Nat × Nat)
  misses : Nat
  dropping : Bool
  deriving DecidableEq, Repr

/-- A running schedule (R282-R297): the descriptor of ST_RUN and its function, table, range, lanes, log, header, the
current step, replay, how many steps from the current one have had their records read and the entries these drop, the next entry to look
at in each lane, the item of each lane, completed forwards whose backward is not complete (micro-batch, stage), the per-step counts, the
drops recorded, the last entry completed, FWD entries counted as waiting for a stash slot, how it stops (0 runs, 2 at the next END, 3
now), the status, the reason and the entry index it ends with (none: the last entry completed at its end), and its eflags. -/
structure Schedule where
  queue : Nat
  tag : Nat
  fn : Nat
  table : Nat
  first : Nat
  count : Nat
  lanes : List Nat
  log : Nat
  drop : Bool
  lead : Nat
  stages : List Stage
  step : Nat
  replay : Bool
  ahead : Nat
  plan : List Nat
  pos : List Nat
  items : List (Option Item)
  stash : List (Nat × Nat)
  stepItems : Nat
  stepDropped : Nat
  stepRerun : Nat
  stepLate : Nat
  drops : List (Nat × Nat × Nat)
  lastDone : Nat
  waited : List Nat
  stopping : Nat
  ending : Option (Nat × Nat × Option Nat)
  eflags : Nat
  deriving DecidableEq, Repr

/-- A shard entry (R300-R305): step, layout epoch, references, state 0 FREE, 1 OPEN, 2 DRAINING, 3 UPDATING, the SH_CTL op 1 that
waits, and the forced fences that wait for op 2 in the order they came: kind (0 a new epoch, 1 a given version, 2 freed, 3 moved away from
the module, 4 more than the key of the entry it moved to), step, epoch. -/
structure Shard where
  step : Nat
  epoch : Nat
  refs : Nat
  state : Nat
  op1 : Option (Nat × Nat)
  force : List (Nat × Nat × Nat)
  deriving DecidableEq, Repr

/-- A shard entry after reset. -/
def Shard.free : Shard := ⟨0, 0, 0, 0, none, []⟩

/-- A page of a function's space (R322, R623). Kind: 0 fixed, 1 interleaved, 2 managed, 3 sequence; 8 more
once its entry has an uncorrectable error (R511). `backing` is the
physical address (fixed; sequence: the place its Page Map entry names), the row (interleaved) or the home record
(managed). -/
structure Page where
  kind : Nat
  large : Bool
  write : Bool
  nopf : Bool
  backing : Nat
  deriving DecidableEq, Repr

/-- A home record (R327, R328): state 0 RESIDENT, 1 MOVING-OUT, 2 MOVING-IN, 3 LOST; tier; owner; priority and
direction of the last completed move; location; reader pins; host pin; settle start; waiting requests; age and move
time; home die; whether a generation entry tracks it and its counter (R361). -/
structure HomeRec where
  state : Nat
  tier : Nat
  owner : Nat
  prio : Nat
  slower : Bool
  changed : Bool
  location : Nat
  readers : Nat
  hostPin : Bool
  settleTick : Nat
  waiting : Nat
  age : Nat
  moved : Nat
  home : Nat
  tracked : Bool
  gen : Nat
  deriving DecidableEq, Repr

/-- A region move in progress or waiting on its record (R330, R335): the record, the target tier and location (the
location is allocated when the move begins), the target die, priority, the descriptor that asked (none: the module
itself), the requester's micro-command, and whether it is copying; of the copy, the pass (0 the first, 1 to 4 those over dirty chunks, 5 the
final phase), the chunks of the pass still to copy, those dirty since, and the writes that the final phase holds (FIFO key, descriptor,
micro-command, address). -/
structure Move where
  record : Nat
  tier : Nat
  die : Nat
  location : Nat
  prio : Nat
  asker : Option (Nat × Nat × Nat)
  copying : Bool
  origin : Nat
  pass : Nat
  todo : List Nat
  dirty : List Nat
  held : List (Nat × Nat × Nat × Nat)
  deriving DecidableEq, Repr

/-- A request that has not begun to move its region. -/
def Move.ask (record tier die prio : Nat) (asker : Option (Nat × Nat × Nat)) (origin : Nat) : Move :=
  ⟨record, tier, die, 0, prio, asker, false, origin, 0, [], [], []⟩

/-- The request as its copy begins, to a location: every chunk of 64 KiB is to copy (R330). -/
def Move.begin_ (m : Move) (location : Nat) : Move := { m with location := location, copying := true, todo := List.range 32 }

/-- A flash object (R347): function, key, length, put tick, content. -/
structure FlashObj where
  fn : Nat
  key : Nat
  tick : Nat
  data : Bytes
  deriving DecidableEq, Repr

/-- A source location whose release waits for requests issued against it (R330 step 8): tier and location. -/
structure Release where
  tier : Nat
  location : Nat
  record : Nat
  deriving DecidableEq, Repr

/-- A TM_MOVE or TM_UNMAP in progress (R330, R335, R346): its descriptor, whether it unmaps, the next address, the pages
left, the pages acted on, and its eflags. -/
structure TierJob where
  queue : Nat
  tag : Nat
  unmap : Bool
  va : Nat
  left : Nat
  acted : Nat
  eflags : Nat
  deriving DecidableEq, Repr

/-- A piece of an extent in physical memory: address, bytes, lost, writable, no-prefetch, the counter that tracks its
region when its own die is `own` (R361), the home record of a managed page. -/
structure Span where
  addr : Nat
  len : Nat
  lost : Bool
  write : Bool
  nopf : Bool
  gen : Option Nat
  own : Nat
  home : Option Nat
  deriving DecidableEq, Repr

/-- The requests of one tile that a mover has in flight (R352-R355): the descriptor and micro-command, the priority level, whether they
write, the shared and floor slots they hold, the tile, the content and poison a write carries, the stream, the place of each piece as it
was when the first request was issued (R329, R363), the counter that tracked it and its value then, fetches of the slot so far, and the
tile of the copy it belongs to. -/
structure Req where
  queue : Nat
  tag : Nat
  idx : Nat
  level : Nat
  write : Bool
  shared : Nat
  floor : Nat
  job : JobRead
  data : Bytes
  poison : Nat
  stream : Nat
  spans : List (Option Span)
  source : Option Nat
  gen : Nat
  tile : Option CopyTile
  deriving DecidableEq, Repr

/-- A filled stream slot that is not yet committed (R363-R366): die, mover, stream, its tile, function, content, poison, the
generation recorded, the counter that tracks the source (none: untracked), the weight version it carries (R435), fetches made, whether it
waited over 8 µs, the descriptor it serves, and the tile of the copy it belongs to. -/
structure Slot where
  die : Nat
  mover : Nat
  stream : Nat
  job : JobRead
  fn : Nat
  data : Bytes
  poison : Nat
  gen : Nat
  source : Option Nat
  version : Option (Nat × Nat)
  fetches : Nat
  aged : Bool
  queue : Nat
  tag : Nat
  tile : Option CopyTile
  deriving DecidableEq, Repr

/-- A receive window of a compute die (R395, R416). -/
structure Window where
  enable : Bool
  kind : Nat
  write : Bool
  owner : Nat
  tag : Nat
  base : Nat
  len : Nat
  deriving DecidableEq, Repr

/-- A window after reset. -/
def Window.reset : Window := ⟨false, 0, false, 0, 0, 0, 0⟩

/-- A transaction that a sender has numbered (R397), and the micro-command it serves. -/
structure Sent where
  tx : Tx
  queue : Nat
  tag : Nat
  idx : Nat
  deriving DecidableEq, Repr

/-- The sending end of a flow (R397): the next number, what is sent and not acknowledged, what waits for the limit of
4,096, and whether its start was refused as busy. -/
structure TxFlow where
  next : Nat
  unacked : List Sent
  waiting : List Sent
  busy : Bool
  deriving DecidableEq, Repr

/-- The receiving end of a flow (R397): the contiguous base, the numbers marked above it, applications since the last ACK, and WRITEs of
tiles that are not yet whole (R51). -/
structure RxFlow where
  base : Nat
  marks : List Nat
  owed : Nat
  held : List Tx
  deriving DecidableEq, Repr

/-- A transaction in a port's replay buffer: the number of its first flit, its flits, the transaction as sent, and the
successive naks of its flit (R381). -/
structure Replay where
  seq : Nat
  flits : Nat
  tx : Tx
  naks : Nat
  deriving DecidableEq, Repr

/-- The link layer of an external port (R379-R381, R408): the next number expected and the next number sent, the
replay buffer, the bytes of each class and virtual lane that do not yet make a whole transaction (key 2 × class + lane),
whether a partner is present, whether its own margining has completed since it trained (R409, R553), and whether a lane failed
since it last trained with eight healthy ones (R411); the credits in use (same key, R388), and of the choice of R390 the slots since
Crimson's last one and the round-robin among the other classes. -/
structure PortInt where
  expect : Nat
  next : Nat
  replay : List Replay
  partial_ : Tab Bytes
  partner : Bool
  margined : Bool
  narrowed : Bool
  used : Tab Nat
  since : Nat
  turn : Wrr
  deriving DecidableEq, Repr

/-- A port after reset. -/
def PortInt.reset : PortInt := ⟨0, 0, [], [], false, false, false, [], 16, ⟨0, 0⟩⟩

/-- The sender of a multicast transfer (R404): die, transfer identifier, class, the micro-command, its writes, the
receivers in the machine, the base each receiver acknowledged, and what it completes with at the retention limit. -/
structure McSend where
  die : Nat
  xfer : Nat
  cls : Nat
  queue : Nat
  tag : Nat
  idx : Nat
  writes : List Tx
  count : Nat
  acked : Tab Nat
  late : Nat
  deriving DecidableEq, Repr

/-- A receiver of a multicast transfer (R404, R406): die, transfer identifier, class, group, base, numbers marked above
it, the last number once known, whether it lags, and WRITEs of tiles that are not yet whole (R51). -/
structure McRecv where
  die : Nat
  xfer : Nat
  cls : Nat
  base : Nat
  marks : List Nat
  last : Option Nat
  lagging : Bool
  held : List Tx
  deriving DecidableEq, Repr

/-- A transaction that waits at a fabric die for a route, credits or room (R388, R398, R458): the fabric die, the port it came
by, the compute die where it stands, and the only port it may take (a branch of a multicast transfer, R403; a flooded notice). -/
structure Waiting where
  tx : Tx
  fdie : Nat
  port : Option Nat
  comp : Nat
  only : Option Nat
  deriving DecidableEq, Repr

/-- A key slot (R565): kind, job tag, scope, key_sel, identifier, key. -/
structure KeySlot where
  kind : Nat
  tag : Nat
  scope : Nat
  sel : Nat
  id : Nat
  key : Bytes
  deriving DecidableEq, Repr



/-- An expert exchange of a communicator slot (R442-R445): the routing table view of its dispatch (rank, local expert, valid,
for experts 0-254), the outcome of each own choice (token, choice, expert, host rank, slot number at the host, or none where
it passed through), and as a host the source of each assigned slot: local expert, assignment number, rank, token, choice. -/
structure Exch where
  view : List (Nat × Nat × Bool)
  mine : List (Nat × Nat × Option (Nat × Nat × Nat))
  hosted : List (Nat × Nat × Nat × Nat × Nat)
  deriving DecidableEq, Repr

/-- A communicator slot (R418-R421): owner, multicast group, own rank, members (packed fabric address and cell), receive
area, span (0 module, 1 cell, 2 pod, 3 machine), members of a group, next call sequence, and its last expert exchange. -/
structure Comm where
  owner : Nat
  mc : Nat
  rank : Nat
  members : List (Nat × Nat)
  rx : Nat
  rxBytes : Nat
  span : Nat
  size : Nat
  next : Nat
  exch : Exch
  deriving DecidableEq, Repr

/-- A class-7 call that its Reduce station holds (R423): die and slot, descriptor, function, call sequence, phase, the micro
that holds its descriptor, sends not yet seen to end (rank, micro-command), bytes given to each rank, whether it has told the
root that it failed, whether its window has passed, lists read (gather entries, map entries), entries asked and served, the
worst status of its entries, members counted, its eflags, the shard entries that a permute opens at its end, with their steps, the close
that the root has decided and that waits for its bitmap writes (micro-commands, status, body; R423), and the write micro-command of the final
sum with the shared accumulator blocks it holds (R446). -/
structure RdCall where
  die : Nat
  slot : Nat
  queue : Nat
  tag : Nat
  image : Bytes
  fn : Nat
  seq : Nat
  phase : Nat
  hold : Nat
  sends : List (Nat × Nat)
  gave : Tab Nat
  failed : Bool
  expired : Bool
  plan : List Bytes
  asked : List Nat
  served : List Nat
  worst : Nat
  count : Nat
  eflags : Nat
  opens : List (Nat × Nat)
  closing : Option (List Nat × Nat × Bytes)
  acc : Nat × Nat
  deriving DecidableEq, Repr

/-- A group whose partials an owner awaits after the close of a reduction (R430, R440): die, slot, call sequence, sending rank,
function, layout epoch, window shift, where the partial is staged, the residual area and slot number, the element range, the
members it stands for, and whether the residual has been consumed. -/
structure Late where
  die : Nat
  slot : Nat
  seq : Nat
  rank : Nat
  fn : Nat
  epoch : Nat
  shift : Int
  stage : Nat
  resid : Nat
  index : Nat
  first : Nat
  count : Nat
  shard : Nat
  members : Nat
  consumed : Bool
  deriving DecidableEq, Repr

/-- A shard gather at its owner (R302, R434): die, slot, call sequence, requester's rank, the list index, the entry, and what
happened: whether it waits at the shard entry, the micro-command of its data, the version served, and its bytes. -/
structure Serve where
  die : Nat
  slot : Nat
  seq : Nat
  rank : Nat
  index : Nat
  entry : Bytes
  waiting : Bool
  micro : Nat
  step : Nat
  epoch : Nat
  status : Nat
  told : Bool
  deriving DecidableEq, Repr

/-- A retained permutation map (R439): the epoch it closed, the epoch it opened, its entries. -/
structure KeptMap where
  old : Nat
  new : Nat
  entries : List Bytes
  deriving DecidableEq, Repr



/-- The supply (R465-R468, R612, R620): phase (0 an input carries the module, 1 on the hold-up, 2 stations stopped on the hold-up,
3 Black), since when the main input is valid while the module runs on PWR-B (tick plus one; 0: it is not), the tick plus one of
the last return to PWR-A, whether a return waits for the host, the job tags that a power-loss notice named, and the last coolant
reading (flow in 0.1 L/min, inlet in 0.1 °C). -/
structure Supply where
  phase : Nat
  mainAt : Nat
  returned : Nat
  waits : Bool
  named : List Nat
  flow : Nat
  inlet : Nat
  deriving DecidableEq, Repr

/-- The supply after reset. -/
def Supply.reset : Supply := ⟨0, 0, 0, false, [], 200, 400⟩

/-- A die governor (R470-R475, R478): whether it withholds dispatch, throttle bubbles in eighths over the energy classes 3, 2 and 1
(0-24), points the share and the heat hold the clock down, whether a step of the operating point is in progress, the frequency in
MHz and the voltage in thirds of a millivolt, when the last reversal of a cut was made (tick plus one), the points above 1.8 GHz that
its headroom grants (R34), and, while the main budget is restored, when the return or the last rise was (tick plus one; R465). -/
structure Gov where
  withhold : Bool
  bubbles : Nat
  shareCut : Nat
  heatCut : Nat
  stepping : Bool
  mhz : Nat
  mv3 : Nat
  backAt : Nat
  boost : Nat
  ramp : Nat
  deriving DecidableEq, Repr

/-- A governor after reset: operating point 6 (R491), 1.2 GHz at 0.70 V. -/
def Gov.reset : Gov := ⟨false, 0, 0, 0, false, 1200, 2100, 0, 0, 0⟩

/-- The identity of F0 or F4 since its last boot (R563): its DeviceID key, its Alias key and the Alias certificate issued at that boot. -/
structure Ident where
  deviceId : Bytes
  aliasKey : Bytes
  aliasCert : Bytes
  deriving DecidableEq, Repr

/-- A record of the error log (R547). -/
structure LogRec where
  tick : Nat
  cls : Nat
  die : Nat
  unit : Nat
  cause : Nat
  repeats : Nat
  addr : Nat
  detail : Nat
  deriving DecidableEq, Repr

/-- An extent of a manifest (R525). -/
structure SnExtent where
  va : Nat
  bytes : Nat
  kind : Nat
  die : Nat
  shard : Nat
  deriving DecidableEq, Repr

/-- An SN_TAKE whose layers are not over (R527, R535): its descriptor, generation, the layers named, those that still read and those
in transfer, the shared layer's connection, address and key, the token it signals, the shard extents read, whether an op 1
waited, whether pieces were resent, and whether a layer failed. -/
structure SnRun where
  queue : Nat
  tag : Nat
  gen : Nat
  named : Nat
  layers : Nat
  conn : Nat
  remote : Nat
  rkey : Nat
  tok : Nat
  inc : Nat
  captured : Bool
  read : List Nat
  opwait : Bool
  resent : Bool
  failed : Bool
  deriving DecidableEq, Repr

/-- A snapshot set (R524-R527, R545): its owner, the manifest as copied, pos_out, its extents, the capture bits, the manifest's
CRC-32C, its previous generation, the newest generation committed at the holder, in flash and at the store, the one equal to the
live shards, and the SN_TAKE that runs. -/
structure SnSet where
  owner : Nat
  manifest : Bytes
  posOut : Nat
  exts : List SnExtent
  capture : Nat
  crc : Nat
  prev : Option Nat
  genP : Option Nat
  genL : Option Nat
  genS : Option Nat
  clean : Option Nat
  run : Option SnRun
  deriving DecidableEq, Repr

/-- A packet of a storage connection that is not acknowledged (R533): sequence number, kind (0 RDMA WRITE, 1 SEND), remote address,
key, bytes, and the set whose image it carries. -/
structure RocePkt where
  psn : Nat
  kind : Nat
  remote : Nat
  rkey : Nat
  data : Bytes
  set : Nat
  deriving DecidableEq, Repr

/-- A storage connection (R532, R533): its record, the next sequence number, what is not acknowledged, retries in succession, and
its rate in sixteenths. -/
structure Conn where
  record : Bytes
  psn : Nat
  unacked : List RocePkt
  retries : Nat
  rate : Nat
  deriving DecidableEq, Repr

/-- A management or heartbeat count that no register shows (R512, R513): corrected errors of a pseudo-channel of a stack since its
last day began, and that tick. -/
structure PcCount where
  errors : Nat
  since : Nat
  deriving DecidableEq, Repr


/-- A record of the repair log (R584). -/
structure RepRec where
  tick : Nat
  kind : Nat
  die : Nat
  unit : Nat
  result : Nat
  loc : Nat
  before : Nat
  after : Nat
  deriving DecidableEq, Repr

/-- A margin run (R581-R583): its target, whether it repairs, and whether a stack is in its hold. -/
structure MarginRun where
  target : Nat
  repair : Bool
  hold : Bool
  deriving DecidableEq, Repr

/-- What the module sends to the outside, oldest first. -/
inductive Output where
  /-- An MSI-X vector of a function (R99, R100). -/
  | msix (fn vec : Nat)
  /-- The completion of a PCIe read: function, bytes, poisoned bit (R78). -/
  | pcieData (fn : Nat) (data : Bytes) (poisoned : Bool)
  /-- An Unsupported Request completion (R78). -/
  | pcieUR (fn : Nat)
  /-- The value a register read returns (R13). -/
  | regData (v : Nat)
  /-- A fabric transaction sent by a port, or on a link inside the package (R383, R386). -/
  | sent (port : Option Nat) (t : Tx)
  /-- A Crimson notice that the module raised: a local one is told by a PLDM event, a flooded one goes through the fabric dies (R518-R520,
  R557). -/
  | noticed (n : Notice)
  /-- A record of the error log, told by a PLDM event (R557). -/
  | logged (r : LogRec)
  /-- A flit-level answer of a port: port, nak, sequence (R380, R381). -/
  | link (port : Nat) (nak : Bool) (seq : Nat)
  /-- Credits that a port returns: port, class and virtual lane as 2 × class + lane, flits (R379, R388). -/
  | credits (port stream flits : Nat)
  /-- A link-control flit (R500): port, kind, bytes. -/
  | control (port kind : Nat) (data : Bytes)
  /-- A management response: completion code and data (R557-R560). -/
  | mgmt (code : Nat) (data : Bytes)
  /-- A message to a storage connection: connection, kind, bytes (R533). -/
  | storage (conn kind : Nat) (data : Bytes)
  /-- A level on a pin or analog bus: which, value (R507, R576, R617). -/
  | pin (which value : Nat)
  deriving DecidableEq, Repr


/-- The state of the module. -/
structure State where
  /-- The commands that are waiting, first in first out. -/
  pending : List Instr
  /-- The machine tick, 100 MHz (R500). -/
  tick : DWord
  /-- Setup register fields that differ from their reset value (R12, R604). -/
  flds : Tab Nat
  /-- The pending _LO value of each register pair of a die (R15, R601). -/
  loPend : Tab Nat
  /-- Exact counts below the shown resolution of divided counters (R139). -/
  rems : Tab Nat
  /-- Module memory: HBM, far memory, pool windows and flash (R320). -/
  mem : List Host.Cell
  /-- Poison cause of memory lines, by line number (R49, R624). -/
  lines : Tab Nat
  /-- HBM stacks out of service: 1 fenced, 2 in a test hold (R480, R481, R582). -/
  stackState : Tab Nat
  /-- Power state of a die: 0 White, 1 Grey, 2 entering Charcoal, 3 Charcoal, 4 leaving Charcoal, 5 Black (R483). -/
  powers : Tab Nat
  /-- What the module wrote to host memory, by host port and address (R94, R100). -/
  hostMem : List Host.Cell
  /-- What the module sent out. -/
  out : List Output
  /-- Counter of free values (the model's own). -/
  freeCtr : Nat
  /-- Counter of arrival order (the model's own). -/
  stamp : Nat
  /-- Token values by die and number (R59). -/
  tokens : Tab Word
  /-- Signals, doorbells and transactions held for dies entering or in Charcoal (R62, R486). -/
  held : List Held
  /-- HST_WIN_SEL.DIE of each PF, by function (R105). -/
  winSel : Tab Nat
  /-- Interiors of queues. -/
  qints : Tab QInt
  /-- Interiors of completion rings. -/
  rints : Tab RInt
  /-- Weighted round-robin state by die and level, for admission and dispatch. -/
  wrrs : Tab Wrr
  /-- Admitted descriptors (R91). -/
  descs : List Desc
  /-- Ended descriptors of schedule items not yet counted to their item: queue, position in the list, status (R290). -/
  laneDone : List (Nat × Nat × Nat)
  /-- Running schedules, by die and slot (R282). -/
  scheds : Tab Schedule
  /-- Shard entries, by die and number (R300). -/
  shards : Tab Shard
  /-- Station command FIFOs (R70). -/
  fifos : Tab (List Micro)
  /-- Micro-commands whose station FIFO is full (R70). -/
  overs : Tab (List Micro)
  /-- Active streams by die and number (R53). -/
  streams : Tab Stream
  /-- Host ports whose link is down (R104). -/
  linkDown : Tab Nat
  /-- Completions of a function discarded while its host port was down (R104). -/
  lostCpls : Tab Nat
  /-- HST_BAR4_CFG.SIZE in force, taken at the last warm reset (R78, R105). -/
  bar4 : Nat
  /-- Random streams (R179). -/
  rstreams : Tab RStream
  /-- Bound tensor profiles (R180). -/
  profiles : Tab Profile
  /-- Samples pending at CK, and those waiting for room (R199). -/
  samples : List Sample
  /-- Translations of every function, by function and page address (R322). -/
  pages : Tab Page
  /-- Home records, by M die and number (R327). -/
  homes : Tab HomeRec
  /-- Region moves in progress and waiting (R330, R335). -/
  moves : List Move
  /-- TM_MOVE and TM_UNMAP descriptors in progress (R346). -/
  tierJobs : List TierJob
  /-- Policy demotions that run until the HIGH watermark: key 4m + j for HBM of die 2m + j, 4m + 2 for far memory of M die m (R336). -/
  policyOn : Tab Nat
  /-- PART_GRAN in force: granules a stack gives to the partner area (R528). -/
  partGran : Nat
  /-- Writes to the block of a die with a forced core domain (R603). -/
  heldWrites : List HeldWrite
  /-- Source regions not yet released (R330). -/
  releases : List Release
  /-- Flash objects (R347). -/
  objects : List FlashObj
  /-- Physical region generation counters (R361). -/
  gens : Tab Nat
  /-- Filled, uncommitted stream slots (R364). -/
  slots : List Slot
  /-- Receive windows, by die and number (R395). -/
  windows : Tab Window
  /-- Sending ends of flows (R397). -/
  txFlows : Tab TxFlow
  /-- Receiving ends of flows (R397). -/
  rxFlows : Tab RxFlow
  /-- Link layer of the external ports (R379-R381). -/
  ports : Tab PortInt
  /-- In-package links that are LOST, by the two dies (R385). -/
  links : Tab Nat
  /-- Multicast transfers sent and retained (R404). -/
  mcSends : List McSend
  /-- Multicast transfers received (R406). -/
  mcRecvs : List McRecv
  /-- Pruned branches: transfer and port (R405). -/
  pruned : List (Nat × Nat)
  /-- Transactions that wait for a route (R398, R458). -/
  waits : List Waiting
  /-- Round-robin state of a flow over its candidate ports (R400). -/
  routeWrr : Tab Wrr
  /-- Module table entries as FAB_MOD_COORD shows them, by fabric die, bank and module (R399, R402). -/
  modTab : Tab Nat
  /-- Override entries, FAB_OVR_MATCH [31:0] and ports, classes and valid above, by fabric die, bank and index (R401). -/
  ovrTab : Tab Nat
  /-- Multicast entries, FAB_MC_DIES [31:0] and ports, count and valid above, by fabric die, bank and group (R403). -/
  mcTab : Tab Nat
  /-- Dies of other modules reported fenced: module × 32 + die (R65, R398). -/
  remoteFenced : List Nat
  /-- Valid key slots (R565). -/
  keys : Tab KeySlot
  /-- Encryption counters, by key slot and fabric die (R566). -/
  keyCtr : Tab Nat
  /-- key_sel that senders use, by job tag and class (R568). -/
  keySend : Tab Nat
  /-- The newest 1,024 records of the error log (R547). -/
  elog : List LogRec
  /-- Number of the next notice of this module (R518). -/
  noticeId : Nat
  /-- The last 4,096 pairs of origin and number of flooded notices (R520). -/
  noticeCache : List (Nat × Nat)
  /-- Sequence records that are not FREE (R251, R252). -/
  seqs : Tab SeqRec
  /-- Page Map entries, by die, bank and index (R256, R257). -/
  pmap : Tab PEntry
  /-- Running walks (R260). -/
  walks : List Walk
  /-- Pages on their way to another region (R263, R273). -/
  remaps : List Remap
  /-- Rebuilds, by die (R277). -/
  rebuilds : Tab Rebuild
  /-- Attention calls in ring mode (R236, R237). -/
  rings : List RingCall
  /-- Communicator slots, by die and slot (R418). -/
  comms : Tab Comm
  /-- Class-7 calls at the Reduce stations, in order of admission (R423). -/
  calls : List RdCall
  /-- Control records that have arrived for calls that have not ended, by die (R423). -/
  notes : List (Nat × CtlRec)
  /-- Deferred groups whose partials have not arrived (R430). -/
  lates : List Late
  /-- Shard gathers at their owners, in order of arrival (R303, R434). -/
  serves : List Serve
  /-- Current layout epochs, by die and function (R437). -/
  epochs : Tab Nat
  /-- Retained permutation maps, by die and function (R439). -/
  maps : Tab (List KeptMap)
  /-- Expert routing tables, by die, bank and expert (R442). -/
  extTab : Tab Nat
  /-- Version map, by die and vslot: function, start, bytes, step, layout epoch (R435). -/
  vmap : Tab (Nat × Nat × Nat × Nat × Nat)
  /-- The supply inputs and the hold-up (R465-R468). -/
  supply : Supply
  /-- Die governors (R470-R478). -/
  govs : Tab Gov
  /-- Steps of R479 that limit the stations for a hot stack, by stack: 1 half, 2 halted. -/
  hotStep : Tab Nat
  /-- Stacks that are drained: 1 critical, 2 critical and noticed, 3 for a margin hold, 4 for retired pseudo-channels (R480, R513, R582). -/
  drains : Tab Nat
  /-- Sequencers that wait in their power wait, by die × 4 + sequencer: mode plus one (R484). -/
  modes : Tab Nat
  /-- When a die began its entry into Charcoal: tick plus one (R486). -/
  psAt : Tab Nat
  /-- Dies whose wake arrived after the last abort point (R486). -/
  psWake : Tab Nat
  /-- The always-on count in units of 10⁻⁸ of its period (R494, R500; log entry 10). -/
  aon : Nat
  /-- Switches of clock domains, by die × 4 + domain: 1 waits, 2 D rises, 3 D falls on the target, 4 D falls on the former PLL, 5 D falls
  after a restart (R503, R505). -/
  swaps : Tab Nat
  /-- When a domain was forced: tick plus one, by die × 4 + domain (R502, R504). -/
  stopped : Tab Nat
  /-- Ticks that the slewing has still to double or skip (R500). -/
  slew : Int
  /-- The management controller has aligned the tick (R500). -/
  aligned : Bool
  /-- The TICK domain is held (R499, R502). -/
  tickStop : Bool
  /-- Last heartbeat, or start of the watch, of a watch entry (R521). -/
  hbLast : Tab Nat
  /-- Corrected errors of pseudo-channels, by stack × 64 + pseudo-channel (R513). -/
  pcs : Tab PcCount
  /-- Retired pseudo-channels: stack × 64 + pseudo-channel (R513). -/
  pcRetired : List Nat
  /-- Snapshot sets (R524). -/
  sets : Tab SnSet
  /-- Snapshot images, by place × 8 + set × 2 + slot; place 0 own state in the partner area, 1 local flash (R528, R531). -/
  images : Tab SnImage
  /-- Newest generation of the ward's set held here, by set (R545). -/
  wardGen : Tab Nat
  /-- The ward's images in the partner area, by the model's address of a transfer (R528, R529). -/
  wardMem : List Host.Cell
  /-- Storage connections (R532). -/
  conns : Tab Conn
  /-- Paused priorities of a storage port, by port × 8 + priority (R464). -/
  paused : Tab Nat
  /-- SH_CTL op 1 descriptors that wait for a read phase (R527). -/
  opWaits : List (Nat × Nat)
  /-- The placement that SetPlacement staged (R558). -/
  staged : Option Bytes
  /-- The two slots of the boot store (R561). -/
  fwSlots : Tab FwImage
  /-- Tick of the start of the last start-up (R550). -/
  bootAt : Nat
  /-- Slots that did not verify since the last reset: slot, plus 2 on F4 (R551). -/
  bootBad : List Nat
  /-- SPDM sessions that are open (R564). -/
  sessions : List Nat
  /-- Every RWL register of the module as captured when the seal was written (R564). -/
  sealBytes : Bytes
  /-- The newest 4,096 records of the repair log (R584). -/
  rlog : List RepRec
  /-- Self-tests that run, by die: the target (R578). -/
  bists : Tab Nat
  /-- Margin runs, by die (R581). -/
  margins : Tab MarginRun
  /-- Ports whose RETRAIN is a margin run (R581). -/
  remargin : List Nat
  /-- Spare lanes used, by stack × 64 + channel (R583). -/
  spares : Tab Nat
  /-- Repaired rows, by (stack × 64 + pseudo-channel) × 16 + bank: 4 × row, plus 1 soft, 2 hard, 3 both (R583). -/
  rows : Tab Nat
  /-- Ticks since the slewing last doubled or skipped one (R500). -/
  slewCnt : Nat
  /-- A CopyTables command has not completed (R558). -/
  copyAsked : Bool
  /-- Token words lost to an uncorrectable error, by die and number: they read as 0 until reallocated (R511). -/
  deadToks : List Nat
  /-- Requests that movers have in flight, oldest first, by station (R352-R355). -/
  reqs : Tab (List Req)
  /-- Deficits of the queues at a mover, by mover and queue (R355). -/
  deficits : Tab Nat
  /-- What the station that computes has taken in; empty between commands (the model's own, R49). -/
  view : List Input
  /-- Walks that wait for a free slot: die, sequence, function, first and last position (R260). -/
  walkq : List (Nat × Nat × Nat × Nat × Nat)
  /-- Round-robin of the ranks at the banks of the pools: the number behind the port granted last (R44), by die, bank and rank. -/
  bankTurn : Tab Nat
  /-- The identities that F0 (16) and F4 (20) have derived at their last boots (R563). -/
  idents : Tab Ident
  deriving DecidableEq, Repr

/-- The module right after a cold reset: every register at the value of its table, every table empty, and the values
the spec leaves open as the assumption log names them. -/
def State.reset : State where
  pending := []
  tick := 0
  flds := []
  loPend := []
  rems := []
  mem := []
  lines := []
  stackState := []
  powers := []
  hostMem := []
  out := []
  freeCtr := 0
  stamp := 0
  tokens := []
  deadToks := []
  held := []
  winSel := []
  qints := []
  rints := []
  wrrs := []
  descs := []
  laneDone := []
  scheds := []
  shards := []
  fifos := []
  overs := []
  streams := []
  linkDown := []
  lostCpls := []
  bar4 := 0
  rstreams := []
  profiles := []
  samples := []
  pages := []
  homes := []
  moves := []
  tierJobs := []
  policyOn := []
  partGran := 2
  heldWrites := []
  releases := []
  objects := []
  gens := []
  slots := []
  windows := []
  txFlows := []
  rxFlows := []
  ports := []
  links := []
  mcSends := []
  mcRecvs := []
  pruned := []
  waits := []
  routeWrr := []
  modTab := []
  ovrTab := []
  mcTab := []
  remoteFenced := []
  keys := []
  keyCtr := []
  keySend := []
  elog := []
  noticeId := 0
  noticeCache := []
  seqs := []
  pmap := []
  walks := []
  remaps := []
  rebuilds := []
  rings := []
  comms := []
  calls := []
  notes := []
  lates := []
  serves := []
  epochs := []
  maps := []
  extTab := []
  vmap := []
  supply := Supply.reset
  govs := []
  hotStep := []
  drains := []
  modes := []
  psAt := []
  psWake := []
  aon := 0
  swaps := []
  stopped := []
  slew := 0
  aligned := false
  tickStop := false
  hbLast := []
  pcs := []
  pcRetired := []
  sets := []
  images := []
  wardGen := []
  wardMem := []
  conns := []
  paused := []
  opWaits := []
  staged := none
  fwSlots := []
  bootAt := 0
  bootBad := []
  sessions := []
  sealBytes := []
  rlog := []
  bists := []
  margins := []
  remargin := []
  spares := []
  rows := []
  slewCnt := 0
  copyAsked := false
  reqs := []
  deficits := []
  view := []
  walkq := []
  bankTurn := []
  idents := []

end Sys2Proof.Machine
end

