-- ==== Sys2Proof/Machine/Ops.lean ====
section
/-! DEFINITION. The named operations over the state: register fields, outputs and logs, fences, job memory, tokens
(R12-R15, R44, R59-R65, R100, R320-R329, R602-R604). -/

namespace Sys2Proof.Machine

open Sys2Proof

/-! ## Register fields -/

/-- The block that keeps the F0 registers (R602): they are mirrored, and kept once. -/
def f0 : Nat := 16

/-- Whether a die index names a compute die, a fabric die or a memory die (R12). -/
def isComp (die : Nat) : Bool := die < 16
/-- Fabric dies F0-F7. -/
def isFab (die : Nat) : Bool := 16 ≤ die && die < 24
/-- Memory dies M0-M7. -/
def isMem (die : Nat) : Bool := 24 ≤ die && die < 32

/-- DIE_TYPE of a die (R25). -/
def dieType (die : Nat) : Nat := if isComp die then 1 else if isFab die then 2 else 3

/-- The class floors of R388. -/
def classFloor (c : Nat) : Nat :=
  match c with
  | 0 => 128
  | 1 => 1024
  | 2 => 1024
  | 3 => 512
  | _ => 128

/-- The reset value of one instance of a field (R604, R605). -/
def fieldReset (f : Fld) (die i : Nat) : Nat :=
  match f.special with
  | 0 => f.reset
  | 1 => die
  | 2 => dieType die
  | _ => classFloor i

/-- The die block that keeps a field: F0's for the mirrored registers (R602). -/
def homeDie (f : Fld) (die : Nat) : Nat := if f.blk = .f04 then f0 else die

/-- The key of one instance of a field in the register map: die, instance, offset of instance 0, lowest bit. -/
def fieldKey (f : Fld) (die i : Nat) : Nat := ((homeDie f die * 2 ^ 20 + i) * 2 ^ 25 + f.off) * 32 + f.lo

/-- The value of a register field: instance `i` on a die. -/
def getF (s : State) (f : Fld) (die : Nat) (i : Nat := 0) : Nat :=
  tgetD s.flds (fieldKey f die i) (fieldReset f die i)

/-- Write a register field, cut to its width. -/
def setF (s : State) (f : Fld) (die i v : Nat) : State :=
  { s with flds := tput s.flds (fieldKey f die i) (v % 2 ^ f.width) (fieldReset f die i) }

/-- A one-bit field as a truth value. -/
def flag (s : State) (f : Fld) (die : Nat) (i : Nat := 0) : Bool := getF s f die i == 1

/-- Advance a counter that saturates at its field width. -/
def addF (s : State) (f : Fld) (die i k : Nat) : State :=
  setF s f die i (sat (2 ^ f.width - 1) (getF s f die i + k))

/-- Advance a counter that wraps. -/
def addW (s : State) (f : Fld) (die i k : Nat) : State := setF s f die i (getF s f die i + k)

/-- Advance a counter kept exactly and shown divided, saturating (R139). -/
def addD (s : State) (f : Fld) (die i k div : Nat) : State :=
  let key := fieldKey f die i
  let t := tgetD s.rems key 0 + k
  addF { s with rems := tput s.rems key (t % div) 0 } f die i (t / div)

/-- Decrease a counter, not below zero. -/
def subF (s : State) (f : Fld) (die i k : Nat) : State := setF s f die i (getF s f die i - k)

/-- Clear a counter with the exact count below its resolution. -/
def clearF (s : State) (f : Fld) (die i : Nat) : State :=
  setF { s with rems := tdel s.rems (fieldKey f die i) } f die i 0

/-- Clear every counter of a station. -/
def clearAll (s : State) (fs : List Fld) (die i : Nat) : State := fs.foldl (fun s f => clearF s f die i) s

/-- The value of a split _LO/_HI pair in force (R15). -/
def getPair (s : State) (lo hi : Fld) (die : Nat) (i : Nat := 0) : Nat :=
  getF s lo die i * 2 ^ lo.lo + getF s hi die i * 2 ^ 32

/-! ## Outputs, free values, logs -/

/-- Send something to the outside. -/
def emit (s : State) (o : Output) : State := { s with out := s.out ++ [o] }

/-- Take a fresh free value's index (log entry 6). -/
def freshFree (s : State) : Nat × State := (s.freeCtr, { s with freeCtr := s.freeCtr + 1 })

/-- The host port of a function index (R74). -/
def portOf (fn : Nat) : Nat := fn / 17

/-- Whether a function is a physical function (R74). -/
def isPF (fn : Nat) : Bool := fn % 17 == 0

/-- Write to host memory of a port. -/
def hostWrite (s : State) (port a : Nat) (bs : Bytes) : State :=
  { s with hostMem := writeBytes s.hostMem (port * 2 ^ 64 + a % 2 ^ 64) bs }

/-- The machine tick as a number. -/
def now (s : State) : Nat := s.tick.toNat

/-- The 16 bytes of an error-ring entry (R100). -/
def errBytes (s : State) (fn code detail : Nat) (queue : Option Nat) : Bytes :=
  toLe 2 code ++ toLe 1 fn ++ toLe 1 (portOf fn) ++ toLe 2 (queue.getD 0) ++ toLe 1 (b2n queue.isSome) ++ toLe 1 0 ++
    toLe 4 detail ++ toLe 4 (now s)

/-- Write an error entry to a function's error ring and raise vector 0, or count it in OVF; base 0 disables the ring
(R100, R105). -/
def logErr (s : State) (fn code detail : Nat) (queue : Option Nat := none) : State :=
  let base := getPair s F.HST_FN_ERR_BASE_LO_BASE F.HST_FN_ERR_BASE_HI_BASE f0 fn
  let tail := getF s F.HST_FN_ERR_TAIL_TAIL f0 fn
  let head := getF s F.HST_FN_ERR_HEAD_HEAD f0 fn
  if base = 0 then s
  else if (tail + 2 ^ 16 - head % 2 ^ 16) % 2 ^ 16 ≥ 256 then addF s F.HST_FN_ERR_TAIL_OVF f0 fn 1
  else
    let s := hostWrite s (portOf fn) (base + 16 * (tail % 256)) (errBytes s fn code detail queue)
    emit (addW s F.HST_FN_ERR_TAIL_TAIL f0 fn 1) (.msix fn 0)

/-- The function whose error ring takes a record of an access: the function, or function 0 for the management
controller (R14, R598). -/
def srcFn : Src → Nat
  | .fn f => f
  | .mgmt => 0

/-! ## Fences -/

/-- A die is fenced (R515). -/
def dieFenced (s : State) (die : Nat) : Bool := flag s F.MGT_FENCE_DIE die

/-- The block through which the mirrored registers are reached: F0, or F4 while F0 is fenced (R75, R602). -/
def die04 (s : State) : Nat := if dieFenced s 16 then 20 else 16

/-- The bit of a station in MGT_FENCE.STATIONS (R546): MX0-3, AT0-1, PG, VX, CV, CK, SL, RD, MV0-3. -/
def stBit (st : Nat) : Option Nat :=
  match st with
  | 0x00 => some 0
  | 0x01 => some 1
  | 0x02 => some 2
  | 0x03 => some 3
  | 0x08 => some 4
  | 0x09 => some 5
  | 0x0C => some 6
  | 0x10 => some 7
  | 0x18 => some 8
  | 0x19 => some 9
  | 0x1A => some 10
  | 0x20 => some 11
  | 0x28 => some 12
  | 0x29 => some 13
  | 0x2A => some 14
  | 0x2B => some 15
  | _ => none

/-- A station is fenced, or its die is (R68, R514). -/
def stFenced (s : State) (die st : Nat) : Bool :=
  dieFenced s die || (match stBit st with
    | some b => bit (getF s F.MGT_FENCE_STATIONS die) b
    | none => false)

/-- The core clock domain of a die is forced (R502). -/
def coreForced (s : State) (die : Nat) : Bool := getF s F.CLK_DOM_STATE_STATE die 0 == 2

/-- A station issues bubbles alone: every station after 100 µs without an input (R467) or while its core clock is forced (R502), a matrix or
attention station of a die with a stack that has been hot for 1.2 ms (R479). -/
def halted (s : State) (die st : Nat) : Bool :=
  s.supply.phase == 2 || coreForced s die ||
    ((decide (st < 4) || st == 8 || st == 9) && (decide (tgetD s.hotStep (2 * die) 0 ≥ 2) || decide (tgetD s.hotStep (2 * die + 1) 0 ≥ 2)))

/-- The number of fenced compute dies (R39). -/
def fencedComp (s : State) : Nat := ((List.range 16).filter (dieFenced s)).length

/-- The sampled build is neither build of the module: a strap fault (R25, R26). -/
def strapFault (s : State) : Bool := getF s F.MGT_MOD_ID_BUILD f0 != 1 && getF s F.MGT_MOD_ID_BUILD f0 != 2

/-- The module admits no descriptors: a strap fault, recovery mode, F0 and F4 both fenced, or more than four compute dies
fenced (R26, R38, R39, R551). -/
def admitsNone (s : State) : Bool :=
  flag s F.MGT_SVC_RECOVERY f0 ||
  strapFault s ||
  (dieFenced s 16 && dieFenced s 20) || decide (fencedComp s > 4)

/-- The module is the bandwidth build (R3, R25). -/
def buildB (s : State) : Bool := getF s F.MGT_MOD_ID_BUILD f0 == 2

/-- The power state of a die (R483). -/
def powerOf (s : State) (die : Nat) : Nat := tgetD s.powers die 0

/-! ## Physical memory (R42, R315-R321) -/

/-- Base of the far-memory window. -/
def farBase : Nat := 0x040000000000
/-- Bytes of a region. -/
def region : Nat := 0x200000
/-- Bytes of an HBM stack's range. -/
def stackBytes : Nat := 0x1800000000
/-- End of HBM. -/
def hbmEnd : Nat := 0x030000000000
/-- Bytes of an M die's far range (R317). -/
def farRange (s : State) : Nat := if buildB s then 0x600000000 else 0x8000000000
/-- Bytes a far-memory device holds (R630). -/
def farDevice (s : State) : Nat := if buildB s then 0xC0000000 else 0x1000000000

/-- The M die that serves a compute die (R23). -/
def mDieOf (die : Nat) : Nat := 24 + die / 2

/-- An address lies in HBM. -/
def inHbm (a : Nat) : Bool := a < hbmEnd

/-- An address lies in populated far memory (R630). -/
def inFar (s : State) (a : Nat) : Bool :=
  farBase ≤ a && decide ((a - farBase) / farRange s < 8) &&
  decide ((a - farBase) % farRange s < getF s F.TM_STATE_FAR_DEVS (24 + (a - farBase) / farRange s) * farDevice s)

/-- An extent lies wholly in HBM or populated far memory (R81, R97, R321). -/
def inMemory (s : State) (a n : Nat) : Bool :=
  n == 0 || (inHbm a && inHbm (a + n - 1)) ||
  (inFar s a && inFar s (a + n - 1) && decide ((a - farBase) / farRange s = (a + n - 1 - farBase) / farRange s)) ||
  (inFar s a && inFar s (a + n - 1) && getF s F.TM_STATE_FAR_DEVS (24 + (a - farBase) / farRange s) == 8)

/-- Base of the model's address range for flash content. -/
def flashBase : Nat := 0x1000000000000

/-- The address where the bytes of a region location lie: HBM or far region number, or flash location (R328). -/
def locAddr (tier loc : Nat) : Nat :=
  match tier with
  | 0 => loc * region
  | 1 => farBase + loc * region
  | _ => flashBase + loc * region

/-- Base of a die's pool window (R42). -/
def poolBase (die : Nat) : Nat := 0x080000000000 + die * 0x10000000
/-- Bytes of a pool. -/
def poolBytes : Nat := 0xC000000

/-- Whether the content of a physical region is lost: its stack is fenced or tripped, its compute die is fenced, or
the far or flash tier that holds it is fenced (R342). -/
def lostAt (s : State) (a : Nat) : Bool :=
  if inHbm a then
    tgetD s.stackState (a / stackBytes) 0 == 1 || dieFenced s (a / stackBytes / 2)
  else if a < flashBase then
    let k := (a - farBase) / farRange s
    dieFenced s (24 + k) || !flag s F.TM_STATE_FAR_OK (24 + k)
  else dieFenced s (24 + (a - flashBase) / region / 2 ^ 29)

/-! ## Job address spaces (R322-R329) -/

/-- Key of a page. -/
def pageKey (fn va : Nat) : Nat := fn * 2 ^ 52 + va % 2 ^ 52

/-- The page that holds a virtual address, with its base. -/
def findPage (s : State) (fn va : Nat) : Option (Nat × Page) :=
  match tget? s.pages (pageKey fn (va / region * region)) with
  | some p => some (va / region * region, p)
  | none =>
    match tget? s.pages (pageKey fn (va / 2 ^ 30 * 2 ^ 30)) with
    | some p => if p.large then some (va / 2 ^ 30 * 2 ^ 30, p) else none
    | none => none

/-- A home record that no page uses. -/
def HomeRec.empty : HomeRec := ⟨0, 0, 0, 0, false, false, 0, 0, false, 0, 0, 0, 0, 0, false, 0⟩

/-- A home record. -/
def getHome (s : State) (r : Nat) : HomeRec := tgetD s.homes r HomeRec.empty

/-- The counter key of a managed region (by home record) and of an HBM region (by region number); see `gens`. -/
def genKeyHome (r : Nat) : Nat := 2 ^ 40 + r

/-- The physical place of the byte at `va` of a page at `base`, and how many bytes follow it there. -/
def spanOf (s : State) (base va : Nat) (p : Page) : Span :=
  let o := va - base
  match p.kind with
  | 0 =>
    let a := p.backing + o
    ⟨a, region - va % region, lostAt s a, p.write, p.nopf, if inHbm a then some (a / region) else none,
      a / stackBytes / 2, none⟩
  | 1 =>
    let c := o / 8192
    let a := (c % 32) * stackBytes + p.backing * 65536 + (c / 32) * 8192 + o % 8192
    ⟨a, 8192 - o % 8192, lostAt s a, p.write, p.nopf, none, 0, none⟩
  | 2 =>
    let h := getHome s p.backing
    let a := locAddr h.tier h.location + o
    ⟨a, region - o, h.state == 3 || lostAt s a, p.write, p.nopf,
      if h.tracked then some (genKeyHome p.backing) else none, h.home, some p.backing⟩
  | _ =>
    let a := p.backing + o
    ⟨a, region - o, lostAt s a, p.write, p.nopf, if inHbm a then some (a / region) else none,
      a / stackBytes / 2, none⟩

/-- The pieces of an extent in a function's space; `none` where no page is mapped, or its entry has an uncorrectable error
(R326, R511). -/
def spansOf (s : State) (fn : Nat) : Nat → Nat → Nat → List (Option Span)
  | 0, _, _ => []
  | fuel + 1, va, len =>
    if len = 0 then []
    else
      match findPage s fn va with
      | none =>
        let k := region - va % region
        none :: (if k < len then spansOf s fn fuel (va + k) (len - k) else [])
      | some (base, p) =>
        let sp := spanOf s base va p
        let x := if p.kind < 8 then some sp else none
        if sp.len < len then x :: spansOf s fn fuel (va + sp.len) (len - sp.len)
        else [x.map (fun sp => { sp with len := len })]

/-- The pieces of an extent, with fuel for the smallest piece of 8 KiB. -/
def extent (s : State) (fn va len : Nat) : List (Option Span) := spansOf s fn (len / 4096 + 2) va len

/-- The first of the poison causes in the order of R624: 6, 1, 4, 3, 2, 5; 0 is none. -/
def worstCause (cs : List Nat) : Nat :=
  (([6, 1, 4, 3, 2, 5] : List Nat).find? (fun c => cs.contains c)).getD 0

/-- The poison causes recorded for the lines of a physical extent. -/
def lineCauses (s : State) (a n : Nat) : List Nat :=
  (s.lines.filter (fun p => decide (a / 64 ≤ p.1) && decide (p.1 ≤ (a + n - 1) / 64))).map (·.2)

/-- The cause one piece of a read carries: a protection failure outside memory, lost content, or its lines' (R321, R342). -/
def spanCause (s : State) (o : Option Span) : Nat :=
  match o with
  | none => 2
  | some sp =>
    if decide (sp.addr < flashBase) && !inMemory s sp.addr sp.len then 3
    else if sp.lost then 6
    else worstCause (lineCauses s sp.addr sp.len)

/-- The bytes of some pieces. -/
def spansBytes (s : State) (sps : List (Option Span)) : Bytes :=
  sps.flatMap (fun o => match o with
    | some sp => readBytes s.mem sp.addr sp.len
    | none => [])

/-- The poison cause that some pieces carry (R624). -/
def spansCause (s : State) (sps : List (Option Span)) : Nat := worstCause (sps.map (spanCause s))

/-- The first of some poison causes, in the order in which their bytes are taken in (R49). -/
def firstCause (cs : List Nat) : Nat := (cs.find? (· != 0)).getD 0

/-- Read an extent out of what a descriptor has taken in: its bytes and the causes of the extents it lies in; none where it has not
been taken in. The fuel bounds the extents. -/
def viewRead (xs : List Input) : Nat → Nat → Nat → Option (Bytes × List Nat)
  | 0, _, _ => none
  | fuel + 1, va, len =>
    if len = 0 then some ([], [])
    else
      match xs.find? (fun x => decide (x.va ≤ va) && decide (va < x.va + x.data.length)) with
      | none => none
      | some x =>
        let n := min len (x.va + x.data.length - va)
        (viewRead xs fuel (va + n) (len - n)).map (fun r => ((x.data.drop (va - x.va)).take n ++ r.1, x.cause :: r.2))

/-- Read an extent of a function's space out of memory: its bytes and the poison cause it carries (R49, R326, R342, R359, R624). -/
def memRead (s : State) (fn va len : Nat) : Bytes × Nat :=
  let sps := extent s fn va len
  (spansBytes s sps, spansCause s sps)

/-- Read an extent of a function's space: what the computing station has taken in of it (R56), else memory. -/
def jobRead (s : State) (fn va len : Nat) : Bytes × Nat :=
  match viewRead s.view (s.view.length + 1) va len with
  | some r => (r.1, firstCause r.2)
  | none => memRead s fn va len

/-- The extents of a tile: the elements of each row, then the scales of each row. -/
def geoExtents (g : Geo) : List (Nat × Nat) :=
  (List.range g.rows).map (fun i => (g.va + i * g.pitch, g.len)) ++
    (if g.slen = 0 then [] else (List.range g.rows).map (fun i => (g.va + g.soff + i * g.pitch, g.slen)))

/-- Bytes of a tile. -/
def geoBytes (g : Geo) : Nat := g.rows * (g.len + g.slen)

/-- The pieces of a tile in physical memory: translated, or where a page walk found them (R261, R357). -/
def geoSpans (s : State) (fn : Nat) (g : Geo) : List (Option Span) :=
  (geoExtents g).flatMap (fun e =>
    if g.place = 0 then extent s fn e.1 e.2
    else
      let a := g.place - 1 + (e.1 - g.va)
      [some ⟨a, e.2, lostAt s a, false, false, if inHbm a then some (a / region) else none, a / stackBytes / 2, none⟩])

/-- What a tile brings in, extent by extent. -/
def tileInputs (data : Bytes) (cause : Nat) (version : Option (Nat × Nat)) : List (Nat × Nat) → List Input
  | [] => []
  | e :: r => ⟨e.1, data.take e.2, cause, version⟩ :: tileInputs (data.drop e.2) cause version r

/-- The status a poison cause gives its consumer (R49). -/
def causeStatus (c : Nat) : Nat :=
  match c with
  | 1 => 0x12
  | 2 => 0x10
  | 3 => 0x11
  | 4 => 0x25
  | 5 => 0x12
  | 6 => 0x40
  | _ => 0x00

/-- Set or clear the poison of the lines of a physical extent. -/
def markLines (s : State) (a n cause : Nat) : State :=
  let lo := a / 64
  let hi := (a + n - 1) / 64
  let keep := s.lines.filter (fun p => decide (p.1 < lo))
  let rest := s.lines.filter (fun p => decide (hi < p.1))
  let mid := if cause = 0 then [] else (List.range (hi - lo + 1)).map (fun i => (lo + i, cause))
  { s with lines := keep ++ mid ++ rest }

/-- Write bytes at a physical address, with the poison of their lines. -/
def physWrite (s : State) (a : Nat) (bs : Bytes) (cause : Nat) : State :=
  if bs.isEmpty then s else markLines { s with mem := writeBytes s.mem a bs } a bs.length cause

/-- The status one piece of a write ends with: no page, no permission, outside memory, a LOST region; 0: written
(R321, R326, R342). -/
def spanStatus (s : State) (o : Option Span) : Nat :=
  match o with
  | none => 0x10
  | some sp =>
    if !sp.write then 0x11
    else if decide (sp.addr < flashBase) && !inMemory s sp.addr sp.len then 0x11
    else if sp.lost then 0x40
    else 0

/-- Advance the generation of a tracked region for one tile write of a station of its own die (R362). -/
def bumpGen (s : State) (die : Nat) (sp : Span) : State :=
  match sp.gen with
  | some k => if sp.own = die then { s with gens := tput s.gens k ((tgetD s.gens k 0 + 1) % 2 ^ 16) 0 } else s
  | none => s

/-- Record the access time of a managed region (R328). -/
def touchHome (s : State) (o : Option Nat) : State :=
  match o with
  | some r => { s with homes := tput s.homes r { getHome s r with age := now s / 2 ^ 20 % 2 ^ 16 } HomeRec.empty }
  | none => s

/-- A read of an extent is an access to its managed regions (R328). -/
def touchRead (s : State) (fn va len : Nat) : State := (extent s fn va len).foldl (fun s o => touchHome s (o.bind (·.home))) s

/-- A write to the source of a move marks the chunks that the pass has already copied as dirty (R330). -/
def markDirty (s : State) (a n : Nat) : State :=
  { s with moves := s.moves.map (fun m =>
      let src := locAddr (getHome s m.record).tier (getHome s m.record).location
      if m.copying && decide (a < src + region) && decide (src < a + n) then
        { m with dirty := m.dirty ++ (List.range 32).filter (fun c =>
            decide (a < src + (c + 1) * 65536) && decide (src + c * 65536 < a + n) && !m.todo.contains c && !m.dirty.contains c) }
      else m) }

/-- Write the pieces of an extent. -/
def writeSpans (s : State) (die cause : Nat) : List (Option Span) → Bytes → State
  | [], _ => s
  | none :: r, bs => writeSpans s die cause r bs
  | some sp :: r, bs =>
    let s := touchHome (bumpGen (physWrite s sp.addr (bs.take sp.len) cause) die sp) sp.home
    let s := if sp.home.isSome then markDirty s sp.addr sp.len else s
    writeSpans s die cause r (bs.drop sp.len)

/-- Write a tile to a function's space by a station of a die: the state and the status; a tile that fails writes
nothing (R627). -/
def jobWrite (s : State) (die fn va : Nat) (bs : Bytes) (cause : Nat) : State × Nat :=
  let sps := extent s fn va bs.length
  match (sps.map (spanStatus s)).find? (· != 0) with
  | some e => (s, e)
  | none => (writeSpans s die cause sps bs, 0)

/-! ## Tokens (R59-R65) -/

/-- Key of a token. -/
def tokKey (die tok : Nat) : Nat := die * 4096 + tok

/-- The value of a token. -/
def getTok (s : State) (die tok : Nat) : Word := tgetD s.tokens (tokKey die tok) 0

/-- Set a token. -/
def setTok (s : State) (die tok : Nat) (v : Word) : State :=
  { s with tokens := tput s.tokens (tokKey die tok) v 0 }

/-- A wait on a token for a value is satisfied (R61). -/
def waitHolds (s : State) (die tok : Nat) (v : Nat) : Bool :=
  !(getTok s die tok - BitVec.ofNat 32 v).msb

/-- Key of a station FIFO. -/
def fifoKey (die st : Nat) : Nat := die * 64 + st

/-- A station's command FIFO. -/
def fifo (s : State) (die st : Nat) : List Micro := tgetD s.fifos (fifoKey die st) []

/-- Replace a station's command FIFO. -/
def setFifo (s : State) (die st : Nat) (l : List Micro) : State :=
  { s with fifos := tput s.fifos (fifoKey die st) l [] }

/-- The station identifiers of R67, sequencers apart. -/
def stations : List Nat :=
  [0x00, 0x01, 0x02, 0x03, 0x08, 0x09, 0x0C, 0x10, 0x18, 0x19, 0x1A, 0x20, 0x28, 0x29, 0x2A, 0x2B]

/-- Release the micro-command at the head of one FIFO when its token wait holds (R61). -/
def releaseAt (s : State) (die : Nat) (st : Nat) : State :=
  match fifo s die st with
  | m :: r =>
    match m.kind with
    | .token t v =>
      if waitHolds s die t v then setFifo s die st ({ m with kind := .plain, started := true, ready := true } :: r)
      else s
    | _ => s
  | [] => s

/-- Release every waiter whose condition holds after a token update (R61, R62). -/
def releaseWaiters (s : State) (die : Nat) : State := stations.foldl (fun s st => releaseAt s die st) s

/-- Add an increment to a token and release its waiters (R62); a token word that is lost stays at 0 (R511). -/
def addTok (s : State) (die tok inc : Nat) : State :=
  if s.deadToks.contains (tokKey die tok) then s
  else releaseWaiters (setTok s die tok (getTok s die tok + BitVec.ofNat 32 inc)) die

/-- A token word of a die is lost: it reads as 0 until it is reallocated (R511). -/
def loseTok (s : State) (die tok : Nat) : State :=
  { setTok s die tok 0 with deadToks := tokKey die tok :: s.deadToks.filter (fun k => !(k == tokKey die tok)) }

/-- Allocating a block of 64 job tokens of a die sets each to 0 (R60, R106). -/
def allocToks (s : State) (die block : Nat) : State :=
  let out (k : Nat) : Bool := !(k / 64 == tokKey die (64 * block) / 64)
  releaseWaiters { s with tokens := s.tokens.filter (fun p => out p.1), deadToks := s.deadToks.filter out } die

/-! ## Wakes by accesses to a die (R62, R486, R488, R621) -/

/-- GV_STATE.PS of a power state (R491). -/
def psCode (p : Nat) : Nat := if p = 0 then 0 else if p = 1 then 1 else 2

/-- Put a compute die into a power state. -/
def setPower (s : State) (die p : Nat) : State :=
  setF { s with powers := tput s.powers die p 0 } F.GV_STATE_PS die 0 (psCode p)

/-- The sequencers of a die leave their waits. -/
def leaveWaits (s : State) (die : Nat) : State := { s with modes := s.modes.filter (fun p => !(p.1 / 4 == die)) }

/-- Ticks from the begin of an entry into Charcoal to its last abort point A4 (R486). -/
def lastAbort : Nat := 10000

/-- A wake is recorded if it changes a state and no other one is being served (R490). -/
def recordWake (s : State) (source die port : Nat) : State :=
  let s := setF (setF s F.AON_WAKE_LAST_SRC f0 0 source) F.AON_WAKE_LAST_DIE f0 0 (if source ≥ 7 then die else 0)
  let s := setF s F.AON_WAKE_LAST_PORT f0 0 (if source = 2 ∨ source = 3 then port else 0)
  setF s F.AON_WAKE_TIME_COUNT f0 0 (s.aon / 100000000 % 2 ^ 32)

/-- A doorbell or host access (source 7), or a token signal or fabric transaction (source 8), reaches a die: it wakes one in Grey or
Charcoal, and is served after its entry where it comes past the last abort point. An entry that it still abandons is reversed by the
WAKE_EVENT that follows (R486, R488; log entry 115). -/
def wakeFrom (s : State) (source die : Nat) : State :=
  if !isComp die ∨ dieFenced s die ∨ s.supply.phase ≥ 3 ∨ !bit (getF s F.AON_WAKE_EN_EN f0) (source - 1) then s
  else
    let busy := s.powers.any (fun p => p.2 == 4) || !s.psWake.isEmpty
    let note (s : State) : State := if busy then s else recordWake s source die 0
    match powerOf s die with
    | 1 => note (setPower (leaveWaits s die) die 0)
    | 2 =>
      if now s + 1 < tgetD s.psAt die 0 + lastAbort ∨ (tget? s.psWake die).isSome then s
      else note { s with psWake := tins s.psWake die 1 }
    | 3 => note (setPower s die 4)
    | _ => s

/-- A signal to a token of a die: discarded for a fenced die, held for a die entering, in or leaving Charcoal, applied
at once otherwise, and a wake event for the die (R62, R65). -/
def signalTok (s : State) (die tok inc : Nat) : State :=
  if dieFenced s die then s
  else
    let s := wakeFrom s 8 die
    if powerOf s die ≥ 2 then { s with held := s.held ++ [.sig die tok inc] } else addTok s die tok inc

/-- The owner of a queue's group, if it has one (R79, R106). -/
def ownerOf (v : Nat) : Option Nat := if v ≥ 128 then some (v % 128) else none

/-- The function that owns a queue. -/
def queueOwner (s : State) (q : Nat) : Option Nat :=
  ownerOf (getF s F.QUE_GRP_OWN_OWNER (q / 4096) (q % 4096 / 64))

/-- The function that owns a completion ring. -/
def ringOwner (s : State) (r : Nat) : Option Nat := ownerOf (getF s F.QUE_CR_OWN_OWNER (r / 256) (r % 256))

/-- The function that owns a token's block; tokens from 3,072 on are the sequencers' (R59, R106). -/
def tokenOwner (s : State) (die tok : Nat) : Option Nat :=
  if tok < 3072 then ownerOf (getF s F.QUE_TOK_OWN_OWNER die (tok / 64)) else none

/-- An identity in a sealed ownership block of R573 that a function may use: it owns it, or it has no owner and the
function is a PF (R570). -/
def mayUse (own : Nat) (fn : Nat) : Bool :=
  match ownerOf own with
  | some f => f == fn
  | none => isPF fn

end Sys2Proof.Machine
end

