-- ==== Sys2Proof/Machine/Operands.lean ====
section
/-! DEFINITION. Descriptor fields: the header of R83, the bodies' addresses and pitches (R127), reserved bits (R10),
and the opcode classes of R84. -/

namespace Sys2Proof.Machine

open Sys2Proof

/-- An unsigned little-endian field of an image: byte offset and bytes (R9). -/
def fld (img : Bytes) (off n : Nat) : Nat := leNat ((img.drop off).take n)

/-- Bytes [off, off+n) of an image are all zero. -/
def zeroAt (img : Bytes) (off n : Nat) : Bool := fld img off n == 0

/-- Opcode (R83). -/
def opcode (img : Bytes) : Nat := fld img 0 1
/-- Header flags (R83). -/
def hFence (img : Bytes) : Bool := bit (fld img 1 1) 0
/-- The completion raises the interrupt at once. -/
def hIrq (img : Bytes) : Bool := bit (fld img 1 1) 1
/-- No entry when DONE. -/
def hQuiet (img : Bytes) : Bool := bit (fld img 1 1) 2
/-- The descriptor waits on its token. -/
def hWait (img : Bytes) : Bool := bit (fld img 1 1) 3
/-- The descriptor signals its token. -/
def hSignal (img : Bytes) : Bool := bit (fld img 1 1) 4
/-- Host-chosen tag. -/
def hTag (img : Bytes) : Nat := fld img 2 2
/-- Energy class. -/
def hClass (img : Bytes) : Nat := bits (fld img 4 1) 0 2
/-- A collective on which the whole machine waits. -/
def hGlobal (img : Bytes) : Bool := bit (fld img 4 1) 2
/-- Die whose token is signalled. -/
def hSigDie (img : Bytes) : Nat := bits (fld img 5 1) 0 4
/-- Token waited on. -/
def hWaitTok (img : Bytes) : Nat := bits (fld img 6 2) 0 12
/-- Value awaited. -/
def hWaitVal (img : Bytes) : Nat := fld img 8 4
/-- Token signalled. -/
def hSigTok (img : Bytes) : Nat := bits (fld img 12 2) 0 12
/-- Increment of the signal. -/
def hSigInc (img : Bytes) : Nat := fld img 14 2

/-- A reserved header bit or byte is set (R10, R83). -/
def hReserved (img : Bytes) : Bool :=
  bits (fld img 1 1) 5 3 != 0 || bits (fld img 4 1) 3 5 != 0 || bits (fld img 5 1) 4 4 != 0 ||
  bits (fld img 6 2) 12 4 != 0 || bits (fld img 12 2) 12 4 != 0

/-- Class of an opcode (R84). -/
def opClass (op : Nat) : Option Nat :=
  if op < 0x10 then some 0 else if op < 0x20 then some 1 else if op < 0x28 then some 2 else if op < 0x30 then some 3
  else if op < 0x40 then some 4 else if op < 0x50 then some 5 else if op < 0x60 then some 6 else if op < 0x80 then some 7
  else if op < 0x90 then some 8 else if op < 0xA0 then some 9 else if op < 0xB0 then some 10 else none

/-- The opcodes that the chapters define (R84 and the class tables); every other one is reserved. -/
def definedOps : List Nat :=
  [0x00, 0x10, 0x11, 0x12, 0x20, 0x21, 0x28, 0x29, 0x2A, 0x30, 0x31, 0x32, 0x33,
   0x40, 0x41, 0x42, 0x43, 0x44, 0x45, 0x46, 0x47, 0x48, 0x50,
   0x60, 0x61, 0x62, 0x63, 0x64, 0x65, 0x66, 0x67,
   0x80, 0x81, 0x82, 0x88, 0x89, 0x8A, 0x8B, 0x8C, 0x8D, 0x90, 0x91, 0x92, 0x93, 0xA0, 0xA1, 0xA2]

/-- Address part of an address-and-pitch field (R127). -/
def addrOf (v : Nat) : Nat := v % 2 ^ 52
/-- Pitch part, in bytes (R127). -/
def pitchOf (v : Nat) : Nat := v / 2 ^ 52 * 64

/-- The six detail bytes of a completion, from a first few. -/
def detail6 (bs : List Nat) : Bytes := ((bs.map (BitVec.ofNat 8)) ++ [0, 0, 0, 0, 0, 0]).take 6

/-- The compute die of a queue (R79). -/
def qDie (q : Nat) : Nat := q / 4096

/-- The local index of a queue. -/
def qLoc (q : Nat) : Nat := q % 4096

end Sys2Proof.Machine
end

