-- ==== Sys2Proof/Machine/Life.lean ====
section
/-! DEFINITION. The life of a descriptor: micro-commands, retirement, completion, posting, interrupts, streams of a
program, purge (R53-R58, R68-R72, R85, R94-R101, R607, R625). -/

namespace Sys2Proof.Machine

open Sys2Proof

/-- The admitted descriptor of a queue with a tag. -/
def descOf (s : State) (q tag : Nat) : Option Desc := s.descs.find? (fun d => d.queue == q && d.tag == tag)

/-- Change the admitted descriptor of a queue with a tag. -/
def updDesc (s : State) (q tag : Nat) (f : Desc → Desc) : State :=
  { s with descs := updFirst (fun d => d.queue == q && d.tag == tag) f s.descs }

/-- Descriptors admitted on a queue. -/
def queueDescs (s : State) (q : Nat) : List Desc := s.descs.filter (fun d => d.queue == q)

/-! ## Completion rings -/

/-- Ring size in entries. -/
def ringSize (s : State) (r : Nat) : Nat := 2 ^ getF s F.QUE_CR_CFG_SIZE_LOG2 (r / 256) (r % 256)

/-- Pending entries of a ring: TAIL minus HEAD (R99). -/
def ringPending (s : State) (r : Nat) : Nat :=
  (getF s F.QUE_CR_TAIL_TAIL (r / 256) (r % 256) + 2 ^ 32 - getF s F.QUE_CR_HEAD_HEAD (r / 256) (r % 256)) % 2 ^ 32

/-- The ring is full (R98). -/
def ringFull (s : State) (r : Nat) : Bool := decide (ringPending s r ≥ ringSize s r)

/-- The interior of a ring. -/
def getRInt (s : State) (r : Nat) : RInt := tgetD s.rints r RInt.reset
/-- Replace the interior of a ring. -/
def setRInt (s : State) (r : Nat) (x : RInt) : State := { s with rints := tput s.rints r x RInt.reset }

/-- The completion ring of a queue (R80, R95). -/
def queueRing (s : State) (q : Nat) : Nat := 256 * qDie q + getF s F.QUE_Q_CFG_CR (qDie q) (qLoc q)

/-- No descriptor of the queue is outstanding: none is admitted, and no completion of one is held for a full ring, a
refused one's among them (R80, R93, R98; log entry 111). -/
def qIdle (s : State) (q : Nat) : Bool :=
  (queueDescs s q).isEmpty && !(getRInt s (queueRing s q)).held.any (fun c => c.queue == q)

/-- Set OUTST, the admitted descriptors not yet completed, and IDLE of a queue (R80). -/
def countOut (s : State) (q : Nat) : State :=
  let s := setF s F.QUE_Q_STATUS_OUTST (qDie q) (qLoc q) (queueDescs s q).length
  setF s F.QUE_Q_STATUS_IDLE (qDie q) (qLoc q) (b2n (qIdle s q))

/-- Release a descriptor: its outstanding count, its tag and its place in the budget (R93, R95). -/
def dropDesc (s : State) (q tag : Nat) : State :=
  countOut { s with descs := delFirst (fun d => d.queue == q && d.tag == tag) s.descs } q

/-- The interior of a queue. -/
def getQInt (s : State) (q : Nat) : QInt := tgetD s.qints q QInt.reset
/-- Replace the interior of a queue. -/
def setQInt (s : State) (q : Nat) (x : QInt) : State := { s with qints := tput s.qints q x QInt.reset }

/-- A condition of R99 under which an armed ring fires. -/
def fireCond (s : State) (r : Nat) : Bool :=
  let i := getRInt s r
  let head := getF s F.QUE_CR_HEAD_HEAD (r / 256) (r % 256)
  let pend := ringPending s r
  let cnt := getF s F.QUE_CR_MOD_CNT (r / 256) (r % 256)
  let time := getF s F.QUE_CR_MOD_TIME (r / 256) (r % 256)
  let live := i.stamps.filter (fun p => decide ((p.1 + 2 ^ 32 - head) % 2 ^ 32 < pend))
  decide (pend ≥ (if cnt = 0 then 1 else cnt)) || i.hot ||
  (time != 0 && live.any (fun p => decide (p.2 + time * 100 ≤ now s)))

/-- Fire the ring's vector if it is armed, an entry is pending and a condition of R99 holds; firing clears ARMED. -/
def fireRing (s : State) (r : Nat) : State :=
  if flag s F.QUE_CR_STATUS_ARMED (r / 256) (r % 256) && ringPending s r != 0 && fireCond s r then
    let s := setF s F.QUE_CR_STATUS_ARMED (r / 256) (r % 256) 0
    let s := setRInt s r { getRInt s r with stamps := [] }
    match ringOwner s r with
    | some f => emit s (.msix f (getF s F.QUE_CR_CFG_VEC (r / 256) (r % 256)))
    | none => s
  else s

/-- The bytes of a completion entry (R94, R96). -/
def entryBytes (s : State) (r : Nat) (c : Cpl) : Bytes :=
  let tail := getF s F.QUE_CR_TAIL_TAIL (r / 256) (r % 256)
  let phase := b2n (tail / ringSize s r % 2 == 0)
  toLe 2 c.tag ++ toLe 2 c.queue ++ toLe 1 c.status ++ toLe 1 c.station ++ toLe 3 (now s) ++ c.detail ++
    toLe 1 (phase * 128 + c.flags % 128)

/-- Write a completion entry into its ring, in host memory or in module memory (R94-R97). -/
def writeEntry (s : State) (r : Nat) (c : Cpl) : State :=
  let die := r / 256
  let i := r % 256
  let base := getPair s F.QUE_CR_BASE_LO_BASE F.QUE_CR_BASE_HI_BASE die i
  let tail := getF s F.QUE_CR_TAIL_TAIL die i
  let a := base + 16 * (tail % ringSize s r)
  let bs := entryBytes s r c
  let s :=
    if flag s F.QUE_CR_CFG_LOC die i then physWrite s a bs 0
    else hostWrite s (portOf ((ringOwner s r).getD 0)) a bs
  let s := setRInt s r { getRInt s r with
    stamps := (getRInt s r).stamps ++ [(tail, now s)], hot := statusKind c.status == .fault || c.irq }
  fireRing (addW s F.QUE_CR_TAIL_TAIL die i 1) r

/-- Release the descriptor a posted completion belongs to. -/
def releaseCpl (s : State) (c : Cpl) : State := if c.counted then dropDesc s c.queue c.tag else countOut s c.queue

/-- Count a completion of a function discarded while its host port's link is down (R104). -/
def countLost (s : State) (fn : Nat) : State :=
  { s with lostCpls := tput s.lostCpls fn (tgetD s.lostCpls fn 0 + 1) 0 }

/-- Post a completion: nothing for a quiet DONE, discarded and counted while the owner's link is down, held while the
ring is full, written otherwise (R95, R98, R104). -/
def postCpl (s : State) (c : Cpl) (quiet : Bool) : State :=
  let r := queueRing s c.queue
  let port := portOf ((queueOwner s c.queue).getD 0)
  if quiet && c.status == 0 then releaseCpl s c
  else
    match tget? s.linkDown port with
    | some _ =>
      releaseCpl (addF (countLost s ((queueOwner s c.queue).getD 0)) F.QUE_Q_STATUS_LOST_CPL (qDie c.queue) (qLoc c.queue) 1) c
    | none =>
      if ringFull s r || !(getRInt s r).held.isEmpty then
        let s := setRInt s r { getRInt s r with held := (getRInt s r).held ++ [c] }
        countOut (addF (setF s F.QUE_CR_STATUS_FULL (r / 256) (r % 256) 1) F.QUE_CR_STATUS_FULL_STALL (r / 256) (r % 256) 1)
          c.queue
      else releaseCpl (writeEntry s r c) c

/-! ## Streams of a program (R53-R58, R71) -/

/-- Key of a stream. -/
def streamKey (die n : Nat) : Nat := die * 1024 + n

/-- Pool lines of the die's active streams, as (first, count). -/
def usedLines (s : State) (die : Nat) : List (Nat × Nat) :=
  (s.streams.filter (fun p => p.1 / 1024 == die)).map (fun p => (p.2.baseLine, p.2.slots * p.2.slotLines))

/-- The lowest line from `from_` at which `n` lines are free; `fuel` bounds the streams passed over. -/
def firstFree (used : List (Nat × Nat)) (n : Nat) : Nat → Nat → Nat
  | 0, a => a
  | fuel + 1, a =>
    match used.find? (fun u => decide (u.1 < a + n) && decide (a < u.1 + u.2)) with
    | some u => firstFree used n fuel (u.1 + u.2)
    | none => a

/-- Lines of a pool below the token area: the token area starts at offset 0xBFF_C000 (R42, R59). -/
def streamLines : Nat := 0xBFFC000 / 64

/-- The lines of a slot that holds a tile of any size: its header and 64 KiB (R46, R53). -/
def tileLines : Nat := 1025

/-- Create a stream for a program: the lowest free number and the lowest free lines; none where no number or no pool
space is free (R58, R71; the choice is the model's, log entry 8). Its lines are zeroed first (R571). -/
def newStream (s : State) (die producer slots slotLines : Nat) (consumers : List Nat) : Option (Nat × State) :=
  match (List.range 1024).find? (fun n => (tget? s.streams (streamKey die n)).isNone) with
  | none => none
  | some n =>
    let used := usedLines s die
    let a := firstFree used (slots * slotLines) (used.length + 1) 0
    if a + slots * slotLines ≤ streamLines then
      let st : Stream := ⟨a, slots, slotLines, producer, consumers.map (fun c => (c, 0)), 0, 0, 0⟩
      some (n, { s with streams := tins s.streams (streamKey die n) st,
                        mem := zeroBytes s.mem (poolBase die + a * 64) (slots * slotLines * 64) })
    else none

/-- Remove a descriptor's streams and the slots filled for it. -/
def dropStreams (s : State) (die : Nat) (ns : List Nat) : State :=
  { s with streams := ns.foldl (fun m n => tdel m (streamKey die n)) s.streams,
           slots := s.slots.filter (fun x => !(x.die == die && ns.contains x.stream)) }

/-! ## Micro-commands -/

/-- What a program pushes: station, what it does, the status and detail it ends with, and its signal to the program's token. -/
structure MSpec where
  station : Nat
  kind : MKind
  status : Nat
  detail : Bytes
  sig : Nat
  deriving DecidableEq, Repr

/-- A micro-command that ends with DONE and signals nothing. -/
def MSpec.of (st : Nat) (k : MKind) : MSpec := ⟨st, k, DONE, [], 0⟩
/-- A micro-command that signals its program's token by 1 when it retires. -/
def MSpec.signalling (st : Nat) (k : MKind) : MSpec := ⟨st, k, DONE, [], 1⟩

/-- A step of a stream program as it is written: a micro-command, a wait on the program's token, or the results of a part (R70). -/
inductive PSpec where
  /-- Push a micro-command. -/
  | push (m : MSpec)
  /-- Wait for a value of the program's token. -/
  | await (value : Nat)
  /-- Go on with the results of a part of the work. -/
  | finish (k : Nat)
  deriving DecidableEq, Repr

/-- Whether a micro-command of this kind may retire as soon as it is at the head of its FIFO. -/
def kindReady : MKind → Bool
  | .plain => true
  | .reads _ rs => rs.isEmpty
  | .writes _ ws => ws.isEmpty
  | .copy _ _ todo stores left => todo.isEmpty && stores.isEmpty && left == 0
  | .acks left => left == 0
  | _ => false

/-- Push a micro-command that belongs to no program into its station's FIFO, behind the ones that wait for room (R70). -/
def pushMicro (s : State) (die st : Nat) (m : Micro) : State :=
  let k := fifoKey die st
  let waiting := tgetD s.overs k []
  if (fifo s die st).length < 64 && waiting.isEmpty then setFifo s die st (fifo s die st ++ [m])
  else { s with overs := tput s.overs k (waiting ++ [m]) [] }

/-- A step added to the end of a descriptor's program; a micro-command gets the next number in issue order (R72). -/
def addStep (d : Desc) : PSpec → Desc
  | .push m =>
    { d with issued := d.issued + 1, unretired := d.unretired + 1,
             todo := d.todo ++ [.push m.station ⟨d.queue, d.tag, d.issued, m.kind, false, kindReady m.kind, m.status, m.detail, m.sig⟩] }
  | .await v => { d with todo := d.todo ++ [.await v] }
  | .finish k => { d with todo := d.todo ++ [.finish k] }

/-- Micro-commands among the steps of a program. -/
def pushes (xs : List PStep) : Nat :=
  (xs.filter (fun x => match x with
    | .push _ _ => true
    | _ => false)).length

/-- A program issues nothing more (R68, R101, R136). -/
def dropTodo (d : Desc) : Desc := { d with todo := [], unretired := d.unretired - pushes d.todo }

/-- The value of a descriptor's program token has been reached (R61). -/
def tokenReached (s : State) (d : Desc) (v : Nat) : Bool :=
  match d.toks.head? with
  | some t => waitHolds s (qDie d.queue) t v
  | none => true

/-- Change a micro-command that a program has still to push. -/
def mapStep (f : Micro → Micro) : PStep → PStep
  | .push st m => .push st (f m)
  | x => x

/-- Change the micro-commands of one descriptor in every FIFO of its die and among those waiting for room. -/
def mapMicros (s : State) (die q tag : Nat) (f : Micro → Micro) : State :=
  let g (m : Micro) : Micro := if m.queue = q ∧ m.tag = tag then f m else m
  let h (p : Nat × List Micro) : Nat × List Micro := if p.1 / 64 = die then (p.1, p.2.map g) else p
  updDesc { s with fifos := s.fifos.map h, overs := s.overs.map h } q tag (fun d => { d with todo := d.todo.map (mapStep g) })

/-- Micro-commands of a descriptor that its stations hold or that its program has still to push. -/
def microsOf (s : State) (q tag : Nat) : List Micro :=
  ((s.fifos ++ s.overs).flatMap (·.2)).filter (fun m => m.queue == q && m.tag == tag) ++
    (((descOf s q tag).map (·.todo)).getD []).filterMap (fun x => match x with
      | .push _ m => some m
      | _ => none)

/-- A station has taken in every tile that the reads of a descriptor bring: none is left to fetch, in flight, or filled and not committed
(R55-R57). -/
def inputsDone (s : State) (q tag : Nat) : Bool :=
  !((microsOf s q tag).any (fun m => match m.kind with
    | .reads _ (_ :: _) => true
    | _ => false)) &&
  !((s.reqs.flatMap (·.2)).any (fun r => r.queue == q && r.tag == tag && !r.write)) &&
  !(s.slots.any (fun x => x.queue == q && x.tag == tag))

/-- Whether a micro-command at the head of a FIFO is in execution: not while it waits on a token, for its turn with the page walker, for
input tiles (`fed` says that it has them) or for its stationary set; a mover's, once it has issued a request (R57, R101, R114). -/
def running (fed : Bool) (m : Micro) : Bool :=
  match m.kind with
  | .token _ _ => false
  | .event 3 => false
  | .work _ => fed
  | .reads _ _ => m.started
  | .pass _ _ _ _ _ => m.started
  | _ => true

/-- A kept micro-command of a cancelled descriptor: a mover issues no further read for it (R57, R101). -/
def cutReads (busy : Nat → Bool) (m : Micro) : Micro :=
  match m.kind with
  | .reads n _ => { m with kind := .reads n [], ready := !busy m.idx }
  | _ => m

/-- Keep the started micro-commands of a descriptor in one FIFO: the head if it is in execution and those marked started; purge the
others (R101). -/
def purgeList (q tag : Nat) (fed : Bool) (busy : Nat → Bool) (l : List Micro) : List Micro :=
  let mine (m : Micro) : Bool := m.queue == q && m.tag == tag
  let cut (m : Micro) : Micro := if mine m then cutReads busy m else m
  match l with
  | [] => []
  | m :: r =>
    (if !mine m || running fed m then [cut m] else []) ++ (r.filter (fun m => !mine m || m.started)).map cut

/-- Number of micro-commands of a descriptor in a list. -/
def countMine (q tag : Nat) (l : List Micro) : Nat := (l.filter (fun m => m.queue == q && m.tag == tag)).length

/-- Remove empty lists from a map of lists. -/
def tidy {α : Type} (t : Tab (List α)) : Tab (List α) := t.filter (fun p => !p.2.isEmpty)

/-- The issue machine of a matrix station whose STREAM was purged rests again (R101, R114). -/
def restIssue (s : State) (die : Nat) : State :=
  let isPass (m : Micro) : Bool := match m.kind with
    | .pass _ _ _ _ _ => true
    | _ => false
  ([0, 1, 2, 3] : List Nat).foldl (fun s st =>
    let v := getF s F.MX_STATE_ISSUE die st
    if v = 1 ∧ !((fifo s die st).any (fun m => isPass m && m.started)) ∨ v = 2 ∧ !((fifo s die st).any isPass) then
      setF s F.MX_STATE_ISSUE die st 0
    else s) s

/-- What has not started of a descriptor is purged, and its program issues nothing more (R101). -/
def purgeDesc (s : State) (d : Desc) : State :=
  let die := qDie d.queue
  let on (p : Nat × List Micro) : Bool := p.1 / 64 == die
  let fed := inputsDone s d.queue d.tag
  let busy (i : Nat) : Bool := (s.reqs.flatMap (·.2)).any (fun r => r.queue == d.queue && r.tag == d.tag && r.idx == i)
  let fifos := s.fifos.map (fun p => if on p then (p.1, purgeList d.queue d.tag fed busy p.2) else p)
  let overs := s.overs.map (fun p => if on p then (p.1, p.2.filter (fun m => !(m.queue == d.queue && m.tag == d.tag))) else p)
  let left := ((fifos.filter on).map (fun p => countMine d.queue d.tag p.2)).foldl (· + ·) 0
  let s := { s with fifos := tidy fifos, overs := tidy overs,
                    rings := s.rings.filter (fun r => !(r.queue == d.queue && r.tag == d.tag)) }
  restIssue (updDesc s d.queue d.tag (fun d => { d with unretired := left, waiting := false, todo := [] })) die

/-- A micro-command of a descriptor is addressed to a fenced station: it ends with FENCED, and what has not started of its program is
purged, with the tiles on their way to that station (R68; log entry 129). -/
def fenceProgram (s : State) (d : Desc) (st idx : Nat) : State :=
  let die := qDie d.queue
  let dead (n : Nat) : Bool := ((tget? s.streams (streamKey die n)).map (fun x => x.consumers.any (fun c => c.1 == st))).getD false
  let lost (q tag n : Nat) : Bool := q == d.queue && tag == d.tag && dead n
  let reqs := s.reqs.map (fun p => (p.1, p.2.filter (fun r => r.write || !lost r.queue r.tag r.stream)))
  let slots := s.slots.filter (fun x => !lost x.queue x.tag x.stream)
  let s := purgeDesc { s with reqs := tidy reqs, slots := slots } d
  updDesc s d.queue d.tag (fun d => { d with retired := d.retired ++ [⟨idx, FENCED, st, []⟩] })

/-- One step of a descriptor's program, if it can be made: a micro-command is pushed while its FIFO has room, and to a fenced station it
ends with FENCED and the program goes no further (R68, R70); a wait ends when the token has its value (R61). -/
def stepProgram (s : State) (d : Desc) : Option State :=
  let die := qDie d.queue
  match d.todo with
  | .push st m :: r =>
    if stFenced s die st then
      some (fenceProgram s d st m.idx)
    else if (fifo s die st).length < 64 then
      some (setFifo (updDesc s d.queue d.tag (fun d => { d with todo := r })) die st (fifo s die st ++ [m]))
    else none
  | .await v :: r => if tokenReached s d v then some (updDesc s d.queue d.tag (fun d => { d with todo := r })) else none
  | _ => none

/-- A descriptor's program goes on as far as it can; the fuel bounds its steps. -/
def advanceN : Nat → State → Nat → Nat → State
  | 0, s, _, _ => s
  | fuel + 1, s, q, tag =>
    match (descOf s q tag).bind (stepProgram s) with
    | some s => advanceN fuel s q tag
    | none => s

/-- A descriptor's program goes on as far as it can (R70, R71). -/
def advance (s : State) (q tag : Nat) : State :=
  advanceN (((descOf s q tag).map (·.todo.length)).getD 0) s q tag

/-- Steps added to a descriptor's program, which goes on as far as it can. -/
def extend (s : State) (q tag : Nat) (xs : List PSpec) : State :=
  advance (updDesc s q tag (fun d => xs.foldl addStep d)) q tag

/-- Issue one micro-command of a descriptor; to a fenced station it ends with FENCED at once (R68). -/
def issueOne (s : State) (q tag : Nat) (m : MSpec) : State := extend s q tag [.push m]

/-- The earliest-issued end of one kind (R72). -/
def earliest (k : Kind) (rs : List Retired) : Option Retired :=
  rs.foldl (fun acc r =>
    if statusKind r.status = k then
      match acc with
      | none => some r
      | some a => if r.idx < a.idx then some r else some a
    else acc) none

/-- The end that decides a completion: a fault before an informational one, the earliest issued of its kind (R72). -/
def chosen (rs : List Retired) : Option Retired :=
  match earliest .fault rs with
  | some r => some r
  | none => earliest .info rs

/-- Drop the reader pins a descriptor holds (R332). -/
def dropPins (s : State) (ps : List Nat) : State :=
  { s with homes := ps.foldl (fun m r =>
      let h := tgetD m r HomeRec.empty
      tput m r { h with readers := h.readers - 1 } HomeRec.empty) s.homes }

/-- The station field of an outcome decided for a descriptor by its sequencer: the sequencer that holds it, or 0xFF
while the dispatcher keeps it (R607). -/
def seqStation (d : Desc) : Nat := if d.seqr < 4 then 0x30 + d.seqr else 0xFF

/-- Complete a descriptor: header signal (a signal to a fenced die turns the status into FENCED, R65), release of
its streams and pins, and the posting of its one completion (R72, R85, R95). -/
def completeDesc (s : State) (d : Desc) (status station : Nat) (detail : Bytes) (flags : Nat) : State :=
  let sig := hSignal d.image && signals status
  let lost := sig && dieFenced s (hSigDie d.image)
  let status := if lost then FENCED else status
  let station := if lost then seqStation d else station
  let s := if sig && !lost then signalTok s (hSigDie d.image) (hSigTok d.image) (hSigInc d.image) else s
  let s := dropPins (dropStreams s (qDie d.queue) d.streams) d.pins
  let s := { s with rings := s.rings.filter (fun r => !(r.queue == d.queue && r.tag == d.tag)) }
  let s := updDesc s d.queue d.tag (fun d => { d with seqr := 5, streams := [], pins := [], todo := [], toks := [] })
  let s := if d.lane = 0 then s else { s with laneDone := s.laneDone ++ [(d.queue, d.lane - 1, status)] }
  postCpl s ⟨d.queue, d.tag, status, station, if detail.isEmpty then detail6 [] else detail, flags, hIrq d.image, true⟩
    (hQuiet d.image)

/-- Complete a descriptor once every micro-command it issued has retired (R72). -/
def maybeComplete (s : State) (q tag : Nat) : State :=
  match descOf s q tag with
  | none => s
  | some d =>
    if d.seqr = 5 ∨ d.unretired ≠ 0 ∨ !d.todo.isEmpty then s
    else
      match d.override with
      | some st => completeDesc s d st 0xFF [] 0
      | none =>
        if d.issued = 0 then s
        else
          match chosen d.retired with
          | some r => completeDesc s d r.status r.station (if r.detail.isEmpty then d.detail else r.detail) d.flags
          | none => completeDesc s d DONE (seqStation d) d.detail d.flags

/-- Run a program: its steps in order as far as they go at once; the descriptor completes if none is left to retire. -/
def runProgram (s : State) (q tag : Nat) (xs : List PSpec) : State :=
  maybeComplete (extend (updDesc s q tag (fun d => { d with started := true })) q tag xs) q tag

/-- Issue the micro-commands of a program in order, and complete the descriptor if none is left to retire. -/
def issueAll (s : State) (q tag : Nat) (ms : List MSpec) : State := runProgram s q tag (ms.map .push)

/-- Push a micro-command of a descriptor beside its program: behind those that wait for room if the FIFO is full; to a fenced station it
ends with FENCED, and the program goes no further (R68, R70, R237). -/
def pushNow (s : State) (q tag : Nat) (m : MSpec) : State :=
  match descOf s q tag with
  | none => s
  | some d =>
    if stFenced s (qDie q) m.station then
      maybeComplete (fenceProgram (updDesc s q tag (fun d => { d with issued := d.issued + 1 })) d m.station d.issued) q tag
    else
      pushMicro (updDesc s q tag (fun d => { d with issued := d.issued + 1, unretired := d.unretired + 1 })) (qDie q) m.station
        ⟨q, tag, d.issued, m.kind, false, kindReady m.kind, m.status, m.detail, m.sig⟩

/-- The signal of a retiring micro-command to its program's token (R62, R70). -/
def signalOwn (s : State) (m : Micro) : State :=
  match (descOf s m.queue m.tag).bind (·.toks.head?) with
  | some t => if m.sig = 0 then s else addTok s (qDie m.queue) t m.sig
  | none => s

/-- A program that waits on its token goes on when the token has the value (R61). -/
def wakeProgram (s : State) (q tag : Nat) : State :=
  match (descOf s q tag).map (·.todo) with
  | some (PStep.await _ :: _) => advance s q tag
  | _ => s

/-- Retire the micro-command at the head of a FIFO if its work is finished; a token wait that comes to the head is tested; the signal
of the micro-command releases its program's wait (R61, R70, R72). -/
def retireHead (s : State) (die st : Nat) : State :=
  match fifo s die st with
  | m :: r =>
    if m.ready then
      let s := releaseAt (setFifo s die st r) die st
      let s := updDesc s m.queue m.tag (fun d =>
        { d with unretired := d.unretired - 1, retired := d.retired ++ [⟨m.idx, m.status, st, m.detail⟩] })
      maybeComplete (wakeProgram (signalOwn s m) m.queue m.tag) m.queue m.tag
    else s
  | [] => s

/-- Cancel a descriptor: its program issues nothing more, its waits are cancelled, a request that waits on a home record with them (R331),
and what has not started is purged; it completes with the status given once what has started has retired (R101). -/
def cancelDesc (s : State) (d : Desc) (status : Nat) : State :=
  if d.seqr = 5 then s
  else
    let asks (m : Move) : Bool := !m.copying && (m.asker.map (fun a => (a.1, a.2.1))) == some (d.queue, d.tag)
    let waits := s.moves.any asks
    let ours (j : TierJob) : Bool := j.queue == d.queue && j.tag == d.tag
    let moves := s.moves.filter (fun m => !asks m)
    let jobs := if waits then s.tierJobs.filter (fun j => !ours j) else s.tierJobs
    let event (m : Micro) : Bool := m.queue == d.queue && m.tag == d.tag && m.kind == .event 1
    let fifos := if waits then s.fifos.map (fun p => (p.1, p.2.filter (fun m => !event m))) else s.fifos
    let mine (e : Edit) : Bool := e.queue == d.queue && e.tag == d.tag
    let seqs := s.seqs.map (fun p => (p.1, { p.2 with
      current := p.2.current.map (fun e => if mine e then { e with parked := none } else e),
      waiting := p.2.waiting.filter (fun w => w != (d.queue, d.tag)) }))
    let rebuilds := s.rebuilds.map (fun p => (p.1, { p.2 with waiting := p.2.waiting.filter (fun w => w != (d.queue, d.tag)) }))
    let s := purgeDesc { s with fifos := fifos, seqs := seqs, rebuilds := rebuilds, moves := moves, tierJobs := jobs } d
    maybeComplete (updDesc s d.queue d.tag (fun d => { d with override := some status })) d.queue d.tag

/-- Mark the first micro-command of a descriptor that waits for an event as finished, with a status and detail. -/
def finishEvent (s : State) (q tag code : Nat) (status : Nat) (detail : Bytes) : State :=
  mapMicros s (qDie q) q tag (fun m =>
    if m.kind = .event code then { m with kind := .plain, started := true, ready := true, status := status, detail := detail }
    else m)

/-- Weighted round-robin among queues in ascending order (R92): the queue served last keeps its turn while it has turns
left; otherwise the next queue in number, circularly. -/
def wrrPick (w : Wrr) (weight : Nat → Nat) (qs : List Nat) : Option (Nat × Wrr) :=
  if qs.contains w.queue && decide (w.left > 0) then some (w.queue, { w with left := w.left - 1 })
  else
    match qs.find? (fun q => decide (w.queue < q)), qs with
    | some q, _ => some (q, ⟨q, weight q - 1⟩)
    | none, q :: _ => some (q, ⟨q, weight q - 1⟩)
    | none, [] => none

/-! ## Running an opcode -/

/-- The dispatched descriptor whose program has not started, if its image satisfies a test. -/
def opDesc (s : State) (q tag : Nat) (p : Bytes → Bool) : Option Desc :=
  match descOf s q tag with
  | some d => if d.seqr < 4 && !d.started && !d.waiting && d.override.isNone && p d.image then some d else none
  | none => none

/-- End a descriptor at once on a failed check: status, the sequencer as station, the reason in detail +0x09. -/
def rejectOp (s : State) (d : Desc) (status reason : Nat) : State :=
  completeDesc s d status (seqStation d) (detail6 [reason]) 0

/-- End a descriptor at once with a status decided by a station; DONE names its sequencer (R94). -/
def endOp (s : State) (d : Desc) (status station : Nat) (detail : Bytes) : State :=
  completeDesc s d status (if status = DONE then seqStation d else station) detail 0

/-- The lowest unfenced station of a list; the first when all are fenced. -/
def pickStation (s : State) (die : Nat) (sts : List Nat) : Nat :=
  (sts.find? (fun st => !stFenced s die st)).getD (sts.headD 0)

/-- The mover that serves a descriptor's operands and outputs: the lowest unfenced one (log entry 8). -/
def pickMover (s : State) (die : Nat) : Nat := pickStation s die [0x28, 0x29, 0x2A, 0x2B]

/-- Set the detail bytes of a descriptor's completion. -/
def setDetail (s : State) (q tag : Nat) (bs : Bytes) : State := updDesc s q tag (fun d => { d with detail := bs })

/-- The mover that serves the `k`-th stream of a program: the unfenced movers in turn (log entry 8). -/
def moverAt (s : State) (die k : Nat) : Nat :=
  let up := ([0x28, 0x29, 0x2A, 0x2B] : List Nat).filter (fun m => !stFenced s die m)
  up.getD (k % up.length) 0x28

/-- Create the streams a program needs, each of three slots of the largest tile, given its producer and consumers (R53, R58; log entry
8); none where one cannot be had. -/
def newStreams (s : State) (die : Nat) : List (Nat × List Nat) → Option (List Nat × State)
  | [] => some ([], s)
  | x :: r => (newStream s die x.1 3 tileLines x.2).bind (fun p => (newStreams p.2 die r).map (fun q => (p.1 :: q.1, q.2)))

/-- A free sequencer token of a die, the lowest (R59, R71). -/
def freeTok (s : State) (die : Nat) : Option Nat :=
  ((List.range 1024).map (· + 3072)).find? (fun t => !(s.descs.any (fun d => qDie d.queue == die && d.toks.contains t)))

/-- Allocate a sequencer token: its value is 0 (R60), and a lost word of it is usable again (R511). -/
def allocTok (s : State) (die tok : Nat) : State :=
  { setTok s die tok 0 with deadToks := s.deadToks.filter (fun k => !(k == tokKey die tok)) }

/-- Obtain the streams and the token of a program, and `lines` of pool space for what it keeps there itself (R247), which is held as a
stream that no tile passes; where something is not free the descriptor waits (R60, R71). -/
def withPool (s : State) (d : Desc) (lines : Nat) (ss : List (Nat × List Nat)) (k : State → List Nat → State) : State :=
  let die := qDie d.queue
  let own : Option (List Nat × State) :=
    if lines = 0 then some ([], s) else (newStream s die 0x08 1 lines [0x08]).map (fun p => ([p.1], p.2))
  match own.bind (fun p => (newStreams p.2 die ss).map (fun r => (p.1, r))), freeTok s die with
  | some (xs, ns, s), some t =>
    k (updDesc (allocTok s die t) d.queue d.tag (fun d =>
      { d with waiting := false, streams := d.streams ++ xs ++ ns, toks := d.toks ++ [t] })) ns
  | _, _ => updDesc s d.queue d.tag (fun d => { d with waiting := true })

/-- Obtain the streams and the token of a program (R60, R71). -/
def withStreams (s : State) (d : Desc) (ss : List (Nat × List Nat)) (k : State → List Nat → State) : State := withPool s d 0 ss k

/-- Obtain one input stream, from a mover to a station, and the token of a program. -/
def withStream (s : State) (d : Desc) (consumer : Nat) (k : State → Nat → State) : State :=
  withStreams s d [(pickMover s (qDie d.queue), [consumer])] (fun s ns => k s (ns.headD 0))

/-- The sequencer reads an extent when a program starts, and its stations compute from what it read (R131, R158, R224). -/
def takeIn (s : State) (d : Desc) (xs : List (Nat × Nat)) : State :=
  updDesc (xs.foldl (fun s e => touchRead s d.fn e.1 e.2) s) d.queue d.tag (fun d' => { d' with inputs := d'.inputs ++ xs.map (fun e =>
    let r := memRead s d.fn e.1 e.2
    ⟨e.1, r.1, r.2, none⟩) })

/-- The steps of a program whose stations compute on what movers read: the reads, one work for each station, and the results once every
work has retired (R70). -/
def workProgram (reads : List MSpec) (works : List Nat) : List PSpec :=
  reads.map .push ++ works.zipIdx.map (fun w => .push (.signalling w.1 (.work w.2))) ++ [.await works.length, .finish 0]

/-- A station computes without an input, and a mover writes what it gives once it has retired (R70, R627). -/
def outProgram (st mover out : Nat) (ws : List JobWrite) : List PSpec :=
  [.push (.signalling st .plain), .await 1, .push (.of mover (.writes (out + 1) ws))]

/-- Run a program of a station without an input. -/
def runOut (s : State) (d : Desc) (st : Nat) (ws : List JobWrite) : State :=
  let mv := pickMover s (qDie d.queue)
  withStreams s d [(st, [mv])] (fun s ns => runProgram s d.queue d.tag (outProgram st mv (ns.headD 0) ws))

/-! ## Tiles of a matrix in memory (R46, R119, R127, R178) -/

/-- The least power of two not below `n`, from `p` on; the fuel bounds the doublings. -/
def powUp (n : Nat) : Nat → Nat → Nat
  | 0, p => p
  | fuel + 1, p => if n ≤ p then p else powUp n fuel (2 * p)

/-- The row pitch of a tile in the pool: a power of two from 64 to 4,096 B (R119); longer rows are padded to a line. -/
def poolPitch (len : Nat) : Nat := if len ≤ 4096 then powUp len 6 64 else ceilDiv len 64 * 64

/-- Rows of a tile whose rows have `len` bytes of elements and `slen` of scales: the largest power of two, up to 128, that keeps the
payload within 64 KiB (R46; log entry 8). -/
def tileRows (len slen : Nat) : Nat :=
  (([128, 64, 32, 16, 8, 4, 2] : List Nat).find? (fun n => decide (n * poolPitch len + ceilDiv (n * slen) 64 * 64 ≤ 65536))).getD 1

/-- The tile of rows [r, r+n) and columns [c, c+w) of a matrix stored with `cols` columns. -/
def matTile (base pitch fmt blk cols tensor r n c w : Nat) : JobRead :=
  let slen := if isBlock fmt then ceilDiv w (blockSize blk) else 0
  ⟨⟨base + r * pitch + packedBytes fmt c, packedBytes fmt w, n, pitch,
      if isBlock fmt then packedBytes fmt cols + c / blockSize blk - packedBytes fmt c else 0, slen, 0⟩,
    ⟨fmt, blk, w, r / 128 * ceilDiv cols 512 + c / 512, tensor, false, false⟩⟩

/-- The tiles of rows [r, r+n) and columns [c, c+w) of a matrix, at most `wide` columns each (a multiple of 128). -/
def matTiles (base pitch fmt blk cols tensor r n c w wide : Nat) : List JobRead :=
  (List.range (ceilDiv w wide)).flatMap (fun j =>
    let w' := min wide (w - j * wide)
    let k := tileRows (packedBytes fmt w') (if isBlock fmt then ceilDiv w' (blockSize blk) else 0)
    (List.range (ceilDiv n k)).map (fun i =>
      matTile base pitch fmt blk cols tensor (r + i * k) (min k (n - i * k)) (c + j * wide) w'))

/-- A tile of bytes that are no elements. -/
def rawTile (va len : Nat) : JobRead := ⟨⟨va, len, 1, len, 0, 0, 0⟩, Head.raw⟩

/-- Tiles of at most 64 KiB of an extent of bytes; the fuel bounds them. -/
def rawTiles (va : Nat) : Nat → Nat → List JobRead
  | 0, _ => []
  | fuel + 1, len =>
    if len = 0 then [] else if len ≤ 65536 then [rawTile va len] else rawTile va 65536 :: rawTiles (va + 65536) fuel (len - 65536)

/-- The tiles of an extent of bytes. -/
def readsOf (va len : Nat) : List JobRead := rawTiles va (len / 65536 + 1) len

/-- An output of bytes that are no elements. -/
def rawWrite (va : Nat) (data : Bytes) (poison row : Nat) : JobWrite :=
  ⟨⟨va, data.length, 1, data.length, 0, 0, 0⟩, Head.raw, data, poison, row⟩

end Sys2Proof.Machine
end

