-- ==== Sys2Proof/Machine/Links.lean ====
section
/-! DEFINITION. The sending side of the fabric: ports, routing tables, protection, flows, notices and the error log
(R377-R407, R452-R462, R510, R518-R520, R547, R565-R568). -/

namespace Sys2Proof.Machine

open Sys2Proof

/-! ## Ports and identity -/

/-- Fabric die of a port (R377). -/
def portDie (p : Nat) : Nat := if p < 32 then 16 + p / 4 else 16 + (p - 32) / 2
/-- Local number of a port on its fabric die (R377). -/
def portLoc (p : Nat) : Nat := if p < 32 then p % 4 else 4 + (p - 32) % 2
/-- The port of a fabric die and local number. -/
def portOn (k i : Nat) : Nat := if i < 4 then 4 * (k - 16) + i else 32 + 2 * (k - 16) + (i - 4)
/-- A copper port (R377). -/
def isCopper (p : Nat) : Bool := decide (p < 32)
/-- State code of a port (R408). -/
def portState (s : State) (p : Nat) : Nat := getF s F.FAB_PORT_STATE_STATE (portDie p) (portLoc p)
/-- The cable-power pin of a copper port supplies its cable: not while the port is OFF or FENCED (R617). -/
def cableOn (s : State) (p : Nat) : Bool := isCopper p && portState s p != 0 && portState s p != 5
/-- A port's cable-power pin (16 plus the port) shows its level where it has changed from an earlier state (R617). -/
def showCable (old s : State) (p : Nat) : State :=
  if cableOn old p == cableOn s p then s else emit s (.pin (16 + p) (b2n (cableOn s p)))
/-- All cable-power pins show their levels where they have changed (R617). -/
def showCables (old s : State) : State := (List.range 32).foldl (fun t p => showCable old t p) s
/-- A reference source that a port gives is no longer valid (R496). -/
def dropRef (s : State) (p : Nat) : State :=
  let s := if getF s F.CLK_REF_SEL_PRIMARY f0 = p then setF s F.CLK_REF_STATE_PRI_OK f0 0 0 else s
  if getF s F.CLK_REF_SEL_SECONDARY f0 = p then setF s F.CLK_REF_STATE_SEC_OK f0 0 0 else s
/-- Set the state code of a port: one that leaves ACTIVE gives no valid reference (R408, R496). -/
def setPortState (s : State) (p v : Nat) : State :=
  let t := showCable s (setF s F.FAB_PORT_STATE_STATE (portDie p) (portLoc p) v) p
  if portState s p = 2 ∧ v ≠ 2 then dropRef t p else t
/-- A port carries traffic (R408). -/
def portActive (s : State) (p : Nat) : Bool := portState s p == 2
/-- The link layer of a port. -/
def getPort (s : State) (p : Nat) : PortInt := tgetD s.ports p PortInt.reset
/-- Replace the link layer of a port. -/
def setPort (s : State) (p : Nat) (x : PortInt) : State := { s with ports := tput s.ports p x PortInt.reset }

/-- FAB_SELF.VALID (R454). -/
def selfValid (s : State) : Bool := flag s F.FAB_SELF_VALID f0
/-- The identifier by which this module sends: its own, or 0xFFFF while it has none (R394, R454). -/
def myId (s : State) : Nat := if selfValid s then getF s F.FAB_SELF_MODULE f0 else 0xFFFF
/-- A module identifier names this module (R394). -/
def toSelf (s : State) (m : Nat) : Bool := m == 0xFFFF || m == myId s
/-- A module identifier names a multicast group (R394). -/
def isGroup (m : Nat) : Bool := decide (0xF000 ≤ m ∧ m ≤ 0xF3FF)
/-- A module identifier that is not reserved (R394). -/
def goodModule (m : Nat) : Bool := decide (m < 0x4000) || isGroup m || m == 0xFFFF

/-- Module, die and offset of a packed fabric address (R393). -/
def unpackFab (a : Nat) : Nat × Nat × Nat := (a / 2 ^ 48 % 2 ^ 16, a / 2 ^ 43 % 2 ^ 5, a % 2 ^ 43)

/-- The enabled receive window that an offset of a compute die selects (R395). -/
def windowAt (s : State) (die off : Nat) : Option Window :=
  if off ≥ 2 ^ 43 ∨ !isComp die then none
  else
    let w := tgetD s.windows (die * 256 + off / 2 ^ 35) Window.reset
    if w.enable then some w else none

/-! ## Error log and notices -/

/-- Append a record to the error log, and tell of it (R510, R547, R557). -/
def logRec (s : State) (cls die unit cause addr detail : Nat) : State :=
  let r : LogRec := ⟨now s, cls, die, unit, cause, 0, addr, detail⟩
  let l := s.elog ++ [r]
  addW (emit { s with elog := l.drop (l.length - 1024) } (.logged r)) F.MGT_ELOG_TAIL_TAIL f0 0 1

/-- A record of a module-class error (R510): written for the managing die, unit 0xFF and cause 0 (log entry 97). -/
def logModule (s : State) (detail : Nat) : State := logRec s 4 (die04 s) 0xFF 0 0 detail

/-- A record of an access to a tier that ended late or failed (R339, R510): its stack or M die, cause 4. -/
def logTier (s : State) (a : Nat) : State :=
  if inHbm a then logRec s 1 (a / stackBytes / 2) (0x40 + a / stackBytes) 4 a 0
  else if a < flashBase then logRec s 1 (24 + (a - farBase) / farRange s) 0xFF 4 a 0
  else logRec s 1 (24 + (a - flashBase) / region / 2 ^ 29) 0xFF 4 0 0

/-- The end of a copy by the tiers is recorded where its access failed (R510). -/
def noteCopy (s : State) (ok : Bool) (a : Nat) : State := if ok then s else logTier s a

/-- A record of the log as its 32 bytes (R547). -/
def logBytes (r : LogRec) : Bytes :=
  toLe 8 r.tick ++ toLe 1 r.cls ++ toLe 1 r.die ++ toLe 1 r.unit ++ toLe 1 r.cause ++ toLe 4 r.repeats ++ toLe 8 r.addr ++
    toLe 8 r.detail

/-- The 32 bytes of a notice (R518). -/
def noticeBytes (n : Notice) : Bytes :=
  toLe 1 n.kind ++ toLe 1 n.hops ++ toLe 2 n.origin ++ toLe 2 n.subject ++ toLe 2 n.tag ++ toLe 8 n.tick ++ toLe 4 n.id ++
    toLe 4 n.arg ++ toLe 8 n.detail

/-- The NOTICE transaction that carries a notice (R383). -/
def noticeTx (s : State) (dst : Nat) (n : Notice) : Tx :=
  { type := 7, flags := 0, srcModule := myId s, dstModule := dst, dstDie := 0, srcDie := die04 s, offset := 0, seq := 0,
    len := 32, tag := n.tag, cls := 0, body := noticeBytes n }

/-- Remember a flooded notice (R520). -/
def cacheNotice (s : State) (origin id : Nat) : State :=
  let l := s.noticeCache ++ [(origin, id)]
  { s with noticeCache := l.drop (l.length - 4096) }

/-- A new notice of this module (R518). -/
def newNotice (s : State) (kind subject tag arg detail : Nat) : Notice × State :=
  (⟨kind, 64, myId s, subject, tag, now s, s.noticeId, arg, detail⟩, { s with noticeId := (s.noticeId + 1) % 2 ^ 32 })

/-- Raise a local notice: it goes to the management controller (R519). -/
def localNotice (s : State) (kind arg detail : Nat) : State :=
  let (n, s) := newNotice s kind (myId s) 0 arg detail
  emit s (.noticed n)

/-! ## Routing (R399-R402) -/

/-- The active bank of a fabric die's tables (R402). -/
def activeBank (s : State) (k : Nat) : Nat := getF s F.FAB_ROUTE_CTRL_ACTIVE k
/-- Key of an entry of a table with `n` entries, in a bank of a fabric die. -/
def bankKey (k b n i : Nat) : Nat := ((k - 16) * 2 + b) * n + i
/-- Entry of the module table, as FAB_MOD_COORD lays it out. -/
def modEntry (s : State) (k b m : Nat) : Nat := tgetD s.modTab (bankKey k b 16384 m) 0
/-- Entry of the multicast table: dies [31:0], ports [79:32], count [94:80], valid [95]. -/
def mcEntry (s : State) (k b g : Nat) : Nat := tgetD s.mcTab (bankKey k b 1024 g) 0

/-- The direction along one dimension of `n` modules: the shorter way with wrap, + on a tie; else by sign (R400). -/
def axisDir (wrap : Bool) (n a b plus : Nat) : Nat :=
  if wrap then
    let up := (b + n - a % n) % n
    if up ≤ n - up then plus else plus + 1
  else if a < b then plus else plus + 1

/-- The direction of the default rules toward a module (R400); 7 where none applies. -/
def dirOf (s : State) (k m : Nat) : Nat :=
  let e := modEntry s k (activeBank s k) m
  let w := getF s F.FAB_DIM_WRAP k
  if !bit e 31 then 7
  else if bits e 0 6 ≠ getF s F.FAB_SELF_COORD_POD f0 then 6
  else if bits e 6 5 ≠ getF s F.FAB_SELF_COORD_X f0 then
    axisDir (bit w 0) (getF s F.FAB_DIM_X k + 1) (getF s F.FAB_SELF_COORD_X f0) (bits e 6 5) 0
  else if bits e 11 5 ≠ getF s F.FAB_SELF_COORD_Y f0 then
    axisDir (bit w 1) (getF s F.FAB_DIM_Y k + 1) (getF s F.FAB_SELF_COORD_Y f0) (bits e 11 5) 2
  else if bits e 16 5 ≠ getF s F.FAB_SELF_COORD_Z f0 then
    axisDir (bit w 2) (getF s F.FAB_DIM_Z k + 1) (getF s F.FAB_SELF_COORD_Z f0) (bits e 16 5) 4
  else 7

/-- The override entry that a transaction matches: the lowest-indexed (R401). -/
def overrideOf (s : State) (k m cls : Nat) : Option Nat :=
  let lo := bankKey k (activeBank s k) 4096 0
  ((s.ovrTab.filter (fun p => decide (lo ≤ p.1 ∧ p.1 < lo + 4096))).find? (fun p =>
    bit p.2 95 && bit (bits p.2 80 5) cls && (m &&& bits p.2 16 16) == bits p.2 0 16)).map (·.2)

/-- The ports that a transaction's rule names (R400, R401). -/
def rulePorts (s : State) (k m cls : Nat) : List Nat :=
  match overrideOf s k m cls with
  | some v => (List.range 48).filter (fun p => bit (bits v 32 48) p)
  | none =>
    let d := dirOf s k m
    if d = 7 then [] else (List.range 48).filter (fun p => getF s F.FAB_PORT_CFG_DIR (portDie p) (portLoc p) == d)

/-- A port is being drained of a class (R458). -/
def draining (s : State) (p cls : Nat) : Bool :=
  (cls == 1 || cls == 2) && flag s F.FAB_DRAIN_ACTIVE (portDie p) &&
    bit (getF s F.FAB_DRAIN_PORTS (portDie p)) (portLoc p)

/-- Flits of a transaction: header, extension and tag of a protected one, and data (R379, R382, R566). -/
def flitsOf (t : Tx) : Nat := ceilDiv (24 + t.body.length) 242

/-- Flits in a port's replay buffer. -/
def replayFlits (s : State) (p : Nat) : Nat := ((getPort s p).replay.map (·.flits)).foldl (· + ·) 0

/-- Torus hops between two compute dies (R22). -/
def torusHops (a b : Nat) : Nat :=
  let dx := (a % 4 + 4 - b % 4) % 4
  let dy := (a / 4 + 4 - b / 4) % 4
  min dx (4 - dx) + min dy (4 - dy)

/-- Torus hops from a compute die to a fabric die (R386). -/
def fabHops (c k : Nat) : Nat := min (torusHops c (2 * (k - 16))) (torusHops c (2 * (k - 16) + 1))

/-- Among ports, those of the fabric die that serves the compute die, else those of the fabric die with the fewest hops
from it, the lowest on a tie (R400). -/
def nearPorts (c : Nat) (ps : List Nat) : List Nat :=
  let own := ps.filter (fun p => portDie p == 16 + c / 2)
  if !own.isEmpty then own
  else
    match ((List.range 8).map (· + 16)).foldl (fun (acc : Option Nat) k =>
        if ps.any (fun p => portDie p == k) then
          match acc with
          | none => some k
          | some a => if fabHops c k < fabHops c a then some k else some a
        else acc) none with
    | some k => ps.filter (fun p => portDie p == k)
    | none => []

/-- Payload rate of a port in units of 50 GB/s (R378). -/
def portRate (s : State) (p : Nat) : Nat :=
  let h := flag s F.FAB_PORT_STATE_HALF (portDie p) (portLoc p)
  let n := flag s F.FAB_PORT_STATE_NARROW (portDie p) (portLoc p)
  if h && n then 1 else if h || n then 2 else 4

/-- Key of a flow: sending module and die, destination module and die, class (R397). -/
def flowKey (sm sd dm dd cls : Nat) : Nat := (((sm * 32 + sd) * 65536 + dm) * 32 + dd) * 8 + cls
/-- Key of a transaction's flow. -/
def txKey (t : Tx) : Nat := flowKey t.srcModule t.srcDie t.dstModule t.dstDie t.cls

/-! ## Protection (R565-R568) -/

/-- The 24 bytes of a header (R382). -/
def headerBytes (t : Tx) : Bytes :=
  toLe 1 t.type ++ toLe 1 t.flags ++ toLe 2 t.srcModule ++ toLe 2 t.dstModule ++ toLe 1 t.dstDie ++ toLe 1 t.srcDie ++
    toLe 8 t.offset ++ toLe 4 t.seq ++ toLe 2 t.len ++ toLe 2 t.tag

/-- A type and class that protection covers (R566). -/
def protectable (t : Tx) : Bool :=
  (t.type == 1 || t.type == 4 || t.type == 5 || t.type == 6) && (t.cls == 1 || t.cls == 2 || t.cls == 3)

/-- Link slots that cover a tag and class (R565, R566). -/
def coverSlots (s : State) (tag cls : Nat) : Tab KeySlot :=
  s.keys.filter (fun p => p.2.kind == 0 && p.2.tag == tag && bit p.2.scope (cls - 1))

/-- The slot that a sender uses for a tag and class: the one of the selected key_sel, else the one that covers them
(R568). -/
def sendSlot (s : State) (tag cls : Nat) : Option (Nat × KeySlot) :=
  let sel := tgetD s.keySend (tag * 8 + cls) 0
  match (coverSlots s tag cls).find? (fun p => p.2.sel == sel) with
  | some p => some p
  | none => (coverSlots s tag cls).head?

/-- The 96-bit nonce, first byte most significant (R566). -/
def nonceOf (srcModule k sel ctr : Nat) : List Nat :=
  toBe 12 (srcModule * 2 ^ 80 + (k - 16) * 2 ^ 77 + sel * 2 ^ 76 + ctr)

/-- Protect a transaction that leaves by fabric die `k`; none where the slot's counter is spent (R566). -/
def protectTx (s : State) (k : Nat) (t : Tx) : Option (Tx × State) :=
  if t.srcModule ≠ myId s ∨ !protectable t ∨ bit t.flags 3 then some (t, s)
  else
    match sendSlot s t.tag t.cls with
    | none => some (t, s)
    | some (n, x) =>
      let ctr := tgetD s.keyCtr (n * 8 + (k - 16)) 0
      if ctr ≥ 2 ^ 56 - 1 then none
      else
        let ext := toLe 8 (x.sel + ctr * 256)
        let t' := { t with flags := t.flags + 8 }
        let ct := gcmSeal (natsOf x.key) (nonceOf t.srcModule k x.sel ctr) (natsOf (headerBytes t' ++ ext)) (natsOf t.body)
        let s := { s with keyCtr := tins s.keyCtr (n * 8 + (k - 16)) (ctr + 1) }
        some ({ t' with body := ext ++ bytesOf ct }, addD s F.SEC_CNT_PROT_PROT f0 0 1 1024)

/-- Verify and decrypt a transaction that enters by a port; none where it is refused (R567). The nonce's fabric die is
the one that encrypted it; the eight are tried. -/
def unprotectTx (s : State) (t : Tx) : Option Tx :=
  if !bit t.flags 3 then
    if protectable t && !(coverSlots s t.tag t.cls).isEmpty then none else some t
  else
    let ext := t.body.take 8
    let sel := (leNat ext) % 256
    match (coverSlots s t.tag t.cls).find? (fun p => p.2.sel == sel) with
    | none => none
    | some (_, x) =>
      (((List.range 8).map (· + 16)).findSome? (fun k =>
        gcmOpen (natsOf x.key) (nonceOf t.srcModule k sel (leNat ext / 256)) (natsOf (headerBytes t ++ ext))
          (natsOf (t.body.drop 8)))).map (fun pt => { t with flags := t.flags - 8, body := bytesOf pt })

/-! ## Virtual lanes and credits (R388, R389, R392) -/

/-- Direction of a port (R399). -/
def portDir (s : State) (p : Nat) : Nat := getF s F.FAB_PORT_CFG_DIR (portDie p) (portLoc p)

/-- The link of a port is a wrap link of its dimension: it leaves the module at the edge of a dimension with wrap (R392, R400). -/
def onWrapLink (s : State) (p : Nat) : Bool :=
  let k := portDie p
  let d := portDir s p
  let edge (c n : Nat) : Bool := if d % 2 = 0 then decide (c ≥ n) else c == 0
  bit (getF s F.FAB_DIM_WRAP k) (d / 2) &&
    (match d / 2 with
      | 0 => edge (getF s F.FAB_SELF_COORD_X f0) (getF s F.FAB_DIM_X k)
      | 1 => edge (getF s F.FAB_SELF_COORD_Y f0) (getF s F.FAB_DIM_Y k)
      | 2 => edge (getF s F.FAB_SELF_COORD_Z f0) (getF s F.FAB_DIM_Z k)
      | _ => false)

/-- The virtual lane on which a transaction leaves by a port: 1 from the wrap link of a dimension on until it turns (R392). -/
def laneOut (s : State) (port : Option Nat) (t : Tx) (p : Nat) : Nat :=
  let on := match port with
    | some q => decide (portDir s p < 6) && portDir s q / 2 == portDir s p / 2 && t.lane == 1
    | none => false
  b2n (onWrapLink s p || on)

/-- Flits that a transaction takes as this module sends it: protection adds an extension and a tag (R379, R566). -/
def wireFlits (s : State) (t : Tx) : Nat :=
  if t.srcModule = myId s ∧ protectable t ∧ !bit t.flags 3 ∧ (sendSlot s t.tag t.cls).isSome then ceilDiv (48 + t.body.length) 242
  else flitsOf t

/-- Floor of a class at the other end of a port, which is taken to be set as the port's own fabric die is (log entry 101). -/
def floorOf (s : State) (p c : Nat) : Nat := getF s F.FAB_CLS_FLOOR_FLOOR (portDie p) c

/-- Flits of the shared pool: what the floors leave of the 8,192 of a receive buffer (R388). -/
def sharedPool (s : State) (p : Nat) : Nat := 8192 - ((List.range 5).map (floorOf s p)).foldl (· + ·) 0

/-- Credits in use on a virtual lane of a class (key 2 × class + lane). -/
def usedOn (s : State) (p key : Nat) : Nat := tgetD (getPort s p).used key 0

/-- Shared credits that a class has in use: what its lanes use beyond their halves of its floor (R388, R389). -/
def sharedBy (s : State) (p c : Nat) : Nat :=
  (usedOn s p (2 * c) - floorOf s p c / 2) + (usedOn s p (2 * c + 1) - floorOf s p c / 2)

/-- Shared credits that `n` more flits on a lane of a class need. -/
def sharedNeed (s : State) (p c lane n : Nat) : Nat :=
  (usedOn s p (2 * c + lane) + n - floorOf s p c / 2) - (usedOn s p (2 * c + lane) - floorOf s p c / 2)

/-- A class may take the shared credits that `n` more flits need: it stays within 75 % of the pool (R389). -/
def classRoom (s : State) (p c lane n : Nat) : Bool :=
  sharedNeed s p c lane n == 0 || decide (4 * (sharedBy s p c + sharedNeed s p c lane n) ≤ 3 * sharedPool s p)

/-- The shared pool has the credits that `n` more flits need (R389). -/
def poolRoom (s : State) (p c lane n : Nat) : Bool :=
  sharedNeed s p c lane n == 0 ||
    decide (((List.range 5).map (sharedBy s p)).foldl (· + ·) 0 + sharedNeed s p c lane n ≤ sharedPool s p)

/-- A port could send a transaction but for its credits: ACTIVE, not drained of its class, with room in its replay buffer (R381,
R408, R458). -/
def portOpen (s : State) (t : Tx) (p : Nat) : Bool :=
  portActive s p && !draining s p t.cls && decide (replayFlits s p + wireFlits s t ≤ 6144)

/-- A port may send a transaction that came by a port: it is open and has its credits (R388). -/
def portTakes (s : State) (port : Option Nat) (t : Tx) (p : Nat) : Bool :=
  portOpen s t p && classRoom s p t.cls (laneOut s port t p) (wireFlits s t) && poolRoom s p t.cls (laneOut s port t p) (wireFlits s t)

/-! ## Micro-commands that wait for transactions -/

/-- Change one micro-command of a descriptor. -/
def updMicro (s : State) (q tag idx : Nat) (f : Micro → Micro) : State :=
  mapMicros s (qDie q) q tag (fun m => if m.idx = idx then f m else m)

/-- One transaction of a micro-command has been acknowledged (R397). -/
def ackMicro (s : State) (q tag idx : Nat) : State :=
  updMicro s q tag idx (fun m =>
    let k := match m.kind with
      | .copy st far todo stores left => MKind.copy st far todo stores (left - 1)
      | .acks left => MKind.acks (left - 1)
      | k => k
    { m with kind := k, ready := m.ready || kindReady k })

/-- A micro-command ends with a status: what it has not had acknowledged is given up (R396, R398). -/
def failMicro (s : State) (q tag idx status : Nat) : State :=
  let mine (x : Sent) : Bool := x.queue == q && x.tag == tag && x.idx == idx
  let gone := (s.txFlows.flatMap (fun p => p.2.unacked.filter mine)).map (·.tx)
  let flows := s.txFlows.map (fun p =>
    (p.1, { p.2 with unacked := p.2.unacked.filter (fun x => !mine x), waiting := p.2.waiting.filter (fun x => !mine x) }))
  let s := { s with
    txFlows := flows, waits := s.waits.filter (fun w => !gone.contains w.tx),
    mcSends := s.mcSends.filter (fun m => !(m.queue == q && m.tag == tag && m.idx == idx)) }
  updMicro s q tag idx (fun m =>
    { m with kind := .plain, started := true, ready := true, status := if m.status = DONE then status else m.status })

/-- The micro-command that an unacknowledged transaction serves ends with a status. -/
def failTx (s : State) (t : Tx) (status : Nat) : State :=
  match tget? s.txFlows (txKey t) with
  | some f =>
    match f.unacked.find? (fun x => x.tx.seq == t.seq) with
    | some x => failMicro s x.queue x.tag x.idx status
    | none => s
  | none => s

/-! ## Sending -/

/-- Send a transaction by a port on a virtual lane: it is protected where R566 says so, takes its credits and enters the replay
buffer (R381, R388). -/
def putOnPort (s : State) (p lane : Nat) (t : Tx) : State :=
  match protectTx s (portDie p) { t with lane := lane } with
  | none => failTx s t FAULT_PROTECTION
  | some (t', s) =>
    let x := getPort s p
    let n := flitsOf t'
    let key := 2 * t.cls + lane
    let s := setPort s p { x with
      next := (x.next + n) % 16384, replay := x.replay ++ [⟨x.next, n, t', 0⟩], used := tput x.used key (tgetD x.used key 0 + n) 0 }
    emit s (.sent (some p) t')

/-- The ports that a waiting transaction may take: its branch, or those that its rule names (R400, R401, R403). -/
def waitPorts (s : State) (w : Waiting) : List Nat :=
  match w.only with
  | some p => [p]
  | none => (rulePorts s w.fdie w.tx.dstModule w.tx.cls).filter (fun p => some p != w.port)

/-- An older waiting transaction goes first: one of the same flow and branch, or, where `p`'s shared credits are needed, one that
the empty pool of `p` keeps waiting (R389). -/
def mustFollow (s : State) (w : Waiting) (p : Nat) (older : List Waiting) : Bool :=
  older.any (fun o => txKey o.tx == txKey w.tx && o.only == w.only) ||
    (sharedNeed s p w.tx.cls (laneOut s w.port w.tx p) (wireFlits s w.tx) != 0 &&
      older.any (fun o => (waitPorts s o).contains p && portOpen s o.tx p &&
        classRoom s p o.tx.cls (laneOut s o.port o.tx p) (wireFlits s o.tx) &&
        !poolRoom s p o.tx.cls (laneOut s o.port o.tx p) (wireFlits s o.tx)))

/-- The port by which a waiting transaction can leave now, with the round-robin of its flow (R400). -/
def leavePort (s : State) (older : List Waiting) (w : Waiting) : Option (Nat × Wrr) :=
  let near := nearPorts w.comp ((waitPorts s w).filter (fun p => portTakes s w.port w.tx p && !mustFollow s w p older))
  wrrPick (tgetD s.routeWrr (txKey w.tx) ⟨0, 0⟩) (portRate s) near

/-- The waiting transactions that can leave, in order of arrival, with their ports. -/
def leaving (s : State) : List Waiting → List Waiting → List (Waiting × Nat × Wrr)
  | _, [] => []
  | older, w :: rest =>
    match leavePort s older w with
    | some (p, x) => (w, p, x) :: leaving s (older ++ [w]) rest
    | none => leaving s (older ++ [w]) rest

/-- Weight of a class on a port; 0 is read as 1 (R390). -/
def classWeight (s : State) (p c : Nat) : Nat :=
  let w := getF s (if flag s F.FAB_PORT_CFG_INTERPOD (portDie p) (portLoc p) then F.FAB_CLS_WEIGHT_POD else F.FAB_CLS_WEIGHT_ORD) (portDie p)
  max 1 (bits w (4 * (c - 1)) 4)

/-- The class that a port serves next among those with a flit ready and a credit, and what it keeps of its choice: Crimson first,
unless it has had one of the last 16 slots while another class waited; the others by weighted round-robin (R390). A transaction
takes its flits' slots in a row (log entry 101). -/
def pickClass (s : State) (p : Nat) (cs : List (Waiting × Nat × Wrr)) : Nat × Nat × Wrr :=
  let x := getPort s p
  let crimson := cs.any (fun c => c.1.tx.cls == 0)
  let rest := ([1, 2, 3, 4] : List Nat).filter (fun k => cs.any (fun c => c.1.tx.cls == k))
  if crimson && (rest.isEmpty || decide (x.since ≥ 16)) then (0, if rest.isEmpty then x.since else 0, x.turn)
  else
    match wrrPick x.turn (classWeight s p) rest with
    | some (k, turn) =>
      let n := match cs.find? (fun c => c.1.tx.cls == k) with
        | some c => wireFlits s c.1.tx
        | none => 1
      (k, min 16 (x.since + n), { turn with left := turn.left - (n - 1) })
    | none => ((cs.head?.map (fun c => c.1.tx.cls)).getD 0, x.since, x.turn)

/-- Waiting transactions leave while one can (R390, R398); `fuel` bounds them. -/
def sendWaits : Nat → State → State
  | 0, s => s
  | fuel + 1, s =>
    match leaving s [] s.waits with
    | [] => s
    | c :: cs =>
      let here := (c :: cs).filter (fun x => x.2.1 == c.2.1)
      let (k, since, turn) := pickClass s c.2.1 here
      match here.find? (fun x => x.1.tx.cls == k) with
      | none => s
      | some (w, p, x) =>
        let s := setPort s p { getPort s p with since := since, turn := turn }
        let s := { s with waits := delFirst (· == w) s.waits }
        let s := if w.only.isSome then s else { s with routeWrr := tput s.routeWrr (txKey w.tx) x ⟨0, 0⟩ }
        sendWaits fuel (putOnPort s p (laneOut s w.port w.tx p) w.tx)

/-- Try every waiting transaction again. -/
def retryWaits (s : State) : State := sendWaits s.waits.length s

/-- A transaction has only ports that are being drained of its class (R458). -/
def onlyDraining (s : State) (w : Waiting) : Bool :=
  let ports := (waitPorts s w).filter (portActive s)
  ports.any (fun p => draining s p w.tx.cls) && !ports.any (fun p => !draining s p w.tx.cls)

/-- A transaction comes to a fabric die to leave the module: it waits its turn, and without a candidate, a credit or room it goes on
waiting (R388, R398, R400, R458). -/
def queueTx (s : State) (w : Waiting) : State :=
  let s := retryWaits { s with waits := s.waits ++ [w] }
  if s.waits.contains w && w.only.isNone && onlyDraining s w then addF s F.FAB_DRAIN_HELD_HELD w.fdie 0 1 else s

/-- Route a transaction for another module from a fabric die or compute die (R398, R400). -/
def routeTx (s : State) (k c : Nat) (port : Option Nat) (t : Tx) : State := queueTx s ⟨t, k, port, c, none⟩

/-- Send a transaction by one port of a fabric die (R403, R520). -/
def branchTx (s : State) (port : Option Nat) (p : Nat) (t : Tx) : State :=
  queueTx s ⟨t, portDie p, port, 2 * (portDie p - 16), some p⟩

/-- Transmit a transaction of this module: on the in-package links to itself, else by a port (R386, R400). -/
def transmit (s : State) (t : Tx) : State :=
  if toSelf s t.dstModule then emit s (.sent none t)
  else
    let c := if isComp t.srcDie then t.srcDie else if isFab t.srcDie then 2 * (t.srcDie - 16) else 2 * (t.srcDie - 24)
    routeTx s (16 + c / 2) c none t

/-- The status with which a send to a module and die ends at once, if it cannot begin: a reserved identifier, no own
identity, a fenced die (R65, R394, R398, R454). -/
def sendFail (s : State) (m dd : Nat) : Option Nat :=
  if !goodModule m then some CONFLICT
  else if isGroup m then (if selfValid s then none else some LINK_LOST)
  else if toSelf s m then (if dieFenced s dd then some FENCED else none)
  else if !selfValid s then some LINK_LOST
  else if s.remoteFenced.contains (m * 32 + dd) then some FENCED
  else none

/-- The module identifier that a sender writes in dst_module. -/
def destId (s : State) (m : Nat) : Nat := if toSelf s m then myId s else m

/-- Number a transaction in its flow and send it, or hold it while 4,096 are unacknowledged (R397). -/
def sendFlow (s : State) (q tag idx : Nat) (t : Tx) : State :=
  let k := txKey t
  let f := tgetD s.txFlows k ⟨0, [], [], false⟩
  let t := { t with seq := f.next % 2 ^ 32, flags := t.flags / 2 * 2 + b2n ((tget? s.txFlows k).isNone) }
  let x : Sent := ⟨t, q, tag, idx⟩
  if f.unacked.length < 4096 ∧ f.waiting.isEmpty then
    transmit { s with txFlows := tins s.txFlows k { f with next := f.next + 1, unacked := f.unacked ++ [x] } } t
  else { s with txFlows := tins s.txFlows k { f with next := f.next + 1, waiting := f.waiting ++ [x] } }

/-- Pieces of at most 2,048 bytes with their offsets (R383); `fuel` bounds them. -/
def pieces : Nat → Nat → Bytes → List (Nat × Bytes)
  | 0, _, _ => []
  | fuel + 1, o, bs => if bs.isEmpty then [] else (o, bs.take 2048) :: pieces fuel (o + 2048) (bs.drop 2048)

/-- The pieces of a write. -/
def writePieces (off : Nat) (bs : Bytes) : List (Nat × Bytes) := pieces (bs.length / 2048 + 1) off bs

/-- A WRITE of this module (R382, R383). -/
def writeTx (s : State) (die fn m dd cls off : Nat) (bs : Bytes) : Tx :=
  { type := 1, flags := 0, srcModule := myId s, dstModule := destId s m, dstDie := dd, srcDie := die, offset := off, seq := 0,
    len := bs.length, tag := getF s F.FAB_FN_TAG_TAG f0 fn, cls := cls, body := bs }

/-- A SIGNAL of this module (R383, R395). -/
def signalTx (s : State) (die fn m dd cls off inc : Nat) : Tx :=
  { type := 4, flags := 0, srcModule := myId s, dstModule := destId s m, dstDie := dd, srcDie := die, offset := off, seq := 0,
    len := inc, tag := getF s F.FAB_FN_TAG_TAG f0 fn, cls := cls, body := [] }

/-- A transfer's identifier: sending module and die, group (log entry 30). -/
def xferId (sm sd g : Nat) : Nat := (sm * 32 + sd) * 1024 + g % 1024

/-- The PRUNE of a transfer (R383, R405). -/
def pruneTx (s : State) (k m dd x cls : Nat) : Tx :=
  { type := 8, flags := 0, srcModule := myId s, dstModule := m, dstDie := dd, srcDie := k, offset := x, seq := 0, len := 0,
    tag := 0, cls := cls, body := [] }

/-- The transfer that a multicast transaction belongs to. -/
def txXfer (t : Tx) : Nat := if t.type = 8 then t.offset else xferId t.srcModule t.srcDie (t.dstModule - 0xF000)

/-- Prune a branch at fabric die `k`: what waits for it is dropped, PRUNE goes to the dies beyond it, if its port still works, and to
the sender (R405). -/
def pruneBranch (s : State) (k p x g cls : Nat) : State :=
  let s := { s with
    pruned := s.pruned ++ [(x, p)],
    waits := s.waits.filter (fun w => !(w.only == some p && isGroup w.tx.dstModule && txXfer w.tx == x)) }
  let s := if portActive s p then branchTx s none p (pruneTx s k (0xF000 + g) 0 x cls) else s
  transmit s (pruneTx s k (x / 1024 / 32) (x / 1024 % 32) x cls)

/-- Replicate one write of a multicast transfer (R403): the ports of the group's entry at fabric die `k`, except the one it
came by and the pruned ones; a port that neither carries traffic nor retrains prunes its branch at once (R405, R410). -/
def injectMc (s : State) (k : Nat) (from_ : Option Nat) (x : Nat) (t : Tx) : State :=
  let g := t.dstModule - 0xF000
  let e := mcEntry s k (activeBank s k) g
  if !bit e 95 then s
  else
    ((List.range 48).filter (fun p => bit (bits e 32 48) p && some p != from_ && !s.pruned.contains (x, p))).foldl
      (fun s p => if portActive s p ∨ portState s p = 3 then branchTx s from_ p t else pruneBranch s k p x g t.cls) s

/-- The mark of a WRITE that is a part of a tile (R51). -/
def unitOf (tile : Bool) (first n : Nat) : Option (Nat × Nat) := if tile && 1 < n then some (first, n) else none

/-- Begin or continue a multicast transfer with pieces, their offsets and poison causes (R403, R404): its writes are
numbered, the last is marked once it is known (`fin`), and the data is retained. `tile` says that the pieces are one tile (R51). -/
def sendMc (s : State) (q tag idx fn g cls : Nat) (ps : List (Nat × Bytes × Nat)) (late : Nat) (fin : Bool := true)
    (tile : Bool := false) : State :=
  let die := qDie q
  let k := 16 + die / 2
  let x := xferId (myId s) die (g - 0xF000)
  let mine (m : McSend) : Bool := m.queue == q && m.tag == tag && m.idx == idx && m.xfer == x
  let base := ((s.mcSends.find? mine).map (·.writes.length)).getD 0
  let ts := ps.zipIdx.map (fun p =>
    { writeTx s die fn 0xFFFF 0 cls p.1.1 p.1.2.1 with
      dstModule := g, seq := base + p.2, flags := 2 + b2n (base + p.2 == 0) + 4 * b2n (fin && p.2 + 1 == ps.length),
      poison := p.1.2.2, unit := unitOf tile base ps.length })
  let n := bits (mcEntry s k (activeBank s k) (g - 0xF000)) 80 15
  let s :=
    if s.mcSends.any mine then
      { s with mcSends := updFirst mine (fun m => { m with writes := m.writes ++ ts }) s.mcSends }
    else
      { s with mcSends := s.mcSends ++ [⟨die, x, cls, q, tag, idx, ts, n, [], late⟩],
               pruned := s.pruned.filter (fun p => p.1 != x) }
  ts.foldl (fun s t => injectMc (emit s (.sent none t)) k none x t) s

/-- Send pieces to a module and die or to a multicast group for a micro-command (R383, R397, R404). `tile` says that they are one tile
(R51). -/
def sendPieces (s : State) (q tag idx fn m dd cls : Nat) (ps : List (Nat × Bytes × Nat)) (late : Nat) (tile : Bool := false) : State :=
  if isGroup m then sendMc s q tag idx fn m cls ps late true tile
  else
    let first := (tgetD s.txFlows (txKey (writeTx s (qDie q) fn m dd cls 0 [])) ⟨0, [], [], false⟩).next % 2 ^ 32
    ps.foldl (fun s p => sendFlow s q tag idx
      { writeTx s (qDie q) fn m dd cls p.1 p.2.1 with poison := p.2.2, unit := unitOf tile first ps.length }) s

/-- What a micro-command waits for when it sends such pieces: their transactions, or one transfer. -/
def sendCount (m : Nat) (ps : List (Nat × Bytes × Nat)) : Nat := if isGroup m then b2n (!ps.isEmpty) else ps.length

/-! ## Flooded notices (R518-R520) -/

/-- Send a notice on every ACTIVE port but one (R519, R520). -/
def floodOut (s : State) (except : Option Nat) (n : Notice) : State :=
  ((List.range 48).filter (fun p => portActive s p && some p != except)).foldl
    (fun s p => branchTx s except p (noticeTx s 0xFFFF n)) s

/-- Raise a flooded notice (R519, R520). -/
def floodNotice (s : State) (kind subject tag arg detail : Nat) : State :=
  let (n, s) := newNotice s kind subject tag arg detail
  floodOut (emit (cacheNotice s n.origin n.id) (.noticed n)) none n

end Sys2Proof.Machine
end

