-- ==== Sys2Proof/Machine/Tensor.lean ====
section
/-! DEFINITION. Tensors in job memory: profiles, rounding words, converted outputs, samples for the check station
(R170, R178-R181, R195-R202, R570). -/

namespace Sys2Proof.Machine

open Sys2Proof

/-- Key of a profile entry and of a random stream. -/
def profKey (die n : Nat) : Nat := die * 1024 + n
/-- Key of a random stream. -/
def rsKey (die n : Nat) : Nat := die * 256 + n

/-- A random stream (R179). -/
def getRS (s : State) (die n : Nat) : RStream := tgetD s.rstreams (rsKey die n) RStream.reset
/-- Set a random stream of a die. -/
def setRS (s : State) (die n : Nat) (r : RStream) : State :=
  { s with rstreams := tput s.rstreams (rsKey die n) r RStream.reset }
/-- A profile entry. -/
def getProf (s : State) (die n : Nat) : Profile := tgetD s.profiles (profKey die n) Profile.default
/-- Replace a profile entry. -/
def setProf (s : State) (die n : Nat) (p : Profile) : State :=
  { s with profiles := tput s.profiles (profKey die n) p Profile.default }

/-- The entry a tensor uses is bound to it (R180). -/
def boundTo (p : Profile) (tensor : Nat) : Bool := p.bound && p.tag == tensor / 1024 % 2 ^ 22

/-- The profile a tensor uses for a function (R180, R570). -/
def profileFor (s : State) (die fn tensor : Nat) : Profile :=
  let p := getProf s die (tensor % 1024)
  if boundTo p tensor && mayUse (getF s F.SEC_PF_OWN_OWNER die (tensor % 1024 / 64)) fn then p else Profile.default

/-- sat bit of a profile (R171). -/
def profSat (p : Profile) : Bool := bit p.ctl 0
/-- sr_fwd bit of a profile (R170). -/
def profSr (p : Profile) : Bool := bit p.ctl 1
/-- Action on a disagreement (R200). -/
def profAction (p : Profile) : Nat := bits p.ctl 2 2

/-- A die is in full service (R553, R554). -/
def fullService (s : State) (die : Nat) : Bool := bit (getF s F.MGT_SVC_DIES_FULL f0) die

/-- What a conversion needs to know: target format and block code, saturation, clamp, whether it rounds
stochastically, the random stream, the tensor and the destination's columns. -/
structure ConvCtx where
  fmt : Nat
  blk : Nat
  sat : Bool
  clamp : Option Ex
  sr : Bool
  rs : RStream
  tensor : Nat
  cols : Nat
  deriving DecidableEq, Repr

/-- The context of an output conversion: the named format after escalation, under the tensor's profile (R170, R201).
Role 1 is gradient. -/
def convCtx (s : State) (die : Nat) (p : Profile) (role fmt blk tensor cols : Nat) : ConvCtx :=
  let f := ladder role fmt p.level
  ⟨f, if isBlock f then blk else 0, profSat p, clampOf p.clamp, role == 1 || profSr p, getRS s die p.stream, tensor, cols⟩

/-- The rounding of element (i, j) (R169, R178). -/
def modeAt (c : ConvCtx) (i j : Nat) : RMode :=
  if c.sr then .sr (elemWord c.rs false c.tensor c.cols i j) else .rne

/-- Convert the values of row `i` from column `j0` on: element bytes, scale bytes, events. -/
def convSeg (c : ConvCtx) (i j0 : Nat) (vs : List Val) : Bytes × Bytes × ConvFlags :=
  let cl := vs.map (clampVal c.clamp)
  let withMode := cl.zipIdx.map (fun p => (p.1.1, modeAt c i (j0 + p.2)))
  let r := convRow c.fmt c.blk c.sat withMode
  let n := packedBytes c.fmt vs.length
  (r.1.take n, r.1.drop n, convJoin r.2 ⟨0, 0, 0, false, cl.any (·.2)⟩)

/-- Pairs of exact value after the clamp and value written, for the samples (R196). -/
def samplePairs (c : ConvCtx) (row : Bytes) (vs : List Val) : List (Val × Val) :=
  vs.zipIdx.map (fun p => ((clampVal c.clamp p.1).1, rowVal c.fmt c.blk vs.length row p.2))

/-- Bytes of free content for an output that poison leaves open (R49, log entry 6). -/
def freeBytes (ctr n : Nat) : Bytes := (List.range n).map (fun i => Config.freeByte (ctr * 2 ^ 24 + i))

/-- The counting tiles of a destination of `rows` by `cols`. -/
def tilesOf (rows cols : Nat) : Nat := ceilDiv rows 128 * ceilDiv cols 512

/-- The sampled counting tiles (R195): `check` is log2 of N, 0 disables sampling. -/
def sampledTiles (check tensor rows cols : Nat) : List Nat :=
  if check = 0 then [] else (List.range (tilesOf rows cols)).filter (fun t => (t + tensor) % 2 ^ check == 0)

/-- Written values of a piece of an output row, with the exact values behind them, for the samples (R196): row, first column, pairs. -/
structure OutRow where
  row : Nat
  col : Nat
  pairs : List (Val × Val)
  deriving DecidableEq, Repr

/-- The pairs of a piece that lie in columns [c0, c0 + 512). -/
def pairsIn (c0 : Nat) (o : OutRow) : List (Val × Val) :=
  (o.pairs.zipIdx.filter (fun p => decide (c0 ≤ o.col + p.2) && decide (o.col + p.2 < c0 + 512))).map (·.1)

/-- The samples of a conversion: tile, whether it disagrees (R195, R196); a tile with no element written is none. -/
def convSamples (p : Profile) (fmt tensor rows cols : Nat) (out : List OutRow) : List (Nat × Bool) :=
  if !sampledFmt fmt then []
  else
    let tau := if p.tau = 0 then defaultTau fmt else p.tau
    let per := ceilDiv cols 512
    (sampledTiles p.check tensor rows cols).filterMap (fun t =>
      let r0 := t / per * 128
      let ps := (out.filter (fun o => decide (r0 ≤ o.row) && decide (o.row < r0 + 128))).flatMap (pairsIn (t % per * 512))
      if ps.isEmpty then none else some (t, sampleDisagrees tau ps))

/-- Event code of sample number `k` of a descriptor. -/
def sampleEvent (k : Nat) : Nat := 0x10000 + k

/-- Set CK_QUEUE.PENDING: at most 8 samples are pending (R199). -/
def countSamples (s : State) (die : Nat) : State :=
  setF s F.CK_QUEUE_PENDING die 0 (sat 8 (s.samples.filter (fun x => qDie x.queue == die)).length)

/-- Hand samples to CK (R199). -/
def addSamples (s : State) (d : Desc) (tensor fmt : Nat) (split : Bool) (xs : List (Nat × Bool)) : State :=
  let new : List Sample := xs.zipIdx.map (fun x => ⟨d.queue, d.tag, x.2, tensor, split, x.1.2, fmt⟩)
  countSamples { s with samples := s.samples ++ new } (qDie d.queue)

/-- The CK micro-commands that wait for the samples. -/
def sampleMicros (xs : List (Nat × Bool)) : List MSpec :=
  xs.zipIdx.map (fun x => .of 0x19 (.event (sampleEvent x.2)))

/-! ## Output tiles (R46, R47, R134, R178, R195, R201) -/

/-- A piece of an output row: row, elements, scales, poison cause. -/
structure ORow where
  row : Nat
  elems : Bytes
  scales : Bytes
  poison : Nat
  deriving DecidableEq, Repr

/-- Rows grouped into tiles: consecutive rows of one aligned block of `k`, all poisoned alike. -/
def groupRows (k : Nat) (xs : List ORow) : List (List ORow) :=
  xs.foldr (fun x gs =>
    match gs with
    | (y :: g) :: r => if x.row + 1 = y.row ∧ x.row / k = y.row / k ∧ x.poison = y.poison then (x :: y :: g) :: r else [x] :: (y :: g) :: r
    | _ => [x] :: gs) []

/-- Where an output matrix lies and what its tiles' headers say: start, pitch, format, block size code, columns, tensor, whether its level
is above 0, its sampled tiles. -/
structure OutMat where
  base : Nat
  pitch : Nat
  fmt : Nat
  blk : Nat
  cols : Nat
  tensor : Nat
  risen : Bool
  sampled : List Nat
  deriving DecidableEq, Repr

/-- The tile that a group of rows makes in columns [c, c+w); a poisoned one has free content (R49). -/
def outTile (m : OutMat) (ctr c w : Nat) (g : List ORow) : List JobWrite :=
  match g with
  | [] => []
  | x :: _ =>
    let t := matTile m.base m.pitch m.fmt m.blk m.cols m.tensor x.row g.length c w
    let data := g.flatMap (·.elems) ++ g.flatMap (·.scales)
    let tiles := (List.range (ceilDiv (c % 512 + w) 512)).map (· + t.head.index)
    [⟨t.geo, { t.head with check := tiles.any m.sampled.contains, risen := m.risen },
      if x.poison = 0 then data else freeBytes (ctr * 2 ^ 40 + x.row * 2 ^ 16 + c) data.length, x.poison, x.row⟩]

/-- The tiles of the rows of an output in columns [c, c+w), at most 512. -/
def outTiles (m : OutMat) (ctr c w : Nat) (xs : List ORow) : List JobWrite :=
  (groupRows (tileRows (packedBytes m.fmt w) (if isBlock m.fmt then ceilDiv w (blockSize m.blk) else 0)) xs).flatMap (outTile m ctr c w)

/-- The writes of an array of entries of `len` bytes: entries that follow one another go together, at most 64 KiB in a tile (R46). -/
def arrayWrites (base len : Nat) (xs : List ORow) : List JobWrite :=
  (groupRows (max 1 (65536 / len)) xs).flatMap (fun g => match g with
    | [] => []
    | x :: _ => [rawWrite (base + x.row * len) (g.flatMap (·.elems)) x.poison x.row])

/-! ## What a finished work gives -/

/-- What the work of a program gives: the steps that follow, the detail bytes, samples for CK with tensor, format and kind, and its effect
on the counters. -/
structure Part where
  steps : List PSpec
  detail : Bytes
  tensor : Nat
  fmt : Nat
  split : Bool
  samples : List (Nat × Bool)
  after : State → State

/-- The tensor profile and random stream of a descriptor as they are when its first micro-command issues (R179, R181). -/
def takeSnap (s : State) (d : Desc) (tensor : Nat) : State :=
  let p := profileFor s (qDie d.queue) d.fn tensor
  updDesc s d.queue d.tag (fun d => { d with snap := some (p, getRS s (qDie d.queue) p.stream) })

/-- The state from which a descriptor's stations compute: what they have taken in, and the profile and random stream of its start (R56,
R179, R181). -/
def viewed (s : State) (d : Desc) (tensor : Nat) : State :=
  let s := { s with view := d.inputs }
  match d.snap with
  | some (p, r) => setRS (setProf s (qDie d.queue) (tensor % 1024) (if p.bound then p else Profile.default)) (qDie d.queue) p.stream r
  | none => s

/-- The mover of a program's last stream writes its output out of that stream (R54, R627). -/
def writeOut (s : State) (d : Desc) (ws : List JobWrite) : PSpec :=
  let n := d.streams.getLastD 0
  let mover := match (tget? s.streams (streamKey (qDie d.queue) n)).bind (·.consumers.head?) with
    | some c => c.1
    | none => pickMover s (qDie d.queue)
  .push (.of mover (.writes (n + 1) ws))

/-- A row of job memory: its bytes and poison cause. -/
def jobRow (s : State) (fn base pitch len i : Nat) : Bytes × Nat := jobRead s fn (base + i * pitch) len

/-- The results of a part take effect: counters, detail bytes, samples, and the steps that follow (R70, R199). -/
def applyPart (s : State) (d : Desc) (p : Part) : State :=
  let s := setDetail (p.after s) d.queue d.tag p.detail
  extend (addSamples s d p.tensor p.fmt p.split p.samples) d.queue d.tag ((sampleMicros p.samples).map .push ++ p.steps)

/-- Count a conversion's events in the CV counters (R206). -/
def countConv (s : State) (die : Nat) (f : ConvFlags) (srElems : Nat) : State :=
  let s := addD s F.CV_CNT_SR_SR die 0 srElems 1024
  let s := addF s F.CV_CNT_SAT_SAT die 0 f.sat
  let s := addD s F.CV_CNT_UFL_UFL die 0 f.isUnder 1024
  addF s F.CV_CNT_NAN_NAN die 0 f.nan

/-- The numflags byte of a conversion (R188). -/
def numFlags (f : ConvFlags) : Nat :=
  b2n (f.nan != 0) + 2 * b2n (f.sat != 0) + 4 * b2n (f.isUnder != 0) + 8 * b2n f.clamped + 16 * b2n f.scale

end Sys2Proof.Machine
end

