-- ==== Sys2Proof/Machine/Sum.lean ====
section
/-! DEFINITION. Exact reduction arithmetic: accumulators, the packed form of partial sums, and their rounding (R191-R197,
R426). -/

namespace Sys2Proof.Machine

open Sys2Proof

/-- An accumulator: its value in units of 2^(w - 64) and its sticky flags (R191, R192). -/
structure Accum where
  v : Int
  nan : Bool
  pinf : Bool
  ninf : Bool
  deriving DecidableEq, Repr

/-- The accumulator at the beginning of a sum (R191). -/
def Accum.zero : Accum := ⟨0, false, false, false⟩

/-- The sum of two accumulators is exact (R193). -/
def accumAdd (a b : Accum) : Accum := ⟨a.v + b.v, a.nan || b.nan, a.pinf || b.pinf, a.ninf || b.ninf⟩

/-- One contribution under window shift `w` (R192). -/
def accOf (w : Int) : Val → Accum
  | .nan => ⟨0, true, false, false⟩
  | .inf neg => ⟨0, false, !neg, neg⟩
  | .fin neg x =>
    if x.n = 0 then Accum.zero
    else if exLog2 x ≥ w + 76 then ⟨0, false, !neg, neg⟩
    else
      let k : Int := ((exSteps x (w - 64)).1 : Nat)
      ⟨if neg then -k else k, false, false, false⟩

/-- What an accumulator stands for: the mean of `n` contributors, or the sum where `n` is 1 (R194). -/
def accVal (w : Int) (n : Nat) (a : Accum) : Val :=
  if a.nan || (a.pinf && a.ninf) then .nan
  else if a.pinf then .inf false
  else if a.ninf then .inf true
  else .fin (decide (a.v < 0)) ⟨a.v, n, w - 64⟩

/-- Sum of two rows of accumulators. -/
def accRow : List Accum → List Accum → List Accum
  | a :: r, b :: q => accumAdd a b :: accRow r q
  | [], q => q
  | r, [] => r

/-! ## Packed form (R426) -/

/-- Trailing zero bits of a nonzero magnitude, at most `fuel`. -/
def trailZeros : Nat → Nat → Nat
  | 0, _ => 0
  | fuel + 1, x => if x % 2 = 1 then 0 else 1 + trailZeros fuel (x / 2)

/-- An integer fits `w` bits of two's complement. -/
def fitsBits (w : Nat) (i : Int) : Bool := if w = 0 then i == 0 else decide (-(2 ^ (w - 1) : Int) ≤ i ∧ i < (2 ^ (w - 1) : Int))

/-- The flags of an accumulator as its three bits of the special map. -/
def flagBits (a : Accum) : Nat := b2n a.nan + 2 * b2n a.pinf + 4 * b2n a.ninf

/-- One block of at most 32 elements in packed form. -/
def packBlock (l : List Accum) : Bytes :=
  let l := l ++ List.replicate (32 - l.length) Accum.zero
  let any := (l.map (fun a => a.v.natAbs)).foldl (· ||| ·) 0
  let tz := if any = 0 then 0 else trailZeros 159 any
  let vs := l.map (fun a => a.v / (2 ^ tz : Int))
  let w := (((List.range 81).map (· * 2)).find? (fun w => vs.all (fitsBits w))).getD 160
  let special := l.any (fun a => flagBits a != 0)
  let map := if special then toLe 12 ((l.zipIdx.map (fun p => flagBits p.1 * 8 ^ p.2)).foldl (· + ·) 0) else []
  let ints := toLe (4 * w) ((vs.zipIdx.map (fun p => unsigned w p.1 * 2 ^ (w * p.2))).foldl (· + ·) 0)
  let b := toLe 8 (w + tz * 256 + 65536 * b2n special) ++ map ++ ints
  b ++ List.replicate ((8 - b.length % 8) % 8) 0

/-- A row of accumulators in packed form, with a poison cause for each block of 32. -/
def packRowAcc (l : List (Accum × Nat)) : List (Bytes × Nat) :=
  (chunks (l.length / 32 + 1) 32 l).map (fun b => (packBlock (b.map (·.1)), worstCause (b.map (·.2))))

/-- The bytes of a block from its header. -/
def blockBytes (h : Nat) : Nat :=
  let n := 8 + (if bit h 16 then 12 else 0) + 4 * bits h 0 8
  (n + 7) / 8 * 8

/-- Read one packed block: its 32 accumulators. -/
def unpackBlock (b : Bytes) : List Accum :=
  let h := fld b 0 8
  let w := bits h 0 8
  let tz := bits h 8 8
  let o := if bit h 16 then 20 else 8
  let map := if bit h 16 then fld b 8 12 else 0
  let ints := fld b o (4 * w)
  (List.range 32).map (fun i =>
    let f := map / 8 ^ i
    ⟨signed w (ints / 2 ^ (w * i)) * (2 ^ tz : Int), bit f 0, bit f 1, bit f 2⟩)

/-- Read `n` elements in packed form from job memory, with the poison cause of each; also the bytes they take. -/
def readPacked (s : State) (fn : Nat) : Nat → Nat → Nat → List (Accum × Nat) × Nat
  | 0, _, _ => ([], 0)
  | fuel + 1, va, n =>
    if n = 0 then ([], 0)
    else
      let k := blockBytes (fld (jobRead s fn va 8).1 0 8)
      let (b, c) := jobRead s fn va k
      let (r, m) := readPacked s fn fuel (va + k) (n - 32)
      (((unpackBlock b).take n).map (fun a => (a, c)) ++ r, k + m)

/-- Read `n` raw elements of a format, with the poison cause of each block of 32. -/
def readRaw (s : State) (fn fmt : Nat) (w : Int) (va n : Nat) : List (Accum × Nat) :=
  let b := fmtBits fmt / 8
  (List.range (ceilDiv n 32)).flatMap (fun i =>
    let m := min 32 (n - 32 * i)
    let (bs, c) := jobRead s fn (va + 32 * i * b) (m * b)
    (List.range m).map (fun j => (accOf w (elemVal fmt (fld bs (j * b) b)), c)))

/-- Element-wise sums, each with the worse of its causes. -/
def sumRows : List (Accum × Nat) → List (Accum × Nat) → List (Accum × Nat)
  | a :: r, b :: q => (accumAdd a.1 b.1, worstCause [a.2, b.2]) :: sumRows r q
  | [], q => q
  | r, [] => r

/-! ## Rounding the output (R194) -/

/-- The context of a reduction's output, at its named format. -/
def sumCtx (s : State) (die fn role fmt tensor cols : Nat) : ConvCtx :=
  convCtx s die { profileFor s die fn tensor with level := 0 } role fmt 0 tensor cols

/-- Round elements from index `first` on: codes, exact values after the clamp, and events (R169-R171, R178, R194). DESIGN CHOICE (log
entry 136): an element of a reduction has row 0, its index in the whole tensor as its column, and Q is the element count of the call. -/
def roundSum (c : ConvCtx) (first : Nat) (vs : List Val) : List (Nat × Val × ConvFlags) :=
  vs.zipIdx.map (fun p =>
    let (v, cl) := clampVal c.clamp p.1
    let (code, f) := convPlain c.fmt c.sat (modeAt c 0 (first + p.2)) v
    (code, v, convJoin f ⟨0, 0, 0, false, cl⟩))

/-- The samples of a reduction's output from index `first` on: counting tile and whether it disagrees (R195-R197). -/
def sumSamples (p : Profile) (c : ConvCtx) (first : Nat) (out : List (Nat × Val × ConvFlags)) : List (Nat × Bool) :=
  if !sampledFmt c.fmt || p.check == 0 || out.isEmpty then []
  else
    let tau := if p.tau = 0 then defaultTau c.fmt else p.tau
    let t0 := first / 512
    let t1 := (first + out.length - 1) / 512
    ((List.range (t1 - t0 + 1)).map (· + t0)).filterMap (fun t =>
      if (t + c.tensor) % 2 ^ p.check ≠ 0 then none
      else
        let ps := (out.zipIdx.filter (fun x => (first + x.2) / 512 == t)).map (fun x => (x.1.2.1, elemVal c.fmt x.1.1))
        some (t, sampleDisagrees tau ps))

end Sys2Proof.Machine
end

