-- ==== Sys2Proof/Machine/RdOps.lean ====
section
/-! DEFINITION. What every collective uses: communicator slots, control records, sends of a Reduce station, the ends of
calls, shard entries (R300-R305, R418-R423, R432). -/

namespace Sys2Proof.Machine

open Sys2Proof

/-! ## Communicators -/

/-- The FIFO key under which the descriptors that a Reduce station holds are kept (log entry 12). -/
def rdStation : Nat := 0x37
/-- Key of a communicator slot. -/
def commKey (die slot : Nat) : Nat := die * 64 + slot
/-- A communicator slot, if it is defined. -/
def getComm (s : State) (die slot : Nat) : Option Comm := tget? s.comms (commKey die slot)
/-- Replace a communicator slot. -/
def setComm (s : State) (die slot : Nat) (c : Comm) : State := { s with comms := tins s.comms (commKey die slot) c }
/-- Members of a communicator. -/
def Comm.n (c : Comm) : Nat := c.members.length
/-- Groups of a communicator (R420). -/
def Comm.groups (c : Comm) : Nat := c.members.length / c.size
/-- Round up to a multiple. -/
def alignTo (k v : Nat) : Nat := (v + k - 1) / k * k
/-- Offset of the control area in a receive area (R422). -/
def ctlOff (c : Comm) : Nat := alignTo 4096 (64 * c.n)
/-- Offset of the staging in a receive area (R422). -/
def stageOff (c : Comm) : Nat := alignTo 0x200000 (ctlOff c + 65536)

/-- Key of a function's layout epoch on a die. -/
def epochKey (die fn : Nat) : Nat := die * 128 + fn
/-- Current layout epoch of a function on a die (R437). -/
def curEpoch (s : State) (die fn : Nat) : Nat := tgetD s.epochs (epochKey die fn) 0
/-- Epoch `a` is earlier than `b`, modulo 2^16 (R437). -/
def epochBefore (a b : Nat) : Bool := decide (a ≠ b ∧ (b + 65536 - a) % 65536 < 32768)

/-! ## Control records (R423) -/

/-- The 64 bytes of a control record. -/
def recBytes (r : CtlRec) : Bytes :=
  toLe 1 r.kind ++ toLe 1 r.slot ++ toLe 2 0 ++ toLe 4 r.rank ++ toLe 4 r.seq ++ toLe 4 r.arg ++
    (r.body ++ List.replicate (48 - r.body.length) 0).take 48

/-- The newest record of a kind that a member sent for a call. -/
def noteOf (s : State) (die slot seq rank kind : Nat) : Option CtlRec :=
  (s.notes.find? (fun p => p.1 == die && p.2.slot == slot && p.2.seq == seq && p.2.rank == rank && p.2.kind == kind)).map (·.2)

/-- The call of a slot with a sequence number. -/
def callAt (s : State) (die slot seq : Nat) : Option RdCall :=
  s.calls.find? (fun c => c.die == die && c.slot == slot && c.seq == seq && opcode c.image != 0x60)

/-- A record of a call that has ended, which nothing waits for. -/
def noteStale (s : State) (die : Nat) (r : CtlRec) : Bool :=
  match getComm s die r.slot with
  | none => true
  | some c =>
    r.rank ≥ c.n || (decide (r.seq < c.next) && (callAt s die r.slot r.seq).isNone && r.kind != 6 &&
      !s.lates.any (fun l => l.die == die && l.slot == r.slot && l.seq == r.seq && l.rank == r.rank))

/-- A record arrives: it replaces the sender's earlier one (R423). -/
def addNote (s : State) (die : Nat) (r : CtlRec) : State :=
  if noteStale s die r then s
  else
    { s with notes := s.notes.filter (fun p => !(p.1 == die && p.2.slot == r.slot && p.2.seq == r.seq &&
        p.2.rank == r.rank && p.2.kind == r.kind)) ++ [(die, r)] }

/-! ## Calls -/

/-- RD_STATE.ACTIVE (R451). -/
def showActive (s : State) (die : Nat) : State :=
  setF s F.RD_STATE_ACTIVE die 0 (s.calls.filter (fun c => c.die == die)).length

/-- The call of a descriptor. -/
def sameCall (c x : RdCall) : Bool := x.queue == c.queue && x.tag == c.tag

/-- Replace a call. -/
def setCall (s : State) (c : RdCall) : State := { s with calls := updFirst (sameCall c) (fun _ => c) s.calls }

/-- A call is the one in flight on its slot (R423). -/
def inFlight (s : State) (c : RdCall) : Bool :=
  match s.calls.find? (fun x => x.die == c.die && x.slot == c.slot) with
  | some x => sameCall c x
  | none => false

/-- The Reduce station holds a descriptor until the call ends. -/
def holdRd (s : State) (q tag : Nat) : State :=
  match descOf s q tag with
  | none => s
  | some d =>
    let k := qDie q
    let s := setFifo s k rdStation (fifo s k rdStation ++ [⟨q, tag, d.issued, .event 3, false, false, DONE, [], 0⟩])
    updDesc s q tag (fun d => { d with started := true, issued := d.issued + 1, unretired := d.unretired + 1 })

/-- The Reduce station lets a descriptor go with a status, a station and detail bytes. -/
def freeRd (s : State) (q tag status station : Nat) (detail : Bytes) (keep : Retired → Bool) : State :=
  let k := qDie q
  let mine (m : Micro) : Bool := m.queue == q && m.tag == tag
  match (fifo s k rdStation).find? mine with
  | none => s
  | some m =>
    let s := setFifo s k rdStation (delFirst mine (fifo s k rdStation))
    maybeComplete (updDesc s q tag (fun d =>
      { d with unretired := d.unretired - 1, detail := detail,
               retired := d.retired.filter keep ++ [⟨m.idx, status, station, detail⟩] })) q tag

/-- Detail bytes of a class-7 completion other than RD_EXPERT (R450). -/
def rdDetail (reason count eflags : Nat) : Bytes := toLe 1 reason ++ toLe 4 count ++ toLe 1 eflags

/-- The records of a call are no longer needed; a DATA that a deferred group still owes is kept. -/
def dropNotes (s : State) (die slot seq : Nat) : State :=
  { s with notes := s.notes.filter (fun p => !(p.1 == die && p.2.slot == slot && p.2.seq == seq) ||
      s.lates.any (fun l => l.die == die && l.slot == slot && l.seq == seq && l.rank == p.2.rank && p.2.kind == 2)) }

/-! ## Shard entries (R300-R305) -/

/-- Key of a shard entry. -/
def shardKey (die n : Nat) : Nat := die * 1024 + n
/-- A shard entry. -/
def getShard (s : State) (die n : Nat) : Shard := tgetD s.shards (shardKey die n) Shard.free
/-- Replace a shard entry. -/
def setShard (s : State) (die n : Nat) (x : Shard) : State := { s with shards := tput s.shards (shardKey die n) x Shard.free }

/-- A forced fence opens an entry at a version with no references; an op 1 that waits goes on once the waiting gathers are served (R305). -/
def openShard (s : State) (die n step epoch : Nat) : State :=
  setShard s die n { getShard s die n with state := 1, refs := 0, step := step, epoch := epoch }

/-- An entry becomes FREE; an op 1 that waits on it ends with CONFLICT. -/
def freeShard (s : State) (die n : Nat) : State :=
  let x := getShard s die n
  let s := setShard s die n { x with state := 0, refs := 0, op1 := none, force := [] }
  match x.op1 with
  | some (q, tag) => freeRd s q tag CONFLICT 0x20 [] (fun _ => true)
  | none => s

/-- A version reaches an entry by a forced fence; in UPDATING it waits for op 2 (R305). -/
def forceOpen (s : State) (die n step epoch : Nat) : State :=
  let x := getShard s die n
  if x.state = 3 then setShard s die n { x with force := x.force ++ [(1, step, epoch)] } else openShard s die n step epoch

/-- The entries that a permute opens open as it ends (R439 step 4). -/
def openAll (s : State) (c : RdCall) : State :=
  c.opens.foldl (fun s x => forceOpen s (x.1 / 1024) (x.1 % 1024) x.2 (fld c.image 0x1C 2)) s

/-! ## The end of a call -/

/-- A call ends (R449, R450). The status of a windowed reduction is not that of a send that did not arrive. -/
def endCall (s : State) (c : RdCall) (status : Nat) (detail : Bytes) (windowed : Bool := false) : State :=
  let s := openAll (dropNotes { s with calls := s.calls.filter (fun x => !sameCall c x) } c.die c.slot c.seq) c
  freeRd (showActive s c.die) c.queue c.tag status 0x20 detail
    (fun r => !windowed || statusKind r.status != .fault || !(r.status == LINK_LOST || r.status == FENCED))

/-! ## Sends -/

/-- Join consecutive chunks of one poison cause. -/
def joinSame : List (Bytes × Nat) → List (Bytes × Nat)
  | [] => []
  | a :: r =>
    match joinSame r with
    | [] => [a]
    | b :: q => if a.2 = b.2 then (a.1 ++ b.1, a.2) :: q else a :: b :: q

/-- Chunks of an extent as pieces of at most 2,048 bytes with their offsets and poison (R383, R432). -/
def poisonPieces : Nat → List (Bytes × Nat) → List (Nat × Bytes × Nat)
  | _, [] => []
  | off, (b, c) :: r => (writePieces off b).map (fun p => (p.1, p.2, c)) ++ poisonPieces (off + b.length) r

/-- Read an extent in chunks of 64 bytes, each with its poison cause. -/
def readLines (s : State) (fn va len : Nat) : List (Bytes × Nat) :=
  (List.range (ceilDiv len 64)).map (fun i => jobRead s fn (va + 64 * i) (min 64 (len - 64 * i)))

/-- Write chunks to a function's own space; the status of the first that fails. -/
def writeChunks (s : State) (die fn : Nat) : Nat → List (Bytes × Nat) → State × Nat
  | _, [] => (s, 0)
  | va, (b, c) :: r =>
    let (s, e) := jobWrite s die fn va b (if c = 0 then 0 else 5)
    if e ≠ 0 then (s, e) else writeChunks s die fn (va + b.length) r

/-- Bytes of some chunks. -/
def chunkBytes (ps : List (Bytes × Nat)) : Nat := (ps.map (fun p => p.1.length)).foldl (· + ·) 0

/-- The fabric address of a place of a member: members lay their areas out alike, so a place of this member's space at `va`
is the same distance from the member's receive area (log entry 40). -/
def placeOf (cm : Comm) (r va : Nat) : Nat × Nat × Nat :=
  let (m, dd, off) := unpackFab (cm.members.getD r (0, 0)).1
  (m, dd, (off + va + 2 ^ 43 - cm.rx % 2 ^ 43) % 2 ^ 43)

/-- Send chunks to a module and die for a call's descriptor, as a micro-command of its Reduce station (R382, R397). -/
def fabSend (s : State) (c : RdCall) (m dd off : Nat) (ps : List (Bytes × Nat)) (late : Nat) : State × Nat :=
  match descOf s c.queue c.tag with
  | none => (s, 0)
  | some d =>
    let xs := poisonPieces off (joinSame ps)
    match sendFail s m dd with
    | some st => (issueOne s c.queue c.tag ⟨0x20, .plain, st, [], 0⟩, d.issued)
    | none =>
      let s := issueOne s c.queue c.tag (.of 0x20 (.acks (sendCount m xs)))
      if stFenced s c.die 0x20 then (s, d.issued)
      else (sendPieces s c.queue c.tag d.issued c.fn m dd 1 xs late, d.issued)

/-- Give chunks to member `r` at a place named in this member's space; to itself they are written at once. -/
def giveMember (s : State) (c : RdCall) (cm : Comm) (r va : Nat) (ps : List (Bytes × Nat)) : State × RdCall :=
  let n := chunkBytes ps
  let c := { c with gave := tput c.gave r (tgetD c.gave r 0 + n) 0 }
  if n = 0 then (s, c)
  else if r = cm.rank then
    let (s, e) := writeChunks s c.die c.fn va (joinSame ps)
    if e = 0 then (s, c) else (issueOne s c.queue c.tag ⟨0x20, .plain, e, [], 0⟩, c)
  else
    let (m, dd, off) := placeOf cm r va
    let (s, i) := fabSend s c m dd off ps DONE
    (s, { c with sends := c.sends ++ [(r, i)] })

/-- Send a control record to a member's inbox of this rank (R422, R423). -/
def sendRec (s : State) (c : RdCall) (cm : Comm) (r kind arg : Nat) (body : Bytes) : State :=
  let x : CtlRec := ⟨kind, c.slot, cm.rank, c.seq, arg % 2 ^ 32, body⟩
  let va := cm.rx + 64 * cm.rank
  if r = cm.rank then addNote (jobWrite s c.die c.fn va (recBytes x) 0).1 c.die x
  else
    let (m, dd, off) := placeOf cm r va
    (fabSend s c m dd off [(recBytes x, 0)] DONE).1

/-- Tell members how many bytes of the call they have been given so far (R423). -/
def sendData (s : State) (c : RdCall) (cm : Comm) (rs : List Nat) (body : Bytes) : State :=
  rs.foldl (fun s r => sendRec s c cm r 2 (tgetD c.gave r 0) body) s

/-- Whether every send of the phase has retired. -/
def sendsOver (d : Desc) (c : RdCall) : Bool := c.sends.all (fun x => d.retired.any (fun r => r.idx == x.2))

/-- The first fault among the retired sends of the phase. -/
def sendsBad (d : Desc) (c : RdCall) : Option Nat :=
  c.sends.findSome? (fun x =>
    (d.retired.find? (fun r => r.idx == x.2)).bind (fun r => if statusKind r.status = .fault then some r.status else none))

/-- Only the hold is left of a descriptor. -/
def onlyHold (d : Desc) : Bool := d.unretired == 1

/-- Bytes that a member says it has given (R423). -/
def gotBytes (s : State) (c : RdCall) (r : Nat) : Option Nat := (noteOf s c.die c.slot c.seq r 2).map (·.arg)

/-- Body of a CLOSE: groups admitted, groups deferred, members counted, and the reason of a refusal (R423, R448). -/
def closeBody (adm defer_ counted reason : Nat) : Bytes := toLe 4 adm ++ toLe 4 defer_ ++ toLe 4 counted ++ toLe 1 reason

/-- The root ends or closes the call at every member (R428, R432). -/
def closeAll (s : State) (c : RdCall) (cm : Comm) (status : Nat) (body : Bytes) : State :=
  (List.range cm.n).foldl (fun s r => sendRec s c cm r 3 status body) s

/-- The CLOSE of a call, if it has arrived. -/
def closeOf (s : State) (c : RdCall) : Option CtlRec := noteOf s c.die c.slot c.seq 0 3

/-- A member cannot contribute: the root learns of it, and at the root the call ends at every member (R432). -/
def callFail (s : State) (c : RdCall) (cm : Comm) (status : Nat) : State :=
  let s := setCall s { c with failed := true }
  if cm.rank = 0 then
    if (closeOf s c).isSome then s else closeAll s c cm status (closeBody 0 0 0 0)
  else sendRec s c cm 0 4 status []

/-- The straggler window of a call (R424, R433). -/
def callWindow (c : RdCall) : Nat := if opcode c.image = 0x61 ∨ opcode c.image = 0x62 then fld c.image 0x2C 4 else 0

/-- What of the body all members must agree on (R423; log entry 41). -/
def paramBytes (im : Bytes) : Bytes :=
  match opcode im with
  | 0x61 => (im.drop 0x20).take 16
  | 0x62 => (if fld im 0x29 1 = 2 then [] else (im.drop 0x20).take 8) ++ (im.drop 0x28).take 2 ++ (im.drop 0x2C).take 4
  | 0x63 => (im.drop 0x20).take 5
  | 0x64 => (im.drop 0x1C).take 3
  | _ => (im.drop 0x2C).take 12

/-- Element or row count of a READY (R423). -/
def readyCount (im : Bytes) : Nat :=
  match opcode im with
  | 0x62 => if fld im 0x29 1 = 2 then 0 else fld im 0x20 4
  | 0x64 => 0
  | 0x66 => fld im 0x28 4
  | _ => fld im 0x20 4

/-- Bytes of a routing table view, for its checksum. -/
def viewBytes (v : List (Nat × Nat × Bool)) : Bytes := v.flatMap (fun e => toLe 4 e.1 ++ toLe 2 e.2.1 ++ toLe 2 (b2n e.2.2))

/-- Body of a READY: opcode, count, hash of the parameters and of the routing table view (R423). -/
def readyBody (c : RdCall) (cm : Comm) (more : Bytes) : Bytes :=
  let t := if opcode c.image = 0x66 then crc32c (viewBytes cm.exch.view) else 0
  toLe 1 (opcode c.image) ++ toLe 3 0 ++ toLe 4 (readyCount c.image) ++ toLe 4 (crc32c (paramBytes c.image)) ++ toLe 4 t ++ more

/-- Ranks whose READY for the call has arrived at the root. -/
def readyRanks (s : State) (c : RdCall) (cm : Comm) : List Nat :=
  (List.range cm.n).filter (fun r => (noteOf s c.die c.slot c.seq r 1).isSome)

/-- The members disagree on the call (R423). -/
def disagree (s : State) (c : RdCall) (cm : Comm) : Bool :=
  match (readyRanks s c cm).filterMap (fun r => (noteOf s c.die c.slot c.seq r 1).map (fun x => x.body.take 16)) with
  | [] => false
  | b :: r => r.any (fun x => x != b)

/-- Causes of poison that lie in an extent, as a status (R432). -/
def poisonIn (s : State) (fn va len : Nat) : Bool :=
  (jobRead s fn va len).2 != 0

/-! ## Op 1 of a shard entry (R301, R302) -/

/-- An entry with no reference that an op 1 waits for enters UPDATING, and the op 1 completes (R301, R302). -/
def drainShard (s : State) (die n : Nat) : State :=
  let x := getShard s die n
  match x.op1 with
  | some (q, tag) =>
    if x.state = 2 ∧ x.refs = 0 then
      freeRd (setShard s die n { x with state := 3, op1 := none }) q tag DONE 0x20 [] (fun _ => true)
    else s
  | none => s

/-- The first op 1 whose descriptor was cancelled is taken back: the entry is OPEN again. -/
def reviveStep (s : State) : Option State :=
  s.shards.findSome? (fun p =>
    match p.2.op1 with
    | some (q, tag) =>
      if (match descOf s q tag with
        | some d => d.override.isSome || d.seqr == 5
        | none => true) then
        some { s with shards := tput s.shards p.1 { p.2 with op1 := none, state := if p.2.state = 2 then 1 else p.2.state } Shard.free }
      else none
    | none => none)

end Sys2Proof.Machine
end

