-- ==== Sys2Proof/Machine/Reduce.lean ====
section
/-! DEFINITION. RD_REDUCE: its stages, the close at the root, the final sum, residual slots and deferred groups (R424-R432,
R440). -/

namespace Sys2Proof.Machine

open Sys2Proof

/-! ## The body (R424) -/

/-- Elements. -/
def rE (c : RdCall) : Nat := fld c.image 0x20 4
/-- All-reduce. -/
def rAll (c : RdCall) : Bool := fld c.image 0x25 1 == 0
/-- Input format. -/
def rIn (c : RdCall) : Nat := fld c.image 0x26 1
/-- Output format. -/
def rOut (c : RdCall) : Nat := fld c.image 0x27 1
/-- Control bits. -/
def rCtl (c : RdCall) : Nat := fld c.image 0x28 1
/-- Window shift. -/
def rShift (c : RdCall) : Int := signed 8 (fld c.image 0x29 1)
/-- Layout epoch. -/
def rEpoch (c : RdCall) : Nat := fld c.image 0x2A 2
/-- Residual area. -/
def rResid (c : RdCall) : Nat := fld c.image 0x30 8 % 2 ^ 52
/-- Residual slots. -/
def rSlots (c : RdCall) : Nat := bits (fld c.image 0x30 8) 52 4

/-- Elements of a shard (R425). -/
def rS (c : RdCall) (cm : Comm) : Nat := ceilDiv (rE c) cm.n
/-- First element and length of a shard (R425). -/
def shardRange (c : RdCall) (cm : Comm) (r : Nat) : Nat × Nat :=
  let a := min (rE c) (r * rS c cm)
  (a, min (rE c) ((r + 1) * rS c cm) - a)
/-- Bytes of an input element. -/
def rB (c : RdCall) : Nat := fmtBits (rIn c) / 8
/-- Bytes of an output element. -/
def rBo (c : RdCall) : Nat := fmtBits (rOut c) / 8
/-- Staging of one sender's raw contributions (R425). -/
def rA (c : RdCall) (cm : Comm) : Nat := alignTo 0x200000 (cm.groups * rS c cm * rB c)
/-- Staging of one group's partial (R425). -/
def rP (c : RdCall) (cm : Comm) : Nat := alignTo 4096 (ceilDiv (rS c cm) 32 * 664)
/-- Where a local member's raw contributions are staged, in this member's space. -/
def rawAt (c : RdCall) (cm : Comm) (i : Nat) : Nat := cm.rx + stageOff cm + i * rA c cm
/-- Where a group's partial is staged. -/
def partAt (c : RdCall) (cm : Comm) (g : Nat) : Nat := cm.rx + stageOff cm + cm.size * rA c cm + g * rP c cm
/-- Own local index and group. -/
def myJ (cm : Comm) : Nat := cm.rank % cm.size
/-- Own group. -/
def myG (cm : Comm) : Nat := cm.rank / cm.size
/-- Bytes of a residual slot of shards of `S` elements (R430). -/
def slotBytes (S : Nat) : Nat := alignTo 4096 (64 + ceilDiv S 32 * 664)
/-- Address of a residual slot. -/
def slotAt (resid S q : Nat) : Nat := resid + 0x11000 + q * slotBytes S

/-! ## Stages A and B (R425) -/

/-- Stage A: each local member is sent the elements of the shards that it sums. -/
def stageA (s : State) (c : RdCall) (cm : Comm) : State × RdCall :=
  (List.range cm.size).foldl (fun (p : State × RdCall) j =>
    let (s, c) := p
    let ps := (List.range cm.groups).flatMap (fun k =>
      let (a, n) := shardRange c cm (k * cm.size + j)
      let xs := readLines s c.fn (fld c.image 0x10 8 % 2 ^ 52 + a * rB c) (n * rB c)
      let pad := (rS c cm - n) * rB c
      xs ++ (if pad = 0 ∨ k + 1 = cm.groups then [] else [(List.replicate pad 0, 0)]))
    giveMember s c cm (myG cm * cm.size + j) (rawAt c cm (myJ cm)) ps) (s, c)

/-- Bytes of stage A that a local member gives to this one. -/
def stageABytes (c : RdCall) (cm : Comm) : Nat :=
  (cm.groups - 1) * rS c cm * rB c + (shardRange c cm ((cm.groups - 1) * cm.size + myJ cm)).2 * rB c

/-- The partial of shard `r`: the sum of the group's contributions, or the own contribution in a flat communicator. -/
def partialOf (s : State) (c : RdCall) (cm : Comm) (r : Nat) : List (Accum × Nat) :=
  let (a, n) := shardRange c cm r
  if cm.size = 1 then readRaw s c.fn (rIn c) (rShift c) (fld c.image 0x10 8 % 2 ^ 52 + a * rB c) n
  else
    (List.range cm.size).foldl (fun acc i =>
      sumRows acc (readRaw s c.fn (rIn c) (rShift c) (rawAt c cm i + r / cm.size * rS c cm * rB c) n)) []

/-- Stage B: the partial of every shard that this member sums goes to the shard's owner in packed form. -/
def stageB (s : State) (c : RdCall) (cm : Comm) : State × RdCall :=
  (List.range cm.groups).foldl (fun (p : State × RdCall) k =>
    let (s, c) := p
    let r := k * cm.size + myJ cm
    giveMember s c cm r (partAt c cm (myG cm)) (packRowAcc (partialOf s c cm r))) (s, { c with sends := [] })

/-! ## The close at the root (R428-R431) -/

/-- A bitmap of groups. -/
def bitmapOf (n : Nat) (gs : List Nat) : Bytes :=
  (List.range (ceilDiv n 8)).map (fun i =>
    BitVec.ofNat 8 (((List.range 8).map (fun b => if gs.contains (8 * i + b) then 2 ^ b else 0)).foldl (· + ·) 0))

/-- The groups of a bitmap. -/
def bitmapGroups (n : Nat) (b : Bytes) : List Nat := (List.range n).filter (fun g => bit (fld b (g / 8) 1) (g % 8))

/-- Groups whose members are all READY. -/
def readyGroups (s : State) (c : RdCall) (cm : Comm) : List Nat :=
  let rs := readyRanks s c cm
  (List.range cm.groups).filter (fun g => (List.range cm.size).all (fun i => rs.contains (g * cm.size + i)))

/-- The status of the groups that are late (R429). -/
def lateStatus (late defer_ : Nat) : Nat :=
  if late = 0 then DONE else if defer_ = late then DONE_LATE_ADDED else DONE_PARTIAL

/-- Close with the admitted and deferred groups: the admission bitmap to every member, the admission record of R431 and the root's counters;
CLOSE follows once the bitmaps have been acknowledged (R423, R425). -/
def closeWith (s : State) (c : RdCall) (cm : Comm) (adm defer_ : List Nat) (record : Bool) : State :=
  let late := cm.groups - adm.length
  let map := bitmapOf cm.groups adm
  let (s, sent) := (List.range cm.n).foldl (fun (p : State × List Nat) r =>
    if r = cm.rank then ((jobWrite p.1 c.die c.fn (cm.rx + ctlOff cm + 0x800) map 0).1, p.2)
    else
      let (m, dd, off) := placeOf cm r (cm.rx + ctlOff cm + 0x800)
      let x := fabSend p.1 c m dd off [(map, 0)] DONE
      (x.1, p.2 ++ [x.2])) (s, [])
  let s :=
    if record && rResid c != 0 then
      let pad (b : Bytes) : Bytes := b ++ List.replicate (32768 - b.length) 0
      (jobWrite s c.die c.fn (rResid c)
        (toLe 4 c.seq ++ toLe 4 adm.length ++ toLe 4 defer_.length ++ toLe 4 0 ++ pad map ++ pad (bitmapOf cm.groups defer_)) 0).1
    else s
  let s := addF s F.RD_CNT_LATE_LATE c.die 0 defer_.length
  let s := addF s F.RD_CNT_DROP_DROP c.die 0 (late - defer_.length)
  let body := closeBody adm.length defer_.length (adm.length * cm.size) 0
  setCall s { c with closing := some (sent, lateStatus late defer_.length, body) }

/-- Close by the policy of R428 with the groups that are READY now. -/
def closeNow (s : State) (c : RdCall) (cm : Comm) : State :=
  let adm := readyGroups s c cm
  let late := (List.range cm.groups).filter (fun g => !adm.contains g)
  closeWith s c cm adm (if bit (rCtl c) 2 then late.take (rSlots c) else []) true

/-- The root closes a reduction when every group is READY, or in replay mode when the groups of its record are (R428, R431). -/
def rootReduce (s : State) (c : RdCall) (cm : Comm) : Option State :=
  if bit (rCtl c) 3 then
    let (b, cause) := jobRead s c.fn (rResid c) 0x10010
    let adm := bitmapGroups cm.groups ((b.drop 0x10).take 32768)
    if cause ≠ 0 ∨ fld b 0 4 ≠ c.seq then some (closeAll s c cm CONFLICT (closeBody 0 0 0 5))
    else if adm.all (fun g => (readyGroups s c cm).contains g) then
      some (closeWith s c cm adm (bitmapGroups cm.groups (b.drop 0x8010)) false)
    else none
  else if (readyGroups s c cm).length = cm.groups then some (closeNow s c cm)
  else none

/-! ## Residual slots (R430, R440) -/

/-- A residual slot as it is written. -/
def slotImage (l : Late) (first : Nat) (ps : List (Bytes × Nat)) : List (Bytes × Nat) :=
  let h := toLe 4 1 ++ toLe 4 l.members ++ toLe 4 first ++ toLe 4 l.count ++ toLe 2 l.epoch ++ toLe 4 l.seq
  (h ++ List.replicate (64 - h.length) 0, 0) :: ps

/-- A transaction of a Reduce station that serves no descriptor. -/
def looseSend (s : State) (die fn m dd off : Nat) (ps : List (Bytes × Nat)) (tag : Nat) : State :=
  match sendFail s m dd with
  | some _ => s
  | none => sendPieces s (die * 4096) tag 0 fn m dd 1 (poisonPieces off (joinSame ps)) DONE

/-- Write chunks at a packed fabric address for a function: at once on the own die, else by the fabric. -/
def writeFab (s : State) (die fn addr : Nat) (ps : List (Bytes × Nat)) : State :=
  let (m, dd, off) := unpackFab addr
  if toSelf s m && dd == die then
    match windowAt s die off with
    | some w => (writeChunks s die w.owner (w.base + off % 2 ^ 35) (joinSame ps)).1
    | none => s
  else looseSend s die fn m dd off ps 65536

/-- The residual entry of a map whose old area and range cover a slot: new area, new first element, new shard size
(R438-R440). -/
def mapSlot (entries : List Bytes) (resid first count : Nat) : Option (Nat × Nat × Nat) :=
  (entries.find? (fun e => bit (fld e 0x1C 2) 14 && fld e 0 8 % 2 ^ 52 == resid &&
      decide (fld e 0x18 4 ≤ first ∧ first + count ≤ fld e 0x18 4 + fld e 0x10 4))).map
    (fun e => (fld e 8 8, fld e 0x14 4 + (first - fld e 0x18 4), fld e 0x10 4))

/-- A partial of a deferred group has arrived: it fills its slot, is carried through the retained map, or is discarded
(R430, R440). -/
def placeLate (s : State) (l : Late) : State :=
  let drop (s : State) : State := addF s F.RD_CNT_RES_DROP_RES_DROP l.die 0 1
  let ps := packRowAcc (readPacked s l.fn (l.count / 32 + 1) l.stage l.count).1
  if l.consumed then drop s
  else if curEpoch s l.die l.fn = l.epoch then
    (writeChunks s l.die l.fn (slotAt l.resid l.shard l.index) (joinSame (slotImage l l.first ps))).1
  else
    match (tgetD s.maps (epochKey l.die l.fn) []).find? (fun m => m.old == l.epoch) with
    | none => drop s
    | some m =>
      match mapSlot m.entries l.resid l.first l.count with
      | none => drop s
      | some (addr, first, size) =>
        let s := addF s F.RD_CNT_MAPFWD_MAPFWD l.die 0 1
        writeFab s l.die l.fn (addr + (slotAt 0 size l.index)) (slotImage { l with epoch := m.new } first ps)

/-- The first deferred group whose partial has arrived. -/
def lateStep (s : State) : Option State :=
  match s.lates.find? (fun l => (noteOf s l.die l.slot l.seq l.rank 2).isSome &&
      (l.rank != ((getComm s l.die l.slot).map (·.rank)).getD 0 || (callAt s l.die l.slot l.seq).all (fun c => decide (c.phase ≥ 4)))) with
  | none => none
  | some l =>
    let ended := (callAt s l.die l.slot l.seq).isNone
    let s := placeLate { s with lates := s.lates.filter (· != l) } l
    some (if ended then dropNotes s l.die l.slot l.seq else s)

/-- What the residual slots of an area add to a shard (R430). -/
structure Resid where
  rows : List (Accum × Nat)
  members : Nat
  added : Bool
  stale : Nat
  clear : List Nat
  deriving DecidableEq, Repr

/-- Read the residual slots of a reduction. -/
def readResid (s : State) (c : RdCall) (cm : Comm) : Resid :=
  let (a, n) := shardRange c cm cm.rank
  (List.range (if rResid c = 0 then 0 else rSlots c)).foldl (fun (x : Resid) q =>
    let at_ := slotAt (rResid c) (rS c cm) q
    let h := (jobRead s c.fn at_ 64).1
    if fld h 0 4 ≠ 1 then x
    else
      let f := fld h 8 4
      let k := fld h 0xC 4
      if a ≤ f ∧ f + k ≤ a + n then
        let r := (readPacked s c.fn (k / 32 + 1) (at_ + 64) k).1
        { x with rows := sumRows x.rows (List.replicate (f - a) (Accum.zero, 0) ++ r), members := x.members + fld h 4 4,
                 added := true, clear := x.clear ++ [at_] }
      else { x with stale := x.stale + 1, clear := x.clear ++ [at_] }) ⟨[], 0, false, 0, []⟩

/-! ## Accumulator blocks (R446) -/

/-- Shared accumulator blocks of a die's Reduce station that no call holds: a call holds its own until its output has been written. -/
def accFree (s : State) (die : Nat) : Nat :=
  8192 - 8 * getF s F.RD_ACC_FLOOR_FLOOR die - ((s.calls.filter (fun c => c.die == die)).map (fun c =>
    match descOf s c.queue c.tag with
    | some d => if d.retired.any (fun r => r.idx == c.acc.1) then 0 else c.acc.2
    | none => 0)).foldl (· + ·) 0

/-- A shard's chunks take shared blocks while the pool has them; of the chunks beyond, which had to wait on a floor follows from the time they
take, and is a free amount (R446; log entry 19). -/
def takeAcc (s : State) (c : RdCall) (n : Nat) : State × Nat :=
  let k := ceilDiv n 4096
  let shared := min k (accFree s c.die / 64)
  if shared < k then
    let (x, s) := freshFree s
    (addF s F.RD_CNT_ACCWAIT_ACCWAIT c.die 0 ((Config.freeWord x).toNat % (k - shared + 1)), 64 * shared)
  else (s, 64 * shared)

/-! ## The final sum (R425 stage 4, R429, R430) -/

/-- Cut a row of output elements into writes: runs of clean and of poisoned lines (R432, R627). -/
def outWrites (va : Nat) (ctr : Nat) (codes : List (Bytes × Nat)) : List JobWrite :=
  let b := ((codes.head?).map (·.1.length)).getD 1
  let line (i : Nat) : Nat := (va + i * b) / 64
  let bad := (codes.zipIdx.filter (fun p => p.1.2 != 0)).map (fun p => line p.2)
  let cut := joinSame (codes.zipIdx.map (fun p => (p.1.1, b2n (bad.contains (line p.2)))))
  let ws := (cut.foldl (fun (a : Nat × List JobWrite) p =>
    (a.1 + p.1.length, a.2 ++ ((chunks (p.1.length / 65536 + 1) 65536 p.1).zipIdx.map (fun x =>
      rawWrite (a.1 + 65536 * x.2) (if p.2 = 0 then x.1 else freeBytes (ctr * 2 ^ 24 + a.2.length + x.2) x.1.length)
        (if p.2 = 0 then 0 else 5) 0)))) (va, [])).2
  ws.filter (fun w => w.poison == 0) ++ ws.filter (fun w => w.poison != 0)

/-- The owner's sum, its rounded elements, and what the call then does (R425, R429, R430), under the profile and the random stream that the
call found when its first micro-command issued (R179, R181). -/
def finalSum (s : State) (d : Desc) (c : RdCall) (cm : Comm) (close : CtlRec) : State :=
  let (a, n) := shardRange c cm cm.rank
  let adm := bitmapGroups cm.groups (jobRead s c.fn (cm.rx + ctlOff cm + 0x800) (ceilDiv cm.groups 8)).1
  let late := (List.range cm.groups).filter (fun g => !adm.contains g)
  let dn := fld close.body 4 4
  let defer_ := late.take dn
  let zero : List (Accum × Nat) := List.replicate n (Accum.zero, 0)
  let base := adm.foldl (fun acc g => sumRows acc (readPacked s c.fn (n / 32 + 1) (partAt c cm g) n).1) zero
  let x := readResid s c cm
  let rows := sumRows base x.rows
  let count := fld close.body 8 4 + x.members
  let start := viewed s d (fld c.image 0x38 4)
  let cx := sumCtx start c.die c.fn (b2n (bit (rCtl c) 1)) (rOut c) (fld c.image 0x38 4) (rE c)
  let out := roundSum cx a (rows.map (fun p => accVal (rShift c) (if bit (rCtl c) 0 then count else 1) p.1))
  let codes := (out.zip rows).map (fun p => (toLe (rBo c) p.1.1, p.2.2))
  let dst := fld c.image 0x18 8 % 2 ^ 52 + (if rAll c then cm.rank * rS c cm * rBo c else 0)
  let (ctr, s) := freshFree s
  let ws := outWrites dst ctr codes
  let fl := out.foldl (fun f o => convJoin f o.2.2) ConvFlags.none
  let s := countConv s c.die fl (if cx.sr then n else 0)
  let s := x.clear.foldl (fun s q => (jobWrite s c.die c.fn q (toLe 4 0) 0).1) s
  let s := addF s F.RD_CNT_RES_DROP_RES_DROP c.die 0 x.stale
  let eat (l : Late) : Late := if l.die = c.die ∧ l.fn = c.fn ∧ l.resid = rResid c then { l with consumed := true } else l
  let new : List Late := (defer_.zipIdx).map (fun p =>
    ⟨c.die, c.slot, c.seq, p.1 * cm.size + myJ cm, c.fn, rEpoch c, rShift c, partAt c cm p.1, rResid c, p.2, a, n, rS c cm,
      cm.size, false⟩)
  let s := { s with lates := s.lates.map eat ++ (if n = 0 then [] else new) }
  let xs := sumSamples (profileFor start c.die c.fn (fld c.image 0x38 4)) cx a out
  let s := addSamples s d (fld c.image 0x38 4) cx.fmt false xs
  let s := (sampleMicros xs).foldl (fun s m => issueOne s c.queue c.tag m) s
  let result := rawWrite (cm.rx + ctlOff cm) (toLe 4 c.seq ++ toLe 4 close.arg ++ toLe 4 count) 0 0
  let (s, held) := takeAcc s c n
  let acc := (((descOf s c.queue c.tag).map (·.issued)).getD 0, held)
  let s := issueOne s c.queue c.tag (.of (pickMover s c.die) (.writes 0 (ws ++ [result])))
  let ef := b2n (dn != 0) + 2 * b2n (decide (dn < late.length)) + 4 * b2n x.added + 8 * b2n (bit (rCtl c) 3) +
    16 * b2n (x.stale != 0)
  let c := { c with phase := 5, sends := [], count := count, eflags := ef, acc := acc }
  if !rAll c then setCall s c
  else
    -- the rounded shard goes to every member's dst, poisoned where its own lines are
    let parts := ws.map (fun w => (w.geo.va, w.data, w.poison))
    if cm.mc ≠ 0xFFFF then
      let ps := parts.flatMap (fun p =>
        (writePieces (placeOf cm cm.rank p.1).2.2 p.2.1).map (fun y => (y.1, y.2, p.2.2)))
      let i := ((descOf s c.queue c.tag).map (·.issued)).getD 0
      let c := { c with gave := (List.range cm.n).foldl (fun m r => tput m r (tgetD m r 0 + n * rBo c) 0) c.gave }
      if ps.isEmpty then setCall s c
      else
        match sendFail s cm.mc 0 with
        | some st => setCall (issueOne s c.queue c.tag ⟨0x20, .plain, st, [], 0⟩) { c with sends := [(cm.rank, i)] }
        | none =>
          let s := setCall (issueOne s c.queue c.tag (.of 0x20 (.acks 1))) { c with sends := [(cm.rank, i)] }
          if stFenced s c.die 0x20 then s else sendMc s c.queue c.tag i c.fn cm.mc 1 ps DONE
    else
      let (s, c) := (List.range cm.n).foldl (fun (p : State × RdCall) r =>
        if r = cm.rank then (p.1, { p.2 with gave := tput p.2.gave r (tgetD p.2.gave r 0 + n * rBo c) 0 })
        else parts.foldl (fun (p : State × RdCall) w => giveMember p.1 p.2 cm r w.1 [(w.2.1, w.2.2)]) p) (s, c)
      setCall s c

/-- Bytes that a member must have given before its shard of an all-reduce is here (R425). -/
def wantBytes (s : State) (c : RdCall) (cm : Comm) (r : Nat) : Nat :=
  let a := if cm.size > 1 ∧ r / cm.size = myG cm then stageABytes c cm else 0
  let b := if r % cm.size = myJ cm then
      (readPacked s c.fn ((shardRange c cm cm.rank).2 / 32 + 1) (partAt c cm (r / cm.size)) (shardRange c cm cm.rank).2).2
    else 0
  a + b + (shardRange c cm r).2 * rBo c

/-- A permute of the function that was admitted before the call has closed the old epoch and not yet advanced it (R439). -/
def permuteAhead (s : State) (c : RdCall) : Bool :=
  (s.calls.takeWhile (fun x => !sameCall c x)).any (fun x =>
    x.die == c.die && x.fn == c.fn && opcode x.image == 0x64 && x.phase == 0)

/-- A call that names a closed epoch is refused: LAYOUT_STALE, RD_CNT_STALE, FAIL to its root (R437, R439). -/
def refuseStale (s : State) (c : RdCall) (cm : Comm) : State :=
  endCall (callFail (addF s F.RD_CNT_STALE_STALE c.die 0 1) c cm LAYOUT_STALE) c LAYOUT_STALE (rdDetail 0 0 0)

/-- One step of a reduction that is in flight (R425-R432). -/
def reduceStep (s : State) (d : Desc) (c : RdCall) (cm : Comm) : Option State :=
  let lockstep := callWindow c == 0
  match c.phase with
  | 0 =>
    -- the epoch gate of R437 and R439
    let cur := curEpoch s c.die c.fn
    if epochBefore (rEpoch c) cur || (permuteAhead s c && rEpoch c == cur) then some (refuseStale s c cm)
    else if rEpoch c ≠ cur then none
    else if cm.size = 1 then
      let (s, c) := stageB s c cm
      some (setCall s { c with phase := 3 })
    else
      let (s, c) := stageA s c cm
      some (setCall s { c with phase := 1 })
  | 1 =>
    match sendsBad d c with
    | some st => some (callFail s c cm st)
    | none =>
      if sendsOver d c then
        let s := setCall s { c with phase := 2, sends := [] }
        some (sendData s c cm ((List.range cm.size).map (· + myG cm * cm.size)) [])
      else none
  | 2 =>
    if (List.range cm.size).all (fun i =>
        match gotBytes s c (myG cm * cm.size + i) with
        | some k => decide (k ≥ stageABytes c cm)
        | none => false) then
      let (s, c) := stageB s c cm
      some (setCall s { c with phase := 3 })
    else none
  | 3 =>
    match (if lockstep then sendsBad d c else none) with
    | some st => some (callFail s c cm st)
    | none =>
      if sendsOver d c then
        let s := setCall s { c with phase := 4, sends := [] }
        let s := sendData s c cm ((List.range cm.groups).map (fun k => k * cm.size + myJ cm)) []
        some (sendRec s c cm 0 1 0 (readyBody c cm []))
      else none
  | 4 =>
    match closeOf s c with
    | none => none
    | some x => some (finalSum s d c cm x)
  | 5 =>
    match (if lockstep then sendsBad d c else none) with
    | some st => some (callFail s c cm st)
    | none =>
      if !rAll c then
        if onlyHold d then
          let st := ((closeOf s c).map (·.arg)).getD DONE
          let bad := poisonIn s c.fn (fld c.image 0x18 8 % 2 ^ 52) ((shardRange c cm cm.rank).2 * rBo c)
          some (endCall (addF s F.RD_CNT_REDUCE_REDUCE c.die 0 1) c (if bad then FAULT_POISON else st)
            (rdDetail 0 c.count c.eflags) (!lockstep))
        else none
      else if sendsOver d c then
        let s := setCall s { c with phase := 6, sends := [] }
        some (sendData s c cm (List.range cm.n) [])
      else none
  | _ =>
    if onlyHold d && (List.range cm.n).all (fun r =>
        match gotBytes s c r with
        | some k => decide (k ≥ wantBytes s c cm r)
        | none => false) then
      let st := ((closeOf s c).map (·.arg)).getD DONE
      let bad := poisonIn s c.fn (fld c.image 0x18 8 % 2 ^ 52) (rE c * rBo c)
      some (endCall (addF s F.RD_CNT_REDUCE_REDUCE c.die 0 1) c (if bad then FAULT_POISON else st)
        (rdDetail 0 c.count c.eflags) (!lockstep))
    else none

end Sys2Proof.Machine
end

