-- ==== Sys2Proof/Machine/Exchange.lean ====
section
/-! DEFINITION. RD_GATHER, the service of weight shards, RD_A2A, and RD_PERMUTE (R302-R305, R433-R441). -/

namespace Sys2Proof.Machine

open Sys2Proof

/-! ## All-gather and broadcast (R433) -/

/-- Gather mode. -/
def gMode (c : RdCall) : Nat := fld c.image 0x29 1
/-- Bytes of each member. -/
def gBytes (c : RdCall) : Nat := fld c.image 0x20 4
/-- Ranks that send in modes 0 and 1. -/
def gSenders (c : RdCall) (cm : Comm) : List Nat := if gMode c = 0 then List.range cm.n else [fld c.image 0x24 4]
/-- Place of a sender's data in a member's dst. -/
def gDst (c : RdCall) (r : Nat) : Nat := fld c.image 0x18 8 % 2 ^ 52 + (if gMode c = 0 then r * gBytes c else 0)

/-- Send own data to every member, through the multicast group where one is defined (R433). -/
def gatherSend (s : State) (c : RdCall) (cm : Comm) : State × RdCall :=
  let ps := readLines s c.fn (fld c.image 0x10 8 % 2 ^ 52) (gBytes c)
  let va := gDst c cm.rank
  if cm.mc ≠ 0xFFFF then
    let xs := poisonPieces (placeOf cm cm.rank va).2.2 (joinSame ps)
    let i := ((descOf s c.queue c.tag).map (·.issued)).getD 0
    let c := { c with gave := (List.range cm.n).foldl (fun m r => tput m r (gBytes c) 0) [], sends := [(cm.rank, i)] }
    match sendFail s cm.mc 0 with
    | some st => (issueOne s c.queue c.tag ⟨0x20, .plain, st, [], 0⟩, c)
    | none =>
      let s := issueOne s c.queue c.tag (.of 0x20 (.acks 1))
      (if stFenced s c.die 0x20 then s else sendMc s c.queue c.tag i c.fn cm.mc 1 xs DONE_PARTIAL, c)
  else (List.range cm.n).foldl (fun (p : State × RdCall) r => giveMember p.1 p.2 cm r va ps) (s, c)

/-- Every sender's data is here. -/
def gatherHere (s : State) (c : RdCall) (cm : Comm) : Bool :=
  (gSenders c cm).all (fun r => match gotBytes s c r with
    | some k => decide (k ≥ gBytes c)
    | none => false)

/-- Poison in what a member received (R432). -/
def gatherBad (s : State) (c : RdCall) (cm : Comm) : Bool :=
  (gSenders c cm).any (fun r => poisonIn s c.fn (gDst c r) (gBytes c))

/-- The window of a gather has passed at this member: it gives up the receivers that are missing, and what it has not
received it does not get (R433). -/
def gatherExpire (s : State) (d : Desc) (c : RdCall) (cm : Comm) : State :=
  let pend := c.sends.filter (fun x => !(d.retired.any (fun r => r.idx == x.2)))
  let left (s : State) : List (Nat × Nat) := pend.filter (fun x =>
    (microsOf s c.queue c.tag).any (fun m => m.idx == x.2 && !m.ready))
  let missing := left s
  let mcGot := ((s.mcSends.filter (fun m => m.queue == c.queue && m.tag == c.tag)).map (fun m =>
    (m.acked.filter (fun a => decide (a.2 ≥ m.writes.length))).length)).foldl (· + ·) 0
  let s := missing.foldl (fun s x => failMicro s c.queue c.tag x.2 DONE_PARTIAL) s
  let count := if missing.isEmpty then cm.n else if cm.mc ≠ 0xFFFF then mcGot else cm.n - missing.length
  setCall s { c with expired := true, count := count, worst := if gatherHere s c cm then c.worst else LINK_LOST }

/-! ## Shard gathers (R302-R305, R434, R435) -/

/-- A gather that its owner serves or refuses, before its bytes are sent (R302): the shard entry after it and the outcome:
none it waits, a status it is refused, DONE it is served. -/
def shardMode (x : Shard) (mode : Nat) : Shard × Option Nat :=
  match x.state with
  | 0 => (x, some CONFLICT)
  | 3 => (x, none)
  | st =>
    match mode with
    | 1 => if st = 2 ∨ x.refs ≥ 65535 then (x, none) else ({ x with refs := x.refs + 1 }, some DONE)
    | 2 => ({ x with refs := x.refs - 1 }, some DONE)
    | _ => (x, some DONE)

/-- Bytes of the requests of one requester in a call that have been served, this one included. -/
def servedBytes (s : State) (v : Serve) : Nat :=
  ((s.serves.filter (fun x => x.die == v.die && x.slot == v.slot && x.seq == v.seq && x.rank == v.rank && x.told &&
      x.status == 0)).map (fun x => fld x.entry 0x18 4)).foldl (· + ·) (if v.status = 0 then fld v.entry 0x18 4 else 0)

/-- Replace a request. -/
def setServe (s : State) (v : Serve) : State :=
  { s with serves := updFirst (fun x => x.die == v.die && x.slot == v.slot && x.seq == v.seq && x.rank == v.rank &&
      x.index == v.index) (fun _ => v) s.serves }

/-- Tell the requester how its entry ended: the bytes so far, with the version served (log entry 42). -/
def tellServe (s : State) (v : Serve) : State :=
  match getComm s v.die v.slot with
  | none => setServe s { v with told := true }
  | some cm =>
    let x : CtlRec := ⟨2, v.slot, cm.rank, v.seq, servedBytes s v,
      toLe 4 v.step ++ toLe 2 v.epoch ++ toLe 2 0 ++ toLe 1 v.status⟩
    let s := setServe s { v with told := true }
    if v.rank = cm.rank then addNote s v.die x
    else
      let (m, dd, off) := placeOf cm v.rank (cm.rx + 64 * cm.rank)
      looseSend s v.die cm.owner m dd off [(recBytes x, 0)] 65536

/-- Send the data of a request (R434): read at its place in a memory window of the owner, with the version as it is now. -/
def sendServe (s : State) (v : Serve) (x : Shard) : State :=
  match getComm s v.die v.slot with
  | none => setServe s { v with waiting := false, told := true }
  | some cm =>
    let off := fld v.entry 8 8 % 2 ^ 43
    let n := fld v.entry 0x18 4
    let v := { v with waiting := false, step := x.step, epoch := x.epoch }
    match windowAt s v.die off with
    | none => tellServe s { v with status := FAULT_TRANSLATION }
    | some w =>
      if w.kind ≠ 0 ∨ off % 2 ^ 35 + n > w.len * region then tellServe s { v with status := FAULT_PROTECTION }
      else
        let ps := readLines s w.owner (w.base + off % 2 ^ 35) n
        let dst := fld v.entry 0x10 8 % 2 ^ 52
        if v.rank = cm.rank then
          let (s, e) := writeChunks s v.die cm.owner dst (joinSame ps)
          tellServe s { v with status := e }
        else
          let (m, dd, o) := placeOf cm v.rank dst
          let xs := poisonPieces o (joinSame ps)
          match sendFail s m dd with
          | some _ => setServe s { v with told := true }
          | none =>
            let tag := 65537 + s.stamp
            let s := { s with stamp := s.stamp + 1 }
            let s := pushMicro s v.die 0x20 ⟨v.die * 4096, tag, 0, .acks (sendCount m xs), true, xs.isEmpty, DONE, [], 0⟩
            setServe (sendPieces s (v.die * 4096) tag 0 cm.owner m dd 1 xs DONE) { v with micro := tag }

/-- The shard entry of a request is another function's, or of no owner and the function no PF (R570). -/
def shardBarred (s : State) (v : Serve) : Bool :=
  match getComm s v.die v.slot with
  | some cm => !mayUse (getF s F.SEC_SH_OWN_OWNER v.die (bits (fld v.entry 4 2) 0 10 / 64)) cm.owner
  | none => false

/-- Apply one request to its shard entry; none where it waits (R302, R303). An entry that the function may not use draws NACK reason 2
(R570). -/
def tryServe (s : State) (v : Serve) : Option State :=
  let r := fld v.entry 4 2
  let n := bits r 0 10
  if shardBarred s v then some (tellServe s { v with waiting := false, status := FAULT_PROTECTION })
  else
  let x := getShard s v.die n
  match shardMode x (bits r 10 2) with
  | (_, none) => none
  | (_, some 0x50) => some (tellServe s { v with waiting := false, status := CONFLICT })
  | (y, some _) =>
    let s := if bits r 10 2 = 2 ∧ x.refs = 0 then addF s F.RD_SH_UNDERFLOW_UNDERFLOW v.die 0 1 else s
    some (drainShard (sendServe (setShard s v.die n y) v y) v.die n)

/-- A request arrives at its owner (R434). -/
def addServe (s : State) (die : Nat) (r : CtlRec) : State :=
  let live (v : Serve) : Bool := !(v.die == die && v.slot == r.slot && decide (v.seq < r.seq) && v.told)
  let v : Serve := ⟨die, r.slot, r.seq, r.rank, r.arg, r.body, true, 0, 0, 0, 0, false⟩
  let s := { s with serves := s.serves.filter live }
  if s.serves.any (fun x => x.die == die && x.slot == r.slot && x.seq == r.seq && x.rank == r.rank && x.index == r.arg) then s
  else
    let s := { s with serves := s.serves ++ [v] }
    (tryServe s v).getD s

/-- A moved shard's waiting gathers end with LAYOUT_STALE (R305). -/
def staleServes (s : State) (die n : Nat) : State :=
  (s.serves.filter (fun v => v.die == die && v.waiting && bits (fld v.entry 4 2) 0 10 == n)).foldl
    (fun s v => tellServe s { v with waiting := false, status := LAYOUT_STALE }) s

/-- Apply a forced fence to an entry that is not in UPDATING (R305): kind 0 a new layout epoch, 1 a given version, 2 freed, 3 moved to an
owner elsewhere, 4 more than the key of the entry of this module that it moved to, which opens at its step. -/
def applyForce (s : State) (die n : Nat) (f : Nat × Nat × Nat) : State :=
  let step := (getShard s die n).step
  match f.1 with
  | 0 => openShard s die n step f.2.2
  | 1 => openShard s die n f.2.1 f.2.2
  | 2 => freeShard s die n
  | 3 => staleServes (freeShard s die n) die n
  | t + 4 => forceOpen (staleServes (freeShard s die n) die n) (t / 1024) (t % 1024) step f.2.2

/-- A forced fence reaches an entry: in UPDATING it waits for op 2 (R305). -/
def forceShard (s : State) (die n : Nat) (f : Nat × Nat × Nat) : State :=
  let x := getShard s die n
  if x.state = 3 then setShard s die n { x with force := x.force ++ [f] } else applyForce s die n f

/-- The first op 1 that waits on an entry which a forced fence has opened proceeds: the gathers that waited have been served (R305). -/
def op1Step (s : State) : Option State :=
  s.shards.findSome? (fun p =>
    if p.2.state = 1 ∧ p.2.op1.isSome then
      let die := p.1 / 1024
      let n := p.1 % 1024
      some (drainShard (setShard s die n { p.2 with state := 2 }) die n)
    else none)

/-- A pseudo micro-command of a Reduce station that serves no descriptor. -/
def looseMicro (s : State) (die tag : Nat) : Option Micro :=
  ((s.fifos ++ s.overs).filter (fun p => p.1 == fifoKey die 0x20)).flatMap (·.2) |>.find? (fun m => m.tag == tag)

/-- What a request that waits or whose data is on its way can do next. -/
def serveStep (s : State) : Option State :=
  s.serves.findSome? (fun v =>
    if v.told then none
    else if v.waiting then tryServe s v
    else
      match looseMicro s v.die v.micro with
      | some m =>
        if !m.ready then none
        else if m.status = DONE then some (tellServe s v)
        else some (setServe s { v with told := true })
      | none => some (tellServe s v))

/-- Waiting gathers of a shard entry (R301, R313). -/
def shardWaiting (s : State) (die n : Nat) : Nat :=
  (s.serves.filter (fun v => v.die == die && v.waiting && bits (fld v.entry 4 2) 0 10 == n)).length

/-- Owner of a list entry. -/
def entOwner (e : Bytes) : Nat := fld e 0 4

/-- Bytes that the owner of entry `i` has delivered once it is served. -/
def entBytes (c : RdCall) (i : Nat) : Nat :=
  (((c.plan.take (i + 1)).filter (fun e => entOwner e == entOwner (c.plan.getD i []))).map (fun e => fld e 0x18 4)).foldl
    (· + ·) 0

/-- The next request that may be sent: every earlier entry of its owner has been served (R434). -/
def nextAsk (c : RdCall) : Option Nat :=
  (List.range c.plan.length).find? (fun i =>
    !c.asked.contains i && (List.range i).all (fun j =>
      c.served.contains j || entOwner (c.plan.getD j []) != entOwner (c.plan.getD i [])))

/-- An asked entry whose owner has answered: its index and the answer. -/
def answered (s : State) (c : RdCall) : Option (Nat × CtlRec) :=
  (c.asked.filter (fun i => !c.served.contains i)).findSome? (fun i =>
    (noteOf s c.die c.slot c.seq (entOwner (c.plan.getD i [])) 2).bind (fun r =>
      if fld r.body 8 1 ≠ 0 ∨ r.arg ≥ entBytes c i then some (i, r) else none))

/-- An entry has been served: version check, version map (R304, R435). -/
def takeEntry (s : State) (c : RdCall) (i : Nat) (r : CtlRec) : State :=
  let e := c.plan.getD i []
  let ref := fld e 4 2
  let st := fld r.body 8 1
  let step := fld r.body 0 4
  let ep := fld r.body 4 2
  let off := st == 0 && bit ref 12 && (step != fld e 0x1C 4 || ep != fld e 0x20 2)
  let c := { c with served := c.served ++ [i],
                    worst := if c.worst ≠ 0 then c.worst else if st ≠ 0 then st else if off then WEIGHT_VERSION_MISMATCH else 0 }
  let s := if st = 0 ∧ bit ref 13 then
      { s with vmap := tins s.vmap (c.die * 256 + fld e 6 1) (c.fn, fld e 0x10 8 % 2 ^ 52, fld e 0x18 4, step, ep) }
    else s
  -- what the owner said of this entry is used up
  setCall { s with notes := s.notes.filter (fun p => !(p.1 == c.die && p.2 == r)) } c

/-- The layout epochs that a mode-2 gather names: those that its entries expect (R434, R437; log entry 49). -/
def gatherEpochs (c : RdCall) : List Nat := (c.plan.filter (fun e => bit (fld e 4 2) 12)).map (fun e => fld e 0x20 2)

/-- A mode-2 gather that has not begun names an epoch later than the current one: it waits at RD (R437). -/
def waitsEpoch (s : State) (c : RdCall) : Bool :=
  c.phase == 0 && (gatherEpochs c).any (fun e => epochBefore (curEpoch s c.die c.fn) e)

/-- One step of a gather that is in flight. -/
def gatherStep (s : State) (d : Desc) (c : RdCall) (cm : Comm) : Option State :=
  match c.phase with
  | 0 =>
    if gMode c = 2 then
      -- an epoch that has passed is not refused here: the version served gives WEIGHT_VERSION_MISMATCH (R441, R305; log entry 49)
      if permuteAhead s c && (gatherEpochs c).contains (curEpoch s c.die c.fn) then some (refuseStale s c cm)
      else if waitsEpoch s c then none
      else some (sendRec (setCall s { c with phase := 3 }) c cm 0 1 0 (readyBody c cm []))
    else if (gSenders c cm).contains cm.rank then
      let (s, c) := gatherSend s c cm
      some (setCall s { c with phase := 1, count := cm.n })
    else some (sendRec (setCall s { c with phase := 2, count := cm.n }) c cm 0 1 0 (readyBody c cm []))
  | 1 =>
    match (if c.expired then none else sendsBad d c) with
    | some st => some (callFail s c cm st)
    | none =>
      if sendsOver d c then
        let s := sendData (setCall s { c with phase := 2, sends := [] }) c cm (List.range cm.n) []
        some (sendRec s c cm 0 1 0 (readyBody c cm []))
      else none
  | 2 =>
    if (gatherHere s c cm || c.expired) && onlyHold d then
      let st := if c.worst ≠ 0 then c.worst else if gatherBad s c cm then FAULT_POISON
        else if c.expired && c.count != cm.n then DONE_PARTIAL else DONE
      some (endCall s c st (rdDetail 0 c.count 0) c.expired)
    else none
  | _ =>
    match answered s c with
    | some (i, r) => some (takeEntry s c i r)
    | none =>
      if statusKind c.worst = .fault ∧ c.worst ≠ WEIGHT_VERSION_MISMATCH ∧ onlyHold d then
        some (endCall s c c.worst (rdDetail 0 cm.n 0))
      else
        match (if statusKind c.worst = .fault ∧ c.worst ≠ WEIGHT_VERSION_MISMATCH then none else nextAsk c) with
        | some i =>
          let s := setCall s { c with asked := c.asked ++ [i] }
          let e := c.plan.getD i []
          if entOwner e = cm.rank then some (addServe s c.die ⟨6, c.slot, cm.rank, c.seq, i, e.take 48⟩)
          else some (sendRec s c cm (entOwner e) 6 i (e.take 48))
        | none =>
          if c.served.length = c.plan.length ∧ onlyHold d then
            let s := if c.worst = WEIGHT_VERSION_MISMATCH then addF s F.RD_SH_MISMATCH_MISMATCH c.die 0 1 else s
            let bad := c.plan.any (fun e => poisonIn s c.fn (fld e 0x10 8 % 2 ^ 52) (fld e 0x18 4))
            some (endCall s c (if c.worst ≠ 0 then c.worst else if bad then FAULT_POISON else DONE) (rdDetail 0 cm.n 0))
          else none

/-! ## All-to-all (R436) -/

/-- One step of an all-to-all that is in flight. -/
def a2aStep (s : State) (d : Desc) (c : RdCall) (cm : Comm) : Option State :=
  let src := fld c.image 0x10 8 % 2 ^ 52
  let dst := fld c.image 0x18 8 % 2 ^ 52
  let b := fld c.image 0x20 4
  match c.phase with
  | 0 =>
    let (s, c) := (List.range cm.n).foldl (fun (p : State × RdCall) j =>
      giveMember p.1 p.2 cm j (dst + cm.rank * b) (readLines p.1 c.fn (src + j * b) b)) (s, c)
    some (setCall s { c with phase := 1 })
  | 1 =>
    match sendsBad d c with
    | some st => some (callFail s c cm st)
    | none =>
      if sendsOver d c then
        let s := sendData (setCall s { c with phase := 2, sends := [] }) c cm (List.range cm.n) []
        some (sendRec s c cm 0 1 0 (readyBody c cm []))
      else none
  | _ =>
    if onlyHold d && (List.range cm.n).all (fun r => match gotBytes s c r with
        | some k => decide (k ≥ b)
        | none => false) then
      some (endCall s c (if poisonIn s c.fn dst (cm.n * b) then FAULT_POISON else DONE) (rdDetail 0 cm.n 0))
    else none

/-! ## Re-sharding (R437-R441) -/

/-- A map entry is a residual entry. -/
def mapResid (e : Bytes) : Bool := bit (fld e 0x1C 2) 14

/-- Valid residual slots under a residual entry, with their new images and places (R438, R439). -/
def residMoves (s : State) (c : RdCall) (e : Bytes) : List (Nat × List (Bytes × Nat)) :=
  let old := fld e 0 8 % 2 ^ 52
  let size := fld e 0x10 4
  (List.range 15).filterMap (fun q =>
    let h := (jobRead s c.fn (slotAt old size q) 64).1
    let f := fld h 8 4
    let k := fld h 0xC 4
    if fld h 0 4 = 1 ∧ fld e 0x18 4 ≤ f ∧ f + k ≤ fld e 0x18 4 + size then
      let ps := packRowAcc (readPacked s c.fn (k / 32 + 1) (slotAt old size q + 64) k).1
      let l : Late := ⟨c.die, 0, fld h 0x12 4, 0, c.fn, fld c.image 0x1C 2, 0, 0, 0, q, f, k, size, fld h 4 4, false⟩
      some (fld e 8 8 + slotAt 0 size q, slotImage l (fld e 0x14 4 + (f - fld e 0x18 4)) ps)
    else none)

/-- Write an entry of the map to its new place: on the own die at once, else by the fabric (R439). -/
def moveEntry (s : State) (c : RdCall) (cm : Comm) (addr : Nat) (ps : List (Bytes × Nat)) : State × RdCall :=
  let (m, dd, off) := unpackFab addr
  let r := (cm.members.findIdx? (fun x => decide (x.1 / 2 ^ 43 = addr / 2 ^ 43))).getD cm.n
  let c := { c with gave := tput c.gave r (tgetD c.gave r 0 + chunkBytes ps) 0 }
  if toSelf s m && dd == c.die then (writeFab s c.die c.fn addr ps, c)
  else
    let (s, i) := fabSend s c m dd off ps DONE
    (s, { c with sends := c.sends ++ [(0, i)] })

/-- The old version of a data entry of the map with a valid old entry changes (R305, R439): a shard that stays has the new epoch, one that
moved away leaves its entry FREE; the entry of this module that it moved to opens at the call's end, at the old step, and an owner on
another module opens its own (log entry 43). An entry in UPDATING does all of this after op 2. -/
def closeEntry (s : State) (c : RdCall) (e : Bytes) : State × RdCall :=
  let old := fld e 0x1C 2
  let new := fld e 0x1E 2
  let (m, dd, _) := unpackFab (fld e 8 8)
  if !bit old 15 then (s, c)
  else
    let o := bits old 0 10
    let x := getShard s c.die o
    let ep := fld c.image 0x1C 2
    let near := bit new 15 && toSelf s m && isComp dd
    let to_ := dd * 1024 + bits new 0 10
    if near && to_ == c.die * 1024 + o then (forceShard s c.die o (0, 0, ep), c)
    else if near && x.state == 3 then (forceShard s c.die o (4 + to_, 0, ep), c)
    else (forceShard s c.die o (3, 0, ep), { c with opens := if near then c.opens ++ [(to_, x.step)] else c.opens })

/-- The new epoch is current: the writes begin and the map is retained (R439 steps 3-5). -/
def permuteGo (s : State) (c : RdCall) (cm : Comm) : State :=
  let k := epochKey c.die c.fn
  let old := curEpoch s c.die c.fn
  let new := fld c.image 0x1C 2
  let s := { s with epochs := tput s.epochs k new 0,
                    maps := tput s.maps k (tgetD s.maps k [] ++ [⟨old, new, c.plan⟩]) [] }
  let (s, c) := c.plan.foldl (fun (p : State × RdCall) e =>
    if mapResid e then (residMoves p.1 c e).foldl (fun p x => moveEntry p.1 p.2 cm x.1 x.2) p
    else moveEntry p.1 p.2 cm (fld e 8 8) (readLines p.1 c.fn (fld e 0 8 % 2 ^ 52) (fld e 0x10 4))) (s, c)
  setCall s { c with phase := 1 }

/-- One step of a permute whose epoch has advanced. -/
def permuteStep (s : State) (d : Desc) (c : RdCall) (cm : Comm) : Option State :=
  match c.phase with
  | 0 => none
  | 1 =>
    match sendsBad d c with
    | some st => some (callFail s c cm st)
    | none =>
      if sendsOver d c then
        let (s, c) := (c.plan.filter (fun e => !mapResid e)).foldl (fun (p : State × RdCall) e => closeEntry p.1 p.2 e) (s, c)
        let s := sendRec (setCall s { c with phase := 2, sends := [] }) c cm 0 1 0 (readyBody c cm [])
        some (sendData s c cm (List.range cm.n) [])
      else none
  | _ =>
    if onlyHold d && (List.range cm.n).all (fun r => (gotBytes s c r).isSome) then
      some (endCall s c DONE (rdDetail 0 cm.n 0))
    else none

end Sys2Proof.Machine
end

