-- ==== Sys2Proof/Machine/Expert.lean ====
section
/-! DEFINITION. RD_EXPERT: the exchange of choices, the assignment of capacity, the rows, and the combine (R308-R310,
R442-R445). The inner records of an exchange and their places in staging are the model's (log entry 44). -/

namespace Sys2Proof.Machine

open Sys2Proof

/-! ## The routing table (R442) -/

/-- Key of an entry of a bank of the routing table. -/
def extKey (die bank e : Nat) : Nat := (die * 2 + bank) * 256 + e
/-- Active bank of a die's routing table. -/
def extBank (s : State) (die : Nat) : Nat := getF s F.RD_EXT_STATE_ACTIVE die
/-- The view of the active bank: hosting rank, local index, valid, for experts 0-254. -/
def extView (s : State) (die : Nat) : List (Nat × Nat × Bool) :=
  (List.range 255).map (fun e =>
    let v := tgetD s.extTab (extKey die (extBank s die) e) 0
    (bits v 0 32, bits v 32 16, bit v 48))

/-! ## The body (R443) -/

/-- Tokens. -/
def xT (c : RdCall) : Nat := fld c.image 0x28 4
/-- Capacity. -/
def xCap (c : RdCall) : Nat := fld c.image 0x2C 4
/-- Elements of a row. -/
def xD (c : RdCall) : Nat := fld c.image 0x30 2
/-- Row format. -/
def xFmt (c : RdCall) : Nat := fld c.image 0x32 1
/-- Choices of a token. -/
def xK (c : RdCall) : Nat := fld c.image 0x34 1
/-- Bytes of a row. -/
def xRow (c : RdCall) : Nat := rowBytes (xFmt c) (fld c.image 0x37 1) (xD c)
/-- Pitch of a staged row (R444). -/
def xPitch (c : RdCall) : Nat := alignTo 64 (xRow c)
/-- Local experts of a rank. -/
def localExperts (cm : Comm) (r : Nat) : Nat :=
  (cm.exch.view.filter (fun e => e.2.2 && e.1 == r)).foldl (fun n e => max n (e.2.1 + 1)) 0
/-- Hosting ranks, in ascending order. -/
def hostRanks (cm : Comm) : List Nat := (List.range cm.n).filter (fun r => cm.exch.view.any (fun e => e.2.2 && e.1 == r))
/-- Place of a slot's row at a host (R444), in the host's staging. -/
def rowAt (c : RdCall) (cm : Comm) (x i : Nat) : Nat := cm.rx + stageOff cm + (x * xCap c + i) * xPitch c
/-- Place of a slot's source, after the rows (R444). -/
def sourceAt (c : RdCall) (cm : Comm) (h x i : Nat) : Nat :=
  cm.rx + stageOff cm + localExperts cm h * xCap c * xPitch c + (x * xCap c + i) * 8
/-- Room for one list of choices. -/
def listRoom (c : RdCall) : Nat := alignTo 64 (8 * xT c * xK c)
/-- Place of the choices that rank `r` lists at host `h` in a round. -/
def itemsAt (c : RdCall) (cm : Comm) (h r round : Nat) : Nat :=
  cm.rx + stageOff cm + localExperts cm h * xCap c * (xPitch c + 8) + (2 * r + round - 1) * listRoom c
/-- Place of the outcomes that host `h` returns to member `p`. -/
def outsAt (c : RdCall) (cm : Comm) (p h round : Nat) : Nat :=
  cm.rx + stageOff cm + localExperts cm p * xCap c * (xPitch c + 8) + (2 * cm.n + 2 * h + round - 1) * listRoom c

/-- The routing record of a token and choice (R308): primary, alternate, gate. -/
def route (s : State) (c : RdCall) (t q : Nat) : Nat × Nat × Nat :=
  let v := fld (jobRead s c.fn (fld c.image 0x18 8 % 2 ^ 52 + 4 * (t * xK c + q)) 4).1 0 4
  (bits v 0 8, bits v 8 8, bits v 16 16)

/-- The host of an expert and its local index there, if the view has it. -/
def hostOf (cm : Comm) (e : Nat) : Option (Nat × Nat) :=
  match cm.exch.view[e]? with
  | some (r, l, true) => some (r, l)
  | _ => none

/-- A choice on its way: token, choice, the expert asked in this round, its host and local index. -/
structure Choice where
  token : Nat
  choice : Nat
  expert : Nat
  host : Nat
  loc : Nat
  deriving DecidableEq, Repr

/-- The choices of round 1: every primary that the view hosts (R309, R444). -/
def round1 (s : State) (c : RdCall) (cm : Comm) : List Choice :=
  (List.range (xT c)).flatMap (fun t => (List.range (xK c)).filterMap (fun q =>
    let e := (route s c t q).1
    (hostOf cm e).map (fun h => ⟨t, q, e, h.1, h.2⟩)))

/-- The slot that a host returned for place `i` of a list; none where the choice overflowed. -/
def outcome (s : State) (c : RdCall) (cm : Comm) (h round i : Nat) : Option Nat :=
  let v := fld (jobRead s c.fn (outsAt c cm cm.rank h round + 8 * i) 8).1 0 4
  if v = 2 ^ 32 - 1 then none else some v

/-- A choice with its place in its host's list. -/
def placed (l : List Choice) : List (Choice × Nat) :=
  l.zipIdx.map (fun x => (x.1, ((l.take x.2).filter (fun y => y.host == x.1.host)).length))

/-- The choices assigned in a round, with their slots. -/
def assigned (s : State) (c : RdCall) (cm : Comm) (l : List Choice) (round : Nat) : List (Choice × Nat) :=
  (placed l).filterMap (fun x => (outcome s c cm x.1.host round x.2).map (fun i => (x.1, i)))

/-- The choices of round 2: every overflowed choice with an alternate that the view hosts (R309, R444). -/
def round2 (s : State) (c : RdCall) (cm : Comm) : List Choice :=
  let got := (assigned s c cm (round1 s c cm) 1).map (·.1)
  (List.range (xT c)).flatMap (fun t => (List.range (xK c)).filterMap (fun q =>
    let (p, a, _) := route s c t q
    if got.any (fun x => x.token == t && x.choice == q && x.expert == p) then none
    else if a = 0xFF then none
    else (hostOf cm a).map (fun h => ⟨t, q, a, h.1, h.2⟩)))

/-- Send the lists of a round to every host, then LIST (R444). -/
def sendItems (s : State) (c : RdCall) (cm : Comm) (round : Nat) (l : List Choice) : State × RdCall :=
  (hostRanks cm).foldl (fun (p : State × RdCall) h =>
    let bs := (l.filter (fun x => x.host == h)).flatMap (fun x =>
      toLe 4 (x.token + x.choice * 2 ^ 24) ++ toLe 4 (cm.rank + x.loc * 2 ^ 18))
    giveMember p.1 p.2 cm h (itemsAt c cm h cm.rank round) [(bs, 0)]) (s, c)

/-- The choices a rank listed at this host in a round: token, choice, local expert. -/
def readItems (s : State) (c : RdCall) (cm : Comm) (r round n : Nat) : List (Nat × Nat × Nat) :=
  (List.range n).map (fun i =>
    let b := (jobRead s c.fn (itemsAt c cm cm.rank r round + 8 * i) 8).1
    (fld b 0 3, bits (fld b 3 1) 0 3, bits (fld b 4 4) 18 8))

/-- The LIST of a member for a round: choices listed so far, by LIST's arg (R423); the body's first byte is the round. -/
def listOf (s : State) (c : RdCall) (r round : Nat) : Option CtlRec :=
  (noteOf s c.die c.slot c.seq r 5).bind (fun x => if fld x.body 0 1 ≥ round then some x else none)

/-- Members in the order of R309: module identifier, then die. -/
def assignOrder (cm : Comm) : List Nat :=
  (List.range cm.n).mergeSort (fun a b => decide ((cm.members.getD a (0, 0)).1 / 2 ^ 43 ≤ (cm.members.getD b (0, 0)).1 / 2 ^ 43))

/-- Assign a round at its host (R309, R444): the slots taken, and the outcome of every listed choice. -/
def assignRound (cap : Nat) (round2 : Bool) (items : List (Nat × Nat × Nat × Nat × Nat))
    (hosted : List (Nat × Nat × Nat × Nat × Nat)) : List (Nat × Nat × Nat × Nat × Nat) × List (Nat × Nat × Option Nat) :=
  items.foldl (fun (a : List (Nat × Nat × Nat × Nat × Nat) × List (Nat × Nat × Option Nat)) x =>
    let (r, i, t, q, l) := x
    let used := (a.1.filter (fun y => y.1 == l)).length
    let twice := round2 && a.1.any (fun y => y.1 == l && y.2.2.1 == r && y.2.2.2.1 == t)
    if used < cap ∧ !twice then (a.1 ++ [(l, used, r, t, q)], a.2 ++ [(r, i, some used)])
    else (a.1, a.2 ++ [(r, i, none)])) (hosted, [])

/-- Every member's LIST of a round is here. -/
def listsHere (s : State) (c : RdCall) (cm : Comm) (round : Nat) : Bool :=
  (List.range cm.n).all (fun r => (listOf s c r round).isSome)

/-- A host assigns a round and returns the outcomes (R444). -/
def hostAssign (s : State) (c : RdCall) (cm : Comm) (round : Nat) : State × RdCall :=
  let count (r : Nat) : Nat :=
    let all := ((listOf s c r round).map (·.arg)).getD 0
    if round = 1 then all else all - ((listOf s c r round).map (fun x => fld x.body 4 4)).getD 0
  let items := (assignOrder cm).flatMap (fun r =>
    ((readItems s c cm r round (count r)).zipIdx).map (fun x => (r, x.2, x.1.1, x.1.2.1, x.1.2.2)))
  let (hosted, outs) := assignRound (xCap c) (round == 2) items cm.exch.hosted
  let new := hosted.drop cm.exch.hosted.length
  let s := if round = 2 then addF s F.RD_CNT_REROUTE_REROUTE c.die 0 new.length else s
  let s := new.foldl (fun s y =>
    (jobWrite s c.die c.fn (sourceAt c cm cm.rank y.1 y.2.1) (toLe 4 y.2.2.1 ++ toLe 4 (y.2.2.2.1 + y.2.2.2.2 * 2 ^ 24)) 0).1) s
  let cm := { cm with exch := { cm.exch with hosted := hosted } }
  let s := setComm s c.die c.slot cm
  let (s, c) := (List.range cm.n).foldl (fun (p : State × RdCall) r =>
    let bs := ((outs.filter (fun x => x.1 == r)).flatMap (fun x => toLe 8 (x.2.2.getD (2 ^ 32 - 1))))
    giveMember p.1 p.2 cm r (outsAt c cm r cm.rank round) [(bs, 0)]) (s, c)
  (s, { c with asked := c.asked ++ [round] })

/-- DATA of a stage of the exchange: the body's first byte is the stage. -/
def stageHere (s : State) (c : RdCall) (r stage : Nat) : Bool :=
  match noteOf s c.die c.slot c.seq r 2 with
  | some x => decide (fld x.body 0 1 ≥ stage)
  | none => false

/-- Rerouted and passed-through totals that the members reported (R310, R450). -/
def xTotals (s : State) (c : RdCall) (cm : Comm) : Nat × Nat :=
  (List.range cm.n).foldl (fun (a : Nat × Nat) r =>
    let b := ((noteOf s c.die c.slot c.seq r 1).map (·.body)).getD []
    (a.1 + fld b 16 4, a.2 + fld b 20 4)) (0, 0)

/-- The root of an exchange closes it with the totals when every member is READY. -/
def rootExpert (s : State) (c : RdCall) (cm : Comm) : Option State :=
  if (readyRanks s c cm).length = cm.n then
    let (a, b) := xTotals s c cm
    some (closeAll s c cm DONE (toLe 4 a ++ toLe 4 b))
  else none

/-- Detail bytes of an exchange (R450). -/
def xDetail (reason a b : Nat) : Bytes := toLe 1 reason ++ toLe 3 (sat (2 ^ 24 - 1) a) ++ toLe 2 (sat 65535 b)

/-! ## Dispatch (R444) -/

/-- The host part of a dispatch: assign a round whose lists are complete, or answer once the outcomes are out. -/
def hostStep (s : State) (d : Desc) (c : RdCall) (cm : Comm) : Option State :=
  if c.phase = 0 ∨ !(hostRanks cm).contains cm.rank then none
  else if c.asked.length % 2 = 1 then
    -- outcomes of a round are on their way: asked ends with the round's number
    if sendsOver d c then
      let round := c.asked.getLastD 1
      some (sendData (setCall s { c with asked := c.asked ++ [round], sends := [] }) c cm (List.range cm.n) (toLe 1 round))
    else none
  else
    let round := c.asked.length / 2 + 1
    if round ≤ 2 ∧ listsHere s c cm round then
      let (s, c) := hostAssign s c cm round
      some (setCall s c)
    else none

/-- Final outcome of every own choice, for the combine. -/
def myOutcome (s : State) (c : RdCall) (cm : Comm) : List (Nat × Nat × Option (Nat × Nat × Nat)) :=
  let a := assigned s c cm (round1 s c cm) 1 ++ assigned s c cm (round2 s c cm) 2
  (List.range (xT c)).flatMap (fun t => (List.range (xK c)).map (fun q =>
    (t, q, (a.find? (fun x => x.1.token == t && x.1.choice == q)).map (fun x => (x.1.host, x.1.loc, x.2)))))

/-- One step of a dispatch that is in flight. -/
def dispatchStep (s : State) (d : Desc) (c : RdCall) (cm : Comm) : Option State :=
  match sendsBad d c with
  | some st => some (callFail s c cm st)
  | none =>
    match hostStep s d c cm with
    | some s => some s
    | none =>
      match c.phase with
      | 0 =>
        let cm := { cm with exch := ⟨extView s c.die, [], []⟩ }
        let s := setComm s c.die c.slot cm
        let (s, c) := sendItems s c cm 1 (round1 s c cm)
        some (setCall s { c with phase := 1 })
      | 1 =>
        if sendsOver d c then
          let s := setCall s { c with phase := 2, sends := [] }
          let l := round1 s c cm
          some ((hostRanks cm).foldl (fun s h =>
            sendRec s c cm h 5 ((l.filter (fun x => x.host == h)).length) (toLe 1 1)) s)
        else none
      | 2 =>
        if (hostRanks cm).all (fun h => stageHere s c h 1) then
          let (s, c) := sendItems s c cm 2 (round2 s c cm)
          some (setCall s { c with phase := 3 })
        else none
      | 3 =>
        if sendsOver d c then
          let s := setCall s { c with phase := 4, sends := [] }
          let l1 := round1 s c cm
          let l2 := round2 s c cm
          some ((hostRanks cm).foldl (fun s h =>
            let n := (l1.filter (fun x => x.host == h)).length
            sendRec s c cm h 5 (n + (l2.filter (fun x => x.host == h)).length) (toLe 1 2 ++ toLe 3 0 ++ toLe 4 n)) s)
        else none
      | 4 =>
        if (hostRanks cm).all (fun h => stageHere s c h 2) then
          let mine := myOutcome s c cm
          let s := setComm s c.die c.slot { cm with exch := { cm.exch with mine := mine } }
          let s := addF s F.RD_CNT_PASS_PASS c.die 0 (mine.filter (fun x => x.2.2.isNone)).length
          let pitch := pitchOf (fld c.image 0x10 8)
          let (s, c) := mine.foldl (fun (p : State × RdCall) x =>
            match x.2.2 with
            | none => p
            | some (h, l, i) =>
              giveMember p.1 p.2 cm h (rowAt c cm l i)
                (readLines p.1 c.fn (addrOf (fld c.image 0x10 8) + x.1 * pitch) (xRow c))) (s, c)
          some (setCall s { c with phase := 5 })
        else none
      | 5 =>
        if sendsOver d c then
          let s := setCall s { c with phase := 6, sends := [] }
          let s := sendData s c cm (hostRanks cm) (toLe 1 3)
          let l2 := assigned s c cm (round2 s c cm) 2
          let passed := (cm.exch.mine.filter (fun x => x.2.2.isNone)).length
          some (sendRec s c cm 0 1 0 (readyBody c cm (toLe 4 l2.length ++ toLe 4 passed)))
        else none
      | 6 =>
        match closeOf s c with
        | none => none
        | some x =>
          let host := (hostRanks cm).contains cm.rank
          if onlyHold d && (!host || (List.range cm.n).all (fun r => stageHere s c r 3)) then
            let a := fld x.body 0 4
            let b := fld x.body 4 4
            let rows := (List.range (localExperts cm cm.rank)).flatMap (fun l =>
              toLe 4 (cm.exch.hosted.filter (fun y => y.1 == l)).length)
            let w := rawWrite (cm.rx + ctlOff cm) (toLe 4 c.seq ++ toLe 4 DONE ++ toLe 4 cm.n ++ toLe 4 a ++ toLe 4 b ++ rows) 0 0
            some (setCall (issueOne s c.queue c.tag (.of (pickMover s c.die) (.writes 0 [w]))) { c with phase := 7 })
          else none
      | _ =>
        match closeOf s c with
        | none => none
        | some x =>
          if onlyHold d then
            let bad := cm.exch.hosted.any (fun y => poisonIn s c.fn (rowAt c cm y.1 y.2.1) (xRow c))
            some (endCall s c (if bad then FAULT_POISON else DONE) (xDetail 0 (fld x.body 0 4) (fld x.body 4 4)))
          else none

/-! ## Combine (R445) -/

/-- Place of the output row of an own choice, in the source's staging. -/
def backAt (c : RdCall) (cm : Comm) (t q : Nat) : Nat := cm.rx + stageOff cm + (t * xK c + q) * xPitch c

/-- The combined row of a token: values and the cause of poison (R121, R445). -/
def combineRow (s : State) (c : RdCall) (cm : Comm) (t : Nat) : List Val × Nat :=
  let on := cm.exch.mine.filter (fun x => x.1 == t && x.2.2.isSome)
  let rows := on.map (fun x => (elemVal 0x03 (route s c t x.2.1).2.2, jobRead s c.fn (backAt c cm t x.2.1) (xRow c)))
  ((List.range (xD c)).map (fun j =>
      let ps := rows.map (fun r => vmul r.1 (rowVal (xFmt c) (fld c.image 0x37 1) (xD c) r.2.1 j))
      if ps.isEmpty then .fin false exZero
      else
        match specialOf ps with
        | some v => v
        | none =>
          let x := windowSum (ps.map finPart)
          .fin (exNegative x) x),
    worstCause (rows.map (·.2.2)))

/-- Own choices that another expert than their primary took, the alternate (R309, R310). -/
def rerouted (s : State) (c : RdCall) (cm : Comm) : Nat :=
  (cm.exch.mine.filter (fun x => match x.2.2 with
    | some (h, l, _) => hostOf cm (route s c x.1 x.2.1).1 != some (h, l)
    | none => false)).length

/-- One step of a combine that is in flight. -/
def combineStep (s : State) (d : Desc) (c : RdCall) (cm : Comm) : Option State :=
  match c.phase with
  | 0 =>
    let pitch := pitchOf (fld c.image 0x10 8)
    let (s, c) := cm.exch.hosted.foldl (fun (p : State × RdCall) y =>
      giveMember p.1 p.2 cm y.2.2.1 (backAt c cm y.2.2.2.1 y.2.2.2.2)
        (readLines p.1 c.fn (addrOf (fld c.image 0x10 8) + (y.1 * xCap c + y.2.1) * pitch) (xRow c))) (s, c)
    some (setCall s { c with phase := 1 })
  | 1 =>
    match sendsBad d c with
    | some st => some (callFail s c cm st)
    | none =>
      if sendsOver d c then
        let s := setCall s { c with phase := 2, sends := [] }
        let s := sendData s c cm (List.range cm.n) []
        let passed := (cm.exch.mine.filter (fun x => x.2.2.isNone)).length
        some (sendRec s c cm 0 1 0 (readyBody c cm (toLe 4 (rerouted s c cm) ++ toLe 4 passed)))
      else none
  | 2 =>
    if (hostRanks cm).all (fun h => (gotBytes s c h).isSome) then
      let tensor := fld c.image 0x38 4
      let start := viewed s d tensor
      let p := profileFor start c.die c.fn tensor
      let cx := convCtx start c.die { p with level := 0 } 0 (fld c.image 0x33 1) 0 tensor (xD c)
      let (ctr, s) := freshFree s
      let base := addrOf (fld c.image 0x20 8)
      let pitch := pitchOf (fld c.image 0x20 8)
      let outs := (List.range (xT c)).map (fun t =>
        let (vs, cause) := combineRow s c cm t
        let r := convSeg cx t 0 vs
        (t, cause, r.1 ++ r.2.1, vs, r.2.2))
      let good := outs.filter (fun o => o.2.1 == 0)
      let bad := outs.filter (fun o => o.2.1 != 0)
      let ws : List JobWrite := good.map (fun o => rawWrite (base + o.1 * pitch) o.2.2.1 0 o.1) ++
        bad.map (fun o => rawWrite (base + o.1 * pitch) (freeBytes (ctr * 2 ^ 32 + o.1) o.2.2.1.length) 5 o.1)
      let fl := good.foldl (fun f o => convJoin f o.2.2.2.2) ConvFlags.none
      let s := countConv s c.die fl (if cx.sr then good.length * xD c else 0)
      let xs := convSamples p cx.fmt tensor (xT c) (xD c)
        (good.map (fun o => ⟨o.1, 0, samplePairs cx o.2.2.1 o.2.2.2.1⟩))
      let s := addSamples s d tensor cx.fmt false xs
      let s := (sampleMicros xs).foldl (fun s m => issueOne s c.queue c.tag m) s
      let s := issueOne s c.queue c.tag (.of (pickMover s c.die) (.writes 0 ws))
      some (setCall s { c with phase := 3, worst := if bad.isEmpty then 0 else FAULT_POISON })
    else none
  | _ =>
    match closeOf s c with
    | none => none
    | some x =>
      if onlyHold d then some (endCall s c c.worst (xDetail 0 (fld x.body 0 4) (fld x.body 4 4))) else none

end Sys2Proof.Machine
end

