-- ==== Sys2Proof/Machine/Calls.lean ====
section
/-! DEFINITION. How collectives go on: the root's part, the members' steps, the calls that are abandoned (R417-R445). -/

namespace Sys2Proof.Machine

open Sys2Proof

/-- The root of a call that has not closed: a failure or a disagreement ends it at every member; otherwise it closes when
its kind says so, and CLOSE goes out when the writes of a decided close have been acknowledged (R423, R428, R432). -/
def rootStep (s : State) (d : Desc) (c : RdCall) (cm : Comm) : Option State :=
  if cm.rank ≠ 0 ∨ (closeOf s c).isSome then none
  else
    match c.closing with
    | some x => if x.1.all (fun i => d.retired.any (fun r => r.idx == i)) then some (closeAll s c cm x.2.1 x.2.2) else none
    | none =>
    match (List.range cm.n).findSome? (fun r => noteOf s c.die c.slot c.seq r 4) with
    | some x => some (closeAll s c cm x.arg (closeBody 0 0 0 0))
    | none =>
      if disagree s c cm then some (closeAll s c cm CONFLICT (closeBody 0 0 0 8))
      else
        match opcode c.image with
        | 0x61 => rootReduce s c cm
        | 0x66 => rootExpert s c cm
        | _ => if (readyRanks s c cm).length = cm.n then some (closeAll s c cm DONE (closeBody 0 0 cm.n 0)) else none

/-- A call whose descriptor was aborted, cancelled or fenced: the root learns that the member does not contribute, except where
its group may be late (R432). -/
def abandonCall (s : State) (c : RdCall) (status : Nat) : State :=
  let s' := { s with calls := s.calls.filter (fun x => !sameCall c x) }
  let s := openAll (showActive s' c.die) c
  match getComm s c.die c.slot with
  | none => s
  | some cm =>
    let between := callWindow c != 0 && opcode c.image == 0x61 && (cm.size == 1 || decide (c.phase ≥ 3))
    let s :=
      if opcode c.image = 0x60 ∨ c.failed ∨ between then s
      else if cm.rank = 0 then (if (closeOf s c).isSome then s else closeAll s c cm status (closeBody 0 0 0 0))
      else sendRec s c cm 0 4 status []
    dropNotes s c.die c.slot c.seq

/-- One step of a call, if it can make one. -/
def callStep (s : State) (c : RdCall) : Option State :=
  match descOf s c.queue c.tag with
  | none => some (abandonCall s c LINK_LOST)
  | some d =>
    if d.seqr = 5 ∨ d.override.isSome then some (abandonCall s c (if d.override = some FENCED then FENCED else LINK_LOST))
    else if !inFlight s c then none
    else
      match getComm s c.die c.slot with
      | none => none
      | some cm =>
        if opcode c.image = 0x60 then
          some (endCall { s with comms := tdel s.comms (commKey c.die c.slot) } c DONE (rdDetail 0 cm.n 0))
        else
          match rootStep s d c cm with
          | some s => some s
          | none =>
            match closeOf s c with
            | some x =>
              if statusKind x.arg = .fault then
                some (endCall s c x.arg (if opcode c.image = 0x66 then xDetail (fld x.body 12 1) 0 0
                  else rdDetail (fld x.body 12 1) (fld x.body 8 4) 0))
              else memberStep s d c cm
            | none => memberStep s d c cm
where
  /-- The member's part, unless it has already failed. -/
  memberStep (s : State) (d : Desc) (c : RdCall) (cm : Comm) : Option State :=
    if c.failed then (if (closeOf s c).isSome then some (endCall s c DONE (rdDetail 0 0 0)) else none)
    else
      match opcode c.image with
      | 0x61 => reduceStep s d c cm
      | 0x62 => gatherStep s d c cm
      | 0x63 => a2aStep s d c cm
      | 0x64 => permuteStep s d c cm
      | _ => if fld c.image 0x35 1 = 0 then dispatchStep s d c cm else combineStep s d c cm

/-- One consequence for the Reduce stations, if there is one. -/
def callsStep (s : State) : Option State :=
  match s.calls.findSome? (callStep s) with
  | some s => some s
  | none =>
    match lateStep s with
    | some s => some s
    | none =>
      match reviveStep s with
      | some s => some s
      | none =>
        match serveStep s with
        | some s => some s
        | none => op1Step s

/-- How many consequences the Reduce stations can have at once: a bounded number for each call, record and request. -/
def callsFuel (s : State) : Nat :=
  24 * s.calls.length + s.lates.length + 2 * s.shards.length + 4 * s.serves.length + (s.calls.map (fun c => 4 * c.plan.length)).foldl (· + ·) 0

end Sys2Proof.Machine
end

