-- ==== Sys2Proof/Machine/TierOps.lean ====
section
/-! DEFINITION. The tier manager's shared operations: which regions are free, where a region is placed, how a request on
a home record is evaluated, how a move ends (R324, R329-R337, R341, R342, R480, R528). -/

namespace Sys2Proof.Machine

open Sys2Proof

/-! ## Ownership and free regions -/

/-- HBM granule `g` lies in the partner area (R528). -/
def inPartner (s : State) (g : Nat) : Bool := decide (96 - s.partGran ≤ g % 96)

/-- Function `fn` owns HBM granule `g` (R324, R528). -/
def ownsGran (s : State) (fn g : Nat) : Bool :=
  decide (g < 3072) && !inPartner s g && ownerOf (getF s F.TM_GRAN_OWN_OWNER f0 g) == some fn

/-- Function `fn` owns far granule `g` (R324). -/
def ownsFar (s : State) (fn g : Nat) : Bool :=
  decide (g < 4096) && ownerOf (getF s F.TM_FGRAN_OWN_OWNER f0 g) == some fn

/-- Granule `g` holds the translation tables of some function (R324). -/
def isTableGran (s : State) (g : Nat) : Bool :=
  (List.range 68).any (fun f => flag s F.TM_FN_TBL_VALID f0 f && getF s F.TM_FN_TBL_GRAN f0 f == g)

/-- HBM region `r` lies in the KV pool of its die (R259). -/
def inKvPool (s : State) (r : Nat) : Bool :=
  let d := r / 98304
  decide (getF s F.PG_KV_BASE_BASE d ≤ r) &&
    decide (r < getF s F.PG_KV_BASE_BASE d + getF s F.PG_KV_COUNT_COUNT d)

/-- A home record, a move or an unreleased source uses a location of a tier. -/
def recordUses (s : State) (tier loc : Nat) : Bool :=
  s.homes.any (fun p => p.2.tier == tier && p.2.location == loc && p.2.state != 3) ||
  s.moves.any (fun m => m.copying && m.tier == tier && m.location == loc) ||
  s.releases.any (fun x => x.tier == tier && x.location == loc)

/-- Regions that a page walker still holds: detached ones, and both ends of remaps (R263). -/
def pgHeld (s : State) (a : Nat) : Bool :=
  s.remaps.any (fun r => r.old == a || (r.addr == a && r.copied != some false)) ||
  s.seqs.any (fun p => match p.2.current with
    | some e => e.held.contains a
    | none => false)

/-- A fixed, interleaved or sequence page uses the physical region at `a`, or a page walker holds it (R322, R323). -/
def pageUses (s : State) (a : Nat) : Bool :=
  pgHeld s a || s.pages.any (fun p =>
    match p.2.kind with
    | 0 => decide (p.2.backing ≤ a) && decide (a < p.2.backing + (if p.2.large then 2 ^ 30 else region))
    | 1 => inHbm a && a % stackBytes / region == p.2.backing / 32
    | 2 => false
    | _ => p.2.backing == a)

/-- A request in flight was issued against the region at an address (R325, R330). -/
def issuedOn (s : State) (a : Nat) : Bool :=
  s.reqs.any (fun p => p.2.any (fun r => r.spans.any (fun o => o.any (fun sp =>
    decide (sp.addr < a + region) && decide (a < sp.addr + sp.len)))))

/-- HBM region `r` is free for a managed region of `fn` (R259, R324, R480, R582). -/
def hbmFree (s : State) (fn r : Nat) : Bool :=
  ownsGran s fn (r / 512) && !isTableGran s (r / 512) && !inKvPool s r && tgetD s.stackState (r / 49152) 0 == 0 &&
    tgetD s.drains (r / 49152) 0 != 3 &&
    !recordUses s 0 r && !pageUses s (r * region) && !issuedOn s (r * region)

/-- Far region number `r` is free for a managed region of `fn`. -/
def farFree (s : State) (fn r : Nat) : Bool :=
  ownsFar s fn (r / 512) && inFar s (farBase + r * region) && !recordUses s 1 r && !pageUses s (farBase + r * region) &&
    !issuedOn s (farBase + r * region)

/-- Bytes of snapshot reserve are set in GiB for the module (R531); its share on one M die, in 2 MiB units. -/
def flashReserve (s : State) : Nat := getF s F.SN_LOCAL_RSV_GIB f0 * 512 / 8

/-- User flash of an M die in 2 MiB units: 6 TB over its eight channels, less absent ones (R27, R314). -/
def flashUnits (s : State) (m : Nat) : Nat :=
  let absent := ((List.range 8).filter (fun b => bit (getF s F.TM_FLASH_STATE_ABSENT m) b)).length
  2861022 * (8 - absent) / 8

/-- 2 MiB units that objects take on each M die: they are striped over all eight (R349). -/
def objectUnits (s : State) : Nat :=
  (s.objects.map (fun o => ceilDiv (ceilDiv o.data.length region) 8)).foldl (· + ·) 0

/-- Flash locations of an M die that managed regions use. -/
def flashUsed (s : State) (m : Nat) : Nat :=
  (s.homes.filter (fun p => p.2.tier == 2 && p.2.location / 2 ^ 29 == m && p.2.state != 3)).length +
  (s.moves.filter (fun x => x.copying && x.tier == 2 && x.location / 2 ^ 29 == m)).length +
  (s.releases.filter (fun x => x.tier == 2 && x.location / 2 ^ 29 == m)).length

/-- Free user flash of an M die in 2 MiB units (R349, R350). -/
def flashFree (s : State) (m : Nat) : Nat := flashUnits s m - flashReserve s - objectUnits s - flashUsed s (m - 24)

/-- Search `fuel` numbers from `a` for the first that satisfies a test. -/
def searchUp (p : Nat → Bool) : Nat → Nat → Option Nat
  | 0, _ => none
  | fuel + 1, a => if p a then some a else searchUp p fuel (a + 1)

/-- The far tier of M die `m` takes new regions (R342, R345 reason 0x06). -/
def farUsable (s : State) (m : Nat) : Bool :=
  flag s F.TM_STATE_FAR_OK m && getF s F.TM_STATE_FAR_DEVS m != 0 && !dieFenced s m

/-- The flash tier of M die `m` takes new regions (R318, R345 reason 0x06). -/
def flashUsable (s : State) (m : Nat) : Bool :=
  flag s F.TM_STATE_FLASH_OK m && getF s F.TM_FLASH_STATE_RDONLY m == 0 && !dieFenced s m

/-- The stacks of compute die `d` take new regions. -/
def hbmUsable (s : State) (d : Nat) : Bool :=
  !dieFenced s d && (tgetD s.stackState (2 * d) 0 == 0 || tgetD s.stackState (2 * d + 1) 0 == 0)

/-- A tier takes new regions for compute die `d`. -/
def tierUsable (s : State) (tier d : Nat) : Bool :=
  match tier with
  | 0 => hbmUsable s d
  | 1 => farUsable s (mDieOf d)
  | _ => flashUsable s (mDieOf d)

/-- A free location of a tier for compute die `d` that `fn` may use: the lowest one (DESIGN CHOICE, log entry 11). -/
def placeIn (s : State) (fn tier d : Nat) : Option Nat :=
  match tier with
  | 0 => searchUp (hbmFree s fn) 98304 (d * 98304)
  | 1 =>
    let k := mDieOf d - 24
    searchUp (farFree s fn) (farRange s / region) (k * (farRange s / region))
  | _ =>
    let m := mDieOf d
    if flashFree s m = 0 then none
    else searchUp (fun l => !recordUses s 2 l && !issuedOn s (locAddr 2 l)) (flashUnits s m) ((m - 24) * 2 ^ 29)

/-- The compute die or M die at which a location lies is the target's. -/
def atTarget (s : State) (tier loc d : Nat) : Bool :=
  match tier with
  | 0 => loc / 98304 == d
  | 1 => loc / (farRange s / region) == mDieOf d - 24
  | _ => loc / 2 ^ 29 == mDieOf d - 24

/-- Replace a home record. -/
def setHome (s : State) (r : Nat) (h : HomeRec) : State := { s with homes := tput s.homes r h HomeRec.empty }

/-- The M die that keeps a home record (R327). -/
def homeM (r : Nat) : Nat := 24 + r / 524288

/-! ## Micro-commands of the tier manager -/

/-- The FIFO key that holds the requests a descriptor has with the tier manager. -/
def tierStation : Nat := 0x34

/-- A request of a descriptor starts. -/
def beginTier (s : State) (q tag : Nat) : State :=
  match descOf s q tag with
  | none => s
  | some d =>
    let die := qDie q
    let s := setFifo s die tierStation (fifo s die tierStation ++
      [⟨q, tag, d.issued, .event 1, true, false, DONE, [], 0⟩])
    updDesc s q tag (fun d => { d with issued := d.issued + 1, unretired := d.unretired + 1 })

/-- A request that ends at once. -/
def noteTier (s : State) (q tag status : Nat) : State :=
  updDesc s q tag (fun d =>
    { d with issued := d.issued + 1, retired := d.retired ++ [⟨d.issued, status, seqStation d, []⟩] })

/-- The oldest request of a descriptor ends. -/
def endTier (s : State) (q tag status : Nat) : State :=
  let die := qDie q
  match (fifo s die tierStation).find? (fun m => m.queue == q && m.tag == tag) with
  | none => s
  | some m =>
    let s := setFifo s die tierStation (delFirst (fun m => m.queue == q && m.tag == tag) (fifo s die tierStation))
    updDesc s q tag (fun d =>
      { d with unretired := d.unretired - 1, retired := d.retired ++ [⟨m.idx, status, seqStation d, []⟩] })

/-! ## Requests on a home record -/

/-- How a request on a record comes out (R332-R335): an end with a status and an eflag, or a move that starts. -/
inductive MoveOut where
  | ends (status eflag : Nat)
  | starts
  deriving DecidableEq, Repr

/-- The record is within its settle time (R334). -/
def settling (s : State) (h : HomeRec) : Bool :=
  h.changed && decide (now s < h.settleTick + getF s F.TM_SETTLE_SETTLE (mDieOf h.home) * 100)

/-- A move to `tier` is in the direction opposite to the last move (R334). -/
def opposite (h : HomeRec) (tier : Nat) : Bool := if h.slower then decide (tier < h.tier) else decide (h.tier < tier)

/-- Evaluate a request against the record as it stands (R330, R332, R334, R335, R342, R346). -/
def evalMove (s : State) (m : Move) : State × MoveOut :=
  let h := getHome s m.record
  if h.state = 3 then (s, .ends FENCED 0)
  else if h.tier = m.tier ∧ atTarget s m.tier h.location m.die then (s, .ends DONE 2)
  else if h.tier < m.tier ∧ (h.readers ≠ 0 ∨ h.hostPin) then
    (addF s F.TM_CNT_PINNED_PINNED (homeM m.record) 0 1, .ends PINNED 8)
  else if settling s h ∧ opposite h m.tier ∧ m.prio ≤ h.prio then
    (addF s F.TM_CNT_SETTLING_SETTLING (homeM m.record) 0 1, .ends SETTLING 4)
  else if !tierUsable s m.tier m.die then (s, .ends FENCED 0)
  else
    match placeIn s h.owner m.tier m.die with
    | none => (s, .ends TIER_FULL 0)
    | some l =>
      let s := setHome s m.record { h with state := if h.tier < m.tier then 1 else 2 }
      ({ s with moves := s.moves ++ [m.begin_ l] }, .starts)

/-- A move of the record is in progress. -/
def moving (s : State) (r : Nat) : Bool := s.moves.any (fun m => m.record == r && m.copying)

/-- A request of the schedule or of the module itself ends (R291): PINNED and TIER_ERROR count as failed stash moves. -/
def noteOrigin (s : State) (origin status : Nat) : State :=
  if origin = 0 then s
  else if status = PINNED ∨ status = TIER_ERROR then
    addF s F.QUE_ST_MOVEFAIL_MOVEFAIL ((origin - 1) / 4) ((origin - 1) % 4) 1
  else s

/-- Change the tier job of a descriptor. -/
def updJob (s : State) (q tag : Nat) (f : TierJob → TierJob) : State :=
  { s with tierJobs := updFirst (fun j => j.queue == q && j.tag == tag) f s.tierJobs }

/-- Give a request its outcome: to its descriptor, or to whoever asked (R346). -/
def answerMove (s : State) (m : Move) (status eflag : Nat) : State :=
  match m.asker with
  | some (q, tag, _) =>
    endTier (updJob s q tag (fun j => { j with eflags := j.eflags ||| eflag, acted := j.acted + b2n (status == DONE) }))
      q tag status
  | none => noteOrigin s m.origin status

/-- A request that names no descriptor (R290, R291, R336, R480): it waits behind a move in progress, or is evaluated. -/
def requestMove (s : State) (m : Move) : State :=
  if moving s m.record then { s with moves := s.moves ++ [{ m with copying := false }] }
  else
    match evalMove s m with
    | (s, .ends st _) => noteOrigin s m.origin st
    | (s, .starts) => s

/-- Requests for every managed region of an extent (R290, R291). -/
def requestExtent (s : State) (fn va tier die prio origin : Nat) : Nat → State
  | 0 => s
  | n + 1 =>
    let s := requestExtent s fn va tier die prio origin n
    match findPage s fn (va + n * region) with
    | some (_, p) =>
      if p.kind = 2 then requestMove s (.ask p.backing tier die prio none origin) else s
    | none => s

/-! ## Unmapping -/

/-- A critical stack that holds no managed region and no sequence page, and onto which no page maps, is fenced (R480).
-/
def stackEmpty (s : State) (n : Nat) : Bool :=
  !(s.homes.any (fun p => p.2.tier == 0 && p.2.location / 49152 == n && p.2.state != 3)) &&
  !(s.moves.any (fun m => m.copying && m.tier == 0 && m.location / 49152 == n)) &&
  !(s.releases.any (fun x => x.tier == 0 && x.location / 49152 == n)) &&
  !(s.pages.any (fun p =>
    match p.2.kind with
    | 1 => true
    | 2 => false
    | _ => p.2.backing / stackBytes == n))

/-- The heat level of a stack: 0 normal, 1 warm, 2 hot, 3 critical (R478, R491). -/
def stackLevel (s : State) (n : Nat) : Nat :=
  if n % 2 = 0 then getF s F.GV_STATE_STK0_LVL (n / 2) else getF s F.GV_STATE_STK1_LVL (n / 2)

/-! ## Service level (R554), and critical stacks that have become empty -/

/-- Something of the module is fenced or absent (R27, R554). -/
def anyFence (s : State) : Bool :=
  (List.range 32).any (fun d => dieFenced s d || getF s F.MGT_FENCE_STATIONS d != 0) ||
  s.stackState.any (fun p => p.2 == 1) ||
  (List.range 8).any (fun k => !flag s F.TM_STATE_FAR_OK (24 + k) || !flag s F.TM_STATE_FLASH_OK (24 + k) ||
    getF s F.TM_STATE_FAR_DEVS (24 + k) != 8 || getF s F.TM_FLASH_STATE_ABSENT (24 + k) != 0)

/-- MGT_SVC.LEVEL: starting, limited, full, degraded, failed (R554). -/
def levelOf (s : State) : Nat :=
  let lim := getF s F.MGT_SVC_DIES_LIMITED f0
  let full := getF s F.MGT_SVC_DIES_FULL f0
  if (dieFenced s 16 && dieFenced s 20) || decide (fencedComp s > 4) then 4
  else if lim = 0 ∧ getF s F.MGT_SVC_LEVEL f0 = 0 then 0
  else if (List.range 16).any (fun d => !dieFenced s d && bit lim d && !bit full d) then 1
  else if anyFence s then 3
  else 2

/-- Bring MGT_SVC.LEVEL up to date. -/
def showLevel (s : State) : State := setF s F.MGT_SVC_LEVEL f0 0 (levelOf s)

/-- Far pages of sequences whose far tier is lost are marked lost (R342). -/
def loseFarPages (s : State) (k : Nat) : State :=
  let n := farRange s / region
  let mark (e : PEntry) : PEntry := if e.valid && e.tier == 1 && e.region / n == k then { e with lost := true } else e
  { s with pmap := s.pmap.map (fun p => (p.1, mark p.2)) }

/-- A stack is to be emptied and fenced: it is critical, or too many of its pseudo-channels are retired (R480, R513). -/
def leavesService (s : State) (n : Nat) : Bool := stackLevel s n == 3 || tgetD s.drains n 0 == 4

/-- Fence every critical stack that has become empty (R480); the service level follows (R554). -/
def fenceEmptied (s : State) : State :=
  (List.range 32).foldl (fun s n =>
    if leavesService s n && tgetD s.stackState n 0 == 0 && stackEmpty s n then
      showLevel { s with stackState := tput s.stackState n 1 0, drains := tdel s.drains n, hotStep := tdel s.hotStep n }
    else s) s

/-- Release a home record and its location (R327, R361). -/
def freeHome (s : State) (r : Nat) : State :=
  let h := getHome s r
  let m := homeM r
  let s := { s with homes := tdel s.homes r, gens := tdel s.gens (genKeyHome r) }
  let s := setF s F.TM_REC_FREE_FREE m 0 (getF s F.TM_REC_FREE_FREE m + 1)
  if h.tracked then setF s F.MV_GEN_FREE_FREE h.home 0 (getF s F.MV_GEN_FREE_FREE h.home + 1) else s

/-- Remove the page at a key, with the record of a managed one (R325). -/
def removePage (s : State) (fn base : Nat) : State :=
  let k := pageKey fn base
  match tget? s.pages k with
  | none => s
  | some p =>
    let s := { s with pages := tdel s.pages k }
    fenceEmptied (if p.kind % 8 = 2 then freeHome s p.backing else s)

/-! ## The end of a move -/

/-- Remove a move in progress from the list. -/
def dropMove (s : State) (r : Nat) : State :=
  { s with moves := delFirst (fun m => m.record == r && m.copying) s.moves }

/-- Copy bytes, in whole lines, and the poison of their lines (R330). -/
def copyLines (s : State) (src dst n : Nat) : State :=
  let lo := src / 64
  let inSrc (p : Nat × Nat) : Bool := decide (lo ≤ p.1) && decide (p.1 < lo + n / 64)
  let mid := (s.lines.filter inSrc).map (fun p => (p.1 - lo + dst / 64, p.2))
  { s with mem := copyCells s.mem src dst n,
           lines := s.lines.filter (fun p => decide (p.1 < dst / 64)) ++ mid ++
             s.lines.filter (fun p => decide (dst / 64 + n / 64 ≤ p.1)) }

/-- Copy a region (R263, R330). -/
def copyRegion (s : State) (src dst : Nat) : State := copyLines s src dst region

/-- Flash of an M die has been written: which of its channels have become read-only, and how worn it is, the translation layer decides
(R318); log entry 127. -/
def wearFlash (s : State) (m : Nat) : State :=
  let x := (Config.freeWord s.freeCtr).toNat
  let s := (freshFree s).2
  let gone := getF s F.TM_FLASH_STATE_ABSENT m
  let rd := getF s F.TM_FLASH_STATE_RDONLY m ||| (x % 256)
  let s := setF s F.TM_FLASH_STATE_RDONLY m 0 rd
  let s := setF s F.TM_FLASH_STATE_WEAR m 0 (max (getF s F.TM_FLASH_STATE_WEAR m) (x / 256 % 256))
  if (rd ||| gone) % 256 = 255 then setF s F.TM_STATE_FLASH_OK m 0 0 else s

/-- The last steps of a successful move (R330 steps 6 and 7): record, settle time, counters. -/
def landMove (s : State) (m : Move) : State :=
  let h := getHome s m.record
  let changed := h.tier != m.tier
  let s := setHome s m.record { h with
    state := 0, tier := m.tier, location := m.location, prio := m.prio, slower := decide (h.tier < m.tier),
    changed := changed, settleTick := if changed then now s else h.settleTick, moved := now s / 2 ^ 20 % 2 ^ 16 }
  let s :=
    if !changed then s
    else if h.tier < m.tier then addF s F.TM_CNT_DEMOTE_DEMOTE (homeM m.record) 0 1
    else addF s F.TM_CNT_PROMOTE_PROMOTE (homeM m.record) 0 1
  let s := if m.tier = 2 then wearFlash s (24 + m.location / 2 ^ 29) else s
  { s with releases := s.releases ++ [⟨h.tier, h.location, m.record⟩] }

/-- Change the move of a record in progress. -/
def updMove (s : State) (r : Nat) (f : Move → Move) : State :=
  { s with moves := updFirst (fun m => m.record == r && m.copying) f s.moves }

/-- A write issued against the present location of a region is in flight. -/
def writesOn (s : State) (r : Nat) : Bool :=
  s.reqs.any (fun p => p.2.any (fun x => x.write && x.spans.any (fun o => o.any (fun sp => sp.home == some r))))

/-- A pass of a copy with no chunk left ends (R330 steps 4 and 5): the next pass takes the chunks that are dirty; after the fourth of these,
or while writes to the source are still in flight, the final phase holds new writes. -/
def turnPass (s : State) (m : Move) : Move :=
  if !m.todo.isEmpty then m
  else if m.dirty.isEmpty then (if writesOn s m.record then { m with pass := 5 } else m)
  else { m with pass := min 5 (m.pass + 1), todo := m.dirty, dirty := [] }

/-- The copy of a move goes on by up to `n` chunks of 64 KiB (R330). -/
def copyChunks (r : Nat) : Nat → State → State
  | 0, s => s
  | n + 1, s =>
    match s.moves.find? (fun m => m.record == r && m.copying) with
    | none => s
    | some m =>
      match m.todo with
      | [] => s
      | c :: rest =>
        let h := getHome s r
        let s := copyLines s (locAddr h.tier h.location + c * 65536) (locAddr m.tier m.location + c * 65536) 65536
        copyChunks r n (updMove s r (fun m => turnPass s { m with todo := rest }))

/-- The copy of a move is complete, and no write to its source is in flight (R330 step 6). -/
def copyOver (s : State) (m : Move) : Bool := m.todo.isEmpty && m.dirty.isEmpty && !writesOn s m.record

/-- The record whose move holds a write to some pieces: it is in its final phase (R330 step 5). -/
def heldBy (s : State) (sps : List (Option Span)) : Option Nat :=
  sps.findSome? (fun o => (o.bind (·.home)).bind (fun r =>
    if s.moves.any (fun m => m.record == r && m.copying && m.pass == 5) then some r else none))

/-- Mark a region LOST (R341, R342). -/
def loseRegion (s : State) (r : Nat) : State :=
  let h := getHome s r
  if h.state = 3 then s else addF (setHome s r { h with state := 3 }) F.TM_CNT_LOST_LOST (homeM r) 0 1

/-- A failed move leaves its region at the source (R341). -/
def abandonMove (s : State) (r : Nat) : State :=
  let h := getHome s r
  if h.state = 3 then s else setHome s r { h with state := 0 }

/-- The next page of a tier job: past the page at `va`, or past 2 MiB without one (R622). -/
def nextVa (s : State) (fn va : Nat) : Nat :=
  match findPage s fn va with
  | some (b, p) => b + (if p.large then 2 ^ 30 else region)
  | none => va + region

/-- Run a job from its next page on until it must wait for a move or is done (R330, R335, R346). -/
def runJob (s : State) (q tag : Nat) : Nat → State
  | 0 => s
  | fuel + 1 =>
    match s.tierJobs.find? (fun j => j.queue == q && j.tag == tag), descOf s q tag with
    | some j, some d =>
      if j.left = 0 ∨ d.override.isSome then
        let bs := detail6 [0, j.acted % 256, j.acted / 256 % 256, j.acted / 65536 % 256, j.acted / 2 ^ 24, j.eflags]
        let s := { s with tierJobs := delFirst (fun j => j.queue == q && j.tag == tag) s.tierJobs }
        let s := if d.issued = 0 ∧ d.override.isNone then noteTier s q tag DONE else s
        maybeComplete (updDesc s q tag (fun d => { d with detail := bs })) q tag
      else
        let s1 := updJob s q tag (fun j => { j with va := nextVa s d.fn j.va, left := j.left - 1 })
        match findPage s d.fn j.va with
        | none => runJob s1 q tag fuel
        | some (b, p) =>
          if p.kind ≠ 2 then
            if j.unmap then
              runJob (noteTier (updJob (removePage s1 d.fn b) q tag (fun j => { j with acted := j.acted + 1 })) q tag DONE)
                q tag fuel
            else runJob s1 q tag fuel
          else
            let t := if j.unmap then 9 else fld d.image 0x1E 1
            let df := fld d.image 0x1F 1
            let m := Move.ask p.backing t (if bit df 4 then bits df 0 4 else qDie q)
              (getF s F.QUE_Q_CFG_PRIO (qDie q) (qLoc q)) (some (q, tag, 0)) 0
            if moving s p.backing then
              let s := beginTier (updJob s1 q tag (fun j => { j with eflags := j.eflags ||| 1 })) q tag
              { s with moves := s.moves ++ [m] }
            else if j.unmap then
              runJob (noteTier (updJob (removePage s1 d.fn b) q tag (fun j => { j with acted := j.acted + 1 })) q tag DONE)
                q tag fuel
            else
              match evalMove s1 m with
              | (s, .ends st ef) =>
                runJob (noteTier (updJob s q tag (fun j =>
                  { j with eflags := j.eflags ||| ef, acted := j.acted + b2n (st == DONE) })) q tag st) q tag fuel
              | (s, .starts) => beginTier s q tag
    | _, _ => s

/-- Continue the job of a descriptor whose request has ended. -/
def resumeJob (s : State) (a : Option (Nat × Nat × Nat)) : State :=
  match a with
  | some (q, tag, _) =>
    match s.tierJobs.find? (fun j => j.queue == q && j.tag == tag) with
    | some j => runJob s q tag (j.left + 1)
    | none => maybeComplete s q tag
  | none => s

/-- The virtual page of a managed region: function and base. -/
def pageOfHome (s : State) (r : Nat) : Option (Nat × Nat) :=
  (s.pages.find? (fun p => p.2.kind == 2 && p.2.backing == r)).map (fun p => (p.1 / 2 ^ 52, p.1 % 2 ^ 52))

/-- Evaluate the requests that waited on a record, in order of arrival, until one starts a move (R335). -/
def serveWaiting (s : State) (r : Nat) : Nat → State
  | 0 => s
  | fuel + 1 =>
    if moving s r then s
    else
      match s.moves.find? (fun m => m.record == r) with
      | none => s
      | some m =>
        let s := { s with moves := delFirst (fun m => m.record == r) s.moves }
        if m.tier = 9 then
          let s := match pageOfHome s r with
            | some (fn, b) => removePage s fn b
            | none => s
          resumeJob (serveWaiting (answerMove s m DONE 0) r fuel) m.asker
        else
          match evalMove s m with
          | (s, .ends st ef) => resumeJob (serveWaiting (answerMove s m st ef) r fuel) m.asker
          | (s, .starts) => s

/-- A move ends: its requester is answered, then the waiting requests are evaluated. -/
def finishMove (s : State) (m : Move) (status : Nat) : State :=
  let s := answerMove (dropMove s m.record) m status 0
  fenceEmptied (resumeJob (serveWaiting s m.record (s.moves.length + 1)) m.asker)

/-- A move stops (R341): the source failed (LOST, TIER_ERROR) or the destination did. -/
def failMove (s : State) (m : Move) (srcFailed : Bool) (status : Nat) : State :=
  finishMove (if srcFailed then loseRegion s m.record else abandonMove s m.record) m status

/-- The region a move copies to has become unreachable (R341). -/
def destLost (s : State) (m : Move) : Bool := lostAt s (locAddr m.tier m.location)

end Sys2Proof.Machine
end

