-- ==== Sys2Proof/Machine/PageOps.lean ====
section
/-! DEFINITION. The page walker's operations: shapes, entries, the KV pool, edits, remaps, walks and rebuilds (R251-R281). -/

namespace Sys2Proof.Machine

open Sys2Proof

/-! ## Shapes, records, entries -/

/-- The row size of a shape, if the shape is valid (R253). -/
def kvRow (fmt blk d nkv : Nat) : Option Nat :=
  if !(fmt == 1 || fmt == 3 || fmt == 8) || !([64, 96, 128, 192, 256] : List Nat).contains d || nkv = 0 || nkv > 256 then none
  else if !(if fmt = 8 then blk == 1 || blk == 2 else blk == 0) then none
  else
    let c := if fmt = 8 then nkv * d / blockSize blk else 0
    let r := ceilDiv (nkv * d * (if fmt = 3 then 2 else 1) + c) 64 * 64
    if r > 4096 then none else some r

/-- Positions per page (R253). -/
def kvPos (r : Nat) : Nat := 256 * (4096 / r)

/-- The row size of a sequence. -/
def seqRow (x : SeqRec) : Nat := (kvRow x.fmt x.blk x.d x.nkv).getD 4096
/-- Positions per page of a sequence. -/
def seqPos (x : SeqRec) : Nat := kvPos (seqRow x)
/-- First kept page. -/
def firstPage (x : SeqRec) : Nat := x.first / seqPos x

/-- The record of a sequence, unless it is FREE. -/
def getSeq (s : State) (n : Nat) : Option SeqRec := tget? s.seqs n
/-- Replace a record. -/
def setSeq (s : State) (n : Nat) (x : SeqRec) : State := { s with seqs := tins s.seqs n x }
/-- Change a record that is not FREE. -/
def updSeq (s : State) (n : Nat) (f : SeqRec → SeqRec) : State :=
  match getSeq s n with
  | some x => setSeq s n (f x)
  | none => s

/-- Key of an entry of the active bank (R256). -/
def entKey (s : State) (die i : Nat) : Nat := (die * 2 + getF s F.PG_STATE_ACT_BANK die) * 131072 + i
/-- An entry of the active bank. -/
def getEnt (s : State) (die i : Nat) : PEntry := tgetD s.pmap (entKey s die i) PEntry.reset
/-- Replace an entry of the active bank. -/
def setEnt (s : State) (die i : Nat) (e : PEntry) : State := { s with pmap := tput s.pmap (entKey s die i) e PEntry.reset }
/-- The entry of a page of a sequence (R256). -/
def pageEnt (s : State) (n : Nat) (x : SeqRec) (i : Nat) : PEntry := getEnt s (n / 4096) (x.spanBase + i)
/-- Replace the entry of a page. -/
def setPageEnt (s : State) (n : Nat) (x : SeqRec) (i : Nat) (e : PEntry) : State := setEnt s (n / 4096) (x.spanBase + i) e

/-- Physical address of a region of a tier (R257). -/
def tierAddr (tier r : Nat) : Nat := if tier = 0 then r * region else farBase + r * region
/-- Physical address of an entry's page. -/
def entAddr (e : PEntry) : Nat := tierAddr e.tier e.region
/-- The age of now (R257). -/
def ageNow (s : State) : Nat := now s / 2 ^ 20 % 2 ^ 16

/-- The 8 bytes of an entry (R257). -/
def entRaw (e : PEntry) : Nat :=
  b2n e.valid + e.tier * 2 + e.region * 2 ^ 3 + e.gen * 2 ^ 25 + b2n e.hostPin * 2 ^ 37 + b2n e.moving * 2 ^ 38 +
    b2n e.lost * 2 ^ 39 + e.age * 2 ^ 40

/-- Keep the translation of a page in step with its entry (R255). -/
def syncPage (s : State) (n : Nat) (x : SeqRec) (i : Nat) : State :=
  let k := pageKey x.owner (x.va + i * region)
  let e := pageEnt s n x i
  if e.valid then { s with pages := tins s.pages k ⟨3, false, true, false, entAddr e⟩ }
  else { s with pages := tdel s.pages k }

/-- Sequences of a die in ascending order. -/
def dieSeqs (s : State) (die : Nat) : List (Nat × SeqRec) := s.seqs.filter (fun p => p.1 / 4096 == die)

/-- Set the counts that PG_STATE and the span registers show (R281). -/
def showPg (s : State) (die : Nat) : State :=
  let spans := (dieSeqs s die).map (fun p => (p.2.spanBase, p.2.span))
  let used := (spans.map (·.2)).foldl (· + ·) 0
  let gaps := (0 :: spans.map (fun p => p.1 + p.2)).map (fun a =>
    ((spans.filter (fun p => decide (a ≤ p.1))).map (fun p => p.1)).foldl min 131072 - a)
  let s := setF s F.PG_SPAN_FREE_FREE die 0 (131072 - used)
  let s := setF s F.PG_SPAN_MAX_MAX die 0 (gaps.foldl max 0)
  let s := setF s F.PG_STATE_WALKS die 0 ((s.walks.filter (fun w => w.die == die)).length)
  setF s F.PG_STATE_PARKED die 0 (((dieSeqs s die).filter (fun p =>
    match p.2.current with
    | some e => e.parked.isSome
    | none => false)).length)

/-! ## The KV pool (R259, R271, R274) -/

/-- A region of the pool that may be given out: no page uses it, no request is in flight on it, its granule holds no tables (R324), and its
stack is neither out of service nor critical nor on its way
to a test hold (R480, R582). -/
def poolFree (s : State) (r : Nat) : Bool :=
  let n := r / 49152
  tgetD s.stackState n 0 == 0 && tgetD s.drains n 0 != 3 && !leavesService s n && !isTableGran s (r / 512) && !pageUses s (r * region) &&
    !issuedOn s (r * region)

/-- The lowest such region of a die's pool. -/
def poolRegion (s : State) (die : Nat) : Option Nat :=
  searchUp (poolFree s) (getF s F.PG_KV_COUNT_COUNT die) (getF s F.PG_KV_BASE_BASE die)

/-- Take a region from the shared pool, else from a class reserve; the eflag of a reserve (R270, R272). -/
def takeRegion (s : State) (die cls : Nat) : Option (Nat × Nat × State) :=
  match poolRegion s die with
  | none => none
  | some r =>
    let sh := getF s F.PG_SHARED_FREE_FREE die
    let c := getF s F.PG_CLASS_FREE_FREE die cls
    if sh > 0 then some (r, 0, setF s F.PG_SHARED_FREE_FREE die 0 (sh - 1))
    else if c > 0 then some (r, 8, setF s F.PG_CLASS_FREE_FREE die cls (c - 1))
    else none

/-- The class reserve furthest below its setting, the lowest class on a tie (R274). -/
def shortClass (s : State) (die : Nat) : Option Nat :=
  let gap (c : Nat) : Nat := getF s F.PG_CLASS_RSV_RSV die c - getF s F.PG_CLASS_FREE_FREE die c
  let best := ([1, 2, 3] : List Nat).foldl (fun a c => if gap a < gap c then c else a) 0
  if gap best = 0 then none else some best

/-- A free region returns to a reserve or to the shared pool (R274). -/
def poolReturn (s : State) (die : Nat) : State :=
  match shortClass s die with
  | some c => setF s F.PG_CLASS_FREE_FREE die c (getF s F.PG_CLASS_FREE_FREE die c + 1)
  | none => setF s F.PG_SHARED_FREE_FREE die 0 (getF s F.PG_SHARED_FREE_FREE die + 1)

/-- A write of the pool's registers lays the pool out anew (R259, R271). -/
def layPool (s : State) (die : Nat) : State :=
  let rs := (List.range 4).map (fun c => getF s F.PG_CLASS_RSV_RSV die c)
  let s := (List.range 4).foldl (fun s c => setF s F.PG_CLASS_FREE_FREE die c (rs.getD c 0)) s
  setF s F.PG_SHARED_FREE_FREE die 0 (getF s F.PG_KV_COUNT_COUNT die - rs.foldl (· + ·) 0)

/-- The earliest parked APPEND of a die: its sequence (R274). -/
def earliestParked (s : State) (die : Nat) : Option Nat :=
  ((dieSeqs s die).filterMap (fun p => match p.2.current with
    | some e => e.parked.map (fun t => (p.1, t))
    | none => none)).foldl (fun (acc : Option (Nat × Nat)) p =>
      match acc with
      | none => some p
      | some a => if p.2 < a.2 then some p else some a) none |>.map (·.1)

/-! ## Descriptors of the page-map class -/

/-- The FIFO key that holds the edits a descriptor has with the page walker. -/
def pgStation : Nat := 0x35

/-- An edit of a descriptor comes to the page walker, where it waits for its turn. -/
def beginPg (s : State) (q tag : Nat) : State :=
  match descOf s q tag with
  | none => s
  | some d =>
    let s := setFifo s (qDie q) pgStation (fifo s (qDie q) pgStation ++ [⟨q, tag, d.issued, .event 3, false, false, DONE, [], 0⟩])
    updDesc s q tag (fun d => { d with started := true, issued := d.issued + 1, unretired := d.unretired + 1 })

/-- An edit of a descriptor ends, with the station that decided it and the detail bytes. -/
def endPg (s : State) (q tag status station : Nat) (detail : Bytes) : State :=
  let die := qDie q
  match (fifo s die pgStation).find? (fun m => m.queue == q && m.tag == tag) with
  | none => s
  | some m =>
    let s := setFifo s die pgStation (delFirst (fun m => m.queue == q && m.tag == tag) (fifo s die pgStation))
    let s := updDesc s q tag (fun d =>
      { d with unretired := d.unretired - 1, retired := d.retired ++ [⟨m.idx, status, station, detail⟩], detail := detail })
    maybeComplete s q tag

/-- The detail bytes of a page-map completion (R270). -/
def pgDetail (reason result eflags : Nat) : Bytes := toLe 1 reason ++ toLe 4 result ++ toLe 1 eflags

/-- length − 1 as a result field (R270). -/
def lenResult (n : Nat) : Nat := if n = 0 then 0xFFFFFFFF else n - 1

/-! ## Walk pins -/

/-- Walks of a sequence whose range holds one of some pages. -/
def walksOn (s : State) (n : Nat) (is : List Nat) : List Nat :=
  (s.walks.filter (fun w => w.seq == n && is.any (fun i => decide (w.first ≤ i ∧ i ≤ w.last)))).map (·.stamp)

/-- A page is walk-pinned (R264). -/
def walkPinned (s : State) (n i : Nat) : Bool := !(walksOn s n [i]).isEmpty

/-- Advance the walk epoch of a sequence (R263). -/
def advanceEpoch (s : State) (n : Nat) : State := updSeq s n (fun x => { x with epoch := (x.epoch + 1) % 2 ^ 16 })

/-! ## Mapping pages -/

/-- Map a page of a sequence into an HBM region, zeroed (R258, R259). -/
def mapPage (s : State) (n : Nat) (i r : Nat) : State :=
  match getSeq s n with
  | none => s
  | some x =>
    let e := pageEnt s n x i
    let s := zeroBytesAt s (r * region)
    let s := setPageEnt s n x i ⟨true, 0, r, (e.gen + 1) % 2 ^ 12, false, false, false, ageNow s⟩
    syncPage (setSeq s n { x with mapped := max x.mapped (i + 1) }) n x i
where
  /-- Zero a region and the poison of its lines. -/
  zeroBytesAt (s : State) (a : Nat) : State := markLines { s with mem := zeroBytes s.mem a region } a region 0

/-- Unmap some pages of a sequence: the physical addresses they had (R263). -/
def unmapPages (s : State) (n : Nat) (x : SeqRec) (is : List Nat) : List Nat × State :=
  is.foldl (fun acc i =>
    let e := pageEnt acc.2 n x i
    if e.valid then
      (acc.1 ++ [entAddr e], syncPage (setPageEnt acc.2 n x i { e with valid := false, moving := false, hostPin := false }) n x i)
    else acc) ([], s)

/-- Candidates for demotion, each with its age distance (R273). -/
def candidates (s : State) (die prio : Nat) : List (Nat × Nat × Nat) :=
  (dieSeqs s die).flatMap (fun p =>
    if p.2.prio ≥ prio then []
    else
      ((List.range p.2.mapped).filter (fun i =>
        let e := pageEnt s p.1 p.2 i
        e.valid && e.tier == 0 && inKvPool s e.region && e.region / 98304 == die && !e.hostPin && !e.moving &&
          !walkPinned s p.1 i && !(p.2.state == 1 && i + 1 == p.2.mapped))).map
        (fun i => ((ageNow s + 65536 - (pageEnt s p.1 p.2 i).age) % 65536, p.1, i)))

/-- Start a remap of a page to a region that has been chosen. -/
def startRemap (s : State) (n i tier r why q tag : Nat) : State :=
  match getSeq s n with
  | none => s
  | some x =>
    let e := pageEnt s n x i
    let s := setPageEnt s n x i { e with moving := true }
    { s with remaps := s.remaps ++ [⟨n / 4096, n, i, e.gen, entAddr e, tier, tierAddr tier r, why, q, tag, none, []⟩] }

/-- A free far region for a page of a function (R273). -/
def farPlace (s : State) (fn die : Nat) : Option Nat :=
  let k := mDieOf die - 24
  searchUp (farFree s fn) (farRange s / region) (k * (farRange s / region))

/-- Select a demotion for a growing sequence, for the descriptor of its APPEND: the best candidate that far memory has a
free region for, and that has not failed for it; none where there is no such candidate (R273). -/
def selectDemotion (s : State) (die prio q tag : Nat) (tried : List (Nat × Nat)) : Option State :=
  let place (c : Nat × Nat × Nat) : Option Nat :=
    match getSeq s c.2.1 with
    | some x => farPlace s x.owner die
    | none => none
  match best ((candidates s die prio).filter (fun c => (place c).isSome && !tried.contains c.2)) with
  | none => none
  | some c => (place c).map (fun r => startRemap s c.2.1 c.2.2 1 r 1 q tag)
where
  /-- The greatest distance, then the lowest sequence and page. -/
  best (cs : List (Nat × Nat × Nat)) : Option (Nat × Nat × Nat) :=
    cs.foldl (fun (acc : Option (Nat × Nat × Nat)) c =>
      match acc with
      | none => some c
      | some a => if a.1 < c.1 then some c else some a) none

/-! ## Edits (R262-R275) -/

/-- Change the edit in progress of a sequence. -/
def updEdit (s : State) (n : Nat) (f : Edit → Edit) : State :=
  updSeq s n (fun x => { x with current := x.current.map f })

/-- The sequence is preempted: its length covers what mapped pages hold, and its APPEND ends (R275). -/
def preempt (s : State) (n : Nat) : State :=
  match getSeq s n with
  | none => s
  | some x =>
    let cnt := match x.current with
      | some e => ((descOf s e.queue e.tag).map (fun d => fld d.image 0x28 4)).getD 0
      | none => 0
    let len := max x.length (min (x.length + cnt) (x.mapped * seqPos x))
    let s := addF s F.PG_CNT_PREEMPT_PREEMPT (n / 4096) 0 1
    updEdit (setSeq s n { x with state := 2, length := len }) n (fun e =>
      { e with parked := none, status := SEQ_PREEMPTED, result := lenResult len })

/-- The APPEND of a sequence has no region: it parks, at once preempted where the limit is 0, and has a demotion selected
unless one runs for it (R272-R275). -/
def parkStep (s : State) (n : Nat) (x : SeqRec) (e : Edit) : State :=
  let die := n / 4096
  let s :=
    if e.parked.isSome then s
    else
      updEdit (addF { s with stamp := s.stamp + 1 } F.PG_CNT_PARK_PARK die 0 1) n (fun e =>
        { e with parked := some s.stamp, eflags := e.eflags ||| 2 })
  if getF s F.PG_PARK_LIMIT_LIMIT die = 0 then preempt s n
  else if s.remaps.any (fun r => r.why == 1 && r.queue == e.queue && r.tag == e.tag && r.copied.isNone) then s
  else
    (selectDemotion s die x.prio e.queue e.tag e.tried).getD s

/-- The APPEND of a sequence maps what it can from the pool and its reserve; it ends, or parks (R272-R275). `fuel` bounds
the pages. -/
def growStep (s : State) (n : Nat) : Nat → State
  | 0 => s
  | fuel + 1 =>
    match getSeq s n with
    | none => s
    | some x =>
      match x.current with
      | none => s
      | some e =>
        let cnt := ((descOf s e.queue e.tag).map (fun d => fld d.image 0x28 4)).getD 0
        if x.mapped ≥ ceilDiv (x.length + cnt) (seqPos x) then
          updEdit (setSeq s n { x with length := x.length + cnt }) n (fun e =>
            { e with parked := none, status := DONE, result := lenResult (x.length + cnt) })
        else
          match takeRegion s (n / 4096) x.cls with
          | some (r, fl, s) =>
            growStep (updEdit (mapPage s n x.mapped r) n (fun e => { e with eflags := e.eflags ||| fl })) n fuel
          | none => parkStep s n x e

/-- The state that suits an opcode (R268 reason 0x02). -/
def badState (x : Option SeqRec) (op : Nat) : Bool :=
  match x with
  | none => op != 0x40
  | some x => if op = 0x40 then true else if op = 0x44 then x.state != 2 else x.state == 3

/-- A region of the job space overlaps a mapping or another sequence's region (R268 reason 0x05). -/
def overlaps (s : State) (fn va span : Nat) : Bool :=
  let hi := va + span * region
  s.pages.any (fun p => p.1 / 2 ^ 52 == fn && decide (p.1 % 2 ^ 52 < hi) &&
    decide (va < p.1 % 2 ^ 52 + (if p.2.large then 2 ^ 30 else region))) ||
  s.seqs.any (fun p => p.2.owner == fn && decide (p.2.va < hi) && decide (va < p.2.va + p.2.span * region))

/-- The first run of free span entries, if one is long enough (R256). -/
def fitSpan (s : State) (die span : Nat) : Option Nat :=
  let used := (dieSeqs s die).map (fun p => (p.2.spanBase, p.2.span))
  let a := firstFree used span (used.length + 1) 0
  if a + span ≤ 131072 then some a else none

/-- Span of a PG_OPEN body. -/
def openSpan (img : Bytes) : Nat :=
  match kvRow (fld img 0x12 1) (bits (fld img 0x13 1) 0 3) (fld img 0x14 2) (fld img 0x16 2) with
  | some r => ceilDiv (fld img 0x20 4) (kvPos r)
  | none => 0

/-- Bits of the body that the opcode does not use, or reserved ones, are set (R267). -/
def pgReserved (op : Nat) (img : Bytes) : Bool :=
  let used (ops : List Nat) : Bool := ops.contains op
  (if used [0x40] then bits (fld img 0x13 1) 3 5 != 0 || bits (fld img 0x24 1) 5 3 != 0
    else !zeroAt img 0x12 6 || !zeroAt img 0x20 5) ||
  (if used [0x40, 0x47] then bits (fld img 0x18 8) 52 12 != 0 else !zeroAt img 0x18 8) ||
  (if used [0x45, 0x46, 0x48] then false else !zeroAt img 0x25 1) ||
  (if used [0x45, 0x46] then bits (fld img 0x26 2) 12 3 != 0 else !zeroAt img 0x26 2) ||
  (if used [0x41, 0x42, 0x45, 0x46, 0x47] then false else !zeroAt img 0x28 4) ||
  (if used [0x42, 0x45, 0x46, 0x47] then false else !zeroAt img 0x2C 4) || !zeroAt img 0x30 16

/-- The checks of R268 at the moment an edit is processed. -/
def pgChecks (s : State) (d : Desc) : List (Nat × Bool) :=
  let img := d.image
  let op := opcode img
  let n := fld img 0x10 2
  let die := qDie d.queue
  let o := getSeq s n
  let x := o.getD ⟨0, 0, 0, 0, 0, 0, 0, 0, 0, 0, 0, 0, 0, 0, 0, 0, none, []⟩
  let cnt := fld img 0x28 4
  let first := fld img 0x2C 4
  let va := fld img 0x18 8 % 2 ^ 52
  if op = 0x48 then
    [(1, n != 0), (7, decide (fld img 0x25 1 > 1)), (8, pgReserved op img)]
  else
    [(1, n / 4096 != die), (2, badState o op), (3, op != 0x40 && x.owner != d.fn),
     (4, op == 0x40 && (kvRow (fld img 0x12 1) (bits (fld img 0x13 1) 0 3) (fld img 0x14 2) (fld img 0x16 2)).isNone),
     (5, (op == 0x40 && (va % region != 0 || fld img 0x20 4 == 0 || decide (openSpan img > 131072) ||
            decide (va + openSpan img * region > 2 ^ 52) || overlaps s d.fn va (openSpan img))) ||
         (op == 0x47 && va % 64 != 0)),
     (6, ([0x41, 0x45, 0x46, 0x47].contains op && cnt == 0) || (op == 0x41 && decide (x.length + cnt > x.maxLen)) ||
         (op == 0x42 && (decide (cnt > x.length) || decide (first > cnt) || decide (first < x.first))) ||
         ([0x45, 0x46, 0x47].contains op && decide (first + cnt > x.mapped)) ||
         ([0x45, 0x46].contains op && bit (fld img 0x26 2) 15 && cnt != 1)),
     (7, [0x45, 0x46].contains op && decide (fld img 0x25 1 > 1)),
     (8, pgReserved op img),
     (9, op == 0x40 && (fitSpan s die (openSpan img)).isNone)]

/-- The status of a failed check (R268). -/
def pgStatus (r : Nat) : Nat := if r = 3 then FAULT_PROTECTION else CONFLICT

/-- An edit that needs no wait ends with a status and result: recorded in the edit. -/
def closeEdit (s : State) (n status result : Nat) : State :=
  updEdit s n (fun e => { e with status := status, result := result })

/-- An edit that removed pages waits for the older walks that hold them (R263). -/
def holdFor (s : State) (n : Nat) (is held : List Nat) : State :=
  let bs := walksOn s n is
  let s := if bs.isEmpty then s else addF s F.PG_CNT_DEFER_DEFER (n / 4096) 0 1
  updEdit s n (fun e => { e with blockers := bs, held := held, eflags := e.eflags ||| b2n (!bs.isEmpty) })

/-- Remove pages of a sequence by its edit (R263). -/
def removePages (s : State) (n : Nat) (x : SeqRec) (is : List Nat) : State :=
  let (held, s) := unmapPages s n x is
  if held.isEmpty then s else holdFor (advanceEpoch s n) n is held

/-- Pages of a PG_PIN or PG_MOVE that name a valid entry. -/
def namedPages (s : State) (n : Nat) (x : SeqRec) (img : Bytes) : List Nat :=
  ((List.range (fld img 0x28 4)).map (· + fld img 0x2C 4)).filter (fun i => (pageEnt s n x i).valid)

/-- The expected generation does not hold (R258). -/
def staleEntry (s : State) (n : Nat) (x : SeqRec) (img : Bytes) : Bool :=
  let e := pageEnt s n x (fld img 0x2C 4)
  bit (fld img 0x26 2) 15 && (!e.valid || e.gen != bits (fld img 0x26 2) 0 12)

/-- A page that cannot be moved gives its edit a status; the first such page decides (R269, R72). -/
def failPage (i status : Nat) (e : Edit) : Edit :=
  if e.status = DONE ∨ i < e.failed then { e with status := status, failed := i } else e

/-- A PG_MOVE takes its next page: one that is moving already is waited for (R335); a lost one stays; a page to HBM takes a region from the
pool or the class reserve, and the move stops where none is left (R269). None: it has to wait, or has taken every page. -/
def moveNext (s : State) (n : Nat) (x : SeqRec) (e : Edit) (tier : Nat) : Option State :=
  match e.todo with
  | [] => none
  | i :: r =>
    let p := pageEnt s n x i
    let on (s : State) (fl : Nat) : State := updEdit s n (fun e => { e with todo := r, eflags := e.eflags ||| fl })
    let stop (s : State) : State := updEdit s n (fun e => { failPage i TIER_FULL e with todo := [] })
    if p.moving && !s.remaps.any (fun m => m.seq == n && m.page == i && m.why == 0) then none
    else if p.lost then some (updEdit (on s 0) n (failPage i FENCED))
    else if p.tier = tier ∨ p.moving ∨ !p.valid then some (on s 0)
    else if tier = 0 then
      match takeRegion s (n / 4096) x.cls with
      | none => some (stop s)
      | some (g, fl, s) => some (on (startRemap s n i 0 g 0 e.queue e.tag) fl)
    else
      match farPlace s x.owner (n / 4096) with
      | none => some (stop s)
      | some g => some (on (startRemap s n i 1 g 0 e.queue e.tag) 0)

/-- A PG_MOVE takes the pages that it can; the fuel bounds them. -/
def moveN : Nat → State → Nat → State
  | 0, s, _ => s
  | fuel + 1, s, n =>
    match getSeq s n with
    | none => s
    | some x =>
      match x.current with
      | none => s
      | some e =>
        match moveNext s n x e (((descOf s e.queue e.tag).map (fun d => fld d.image 0x25 1)).getD 0) with
        | some s => moveN fuel s n
        | none => s

/-- The edit in progress takes the pages that it has still to take. -/
def takePages (s : State) (n : Nat) : State :=
  match (getSeq s n).bind (·.current) with
  | some e => moveN e.todo.length s n
  | none => s

/-- The next page of a PG_MOVE is no longer on another way (R335). -/
def pageDue (s : State) (n : Nat) (x : SeqRec) (e : Edit) : Bool :=
  match e.todo with
  | i :: _ => !(pageEnt s n x i).moving
  | [] => false

/-- The effect of an edit when it is processed (R266). -/
def applyEdit (s : State) (n : Nat) (d : Desc) (e : Edit) : State :=
  let img := d.image
  match getSeq s n with
  | none => s
  | some x =>
    match e.op with
    | 0x41 => if x.state = 2 then closeEdit s n SEQ_PREEMPTED (lenResult x.length) else growStep s n 131073
    | 0x42 =>
      let cnt := fld img 0x28 4
      let first := fld img 0x2C 4
      let p := seqPos x
      let is := (List.range x.mapped).filter (fun i => decide (i * p ≥ cnt) || decide ((i + 1) * p ≤ first))
      let y := { x with length := cnt, first := first, mapped := ceilDiv cnt p }
      closeEdit (removePages (setSeq s n y) n y is) n DONE (lenResult cnt)
    | 0x43 =>
      let y := { x with state := 3, mapped := 0 }
      closeEdit (removePages (setSeq s n y) n y (List.range x.mapped)) n DONE 0
    | 0x44 => closeEdit (setSeq s n { x with state := 1 }) n DONE (lenResult x.length)
    | 0x45 =>
      if staleEntry s n x img then closeEdit (addF s F.PG_CNT_STALE_STALE (n / 4096) 0 1) n ENTRY_STALE 0
      else
        let is := namedPages s n x img
        closeEdit (is.foldl (fun s i => setPageEnt s n x i { pageEnt s n x i with hostPin := fld img 0x25 1 == 1 }) s) n DONE
          is.length
    | 0x46 =>
      let tier := fld img 0x25 1
      let is := namedPages s n x img
      if staleEntry s n x img then closeEdit (addF s F.PG_CNT_STALE_STALE (n / 4096) 0 1) n ENTRY_STALE 0
      else if tier = 1 ∧ is.any (fun i => (pageEnt s n x i).hostPin || walkPinned s n i) then closeEdit s n PINNED 0
      else takePages (updEdit s n (fun e => { e with todo := is })) n
    | _ => s

/-- An edit in progress has nothing left to wait for: its APPEND is neither parked nor short of pages, its copies are
done, and no older walk holds its regions. -/
def editDone (s : State) (n : Nat) (e : Edit) : Bool :=
  e.parked.isNone && e.todo.isEmpty && e.blockers.isEmpty && !s.remaps.any (fun r => r.seq == n && r.why == 0)

/-- Release a region of an edit or remap: one of a KV pool goes to the APPEND of its die that parked earliest, else back
to the pool; a region of a fenced or critical stack is not given out, one of a stack for a test hold is not in the pool (R274, R480,
R481, R582). -/
def releaseRegion (s : State) (a : Nat) : State :=
  let r := a / region
  let die := r / 98304
  if !inHbm a || !inKvPool s r || tgetD s.stackState (r / 49152) 0 != 0 || tgetD s.drains (r / 49152) 0 == 3 then s
  else
    match if leavesService s (r / 49152) then none else earliestParked s die with
    | none => poolReturn s die
    | some n =>
      match getSeq s n with
      | none => poolReturn s die
      | some x => growStep (mapPage s n x.mapped r) n 131073

/-- The region of a demoted page is released: to the sequence that grows by it, while its APPEND is still parked, else as any other (R273,
R275). -/
def releaseRemap (s : State) (r : Remap) : State :=
  let grows (p : Nat × SeqRec) : Bool := match p.2.current with
    | some e => r.why == 1 && e.parked.isSome && e.queue == r.queue && e.tag == r.tag
    | none => false
  let k := r.old / region
  match s.seqs.find? grows with
  | some (n, x) =>
    if inKvPool s k && tgetD s.stackState (k / 49152) 0 == 0 && tgetD s.drains (k / 49152) 0 != 3 && !leavesService s (k / 49152) then
      growStep (mapPage s n x.mapped k) n 131073
    else releaseRegion s r.old
  | none => releaseRegion s r.old

/-- Release regions one after another. -/
def releaseRegions (s : State) (as : List Nat) : State := as.foldl releaseRegion s

/-- A walk ends: it no longer holds regions (R263). -/
def dropWalk (s : State) (w : Walk) : State :=
  let free (e : Edit) : Edit := { e with blockers := e.blockers.filter (· != w.stamp) }
  let walks := s.walks.filter (fun v => v != w)
  let remaps := s.remaps.map (fun r => { r with blockers := r.blockers.filter (· != w.stamp) })
  let seqs := s.seqs.map (fun p => (p.1, { p.2 with current := p.2.current.map free }))
  let s := { s with walks := walks, remaps := remaps, seqs := seqs }
  let done := s.remaps.filter (fun r => r.copied == some true && r.why != 0 && r.blockers.isEmpty)
  let s := { s with remaps := s.remaps.filter (fun r => !done.contains r) }
  let s := done.foldl releaseRemap s
  if getF s F.PG_STATE_REBUILD w.die = 2 ∧ !s.walks.any (fun v => v.die == w.die && v.preswap) then
    setF s F.PG_STATE_REBUILD w.die 0 0
  else s

/-- A free walk slot of a die (R260). -/
def freeWalk (s : State) (die : Nat) : Option Nat :=
  (List.range 32).find? (fun i => !s.walks.any (fun w => w.die == die && w.slot == i))

/-- A walk of a sequence for a function may begin: its die keeps it, it is the function's, and it is neither FREE nor CLOSING (R251,
R252, R265). -/
def walkOk (s : State) (die seq fn : Nat) : Bool :=
  match getSeq s seq with
  | some x => seq / 4096 == die && x.owner == fn && x.state != 3 && !stFenced s die 0x0C
  | none => false

/-- A walk takes a slot and reads the view of its sequence (R260, R261): it pins the pages of positions [first, last] that lie in the view,
and resolves these and `more` of the view, whose ages are brought up to date. -/
def beginWalk (s : State) (die seq first last : Nat) (more : List Nat) (call : Option (Nat × Nat)) : State :=
  match getSeq s seq, freeWalk s die with
  | some x, some slot =>
    let p := seqPos x
    let is := (List.range x.mapped).filter (fun i => decide (firstPage x ≤ i))
    let mine := is.filter (fun i => decide (first / p ≤ i ∧ i ≤ last / p))
    let got := is.filter (fun i => mine.contains i || more.contains i)
    let w : Walk := ⟨die, slot, seq, mine.headD 1, mine.getLastD 0, s.stamp + 1, false, x.epoch, x.maxLen,
      (got.map (fun i => (i, pageEnt s seq x i))).filter (fun e => e.2.valid), call⟩
    let s := { s with walks := s.walks ++ [w], stamp := s.stamp + 1 }
    let s := got.foldl (fun s i =>
      let e := pageEnt s seq x i
      if e.valid then setPageEnt s seq x i { e with age := ageNow s } else s) s
    showPg (addF s F.PG_CNT_WALKS_WALKS die 0 1) die
  | _, _ => s

/-- A walk ends; the first of those that wait for a slot of its die begins, or is refused if its sequence is gone (R260). -/
def endWalk (s : State) (w : Walk) : State :=
  let s := dropWalk s w
  let mine := s.walkq.filter (fun x => x.1 == w.die)
  match mine.find? (fun x => walkOk s x.1 x.2.1 x.2.2.1) with
  | some x =>
    beginWalk { s with walkq := (s.walkq.filter (fun y => y.1 != w.die)) ++ ((mine.dropWhile (fun y => y != x)).drop 1) }
      x.1 x.2.1 x.2.2.2.1 x.2.2.2.2 [] none
  | none => { s with walkq := s.walkq.filter (fun y => y.1 != w.die) }

/-- A walk whose call has ended or been cancelled ends. -/
def orphanWalk (s : State) : Option Walk :=
  s.walks.find? (fun w => match w.call with
    | some c => !s.rings.any (fun r => r.queue == c.1 && r.tag == c.2 && r.walk == some w.stamp)
    | none => false)

/-- An edit with nothing left to wait for ends: its regions are released, a closed sequence becomes FREE (R252, R263). -/
def endEdit (s : State) (n : Nat) (x : SeqRec) (e : Edit) : State :=
  let s := setSeq s n { x with current := none }
  let s := if e.op = 0x43 then { s with seqs := tdel s.seqs n } else s
  endPg (releaseRegions s e.held) e.queue e.tag e.status 0x0C (pgDetail 0 e.result e.eflags)

/-- An edit whose turn has come is checked and processed (R262, R266, R268). -/
def startEdit (s : State) (n q tag : Nat) : State :=
  match descOf s q tag with
  | none => s
  | some d =>
    let s := mapMicros s (qDie q) q tag (fun m =>
      if m.kind = .event 3 then { m with kind := .event 2, started := true } else m)
    match firstFail (pgChecks s d) with
    | some r => endPg s q tag (pgStatus r) (seqStation d) (pgDetail r 0 0)
    | none =>
      if opcode d.image = 0x40 then
        let b := (fitSpan s (n / 4096) (openSpan d.image)).getD 0
        endPg (openSeq s n d b) q tag DONE 0x0C (pgDetail 0 b 0)
      else
        let e : Edit := ⟨q, tag, opcode d.image, none, 0, 0, DONE, [], [], [], 0, []⟩
        applyEdit (updSeq s n (fun x => { x with current := some e })) n d e
where
  /-- Make a sequence OPEN (R253, R256, R266): its span's entries become invalid. -/
  openSeq (s : State) (n : Nat) (d : Desc) (b : Nat) : State :=
    let img := d.image
    let span := openSpan img
    let lo := entKey s (n / 4096) b
    let pmap := (s.pmap.map (fun p =>
      if lo ≤ p.1 ∧ p.1 < lo + span then (p.1, { PEntry.reset with gen := p.2.gen }) else p)).filter
        (fun p => decide (p.2 ≠ PEntry.reset))
    setSeq { s with pmap := pmap } n ⟨1, d.fn, fld img 0x12 1, bits (fld img 0x13 1) 0 3, fld img 0x14 2, fld img 0x16 2,
      fld img 0x18 8 % 2 ^ 52, fld img 0x20 4, bits (fld img 0x24 1) 0 2, bits (fld img 0x24 1) 2 3, 0, 0, 0, 0, b, span,
      none, []⟩

/-- An edit arrives at the page walker: it is processed at once unless the sequence has one in progress or waiting (R262); a CLOSING
record refuses it at once (R252). -/
def arriveEdit (s : State) (n q tag : Nat) : State :=
  match getSeq s n with
  | none => startEdit s n q tag
  | some x =>
    if n / 4096 ≠ qDie q ∨ x.state = 3 ∨ (x.current.isNone ∧ x.waiting.isEmpty) then startEdit s n q tag
    else setSeq s n { x with waiting := x.waiting ++ [(q, tag)] }

/-! ## Remaps that end (R263, R269, R273, R280) -/

/-- The page of a remap is still the one that was taken. -/
def remapLive (s : State) (r : Remap) : Bool :=
  match getSeq s r.seq with
  | none => false
  | some x =>
    let e := pageEnt s r.seq x r.page
    decide (r.page < x.span) && e.valid && e.gen == r.gen && e.moving

/-- Change the entry of a remap's page and keep its translation in step. -/
def updRemapEnt (s : State) (r : Remap) (f : PEntry → PEntry) : State :=
  match getSeq s r.seq with
  | none => s
  | some x => syncPage (setPageEnt s r.seq x r.page (f (pageEnt s r.seq x r.page))) r.seq x r.page

/-- Give back the region that a remap had taken and does not use. -/
def releaseTarget (s : State) (r : Remap) : State := if r.tier = 0 then releaseRegion s r.addr else s

/-- A page moves: its content is copied and its entry names the new region. -/
def landRemap (s : State) (r : Remap) : State :=
  updRemapEnt (copyRegion s r.old r.addr) r (fun e =>
    { e with tier := r.tier, region := if r.tier = 0 then r.addr / region else (r.addr - farBase) / region, moving := false })

/-- The page's content is lost. -/
def remapLost (s : State) (r : Remap) : Bool :=
  match getSeq s r.seq with
  | none => false
  | some x => (pageEnt s r.seq x r.page).lost

/-- A copy has ended well: its page is still the one taken, and neither its content nor its destination is lost (R280, R341). -/
def remapGood (s : State) (r : Remap) : Bool := remapLive s r && !remapLost s r && !lostAt s r.addr

/-- The status that a page which could not be moved gives its edit (R269, R341). -/
def remapStatus (s : State) (r : Remap) : Nat := if lostAt s r.addr then FENCED else TIER_ERROR

/-- The remap of a page that no edit waits for ends: the page moves, and its old region is released once no older walk
holds it (R263). -/
def landAlone (s : State) (r : Remap) : State :=
  let s := advanceEpoch (landRemap s r) r.seq
  let bs := walksOn s r.seq [r.page]
  if bs.isEmpty then releaseRemap s r
  else { s with remaps := s.remaps ++ [{ r with copied := some true, blockers := bs }] }

/-- All copies of a PG_MOVE have ended: its pages move together, the walk epoch advances once, a page that could not be
moved stays, and the edit waits for the older walks (R263, R269). -/
def landEdit (s : State) (n : Nat) : State :=
  match getSeq s n with
  | none => s
  | some x =>
    match x.current with
    | none => s
    | some _ =>
      let rs := s.remaps.filter (fun r => r.seq == n && r.why == 0)
      let good := rs.filter (fun r => r.copied == some true && remapGood s r)
      let bad := rs.filter (fun r => !good.contains r)
      let s := { s with remaps := s.remaps.filter (fun r => !(r.seq == n && r.why == 0)) }
      let s := good.foldl landRemap s
      let s := bad.foldl (fun s r => releaseTarget (updRemapEnt s r (fun e => { e with moving := false })) r) s
      let s := updEdit s n (fun e => { bad.foldl (fun e r =>
        failPage r.page (if remapLost s r then FENCED else remapStatus s r) e) e with result := good.length })
      if good.isEmpty then s else holdFor (advanceEpoch s n) n (good.map (·.page)) (good.map (·.old))

/-- The pages of a PG_MOVE have all been taken, and their copies have ended. -/
def landDue (s : State) (n : Nat) (e : Edit) : Bool :=
  let rs := s.remaps.filter (fun r => r.seq == n && r.why == 0)
  e.todo.isEmpty && !rs.isEmpty && rs.all (fun r => r.copied.isSome)

/-! ## Rebuilds (R277-R279) -/

/-- The rebuild of a die. -/
def getRb (s : State) (die : Nat) : Rebuild := tgetD s.rebuilds die Rebuild.reset
/-- Replace the rebuild of a die. -/
def setRb (s : State) (die : Nat) (x : Rebuild) : State := { s with rebuilds := tput s.rebuilds die x Rebuild.reset }

/-- The next page that a re-home moves: from the cursor on, mapped, neither lost nor moving, its region outside the pool
(R279). -/
def rehomeNext (s : State) (die cursor : Nat) : Option (Nat × Nat) :=
  ((dieSeqs s die).flatMap (fun p => (List.range p.2.mapped).map (fun i => (p, i)))).findSome? (fun pi =>
    let n := pi.1.1
    let e := pageEnt s n pi.1.2 pi.2
    let inPool := e.tier == 0 && inKvPool s e.region && e.region / 98304 == die
    if n * 2 ^ 18 + pi.2 ≥ cursor ∧ e.valid ∧ !e.lost ∧ !e.moving ∧ !inPool then some (n, pi.2) else none)

/-- The rebuild of a die ends and posts its completion. -/
def endRebuild (s : State) (die : Nat) : State :=
  let x := getRb s die
  endPg (setRb s die { x with running := false }) x.queue x.tag DONE 0x0C (pgDetail 0 x.moved 0)

/-- A re-home goes on: the next page starts its copy; with none left, or the shared pool empty, it ends once no older walk
holds a region it left (R263, R279). -/
def rehomeStep (s : State) (die : Nat) : State :=
  let x := getRb s die
  if !x.running || x.kind != 1 || s.remaps.any (fun r => r.die == die && r.why == 2 && r.copied.isNone) then s
  else
    let next := if getF s F.PG_SHARED_FREE_FREE die = 0 then none else rehomeNext s die x.cursor
    match next, poolRegion s die with
    | some (n, i), some r =>
      let s := setF s F.PG_SHARED_FREE_FREE die 0 (getF s F.PG_SHARED_FREE_FREE die - 1)
      startRemap (setRb s die { x with cursor := n * 2 ^ 18 + i + 1 }) n i 0 r 2 x.queue x.tag
    | _, _ => if s.remaps.any (fun r => r.die == die && r.why == 2) then s else endRebuild s die

/-- The first rebuild that waits starts once none runs, no walk uses the former bank and no self-test runs on the shadow bank (R277,
R278, R578). -/
def nextRebuild (s : State) (die : Nat) : State :=
  let x := getRb s die
  if x.running || getF s F.PG_STATE_REBUILD die != 0 || tgetD s.bists die 0 == 4 then s
  else
    match x.waiting with
    | [] => s
    | (q, tag) :: r =>
      match descOf s q tag with
      | none => setRb s die { x with waiting := r }
      | some d =>
        let s := mapMicros s die q tag (fun m =>
          if m.kind = .event 3 then { m with kind := .event 2, started := true } else m)
        let s := setRb s die ⟨true, fld d.image 0x25 1, q, tag, 0, 0, r⟩
        if fld d.image 0x25 1 = 0 then setF s F.PG_STATE_REBUILD die 0 1 else rehomeStep s die

/-- A restored table is built in the shadow bank, from a copy of the active one, and the banks swap: walks begun before go on from the
former bank (R277, R278, R536). -/
def swapBanksPg (s : State) (die : Nat) : State :=
  let b := getF s F.PG_STATE_ACT_BANK die
  let bank (p : Nat × PEntry) : Nat := p.1 / 131072
  let rest : Tab PEntry := s.pmap.filter (fun p => bank p != die * 2 + (1 - b))
  let pmap : Tab PEntry := (s.pmap.filter (fun p => bank p == die * 2 + b)).foldl (fun t p =>
    tput t ((die * 2 + (1 - b)) * 131072 + p.1 % 131072) p.2 PEntry.reset) rest
  let s := setF { s with pmap := pmap } F.PG_STATE_ACT_BANK die 0 (1 - b)
  let s := { s with walks := s.walks.map (fun w => if w.die = die then { w with preswap := true } else w) }
  if s.walks.any (fun w => w.die == die) && getF s F.PG_STATE_REBUILD die == 0 then setF s F.PG_STATE_REBUILD die 0 2 else s

/-- The swap advances the walk epoch of every sequence of a die (R278). -/
def advanceAll (s : State) (die : Nat) : State := (dieSeqs s die).foldl (fun s p => advanceEpoch s p.1) s

/-- Rebuilds of a die go on as far as they can; at most one starts and ends at once for each that waits. -/
def pumpRebuild (s : State) (die : Nat) : State :=
  ((getRb s die).waiting).foldl (fun s _ => nextRebuild s die) (nextRebuild (rehomeStep s die) die)

/-- One consequence at the page walkers, if there is one: an edit that ends, or one whose turn has come. -/
def pgStep (s : State) : Option State :=
  match orphanWalk s with
  | some w => some (showPg (pumpRebuild (endWalk s w) w.die) w.die)
  | none =>
  match s.seqs.find? (fun p => match p.2.current with
    | some e => pageDue s p.1 p.2 e || landDue s p.1 e || editDone s p.1 e
    | none => !p.2.waiting.isEmpty) with
  | none => none
  | some (n, x) =>
    match x.current, x.waiting with
    | some e, w =>
      if pageDue s n x e then some (showPg (takePages s n) (n / 4096))
      else if landDue s n e then some (showPg (landEdit s n) (n / 4096))
      else
      let s := endEdit s n x e
      let s := if e.op = 0x43 then w.foldl (fun s p => arriveEdit s n p.1 p.2) s else s
      some (showPg s (n / 4096))
    | none, (q, tag) :: r => some (showPg (startEdit (setSeq s n { x with waiting := r }) n q tag) (n / 4096))
    | none, [] => none

end Sys2Proof.Machine
end

