-- ==== Sys2Proof/Machine/Requests.lean ====
section
/-! DEFINITION. The requests of the movers: tile headers, room in streams, the choice among requests, their issue (R46, R47, R55-R57,
R352-R363). -/

namespace Sys2Proof.Machine

open Sys2Proof

/-! ## Tiles in slots (R46, R47, R53, R55, R56) -/

/-- Bytes from one row of a tile to the next in the pool: a power of two for a tile of elements (R119), else a multiple of a line. -/
def rowPitch (h : Head) (len : Nat) : Nat := if h.fmt = 0 then ceilDiv len 64 * 64 else poolPitch len

/-- Bytes padded with zeros to a multiple of `n`. -/
def padTo (n : Nat) (bs : Bytes) : Bytes := bs ++ List.replicate (ceilDiv bs.length n * n - bs.length) 0

/-- The payload of a tile in a slot: rows at their pitch, then the block scales (R46). Bytes in rows of more than 4,096 B lie one behind
the other (log entry 113). -/
def tilePayload (g : Geo) (h : Head) (data : Bytes) : Bytes :=
  let p := rowPitch h g.len
  if p > 4096 then padTo 64 data
  else
    (List.range g.rows).flatMap (fun i => padTo p ((data.drop (i * g.len)).take g.len)) ++ padTo 64 (data.drop (g.rows * g.len))

/-- The header of a tile (R47): die, station and stream of the producer, the tile, its payload length, its source address and region
generation (0 for a tile computed in the pool), its poison cause and the weight version it carries. Rows of more than 4,096 B count in
pieces of 4,096 B (log entry 113). -/
def tileHeader (s : State) (die station n : Nat) (g : Geo) (h : Head) (payload va gen cause : Nat) (v : Option (Nat × Nat)) : Bytes :=
  let p := rowPitch h g.len
  let wide := decide (p > 4096)
  toLe 1 h.fmt ++ toLe 1 (if isBlock h.fmt then h.blk else 0) ++ toLe 2 (if wide then ceilDiv (g.rows * g.len) 4096 else g.rows) ++
    toLe 2 h.cols ++ toLe 2 (min 4096 p) ++ toLe 2 (if g.slen = 0 then 0 else g.rows * p) ++ toLe 2 gen ++
    toLe 4 ((v.map (·.1)).getD 0) ++ toLe 2 ((v.map (·.2)).getD 0) ++
    toLe 1 (b2n h.check + 2 * b2n (cause != 0) + 4 * b2n v.isSome + 8 * b2n h.risen) ++ toLe 1 cause ++ toLe 1 station ++ toLe 1 die ++
    toLe 2 n ++ toLe 8 va ++ toLe 4 h.index ++ toLe 4 h.tensor ++ toLe 4 payload ++ toLe 4 (now s) ++ toLe 16 0

/-- Tiles between the tail and the slowest head (R55). -/
def streamFill (st : Stream) : Nat := (st.consumers.map (fun c => (st.tail - c.2).toNat)).foldl max 0

/-- The slowest head of a stream: the one furthest behind the tail (R55, R66). -/
def slowest (st : Stream) : Word :=
  st.consumers.foldl (fun acc c => if (st.tail - acc).toNat < (st.tail - c.2).toNat then c.2 else acc) st.tail

/-- Physical address of the slot of a counter value (R53, R55). -/
def slotAddr (die : Nat) (st : Stream) (c : Word) : Nat :=
  poolBase die + 64 * (st.baseLine + (c.toNat % st.slots) * st.slotLines)

/-- A free count of stalled cycles is added to a stall count of a stream, in units of 1,024 cycles: how long the station waited is
timing (R57, R66; log entry 19). -/
def stalled (s : State) (old : Nat) : Nat × State := (sat 0xFFFF (old + (Config.freeWord s.freeCtr).toNat), (freshFree s).2)

/-- The commit of a tile at the tail of a stream (R55, R56); consumers that found the stream empty have waited (R57). -/
def commitTile (s : State) (die n : Nat) (bytes : Bytes) : State :=
  match tget? s.streams (streamKey die n) with
  | none => s
  | some st =>
    let (e, s) := if st.consumers.any (fun c => c.2 == st.tail) then stalled s st.stallEmpty else (st.stallEmpty, s)
    let s := physWrite s (slotAddr die st st.tail) bytes 0
    { s with streams := tins s.streams (streamKey die n) { st with tail := st.tail + 1, stallEmpty := e } }

/-- A consumer releases the slot at its head (R55); a producer that found the stream full has waited (R57). -/
def releaseSlot (s : State) (die n station : Nat) : State :=
  match tget? s.streams (streamKey die n) with
  | none => s
  | some st =>
    let cs := st.consumers.map (fun c => if c.1 = station ∧ c.2 ≠ st.tail then (c.1, c.2 + 1) else c)
    let (f, s) := if streamFill st ≥ st.slots ∧ cs ≠ st.consumers then stalled s st.stallFull else (st.stallFull, s)
    { s with streams := tins s.streams (streamKey die n) { st with consumers := cs, stallFull := f } }

/-! ## Weight versions (R435) -/

/-- The version that a mover's read of an extent carries (R435). -/
def versionOf (s : State) (die fn va len : Nat) : Option (Nat × Nat) :=
  (s.vmap.find? (fun p => p.1 / 256 == die && p.2.1 == fn && decide (p.2.2.1 ≤ va ∧ va + len ≤ p.2.2.1 + p.2.2.2.1))).map
    (fun p => p.2.2.2.2)

/-- The version that a tile carries. -/
def tileVersion (s : State) (die fn : Nat) (g : Geo) : Option (Nat × Nat) :=
  versionOf s die fn g.va ((g.rows - 1) * g.pitch + g.soff + max g.len g.slen)

/-! ## Regions (R361-R363) -/

/-- The counter that tracks the region where some pieces begin, for reads by a die (R361, R363). -/
def trackOf (die : Nat) (sps : List (Option Span)) : Option Nat :=
  match sps.head? with
  | some (some sp) => if sp.own = die then sp.gen else none
  | _ => none

/-- The value of a generation counter. -/
def genOf (s : State) (k : Option Nat) : Nat :=
  match k with
  | some k => tgetD s.gens k 0
  | none => 0

/-- Advance each tracked region of some pieces once (R362). -/
def bumpOnce (s : State) (die : Nat) (sps : List (Option Span)) : State :=
  (sps.foldl (fun (acc : List Nat × State) o =>
    match o with
    | some sp =>
      match sp.gen with
      | some k => if acc.1.contains k then acc else (k :: acc.1, bumpGen acc.2 die sp)
      | none => acc
    | none => acc) ([], s)).2

/-- The status that the write of some pieces ends with: the first failure; 0: all can be written (R627). -/
def writeStatus (s : State) (sps : List (Option Span)) : Nat := ((sps.map (spanStatus s)).find? (· != 0)).getD 0

/-- Pieces taken at the issue of a request, as they are now: what is lost since then is lost (R342). -/
def refreshed (s : State) (sps : List (Option Span)) : List (Option Span) :=
  sps.map (fun o => o.map (fun sp => { sp with lost := sp.lost || lostAt s sp.addr }))

/-! ## The requests of a mover (R352-R355) -/

/-- Requests that a mover has in flight. -/
def moverReqs (s : State) (die mover : Nat) : List Req := tgetD s.reqs (fifoKey die mover) []

/-- Replace the requests that a mover has in flight. -/
def setReqs (s : State) (die mover : Nat) (rs : List Req) : State :=
  { s with reqs := tput s.reqs (fifoKey die mover) rs [] }

/-- Requests in flight on a die. -/
def dieReqs (s : State) (die : Nat) : List Req := (s.reqs.filter (fun p => p.1 / 64 == die)).flatMap (·.2)

/-- Slots of a stream that are filled and not committed (R364). -/
def waitingSlots (s : State) (die n : Nat) : Nat := (s.slots.filter (fun x => x.die == die && x.stream == n)).length

/-- Slots of a stream that are committed and not released, filled, or being filled (R55, R57). -/
def slotsTaken (s : State) (die n : Nat) (st : Stream) : Nat :=
  streamFill st + waitingSlots s die n + ((dieReqs s die).filter (fun r => !r.write && r.stream == n)).length

/-- A stream has a free slot for its producer (R55, R57). -/
def streamRoom (s : State) (die n : Nat) : Bool :=
  match tget? s.streams (streamKey die n) with
  | some st => decide (slotsTaken s die n st < st.slots)
  | none => false

/-- Two physical extents overlap. -/
def spansMeet (a b : Span) : Bool := decide (a.addr < b.addr + b.len) && decide (b.addr < a.addr + a.len)

/-- A write that a station of the die issued earlier to an overlapping address is not yet applied: a read waits (R360). -/
def behindWrite (s : State) (die : Nat) (sps : List (Option Span)) : Bool :=
  ((dieReqs s die).filter (·.write)).any (fun r => r.spans.any (fun o => o.any (fun a => sps.any (fun p => p.any (spansMeet a)))))

/-- What a mover can issue next for a micro-command: whether it writes, the tile, the content and poison of a write, the stream, the tile of
the copy, and what is then left of the micro-command. -/
structure Ask where
  write : Bool
  job : JobRead
  data : Bytes
  poison : Nat
  stream : Nat
  tile : Option CopyTile
  rest : MKind

/-- The source of a tile of a copy. -/
def copySource (t : CopyTile) : JobRead := ⟨⟨t.src, t.len, t.rows, t.srcPitch, 0, 0, 0⟩, Head.raw⟩

/-- The destination of a tile of a copy. -/
def copyTarget (t : CopyTile) : JobRead := ⟨⟨t.dst, t.len, t.rows, t.dstPitch, 0, 0, 0⟩, Head.raw⟩

/-- The write that a copy can issue next: its oldest tile, once that has its content; a fabric destination takes no request of a tier. -/
def copyWrite (n : Nat) (far : Option (Nat × Nat × Nat)) (todo stores : List CopyTile) (left : Nat) : Option Ask :=
  match far, stores with
  | none, t :: r => t.data.map (fun x => ⟨true, copyTarget t, x.1, x.2, n, some t, .copy n none todo r left⟩)
  | _, _ => none

/-- What a mover can issue next for a micro-command (R55, R57): a read while its stream has a free slot, a write of a tile. -/
def askOf (s : State) (die : Nat) (m : Micro) : Option Ask :=
  match m.kind with
  | .reads n (x :: xs) => if streamRoom s die n then some ⟨false, x, [], 0, n, none, .reads n xs⟩ else none
  | .writes n (w :: ws) =>
    if n = 0 || streamRoom s die (n - 1) then some ⟨true, ⟨w.geo, w.head⟩, w.data, w.poison, n, none, .writes n ws⟩ else none
  | .copy n far (t :: ts) stores left =>
    if streamRoom s die n then some ⟨false, copySource t, [], 0, n, some t, .copy n far ts (stores ++ [t]) left⟩
    else copyWrite n far (t :: ts) stores left
  | .copy n far [] stores left => copyWrite n far [] stores left
  | _ => none

/-- The function of a descriptor. -/
def fnOf (s : State) (q tag : Nat) : Nat := ((descOf s q tag).map (·.fn)).getD 0

/-- The image of a descriptor. -/
def imageOf (s : State) (q tag : Nat) : Bytes := ((descOf s q tag).map (·.image)).getD []

/-- The micro-command waits on a token, and nothing behind it of its descriptor starts. -/
def isTokenWait (m : Micro) : Bool :=
  match m.kind with
  | .token _ _ => true
  | _ => false

/-- What a mover can issue now, one entry for each queue, in the order of its FIFO: the place of the micro-command, the micro-command, and
what it asks (R355, R360). -/
def askList (s : State) (die mover : Nat) : List (Nat × Micro × Ask) :=
  let l := fifo s die mover
  (l.zipIdx.foldl (fun (acc : List (Nat × Micro × Ask)) x =>
    if acc.any (fun a => a.2.1.queue == x.1.queue) ||
        (l.take x.2).any (fun m => m.queue == x.1.queue && m.tag == x.1.tag && isTokenWait m) then acc
    else
      match askOf s die x.1 with
      | some a =>
        let sps := geoSpans s (fnOf s x.1.queue x.1.tag) a.job.geo
        if (if a.write then (heldBy s sps).isSome else behindWrite s die sps) then acc else acc ++ [(x.2, x.1, a)]
      | none => acc) [])

/-- Writes of a mover that the final phase of a move holds are counted, and its requester's completion says so (R330, R346). -/
def noteHeld (s : State) (die mover : Nat) : State :=
  (fifo s die mover).foldl (fun s m =>
    match askOf s die m with
    | some a =>
      match if a.write then heldBy s (geoSpans s (fnOf s m.queue m.tag) a.job.geo) else none with
      | some r =>
        let k := (fifoKey die mover, m.queue * 65536 + m.tag, m.idx, a.job.geo.va)
        match s.moves.find? (fun v => v.record == r && v.copying) with
        | some v =>
          if v.held.contains k then s
          else
            let s := addF (updMove s r (fun v => { v with held := v.held ++ [k] })) F.TM_CNT_HELD_HELD (homeM r) 0 1
            match v.asker with
            | some (q, tag, _) => updJob s q tag (fun j => { j with eflags := j.eflags ||| 16 })
            | none => s
        | none => s
      | none => s
    | none => s) s

/-- PRIO of a queue (R80). -/
def qPrio (s : State) (q : Nat) : Nat := getF s F.QUE_Q_CFG_PRIO (qDie q) (qLoc q)

/-- Weight of a queue: WEIGHT + 1 (R80, R92). -/
def qWeight (s : State) (q : Nat) : Nat := getF s F.QUE_Q_CFG_WEIGHT (qDie q) (qLoc q) + 1

/-- Slots of the shared pool of a mover in use (R354). -/
def sharedUsed (rs : List Req) : Nat := (rs.map (·.shared)).foldl (· + ·) 0

/-- Slots of a level's floor in use (R354). -/
def levelUsed (rs : List Req) (l : Nat) : Nat := ((rs.filter (fun r => r.level == l)).map (·.floor)).foldl (· + ·) 0

/-- MV_INDEXED uses the narrow path (R371). -/
def isNarrow (img : Bytes) : Bool := opcode img == 0x82 && bit (fld img 0x38 1) 1 && decide (fld img 0x2C 4 ≤ 256)

/-- A tile takes the narrow path: its call asks for it, and it lies in HBM (R316, R371). -/
def narrowReq (s : State) (q tag : Nat) (sps : List (Option Span)) : Bool :=
  isNarrow (imageOf s q tag) && sps.all (fun o => o.any (fun p => inHbm p.addr))

/-- The slots that a tile asks for: one for each 2 KiB of each row, or each 32 B of a narrow element, at most 32 at a time (R352, R354;
log entry 114). -/
def slotsWanted (narrow : Bool) (g : Geo) : Nat :=
  let unit := if narrow then 32 else 2048
  min 32 (g.rows * (ceilDiv g.len unit + ceilDiv g.slen unit))

/-- Key of the turn of a level at a mover among the round-robin states; the keys below belong to admission and dispatch. -/
def turnKey (die mover l : Nat) : Nat := 4096 + fifoKey die mover * 8 + l

/-- Key of a queue's deficit at a mover. -/
def deficitKey (die mover q : Nat) : Nat := fifoKey die mover * 65536 + q

/-- Give a queue its quantum of (WEIGHT + 1) × 2 KiB at a mover (R355). -/
def addQuantum (s : State) (die mover q : Nat) : State :=
  let k := deficitKey die mover q
  { s with deficits := tput s.deficits k (tgetD s.deficits k 0 + qWeight s q * 2048) 0 }

/-- Deficit round-robin (R355): the queue of the turn issues while its deficit covers its request; otherwise the next queue with a request
gets a quantum of (WEIGHT + 1) × 2 KiB. A queue that has nothing to issue keeps no deficit. -/
def deficitPick (s : State) (die mover : Nat) (qs : List (Nat × Nat)) : Nat → Nat → Option (Nat × State)
  | 0, _ => none
  | fuel + 1, cur =>
    let k := deficitKey die mover cur
    match qs.find? (fun x => x.1 == cur && decide (x.2 ≤ tgetD s.deficits k 0)) with
    | some x => some (cur, { s with deficits := tput s.deficits k (tgetD s.deficits k 0 - x.2) 0 })
    | none =>
      let s := if qs.any (fun x => x.1 == cur) then s else { s with deficits := tput s.deficits k 0 0 }
      match qs.find? (fun x => decide (cur < x.1)), qs with
      | some x, _ | none, x :: _ =>
        deficitPick (addQuantum s die mover x.1) die mover qs fuel x.1
      | none, [] => none

/-- Insert a queue by its number. -/
def insertQueue (x : Nat × Nat) : List (Nat × Nat) → List (Nat × Nat)
  | [] => [x]
  | y :: r => if x.1 < y.1 then x :: y :: r else y :: insertQueue x r

/-- The request that a mover issues next (R355): in strict priority order while the shared pool has a free slot; else only into the floor of
its own level, in the order of the FIFO. -/
def pickAsk (s : State) (die mover : Nat) : Option ((Nat × Micro × Ask) × State) :=
  let rs := moverReqs s die mover
  let xs := askList s die mover
  if sharedUsed rs < 768 then
    let l := (xs.map (fun x => qPrio s x.2.1.queue)).foldl max 0
    let mine := xs.filter (fun x => qPrio s x.2.1.queue == l)
    let qs := (mine.map (fun x => (x.2.1.queue, min 65536 (geoBytes x.2.2.job.geo)))).foldl (fun l x => insertQueue x l) []
    let w := tgetD s.wrrs (turnKey die mover l) ⟨0, 0⟩
    match deficitPick s die mover qs (34 * qs.length + 1) w.queue with
    | some (q, s) =>
      (mine.find? (fun x => x.2.1.queue == q)).map (fun x =>
        (x, { s with wrrs := tput s.wrrs (turnKey die mover l) ⟨q, 0⟩ ⟨0, 0⟩ }))
    | none => none
  else (xs.find? (fun x => decide (levelUsed rs (qPrio s x.2.1.queue) < 32))).map (fun x => (x, s))

/-- Issue a request (R354, R360, R362, R363): the tile takes the slots it wants of those that are free; its pieces are those of this
moment, a write advances its regions and publishes its tile to the stream that the mover consumes, a read records its region's
generation and the time of access (R325, R328, R329). -/
def issueAsk (s : State) (die mover pos : Nat) (m : Micro) (a : Ask) : State :=
  let rs := moverReqs s die mover
  let l := qPrio s m.queue
  let fn := fnOf s m.queue m.tag
  let sps := geoSpans s fn a.job.geo
  let want := slotsWanted (narrowReq s m.queue m.tag sps) a.job.geo
  let shared := min want (768 - sharedUsed rs)
  let own := min (want - shared) (32 - levelUsed rs l)
  let src := if a.write then none else trackOf die sps
  let s := if a.write then s else sps.foldl (fun s o => touchHome s (o.bind (·.home))) s
  let bad := a.tile.isSome && a.poison != 0
  let data := if bad then freeBytes (s.freeCtr * 2 ^ 40) a.data.length else a.data
  let s := if bad then (freshFree s).2 else s
  let s :=
    if a.write && a.tile.isNone && a.stream != 0 then
      let body := tilePayload a.job.geo a.job.head data
      let by_ := ((tget? s.streams (streamKey die (a.stream - 1))).map (·.producer)).getD 0
      commitTile s die (a.stream - 1)
        (tileHeader s die by_ (a.stream - 1) a.job.geo a.job.head body.length 0 0 a.poison none ++ body)
    else s
  let s := if a.write && writeStatus s sps == 0 then bumpOnce s die sps else s
  let r : Req := ⟨m.queue, m.tag, m.idx, l, a.write, shared, own, a.job, data, if bad then 5 else a.poison, a.stream, sps, src,
    genOf s src, a.tile⟩
  setReqs (setFifo s die mover ((fifo s die mover).set pos { m with kind := a.rest, started := true })) die mover (rs ++ [r])

/-- A mover issues what it can; the fuel bounds its requests. -/
def pumpN : Nat → State → Nat → Nat → State
  | 0, s, _, _ => s
  | fuel + 1, s, die, mover =>
    match pickAsk s die mover with
    | some (x, s) => pumpN fuel (issueAsk s die mover x.1 x.2.1 x.2.2) die mover
    | none => s

/-- A mover issues what it can: none at a fenced or halted one; each request holds one of its 1,024 slots (R352). -/
def pumpMover (s : State) (die mover : Nat) : State := if stFenced s die mover || halted s die mover then s else pumpN 1024 (noteHeld s die mover) die mover

/-- Every mover issues what it can. -/
def pump (s : State) : State :=
  s.fifos.foldl (fun s p => if ([0x28, 0x29, 0x2A, 0x2B] : List Nat).contains (p.1 % 64) then pumpMover s (p.1 / 64) (p.1 % 64) else s) s

/-- No request of a micro-command is in flight. -/
def reqsDone (s : State) (die mover : Nat) (m : Micro) : Bool :=
  !(moverReqs s die mover).any (fun r => r.queue == m.queue && r.tag == m.tag && r.idx == m.idx)

/-- A mover's micro-command whose requests have all ended may retire; a failed write gives it its status (R72, R627). -/
def endReq (s : State) (die mover : Nat) (r : Req) (status : Nat) : State :=
  setFifo s die mover ((fifo s die mover).map (fun m =>
    if m.queue = r.queue ∧ m.tag = r.tag ∧ m.idx = r.idx then
      { m with ready := m.ready || (kindReady m.kind && reqsDone s die mover m), status := if m.status = DONE then status else m.status }
    else m))

end Sys2Proof.Machine
end

