-- ==== Sys2Proof/Machine/SnapOps.lean ====
section
/-! DEFINITION. What a snapshot layer does on its own: the partner transfer, its commit, the end of a layer and of a generation
(R527-R530, R534, R535). -/

namespace Sys2Proof.Machine

open Sys2Proof

/-- The FIFO key under which the snapshot engine keeps its partner transfers (log entry 12). -/
def snapStation : Nat := 0x38
/-- The place of a set's transfer among queue numbers: it belongs to the engine, on M0, and to no queue. -/
def snapQueue (n : Nat) : Nat := 24 * 4096 + n
/-- Key of an image: place 0 own state, 1 local flash, 2 the generation in transfer; slot 0 or 1. -/
def imgKey (place set slot : Nat) : Nat := place * 8 + set * 2 + slot
/-- The generation of a set that is being written. -/
def buildImg (s : State) (n : Nat) : Option SnImage := tget? s.images (imgKey 2 n 0)
/-- The bank that holds an own-state image of a generation (R528). -/
def ownSlot (s : State) (n gen : Nat) : Option Nat :=
  ([0, 1] : List Nat).find? (fun b => match tget? s.images (imgKey 0 n b) with
    | some x => x.gen == gen
    | none => false)

/-- Replace a set. -/
def setSet (s : State) (n : Nat) (x : SnSet) : State := { s with sets := tins s.sets n x }
/-- Change a set. -/
def updSet (s : State) (n : Nat) (f : SnSet → SnSet) : State :=
  match tget? s.sets n with
  | some x => setSet s n (f x)
  | none => s
/-- Change the SN_TAKE of a set. -/
def updRun (s : State) (n : Nat) (f : SnRun → SnRun) : State := updSet s n (fun x => { x with run := x.run.map f })

/-- An item of captured state as bytes (log entry 50). -/
def itemBytes (i : SnItem) : Bytes := toLe 1 i.kind ++ toLe 8 i.key ++ toLe 4 i.vals.length ++ i.vals.flatMap (toLe 8)
/-- The content of an image after its header (log entry 50). -/
def imgBytes (x : SnImage) : Bytes := x.state.flatten ++ x.shards.flatten ++ x.items.flatMap itemBytes
/-- The 64-byte image header: generation, set, job tag, the manifest's CRC-32C, sizes, piece count, key identifier (R529, R569). -/
def imgHeader (x : SnImage) : Bytes :=
  let n := (imgBytes x).length
  toLe 4 x.gen ++ toLe 1 x.set ++ toLe 1 (b2n x.keyId.isSome) ++ toLe 2 x.tag ++ toLe 4 x.crc ++ toLe 4 (x.keyId.getD 0) ++
    toLe 8 (x.state.flatten.length) ++ toLe 8 (x.shards.flatten.length) ++ toLe 8 n ++ toLe 4 (ceilDiv n 0x200000) ++ toLe 20 0

/-- Offset of a bank of a set in a partner area, as the model addresses it (log entry 50). -/
def bankOff (n slot : Nat) : Nat := n * 2 ^ 41 + slot * 2 ^ 40
/-- Offset of the image header in its bank. -/
def headOff : Nat := 2 ^ 40 - 64

/-- Write an entry for a failed layer to the owner's error ring (R534): 0 partner, 1 local, 2 shared. -/
def logLayer (s : State) (n layer status : Nat) : State :=
  match tget? s.sets n with
  | some x => logErr s x.owner SNAP_LAYER_FAIL (layer + 256 * status)
  | none => s

/-- Every layer named is over: the token is signalled, the generation's transfer ends (R535). -/
def endRun (s : State) (n : Nat) (r : SnRun) : State :=
  let s := if r.inc = 0 then s else signalTok s (qDie r.queue) r.tok r.inc
  let s := updSet s n (fun x => { x with run := none })
  { s with images := tdel s.images (imgKey 2 n 0) }

/-- A layer of a generation has committed or failed (R534, R535). -/
def endLayer (s : State) (n layer status : Nat) : State :=
  match (tget? s.sets n).bind (·.run) with
  | none => s
  | some r =>
    if !bit r.layers layer then s
    else
      let s := if status = DONE then s else logLayer s n layer status
      let r := { r with layers := r.layers - 2 ^ layer, failed := r.failed || status != DONE }
      let s := updSet s n (fun x => { x with run := some r })
      if r.layers = 0 ∧ r.captured then endRun s n r else s

/-- The partner transfer of a set ends with a status: its micro-command goes. -/
def endPartner (s : State) (n status : Nat) : State :=
  let s := failMicro s (snapQueue n) 0 0 status
  let s := failMicro s (snapQueue n) 0 1 status
  let s := setFifo s 24 snapStation ((fifo s 24 snapStation).filter (fun m => m.queue != snapQueue n))
  endLayer s n 0 status

/-- Send bytes of a set to the holder over Slate, as micro-command `idx` of the engine (R529). -/
def sendPartner (s : State) (n idx off : Nat) (bs : Bytes) : State :=
  match tget? s.sets n with
  | none => s
  | some x =>
    let m := getF s F.SN_PARTNER_MODULE f0
    match (if flag s F.SN_PARTNER_VALID f0 then sendFail s m 16 else some CONFLICT) with
    | some st => endLayer s n 0 st
    | none =>
      let ps := (writePieces off bs).map (fun p => (p.1, p.2, 0))
      let mi : Micro := ⟨snapQueue n, 0, idx, .acks ps.length, true, ps.isEmpty, DONE, [], 0⟩
      let s := setFifo s 24 snapStation ((fifo s 24 snapStation).filter (fun m => m.queue != snapQueue n) ++ [mi])
      sendPieces s (snapQueue n) 0 idx x.owner m 16 3 ps DONE

/-- The partner layer has read everything: its pieces go to the bank of the holder that does not hold the newest generation
(R529). -/
def startPartner (s : State) (n : Nat) : State :=
  match buildImg s n with
  | none => endLayer s n 0 INTERNAL
  | some x => sendPartner s n 0 (bankOff n ((ownSlot s n x.gen).getD 0)) (imgBytes x)

/-! ## A bank that has become smaller (R528, R591) -/

/-- Bytes of the state extents, and of all extents. -/
def stateExtBytes (x : SnSet) : Nat := ((x.exts.filter (fun e => e.kind == 1)).map (·.bytes)).foldl (· + ·) 0
/-- Bytes of a whole image, captured state apart. -/
def fullBytes (x : SnSet) : Nat := (x.exts.map (·.bytes)).foldl (· + ·) 0

/-- Bytes of one bank of the partner area, on the stacks in service (R528). -/
def bankBytes (s : State) : Nat :=
  s.partGran * 2 ^ 29 * ((List.range 32).filter (fun n => tgetD s.stackState n 0 != 1 && !dieFenced s (n / 2))).length

/-- Bytes of the ward's image of a set that a bank holds: the size that the header of its newest generation gives (R529). -/
def wardBytes (s : State) (n gen : Nat) : Nat :=
  (([0, 1] : List Nat).map (fun b =>
    let h := readBytes s.wardMem (bankOff n b + headOff) 64
    if fld h 0 4 = gen then fld h 0x18 8 else 0)).foldl max 0

/-- Bytes of the own-state images of every set. -/
def ownBytes (s : State) : Nat := (s.sets.map (fun p => stateExtBytes p.2)).foldl (· + ·) 0

/-- A set's partner layer is in transfer and its images do not fit a bank. -/
def layerOver (s : State) (x : SnSet) : Bool :=
  x.run.any (fun r => bit r.layers 0) && decide (ownBytes s + fullBytes x > bankBytes s)

/-- What a bank held before a stack left the partner area no longer fits it (R528, R591; log entry 60): own-state images and generations of
the ward that it does not hold are lost, and a partner layer in transfer fails with TIER_FULL. None where everything fits. -/
def shrinkBanks (s : State) : Option State :=
  let cap := bankBytes s
  let own := ownBytes s
  let images := s.images.filter (fun p => p.1 / 8 != 0 || decide (own ≤ cap))
  let gens := s.wardGen.filter (fun p => decide (own + wardBytes s p.1 p.2 ≤ cap))
  match s.sets.find? (fun p => layerOver s p.2) with
  | some p => some (endPartner s p.1 TIER_FULL)
  | none =>
    if images.length < s.images.length ∨ gens.length < s.wardGen.length then some { s with images := images, wardGen := gens } else none

/-! ## What follows for the engine -/

/-- One consequence for the snapshot engine, if there is one: a bank has become too small, the pieces are acknowledged and the header
follows, the header is acknowledged and the generation is committed, or the transfer has failed (R528, R529, R534). -/
def snapStep (s : State) : Option State :=
  match shrinkBanks s with
  | some s => some s
  | none =>
  match (fifo s 24 snapStation).find? (·.ready) with
  | none => none
  | some m =>
    let n := m.queue % 4096
    let s' := setFifo s 24 snapStation (delFirst (fun y => y == m) (fifo s 24 snapStation))
    match buildImg s n with
    | none => some s'
    | some x =>
      if m.status ≠ DONE then some (endLayer s' n 0 m.status)
      else if m.idx = 0 then
        some (sendPartner s' n 1 (bankOff n ((ownSlot s n x.gen).getD 0) + headOff) (imgHeader x))
      else some (endLayer (updSet s' n (fun y => { y with genP := some x.gen })) n 0 DONE)

/-- How many consequences the engine can have at once. -/
def snapFuel (s : State) : Nat := 3 * (fifo s 24 snapStation).length + s.sets.length + 8

/-! ## The holder (R528-R530) -/

/-- An access to the partner area of this module by a module: only the ward's (R529). -/
def fromWard (s : State) (m : Nat) : Bool :=
  flag s F.SN_WARD_VALID f0 && getF s F.SN_WARD_MODULE f0 == m && s.partGran != 0

/-- The ward writes a piece of an image; the header, written last, commits its generation (R529): the reason of a refusal, or 0. -/
def wardWrite (s : State) (t : Tx) : State × Nat :=
  if !fromWard s t.srcModule || decide (t.body.length > 2048) || t.body.length != t.len then (s, 2)
  else
    let s := { s with wardMem := writeBytes s.wardMem t.offset t.body }
    if t.offset % 2 ^ 40 = headOff then
      ({ s with wardGen := tins s.wardGen (t.offset / 2 ^ 41 % 4) (fld t.body 0 4) }, 0)
    else (s, 0)

end Sys2Proof.Machine
end

