-- ==== Sys2Proof/Machine/ShardOps.lean ====
section
/-! DEFINITION. The update of a shard entry, and its wait for the read phase of a snapshot (R301-R303, R527). -/

namespace Sys2Proof.Machine

open Sys2Proof

/-- A manifest extent names a shard entry (R525): its die byte holds the die and the valid bit. -/
def extNames (e : SnExtent) (die n : Nat) : Bool := e.kind == 0 && bit e.die 4 && e.die % 16 == die && e.shard == n

/-- Places in the manifest of the extents that name a shard entry. -/
def extsOf (x : SnSet) (die n : Nat) : List Nat :=
  (List.range x.exts.length).filter (fun i => match x.exts[i]? with
    | some e => extNames e die n
    | none => false)

/-- A snapshot in progress has still to read an extent of a shard entry (R527). -/
def snapAwaits (s : State) (die n : Nat) : Bool :=
  s.sets.any (fun p => match p.2.run with
    | some r => r.layers != 0 && (extsOf p.2 die n).any (fun i => !r.read.contains i)
    | none => false)

/-- The first op 1 on an entry after a capture: no generation equals the live shards any more (R527). -/
def soilSets (s : State) (die n : Nat) : State :=
  { s with sets := s.sets.map (fun p =>
      (p.1, if (extsOf p.2 die n).isEmpty then p.2 else { p.2 with clean := none })) }

/-- Op 1 is applied to an OPEN entry: it waits for the last reference, or the entry enters UPDATING at once (R302). The answer says
whether it has completed. -/
def applyOp1 (s : State) (die n q tag : Nat) : State × Bool :=
  let x := getShard s die n
  let s := soilSets s die n
  if x.refs = 0 then (setShard s die n { x with state := 3 }, true)
  else (setShard s die n { x with state := 2, op1 := some (q, tag) }, false)

/-- The shard entry that an SH_CTL descriptor names, if it still waits. -/
def opWaiting (s : State) (w : Nat × Nat) : Option Nat :=
  match descOf s w.1 w.2 with
  | some d => if d.override.isSome || d.seqr == 5 then none else some (fld d.image 0x10 2)
  | none => none

/-- An op 1 that waited for a read phase goes on, or is gone (R302, R527). -/
def opWaitStep (s : State) : Option State :=
  match s.opWaits.find? (fun w => match opWaiting s w with
    | some n => !snapAwaits s (qDie w.1) n
    | none => true) with
  | none => none
  | some w =>
    let s := { s with opWaits := s.opWaits.filter (fun x => x != w) }
    match opWaiting s w with
    | none => some s
    | some n =>
      let die := qDie w.1
      let seqr := ((descOf s w.1 w.2).map seqStation).getD 0x30
      if (getShard s die n).state ≠ 1 then some (freeRd s w.1 w.2 CONFLICT seqr (detail6 [5]) (fun _ => true))
      else
        let (s, done) := applyOp1 s die n w.1 w.2
        some (if done then freeRd s w.1 w.2 DONE seqr [] (fun _ => true) else s)

end Sys2Proof.Machine
end

