-- ==== Sys2Proof/Machine/Sched.lean ====
section
/-! DEFINITION. The stage sequencer: schedules, the release of their entries, the parts an item runs, the end of items
and of schedules (R282-R299, R306). `settle` does what follows at once from descriptors that ended. -/

namespace Sys2Proof.Machine

open Sys2Proof

/-- Key of a schedule slot. -/
def schedKey (die slot : Nat) : Nat := die * 4 + slot

/-- The schedule whose lane a queue is, with its key and lane. -/
def laneOf (s : State) (q : Nat) : Option (Nat × Nat × Schedule) :=
  s.scheds.findSome? (fun p =>
    if p.1 / 4 == qDie q then
      match p.2.lanes.findIdx? (· == qLoc q) with
      | some l => some (p.1, l, p.2)
      | none => none
    else none)

/-- A queue is a lane of a running schedule (R283). -/
def isLane (s : State) (q : Nat) : Bool := (laneOf s q).isSome

/-! ## Fields of an entry (R287) -/

/-- Kind of an entry. -/
def eKind (e : Bytes) : Nat := fld e 0x20 1
/-- Lane of an entry. -/
def eLane (e : Bytes) : Nat := bits (fld e 0x21 1) 0 2
/-- Virtual stage of an entry. -/
def eStage (e : Bytes) : Nat := fld e 0x22 1
/-- Micro-batch of an entry. -/
def eMb (e : Bytes) : Nat := fld e 0x24 2
/-- Address and length of a list field at an offset. -/
def eList (e : Bytes) (off : Nat) : Nat × Nat := (fld e off 8 % 2 ^ 52, fld e off 8 / 2 ^ 52)

/-- Read entry `i` of a schedule: its bytes and the poison cause. -/
def readEntry (s : State) (c : Schedule) (i : Nat) : Bytes × Nat := jobRead s c.fn (c.table + 0x200 + 64 * i) 64

/-- The checks of an entry (R298). -/
def entryChecks (c : Schedule) (e : Bytes) : List (Nat × Bool) :=
  let mis (off : Nat) : Bool := (eList e off).1 % 64 != 0
  [(0x01, mis 0 || mis 8 || mis 0x10 || mis 0x18 || (bit (fld e 0x23 1) 1 && fld e 0x2E 2 == 0)),
   (0x06, bits (fld e 0x21 1) 2 6 != 0 || bits (fld e 0x23 1) 2 6 != 0 || bits (fld e 0x26 2) 12 4 != 0 ||
     bits (fld e 0x2C 2) 12 4 != 0 || bits (fld e 0x30 1) 4 4 != 0 || !zeroAt e 0x31 15),
   (0x08, decide (eKind e > 4) || c.lanes.getD (eLane e) 0xFFFF == 0xFFFF || decide (eStage e ≥ c.stages.length) ||
     (decide (eKind e ≥ 3) && (eList e 0).2 != 0))]

/-- Replace a schedule, with its registers (R312). -/
def setSched (s : State) (k : Nat) (c : Schedule) : State :=
  let die := k / 4
  let i := k % 4
  let busy := (c.items.zipIdx.map (fun p => if p.1.isSome then 2 ^ p.2 else 0)).foldl (· + ·) 0
  let s := { s with scheds := tins s.scheds k c }
  let s := setF s F.QUE_ST_STATE_STATE die i (if c.stopping = 0 then 1 else c.stopping)
  let s := setF s F.QUE_ST_STATE_BUSY die i busy
  let s := setF s F.QUE_ST_STATE_REPLAY die i (b2n c.replay)
  setF s F.QUE_ST_STEP_STEP die i c.step

/-- Lowest entry not yet released, from `i` on: an entry is released when its lane has passed it (R312). -/
def nextFrom (s : State) (c : Schedule) : Nat → Nat → Nat
  | 0, i => i
  | fuel + 1, i =>
    if i ≥ c.first + c.count then i
    else if c.pos.getD (eLane (readEntry s c i).1) 0 > i then nextFrom s c fuel (i + 1)
    else i

/-- Refresh QUE_ST_NEXT. -/
def showNext (s : State) (k : Nat) : State :=
  match tget? s.scheds k with
  | some c =>
    let from_ := getF s F.QUE_ST_NEXT_NEXT (k / 4) (k % 4)
    setF s F.QUE_ST_NEXT_NEXT (k / 4) (k % 4) (nextFrom s c (c.first + c.count - from_) from_)
  | none => s

/-- The detail bytes of ST_RUN: reason, entry index, eflags (R299). -/
def runDetail (reason idx eflags : Nat) : Bytes :=
  detail6 [reason, idx % 256, idx / 256 % 256, idx / 65536 % 256, idx / 2 ^ 24, eflags]

/-- The eflags that a schedule has come to, but for [3] (R299). -/
def runFlags (c : Schedule) : Nat := c.eflags + 16 * b2n c.replay

/-- End a schedule: complete ST_RUN with a status, a reason, an entry index and eflags (R299), and free the slot. -/
def endSched (s : State) (k : Nat) (c : Schedule) (status reason idx eflags : Nat) : State :=
  let s := { s with scheds := tdel s.scheds k }
  let s := setF s F.QUE_ST_STATE_STATE (k / 4) (k % 4) 0
  let s := setF s F.QUE_ST_STATE_BUSY (k / 4) (k % 4) 0
  let s := setF s F.QUE_ST_STATE_REPLAY (k / 4) (k % 4) 0
  match descOf s c.queue c.tag with
  | some d =>
    if d.seqr = 5 ∨ d.override.isSome then s
    else completeDesc s d status (seqStation d) (runDetail reason idx eflags) 0
  | none => s

/-- No item of the schedule runs. -/
def idleSched (c : Schedule) : Bool := c.items.all (·.isNone)

/-- Ask a schedule to stop with an end, at an entry or after the last one completed; the first request decides. -/
def stopSched (c : Schedule) (status reason : Nat) (idx : Option Nat) : Schedule :=
  match c.ending with
  | some _ => { c with stopping := 3 }
  | none => { c with stopping := 3, ending := some (status, reason, idx) }

/-- A lane queue leaves the running state (R295): its item is no longer the schedule's, and the schedule stops. -/
def laneLeft (s : State) (q status reason : Nat) : State :=
  match laneOf s q with
  | some (k, l, c) =>
    let c := { stopSched c status reason none with items := c.items.set l none, lanes := c.lanes.set l 0xFFFF }
    setSched s k c
  | none => s

/-! ## Admission of a part -/

/-- The part's list field: offset in the entry. -/
def partOff : Nat → Nat
  | 0 => 0x08
  | 1 => 0x00
  | 2 => 0x10
  | 3 => 0x08
  | 4 => 0x00
  | _ => 0x18

/-- Descriptors read from a list in a function's space. -/
def listImages (s : State) (fn va n : Nat) : List (Bytes × Nat) :=
  (List.range n).map (fun i => jobRead s fn (va + 64 * i) 64)

/-- Start a part of an item: its descriptors join the lane's queue in place of a fetch (R282). -/
def startPart (s : State) (k l : Nat) (c : Schedule) (it : Item) (part : Nat) : State :=
  let (va, n) := eList it.image (partOff part)
  let xs := listImages s c.fn va n
  let q := 4096 * (k / 4) + c.lanes.getD l 0
  let base := part * 4096
  let bad := ((xs.map (·.2)).find? (· != 0)).getD 0
  if bad ≠ 0 then
    let it := { it with part := part, todo := 0, ends := it.ends ++ [(base, causeStatus bad)] }
    setSched s k { c with items := c.items.set l (some it) }
  else
    let i := getQInt s q
    let new : List Fetched := xs.zipIdx.map (fun p => ⟨65536 + base + p.2, p.1.1⟩)
    let s := setQInt s q { i with fetched := i.fetched ++ new }
    setSched s k { c with items := c.items.set l (some { it with part := part, todo := n }) }

/-- The stage of an entry. -/
def stageOf (c : Schedule) (e : Bytes) : Stage := c.stages.getD (eStage e) ⟨0, 0, 1, 0, []⟩

/-- A stage has a layer with an action. -/
def hasAction (g : Stage) (a : Nat) : Bool := (g.actions.take g.layers).contains a

/-! ## Stash moves (R288, R290, R291) -/

/-- Base of the stash of a layer of an entry's stage and micro-batch (R288). -/
def stashBase (g : Stage) (mb l : Nat) : Nat := g.base + ((mb % g.slots) * g.layers + l) * g.bytes

/-- The layers of a stage with action 2. -/
def farLayers (g : Stage) : List Nat := (List.range g.layers).filter (fun l => g.actions.getD l 0 == 2)

/-- Request moves of every action-2 stash of an entry to a tier, with the priority of the queue that holds ST_RUN (R290, R291, R334). -/
def moveStash (s : State) (k : Nat) (c : Schedule) (e : Bytes) (tier : Nat) : State :=
  let g := stageOf c e
  let prio := getF s F.QUE_Q_CFG_PRIO (qDie c.queue) (qLoc c.queue)
  (farLayers g).foldl (fun s l =>
    requestExtent s c.fn (stashBase g (eMb e) l) tier (k / 4) prio (1 + k) (g.bytes / region)) s

/-- Promotions of a BWD entry's stashes that have not completed (R291). -/
def lateMoves (s : State) (k : Nat) (c : Schedule) (e : Bytes) : Nat :=
  let g := stageOf c e
  let recs := (farLayers g).flatMap (fun l => (List.range (g.bytes / region)).filterMap (fun i =>
    match findPage s c.fn (stashBase g (eMb e) l + i * region) with
    | some (_, p) => if p.kind = 2 then some p.backing else none
    | none => none))
  (s.moves.filter (fun m => m.origin == 1 + k && m.tier == 0 && recs.contains m.record)).length

/-- The BWD entry of the same micro-batch and stage lies within `lead` entries after `i` (R290). -/
def bwdSoon (s : State) (c : Schedule) (i : Nat) (e : Bytes) : Bool :=
  (List.range c.lead).any (fun j =>
    let n := i + 1 + j
    decide (n < c.first + c.count) &&
      (let x := (readEntry s c n).1
       eKind x == 1 && eMb x == eMb e && eStage x == eStage e))

/-! ## The end of an item -/

/-- The status of an item: a fault before an informational end, the earliest of its kind (R72, R290). -/
def itemStatus (it : Item) : Nat :=
  if it.dropping then
    (match it.ends.find? (fun p => statusKind p.2 == .fault && p.2 != WEIGHT_VERSION_MISMATCH && p.2 != CANCELLED) with
      | some p => p.2
      | none => MB_DROPPED)
  else
    match chosen (it.ends.map (fun p => ⟨p.1, p.2, 0, []⟩)) with
    | some r => r.status
    | none => DONE

/-- Complete an item: signal, stash bookkeeping, counts, and the stop on a fault (R288-R293, R296). -/
def endItem (s : State) (k l : Nat) (c : Schedule) (it : Item) : State :=
  let e := it.image
  let st := itemStatus it
  let sig := bit (fld e 0x23 1) 1 && signals st
  let sd := bits (fld e 0x30 1) 0 4
  let lost := sig && dieFenced s sd
  let st := if lost then FENCED else st
  let s := if sig && !lost then signalTok s sd (bits (fld e 0x2C 2) 0 12) (fld e 0x2E 2) else s
  let key := (eMb e, eStage e)
  let stash :=
    match eKind e with
    | 0 => if c.stash.contains key then c.stash else c.stash ++ [key]
    | 1 => c.stash.filter (· != key)
    | _ => c.stash
  let dropped := st == MB_DROPPED
  let c := { c with
    items := c.items.set l none, stash := stash, lastDone := it.idx, stepItems := c.stepItems + 1,
    stepDropped := c.stepDropped + b2n dropped,
    drops := if dropped then c.drops ++ [(it.idx, eMb e, eStage e)] else c.drops,
    eflags := c.eflags ||| b2n dropped }
  let c := if statusKind st == .fault && st != WEIGHT_VERSION_MISMATCH then stopSched c st 0 (some it.idx) else c
  let s := setSched s k c
  let s := addF s F.QUE_ST_ITEMS_ITEMS (k / 4) (k % 4) 1
  let s := if dropped then addF s F.QUE_ST_DROP_DROPPED (k / 4) (k % 4) 1 else s
  if eKind e = 0 ∧ !bwdSoon s c it.idx e then moveStash s k c e 1 else s

/-- What an item does once every descriptor of its part has ended. -/
def nextPart (s : State) (k l : Nat) (c : Schedule) (it : Item) : State :=
  let g := stageOf c it.image
  let fault := it.ends.any (fun p => statusKind p.2 == .fault && p.2 != CANCELLED && p.2 != WEIGHT_VERSION_MISMATCH)
  if it.part = 5 then endItem s k l c it
  else if it.misses ≠ 0 ∧ it.dropping then startPart s k l c it 5
  else if it.misses ≠ 0 ∧ it.part ≤ 1 then startPart s k l c it 2
  else if fault then endItem s k l c it
  else
    match it.part with
    | 0 => startPart s k l c it (if it.dropping then 5 else 1)
    | 2 => startPart s k l c it (if hasAction g 3 then 3 else 4)
    | 3 => startPart s k l c it 4
    | _ => endItem s k l c it

/-- A descriptor waits on a token, for the tiles of a stream or for a resource, or has issued no micro-command (R293 step 2). DEDUCED (log
entry 133): a program that waits on its own token for works it has issued waits on no token of the host's. -/
def cancellable (s : State) (d : Desc) : Bool :=
  let fed := inputsDone s d.queue d.tag
  d.seqr == 4 || !d.started || d.waiting || d.issued == 0 ||
  s.fifos.any (fun p => p.1 / 64 == qDie d.queue && (match p.2 with
    | m :: _ => m.queue == d.queue && m.tag == d.tag && (match m.kind with
      | .token _ _ => true
      | .work _ => !fed
      | .pass _ _ _ _ _ => !m.started && !fed
      | _ => false)
    | [] => false))

/-- Abandon a BWD item on a mismatch (R293): its unadmitted descriptors go, its waiting ones are cancelled. -/
def abandonItem (s : State) (k l : Nat) (c : Schedule) (it : Item) : State :=
  let q := 4096 * (k / 4) + c.lanes.getD l 0
  let i := getQInt s q
  let keep := i.fetched.filter (fun f => decide (f.counter < 65536))
  let s := setQInt s q { i with fetched := keep }
  let it := { it with todo := it.todo - (i.fetched.length - keep.length), misses := it.misses + 1,
                      dropping := it.dropping || c.drop || it.misses != 0 }
  let s := setSched s k { c with items := c.items.set l (some it),
                                 stepRerun := c.stepRerun + b2n (!it.dropping), eflags := c.eflags ||| 2 * b2n (!it.dropping) }
  let s := if it.dropping then s else addF s F.QUE_ST_DROP_RERUN (k / 4) (k % 4) 1
  (s.descs.filter (fun d => d.queue == q && d.lane != 0 && cancellable s d)).foldl (fun s d => cancelDesc s d CANCELLED) s

/-- Count one ended descriptor to its item (R290, R292, R293). -/
def countEnd (s : State) (q pos status : Nat) : State :=
  match laneOf s q with
  | none => s
  | some (k, l, c) =>
    match c.items.getD l none with
    | none => s
    | some it =>
      let miss := status == WEIGHT_VERSION_MISMATCH && eKind it.image == 1 && it.part != 5
      let again := it.misses != 0 && it.part ≤ 1
      let ends := if status == CANCELLED || miss then it.ends else it.ends ++ [(pos, status)]
      let it' := { it with todo := it.todo - 1, ends := ends }
      let s := setSched s k { c with items := c.items.set l (some it') }
      if miss && !again then
        match tget? s.scheds k with
        | some c => abandonItem s k l c it'
        | none => s
      else s

/-- An item whose part has ended: schedule key, lane, schedule, item. -/
def readyItem (s : State) : Option (Nat × Nat × Schedule × Item) :=
  s.scheds.findSome? (fun p =>
    (p.2.items.zipIdx.findSome? (fun x =>
      match x.1 with
      | some it => if it.todo = 0 then some (p.1, x.2, p.2, it) else none
      | none => none)))

/-- The end of a schedule whose items have all ended: it was stopped, or every entry is done (R292, R294, R299). -/
def readyEnd (s : State) : Option (Nat × Schedule) :=
  s.scheds.findSome? (fun p =>
    if idleSched p.2 && (p.2.stopping == 3 ||
        decide (nextFrom s p.2 (p.2.count + 1) p.2.first ≥ p.2.first + p.2.count)) then some p else none)

/-- Complete a schedule (R294, R299). -/
def finishSched (s : State) (k : Nat) (c : Schedule) : State :=
  match c.ending with
  | some (st, reason, idx) => endSched s k c st reason (idx.getD c.lastDone) (runFlags c + 8 * b2n (st == DONE))
  | none => endSched s k c (if bit c.eflags 0 then MB_DROPPED else DONE) 0 c.lastDone (runFlags c)

/-- One consequence of ended descriptors and edits, if there is one. -/
def settleStep (s : State) : Option State :=
  match s.laneDone with
  | (q, pos, st) :: r => some (countEnd { s with laneDone := r } q pos st)
  | [] =>
    match readyItem s with
    | some (k, l, c, it) => some (nextPart s k l c it)
    | none =>
      match readyEnd s with
      | some (k, c) => some (finishSched s k c)
      | none =>
        match pgStep s with
        | some s => some s
        | none =>
          match callsStep s with
          | some s => some s
          | none =>
            match snapStep s with
            | some s => some s
            | none => opWaitStep s

/-- Apply consequences until there is none; the count bounds them. -/
def settleN : Nat → State → State
  | 0, s => s
  | n + 1, s =>
    match settleStep s with
    | some s' => settleN n s'
    | none => s

/-! ## Queues that offer a descriptor (R91-R93) -/

/-- STATE of a queue (R80). -/
def qState (s : State) (q : Nat) : Nat := getF s F.QUE_Q_STATUS_STATE (qDie q) (qLoc q)
/-- ENABLE of a queue reads 1. -/
def qEnabled (s : State) (q : Nat) : Bool := flag s F.QUE_Q_CTRL_ENABLE (qDie q) (qLoc q)

/-- The queue may offer its front descriptor for admission: it runs, its limit leaves room, and its fence is satisfied
(R91, R93). -/
def offers (s : State) (q : Nat) : Bool :=
  qState s q == 1 && qEnabled s q && decide ((queueDescs s q).length ≤ getF s F.QUE_Q_CFG_OUTST_M1 (qDie q) (qLoc q)) &&
    (match (getQInt s q).fetched with
      | [] => false
      | f :: _ => !hFence f.image || qIdle s q)

/-- Queues that have begun to offer a descriptor become eligible, those that no longer do cease to be (R92). -/
def noteEligible (s : State) : State :=
  s.qints.foldl (fun s p =>
    let on := offers s p.1
    if on && p.2.eligible == 0 then setQInt { s with stamp := s.stamp + 1 } p.1 { p.2 with eligible := s.stamp + 1 }
    else if !on && p.2.eligible != 0 then setQInt s p.1 { p.2 with eligible := 0 }
    else s) s

/-! ## Entries a lane offers (R288, R289) -/

/-- No micro-batch holds the stash slot of a FWD entry (R288). -/
def slotFree (c : Schedule) (e : Bytes) : Bool :=
  let g := stageOf c e
  !(c.stash.any (fun p => p.2 == eStage e && p.1 != eMb e && p.1 % g.slots == eMb e % g.slots))

/-- The next unreleased entry of a lane; an entry that cannot be read or that names an unused lane is met by every lane (R298). -/
def laneNext (s : State) (c : Schedule) (l : Nat) : Nat → Nat → Option (Nat × Bytes × Nat)
  | 0, _ => none
  | fuel + 1, i =>
    if i ≥ c.first + c.count then none
    else
      let (e, cause) := readEntry s c i
      if eLane e = l ∨ cause ≠ 0 ∨ c.lanes.getD (eLane e) 0xFFFF = 0xFFFF then some (i, e, cause) else laneNext s c l fuel (i + 1)

/-- Every entry before `i` has completed (R289). -/
def allBefore (s : State) (c : Schedule) (i : Nat) : Bool :=
  !(c.items.any (fun x => match x with
    | some it => decide (it.idx < i)
    | none => false)) && decide (nextFrom s c (c.count + 1) c.first ≥ i)

/-- Whether an entry may be released but for its stash slot (R289). -/
def mayRelease (s : State) (k : Nat) (c : Schedule) (i : Nat) (e : Bytes) : Bool :=
  (!bit (fld e 0x23 1) 0 || waitHolds s (k / 4) (bits (fld e 0x26 2) 0 12) (fld e 0x28 4)) &&
  (eKind e != 4 || allBefore s c i)

/-- The entry a lane offers, if nothing runs in the lane. -/
def offer (s : State) (c : Schedule) (l : Nat) : Option (Nat × Bytes × Nat) :=
  if c.lanes.getD l 0xFFFF == 0xFFFF || (c.items.getD l none).isSome then none
  else laneNext s c l (c.count + 1) (c.pos.getD l 0)

/-- Count the FWD entries of a schedule that wait only for their stash slot (R288, R312). -/
def noteSlotWaits (s : State) (k : Nat) : State :=
  (List.range 4).foldl (fun s l =>
    match tget? s.scheds k with
    | none => s
    | some c =>
      match offer s c l with
      | some (i, e, 0) =>
        if eKind e = 0 ∧ mayRelease s k c i e ∧ !slotFree c e ∧ !c.waited.contains i then
          addF (setSched s k { c with waited := c.waited ++ [i] }) F.QUE_ST_SLOTWAIT_SLOTWAIT (k / 4) (k % 4) 1
        else s
      | _ => s) s

/-- Count the waits for a stash slot in every schedule that still releases entries. -/
def noteAllSlotWaits (s : State) : State :=
  (s.scheds.map (·.1)).foldl (fun s k =>
    match tget? s.scheds k with
    | some c => if c.stopping = 3 then s else noteSlotWaits s k
    | none => s) s

/-- What follows at once from descriptors that ended, from page-walker edits that may end or start and from what the Reduce
stations have learnt (R262, R290-R293, R299, R425); then queues become eligible (R92), FWD entries that wait for a stash slot are counted
(R288), and the movers issue the requests they can (R355). -/
def settle (s : State) : State :=
  pump (noteAllSlotWaits (noteEligible
    (settleN (s.laneDone.length + 8 * s.descs.length + 2 * s.walks.length + 16 * s.scheds.length + callsFuel s + snapFuel s + s.opWaits.length + 1) s)))

/-! ## Release of entries (R288, R289) -/

/-- Write the step's log record (R296). -/
def endRecord (s : State) (c : Schedule) (i : Nat) : Bytes :=
  let rec4 := (c.drops.take 4).flatMap (fun d => toLe 4 d.1 ++ toLe 2 d.2.1 ++ toLe 1 d.2.2 ++ toLe 1 0)
  toLe 4 c.step ++ toLe 4 i ++ toLe 8 (now s) ++ toLe 4 c.stepItems ++ toLe 2 c.stepDropped ++ toLe 2 c.stepRerun ++
    toLe 2 c.stepLate ++ toLe 6 0 ++ rec4 ++ toLe (32 - rec4.length) 0

/-- The drop list of a step that is replayed; none where its record cannot be replayed (R297). -/
def planOf (s : State) (fn log step : Nat) : Option (List Nat) :=
  let (b, cause) := jobRead s fn (log + 64 * (step % 1024)) 64
  let n := fld b 0x14 2
  if cause ≠ 0 ∨ fld b 0 4 ≠ step ∨ n > 4 then none
  else some ((List.range n).map (fun j => fld b (0x20 + 8 * j) 4))

/-- The END entries before `i` that are not yet released: how many steps after the current one entry `i` belongs to. -/
def endsBefore (s : State) (c : Schedule) (i : Nat) : Nat :=
  ((List.range (i - c.first)).filter (fun j =>
    let e := (readEntry s c (c.first + j)).1
    eKind e == 4 && decide (c.pos.getD (eLane e) 0 ≤ c.first + j))).length

/-- Read the records of further steps into the drop list of a replay; none where one cannot be replayed (R297). -/
def readPlans (s : State) : Nat → Schedule → Option Schedule
  | 0, c => some c
  | n + 1, c =>
    match planOf s c.fn c.log ((c.step + c.ahead) % 2 ^ 32) with
    | some p => readPlans s n { c with ahead := c.ahead + 1, plan := c.plan ++ p }
    | none => none

/-- Release an entry in a lane by its kind (R290, R291, R296). -/
def releaseWith (s : State) (k l : Nat) (c : Schedule) (i : Nat) (e : Bytes) : State :=
  let c := { c with pos := c.pos.set l (i + 1) }
  let n := i + c.lead
  let x := (readEntry s c n).1
  let s := setSched s k c
  let s := if n < c.first + c.count ∧ eKind x = 1 then moveStash s k c x 0 else s
  let late := if eKind e = 1 then lateMoves s k c e else 0
  let c := { c with stepLate := c.stepLate + late, eflags := c.eflags ||| 4 * b2n (late != 0) }
  let s := setSched (if late = 0 then s else addF s F.QUE_ST_LATE_LATE (k / 4) (k % 4) late) k c
  let drop := c.replay && c.plan.contains i
  let it : Item := ⟨i, e, 1, 0, [], 0, drop⟩
  match eKind e with
  | 0 => showNext (startPart s k l c it (if drop then 5 else 1)) k
  | 1 =>
    if hasAction (stageOf c e) 3 then showNext (startPart s k l c { it with part := 0 } 0) k
    else showNext (startPart s k l c it (if drop then 5 else 1)) k
  | 2 => showNext (startPart s k l c it (if drop then 5 else 1)) k
  | 3 => showNext (endItem s k l c it) k
  | _ =>
    let s := endItem s k l c it
    match tget? s.scheds k with
    | none => s
    | some c =>
      let (s, st) := jobWrite s (k / 4) c.fn (c.log + 64 * (c.step % 1024)) (endRecord s c i) 0
      let c := { c with step := (c.step + 1) % 2 ^ 32, ahead := c.ahead - 1, stepItems := 0, stepDropped := 0, stepRerun := 0,
                        stepLate := 0, drops := [] }
      let c := if st = 0 then c else stopSched c st 0 (some i)
      let c := if c.stopping = 2 then stopSched c DONE 0 none else c
      showNext (setSched s k c) k

/-- Release an entry in a lane; a replay first reads the records of all steps up to the entry's own, and a record that cannot be replayed
stops the schedule (R297). -/
def releaseEntry (s : State) (k l : Nat) (c : Schedule) (i : Nat) (e : Bytes) : State :=
  if !c.replay then releaseWith s k l c i e
  else
    match readPlans s (endsBefore s c i + 1 - c.ahead) c with
    | some c => releaseWith s k l c i e
    | none => setSched s k (stopSched c CONFLICT 7 (some i))

/-- The lowest lane whose offered entry fails its read or its checks, or may be released. -/
def pickLane (s : State) (k : Nat) (c : Schedule) : Option (Nat × Nat × Bytes × Nat × Option Nat) :=
  (List.range 4).findSome? (fun l =>
    match offer s c l with
    | none => none
    | some (i, e, cause) =>
      if cause ≠ 0 then some (l, i, e, cause, none)
      else
        match firstFail (entryChecks c e) with
        | some r => some (l, i, e, 0, some r)
        | none =>
          if mayRelease s k c i e && (eKind e != 0 || slotFree c e) then some (l, i, e, 0, none) else none)

end Sys2Proof.Machine
end

