-- ==== Sys2Proof/Machine/Matrix.lean ====
section
/-! DEFINITION. The matrix stations: the three call forms, the accumulation bit by bit, the masks, the stationary
sets and the counters (R108-R140). -/

namespace Sys2Proof.Machine

open Sys2Proof

/-- Kinds of operand pair a matrix station accepts (R110). -/
inductive Pair where
  | fp8
  | block
  | bf16
  | int8
  | slice8
  deriving DecidableEq, Repr

/-- The pair of two formats, if R110 has it. -/
def pairOf (a b : Nat) : Option Pair :=
  if (a = 1 ∨ a = 2) ∧ (b = 1 ∨ b = 2) then some .fp8
  else if isBlock a && isBlock b then some .block
  else if a = 3 ∧ b = 3 then some .bf16
  else if a = 6 ∧ b = 6 then some .int8
  else if a = 0x10 ∧ b = 0x10 then some .slice8
  else none

/-- The accumulator format of a pair (R122, R128). -/
def accFmt : Pair → Nat
  | .int8 => 0x07
  | .slice8 => 0x11
  | _ => 0x04

/-- Contraction indices a pass covers (R109). -/
def passLen (a b : Nat) : Nat := if a = 0x0C ∧ b = 0x0C then 1024 else 512

/-- The fields of a matrix body (R127). -/
structure MxBody where
  a : Nat
  aPitch : Nat
  b : Nat
  bPitch : Nat
  c : Nat
  cPitch : Nat
  m : Nat
  k : Nat
  n : Nat
  af : Nat
  bf : Nat
  cf : Nat
  ablk : Nat
  bblk : Nat
  acc : Bool
  aT : Bool
  bT : Bool
  mask : Nat
  stations : Nat
  tensor : Nat
  maskBase : Nat
  deriving DecidableEq, Repr

/-- Read a matrix body (R127). -/
def mxBody (img : Bytes) : MxBody :=
  let a := fld img 0x10 8
  let b := fld img 0x18 8
  let c := fld img 0x20 8
  let blk := fld img 0x35 1
  let ctl := fld img 0x36 1
  ⟨addrOf a, pitchOf a, addrOf b, pitchOf b, addrOf c, pitchOf c, fld img 0x28 4, fld img 0x2C 4, fld img 0x30 2,
    fld img 0x32 1, fld img 0x33 1, fld img 0x34 1, bits blk 0 3, bits blk 3 3, bit ctl 0, bit ctl 1, bit ctl 2,
    bits ctl 3 2, bits (fld img 0x37 1) 0 4, fld img 0x38 4, fld img 0x3C 4 * 2 ^ 20⟩

/-- Role of the outputs: gradient for opcodes 0x11 and 0x12 (R126, R170). -/
def mxRole (op : Nat) : Nat := if op = 0x10 then 0 else 1

/-- The block size code of a block-scaled C: the body gives none, so A's where it has one, otherwise 32 values
(DESIGN CHOICE, log entry 9). -/
def cBlk (x : MxBody) : Nat := if x.ablk ≠ 0 then x.ablk else 2

/-- Formats C may have beside the accumulator's: what CV produces from FP32 (R128). -/
def cFmtOk (p : Pair) (cf : Nat) : Bool :=
  match p with
  | .int8 => cf == 0x07
  | .slice8 => cf == 0x11
  | _ => fmtKnown cf && !(cf == 0x10 || cf == 0x11 || cf == 0x12 || cf == 0x20)

/-- Body checks of a matrix descriptor, in the order of R129. -/
def mxChecks (s : State) (d : Desc) : List (Nat × Bool) :=
  let img := d.image
  let op := opcode img
  let x := mxBody img
  let die := qDie d.queue
  let pr := pairOf x.af x.bf
  let p := profileFor s die d.fn x.tensor
  let cf := ladder (mxRole op) x.cf p.ceil
  let aLen := if x.aT then x.m else x.k
  let bLen := if x.bT then x.k else x.n
  let limited := !d.full
  [(0x01, match pr with
      | none => true
      | some p => !cFmtOk p x.cf),
   (0x02, x.m == 0 || x.n == 0 || x.k == 0),
   (0x03, x.a % 64 != 0 || x.b % 64 != 0 || x.c % 64 != 0 ||
     (blkSuits x.af x.ablk && decide (x.aPitch < rowBytes x.af x.ablk aLen)) ||
     (blkSuits x.bf x.bblk && decide (x.bPitch < rowBytes x.bf x.bblk bLen)) ||
     decide (x.cPitch < rowBytes cf (cBlk x) x.n)),
   (0x04, (isBlock x.af && x.aT) || (isBlock x.bf && !x.bT)),
   (0x05, x.ablk != x.bblk || !blkSuits x.af x.ablk || !blkSuits x.bf x.bblk),
   (0x06, x.acc && (match pr with
      | some p => x.cf != accFmt p
      | none => false)),
   (0x07, (x.mask != 0 && op != 0x12) || x.mask == 3),
   (0x08, pr == some .slice8 || bits (fld img 0x35 1) 6 2 != 0 || bits (fld img 0x36 1) 5 3 != 0 ||
     bits (fld img 0x37 1) 4 4 != 0 || (x.mask == 0 && !zeroAt img 0x3C 4)),
   (0x09, limited && !(pr == some .fp8 || pr == some .bf16 || pr == some .int8))]

/-- The stations a call may use: the named ones, or every unfenced one (R130). -/
def mxStations (s : State) (die sel : Nat) : List Nat :=
  if sel = 0 then ([0, 1, 2, 3] : List Nat).filter (fun st => !stFenced s die st)
  else ([0, 1, 2, 3] : List Nat).filter (fun st => bit sel st)

/-- The fenced station that ends a call with FENCED, if one is named or all are fenced (R130). -/
def mxFenced (s : State) (die sel : Nat) : Option Nat :=
  if sel = 0 then (if (mxStations s die 0).isEmpty then some 0 else none)
  else (mxStations s die sel).find? (fun st => stFenced s die st)

/-! ## Accumulation (R121-R124) -/

/-- What a column sum reports: INT32 wrapped, NaN written, overflow to infinity (R138). -/
structure AccFlags where
  wrap : Bool
  nan : Bool
  isOver : Bool
  deriving DecidableEq, Repr

/-- Events of two parts together. -/
def accJoin (a b : AccFlags) : AccFlags := ⟨a.wrap || b.wrap, a.nan || b.nan, a.isOver || b.isOver⟩

/-- One element of an operand: code, block scale code, format. -/
structure Elem where
  fmt : Nat
  code : Nat
  scale : Nat
  deriving DecidableEq, Repr

/-- The value of an element without its block scale. -/
def elRaw (e : Elem) : Val := elemVal e.fmt e.code
/-- The value of an element with its block scale. -/
def elVal (e : Elem) : Val := if isBlock e.fmt then scaledVal e.fmt e.code e.scale else elRaw e

/-- The FP32 pass sum of floating-point products: special values, else the sum rounded once (R122, R124). -/
def fpPass (block : Nat) (kind : Pair) (ps : List (Elem × Elem)) : Nat × AccFlags :=
  match specialOf (ps.map (fun p => vmul (elVal p.1) (elVal p.2))) with
  | some .nan => (nan32, ⟨false, true, false⟩)
  | some (.inf neg) => (inf32 neg, ⟨false, false, false⟩)
  | _ =>
    let prods := ps.map (fun p => exMul (finPart (elRaw p.1)) (finPart (elRaw p.2)))
    let x :=
      match kind with
      | .fp8 => exSum prods
      | .bf16 => windowSum prods
      | _ =>
        windowSum ((chunks ps.length block (ps.zip prods)).map (fun g =>
          match g with
          | [] => exZero
          | (e, _) :: _ => exScale (exSum (g.map (·.2))) ((e.1.scale : Int) + e.2.scale - 254)))
    (toF32 x, ⟨false, false, f32Over x⟩)

/-- The exact integer pass sum (R122). -/
def intPass (ps : List (Elem × Elem)) : Int :=
  ps.foldl (fun a p => a + (finPart (elRaw p.1)).n * (finPart (elRaw p.2)).n) 0

/-- Add an FP32 pass sum into an FP32 accumulator (R123). -/
def accAdd (a : Nat × AccFlags) (p : Nat × AccFlags) : Nat × AccFlags :=
  let r := add32 a.1 p.1
  (r, accJoin (accJoin a.2 p.2) ⟨false, isNan32 r, isFin32 a.1 && isFin32 p.1 && !isFin32 r⟩)

/-- One output element: passes in ascending contraction order, from the existing content of C when `init` is given
(R123). The result is an accumulator code. -/
def accElem (kind : Pair) (block plen : Nat) (init : Option Nat) (ps : List (Elem × Elem)) : Nat × AccFlags :=
  let passes := chunks ps.length plen ps
  match kind with
  | .int8 =>
    let step (a : Nat × AccFlags) (p : List (Elem × Elem)) : Nat × AccFlags :=
      let t := signed 32 a.1 + intPass p
      (unsigned 32 t, accJoin a.2 ⟨decide (t < -(2 ^ 31) ∨ t ≥ 2 ^ 31), false, false⟩)
    passes.foldl step (init.getD 0, ⟨false, false, false⟩)
  | .slice8 =>
    (unsigned 64 (passes.foldl (fun a p => a + intPass p) (signed 64 (init.getD 0))), ⟨false, false, false⟩)
  | _ =>
    match init, passes with
    | some c, _ => passes.foldl (fun a p => accAdd a (fpPass block kind p)) (c, ⟨false, false, false⟩)
    | none, p :: r => r.foldl (fun a p => accAdd a (fpPass block kind p)) (fpPass block kind p)
    | none, [] => (0, ⟨false, false, false⟩)

/-! ## The call -/

/-- The mask table (R131): row mask or block mask of C; `none` without a mask. -/
def maskBits (x : MxBody) : Nat :=
  match x.mask with
  | 1 => ceilDiv x.m 16
  | 2 => ceilDiv x.m 256 * ceilDiv x.n 256
  | _ => 0

/-- Row `i` of column chunk `ch` is computed (R131, R132). -/
def unmasked (x : MxBody) (table : Bytes) (i ch : Nat) : Bool :=
  let at_ (j : Nat) : Bool := bit (leNat ((table.drop (j / 8)).take 1)) (j % 8)
  match x.mask with
  | 1 => at_ (i / 16)
  | 2 => at_ (i / 256 * ceilDiv x.n 256 + ch)
  | _ => true

/-- Element `j` of a stored row as an operand element. -/
def elemAt (fmt blk len : Nat) (row : Bytes) (j : Nat) : Elem :=
  ⟨fmt, elemCode fmt row j, if isBlock fmt then scaleCode fmt blk len row j else 0⟩

/-- A row of C has an unmasked granule. -/
def rowOn (x : MxBody) (table : Bytes) (i : Nat) : Bool := (List.range (ceilDiv x.n 256)).any (unmasked x table i)

/-- Columns of a column chunk. -/
def chunkCols (x : MxBody) (ch : Nat) : Nat := min 256 (x.n - ch * 256)

/-- The place of elements [c, c+w) of a stored row whose start is `va`: address and bytes. -/
def segOf (fmt va c w : Nat) : Nat × Nat := (va + packedBytes fmt c, packedBytes fmt w)

/-- A row of A over the contraction, by row of C, with its poison cause: of a transposed A the columns of its 64-row transpose group (R119,
R126, R132, R134). -/
def aRow (s : State) (fn : Nat) (x : MxBody) (i : Nat) : List Elem × Nat :=
  if x.aT then
    let g := i / 64 * 64
    let w := min 64 (x.m - g)
    let rs := (List.range x.k).map (fun kk =>
      let e := segOf x.af (x.a + kk * x.aPitch) g w
      jobRead s fn e.1 e.2)
    (rs.map (fun r => elemAt x.af 0 w r.1 (i - g)), firstCause (rs.map (·.2)))
  else
    let r := jobRow s fn x.a x.aPitch (rowBytes x.af x.ablk x.k) i
    ((List.range x.k).map (elemAt x.af x.ablk x.k r.1), r.2)

/-- The columns of B in one column chunk, with the chunk's poison cause (R108, R134). -/
def bCols (s : State) (fn : Nat) (x : MxBody) (ch : Nat) : List (List Elem) × Nat :=
  let j0 := ch * 256
  let w := chunkCols x ch
  if x.bT then
    let rs := (List.range w).map (fun j => jobRead s fn (x.b + (j0 + j) * x.bPitch) (rowBytes x.bf x.bblk x.k))
    (rs.map (fun r => (List.range x.k).map (elemAt x.bf x.bblk x.k r.1)), firstCause (rs.map (·.2)))
  else
    let rs := (List.range x.k).map (fun kk =>
      let e := segOf x.bf (x.b + kk * x.bPitch) j0 w
      jobRead s fn e.1 e.2)
    ((List.range w).map (fun j => rs.map (fun r => elemAt x.bf 0 w r.1 j)), firstCause (rs.map (·.2)))

/-- One computed piece of C: row, chunk, accumulator codes, events, the poison it is written with. -/
structure CPiece where
  row : Nat
  chunk : Nat
  codes : List Nat
  flags : AccFlags
  cause : Nat
  deriving DecidableEq, Repr

/-! ## Passes (R109, R114, R131-R136) -/

/-- A pass: column chunk, number along the contraction, station, rows issued, rows skipped by the mask. -/
structure MxPass where
  chunk : Nat
  num : Nat
  st : Nat
  on : Nat
  skip : Nat
  deriving DecidableEq, Repr

/-- The passes of a call in program order: for each column chunk, dealt over the stations in turn, one for each part of the contraction; a
chunk that is masked whole has none (R109, R114, R132; log entry 8). -/
def passList (x : MxBody) (sts : List Nat) (table : Bytes) : List MxPass :=
  (List.range (ceilDiv x.n 256)).flatMap (fun ch =>
    let on := ((List.range x.m).filter (fun i => unmasked x table i ch)).length
    if on = 0 then []
    else (List.range (ceilDiv x.k (passLen x.af x.bf))).map (fun kk => ⟨ch, kk, sts.getD (ch % sts.length) 0, on, x.m - on⟩))

/-- The micro-commands of the passes: a LOAD and a STREAM for each (R114). -/
def passSteps (ps : List MxPass) : List PSpec :=
  ps.zipIdx.flatMap (fun p => [.push (.of p.1.st .load), .push (.signalling p.1.st (.pass p.1.on p.1.skip true p.2 none))])

/-- Contraction indices of a pass: first and count. -/
def passRange (x : MxBody) (kk : Nat) : Nat × Nat :=
  let l := passLen x.af x.bf
  (kk * l, min l (x.k - kk * l))

/-- The stationary tiles of a pass (R108, R126). -/
def bTiles (x : MxBody) (p : MxPass) : List JobRead :=
  let (k0, kn) := passRange x p.num
  if x.bT then matTiles x.b x.bPitch x.bf x.bblk x.k 0 (p.chunk * 256) (chunkCols x p.chunk) k0 kn 512
  else matTiles x.b x.bPitch x.bf 0 x.n 0 k0 kn (p.chunk * 256) (chunkCols x p.chunk) 512

/-- The streamed tiles of a part of the contraction: none whose rows of C are all masked (R126, R132). -/
def aTiles (x : MxBody) (table : Bytes) (kk : Nat) : List JobRead :=
  let (k0, kn) := passRange x kk
  if x.aT then
    ((List.range (ceilDiv x.m 64)).filter (fun g => (List.range (min 64 (x.m - 64 * g))).any (fun i => rowOn x table (64 * g + i)))).flatMap
      (fun g => matTiles x.a x.aPitch x.af 0 x.m 0 k0 kn (64 * g) (min 64 (x.m - 64 * g)) 64)
  else
    (matTiles x.a x.aPitch x.af x.ablk x.k 0 0 x.m k0 kn 512).filter (fun t =>
      (List.range t.geo.rows).any (fun i => rowOn x table ((t.geo.va - x.a) / x.aPitch + i)))

/-- The tiles of the existing C of a column chunk that an accumulating call reads (R123). -/
def cTiles (kind : Pair) (x : MxBody) (table : Bytes) (ch : Nat) : List JobRead :=
  (matTiles x.c x.cPitch (accFmt kind) 0 x.n x.tensor 0 x.m (ch * 256) (chunkCols x ch) 512).filter (fun t =>
    (List.range t.geo.rows).any (fun i => unmasked x table ((t.geo.va - x.c) / x.cPitch + i) ch))

/-- The causes of some tiles as their station has taken them in. -/
def tileCauses (s : State) (fn : Nat) (ts : List JobRead) : Nat :=
  firstCause (ts.map (fun t => firstCause ((geoExtents t.geo).map (fun e => (jobRead s fn e.1 e.2).2))))

/-- The first poisoned tile that a pass consumes: its stationary tiles, the streamed rows that it issues, the existing C (R49, R134). -/
def passCause (s : State) (fn : Nat) (kind : Pair) (x : MxBody) (table : Bytes) (p : MxPass) : Nat :=
  firstCause [tileCauses s fn (bTiles x p), tileCauses s fn (aTiles x table p.num),
    if x.acc && p.num == 0 then tileCauses s fn (cTiles kind x table p.chunk) else 0]

/-- The weight versions that came with the stationary tiles of a pass (R136, R435). -/
def passVersions (xs : List Input) (x : MxBody) (p : MxPass) : List (Nat × Nat) :=
  let es := (bTiles x p).flatMap (fun t => geoExtents t.geo)
  xs.filterMap (fun i => if es.any (fun e => e.1 == i.va) then i.version else none)

/-- The number of the pass at which the stationary tiles of a call first differ in version, in program order (R136). DESIGN CHOICE (log entry
45): the passes before it have issued their rows, this one and the later ones issue none. -/
def mixedFrom (xs : List Input) (x : MxBody) : List MxPass → Nat → List (Nat × Nat) → Option Nat
  | [], _, _ => none
  | p :: r, n, vs =>
    let vs := vs ++ passVersions xs x p
    if vs.any (fun v => v != vs.headD (0, 0)) then some n else mixedFrom xs x r (n + 1) vs

/-- The mask table as the sequencer read it (R131). -/
def maskTable (s : State) (fn : Nat) (x : MxBody) : Bytes × Nat :=
  if x.mask = 0 then ([], 0) else jobRead s fn x.maskBase (ceilDiv (maskBits x) 8)

/-- The place of a row of C among the rows that a pass of its chunk issues. -/
def rowOrdinal (x : MxBody) (table : Bytes) (i ch : Nat) : Nat := ((List.range i).filter (fun j => unmasked x table j ch)).length

/-- A parity error of a pass of the chunk was found at this row or before it (R135). -/
def parityAt (x : MxBody) (table : Bytes) (ps : List MxPass) (marks : List (Nat × Nat)) (i ch : Nat) : Bool :=
  marks.any (fun k => (ps.getD k.1 ⟨x.n, 0, 0, 0, 0⟩).chunk == ch && decide (k.2 ≤ rowOrdinal x table i ch))

/-- Compute the unmasked pieces of C (R122-R125, R132): poisoned by a tile that they depend on (0x05), or by a parity error (0x01)
(R134, R135). -/
def mxPieces (s : State) (fn : Nat) (kind : Pair) (x : MxBody) (table : Bytes) (ps : List MxPass) (marks : List (Nat × Nat)) : List CPiece :=
  let eb := fmtBits (accFmt kind) / 8
  let rows := (List.range x.m).map (fun i => if rowOn x table i then aRow s fn x i else ([], 0))
  (List.range (ceilDiv x.n 256)).flatMap (fun ch =>
    let on := rows.zipIdx.filter (fun r => unmasked x table r.2 ch)
    if on.isEmpty then []
    else
      let (cols, bc) := bCols s fn x ch
      on.map (fun r =>
        let old := if x.acc then jobRead s fn (x.c + r.2 * x.cPitch + ch * 256 * eb) (cols.length * eb) else ([], 0)
        let cause := if parityAt x table ps marks r.2 ch then 0x01 else if firstCause [bc, r.1.2, old.2] ≠ 0 then 0x05 else 0
        if cause ≠ 0 then ⟨r.2, ch, cols.map (fun _ => 0), ⟨false, false, false⟩, cause⟩
        else
          let es := cols.zipIdx.map (fun c =>
            accElem kind (blockSize x.ablk) (passLen x.af x.bf)
              (if x.acc then some (leNat ((old.1.drop (c.2 * eb)).take eb)) else none) (r.1.1.zip c.1))
          ⟨r.2, ch, es.map (·.1), es.foldl (fun a e => accJoin a e.2) ⟨false, false, false⟩, 0⟩))

/-- The bytes of one piece of C in its written format: elements, scales, events (R125, R128, R170). -/
def pieceBytes (kind : Pair) (c : ConvCtx) (p : CPiece) : Bytes × Bytes × ConvFlags :=
  let af := accFmt kind
  if c.fmt = af then (p.codes.flatMap (toLe (fmtBits af / 8)), [], ConvFlags.none)
  else convSeg c p.row (p.chunk * 256) (p.codes.map (elemVal af))

/-- The context in which the pieces of C are written (R125, R170). -/
def mxCtx (s : State) (d : Desc) (kind : Pair) (x : MxBody) : Profile × ConvCtx :=
  let p := profileFor s (qDie d.queue) d.fn x.tensor
  (p, if x.cf = accFmt kind then { convCtx s (qDie d.queue) p (mxRole (opcode d.image)) x.cf 0 x.tensor x.n with fmt := x.cf }
      else convCtx s (qDie d.queue) p (mxRole (opcode d.image)) x.cf (cBlk x) x.tensor x.n)

/-- Advance a divided counter of a matrix station unless its counters are held (R140). -/
def mxCount (s : State) (f : Fld) (die st k : Nat) : State :=
  if flag s F.MX_CNT_CTRL_FREEZE die st then s else addD s f die st k 1024

/-- Count result rows written with poison, unless the counters are held (R140). -/
def countPoison (s : State) (die st k : Nat) : State :=
  if flag s F.MX_CNT_CTRL_FREEZE die st then s else addD s F.MX_ERR_POISON_ROWS die st k 16

/-- Rows that no pass issued, because their column chunk is masked whole (R132, R140). -/
def countMasked (s : State) (die : Nat) (x : MxBody) (sts : List Nat) (table : Bytes) : State :=
  (List.range (ceilDiv x.n 256)).foldl (fun s ch =>
    if (List.range x.m).any (fun i => unmasked x table i ch) then s
    else mxCount s F.MX_ROWS_SKIP_SKIP die (sts.getD (ch % sts.length) 0) (x.m * ceilDiv x.k (passLen x.af x.bf))) s

/-- The station that ran a pass of a call: its STREAM follows the reads and a LOAD for each pass (R72). -/
def passStation (x : MxBody) (d : Desc) (k : Nat) : Nat :=
  ((d.retired.find? (fun r => r.idx == (if x.acc then 3 else 2) + 2 * k + 1)).map (·.station)).getD 0

/-- What the finished passes of a call give: its output, its samples and its counts (R134-R138, R195). -/
def mxOutput (s : State) (d : Desc) (kind : Pair) (x : MxBody) (table : Bytes) (ps : List MxPass) : Part :=
  let die := qDie d.queue
  let pieces := mxPieces s d.fn kind x table ps d.marks
  let (p, c) := mxCtx s d kind x
  let outs := pieces.map (fun p => (p, pieceBytes kind c p))
  let good := outs.filter (fun o => o.1.cause == 0)
  let fl := good.foldl (fun a o => convJoin a o.2.2.2) ConvFlags.none
  let acc := good.foldl (fun a o => accJoin a o.1.flags) ⟨false, false, false⟩
  let rows : List OutRow := good.map (fun o =>
    ⟨o.1.row, o.1.chunk * 256, samplePairs c (o.2.1 ++ o.2.2.1) (o.1.codes.map (elemVal (accFmt kind)))⟩)
  let xs := if x.cf = accFmt kind then [] else convSamples p c.fmt x.tensor x.m x.n rows
  let m : OutMat := ⟨x.c, x.cPitch, c.fmt, c.blk, x.n, x.tensor, decide (x.cf ≠ accFmt kind ∧ 0 < p.level), xs.map (·.1)⟩
  let ws := (List.range (ceilDiv x.n 256)).flatMap (fun ch =>
    outTiles m s.freeCtr (256 * ch) (chunkCols x ch)
      ((outs.filter (fun o => o.1.chunk == ch)).map (fun o => ⟨o.1.row, o.2.1, o.2.2.1, o.1.cause⟩)))
  let num := b2n acc.wrap + 2 * b2n (acc.nan || fl.nan != 0) + 4 * b2n acc.isOver
  let perm := (Config.freeWord s.freeCtr).toNat % 1001
  let bad (st : Nat) : Nat :=
    (pieces.filter (fun o => o.cause != 0 && passStation x d (ps.findIdx (fun p => p.chunk == o.chunk)) == st)).length
  { steps := [writeOut s d ws],
    detail := detail6 [0, num, d.used, perm % 256, perm / 256],
    tensor := x.tensor, fmt := c.fmt, split := false, samples := xs,
    after := fun s =>
      let s := (freshFree s).2
      let s := ([0, 1, 2, 3] : List Nat).foldl (fun s st => countPoison s die st (bad st)) s
      if x.cf = accFmt kind then s
      else countConv s die fl (if c.sr then (good.map (fun o => o.1.codes.length)).foldl (· + ·) 0 else 0) }

/-- A part that gives no output. -/
def Part.of (d : Desc) (steps : List PSpec) : Part := ⟨steps, d.detail, 0, 0, false, [], id⟩

/-- What the finished passes of a call lead to (R125, R136): nothing where their versions mixed; a conversion where C is narrower than the
accumulator; the output. -/
def mxPart (s : State) (d : Desc) (k : Nat) : Part :=
  let x := mxBody d.image
  let table := (maskTable s d.fn x).1
  let ps := passList x [0] table
  match pairOf x.af x.bf with
  | none => .of d []
  | some kind =>
    if (mixedFrom d.inputs x ps 0 []).isSome then .of d []
    else if k = 0 ∧ x.cf ≠ accFmt kind then
      .of d [.push (.signalling 0x18 (.work 0)), .await (ps.length + 1), .finish 1]
    else mxOutput s d kind x table ps

/-- Run a checked matrix call: its passes load and stream the tiles that movers bring (R70, R114, R130-R133). -/
def runMatrix (s : State) (d : Desc) (kind : Pair) : State :=
  let x := mxBody d.image
  let die := qDie d.queue
  match mxFenced s die x.stations with
  | some st => endOp s d FENCED st []
  | none =>
    let sts := mxStations s die x.stations
    let mt := maskTable s d.fn x
    if mt.2 ≠ 0 then endOp s d (causeStatus mt.2) (pickMover s die) []
    else
      let ps := passList x sts mt.1
      if ps.isEmpty then endOp (countMasked s die x sts mt.1) d DONE (seqStation d) (detail6 [0, 8])
      else
        let used := (ps.map (·.st)).eraseDups
        let parts := (ps.map (·.num)).eraseDups
        let chunks := (ps.map (·.chunk)).eraseDups
        let from_ := if x.cf = accFmt kind then sts.headD 0 else 0x18
        withStreams s d ([(moverAt s die 0, used), (moverAt s die 1, used)] ++
            (if x.acc then [(moverAt s die 3, used)] else []) ++ [(from_, [moverAt s die 2])]) (fun s ns =>
          let s := takeSnap (countMasked s die x sts mt.1) d x.tensor
          let s := takeIn s d (if x.mask = 0 then [] else [(x.maskBase, ceilDiv (maskBits x) 8)])
          runProgram s d.queue d.tag
            ([.push (.of (moverAt s die 0) (.reads (ns.getD 0 0) (parts.flatMap (aTiles x mt.1)))),
              .push (.of (moverAt s die 1) (.reads (ns.getD 1 0) (ps.flatMap (bTiles x))))] ++
              (if x.acc then [.push (.of (moverAt s die 3) (.reads (ns.getD 2 0) (chunks.flatMap (cTiles kind x mt.1))))] else []) ++
              passSteps ps ++ [.await ps.length, .finish 0]))

/-- Run a matrix opcode. -/
def runMxOp (op q tag : Nat) (s : State) : State :=
  match opDesc s q tag (fun i => opcode i == op) with
  | none => s
  | some d =>
    match firstFail (mxChecks s d), pairOf (mxBody d.image).af (mxBody d.image).bf with
    | some r, _ => settle (rejectOp s d CONFLICT r)
    | none, some kind => settle (runMatrix s d kind)
    | none, none => s

/-- MX_FWD: Y = X * W (R126). -/
def execMxFwd (q tag : Nat) (s : State) : Host.Outcome State Fault Refusal := .next (runMxOp 0x10 q tag s)

/-- MX_DGRAD: dX = dY * W transposed (R126). -/
def execMxDgrad (q tag : Nat) (s : State) : Host.Outcome State Fault Refusal := .next (runMxOp 0x11 q tag s)

/-- MX_WGRAD: dW = X transposed * dY, under a mask if one is given (R126, R131-R133). -/
def execMxWgrad (q tag : Nat) (s : State) : Host.Outcome State Fault Refusal := .next (runMxOp 0x12 q tag s)

/-! ## Stationary sets and passes (R111-R118, R135, R139) -/

/-- Everything before the next LOAD of the FIFO has started, and the LOAD has not (R114). -/
def nextLoad : List Micro → Bool
  | [] => false
  | m :: r => if m.started then nextLoad r else m.kind == .load

/-- Mark the first micro-command not started as started. -/
def startFirst : List Micro → List Micro
  | [] => []
  | m :: r => if m.started then m :: startFirst r else { m with started := true } :: r

/-- MX_LOAD: the loader starts the next LOAD into the shadow set (R111, R114): while it is EMPTY, or holds a set whose STREAM an abort has
purged (DESIGN CHOICE, log entry 121). -/
def execMxLoad (die st : Nat) (s : State) : Host.Outcome State Fault Refusal :=
  .next (if st < 4 ∧ isComp die ∧ ¬ stFenced s die st ∧ ¬ halted s die st ∧ getF s F.MX_STATE_SHADOW die st ≠ 1 ∧ nextLoad (fifo s die st) then
      setF (setFifo s die st (startFirst (fifo s die st))) F.MX_STATE_SHADOW die st 1
    else s)

/-- The started LOAD of a FIFO is finished. -/
def loadDone : List Micro → List Micro :=
  updFirst (fun m => m.kind == .load && m.started && !m.ready) (fun m => { m with ready := true })

/-- Swap the register sets: the shadow becomes active, the old active set EMPTY (R112). -/
def swapSets (s : State) (die st : Nat) : State :=
  setF (setF s F.MX_STATE_ACT_SET die st (1 - getF s F.MX_STATE_ACT_SET die st)) F.MX_STATE_SHADOW die st 0

/-- The next STREAM of a FIFO, when every micro-command before it has started and no other STREAM issues rows. -/
def nextPass : List Micro → Option Micro
  | [] => none
  | m :: r =>
    match m.kind with
    | .pass _ _ _ _ _ => if m.started then none else some m
    | _ => if m.started || m.ready then nextPass r else none

/-- The STREAM of a FIFO that issues rows. -/
def issuingPass (l : List Micro) : Option Micro :=
  l.find? (fun m => m.started && (match m.kind with
    | .pass _ _ _ _ _ => true
    | _ => false))

/-- Note the row before which a parity error was found in a pass; the first one stands (R135). -/
def noteParity (p : Option Nat) (m : Micro) : Micro :=
  match m.kind with
  | .pass rows skip swap k none => { m with kind := .pass rows skip swap k (p.bind (fun r => if r < rows then some r else none)) }
  | _ => m

/-- The next STREAM starts to issue its rows, on the set that it swaps in (R112, R114). -/
def startPass (s : State) (die st : Nat) (parity : Option Nat) : State :=
  match nextPass (fifo s die st) with
  | none => s
  | some m =>
    let s := match m.kind with
      | .pass _ _ true _ _ => swapSets s die st
      | _ => s
    setF (setFifo s die st (updFirst (fun x => x == m) (fun x => noteParity parity { x with started := true }) (fifo s die st)))
      F.MX_STATE_ISSUE die st 1

/-- The set of a STREAM can be used: it is active, or the shadow is READY (R114). -/
def setReady (s : State) (die st : Nat) (m : Micro) : Bool :=
  match m.kind with
  | .pass _ _ swap _ _ => !swap || getF s F.MX_STATE_SHADOW die st == 2
  | _ => false

/-- SHADOW_READY: the last load cycle completes; at a waiting boundary the sets swap and the STREAM issues its rows (R111, R113,
R114). -/
def execShadowReady (die st : Nat) (s : State) : Host.Outcome State Fault Refusal :=
  .next (if st < 4 ∧ getF s F.MX_STATE_SHADOW die st = 1 ∧ ¬ stFenced s die st then
      let s := setF (setFifo s die st (loadDone (fifo s die st))) F.MX_STATE_SHADOW die st 2
      if getF s F.MX_STATE_ISSUE die st = 2 ∧ ¬ halted s die st then startPass s die st none else s
    else s)

/-- MX_STREAM: a STREAM reaches the head of the FIFO while the station is IDLE. It issues its rows on a set that is ready, and else waits
at the boundary (R114), which it leaves here where its set became READY while the station was halted. While it issues rows, `parity` is the
row before which an error of its set was found (R135). -/
def execMxStream (die st : Nat) (parity : Option Nat) (s : State) : Host.Outcome State Fault Refusal :=
  .next (if st < 4 ∧ ¬ stFenced s die st ∧ ¬ halted s die st then
      match getF s F.MX_STATE_ISSUE die st, nextPass (fifo s die st), issuingPass (fifo s die st) with
      | 0, some m, _ => if setReady s die st m then startPass s die st parity else setF s F.MX_STATE_ISSUE die st 2
      | 2, some m, _ => if setReady s die st m then startPass s die st parity else s
      | 1, _, some m => setFifo s die st (updFirst (fun x => x == m) (noteParity parity) (fifo s die st))
      | _, _, _ => s
    else s)

/-- After the last row of a pass the next STREAM of the FIFO issues its rows on a set that is READY, or waits at the boundary; without one
the station rests (R112-R114). -/
def nextIssue (s : State) (die st : Nat) : State :=
  match nextPass (fifo s die st) with
  | none => setF s F.MX_STATE_ISSUE die st 0
  | some m => if setReady s die st m then startPass s die st none else setF s F.MX_STATE_ISSUE die st 2

/-- Issue cycles of one row of a pass: two for a BF16 pair (R110, R139). -/
def rowCycles (s : State) (q tag : Nat) : Nat :=
  match descOf s q tag with
  | some d => if opcode d.image / 16 = 1 ∧ (mxBody d.image).af = 3 then 2 else 1
  | none => 1

/-- What a finished pass counts (R135, R139, R140): a pass that a mixture of versions stopped has issued no row. -/
def countPass (s : State) (die st rows skip cycles : Nat) (parity : Option Nat) : State :=
  let s := mxCount (mxCount s F.MX_CYC_VALID_VALID die st (rows * cycles)) F.MX_ROWS_SKIP_SKIP die st skip
  let s := if flag s F.MX_CNT_CTRL_FREEZE die st then s else addW s F.MX_PASSES_PASSES die st 1
  if parity.isNone then s
  else logRec (if flag s F.MX_CNT_CTRL_FREEZE die st then s else addF s F.MX_ERR_PARITY die st 1) 1 die st 1 0 0

end Sys2Proof.Machine
end

