-- ==== Sys2Proof/Machine/AttnNum.lean ====
section
/-! DEFINITION. The arithmetic of the attention stations: powers and logarithms of two rounded once, block partials, the
merge of states, final values, the backward products (R213-R218, R229, R244, R245). -/

namespace Sys2Proof.Machine

open Sys2Proof

/-! ## Powers and logarithms of two -/

/-- The natural logarithm of 2 in steps of 2^-p, from below; the error is below p + 2 steps. -/
def ln2Fix (p : Nat) : Nat := ((List.range p).map (fun k => 2 ^ (p - (k + 1)) / (k + 1))).foldl (· + ·) 0

/-- The sum of the exponential series of `t` steps of 2^-p, from below. -/
def expTerms (p t : Nat) : Nat → Nat → Nat → Nat → Nat
  | 0, _, _, acc => acc
  | fuel + 1, k, term, acc =>
    if term = 0 then acc else expTerms p t fuel (k + 1) (term * t / (k * 2 ^ p)) (acc + term)

/-- Numerator and denominator of an exact value. -/
def exFrac (x : Ex) : Int × Nat := let (a, b) := pow2Pair x.e; (x.n * a, x.d * b)

/-- A value between 2^x rounded at a bound that is `p` bits fine and one that is a little above it; the two agree but for
values very close to a rounding boundary, which more bits decide. -/
def exp2Round (fmt : Nat) (x : Ex) : Nat → Nat → Nat
  | 0, _ => 0
  | fuel + 1, p =>
    let (num, den) := exFrac x
    let n := num / (den : Int)
    let t := (num % (den : Int)).toNat * ln2Fix p / den
    let lo := expTerms p t (2 * p) 1 (2 ^ p) 0
    let a := ieeeRound fmt (.fin false ⟨lo, 1, n - p⟩)
    let b := ieeeRound fmt (.fin false ⟨lo + 8 * p + 16, 1, n - p⟩)
    if a = b then a else exp2Round fmt x fuel (2 * p)

/-- 2^x for an exact x, rounded once to nearest even into a floating format: the code (R214, R215, R244). -/
def exp2Code (fmt : Nat) (x : Ex) : Nat :=
  if exLt x (exInt (-400)) then 0
  else if exLt (exInt 400) x then ieeeRound fmt (.inf false)
  else
    let (num, den) := exFrac x
    if num % (den : Int) = 0 then ieeeRound fmt (.fin false ⟨1, 1, num / (den : Int)⟩)
    else exp2Round fmt x 8 96

/-- The sum of the series of the inverse hyperbolic tangent of `u` steps of 2^-p, from below. -/
def atanhTerms (p u : Nat) : Nat → Nat → Nat → Nat → Nat
  | 0, _, _, acc => acc
  | fuel + 1, k, pw, acc =>
    if pw = 0 then acc else atanhTerms p u fuel (k + 2) (pw * u / 2 ^ p * u / 2 ^ p) (acc + pw / k)

/-- m + log₂ l between bounds, as for `exp2Round`; `e` is the exponent of l's leading bit and `z` its mantissa. -/
def lseRound (m : Ex) (e : Int) (zn zd : Nat) : Nat → Nat → Nat
  | 0, _ => 0
  | fuel + 1, p =>
    let u := 2 ^ p * (zn - zd) / (zn + zd)
    let lo := 2 * atanhTerms p u (2 * p) 1 u 0
    let hi := lo + 8 * p + 16
    let l2 := ln2Fix p
    let at_ (k : Nat) : Nat := ieeeRound 0x04 (let x := exAdd (exAdd m (exInt e)) ⟨k, 1, -(p : Int)⟩; .fin (exNegative x) x)
    let a := at_ (lo * 2 ^ p / (l2 + p + 2))
    let b := at_ (hi * 2 ^ p / l2 + 1)
    if a = b then a else lseRound m e zn zd fuel (2 * p)

/-- lse2 = m + log₂ l for a positive l, taken exactly and rounded once to FP32 (R218). -/
def lse2Code (m l : Ex) : Nat :=
  let e := exLog2 l
  let (num, den) := exFrac (exScale l (-e))
  if num.toNat = den then ieeeRound 0x04 (let x := exAdd m (exInt e); .fin (exNegative x) x)
  else lseRound m e num.toNat den 8 96

/-- An exact quotient by a nonzero value. -/
def exQuot (x y : Ex) : Ex :=
  ⟨if y.n < 0 then -(x.n * y.d) else x.n * y.d, x.d * y.n.natAbs, x.e - y.e⟩

/-- The IEEE 754 quotient of values by a value that is not zero. -/
def vquot (x y : Val) : Val :=
  match x, y with
  | .nan, _ => .nan
  | _, .nan => .nan
  | .inf _, .inf _ => .nan
  | .inf a, .fin b _ => .inf (a != b)
  | .fin a _, .inf b => .fin (a != b) exZero
  | .fin a x, .fin b y => .fin (a != b) (exQuot x y)

/-! ## States (R215-R217) -/

/-- FP32 code of −∞. -/
def negInf32 : Nat := 0xFF800000

/-- The empty state (R215). -/
def AtRow.empty (d : Nat) : AtRow := ⟨negInf32, 0, List.replicate d 0, false, 0⟩

/-- A sum of two scaled values, evaluated exactly and rounded once to FP32 (R215, R217). -/
def lin32 (c1 : Val) (x1 : Nat) (c2 : Val) (x2 : Val) : Nat :=
  ieeeRound 0x04 (vadd (vmul c1 (val32 x1)) (vmul c2 x2))

/-- The larger of two m values and the two coefficients of the merge (R215). -/
def mergeCoef (m1 m2 : Nat) : Nat × Val × Val :=
  let zero : Val := .fin false exZero
  match val32 m1, val32 m2 with
  | .fin _ a, .fin _ b =>
    let m := if exLt a b then b else a
    let c (x : Ex) : Val := val32 (exp2Code 0x04 (exAdd x (exNeg m)))
    (if exLt a b then m2 else m1, c a, c b)
  | .fin _ _, _ => (m1, val32 0x3F800000, zero)
  | _, .fin _ _ => (m2, zero, val32 0x3F800000)
  | _, _ => (m1, zero, zero)

/-- Merge a partial into a state (R215). -/
def mergeRow (t : AtRow) (m2 : Nat) (l2 : Val) (o2 : List Val) : AtRow :=
  let (m, c1, c2) := mergeCoef t.m m2
  { t with m := m, l := lin32 c1 t.l c2 l2, o := (t.o.zip o2).map (fun p => lin32 c1 p.1 c2 p.2) }

/-- Merge a stored partial into a state: marks and poison go along (R217, R235). -/
def mergeStored (t u : AtRow) : AtRow :=
  let cause := if t.cause ≠ 0 then t.cause else u.cause
  if cause ≠ 0 then { t with cause := cause }
  else if t.nan || u.nan then { t with nan := true }
  else mergeRow t u.m (val32 u.l) (u.o.map val32)

/-- A window sum of products with the special values of R124 and R217, exact. -/
def winSumVal (ps : List (Val × Val)) : Val :=
  match specialOf (ps.map (fun p => vmul p.1 p.2)) with
  | some v => v
  | none => let x := windowSum (ps.map (fun p => exMul (finPart p.1) (finPart p.2))); .fin (exNegative x) x

/-- A block partial's u: the window sum over keys with a nonzero weight; special value elements make it special (R214,
R217). -/
def uSum (ps : List (Val × Val)) : Val :=
  match specialOf (ps.map (·.2)) with
  | some v => v
  | none => let x := windowSum (ps.map (fun p => exMul (finPart p.1) (finPart p.2))); .fin (exNegative x) x

/-- The scaled score y of a query row and a key (R213): the FP32 code. -/
def scoreOf (kind : Pair) (block sigma : Nat) (q k : List Elem) : Nat :=
  ieeeRound 0x04 (vmul (val32 (fpPass block kind (q.zip k)).1) (val32 sigma))

/-- Fold one key block into a row (R213-R217): scores of the visible keys with their value elements. -/
def foldBlock (ys : List (Nat × List Val)) (t : AtRow) : AtRow :=
  if t.nan then t
  else if ys.any (fun y => match val32 y.1 with
      | .nan => true
      | .inf false => true
      | _ => false) then { t with nan := true }
  else
    let fs := ys.filter (fun y => isFin32 y.1)
    match fs with
    | [] => t
    | f :: r =>
      let mb := r.foldl (fun m y => if exLt (finPart (val32 m)) (finPart (val32 y.1)) then y.1 else m) f.1
      let ps := (fs.map (fun y =>
        (exp2Code 0x03 (exAdd (finPart (val32 y.1)) (exNeg (finPart (val32 mb)))), y.2))).filter (fun p => p.1 != 0)
      let ws := ps.map (fun p => (elemVal 0x03 p.1, p.2))
      let tb := windowSum (ws.map (fun w => finPart w.1))
      mergeRow t mb (.fin false tb) ((List.range t.o.length).map (fun n => uSum (ws.map (fun w => (w.1, w.2.getD n .nan)))))

/-- A row has no visible key (R218). -/
def emptyRow (t : AtRow) : Bool :=
  match val32 t.l with
  | .fin _ x => x.n == 0
  | _ => false

/-- What a row holds, as one number: values that the spec leaves open for it depend on nothing else (R204). -/
def rowKey (t : AtRow) : Nat := leNat (t.o.flatMap (toLe 4) ++ toLe 4 t.m ++ toLe 4 t.l)

/-- The final output values of a row, and its lse2 code; the logarithm of a negative l, which the spec does not state, is a free value that
depends on the row alone (R204, R218; log entry 33). -/
def finalRow (t : AtRow) : List Val × Nat :=
  if t.nan then (t.o.map (fun _ => Val.nan), nan32)
  else if emptyRow t then (t.o.map (fun _ => Val.fin false exZero), negInf32)
  else
    let l := val32 t.l
    let free := (Config.freeWord (rowKey t)).toNat
    let lse :=
      match val32 t.m, l with
      | .fin _ m, .fin false x => lse2Code m x
      | .inf true, .fin false _ => negInf32
      | .inf false, .fin false _ => inf32 false
      | .fin _ _, .inf false => inf32 false
      | .inf false, .inf false => inf32 false
      | _, .fin true _ => free
      | _, .inf true => free
      | _, _ => nan32
    (t.o.map (fun o => vquot (val32 o) l), lse)

/-! ## Backward products (R229, R244, R245) -/

/-- The pass sum of two rows by the FP8 or the BF16 rule, rounded once to FP32 (R122, R124, R244). -/
def passSum (fp8 : Bool) (ps : List (Val × Val)) : Nat :=
  match specialOf (ps.map (fun p => vmul p.1 p.2)) with
  | some v => ieeeRound 0x04 v
  | none =>
    let xs := ps.map (fun p => exMul (finPart p.1) (finPart p.2))
    toF32 (if fp8 then exSum xs else windowSum xs)

/-- The window sum of a list of products, rounded once to FP32 (R229, R245). -/
def winSum32 (ps : List (Val × Val)) : Nat := ieeeRound 0x04 (winSumVal ps)

/-- p and dS of a visible or masked pair, as BF16 codes (R244). -/
def bwdPair (visible : Bool) (y lse dp delta rho : Nat) : Nat × Nat :=
  if !isFin32 lse || !isFin32 delta then (0x7FC0, 0x7FC0)
  else if !visible then (0, 0)
  else
    let p : Nat :=
      match val32 y with
      | .nan => 0x7FC0
      | .inf true => 0
      | .inf false => 0x7F80
      | .fin _ x => exp2Code 0x03 (exAdd x (exNeg (finPart (val32 lse))))
    if p = 0 ∧ val32 y = .inf true then (0, 0)
    else (p, ieeeRound 0x03 (vmul (vmul (val32 rho) (elemVal 0x03 p)) (vadd (val32 dp) (vneg (val32 delta)))))

end Sys2Proof.Machine
end

