-- ==== Sys2Proof/Machine/AttnOps.lean ====
section
/-! DEFINITION. The calls of the attention class: parameter blocks, tables, checks, masks, the walk over block pairs,
forward and backward folds, outputs (R208-R235, R243-R248, R265). -/

namespace Sys2Proof.Machine

open Sys2Proof

/-! ## Parameter block, tables and masks (R219-R224) -/

/-- Read a length-table entry. -/
def lenEnt (b : Bytes) : LenEnt :=
  ⟨fld b 0 4, fld b 4 4, fld b 8 4, fld b 12 4, fld b 16 4, fld b 20 4, fld b 24 4, fld b 28 2, fld b 30 2⟩

namespace At

/-- Opcode of the call. -/
def op (c : AtCall) : Nat := opcode c.img
/-- Format of Q and K. -/
def qk (c : AtCall) : Nat := fld c.par 0 1
/-- Format of V. -/
def vf (c : AtCall) : Nat := fld c.par 1 1
/-- Block size code. -/
def blk (c : AtCall) : Nat := bits (fld c.par 2 1) 0 3
/-- Mask bits. -/
def mask (c : AtCall) : Nat := fld c.par 3 1
/-- Head dimension. -/
def d (c : AtCall) : Nat := fld c.par 4 2
/-- Query heads. -/
def nq (c : AtCall) : Nat := fld c.par 6 2
/-- KV heads. -/
def nkv (c : AtCall) : Nat := fld c.par 8 2
/-- Ring wait limit in ms. -/
def ringLimit (c : AtCall) : Nat := fld c.par 10 2
/-- σ. -/
def sigma (c : AtCall) : Nat := fld c.par 12 4
/-- ρ. -/
def rho (c : AtCall) : Nat := fld c.par 16 4
/-- Window. -/
def window (c : AtCall) : Nat := fld c.par 20 4
/-- Length-table entries. -/
def nSeq (c : AtCall) : Nat := fld c.par 24 4
/-- Tensor of O. -/
def tensor (c : AtCall) : Nat := fld c.par 28 4
/-- An address-and-pitch field of the parameter block. -/
def pf (c : AtCall) (o : Nat) : Nat := fld c.par o 8
/-- Address of the length table. -/
def lenTable (c : AtCall) : Nat := addrOf (pf c 0x20)
/-- Format of dO. -/
def doFmt (c : AtCall) : Nat := fld c.par 0x68 1
/-- Key granules of a bitmap row. -/
def sparseCols (c : AtCall) : Nat := fld c.par 0x6C 4
/-- First query head. -/
def h0 (c : AtCall) : Nat := fld c.img 0x38 2
/-- Query heads of the call. -/
def hn (c : AtCall) : Nat := fld c.img 0x3A 2
/-- Control byte. -/
def ctl (c : AtCall) : Nat := if op c = 0x32 then 0 else fld c.img 0x3C 1
/-- init. -/
def init (c : AtCall) : Bool := bit (ctl c) 0
/-- final. -/
def final (c : AtCall) : Bool := op c == 0x30 && bit (ctl c) 1
/-- ring. -/
def ring (c : AtCall) : Bool := bit (ctl c) 2
/-- paged. -/
def paged (c : AtCall) : Bool := bit (ctl c) 3
/-- Format of O. -/
def oFmt (c : AtCall) : Nat := if op c = 0x32 then fld c.img 0x20 1 else fld c.img 0x3D 1
/-- First hop. -/
def firstHop (c : AtCall) : Nat := fld c.img 0x3E 1
/-- Hops of the call. -/
def hops (c : AtCall) : Nat := fld c.img 0x3F 1 + 1
/-- Heads of the call. -/
def heads (c : AtCall) : List Nat := (List.range (hn c)).map (· + h0 c)
/-- The KV head of a query head (R212). -/
def kvHead (c : AtCall) (h : Nat) : Nat := h * nkv c / nq c
/-- Row space (R222). -/
def rq (c : AtCall) : Nat := (c.ents.map (fun e => e.q0 + e.qn)).foldl max 0
/-- Bytes of a state row (R226). -/
def stateRow (d : Nat) : Nat := ceilDiv (4 * d + 16) 64 * 64
/-- The pair kind of Q and K (R213). -/
def kind (c : AtCall) : Pair := if qk c = 1 then .fp8 else if qk c = 3 then .bf16 else .block
/-- Elements of a K or V row. -/
def kCols (c : AtCall) : Nat := nkv c * d c
/-- Elements of a Q or O row. -/
def qCols (c : AtCall) : Nat := nq c * d c
/-- Block size code of a format in this call. -/
def blkOf (c : AtCall) (f : Nat) : Nat := if f = 8 then blk c else 0
/-- Bytes of a K or V row of a sequence of the call's shape (R253). -/
def pageRow (c : AtCall) : Nat := (kvRow (qk c) (blk c) (d c) (nkv c)).getD 4096
/-- Positions per page of a sequence of the call's shape (R253). -/
def pagePos (c : AtCall) : Nat := kvPos (pageRow c)

/-- Document starts of an entry's sequence (R219). -/
def starts (c : AtCall) (e : LenEnt) : List Nat :=
  if bit (mask c) 3 then (List.range e.docCnt).map (fun i => fld c.doc (4 * (e.docOff + i)) 4) else []

/-- Document of a position. -/
def docOf (st : List Nat) (p : Nat) : Nat := (st.filter (fun x => decide (x ≤ p))).length

/-- A key position is visible to a query position (R219). -/
def visible (c : AtCall) (st : List Nat) (qp kp : Nat) : Bool :=
  let causal := bit (mask c) 0
  (!causal || decide (kp ≤ qp)) &&
  (!bit (mask c) 1 || (if causal then decide ((qp : Int) - kp < window c) else
    decide ((qp : Int) - kp < window c ∧ (kp : Int) - qp < window c))) &&
  (!bit (mask c) 2 || (decide (kp / 256 < sparseCols c) &&
    (let b := qp / 128 * sparseCols c + kp / 256
     bit (fld c.sparse (b / 8) 1) (b % 8)))) &&
  (st.isEmpty || docOf st qp == docOf st kp)

end At

/-! ## Checks (R231) -/

/-- A format and pitch suit a row of `cols` elements. -/
def atRowOk (fmt blk cols v : Nat) : Bool := addrOf v % 64 == 0 && decide (rowBytes fmt blk cols ≤ pitchOf v)

/-- A format of Q, K or V. -/
def atFmt (f : Nat) : Bool := f == 1 || f == 3 || f == 8

/-- An FP32 code is finite and positive. -/
def posF32 (c : Nat) : Bool :=
  match val32 c with
  | .fin false x => x.n != 0
  | _ => false

/-- Checks 0x01 to 0x03 of the body and parameter block. -/
def atChecks1 (s : State) (c : AtCall) : List (Nat × Bool) :=
  let op := At.op c
  let bwd := op == 0x31
  let prep := op == 0x32
  let p := profileFor s c.die c.fn (At.tensor c)
  let ceil := ladder 0 (At.oFmt c) p.ceil
  let q := fld c.img 0x18 8
  let o := if prep then q else fld c.img 0x20 8
  let dOk := ([64, 96, 128, 192, 256] : List Nat).contains (At.d c)
  let local_ := !At.ring c && !At.paged c
  let any8 := At.qk c == 8 || At.vf c == 8
  [(0x01, !atFmt (At.qk c) || !atFmt (At.vf c) || (if any8 then At.blk c != 1 && At.blk c != 2 else At.blk c != 0) ||
      (!bwd && At.oFmt c != 3 && At.oFmt c != 4) ||
      ((bwd || prep) && At.doFmt c != 1 && At.doFmt c != 2 && At.doFmt c != 3)),
   (0x02, !dOk || At.nq c == 0 || At.nkv c == 0 || At.hn c == 0 || decide (At.nkv c > At.nq c) ||
      decide (At.h0 c + At.hn c > At.nq c)),
   (0x03, addrOf (fld c.img 0x10 8) % 64 != 0 || At.lenTable c % 64 != 0 || At.pf c 0x40 % 2 ^ 52 % 4 != 0 ||
      (!prep && !atRowOk (At.qk c) (At.blkOf c (At.qk c)) (At.qCols c) q) ||
      (op == 0x30 && addrOf (fld c.img 0x28 8) % 64 != 0) || (!prep && addrOf (fld c.img 0x30 8) % 4 != 0) ||
      (((op == 0x30 && At.final c) || prep) && !atRowOk (if prep then At.oFmt c else ceil) 0 (At.qCols c) o) ||
      (!prep && local_ && (!atRowOk (At.qk c) (At.blkOf c (At.qk c)) (At.kCols c) (At.pf c 0x28) ||
        !atRowOk (At.vf c) (At.blkOf c (At.vf c)) (At.kCols c) (At.pf c 0x30))) ||
      ((bwd || prep) && (!atRowOk (At.doFmt c) 0 (At.qCols c) (At.pf c 0x50) || addrOf (At.pf c 0x60) % 4 != 0)) ||
      (bwd && (!atRowOk 0x04 0 (At.qCols c) (At.pf c 0x58) ||
        (local_ && (!atRowOk 0x04 0 (At.kCols c) (At.pf c 0x70) || !atRowOk 0x04 0 (At.kCols c) (At.pf c 0x78))))) ||
      (At.ring c && addrOf (At.pf c 0x48) % 64 != 0))]

/-- Check 0x03 of the ring plan's entries (R236). -/
def atPlanBad (c : AtCall) : Bool :=
  c.plan.any (fun e =>
    !atRowOk (At.qk c) (At.blkOf c (At.qk c)) (At.kCols c) (fld e 0 8) ||
    !atRowOk (At.vf c) (At.blkOf c (At.vf c)) (At.kCols c) (fld e 8 8) ||
    (At.op c == 0x31 && (!atRowOk 0x04 0 (At.kCols c) (fld e 0x10 8) || !atRowOk 0x04 0 (At.kCols c) (fld e 0x18 8))))

/-- The document starts of an entry do not rise strictly from 0; without a table's address there are none to read (R231, check 0x06). -/
def docBad (c : AtCall) (e : LenEnt) : Bool :=
  match if addrOf (At.pf c 0x40) = 0 then [] else At.starts c e with
  | [] => false
  | x :: r => x != 0 || (((x :: r).zip r).any (fun p => decide (p.2 ≤ p.1)))

/-- Query row ranges of two different entries overlap. -/
def rowsOverlap (es : List LenEnt) : Bool :=
  es.zipIdx.any (fun a => es.zipIdx.any (fun b =>
    decide (a.2 < b.2) && a.1.qn != 0 && b.1.qn != 0 && decide (a.1.q0 < b.1.q0 + b.1.qn) &&
      decide (b.1.q0 < a.1.q0 + a.1.qn)))

/-- A reserved bit or byte is set (R224-R229, R236). -/
def atReserved (c : AtCall) : Bool :=
  let op := At.op c
  let im := c.img
  let p := c.par
  let top (o : Nat) (b : Bytes) : Bool := bits (fld b o 8) 52 12 != 0
  let common := bits (fld p 2 1) 3 5 != 0 || bits (fld p 3 1) 4 4 != 0 || top 0x20 p || top 0x38 p || top 0x40 p ||
    top 0x48 p || top 0x60 p || !zeroAt p 0x69 3 || top 0x10 im
  let paged := At.paged c && (!zeroAt p 0x28 16)
  let hops := op != 0x32 && !At.ring c && !zeroAt im 0x3E 2
  let body :=
    match op with
    | 0x30 => top 0x28 im || top 0x30 im || bits (fld im 0x3C 1) 4 4 != 0
    | 0x31 => !zeroAt im 0x20 8 || !zeroAt im 0x28 8 || top 0x30 im || bits (fld im 0x3C 1) 4 4 != 0 ||
        bit (fld im 0x3C 1) 1 || !zeroAt im 0x3D 1
    | _ => !zeroAt im 0x21 7 || !zeroAt im 0x28 16 || !zeroAt im 0x3C 4
  common || paged || hops || body || c.plan.any (fun e => !zeroAt e 0x70 16)

/-- Checks 0x04 to 0x08, made on the tables. -/
def atChecks2 (c : AtCall) (full : Bool) : List (Nat × Bool) :=
  let op := At.op c
  let differ := c.ents.any (fun a => c.ents.any (fun b => a.seq == b.seq && (a.docOff != b.docOff || a.docCnt != b.docCnt)))
  [(0x04, rowsOverlap c.ents || c.ents.any (fun e => decide (e.docOff + e.docCnt > 2 ^ 32)) || c.ents.any (docBad c) ||
      differ || (At.ring c && (decide (c.ents.length > 2) || c.ents.any (fun a => c.ents.any (fun b => a.seq != b.seq))))),
   (0x05, !posF32 (At.sigma c) || (op == 0x31 && !posF32 (At.rho c)) || (At.ring c && At.paged c) ||
      (At.ring c && decide (At.firstHop c + At.hops c > 256)) || (At.ring c && addrOf (At.pf c 0x48) == 0)),
   (0x06, (bit (At.mask c) 1 && At.window c == 0) ||
      (bit (At.mask c) 2 && (At.sparseCols c == 0 || addrOf (At.pf c 0x38) == 0)) ||
      (bit (At.mask c) 3 && addrOf (At.pf c 0x40) == 0 && c.ents.any (fun e => e.docCnt != 0))),
   (0x07, atReserved c),
   (0x08, !full && (At.qk c == 8 || At.vf c == 8))]

/-- The end of a call that does not start: a failed check, or a table that cannot be read (status of its poison). -/
inductive AtEnd where
  | check (reason : Nat)
  | read (cause : Nat)
  deriving DecidableEq, Repr

/-- Read and check all that a call of AT_FWD, AT_BWD or AT_BPREP needs, in the order of R231 (R224). -/
def atPrepare (s : State) (d : Desc) : Except AtEnd AtCall :=
  let die := qDie d.queue
  let (par, c0) := jobRead s d.fn (addrOf (fld d.image 0x10 8)) 128
  if c0 ≠ 0 then .error (.read c0)
  else
    let c : AtCall := ⟨d.image, par, [], [], [], [], d.fn, die, []⟩
    let planOk := At.ring c && addrOf (At.pf c 0x48) != 0 && decide (At.firstHop c + At.hops c ≤ 256)
    let (pl, c3) := if planOk then jobRead s d.fn (addrOf (At.pf c 0x48) + 128 * At.firstHop c) (128 * At.hops c) else ([], 0)
    let c := { c with plan := chunks (At.hops c) 128 pl }
    match firstFail (atChecks1 s c) with
    | some r => .error (.check r)
    | none =>
      if c3 ≠ 0 then .error (.read c3)
      else if atPlanBad c then .error (.check 0x03)
      else if At.nSeq c = 0 ∨ At.nSeq c > 65536 then .error (.check 0x04)
      else
        let (lt, c1) := jobRead s d.fn (At.lenTable c) (32 * At.nSeq c)
        if c1 ≠ 0 then .error (.read c1)
        else
          let c := { c with ents := (chunks (At.nSeq c) 32 lt).map lenEnt }
          let ext := if bit (At.mask c) 3 && addrOf (At.pf c 0x40) != 0 then
            (c.ents.map (fun e => e.docOff + e.docCnt)).foldl max 0 else 0
          let (doc, c2) := jobRead s d.fn (addrOf (At.pf c 0x40)) (4 * ext)
          let top := (c.ents.map (fun e => if e.qn = 0 then 0 else (e.qpos + e.qn - 1) / 128 + 1)).foldl max 0
          let (sp, c4) := if bit (At.mask c) 2 && addrOf (At.pf c 0x38) != 0 then
            jobRead s d.fn (addrOf (At.pf c 0x38)) (ceilDiv (top * At.sparseCols c) 8) else ([], 0)
          if c2 ≠ 0 then .error (.read c2)
          else
            let c := { c with doc := doc, sparse := sp, vas := c.ents.map (fun e => (e.seq, ((getSeq s e.seq).map (·.va)).getD 0)) }
            match firstFail (atChecks2 c d.full) with
            | some r => .error (.check r)
            | none => if c4 ≠ 0 then .error (.read c4) else .ok c

/-! ## Keys (R221, R227, R236, R265) -/

/-- A run of keys: whether a walk resolves it, where its rows come from (of a paged run, the start of its sequence's region as the stations
see it), the first row, the rows, the position of the first, and where its rows of dK and dV are. -/
structure KRun where
  paged : Bool
  k : Nat
  v : Nat
  row : Nat
  count : Nat
  pos : Nat
  dk : Nat
  dv : Nat
  deriving DecidableEq, Repr

/-- Bytes of a K row. -/
def kLen (c : AtCall) : Nat := rowBytes (At.qk c) (At.blkOf c (At.qk c)) (At.kCols c)
/-- Bytes of a V row. -/
def vLen (c : AtCall) : Nat := rowBytes (At.vf c) (At.blkOf c (At.vf c)) (At.kCols c)

/-- The addresses at which stations see what a walk resolved: above every job address, so that it meets nothing that a mover translated. -/
def walkBase : Nat := 2 ^ 52

/-- The addresses of the K and V rows of key `j` of a run (R227, R254). -/
def keyAt (c : AtCall) (r : KRun) (j : Nat) : Nat × Nat :=
  if r.paged then
    let p := r.pos + j
    let a := r.k + p / At.pagePos c * region + p % At.pagePos c * At.pageRow c
    (a, a + 0x100000)
  else (addrOf r.k + (r.row + j) * pitchOf r.k, addrOf r.v + (r.row + j) * pitchOf r.v)

/-- The runs that the rows of an entry see, in fold order: the runs of its sequence, or the two runs of a hop (R221,
R241). -/
def runsOf (c : AtCall) (hop : Option Bytes) (e : LenEnt) : List KRun :=
  match hop with
  | some p =>
    let na := fld p 0x24 4
    let run (row n pos : Nat) : KRun := ⟨false, fld p 0 8, fld p 8 8, row, n, pos, fld p 0x10 8, fld p 0x18 8⟩
    [run 0 na (fld p 0x20 4), run na (fld p 0x2C 4) (fld p 0x28 4)]
  | none =>
    (c.ents.filter (fun x => x.seq == e.seq)).map (fun x =>
      if At.paged c then ⟨true, walkBase + ((c.vas.find? (fun v => v.1 == x.seq)).map (·.2)).getD 0, 0, 0, x.kn, x.kpos, 0, 0⟩
      else ⟨false, At.pf c 0x28, At.pf c 0x30, x.k0, x.kn, x.kpos, At.pf c 0x70, At.pf c 0x78⟩)

/-- One block pair: its query rows (place in the entry), run, first key and number of keys, and what each row sees. -/
structure BPair where
  ent : LenEnt
  qb : Nat
  rows : Nat
  run : KRun
  kb : Nat
  keys : Nat
  vis : List (List Bool)
  deriving DecidableEq, Repr

/-- All block pairs of a call or hop, in fold order of each query block, with those that are skipped (R220, R221). -/
def blockPairs (c : AtCall) (hop : Option Bytes) : List BPair :=
  c.ents.flatMap (fun e =>
    let st := At.starts c e
    (List.range (ceilDiv e.qn 128)).flatMap (fun qb =>
      let rows := min 128 (e.qn - qb * 128)
      (runsOf c hop e).flatMap (fun r =>
        (List.range (ceilDiv r.count 256)).map (fun kb =>
          let keys := min 256 (r.count - kb * 256)
          ⟨e, qb, rows, r, kb, keys, (List.range rows).map (fun i => (List.range keys).map (fun j =>
            At.visible c st (e.qpos + qb * 128 + i) (r.pos + kb * 256 + j)))⟩))))

/-- A pair is computed (R220). -/
def pairOn (p : BPair) : Bool := p.vis.any (fun r => r.any id)

/-! ## What the stations read (R212, R221, R227, R235) -/

/-- The part of a stored row that belongs to one head: its elements, then its block scales. -/
def headSeg (s : State) (c : AtCall) (fmt cols va h : Nat) : Bytes × Nat :=
  let n := At.d c
  let e := jobRead s c.fn (va + packedBytes fmt (h * n)) (packedBytes fmt n)
  if isBlock fmt then
    let k := blockSize (At.blk c)
    let x := jobRead s c.fn (va + packedBytes fmt cols + h * n / k) (n / k)
    (e.1 ++ x.1, firstCause [e.2, x.2])
  else e

/-- The elements of a head's part of a row. -/
def headElems (c : AtCall) (fmt : Nat) (seg : Bytes) : List Elem := (List.range (At.d c)).map (elemAt fmt (At.blkOf c fmt) (At.d c) seg)

/-- The values of a head's part of a row. -/
def headVals (c : AtCall) (fmt : Nat) (seg : Bytes) : List Val := (List.range (At.d c)).map (rowVal fmt (At.blkOf c fmt) (At.d c) seg)

/-- A head's part of row `r` of Q, O or dO, with its poison. -/
def qHead (s : State) (c : AtCall) (base fmt r h : Nat) : Bytes × Nat :=
  headSeg s c fmt (At.qCols c) (addrOf base + r * pitchOf base) h

/-- The parts of K and V of key `j` of a run that belong to one KV head, with their poison. -/
def keyHead (s : State) (c : AtCall) (r : KRun) (g j : Nat) : Bytes × Bytes × Nat :=
  let a := keyAt c r j
  let k := headSeg s c (At.qk c) (At.kCols c) a.1 g
  let v := headSeg s c (At.vf c) (At.kCols c) a.2 g
  (k.1, v.1, firstCause [k.2, v.2])

/-- The keys of a block pair for one KV head. -/
def pairKeys (s : State) (c : AtCall) (p : BPair) (g : Nat) : List (Bytes × Bytes × Nat) :=
  (List.range p.keys).map (fun j => keyHead s c p.run g (p.kb * 256 + j))

/-- The first row of a block pair's query block. -/
def pairBase (p : BPair) : Nat := p.ent.q0 + p.qb * 128

/-- The KV heads of some query heads in ascending order (R212). -/
def kvOf (c : AtCall) (hs : List Nat) : List Nat := (hs.map (At.kvHead c)).eraseDups

/-- An entry of the lse2 or the delta array, with its poison (R222). -/
def arrayAt (s : State) (c : AtCall) (base h r : Nat) : Bytes × Nat := jobRead s c.fn (addrOf base + 4 * (h * At.rq c + r)) 4

/-- The first poisoned tile that a block pair takes in for one query row and head (R49, R235). -/
def rowCause (s : State) (c : AtCall) (r h : Nat) : Nat :=
  let q := (qHead s c (fld c.img 0x18 8) (At.qk c) r h).2
  if At.op c = 0x31 then
    firstCause [q, (qHead s c (At.pf c 0x50) (At.doFmt c) r h).2, (arrayAt s c (fld c.img 0x30 8) h r).2, (arrayAt s c (At.pf c 0x60) h r).2]
  else q

/-- The first poisoned tile that a block pair takes in for some heads: each key block, then the rows of its heads (R49, R212). -/
def pairCause (s : State) (c : AtCall) (p : BPair) (hs : List Nat) : Nat :=
  firstCause ((kvOf c hs).flatMap (fun g =>
    (pairKeys s c p g).map (·.2.2) ++
      (hs.filter (fun h => At.kvHead c h == g)).flatMap (fun h => (List.range p.rows).map (fun i => rowCause s c (pairBase p + i) h))))

/-- The tiles of the query side of a query block for every head of the call. -/
def blockRowTiles (c : AtCall) (p : BPair) : List JobRead :=
  let tile (v fmt h : Nat) : List JobRead :=
    matTiles (addrOf v) (pitchOf v) fmt (At.blkOf c fmt) (At.qCols c) 0 (pairBase p) p.rows (h * At.d c) (At.d c) (At.d c)
  (At.heads c).flatMap (fun h =>
    let x := 4 * (h * At.rq c + pairBase p)
    tile (fld c.img 0x18 8) (At.qk c) h ++
      (if At.op c = 0x31 then tile (At.pf c 0x50) (At.doFmt c) h ++
          readsOf (addrOf (fld c.img 0x30 8) + x) (4 * p.rows) ++ readsOf (addrOf (At.pf c 0x60) + x) (4 * p.rows)
        else []))

/-- The tiles of the query side of some block pairs, each query block once. -/
def queryTiles (c : AtCall) (ps : List BPair) : List JobRead :=
  ((ps.map (fun p => { p with run := ⟨false, 0, 0, 0, 0, 0, 0, 0⟩, kb := 0, keys := 0, vis := [] })).eraseDups).flatMap (blockRowTiles c)

/-- Tiles of rows that a walk resolved to a physical place. -/
def placeTiles (ts : List JobRead) (va pa : Nat) : List JobRead :=
  ts.map (fun t => { t with geo := { t.geo with place := pa + (t.geo.va - va) + 1 } })

/-- Where a walk finds a key position: its page's physical address, or the poison of its key block (R265). -/
def walkAt (c : AtCall) (w : Walk) (p : Nat) : Nat × Nat :=
  if p ≥ w.limit then (0, 3)
  else
    match w.table.find? (fun e => e.1 == p / At.pagePos c) with
    | none => (0, 2)
    | some e => if e.2.lost then (0, 6) else (entAddr e.2, 0)

/-- The tiles of K and V of a block pair for one KV head; those of a paged pair by page, as its walk resolved it (R227, R254, R261). -/
def keyTiles (c : AtCall) (w : Option Walk) (p : BPair) (g : Nat) : List JobRead :=
  let n := At.d c
  let tile (va pitch fmt m : Nat) : List JobRead := matTiles va pitch fmt (At.blkOf c fmt) (At.kCols c) 0 0 m (g * n) n n
  let a := keyAt c p.run (p.kb * 256)
  match w with
  | none => tile a.1 (pitchOf p.run.k) (At.qk c) p.keys ++ tile a.2 (pitchOf p.run.v) (At.vf c) p.keys
  | some w =>
    let at_ (j : Nat) : Nat := (p.run.pos + p.kb * 256 + j)
    ((List.range p.keys).filter (fun j => j = 0 || at_ j % At.pagePos c = 0)).flatMap (fun j =>
      let m := min (p.keys - j) (At.pagePos c - at_ j % At.pagePos c)
      let x := walkAt c w (at_ j)
      let a := keyAt c p.run (p.kb * 256 + j)
      let pa := x.1 + at_ j % At.pagePos c * At.pageRow c
      if x.2 ≠ 0 then []
      else placeTiles (tile a.1 (At.pageRow c) (At.qk c) m) a.1 pa ++ placeTiles (tile a.2 (At.pageRow c) (At.vf c) m) a.2 (pa + 0x100000))

/-- The tiles of K and V of some block pairs: each key block once for each query block and KV head (R212). -/
def keysTiles (c : AtCall) (w : Option Walk) (ps : List BPair) : List JobRead :=
  ps.flatMap (fun p => (kvOf c (At.heads c)).flatMap (keyTiles c w p))

/-- The key rows of some paged pairs that the walk does not find are poisoned (R265). -/
def keyHoles (c : AtCall) (w : Walk) (ps : List BPair) : List Input :=
  ps.flatMap (fun p => (List.range p.keys).flatMap (fun j =>
    let x := walkAt c w (p.run.pos + p.kb * 256 + j)
    let a := keyAt c p.run (p.kb * 256 + j)
    if x.2 = 0 then [] else [⟨a.1, List.replicate (kLen c) 0, x.2, none⟩, ⟨a.2, List.replicate (vLen c) 0, x.2, none⟩]))

/-! ## The forward fold -/

/-- The states of a call's rows when it starts: every row of every entry, with one state for each head (R226, R235). -/
def startRows (c : AtCall) (one : Nat → Nat → AtRow) : List (Nat × List AtRow) :=
  c.ents.flatMap (fun e => (List.range e.qn).map (fun i => (e.q0 + i, (At.heads c).map (fun h => one h (e.q0 + i)))))

/-- A stored state row (R226). -/
def readState (s : State) (fn d a : Nat) : AtRow :=
  let (b, c) := jobRead s fn a (At.stateRow d)
  let fl := fld b (4 * d + 8) 4
  ⟨fld b (4 * d) 4, fld b (4 * d + 4) 4, (List.range d).map (fun n => fld b (4 * n) 4), bit fl 0,
    if c ≠ 0 then c else if bit fl 1 then 5 else 0⟩

/-- Fold one block pair into the states of its rows (R212, R220, R235); `hit` says which rows of which heads a parity error of the key
block's set strikes (R250). -/
def foldPair (s : State) (c : AtCall) (p : BPair) (hit : Nat → Nat → Bool) (rows : List (Nat × List AtRow)) : List (Nat × List AtRow) :=
  let base := pairBase p
  let ks := (kvOf c (At.heads c)).map (fun g => (g, pairKeys s c p g))
  rows.map (fun rw =>
    let i := rw.1 - base
    let vis := p.vis.getD i []
    if rw.1 < base ∨ rw.1 ≥ base + p.rows ∨ !vis.any id then rw
    else
      (rw.1, ((At.heads c).zip rw.2).map (fun ht =>
        let (h, t) := ht
        let keys := ((ks.find? (fun k => k.1 == At.kvHead c h)).map (·.2)).getD []
        let q := qHead s c (fld c.img 0x18 8) (At.qk c) rw.1 h
        let cause := firstCause [if hit h i then 0x01 else 0, firstCause (keys.map (·.2.2)), q.2]
        if t.cause ≠ 0 then t
        else if cause ≠ 0 then { t with cause := cause }
        else
          foldBlock (((keys.zip vis).filter (·.2)).map (fun k =>
            (scoreOf (At.kind c) (blockSize (At.blk c)) (At.sigma c) (headElems c (At.qk c) q.1) (headElems c (At.qk c) k.1.1),
              headVals c (At.vf c) k.1.2.1))) t)))

/-! ## Stations (R234) -/

/-- The KV heads of a call in ascending order. -/
def kvHeads (c : AtCall) : List Nat := kvOf c (At.heads c)

/-- The station of a query head: the lower half of the KV heads on AT0, the rest on AT1; one that is fenced leaves all to
the other (R234). An odd count gives AT0 the extra head (log entry 32). -/
def headStation (s : State) (die : Nat) (c : AtCall) (h : Nat) : Nat :=
  if stFenced s die 0x09 then 0x08
  else if stFenced s die 0x08 then 0x09
  else
    let gs := kvHeads c
    match gs.findIdx? (· == At.kvHead c h) with
    | some i => if i < ceilDiv gs.length 2 then 0x08 else 0x09
    | none => 0x08

/-- The stations of a call. -/
def atStations (s : State) (die : Nat) (c : AtCall) : List Nat :=
  ([0x08, 0x09] : List Nat).filter (fun st => (At.heads c).any (fun h => headStation s die c h == st))

/-- Both attention stations are fenced. -/
def atAllFenced (s : State) (die : Nat) : Bool := stFenced s die 0x08 && stFenced s die 0x09

/-- Advance a counter of a station that is not frozen, exactly or divided (R249, R250). -/
def atAdd (s : State) (f : Fld) (die st k div : Nat) : State :=
  if flag s F.AT_CNT_CTRL_FREEZE die (st - 8) then s else addD s f die (st - 8) k div

/-- The query heads of a call at one of its stations. -/
def headsAt (s : State) (c : AtCall) (st : Nat) : List Nat := (At.heads c).filter (fun h => headStation s c.die c h == st)

/-- The block pair and stacked row at which a parity error of a key block's set was found at a station, from the marks of a descriptor: the
number of the pair among those computed, times two, and the station; the row (R135, R250). -/
def parityHit (s : State) (c : AtCall) (marks : List (Nat × Nat)) (n rows h i : Nat) : Bool :=
  let st := headStation s c.die c h
  let place := ((headsAt s c st).filter (fun x => At.kvHead c x == At.kvHead c h)).findIdx (· == h) * rows + i
  marks.any (fun m => m.1 == 2 * n + (st - 8) && decide (m.2 ≤ place))

/-- Fold the pairs of a call, query block or hop in order, of which the first has number `n` (R216, R241). -/
def foldPairs (s : State) (c : AtCall) (marks : List (Nat × Nat)) : List BPair → Nat → List (Nat × List AtRow) → List (Nat × List AtRow)
  | [], _, rows => rows
  | p :: r, n, rows => foldPairs s c marks r (n + 1) (foldPair s c p (parityHit s c marks n p.rows) rows)

/-- Issue cycles of one row against one block (R209, R246). -/
def atCycles (c : AtCall) : Nat :=
  (if At.op c = 0x31 then 3 else 1) * (if At.d c > 128 then 2 else 1) * (if At.qk c = 3 then 2 else 1)

/-- Cycles in which a station loads a key block (R211, R246, R248). -/
def loadCycles (c : AtCall) : Nat :=
  (if At.op c = 0x31 then 2 else 1) * 256 * At.d c * (if At.qk c = 3 ∨ At.vf c = 3 then 2 else 1) / 512

/-- Cycles in which a station waits for the loads of some pairs (R211, R246, R248): AT_BWD loads each key block once for the query blocks that
see it; a forward call loads it for each query block, exposed above d = 128, and else as far as its rows do not hide it. -/
def loadWait (s : State) (c : AtCall) (on : List BPair) (st : Nat) : Nat :=
  let hs := headsAt s c st
  let gs := kvOf c hs
  if At.op c = 0x31 then (on.map (fun p => (p.run, p.kb))).eraseDups.length * gs.length * loadCycles c
  else
    (on.flatMap (fun p => gs.map (fun g =>
      if At.d c > 128 then loadCycles c
      else loadCycles c - p.rows * (hs.filter (fun h => At.kvHead c h == g)).length * atCycles c))).foldl (· + ·) 0

/-- Count the pairs of a call, query block or hop at its stations (R249, R250). -/
def countPairs (s : State) (die : Nat) (c : AtCall) (ps : List BPair) : State :=
  let on := ps.filter pairOn
  let rows := (on.map (·.rows)).foldl (· + ·) 0
  (atStations s die c).foldl (fun s st =>
    let k := (headsAt s c st).length
    let s := atAdd s F.AT_CYC_VALID_VALID die st (rows * k * atCycles c) 1024
    let s := atAdd s F.AT_CYC_LOAD_LOAD die st (loadWait s c on st) 1024
    let s := atAdd s F.AT_PAIRS_PAIRS die st (on.length * k) 1
    atAdd s F.AT_PAIRS_SKIP_SKIP die st ((ps.length - on.length) * k) 1) s

/-! ## Outputs (R218, R226, R233, R235) -/

/-- Index of a row and head in the state area and the lse2 and delta arrays (R222). -/
def atIndex (c : AtCall) (h r : Nat) : Nat := h * At.rq c + r

/-- The bytes of a state row; those of a NaN or poisoned row's numbers are open, and depend on the row alone (R204; log entry 33). -/
def stateBytes (t : AtRow) : Bytes :=
  let d := t.o.length
  let body := if t.nan || t.cause != 0 then freeBytes (rowKey t) (4 * d + 8)
    else t.o.flatMap (toLe 4) ++ toLe 4 t.m ++ toLe 4 t.l
  body ++ toLe 4 (b2n t.nan + 2 * b2n (t.cause != 0)) ++ toLe (At.stateRow d - 4 * d - 12) 0

/-- The output of a finalized row and head: its row and first column in O, its index in the arrays, its station, its state. -/
structure FinalRow where
  row : Nat
  col : Nat
  idx : Nat
  station : Nat
  state : AtRow
  deriving DecidableEq, Repr

/-- What finalizing writes (R218): writes, numflags, samples, events, written format, elements rounded stochastically. -/
structure FinalOut where
  writes : List JobWrite
  num : Nat
  samples : List (Nat × Bool)
  flags : ConvFlags
  fmt : Nat
  elems : Nat
  deriving DecidableEq, Repr

/-- Entries that share a line with a poisoned one are written first, so that its poison stands. -/
def poisonLast (ws : List JobWrite) : List JobWrite := ws.filter (fun w => w.poison == 0) ++ ws.filter (fun w => w.poison != 0)

/-- Finalize rows into O and lse2: `rows` and `cols` are the destination's (R195, R218). -/
def finalize (s : State) (die fn fmt tensor rows cols d oBase oPitch lse ctr : Nat) (fs : List FinalRow) : FinalOut :=
  let p := profileFor s die fn tensor
  let cx := convCtx s die p 0 fmt 0 tensor cols
  let outs := fs.map (fun f =>
    let (vs, l) := finalRow f.state
    (f, vs, l, convSeg cx f.row f.col vs))
  let good := outs.filter (fun o => o.1.state.cause == 0)
  let fl := good.foldl (fun a o => convJoin a o.2.2.2.2.2) ConvFlags.none
  let xs := convSamples p cx.fmt tensor rows cols (good.map (fun o => ⟨o.1.row, o.1.col, samplePairs cx o.2.2.2.1 o.2.1⟩))
  let m : OutMat := ⟨oBase, oPitch, cx.fmt, 0, cols, tensor, decide (0 < p.level), xs.map (·.1)⟩
  let bad (f : FinalRow) : Nat := if f.state.cause = 0 then 0 else 0x05
  let ws := ((fs.map (·.col)).eraseDups).flatMap (fun c =>
    outTiles m ctr c d ((outs.filter (fun o => o.1.col == c)).map (fun o => ⟨o.1.row, o.2.2.2.1, [], bad o.1⟩)))
  let ls := arrayWrites lse 4 (outs.map (fun o =>
    ⟨o.1.idx, if o.1.state.cause = 0 then toLe 4 o.2.2.1 else freeBytes (ctr * 2 ^ 40 + 2 ^ 39 + o.1.idx) 4, [], bad o.1⟩))
  let num := b2n (good.any (fun o => o.1.state.nan)) + 2 * b2n (good.any (fun o => !o.1.state.nan && emptyRow o.1.state)) +
    4 * b2n (fs.any (fun f => f.state.cause != 0)) + 8 * b2n (fl.sat != 0)
  ⟨ws ++ poisonLast ls, num, xs, fl, cx.fmt, if cx.sr then good.length * d else 0⟩

/-- Count special and poisoned rows (R250). -/
def countRows (s : State) (die : Nat) (fin : Bool) (fs : List FinalRow) : State :=
  fs.foldl (fun s f =>
    if f.state.cause ≠ 0 then atAdd s F.AT_ERR_POISON die f.station 1 16
    else if !fin then s
    else if f.state.nan then atAdd s F.AT_ROWS_SPECIAL_NAN die f.station 1 1
    else if emptyRow f.state then atAdd s F.AT_ROWS_SPECIAL_EMPTY die f.station 1 1
    else s) s

/-- The rows and heads of a call as outputs. -/
def finalRows (s : State) (c : AtCall) (rows : List (Nat × List AtRow)) : List FinalRow :=
  (At.heads c).zipIdx.flatMap (fun h => rows.map (fun rw =>
    ⟨rw.1, h.1 * At.d c, atIndex c h.1 rw.1, headStation s c.die c h.1, rw.2.getD h.2 (AtRow.empty (At.d c))⟩))

/-- The writes of the state area (R226). -/
def stateWrites (base : Nat) (fs : List FinalRow) : List JobWrite :=
  match fs with
  | [] => []
  | f :: _ => arrayWrites base (At.stateRow f.state.o.length) (fs.map (fun f => ⟨f.idx, stateBytes f.state, [], 0⟩))

/-- numflags of a call that writes states (R233). -/
def stateNum (fs : List FinalRow) : Nat :=
  let good := fs.filter (fun f => f.state.cause == 0)
  b2n (good.any (fun f => f.state.nan)) + 2 * b2n (good.any (fun f => !f.state.nan && emptyRow f.state)) +
    4 * b2n (fs.any (fun f => f.state.cause != 0))

/-- Detail bytes (R233). -/
def atDetail (reason num hops skipped all : Nat) : Bytes :=
  let p := if all = 0 then 0 else skipped * 1000 / all
  detail6 [reason, num, hops % 256, hops / 256, p % 256, p / 256]

/-! ## The backward fold (R243-R247) -/

/-- The FP32 accumulators of one row of K and one KV head: where dK and dV are, the row, the head, dK and dV, and a poison cause. One row
has one pair of accumulators, whichever runs it lies in (R245). -/
structure KGrad where
  kAt : Nat
  vAt : Nat
  row : Nat
  head : Nat
  dk : List Nat
  dv : List Nat
  cause : Nat
  deriving DecidableEq, Repr

/-- Add a window sum into an accumulator. -/
def accum (old : Nat) (ps : List (Val × Val)) : Nat := add32 old (winSum32 ps)

/-- The products of a query row and head with one key block: its values of Q and dO, p and dS of each key, and its poison. -/
structure BRow where
  row : Nat
  head : Nat
  q : List Val
  o : List Val
  p : List Nat
  ds : List Nat
  cause : Nat
  deriving DecidableEq, Repr

/-- Form p and dS of a row and head of a block pair (R244). -/
def bwdRow (s : State) (c : AtCall) (p : BPair) (ks : List (Bytes × Bytes × Nat)) (hit : Bool) (i h : Nat) : BRow :=
  let r := pairBase p + i
  let cause := firstCause [if hit then 0x01 else 0, firstCause (ks.map (·.2.2)), rowCause s c r h]
  if cause ≠ 0 then ⟨r, h, [], [], [], [], cause⟩
  else
    let fp8 := (At.doFmt c == 1 || At.doFmt c == 2) && At.vf c == 1
    let lse := leNat (arrayAt s c (fld c.img 0x30 8) h r).1
    let dl := leNat (arrayAt s c (At.pf c 0x60) h r).1
    let q := headElems c (At.qk c) (qHead s c (fld c.img 0x18 8) (At.qk c) r h).1
    let o := headVals c (At.doFmt c) (qHead s c (At.pf c 0x50) (At.doFmt c) r h).1
    let pd := (ks.zip (p.vis.getD i [])).map (fun kv =>
      bwdPair kv.2 (scoreOf (At.kind c) (blockSize (At.blk c)) (At.sigma c) q (headElems c (At.qk c) kv.1.1)) lse
        (passSum fp8 (o.zip (headVals c (At.vf c) kv.1.2.1))) dl (At.rho c))
    ⟨r, h, q.map elVal, o, pd.map (·.1), pd.map (·.2), 0⟩

/-- Add a block pair into dQ, dK and dV (R245). -/
def bwdPairFold (s : State) (c : AtCall) (p : BPair) (hit : Nat → Nat → Bool) (acc : List (Nat × List AtRow) × List KGrad) :
    List (Nat × List AtRow) × List KGrad :=
  let ks := (kvHeads c).map (fun g => (g, pairKeys s c p g))
  let keysOf (g : Nat) : List (Bytes × Bytes × Nat) := ((ks.find? (fun k => k.1 == g)).map (·.2)).getD []
  let br := (List.range p.rows).flatMap (fun i => (At.heads c).map (fun h =>
    bwdRow s c p (keysOf (At.kvHead c h)) (hit h i) i h))
  let rows := acc.1.map (fun rw => (rw.1, ((At.heads c).zip rw.2).map (fun ht =>
    match br.find? (fun b => b.row == rw.1 && b.head == ht.1) with
    | none => ht.2
    | some b =>
      if ht.2.cause ≠ 0 then ht.2
      else if b.cause ≠ 0 then { ht.2 with cause := b.cause }
      else
        let kvs := (keysOf (At.kvHead c ht.1)).map (fun k => headVals c (At.qk c) k.1)
        { ht.2 with o := ht.2.o.zipIdx.map (fun o =>
            accum o.1 ((b.ds.zip kvs).map (fun x => (elemVal 0x03 x.1, x.2.getD o.2 .nan)))) })))
  let first := p.run.row + p.kb * 256
  let grads := acc.2.map (fun g =>
    let mine := br.filter (fun b => At.kvHead c b.head == g.head)
    let cause := firstCause (mine.map (·.cause))
    let j := g.row - first
    if g.kAt ≠ p.run.dk ∨ g.vAt ≠ p.run.dv ∨ g.row < first ∨ g.row ≥ first + p.keys ∨ g.cause ≠ 0 then g
    else if cause ≠ 0 then { g with cause := cause }
    else
      let sum (old i : Nat) (ws : BRow → List Nat) (vs : BRow → List Val) : Nat :=
        accum old (mine.map (fun b => (elemVal 0x03 ((ws b).getD j 0), (vs b).getD i .nan)))
      { g with dv := g.dv.zipIdx.map (fun x => sum x.1 x.2 (·.p) (·.o)), dk := g.dk.zipIdx.map (fun x => sum x.1 x.2 (·.ds) (·.q)) })
  (rows, grads)

/-- Fold the backward pairs of a call or hop in order, of which the first has number `n`. -/
def bwdFold (s : State) (c : AtCall) (marks : List (Nat × Nat)) : List BPair → Nat → List (Nat × List AtRow) × List KGrad →
    List (Nat × List AtRow) × List KGrad
  | [], _, acc => acc
  | p :: r, n, acc => bwdFold s c marks r (n + 1) (bwdPairFold s c p (parityHit s c marks n p.rows) acc)

/-- The runs of keys of a call or hop, each once. -/
def allRuns (c : AtCall) (hop : Option Bytes) : List KRun := (c.ents.flatMap (runsOf c hop)).eraseDups

/-- The rows of K that a call or hop serves, each once, with where dK and dV are (R245). -/
def gradRows (c : AtCall) (hop : Option Bytes) : List (Nat × Nat × Nat) :=
  if At.paged c then []
  else ((allRuns c hop).flatMap (fun r => (List.range r.count).map (fun j => (r.dk, r.dv, r.row + j)))).eraseDups

/-- The accumulators of the key rows of a call or hop: zero, or what memory holds (R228). -/
def startGrads (s : State) (c : AtCall) (hop : Option Bytes) (zero : Bool) : List KGrad :=
  (gradRows c hop).flatMap (fun r => (kvHeads c).map (fun g =>
    let n := At.d c
    let rd (v : Nat) : List Nat × Nat :=
      if zero then (List.replicate n 0, 0)
      else
        let b := jobRead s c.fn (addrOf v + r.2.2 * pitchOf v + 4 * g * n) (4 * n)
        ((List.range n).map (fun i => fld b.1 (4 * i) 4), b.2)
    let a := rd r.1
    let b := rd r.2.1
    ⟨r.1, r.2.1, r.2.2, g, a.1, b.1, firstCause [a.2, b.2]⟩))

/-- The tiles of dK and dV that a call or hop adds into. -/
def gradTiles (c : AtCall) (hop : Option Bytes) : List JobRead :=
  if At.paged c then []
  else
    (allRuns c hop).flatMap (fun r => (kvHeads c).flatMap (fun g => ([r.dk, r.dv] : List Nat).flatMap (fun v =>
      matTiles (addrOf v) (pitchOf v) 0x04 0 (At.kCols c) 0 r.row r.count (g * At.d c) (At.d c) (At.d c))))

/-- The writes of dK and dV: the heads that the call serves (R228, R235). -/
def gradWrites (c : AtCall) (ctr : Nat) (gs : List KGrad) : List JobWrite :=
  let one (v : Nat) (xs : List KGrad) (el : KGrad → List Nat) (salt : Nat) : List JobWrite :=
    (kvHeads c).flatMap (fun g =>
      outTiles ⟨addrOf v, pitchOf v, 0x04, 0, At.kCols c, 0, false, []⟩ (2 * ctr + salt) (g * At.d c) (At.d c)
        ((xs.filter (fun x => x.head == g)).map (fun x => ⟨x.row, (el x).flatMap (toLe 4), [], if x.cause = 0 then 0 else 0x05⟩)))
  ((gs.map (fun g => (g.kAt, g.vAt))).eraseDups).flatMap (fun v =>
    let xs := gs.filter (fun g => g.kAt == v.1 && g.vAt == v.2)
    one v.1 xs (·.dk) 0 ++ one v.2 xs (·.dv) 1)

/-- Count the poisoned rows of dK and dV (R250). -/
def countGrads (s : State) (c : AtCall) (gs : List KGrad) : State :=
  (atStations s c.die c).foldl (fun s st =>
    let here := kvOf c (headsAt s c st)
    atAdd s F.AT_ERR_POISON c.die st (2 * (gs.filter (fun g => g.cause != 0 && here.contains g.head)).length) 16) s

/-- The writes of dQ (R245, R247). -/
def dqWrites (s : State) (c : AtCall) (ctr : Nat) (rows : List (Nat × List AtRow)) : List JobWrite :=
  let v := At.pf c 0x58
  let fs := finalRows s c rows
  ((fs.map (·.col)).eraseDups).flatMap (fun k =>
    outTiles ⟨addrOf v, pitchOf v, 0x04, 0, At.qCols c, 0, false, []⟩ ctr k (At.d c)
      ((fs.filter (fun f => f.col == k)).map (fun f =>
        ⟨f.row, f.state.o.flatMap (toLe 4), [], if f.state.cause = 0 then 0 else 0x05⟩)))

/-- dQ of a row and head when a call starts (R228). -/
def startDq (s : State) (c : AtCall) (zero : Bool) (h r : Nat) : AtRow :=
  let d := At.d c
  if zero then ⟨0, 0, List.replicate d 0, false, 0⟩
  else
    let v := At.pf c 0x58
    let b := jobRead s c.fn (addrOf v + r * pitchOf v + 4 * h * d) (4 * d)
    ⟨0, 0, (List.range d).map (fun i => fld b.1 (4 * i) 4), false, b.2⟩

/-- The states with which a call starts (R225, R226, R228); a ring call of AT_BWD starts dQ at zero at hop 0 alone. -/
def firstRows (s : State) (c : AtCall) : List (Nat × List AtRow) :=
  if At.op c = 0x31 then startRows c (startDq s c (At.init c && (!At.ring c || At.firstHop c == 0)))
  else
    startRows c (fun h r =>
      if At.init c then AtRow.empty (At.d c)
      else readState s c.fn (At.d c) (addrOf (fld c.img 0x28 8) + atIndex c h r * At.stateRow (At.d c)))

/-- The tiles with which a call starts: its rows of the state area one by one, or its rows of dQ (R226, R228, R235). -/
def firstTiles (c : AtCall) : List JobRead :=
  c.ents.flatMap (fun e => (At.heads c).flatMap (fun h =>
    if At.op c = 0x31 then
      let v := At.pf c 0x58
      if At.init c && (!At.ring c || At.firstHop c == 0) then []
      else matTiles (addrOf v) (pitchOf v) 0x04 0 (At.qCols c) 0 e.q0 e.qn (h * At.d c) (At.d c) (At.d c)
    else if At.init c then []
    else
      (List.range e.qn).map (fun i =>
        rawTile (addrOf (fld c.img 0x28 8) + atIndex c h (e.q0 + i) * At.stateRow (At.d c)) (At.stateRow (At.d c)))))

/-! ## Walk checks (R265) -/

/-- The outcome of a walk's checks for a call: status and reason (R265). -/
def walkFail (s : State) (c : AtCall) (e : LenEnt) : Option (Nat × Nat) :=
  if e.seq / 4096 ≠ c.die then some (CONFLICT, 0x10)
  else
    match getSeq s e.seq with
    | none => some (CONFLICT, 0x12)
    | some x =>
      if x.owner ≠ c.fn then some (FAULT_PROTECTION, 0x11)
      else if x.state = 3 then some (CONFLICT, 0x12)
      else if At.qk c ≠ x.fmt ∨ At.vf c ≠ x.fmt ∨ At.blk c ≠ x.blk ∨ At.d c ≠ x.d ∨ At.nkv c ≠ x.nkv then some (CONFLICT, 0x13)
      else none

/-- The first failing walk of a paged call. -/
def walksFail (s : State) (c : AtCall) : Option (Nat × Nat) :=
  if At.paged c then (c.ents.filter (fun e => e.qn != 0)).findSome? (walkFail s c) else none

end Sys2Proof.Machine
end

