-- ==== Sys2Proof/Machine/Split.lean ====
section
/-! DEFINITION. Split precision and the vector class: shared exponents, slices, exact recombination, slice sets,
VX_EW (R141-R163). -/

namespace Sys2Proof.Machine

open Sys2Proof

/-- A number rounded up to a multiple. -/
def align (k n : Nat) : Nat := ceilDiv n k * k

/-- A shared exponent (R142): all zeros, a NaN or infinity, or an exponent with its spread. -/
inductive ShExp where
  | zero
  | special
  | num (e : Int) (spread : Nat)
  deriving DecidableEq, Repr

/-- The shared exponent of a row or column (R141, R142). -/
def sharedExp (vs : List Val) : ShExp :=
  if vs.any (fun v => match v with
      | .fin _ _ => false
      | _ => true) then .special
  else
    let es := (vs.filter (fun v => (finPart v).n != 0)).map (fun v => exLog2 (finPart v))
    match es with
    | [] => .zero
    | e :: r =>
      let hi := r.foldl (fun a b => if a < b then b else a) e
      let lo := r.foldl (fun a b => if b < a then b else a) e
      .num hi (hi - lo).toNat

/-- The EXP16 code (R142). -/
def expCode : ShExp → Nat
  | .zero => 0x8000
  | .special => 0x7FFF
  | .num e _ => unsigned 16 e

/-- The shared exponent an EXP16 code stands for. -/
def expOf (c : Nat) : ShExp := if c = 0x8000 then .zero else if c = 0x7FFF then .special else .num (signed 16 c) 0

/-- The spread of a shared exponent; 0 in both marked cases (R142). -/
def spreadOf : ShExp → Nat
  | .num _ d => d
  | _ => 0

/-- Digits of one element (R143): `r` is the remainder, `t` the next digit. -/
def digitsFrom : Nat → Nat → Ex → List Int
  | 0, _, _ => []
  | fuel + 1, t, r =>
    let k : Int := 1 - 7 * (t : Int)
    let (w, _, _) := exSteps r k
    let d : Int := if r.n < 0 then -(w : Int) else w
    d :: digitsFrom fuel (t + 1) (exAdd r (exNeg ⟨d, 1, k⟩))

/-- The `s` digits of an element under a shared exponent (R142, R143). -/
def digits (s : Nat) (e : ShExp) (v : Val) : List Int :=
  match e with
  | .num x _ => digitsFrom s 1 (exScale (finPart v) (-x))
  | _ => List.replicate s 0

/-- A sliced vector: its shared exponent and the digits of its elements. -/
structure Sliced where
  exp : ShExp
  digs : List (List Int)
  deriving DecidableEq, Repr

/-- Slice one row or column. -/
def sliceVec (s : Nat) (vs : List Val) : Sliced :=
  let e := sharedExp vs
  ⟨e, vs.map (digits s e)⟩

/-- `G_g` of one output element: the exact sum over pairs i + j = g (R144). -/
def groupSum (g : Nat) (a b : List (List Int)) : Int :=
  (a.zip b).foldl (fun acc p =>
    acc + ((List.range (g - 1)).map (fun i => p.1.getD i 0 * p.2.getD (g - 2 - i) 0)).foldl (· + ·) 0) 0

/-- The exact V of R146: the sum over g = 2 .. s+1 of G_g * 2^(2-7g), for digit lists cut to `s` digits. -/
def recombine (s : Nat) (a b : List (List Int)) : Ex :=
  exSum ((List.range s).map (fun t => ⟨groupSum (t + 2) a b, 1, 2 - 7 * ((t + 2 : Nat) : Int)⟩))

/-- One output element (R146, R147): code and whether it is a NaN of R147 or overflowed. -/
def splitElem (cf s : Nat) (neg : Bool) (old : Option Val) (a b : Sliced) : Nat × Bool × Bool :=
  let nan := (ieeeRound cf .nan, true, false)
  match a.exp, b.exp with
  | .special, _ => nan
  | _, .special => nan
  | ea, eb =>
    let v :=
      match ea, eb with
      | .num x _, .num y _ => exScale (recombine s a.digs b.digs) (x + y)
      | _, _ => exZero
    let v := if neg then exNeg v else v
    match old with
    | some .nan => nan
    | some (.inf i) => (ieeeRound cf (.inf i), false, false)
    | some (.fin _ o) =>
      let t := exAdd v o
      let r := ieeeRound cf (.fin (exNegative t) t)
      (if t.n = 0 then 0 else r, false, isInfV (elemVal cf r))
    | none =>
      let r := ieeeRound cf (.fin (exNegative v) v)
      (if v.n = 0 then 0 else r, false, isInfV (elemVal cf r))

/-! ## Slice sets (R156-R158) -/

/-- Layout of a slice set: header and exponents, then planes. -/
def planesOffset (entries : Nat) : Nat := align 4096 (64 + 2 * entries)
/-- Bytes from one plane to the next. -/
def planeStride (rows pitch : Nat) : Nat := align 4096 (rows * pitch)

/-- The stored elements of an extent of rows, in pieces of 512 columns with their poison causes. -/
def segsOf (s : State) (fn base pitch fmt rows cols : Nat) : List (List (Bytes × Nat)) :=
  (List.range rows).map (fun i => (List.range (ceilDiv cols 512)).map (fun c =>
    let e := segOf fmt (base + i * pitch) (512 * c) (min 512 (cols - 512 * c))
    jobRead s fn e.1 e.2))

/-- The piece that holds an element. -/
def segAt (xs : List (List (Bytes × Nat))) (i j : Nat) : Bytes × Nat := (xs.getD i []).getD (j / 512) ([], 0)

/-- The vectors of stored elements along an axis, each with its poison cause: its stored rows (axis 0) or columns (axis 1). -/
def axisVecs {α : Type} (f : Bytes → Nat → α) (xs : List (List (Bytes × Nat))) (axis rows cols : Nat) : List (List α × Nat) :=
  if axis = 0 then
    (List.range rows).map (fun i =>
      ((List.range cols).map (fun j => f (segAt xs i j).1 (j % 512)), firstCause ((xs.getD i []).map (·.2))))
  else
    (List.range cols).map (fun j =>
      ((List.range rows).map (fun i => f (segAt xs i j).1 (j % 512)), firstCause ((List.range rows).map (fun i => (segAt xs i j).2))))

/-- Where a slice set lies: start, axis, stored rows and columns, bytes from row to row and from plane to plane, and the start of its first
plane (R157). -/
structure SetAt where
  va : Nat
  axis : Nat
  rows : Nat
  cols : Nat
  pitch : Nat
  stride : Nat
  planes : Nat
  deriving DecidableEq, Repr

/-- Exponent entries of a set. -/
def SetAt.entries (p : SetAt) : Nat := if p.axis = 0 then p.rows else p.cols

/-- The set that a header describes (R157). -/
def setOf (va : Nat) (h : Bytes) : SetAt :=
  ⟨va, fld h 1 1, fld h 4 4, fld h 8 4, fld h 12 2 * 64, fld h 16 8, va + fld h 24 4⟩

/-- A set of the module's own layout; `pitch` is in bytes, a multiple of 64 (R156, R157). -/
def setAt (va axis rows cols pitch : Nat) : SetAt :=
  ⟨va, axis, rows, cols, pitch, planeStride rows pitch, va + planesOffset (if axis = 0 then rows else cols)⟩

/-- Bytes of a set with `s` planes (R156). -/
def SetAt.size (p : SetAt) (s : Nat) : Nat := planesOffset p.entries + s * p.stride

/-- The tiles of a part of plane `t`: rows [r, r+n), columns [c, c+w), at most 512 in a tile. -/
def planeTiles (p : SetAt) (t r n c w : Nat) : List JobRead := matTiles (p.planes + t * p.stride) p.pitch 0x10 0 p.cols 0 r n c w 512

/-- The writes of a slice set: header and exponents, then the tiles of each plane (R157); what a poisoned vector touches is poisoned (R49). -/
def setWrites (p : SetAt) (s sf ctr : Nat) (vecs : List (Sliced × Nat)) : List JobWrite :=
  let spread := sat 255 ((vecs.map (fun v => spreadOf v.1.exp)).foldl max 0)
  let special := vecs.any (fun v => v.1.exp == .special)
  let head := toLe 1 s ++ toLe 1 p.axis ++ toLe 1 sf ++ toLe 1 0 ++ toLe 4 p.rows ++ toLe 4 p.cols ++ toLe 2 (p.pitch / 64) ++
    toLe 1 spread ++ toLe 1 0 ++ toLe 8 p.stride ++ toLe 4 (p.planes - p.va) ++ toLe 4 (b2n special) ++
    toLe 32 0 ++ vecs.flatMap (fun v => toLe 2 (expCode v.1.exp))
  let cause := if vecs.any (fun v => v.2 != 0) then 0x05 else 0
  let body := if cause = 0 then head else freeBytes (ctr * 2 ^ 40 + 2 ^ 39) head.length
  let digit (t i j : Nat) : Int :=
    if p.axis = 0 then ((vecs.getD i (⟨.zero, []⟩, 0)).1.digs.getD j []).getD t 0
    else ((vecs.getD j (⟨.zero, []⟩, 0)).1.digs.getD i []).getD t 0
  let bad (i c w : Nat) : Bool :=
    if p.axis = 0 then (vecs.getD i (⟨.zero, []⟩, 0)).2 != 0 else ((vecs.drop c).take w).any (fun v => v.2 != 0)
  ((chunks body.length 65536 body).zipIdx.map (fun b => rawWrite (p.va + 65536 * b.2) b.1 cause 0)) ++
  (List.range s).flatMap (fun t => (List.range (ceilDiv p.cols 512)).flatMap (fun k =>
    let w := min 512 (p.cols - 512 * k)
    outTiles ⟨p.planes + t * p.stride, p.pitch, 0x10, 0, p.cols, 0, false, []⟩ (ctr * 64 + t) (512 * k) w
      ((List.range p.rows).map (fun i =>
        ⟨i, (List.range w).flatMap (fun j => toLe 1 (unsigned 8 (digit t i (512 * k + j)))), [],
          if bad i (512 * k) w then 0x05 else 0⟩))))

/-- The exponents of a set, each with its cause (R142, R157). -/
def setExps (s : State) (fn : Nat) (p : SetAt) : List (ShExp × Nat) :=
  (List.range p.entries).map (fun x =>
    let r := jobRead s fn (p.va + 64 + 2 * x) 2
    (expOf (leNat r.1), r.2))

/-- The vectors of a set along its axis, cut to its first `n` planes, with their exponents (R148, R158). -/
def setVecs (s : State) (fn : Nat) (p : SetAt) (n : Nat) (exps : List (ShExp × Nat)) : List (Sliced × Nat) :=
  let planes := (List.range n).map (fun t =>
    axisVecs (fun b j => signed 8 (fld b j 1)) (segsOf s fn (p.planes + t * p.stride) p.pitch 0x10 p.rows p.cols) p.axis p.rows p.cols)
  exps.zipIdx.map (fun e =>
    let vs := planes.map (fun q => q.getD e.2 ([], 0))
    (⟨e.1.1, (List.range (if p.axis = 0 then p.cols else p.rows)).map (fun y => vs.map (fun v => v.1.getD y 0))⟩,
      firstCause (e.1.2 :: vs.map (·.2))))

/-- A slice-set operand breaks R158: axis, shape, or planes. -/
def badSet (h : Bytes) (axis rows cols need : Nat) : Bool :=
  fld h 1 1 != axis || fld h 4 4 != rows || fld h 8 4 != cols || decide (fld h 0 1 < need)

/-! ## SL_GEMM (R155) -/

/-- The fields of a split body (R155). -/
structure SlBody where
  a : Nat
  aPitch : Nat
  b : Nat
  bPitch : Nat
  c : Nat
  cPitch : Nat
  m : Nat
  k : Nat
  n : Nat
  af : Nat
  bf : Nat
  cf : Nat
  s : Nat
  acc : Bool
  aT : Bool
  bT : Bool
  neg : Bool
  bound : Nat
  tensor : Nat
  scratch : Nat
  deriving DecidableEq, Repr

/-- Read a split body. -/
def slBody (img : Bytes) : SlBody :=
  let a := fld img 0x10 8
  let b := fld img 0x18 8
  let c := fld img 0x20 8
  let ctl := fld img 0x36 1
  ⟨addrOf a, pitchOf a, addrOf b, pitchOf b, addrOf c, pitchOf c, fld img 0x28 4, fld img 0x2C 4, fld img 0x30 2,
    fld img 0x32 1, fld img 0x33 1, fld img 0x34 1, bits (fld img 0x35 1) 0 4, bit ctl 0, bit ctl 1, bit ctl 2, bit ctl 3,
    fld img 0x37 1, fld img 0x38 4, fld img 0x3C 4 * 2 ^ 20⟩

/-- An operand's address or pitch breaks its rule (R155). -/
def badOperand (f addr pitch len : Nat) : Bool :=
  if f = 0x10 then addr % 4096 != 0 || pitch != 0 else addr % 64 != 0 || decide (pitch < rowBytes f 0 len)

/-- Body checks of SL_GEMM, in the order of R159; a header that cannot be read is no broken one (R161). -/
def gemmChecks (s : State) (d : Desc) : List (Nat × Bool) :=
  let img := d.image
  let x := slBody img
  let raw (f : Nat) : Bool := f == 0x04 || f == 0x05
  let ok (f : Nat) : Bool := raw f || f == 0x10
  let need := if x.s = 0 then 8 else x.s
  let ha := memRead s d.fn x.a 64
  let hb := memRead s d.fn x.b 64
  [(0x01, !ok x.af || !ok x.bf || !raw x.cf),
   (0x02, x.m == 0 || x.n == 0 || x.k == 0 || decide (x.k > 2 ^ 24)),
   (0x03, badOperand x.af x.a x.aPitch (if x.aT then x.m else x.k) ||
     badOperand x.bf x.b x.bPitch (if x.bT then x.k else x.n) || badOperand x.cf x.c x.cPitch x.n),
   (0x04, x.s == 1 || decide (x.s > 8) || (x.s == 0 && (x.bound == 0 || decide (x.bound > 60))) ||
     (x.s != 0 && x.bound != 0)),
   (0x05, (x.af == 0x10 && ha.2 == 0 && badSet ha.1 (b2n x.aT) (if x.aT then x.k else x.m) (if x.aT then x.m else x.k) need) ||
     (x.bf == 0x10 && hb.2 == 0 && badSet hb.1 (b2n !x.bT) (if x.bT then x.n else x.k) (if x.bT then x.k else x.n) need)),
   (0x06, (raw x.af || raw x.bf) && x.scratch == 0),
   (0x07, bits (fld img 0x35 1) 4 4 != 0 || bits (fld img 0x36 1) 4 4 != 0)]

/-- An operand of a split call: its format, its place, whether its vectors are the stored columns, its stored rows and columns, and where
its slice set lies (R155, R156, R158). -/
structure SlOp where
  fmt : Nat
  base : Nat
  pitch : Nat
  axis : Nat
  rows : Nat
  cols : Nat
  at_ : SetAt
  deriving DecidableEq, Repr

/-- The planes that SL writes of a raw operand (R156). -/
def rawPlanes (x : SlBody) : Nat := if x.s = 0 then 8 else x.s

/-- The two operands of a call: a raw one's set lies in the scratch area in row form, A's first (R156). -/
def slOps (s : State) (fn : Nat) (x : SlBody) : SlOp × SlOp :=
  let aScr := setAt x.scratch 0 x.m x.k (align 64 x.k)
  let bScr := setAt (x.scratch + if x.af = 0x10 then 0 else aScr.size (rawPlanes x)) 1 x.k x.n (align 64 x.n)
  (⟨x.af, x.a, x.aPitch, b2n x.aT, if x.aT then x.k else x.m, if x.aT then x.m else x.k,
      if x.af = 0x10 then setOf x.a (jobRead s fn x.a 64).1 else aScr⟩,
    ⟨x.bf, x.b, x.bPitch, b2n !x.bT, if x.bT then x.n else x.k, if x.bT then x.k else x.n,
      if x.bf = 0x10 then setOf x.b (jobRead s fn x.b 64).1 else bScr⟩)

/-- The values of a raw operand along its non-contraction index, each vector with its cause. -/
def rawVecs (s : State) (fn : Nat) (o : SlOp) : List (List Val × Nat) :=
  axisVecs (rowVal o.fmt 0 512) (segsOf s fn o.base o.pitch o.fmt o.rows o.cols) o.axis o.rows o.cols

/-- What the scan of an operand finds: the exponent of each vector with its cause, and the largest spread (R141, R142, R153, R158). -/
def scanOp (s : State) (fn : Nat) (o : SlOp) : List (ShExp × Nat) × Nat :=
  if o.fmt = 0x10 then (setExps s fn o.at_, fld (jobRead s fn o.base 64).1 14 1)
  else
    let es := (rawVecs s fn o).map (fun v => (sharedExp v.1, v.2))
    (es, (es.map (fun e => spreadOf e.1)).foldl max 0)

/-- The tiles that SL reads of an operand: a raw one whole, of a set the exponents (R153, R158). -/
def scanTiles (o : SlOp) (tensor : Nat) : List JobRead :=
  if o.fmt = 0x10 then readsOf (o.at_.va + 64) (2 * o.at_.entries) else matTiles o.base o.pitch o.fmt 0 o.cols tensor 0 o.rows 0 o.cols 512

/-- Elements of a slicing whose digits are all zero. -/
def zeroed (vs : List Sliced) : Nat := (vs.map (fun v => (v.digs.filter (fun d => d.all (· == 0))).length)).foldl (· + ·) 0

/-- The slice count a call uses: fixed, or from the bound and the spread (R151). -/
def slicesUsed (s bound delta : Nat) : Nat :=
  if s ≠ 0 then s
  else
    let t := max 2 (ceilDiv (bound + 6 + delta) 7)
    if t > 8 then 8 else t

/-- The achieved bound β = 7s - 6 - Δ, clamped to 0-255 (R150). -/
def beta (s delta : Nat) : Nat := sat 255 (7 * s - 6 - delta)

/-- Whether an automatic call missed its bound (R151). -/
def unmet (s bound delta : Nat) : Bool := s == 0 && decide (ceilDiv (bound + 6 + delta) 7 > 8)

/-! ## The program of SL_GEMM (R144, R145, R153) -/

/-- A pass of a split call: column chunk, digit of A, digit of B, part of the contraction, station. -/
structure SlPass where
  chunk : Nat
  i : Nat
  j : Nat
  part : Nat
  st : Nat
  deriving DecidableEq, Repr

/-- The passes of a call in program order: every pair of digits with i + j ≤ s + 1, over each part of the contraction, in each chunk of 256
columns, dealt over the stations in turn (R144, R145; log entry 8). -/
def splitList (x : SlBody) (n : Nat) (sts : List Nat) : List SlPass :=
  (List.range (ceilDiv x.n 256)).flatMap (fun ch => (List.range n).flatMap (fun i => (List.range (n - i)).flatMap (fun j =>
    (List.range (ceilDiv x.k 512)).map (fun kk => ⟨ch, i, j, kk, sts.getD (ch % sts.length) 0⟩))))

/-- The tiles of plane `t` of A in a part of the contraction. -/
def slATiles (o : SlOp) (t part : Nat) : List JobRead :=
  let p := o.at_
  if p.axis = 0 then planeTiles p t 0 p.rows (512 * part) (min 512 (p.cols - 512 * part))
  else planeTiles p t (512 * part) (min 512 (p.rows - 512 * part)) 0 p.cols

/-- The tiles of plane `t` of B in a column chunk and a part of the contraction. -/
def slBTiles (o : SlOp) (t ch part : Nat) : List JobRead :=
  let p := o.at_
  if p.axis = 0 then planeTiles p t (256 * ch) (min 256 (p.rows - 256 * ch)) (512 * part) (min 512 (p.cols - 512 * part))
  else planeTiles p t (512 * part) (min 512 (p.rows - 512 * part)) (256 * ch) (min 256 (p.cols - 256 * ch))

/-- The tiles of the existing C (R146). -/
def slCTiles (x : SlBody) : List JobRead := matTiles x.c x.cPitch x.cf 0 x.n x.tensor 0 x.m 0 x.n 512

/-- The first poisoned tile that a pass of a split call consumes (R49, R161). -/
def slPassCause (s : State) (d : Desc) (p : SlPass) : Nat :=
  let o := slOps s d.fn (slBody d.image)
  firstCause [tileCauses s d.fn (slBTiles o.2 p.j p.chunk p.part), tileCauses s d.fn (slATiles o.1 p.i p.part)]

/-- The first poisoned tile that a work of SL or VX in a split call consumes: the operands that SL scans (0), the existing C that VX
adds (2). -/
def slCause (s : State) (d : Desc) (k : Nat) : Nat :=
  let x := slBody d.image
  let o := slOps s d.fn x
  match k with
  | 0 => tileCauses s d.fn (scanTiles o.1 0 ++ scanTiles o.2 0)
  | 2 => if x.acc then tileCauses s d.fn (slCTiles x) else 0
  | _ => 0

/-- Count elements that SL has sliced, and those of them whose digits were all zero (R163). DESIGN CHOICE (log entry 122): elements of a
set that the call did not slice count in neither. -/
def countSliced (s : State) (die elems zer : Nat) : State :=
  addD (addD s F.SL_ELEMS_ELEMS die 0 elems 1024) F.SL_ZEROED_ZEROED die 0 zer 1024

/-- Count a split call that has come to its results, and a bound that it did not meet (R163). -/
def countSplit (s : State) (die : Nat) (un : Bool) : State :=
  let s := addF s F.SL_CALLS_CALLS die 0 1
  if un then addF s F.SL_UNMET_UNMET die 0 1 else s

/-- The slice count of a call and the spreads of its operands, once SL has scanned them (R150, R151). -/
def slScan (s : State) (d : Desc) : Nat × Nat × Nat :=
  let x := slBody d.image
  let o := slOps s d.fn x
  let da := (scanOp s d.fn o.1).2
  let db := (scanOp s d.fn o.2).2
  (slicesUsed x.s x.bound (da + db), da, db)

/-- A stream of a descriptor by its place in its program. -/
def nthStream (d : Desc) (k : Nat) : Nat := d.streams.getD k 0

/-- The mover that consumes a stream of a die. -/
def consumerOf (s : State) (die n : Nat) : Nat :=
  (((tget? s.streams (streamKey die n)).bind (·.consumers.head?)).map (·.1)).getD 0x28

/-- The station that produces a stream of a die. -/
def producerOf (s : State) (die n : Nat) : Nat := ((tget? s.streams (streamKey die n)).map (·.producer)).getD 0x28

/-- What follows the scan (R153): SL writes the slices of each raw operand, and only then movers bring planes 1 to s, the passes run on
them, and VX recombines. -/
def slScanned (s : State) (d : Desc) : Part :=
  let x := slBody d.image
  let die := qDie d.queue
  let (n, da, db) := slScan s d
  let o := slOps s d.fn x
  let raw := ([o.1, o.2] : List SlOp).filter (fun o => o.fmt != 0x10)
  let cut (o : SlOp) (k : Nat) : List (Sliced × Nat) := (rawVecs s d.fn o).map (fun v => (sliceVec k v.1, v.2))
  let ws := raw.zipIdx.flatMap (fun o => setWrites o.1.at_ (rawPlanes x) o.1.fmt (2 * s.freeCtr + o.2) (cut o.1 (rawPlanes x)))
  let sts := mxStations s die 0
  let ps := splitList x n (if sts.isEmpty then [0] else sts)
  let read (k : Nat) (ts : List JobRead) : PSpec := .push (.of (producerOf s die (nthStream d k)) (.reads (nthStream d k) ts))
  let out := nthStream d (if x.acc then 4 else 3)
  let base := if raw.isEmpty then 1 else 3
  let parts := List.range (ceilDiv x.k 512)
  { Part.of d ((if raw.isEmpty then [] else
        [.push (.signalling 0x1A (.work 1)), .await 2, .push (.signalling (consumerOf s die out) (.writes (out + 1) ws)), .await 3]) ++
      [read 1 ((List.range n).flatMap (fun t => parts.flatMap (slATiles o.1 t))),
        read 2 ((List.range (ceilDiv x.n 256)).flatMap (fun ch => (List.range n).flatMap (fun t => parts.flatMap (slBTiles o.2 t ch))))] ++
      (if x.acc then [read 3 (slCTiles x)] else []) ++
      ps.zipIdx.flatMap (fun p => [.push (.of p.1.st .load), .push (.signalling p.1.st (.pass x.m 0 true p.2 none))]) ++
      [.await (base + ps.length), .push (.signalling 0x10 (.work 2)), .await (base + ps.length + 1), .finish 1]) with
    detail := detail6 [0, n, sat 255 da, sat 255 db, beta n (da + db), 0],
    after := fun s =>
      let s := (freshFree s).2
      if raw.isEmpty then s
      else countSliced s die ((raw.map (fun o => o.rows * o.cols)).foldl (· + ·) 0)
        ((raw.map (fun o => zeroed ((cut o n).map (·.1)))).foldl (· + ·) 0) }

/-- A parity error of a pass of the chunk was found at this row or before it (R135). -/
def splitParity (ps : List SlPass) (marks : List (Nat × Nat)) (i ch : Nat) : Bool :=
  marks.any (fun k => (ps.getD k.1 ⟨ch + 1, 0, 0, 0, 0⟩).chunk == ch && decide (k.2 ≤ i))

/-- Half a unit in the last place of a written element (R198). -/
def halfUlp (cf code : Nat) : Ex :=
  let e := if cf = 0x05 then bits code 52 11 else bits code 23 8
  let low : Int := if cf = 0x05 then -1074 else -149
  ⟨1, 1, low + (max e 1 : Nat) - 1 - 1⟩

/-- A checked element differs from the exact sum by more than its bound allows (R198); an element that R147 makes NaN, or that is infinite,
is not checked. -/
def splitDiffers (cf b : Nat) (neg : Bool) (old : Option Val) (xs ys : List Val) (code : Nat) : Bool :=
  match elemVal cf code, old with
  | .fin _ c, some (.fin _ o) => differs c o
  | .fin _ c, none => differs c exZero
  | _, _ => false
where
  /-- The comparison on exact numbers. -/
  differs (c o : Ex) : Bool :=
    let ps := (xs.zip ys).map (fun p => exMul (finPart p.1) (finPart p.2))
    let x := exAdd (if neg then exNeg (exSum ps) else exSum ps) o
    exLt (exAdd (exScale (exSum (ps.map exAbs)) (-(b : Int))) (halfUlp cf code)) (exAbs (exAdd c (exNeg x)))

/-- The values of an operand's vectors for the check (R198): a raw operand's own; those that the planes of a set stand for (log entry 122). -/
def checkVecs (s : State) (fn : Nat) (o : SlOp) (vs : List (Sliced × Nat)) : List (List Val) :=
  if o.fmt = 0x10 then
    vs.map (fun v => v.1.digs.map (fun ds =>
      match v.1.exp with
      | .num e _ =>
        let x := exScale (exSum (ds.zipIdx.map (fun d => ⟨d.1, 1, 1 - 7 * ((d.2 + 1 : Nat) : Int)⟩))) e
        .fin (exNegative x) x
      | _ => .fin false exZero))
  else (rawVecs s fn o).map (·.1)

/-- One element of C: its code, whether R147 made it NaN, whether it overflowed, and its poison cause. -/
structure CElem where
  code : Nat
  nan : Bool
  over_ : Bool
  cause : Nat
  deriving DecidableEq, Repr

/-- The results of a split call (R146-R150, R160, R161, R198). -/
def slOutput (s : State) (d : Desc) : Part :=
  let x := slBody d.image
  let die := qDie d.queue
  let (n, da, db) := slScan s d
  let o := slOps s d.fn x
  let va := setVecs s d.fn o.1.at_ n ((scanOp s d.fn o.1).1)
  let vb := setVecs s d.fn o.2.at_ n ((scanOp s d.fn o.2).1)
  let ps := splitList x n [0]
  let olds := if x.acc then segsOf s d.fn x.c x.cPitch x.cf x.m x.n else []
  let old (i j : Nat) : Option Val := if x.acc then some (rowVal x.cf 0 512 (segAt olds i j).1 (j % 512)) else none
  let c : List (List CElem) := va.zipIdx.map (fun a => vb.zipIdx.map (fun b =>
    let cause := firstCause [a.1.2, b.1.2, (segAt olds a.2 b.2).2, b2n (splitParity ps d.marks a.2 (b.2 / 256))]
    let r := splitElem x.cf n x.neg (old a.2 b.2) a.1.1 b.1.1
    ⟨r.1, r.2.1, r.2.2, if cause = 0 then 0 else 0x05⟩))
  let clean := c.flatMap (fun r => r.filter (fun e => e.cause == 0))
  let p := profileFor s die d.fn x.tensor
  let bt := beta n (da + db)
  let ea := checkVecs s d.fn o.1 va
  let eb := checkVecs s d.fn o.2 vb
  let at_ (i j : Nat) : CElem := (c.getD i []).getD j ⟨0, false, false, 0x05⟩
  let per := ceilDiv x.n 512
  let xs := (sampledTiles p.check x.tensor x.m x.n).filterMap (fun t =>
    let r0 := t / per * 128
    let c0 := t % per * 512
    if (List.range 128).all (fun i => (List.range 512).all (fun j => (at_ (r0 + i) (c0 + j)).cause != 0)) then none
    else some (t, (List.range 64).any (fun u =>
      let i := r0 + 2 * u
      let j := c0 + 8 * u
      let e := at_ i j
      e.cause == 0 && !e.nan && splitDiffers x.cf bt x.neg (old i j) (ea.getD i []) (eb.getD j []) e.code)))
  let m : OutMat := ⟨x.c, x.cPitch, x.cf, 0, x.n, x.tensor, false, xs.map (·.1)⟩
  let cb := fmtBits x.cf / 8
  let ws := (List.range (ceilDiv x.n 256)).flatMap (fun k =>
    outTiles m s.freeCtr (256 * k) (min 256 (x.n - 256 * k)) (c.zipIdx.map (fun r =>
      let es := (r.1.drop (256 * k)).take 256
      ⟨r.2, es.flatMap (fun e => toLe cb e.code), [], firstCause (es.map (·.cause))⟩)))
  let un := unmet x.s x.bound (da + db)
  let zer := zeroed (va.map (·.1)) + zeroed (vb.map (·.1))
  let num := b2n (clean.any (·.nan)) + 2 * b2n (clean.any (·.over_)) + 4 * b2n un + 8 * b2n (zer != 0)
  { steps := [writeOut s d ws],
    detail := detail6 [0, n, sat 255 da, sat 255 db, bt, num],
    tensor := x.tensor, fmt := x.cf, split := true, samples := xs,
    after := fun s => countSplit (freshFree s).2 die un }

/-- What the finished works of a split call lead to (R153). -/
def gemmPart (s : State) (d : Desc) (k : Nat) : Part := if k = 0 then slScanned s d else slOutput s d

/-- The headers of the slice-set operands of a call, as SL reads them at its start (R158). -/
def setHeads (x : SlBody) : List (Nat × Nat) :=
  (if x.af = 0x10 then [(x.a, 64)] else []) ++ (if x.bf = 0x10 then [(x.b, 64)] else [])

/-- Run a checked SL_GEMM: SL reads the headers, then scans what movers bring (R153, R158); a header that cannot be read ends the call with
the status of its cause (R49, R161). -/
def runGemm (s : State) (d : Desc) : State :=
  let x := slBody d.image
  let die := qDie d.queue
  let c := firstCause ((setHeads x).map (fun h => (memRead s d.fn h.1 h.2).2))
  if c ≠ 0 then endOp s d (causeStatus c) 0x1A []
  else
    let sts := mxStations s die 0
    let used := if sts.isEmpty then [0] else sts
    let raw := !(x.af == 0x10 && x.bf == 0x10)
    withStreams s d ([(moverAt s die 0, [0x1A]), (moverAt s die 1, used), (moverAt s die 2, used)] ++
        (if x.acc then [(moverAt s die 3, [0x10])] else []) ++ (if raw then [(0x1A, [moverAt s die 0])] else []) ++
        [(0x10, [moverAt s die 3])]) (fun s ns =>
      let s := takeIn (takeSnap s d x.tensor) d (setHeads x)
      let o := slOps { s with view := ((descOf s d.queue d.tag).map (·.inputs)).getD [] } d.fn x
      runProgram s d.queue d.tag
        (workProgram [.of (moverAt s die 0) (.reads (ns.headD 0) (scanTiles o.1 x.tensor ++ scanTiles o.2 x.tensor))] [0x1A]))

/-- SL_GEMM: C = ±A * B (+ C) in split precision (R155). -/
def execSlGemm (q tag : Nat) (s : State) : Host.Outcome State Fault Refusal :=
  .next (match opDesc s q tag (fun i => opcode i == 0x20) with
    | none => s
    | some d =>
      match firstFail (gemmChecks s d) with
      | some r => settle (rejectOp s d CONFLICT r)
      | none => settle (runGemm s d))

/-! ## SL_SLICE (R157) -/

/-- Body checks of SL_SLICE, in the order of R159. -/
def sliceChecks (img : Bytes) : List (Nat × Bool) :=
  let src := fld img 0x10 8
  let dst := fld img 0x18 8
  let rows := fld img 0x20 4
  let cols := fld img 0x24 4
  let sf := fld img 0x28 1
  let sl := bits (fld img 0x29 1) 0 4
  [(0x01, !(sf == 0x04 || sf == 0x05)),
   (0x02, rows == 0 || cols == 0),
   (0x03, addrOf src % 64 != 0 || decide (pitchOf src < rowBytes sf 0 cols) || addrOf dst % 4096 != 0 ||
     decide (pitchOf dst < cols)),
   (0x04, decide (sl < 2) || decide (sl > 8)),
   (0x07, bits (fld img 0x29 1) 4 4 != 0 || bits (fld img 0x2A 1) 1 7 != 0 || !zeroAt img 0x2B 21)]

/-- The operand of SL_SLICE and the set that it writes (R157). -/
def sliceOp (img : Bytes) : SlOp :=
  let src := fld img 0x10 8
  let dst := fld img 0x18 8
  let axis := bits (fld img 0x2A 1) 0 1
  ⟨fld img 0x28 1, addrOf src, pitchOf src, axis, fld img 0x20 4, fld img 0x24 4,
    setAt (addrOf dst) axis (fld img 0x20 4) (fld img 0x24 4) (pitchOf dst)⟩

/-- The first poisoned tile that SL scans for SL_SLICE. -/
def sliceCause (s : State) (d : Desc) (k : Nat) : Nat := if k = 0 then tileCauses s d.fn (scanTiles (sliceOp d.image) 0) else 0

/-- The results of SL_SLICE (R157, R160). -/
def slicePart (s : State) (d : Desc) : Part :=
  let o := sliceOp d.image
  let sl := bits (fld d.image 0x29 1) 0 4
  let raw := rawVecs s d.fn o
  let vecs := raw.map (fun v => (sliceVec sl v.1, v.2))
  let clean := (vecs.filter (fun v => v.2 == 0)).map (·.1)
  let zer := zeroed clean
  { Part.of d [writeOut s d (setWrites o.at_ sl o.fmt s.freeCtr vecs)] with
    detail := detail6 [0, sl, sat 255 ((clean.map (fun v => spreadOf v.exp)).foldl max 0), 0, 0,
      b2n (clean.any (fun v => v.exp == .special)) + 8 * b2n (zer != 0)],
    after := fun s => countSplit (countSliced (freshFree s).2 (qDie d.queue) (o.rows * o.cols) zer) (qDie d.queue) false }

/-- Run a checked SL_SLICE: SL scans what a mover brings, then slices it (R153, R157). -/
def runSlice (s : State) (d : Desc) : State :=
  let die := qDie d.queue
  withStreams s d [(moverAt s die 0, [0x1A]), (0x1A, [moverAt s die 1])] (fun s ns =>
    runProgram s d.queue d.tag
      (workProgram [.of (moverAt s die 0) (.reads (ns.headD 0) (scanTiles (sliceOp d.image) 0))] [0x1A, 0x1A]))

/-- SL_SLICE: write a reusable slice set (R157). -/
def execSlSlice (q tag : Nat) (s : State) : Host.Outcome State Fault Refusal :=
  .next (match opDesc s q tag (fun i => opcode i == 0x21) with
    | none => s
    | some d =>
      match firstFail (sliceChecks d.image) with
      | some r => settle (rejectOp s d CONFLICT r)
      | none => settle (runSlice s d))

/-! ## VX_EW (R162) -/

/-- One result element of VX_EW, computed exactly and rounded once (R162). -/
def ewElem (fmt op : Nat) (alpha beta x y z : Val) : Nat :=
  ieeeRound fmt (match op with
    | 0 => vadd (vmul alpha x) (vmul beta y)
    | 1 => vmul (vmul alpha x) y
    | _ => vadd (vmul (vmul alpha x) y) (vmul beta z))

/-- The operands that VX_EW reads: x, y, and z for FMA (R162). -/
def ewIns (img : Bytes) : List Nat :=
  [fld img 0x10 8, fld img 0x18 8] ++ (if fld img 0x2F 1 = 2 then [fld img 0x20 8] else [])

/-- The tiles of an operand of VX_EW. -/
def ewTiles (img : Bytes) (v : Nat) : List JobRead :=
  matTiles (addrOf v) (pitchOf v) (fld img 0x2E 1) 0 (fld img 0x2C 2) 0 0 (fld img 0x28 4) 0 (fld img 0x2C 2) 512

/-- The first poisoned tile that VX consumes. -/
def ewCause (s : State) (d : Desc) : Nat := tileCauses s d.fn ((ewIns d.image).flatMap (ewTiles d.image))

/-- The results of VX_EW: a piece of a row is poisoned where one of its operands' tiles is (R49, R162). -/
def ewPart (s : State) (d : Desc) : Part :=
  let img := d.image
  let z := fld img 0x20 8
  let rows := fld img 0x28 4
  let cols := fld img 0x2C 2
  let fmt := fld img 0x2E 1
  let op := fld img 0x2F 1
  let alpha := elemVal 0x05 (fld img 0x30 8)
  let beta := elemVal 0x05 (fld img 0x38 8)
  let ins := (ewIns img).map (fun v => segsOf s d.fn (addrOf v) (pitchOf v) fmt rows cols)
  let val (k i j : Nat) : Val := rowVal fmt 0 512 (segAt (ins.getD k []) i j).1 (j % 512)
  let ws := (List.range (ceilDiv cols 512)).flatMap (fun c =>
    let w := min 512 (cols - 512 * c)
    outTiles ⟨addrOf z, pitchOf z, fmt, 0, cols, 0, false, []⟩ s.freeCtr (512 * c) w ((List.range rows).map (fun i =>
      ⟨i, (List.range w).flatMap (fun j => toLe (fmtBits fmt / 8)
        (ewElem fmt op alpha beta (val 0 i (512 * c + j)) (val 1 i (512 * c + j)) (val 2 i (512 * c + j)))), [],
        if ins.any (fun x => (segAt x i (512 * c)).2 != 0) then 0x05 else 0⟩)))
  { Part.of d [writeOut s d ws] with detail := detail6 [], after := fun s => (freshFree s).2 }

/-- Run a checked VX_EW. DESIGN CHOICE (log entry 122): an address that is not 64-byte aligned, a pitch shorter than a row, and rows or
cols of 0 end in no status of their own; the operands and results lie where the fields say, one element after the other. -/
def runEw (s : State) (d : Desc) : State :=
  let die := qDie d.queue
  let ins := ewIns d.image
  withStreams s d (ins.zipIdx.map (fun v => (moverAt s die v.2, [0x10])) ++ [(0x10, [moverAt s die 3])]) (fun s ns =>
    runProgram s d.queue d.tag
      (workProgram (ins.zipIdx.map (fun v => .of (moverAt s die v.2) (.reads (ns.getD v.2 0) (ewTiles d.image v.1)))) [0x10]))

/-- VX_EW: element-wise AXPBY, MUL or FMA with one rounding (R162). -/
def execVxEw (q tag : Nat) (s : State) : Host.Outcome State Fault Refusal :=
  .next (match opDesc s q tag (fun i => opcode i == 0x50) with
    | none => s
    | some d =>
      if fld d.image 0x2F 1 > 2 ∨ ¬ (fld d.image 0x2E 1 = 3 ∨ fld d.image 0x2E 1 = 4 ∨ fld d.image 0x2E 1 = 5) then
        settle (rejectOp s d CONFLICT 0x01)
      else settle (runEw s d))

end Sys2Proof.Machine
end

