-- ==== Sys2Proof/Machine/Attention.lean ====
section
/-! DEFINITION. AT_FWD, AT_BWD, AT_BPREP and AT_MERGE, and the key/value ring (R223-R247). -/

namespace Sys2Proof.Machine

open Sys2Proof

/-- A call that does not start ends (R231). -/
def endAt (s : State) (d : Desc) (e : AtEnd) : State :=
  match e with
  | .check r => completeDesc s d CONFLICT (seqStation d) (detail6 [r]) 0
  | .read c => completeDesc s d (causeStatus c) (seqStation d) [] 0

/-- The running call of a descriptor. -/
def callOf (s : State) (q tag : Nat) : Option RingCall := s.rings.find? (fun r => r.queue == q && r.tag == tag)

/-- Replace a running call. -/
def setRing (s : State) (r : RingCall) : State :=
  { s with rings := updFirst (fun x => x.queue == r.queue && x.tag == r.tag) (fun _ => r) s.rings }

/-- Remove a running call. -/
def dropRing (s : State) (r : RingCall) : State :=
  { s with rings := s.rings.filter (fun x => !(x.queue == r.queue && x.tag == r.tag)) }

/-- The first of a call's stations. -/
def firstStation (s : State) (c : AtCall) : Nat := (atStations s c.die c).headD 0x08

/-- The plan entry of a hop of the call, by its place in the call. -/
def ringEntry (r : RingCall) (i : Nat) : Bytes := r.call.plan.getD i []

/-- The query blocks of a call, by entry (R260). -/
def queryBlocks (c : AtCall) : List (LenEnt × Nat) :=
  c.ents.flatMap (fun e => (List.range (ceilDiv e.qn 128)).map (fun qb => (e, qb)))

/-- The block pairs of the part that a call has come to: a hop, a query block of a paged call, or all of them. -/
def curPairs (r : RingCall) : List BPair :=
  let c := r.call
  if At.op c = 0x32 then []
  else if At.ring c then blockPairs c (some (ringEntry r r.hop))
  else if At.paged c then
    match (queryBlocks c)[r.hop]? with
    | some b => (blockPairs c none).filter (fun p => p.ent == b.1 && p.qb == b.2)
    | none => []
  else blockPairs c none

/-- The ring plan entry of the hop that a call has come to. -/
def curHop (r : RingCall) : Option Bytes := if At.ring r.call then some (ringEntry r r.hop) else none

/-- AT_BWD starts dK and dV at zero: in the local pass, or at hop 0 (R228). -/
def zeroGrads (r : RingCall) : Bool := At.init r.call && (!At.ring r.call || At.firstHop r.call + r.hop == 0)

/-- The states of a call's rows before the part it has come to. -/
def curRows (v : State) (r : RingCall) : List (Nat × List AtRow) := if r.done = 0 then firstRows v r.call else r.rows

/-- Number of the first block pair of the part among those that the call computes. -/
def firstPair (r : RingCall) : Nat := r.pairs - r.skips

/-- The first poisoned tile that a station takes in for the part that a call has come to, `v` being what it has taken in: the rows it starts
with, its block pairs in order, a parity error of its sets (R49, R235, R250). -/
def atCause (v : State) (d : Desc) (st : Nat) : Nat :=
  match callOf v d.queue d.tag with
  | none => 0
  | some r =>
    let c := r.call
    let hs := headsAt v c st
    if At.op c = 0x32 then
      firstCause (c.ents.flatMap (fun e => (List.range e.qn).flatMap (fun i => hs.flatMap (fun h =>
        [(qHead v c (fld c.img 0x18 8) (At.oFmt c) (e.q0 + i) h).2, (qHead v c (At.pf c 0x50) (At.doFmt c) (e.q0 + i) h).2]))))
    else
      let starts := if r.done = 0 then
          ((finalRows v c (firstRows v c)).filter (fun f => f.station == st)).map (·.state.cause) else []
      let grads := if At.op c = 0x31 then
          ((startGrads v c (curHop r) (zeroGrads r)).filter (fun g => (kvOf c hs).contains g.head)).map (·.cause) else []
      let pairs := ((curPairs r).filter pairOn).zipIdx.map (fun p =>
        if d.marks.any (fun m => m.1 == 2 * (firstPair r + p.2) + (st - 8)) then firstCause [pairCause v c p.1 hs, 0x01]
        else pairCause v c p.1 hs)
      firstCause (starts ++ grads ++ pairs)

/-- Parity errors found in the computed pairs of a part are counted at their stations and logged (R250, R547). -/
def countParity (s : State) (d : Desc) (c : AtCall) (n k : Nat) : State :=
  d.marks.foldl (fun s m =>
    let st := 8 + m.1 % 2
    if n ≤ m.1 / 2 ∧ m.1 / 2 < n + k ∧ (headsAt s c st).isEmpty = false then
      logRec (atAdd s F.AT_ERR_PARITY c.die st 1 1) 1 c.die st 1 0 0
    else s) s

/-- The part that a call has come to is computed from what its stations took in: the call, its pairs counted, and the dK and dV of the
part (R216, R241, R245). -/
def foldPart (s v : State) (d : Desc) (r : RingCall) : State × RingCall × List KGrad :=
  let c := r.call
  let ps := curPairs r
  let on := ps.filter pairOn
  let n := firstPair r
  let (rows, grads) :=
    if At.op c = 0x31 then bwdFold v c d.marks on n (curRows v r, startGrads v c (curHop r) (zeroGrads r))
    else (foldPairs v c d.marks on n (curRows v r), [])
  (countParity (countPairs s c.die c ps) d c n on.length,
    { r with rows := rows, done := r.done + 1, hop := r.hop + b2n (At.paged c), pairs := r.pairs + ps.length, skips := r.skips + (ps.length - on.length) },
    grads)

/-- What a forward call leaves: outputs when it finalizes, states otherwise, and after an early end (R218, R226, R233, R238). -/
def endFwd (s v : State) (d : Desc) (r : RingCall) (early : Bool) : State :=
  let c := r.call
  let die := c.die
  let fs := finalRows v c (curRows v r)
  let hops := if At.ring c then r.done else 0
  if At.final c && !early then
    let o := finalize v die c.fn (At.oFmt c) (At.tensor c) (At.rq c) (At.qCols c) (At.d c) (addrOf (fld c.img 0x20 8))
      (pitchOf (fld c.img 0x20 8)) (addrOf (fld c.img 0x30 8)) v.freeCtr fs
    applyPart s d ⟨[writeOut v d o.writes], atDetail 0 o.num hops r.skips r.pairs, At.tensor c, o.fmt, false, o.samples,
      fun s => countRows (countConv (freshFree s).2 die o.flags o.elems) die true fs⟩
  else
    applyPart s d ⟨[writeOut v d (stateWrites (addrOf (fld c.img 0x28 8)) fs)], atDetail 0 (stateNum fs) hops r.skips r.pairs,
      0, 0, false, [], fun s => countRows s die false fs⟩

/-- What a part of AT_BWD leaves: dQ, dK and dV (R245, R247). -/
def endBwd (s v : State) (d : Desc) (r : RingCall) (gs : List KGrad) : State :=
  let c := r.call
  let fs := finalRows v c r.rows
  let num := 4 * b2n (fs.any (fun f => f.state.cause != 0) || gs.any (fun g => g.cause != 0) || bit (d.detail.getD 1 0).toNat 2)
  applyPart s d ⟨[writeOut v d (dqWrites v c v.freeCtr r.rows ++ gradWrites c v.freeCtr gs)],
    atDetail 0 num (if At.ring c then r.done else 0) r.skips r.pairs, 0, 0, false, [],
    fun s => countGrads (countRows (freshFree s).2 c.die false fs) c gs⟩

/-- The tiles of AT_BPREP: row by row, so that poison goes row by row (R229, R235). -/
def prepTiles (c : AtCall) : List JobRead :=
  c.ents.flatMap (fun e => (List.range e.qn).flatMap (fun i => (At.heads c).flatMap (fun h =>
    [(fld c.img 0x18 8, At.oFmt c), (At.pf c 0x50, At.doFmt c)].map (fun x =>
      matTile (addrOf x.1) (pitchOf x.1) x.2 0 (At.qCols c) 0 (e.q0 + i) 1 (h * At.d c) (At.d c)))))

/-- AT_BPREP: the delta of every row and head (R229). -/
def endPrep (s v : State) (d : Desc) (r : RingCall) : State :=
  let c := r.call
  let outs := (At.heads c).flatMap (fun h => c.ents.flatMap (fun e => (List.range e.qn).map (fun i =>
    let x := qHead v c (fld c.img 0x18 8) (At.oFmt c) (e.q0 + i) h
    let g := qHead v c (At.pf c 0x50) (At.doFmt c) (e.q0 + i) h
    let k := atIndex c h (e.q0 + i)
    let cause := if firstCause [x.2, g.2] = 0 then 0 else 0x05
    (h, (⟨k, if cause = 0 then toLe 4 (winSum32 ((headVals c (At.doFmt c) g.1).zip (headVals c (At.oFmt c) x.1)))
      else freeBytes (v.freeCtr * 2 ^ 40 + k) 4, [], cause⟩ : ORow)))))
  applyPart s d ⟨[writeOut v d (poisonLast (arrayWrites (addrOf (At.pf c 0x60)) 4 (outs.map (·.2))))],
    atDetail 0 (4 * b2n (outs.any (fun o => o.2.poison != 0))) 0 0 0, 0, 0, false, [],
    fun s => outs.foldl (fun s o =>
      if o.2.poison = 0 then s else atAdd s F.AT_ERR_POISON c.die (headStation s c.die c o.1) 1 16) (freshFree s).2⟩

/-- What a query block reads by when its walk is refused, because its sequence is closed since the call's first walk: it sees no page
(R252; DESIGN CHOICE, log entry 123). -/
def noWalk (die seq : Nat) : Walk := ⟨die, 32, seq, 1, 0, 0, false, 0, 2 ^ 40, [], none⟩

/-- The pages of a paged call's runs that see a query block. -/
def runPages (c : AtCall) (e : LenEnt) : List Nat :=
  ((runsOf c none e).flatMap (fun r => if r.count = 0 then []
    else (List.range ((r.pos + r.count - 1) / At.pagePos c + 1 - r.pos / At.pagePos c)).map (· + r.pos / At.pagePos c))).eraseDups

/-- The movers that bring the query side and the keys of a call: those that produce its first two streams from the end. -/
def atReaders (s : State) (d : Desc) : (Nat × Nat) × (Nat × Nat) :=
  let n := d.streams.length
  let a := d.streams.getD (n - 3) 0
  let b := d.streams.getD (n - 2) 0
  ((producerOf s (qDie d.queue) a, a), (producerOf s (qDie d.queue) b, b))

/-- Issue a part of a call: its reads, and a work at each of its stations (R70, R237, R260). -/
def issuePart (s : State) (d : Desc) (r : RingCall) (query keys : List JobRead) (fin : Nat) : State :=
  let sts := atStations s r.call.die r.call
  let (a, b) := atReaders s d
  let n := r.sent + sts.length
  extend (setRing s { r with sent := n }) d.queue d.tag
    ([.push (.of a.1 (.reads a.2 query)), .push (.of b.1 (.reads b.2 keys))] ++
      sts.map (fun st => .push (.signalling st (.work 0))) ++ [.await n, .finish fin])

/-- A call ends with a status that a station decides, and issues nothing more. -/
def stopAt (s : State) (d : Desc) (r : RingCall) (status station : Nat) : State :=
  maybeComplete (updDesc (dropRing s r) d.queue d.tag (fun d =>
    { dropTodo d with issued := d.issued + 1, retired := d.retired ++ [⟨d.issued, status, station, []⟩] })) d.queue d.tag

/-- The walk of a query block of a paged call begins, and its part is issued (R227, R260, R261, R265); none while no walk slot is free. -/
def walkPart (s : State) (d : Desc) (r : RingCall) (e : LenEnt) : Option State :=
  let c := r.call
  if stFenced s c.die 0x0C then some (stopAt s d r FENCED 0x0C)
  else
    let ok := walkOk s c.die e.seq c.fn
    if ok && (freeWalk s c.die).isNone then none
    else
      let s := if ok then
          beginWalk s c.die e.seq (if e.kn = 0 then 1 else e.kpos) (e.kpos + e.kn - 1) (runPages c e) (some (d.queue, d.tag)) else s
      let w := if ok then s.walks.getLastD (noWalk c.die e.seq) else noWalk c.die e.seq
      let on := (curPairs r).filter pairOn
      let s := updDesc s d.queue d.tag (fun d => { d with inputs := d.inputs ++ keyHoles c w on })
      some (issuePart s d { r with walk := if ok then some w.stamp else none } (queryTiles c on) (keysTiles c (some w) on) 2)

/-- What follows when a paged call's query block is computed: its walk ends, and the next one begins, or the call ends (R260). -/
def walkEnded (s : State) (r : RingCall) : State :=
  match s.walks.find? (fun w => some w.stamp == r.walk) with
  | some w => showPg (pumpRebuild (endWalk s w) w.die) w.die
  | none => s

/-- A step of the program of a call of AT_FWD, AT_BWD or AT_BPREP whose works have retired (R70): 0 the end of a local call, 1 a hop, 2 a query
block, 3 the walk of the next query block. None: it cannot be made yet. `v` is what the stations have taken in. -/
def atFinish (s v : State) (d : Desc) (r : RingCall) (k : Nat) : Option State :=
  let c := r.call
  let clear (s : State) : State := updDesc s d.queue d.tag (fun d => { d with inputs := [] })
  match k with
  | 0 =>
    if At.op c = 0x32 then some (endPrep (dropRing s r) v d r)
    else
      let (s, r, gs) := foldPart s v d r
      some (if At.op c = 0x30 then endFwd (dropRing s r) v d r false else endBwd (dropRing s r) v d r gs)
  | 1 =>
    let (s, r, gs) := foldPart s v d r
    let s := clear (setRing s r)
    some (if At.op c = 0x30 then s else endBwd s v d r gs)
  | 2 =>
    let (s, r, _) := foldPart s v d r
    some (extend (clear (setRing (walkEnded s r) { r with walk := none })) d.queue d.tag [.finish 3])
  | _ =>
    match (queryBlocks c)[r.hop]? with
    | some b => walkPart s d r b.1
    | none => some (if At.op c = 0x30 then endFwd (dropRing s r) v d r false else endBwd (dropRing s r) v d { r with rows := curRows v r } [])

/-- The pool lines in which AT_BWD keeps dQ of the stacked heads of one KV head (R247). -/
def dqLines (c : AtCall) : Nat :=
  if At.op c ≠ 0x31 then 0
  else
    let rows := (c.ents.map (·.qn)).foldl (· + ·) 0
    (((kvHeads c).map (fun g => ((At.heads c).filter (fun h => At.kvHead c h == g)).length)).foldl max 0) * rows * At.d c * 4 / 64

/-- A checked call starts: its streams are obtained (R71), and a local call's tiles and works are issued. -/
def startCallAt (s : State) (d : Desc) (c : AtCall) (go : State → Desc → RingCall → State) : State :=
  let die := c.die
  let sts := atStations s die c
  withPool s d (dqLines c) [(moverAt s die 0, sts), (moverAt s die 1, sts), (firstStation s c, [moverAt s die 2])] (fun s _ =>
    let s := updDesc (takeSnap s d (At.tensor c)) d.queue d.tag (fun d => { d with started := true })
    let r : RingCall := ⟨d.queue, d.tag, c, 0, 0, if At.ring c then 0 else 9, none, [], [], [], 0, 0, 0, none⟩
    match descOf s d.queue d.tag with
    | some d => go { s with rings := s.rings ++ [r] } d r
    | none => s)

/-- AT_FWD, AT_BWD and AT_BPREP in local mode (R213-R222, R229, R243-R247). -/
def runLocal (s : State) (d : Desc) (c : AtCall) : State :=
  startCallAt s d c (fun s d r =>
    let on := (curPairs r).filter pairOn
    if At.op c = 0x32 then issuePart s d r (prepTiles c) [] 0
    else
      issuePart s d r (firstTiles c ++ queryTiles c on)
        (keysTiles c none on ++ (if At.op c = 0x31 && !zeroGrads r then gradTiles c none else [])) 0)

/-- AT_FWD and AT_BWD in paged mode: a walk for each query block (R227, R260); a paged call has no place for dK and dV (log entry 34). -/
def runPaged (s : State) (d : Desc) (c : AtCall) : State :=
  startCallAt s d c (fun s d r =>
    let (a, _) := atReaders s d
    let s := extend s d.queue d.tag [.push (.of a.1 (.reads a.2 (firstTiles c)))]
    match descOf s d.queue d.tag, (queryBlocks c)[0]? with
    | some d, some b =>
      match walkPart s d r b.1 with
      | some s => s
      | none => extend s d.queue d.tag [.finish 3]
    | _, _ => extend s d.queue d.tag [.finish 3])

/-! ## AT_MERGE (R230) -/

/-- Checks of AT_MERGE in the order of R231; rows and parts out of their range are refused with d (log entry 35). -/
def mergeChecks (s : State) (d : Desc) : List (Nat × Bool) :=
  let im := d.image
  let dd := fld im 0x3B 1 * 32
  let fin := bit (fld im 0x3D 1) 0
  let p := profileFor s (qDie d.queue) d.fn (fld im 0x18 4)
  let top (o : Nat) : Bool := bits (fld im o 8) 52 12 != 0
  [(0x01, fld im 0x3E 1 != 3 && fld im 0x3E 1 != 4),
   (0x02, !([64, 96, 128, 192, 256] : List Nat).contains dd || fld im 0x38 3 == 0 || decide (fld im 0x3C 1 < 2)),
   (0x03, addrOf (fld im 0x10 8) % 64 != 0 || (!fin && addrOf (fld im 0x20 8) % 64 != 0) ||
      (fin && (!atRowOk (ladder 0 (fld im 0x3E 1) p.ceil) 0 dd (fld im 0x28 8) || addrOf (fld im 0x30 8) % 4 != 0))),
   (0x07, top 0x10 || top 0x20 || top 0x30 || !zeroAt im 0x1C 4 || bits (fld im 0x3D 1) 1 7 != 0 || !zeroAt im 0x3F 1)]

/-- The station that merges. -/
def mergeStation (s : State) (die : Nat) : Nat := pickStation s die [0x08, 0x09]

/-- The rows of AT_MERGE: the left fold of the partials, row by row (R216, R230, R235). -/
def mergeRows (v : State) (d : Desc) (st : Nat) : List FinalRow :=
  let im := d.image
  let dd := fld im 0x3B 1 * 32
  let n := fld im 0x38 3
  let part (p x : Nat) : AtRow := readState v d.fn dd (addrOf (fld im 0x10 8) + (p * n + x) * At.stateRow dd)
  (List.range n).map (fun x =>
    ⟨x, 0, x, st, ((List.range (fld im 0x3C 1)).drop 1).foldl (fun t p => mergeStored t (part p x)) (part 0 x)⟩)

/-- The first poisoned tile or row that the merge takes in (R49, R235). -/
def mergeCause (v : State) (d : Desc) : Nat := firstCause ((mergeRows v d 0x08).map (·.state.cause))

/-- The results of AT_MERGE (R218, R226, R230, R233). -/
def mergePart (v : State) (d : Desc) : Part :=
  let im := d.image
  let die := qDie d.queue
  let dd := fld im 0x3B 1 * 32
  let n := fld im 0x38 3
  let st := ((d.retired.find? (fun r => r.station == 0x08 || r.station == 0x09)).map (·.station)).getD 0x08
  let fs := mergeRows v d st
  if bit (fld im 0x3D 1) 0 then
    let o := finalize v die d.fn (fld im 0x3E 1) (fld im 0x18 4) n dd dd (addrOf (fld im 0x28 8)) (pitchOf (fld im 0x28 8))
      (addrOf (fld im 0x30 8)) v.freeCtr fs
    ⟨[writeOut v d o.writes], atDetail 0 o.num 0 0 0, fld im 0x18 4, o.fmt, false, o.samples,
      fun s => countRows (countConv (freshFree s).2 die o.flags o.elems) die true fs⟩
  else
    ⟨[writeOut v d (stateWrites (addrOf (fld im 0x20 8)) fs)], atDetail 0 (stateNum fs) 0 0 0, 0, 0, false, [],
      fun s => countRows s die false fs⟩

/-- AT_MERGE on a checked descriptor: a mover brings the partials row by row. -/
def runMerge (s : State) (d : Desc) : State :=
  let im := d.image
  let die := qDie d.queue
  let dd := fld im 0x3B 1 * 32
  let st := mergeStation s die
  let reads := (List.range (fld im 0x38 3 * fld im 0x3C 1)).map (fun x =>
    rawTile (addrOf (fld im 0x10 8) + x * At.stateRow dd) (At.stateRow dd))
  withStreams s d [(moverAt s die 0, [st]), (st, [moverAt s die 1])] (fun s ns =>
    runProgram (takeSnap s d (fld im 0x18 4)) d.queue d.tag
      (workProgram [.of (moverAt s die 0) (.reads (ns.headD 0) reads)] [st]))

/-- AT_MERGE (R230). -/
def execAtMerge (q tag : Nat) (s : State) : Host.Outcome State Fault Refusal :=
  .next (match opDesc s q tag (fun i => opcode i == 0x33) with
    | none => s
    | some d =>
      match firstFail (mergeChecks s d) with
      | some r => settle (rejectOp s d CONFLICT r)
      | none =>
        if atAllFenced s (qDie q) then settle (endOp s d FENCED 0x08 []) else settle (runMerge s d))

/-! ## The ring (R236-R239) -/

/-- The FIFO key that holds a ring call's descriptor open. -/
def ringStation : Nat := 0x36

/-- Hold a descriptor open while its program waits for what it did not issue. -/
def holdDesc (s : State) (q tag : Nat) : State :=
  match descOf s q tag with
  | none => s
  | some d =>
    let k := qDie q
    let s := setFifo s k ringStation (fifo s k ringStation ++ [⟨q, tag, d.issued, .event 3, false, false, DONE, [], 0⟩])
    updDesc s q tag (fun d => { d with started := true, issued := d.issued + 1, unretired := d.unretired + 1 })

/-- Stop holding a descriptor; it completes if nothing else is left to retire. -/
def unholdDesc (s : State) (q tag : Nat) : State :=
  let k := qDie q
  let mine (m : Micro) : Bool := m.queue == q && m.tag == tag
  if (fifo s k ringStation).any mine then
    let s := setFifo s k ringStation (delFirst mine (fifo s k ringStation))
    maybeComplete (updDesc s q tag (fun d => { d with unretired := d.unretired - 1 })) q tag
  else s

/-- A token wait of a ring call, at a station or, for its forwarding, at a mover: pushed, and tested if it is at the head at once (R61, R237). -/
def ringWait (s : State) (r : RingCall) (st tok value next : Nat) : State :=
  if tok = 0xFFFF then setRing s { r with phase := next, wait := none }
  else
    match descOf s r.queue r.tag with
    | none => s
    | some d =>
      let s := pushNow s r.queue r.tag (.of st (.token (tok % 4096) value))
      releaseAt (setRing s { r with phase := next, wait := some d.issued }) (qDie r.queue) st

/-- The block pairs of a hop are issued: their tiles are read, and the stations work on them (R237). -/
def ringHop (s : State) (d : Desc) (r : RingCall) : State :=
  let c := r.call
  let on := (curPairs r).filter pairOn
  issuePart s d { r with phase := 2 } ((if r.hop = 0 then firstTiles c else []) ++ queryTiles c on)
    (keysTiles c none on ++ (if At.op c = 0x31 && !zeroGrads r then gradTiles c (curHop r) else [])) 1

/-- One row that is forwarded: destination, bytes, the poison that goes with it. -/
structure FwdRow where
  m : Nat
  die : Nat
  off : Nat
  data : Bytes
  poison : Nat
  deriving DecidableEq, Repr

/-- The rows of one buffer that go to a fabric address, with the buffer's pitch (R237, R239; log entry 36). -/
def fwdRows1 (s : State) (c : AtCall) (n v len dst : Nat) : List FwdRow :=
  let (m, dd, off) := unpackFab dst
  if dst = 0 then []
  else (List.range n).map (fun i =>
    let b := jobRead s c.fn (addrOf v + i * pitchOf v) len
    ⟨m, dd, off + i * pitchOf v, b.1 ++ List.replicate (ceilDiv len 64 * 64 - len) 0, b.2⟩)

/-- The writes of a descriptor that are on their way to memory: not yet issued, or in flight. -/
def pendingWrites (s : State) (q tag : Nat) : List (Geo × Bytes × Nat) :=
  (microsOf s q tag).flatMap (fun m => match m.kind with
    | .writes _ ws => ws.map (fun w => (w.geo, w.data, w.poison))
    | _ => []) ++
  ((s.reqs.flatMap (·.2)).filter (fun r => r.queue == q && r.tag == tag && r.write)).map (fun r => (r.job.geo, r.data, r.poison))

/-- A row of memory with what a tile on its way there puts over it. -/
def overlay (va : Nat) (row : Bytes × Nat) (w : Geo × Bytes × Nat) : Bytes × Nat :=
  ((List.range w.1.rows).map (fun i => (w.1.va + i * w.1.pitch, (w.2.1.drop (i * w.1.len)).take w.1.len))).foldl (fun b x =>
    if va ≤ x.1 ∧ x.1 < va + b.1.length then
      (b.1.take (x.1 - va) ++ x.2 ++ b.1.drop (x.1 - va + x.2.length), firstCause [b.2, w.2.2])
    else b) row

/-- The travelling dK and dV that a hop forwards: their newest content is on its way to memory (R237). -/
def gradFwd (s : State) (r : RingCall) (e : Bytes) : List FwdRow :=
  let c := r.call
  let n := fld e 0x24 4 + fld e 0x2C 4
  let ws := pendingWrites s r.queue r.tag
  let one (v dst : Nat) : List FwdRow :=
    (fwdRows1 s c n v (4 * At.kCols c) dst).zipIdx.map (fun x =>
      let y := ws.foldl (overlay (addrOf v + x.2 * pitchOf v)) (x.1.data, x.1.poison)
      { x.1 with data := y.1, poison := y.2 })
  one (fld e 0x10 8) (fld e 0x40 8) ++ one (fld e 0x18 8) (fld e 0x48 8)

/-- The rows of K and V that a hop forwards. -/
def keyFwd (s : State) (r : RingCall) (e : Bytes) : List FwdRow :=
  let c := r.call
  let n := fld e 0x24 4 + fld e 0x2C 4
  fwdRows1 s c n (fld e 0 8) (kLen c) (fld e 0x30 8) ++ fwdRows1 s c n (fld e 8 8) (vLen c) (fld e 0x38 8)

/-- The mover that forwards for a call: the one that writes its results. -/
def ringMover (s : State) (d : Desc) : Nat := consumerOf s (qDie d.queue) (d.streams.getLastD 0)

/-- Forward rows as Amber writes; a destination that cannot be reached ends the call (R237, R238). `sig` is signalled once every row is
acknowledged (R63, R64). -/
def ringSend (s : State) (d : Desc) (r : RingCall) (rows : List FwdRow) (sig : Option (Nat × Nat)) : State :=
  let c := r.call
  let mv := ringMover s d
  let dsts := (rows.map (fun x => (x.m, x.die))).eraseDups
  let parts := dsts.map (fun y => (y, (rows.filter (fun x => x.m == y.1 && x.die == y.2)).flatMap (fun x =>
    (writePieces x.off x.data).map (fun p => (p.1, p.2, x.poison)))))
  let n := (parts.map (fun y => sendCount y.1.1 y.2)).foldl (· + ·) 0
  match descOf s r.queue r.tag with
  | none => s
  | some d =>
    let sigs := match sig with
      | some x => r.sigs ++ [(d.issued, x.1, x.2)]
      | none => r.sigs
    let s := setRing s { r with sends := r.sends ++ [d.issued], sigs := sigs }
    match dsts.findSome? (fun x => sendFail s x.1 x.2) with
    | some st => pushNow s r.queue r.tag ⟨mv, .plain, st, [], 0⟩
    | none =>
      let s := pushNow s r.queue r.tag (if n = 0 then .of mv .plain else .of mv (.acks n))
      if stFenced s c.die mv then s
      else parts.foldl (fun s y => sendPieces s r.queue r.tag d.issued c.fn y.1.1 y.1.2 2 y.2 LINK_LOST) s

/-- Signal a token at a fabric address (R237). -/
def ringSignal (s : State) (d : Desc) (r : RingCall) (dst inc : Nat) : State :=
  let c := r.call
  let (m, dd, off) := unpackFab dst
  match descOf s r.queue r.tag with
  | none => s
  | some d' =>
    let mv := ringMover s d
    let s := setRing s { r with sends := r.sends ++ [d'.issued] }
    match sendFail s m dd with
    | some st => pushNow s r.queue r.tag ⟨mv, .plain, st, [], 0⟩
    | none =>
      let s := pushNow s r.queue r.tag (.of mv (.acks 1))
      if stFenced s c.die mv then s else sendFlow s r.queue r.tag d'.issued (signalTx s c.die c.fn m dd 2 off inc)

/-- The forward signal of a plan entry. -/
def fwdSignal (e : Bytes) : Option (Nat × Nat) := if fld e 0x50 8 = 0 then none else some (fld e 0x50 8, fld e 0x5A 2)

/-- A hop forwards K and V; in AT_FWD they are all that it forwards, and the forward signal follows them (R237). -/
def ringForward (s : State) (d : Desc) (r : RingCall) : State :=
  let e := ringEntry r r.hop
  let s := if fld e 0x30 8 != 0 || fld e 0x38 8 != 0 then addF s F.AT_RING_FWD_HOPS r.call.die 0 1 else s
  let r := { r with phase := 4 }
  let sig := if At.op r.call = 0x30 then fwdSignal e else none
  let rows := keyFwd s r e
  if rows.isEmpty ∧ sig.isNone then setRing s r else ringSend s d r rows sig

/-- The pairs of a hop are computed: AT_BWD forwards dK and dV, and the forward signal follows; then the hop's buffers are free (R237). -/
def ringComputed (s : State) (d : Desc) (r : RingCall) : State :=
  let e := ringEntry r r.hop
  let r := { r with phase := 0, hop := r.hop + 1 }
  let rows := if At.op r.call = 0x31 then gradFwd s r e else []
  let sig := if At.op r.call = 0x31 then fwdSignal e else none
  let s := if rows.isEmpty ∧ sig.isNone then setRing s r else ringSend s d r rows sig
  match callOf s r.queue r.tag with
  | some r => if fld e 0x60 8 = 0 then s else ringSignal s d r (fld e 0x60 8) (fld e 0x68 2)
  | none => s

/-- Remove the token waits of a descriptor from its stations and movers. -/
def dropWaits (s : State) (q tag : Nat) : State :=
  let mine (m : Micro) : Bool := m.queue == q && m.tag == tag && isTokenWait m
  ([0x08, 0x09, 0x28, 0x29, 0x2A, 0x2B] : List Nat).foldl (fun s st =>
    let n := ((fifo s (qDie q) st).filter mine).length
    if n = 0 then s
    else
      updDesc (setFifo s (qDie q) st ((fifo s (qDie q) st).filter (fun m => !mine m))) q tag (fun d =>
        { d with unretired := d.unretired - n })) s

/-- The ring call ends: after its last hop, or early with the state as it stood after the last hop whose pairs were computed (R237, R238). -/
def endRing (s : State) (r : RingCall) (early : Bool) : State :=
  match descOf s r.queue r.tag with
  | none => dropRing s r
  | some d =>
    let s := updDesc (dropRing (dropWaits s r.queue r.tag) r) r.queue r.tag dropTodo
    let v := viewed s d (At.tensor r.call)
    let s := if At.op r.call = 0x30 then endFwd s v d r early else s
    unholdDesc s r.queue r.tag

/-- A forwarding micro-command of a ring call ended because its destination is out of reach (R238). -/
def ringCut (d : Desc) (r : RingCall) : Bool :=
  d.retired.any (fun x => r.sends.contains x.idx && (x.status == LINK_LOST || x.status == FENCED))

/-- A signal of a ring call whose forwarded rows are all acknowledged (R63, R64). -/
def dueSignal (d : Desc) (r : RingCall) : Option (Nat × Nat × Nat) := r.sigs.find? (fun x => d.retired.any (fun y => y.idx == x.1))

/-- One step of a ring call, if it can make one (R237). -/
def ringStep (s : State) (r : RingCall) : Option State :=
  match descOf s r.queue r.tag with
  | none => some (dropRing s r)
  | some d =>
    if r.phase = 9 then none
    else if ringCut d r then some (endRing s r true)
    else
      match dueSignal d r with
      | some x => some (ringSignal s d { r with sigs := delFirst (· == x) r.sigs } x.2.1 x.2.2)
      | none =>
        match r.wait with
        | some i =>
          match d.retired.find? (fun x => x.idx == i) with
          | none => none
          | some x => if x.status = DONE then some (setRing s { r with wait := none }) else some (endRing s r true)
        | none =>
          let e := ringEntry r r.hop
          match r.phase with
          | 0 =>
            if r.hop ≥ At.hops r.call then (if r.sigs.isEmpty then some (endRing s r false) else none)
            else some (ringWait s r (firstStation s r.call) (fld e 0x58 2) (fld e 0x5C 4) 1)
          | 1 => some (ringHop s d r)
          | 2 => some (ringWait s r (ringMover s d) (fld e 0x6A 2) (fld e 0x6C 4) 3)
          | 3 => some (ringForward s d r)
          | _ => if r.hop < r.done then some (ringComputed s d r) else none

/-- Ring calls go on as far as they can; `fuel` bounds their steps. -/
def ringsN : Nat → State → State
  | 0, s => s
  | fuel + 1, s =>
    match s.rings.findSome? (ringStep s) with
    | some s => ringsN fuel s
    | none => s

/-- Ring calls go on: at most eight steps for each of 256 hops. -/
def runRings (s : State) : State := settle (ringsN (4096 * s.rings.length) s)

/-- A call in ring mode starts (R236, R237). -/
def startRing (s : State) (d : Desc) (c : AtCall) : State := startCallAt s d c (fun s d _ => runRings (holdDesc s d.queue d.tag))

/-- A call runs in the mode that it names. -/
def runCall (s : State) (d : Desc) (c : AtCall) : State :=
  if At.ring c then startRing s d c else if At.paged c then runPaged s d c else runLocal s d c

/-- Run an opcode of the class that has a parameter block; `parity` is a parity error that will be found at a station (0 or 1) in a block
pair, at a row of its stacked rows (R250). -/
def runAt (op q tag : Nat) (parity : Option (Nat × Nat × Nat)) (s : State) : State :=
  match opDesc s q tag (fun i => opcode i == op) with
  | none => s
  | some d =>
    match atPrepare s d with
    | .error e => settle (endAt s d e)
    | .ok c =>
      if atAllFenced s (qDie q) then settle (endOp s d FENCED 0x08 [])
      else
        match walksFail s c with
        | some (st, r) => settle (completeDesc s d st 0x0C (detail6 [r]) 0)
        | none =>
          settle (runCall (updDesc s q tag (fun d => { d with marks := (parity.map (fun p => (2 * p.2.1 + p.1 % 2, p.2.2))).toList })) d c)

/-- AT_FWD (R225-R227). -/
def execAtFwd (q : Nat) (call : AtTag) (s : State) : Host.Outcome State Fault Refusal :=
  .next (runAt 0x30 q call.tag call.parity s)

/-- AT_BWD (R228, R243-R247). -/
def execAtBwd (q : Nat) (call : AtTag) (s : State) : Host.Outcome State Fault Refusal :=
  .next (runAt 0x31 q call.tag call.parity s)

/-- AT_BPREP (R229). -/
def execAtBprep (q tag : Nat) (s : State) : Host.Outcome State Fault Refusal := .next (runAt 0x32 q tag none s)

/-- RING_WAIT_TIMEOUT (R238): the wait at the head of the FIFO of a station or mover has lasted longer than ring_limit. -/
def execRingWaitTimeout (die st : Nat) (s : State) : Host.Outcome State Fault Refusal :=
  .next (match fifo s die st with
    | [] => s
    | m :: rest =>
      match s.rings.find? (fun r => r.queue == m.queue && r.tag == m.tag && r.wait == some m.idx), m.kind with
      | some r, .token _ _ =>
        if At.ringLimit r.call = 0 then s
        else
          let s := releaseAt (setFifo s die st rest) die st
          let s := updDesc s m.queue m.tag (fun d =>
            { d with unretired := d.unretired - 1, retired := d.retired ++ [⟨m.idx, LINK_LOST, st, []⟩] })
          runRings (addF s F.AT_RING_TMO_TMO die 0 1)
      | _, _ => s)

end Sys2Proof.Machine
end

