-- ==== Sys2Proof/Machine/Access.lean ====
section
/-! DEFINITION. How an access reaches a setup register: the windows of a function, fenced, sleeping and forced dies,
ownership of queues and rings, writes by access code, _LO and _HI pairs (R13-R15, R75-R77, R598-R603, R634). -/

namespace Sys2Proof.Machine

open Sys2Proof

/-- A compute die is in Charcoal (R634). -/
def inCharcoal (s : State) (die : Nat) : Bool := isComp die && (powerOf s die == 3 || powerOf s die == 4)

/-- A BAR0 access to a compute die wakes it (R488); an access of the management controller is none. -/
def wakeByAccess (s : State) (src : Src) (die : Nat) : State :=
  match src with
  | .fn _ => wakeFrom s 7 die
  | .mgmt => s

/-- A write to a die block: nothing in Black, dropped and logged for a fenced die, ignored in Charcoal, held while the core domain
is forced, done otherwise; an access through BAR0 wakes the die (R76, R483, R488, R603, R634). The write is of value `v` at offset
`off`. -/
def gate (s : State) (src : Src) (die off v : Nat) (k : State → State) : State :=
  if s.supply.phase ≥ 3 then s
  else if dieFenced s die then
    match src with
    | .fn f => logErr s f WINDOW_FENCED die
    | .mgmt => s
  else if inCharcoal s die then wakeByAccess s src die
  else if coreForced s die then { s with heldWrites := s.heldWrites ++ [⟨die, src, off, v⟩] }
  else k (wakeByAccess s src die)

/-- A write by a physical function or the management controller to a register that no function owns: VFs have no window
onto it (R77). -/
def pfWrite (s : State) (src : Src) (die off v : Nat) (k : State → State) : State :=
  match src with
  | .fn f => if isPF f then gate s src die off v k else s
  | .mgmt => gate s src die off v k

/-- A write to a register of an owned resource (R76, R77): another function's is ignored and logged. -/
def ownedWrite (s : State) (src : Src) (owner : Option Nat) (off : Nat) (queue : Option Nat) (k : State → State) :
    State :=
  match src with
  | .mgmt => k s
  | .fn f =>
    match owner with
    | none => if isPF f then k s else s
    | some o => if o = f then k s else if isPF f then logErr s f NOT_OWNED off queue else s

/-- The function whose error ring takes an event of a write to an owned resource: function 0 where no function owns it (R100). -/
def eventFn (src : Src) (owner : Option Nat) : Nat := if owner.isNone then 0 else srcFn src

/-- Offset of a queue's registers in its die block (R80). -/
def queueOff (q : Nat) : Nat := 0x100000 + 32 * qLoc q

/-- Offset of a ring's registers in its die block (R97). -/
def ringOff (r : Nat) : Nat := 0x140000 + 32 * (r % 256)

/-- The queues of a function, by place in its queue set (R77, R87). -/
def fnQueue (s : State) (fn i : Nat) : Option Nat :=
  (((List.range 1024).filter (fun g => ownerOf (getF s F.QUE_GRP_OWN_OWNER (g / 64) (g % 64)) == some fn))[i / 64]?).map
    (fun g => 64 * g + i % 64)

/-- The completion rings of a function in ascending order (R77). -/
def fnRing (s : State) (fn i : Nat) : Option Nat :=
  ((List.range 4096).filter (fun r => ringOwner s r == some fn))[i]?

/-- The register pairs split in _LO and _HI that a write can change (R15). -/
def pairs : List (Fld × Fld) :=
  [(F.QUE_Q_BASE_LO_BASE, F.QUE_Q_BASE_HI_BASE), (F.QUE_Q_HWB_LO_ADDR, F.QUE_Q_HWB_HI_ADDR),
   (F.QUE_CR_BASE_LO_BASE, F.QUE_CR_BASE_HI_BASE), (F.HST_FN_ERR_BASE_LO_BASE, F.HST_FN_ERR_BASE_HI_BASE),
   (F.HST_BAR4_BASE_LO_BASE, F.HST_BAR4_BASE_HI_BASE), (F.AON_CMP_LO_CMP, F.AON_CMP_HI_CMP),
   (F.FAB_WIN_BASE_LO_BASE, F.FAB_WIN_BASE_HI_BASE), (F.FAB_OVR_PORTS_LO_PORTS, F.FAB_OVR_PORTS_HI_PORTS),
   (F.FAB_MC_PORTS_LO_PORTS, F.FAB_MC_PORTS_HI_PORTS)]

/-- The instance of a field at an offset of a die block, if the die holds it (R598, R599). -/
def instanceAt (f : Fld) (die off : Nat) : Option Nat :=
  let holds : Bool :=
    match f.blk with
    | .comp => isComp die
    | .fab => isFab die
    | .mem => isMem die
    | .f04 => die == 16 || die == 20
    | .all => true
  if !holds || off < f.off then none
  else if f.stride = 0 then (if off = f.off then some 0 else none)
  else if (off - f.off) % f.stride = 0 ∧ (off - f.off) / f.stride < f.count then some ((off - f.off) / f.stride)
  else none

/-- The fields at an offset of a die block, each with its instance. -/
def fieldsAt (die off : Nat) : List (Fld × Nat) :=
  F.all.filterMap (fun f => (instanceAt f die off).map (fun i => (f, i)))

/-- The stored value of a register: its fields. -/
def regWord (s : State) (die off : Nat) : Nat :=
  (fieldsAt die off).foldl (fun v p => v + getF s p.1 die p.2 * 2 ^ p.1.lo) 0

/-- Offsets of the RWL registers of a die, rising; those mirrored on F4 count as F0's (R564, R602). -/
def rwlOffs (die : Nat) : List Nat :=
  let fs := F.all.filter (fun f => f.acc == .rwl && (instanceAt f die f.off).isSome && !(f.blk == .f04 && die == 20))
  let t : Tab Nat := fs.foldl (fun t f => (List.range f.count).foldl (fun t i => tins t (f.off + f.stride * i) 0) t) []
  t.map (·.1)

/-- Every RWL register of the module in address order (R564). -/
def rwlBytes (s : State) : Bytes :=
  (List.range 32).flatMap (fun die => (rwlOffs die).flatMap (fun off => toLe 4 (regWord s die off)))

/-- The seal is set (R14). -/
def sealed (s : State) : Bool := flag s F.HST_SEAL_SEAL f0

/-- The field of a write's value. -/
def fieldOf (f : Fld) (v : Nat) : Nat := bits v f.lo f.width

/-- A write would change an RWL field of a register after the seal (R14). -/
def changesSealed (s : State) (die off v : Nat) : Bool :=
  sealed s && (fieldsAt die off).any (fun p => p.1.acc == .rwl && getF s p.1 die p.2 != fieldOf p.1 v)

/-- Write one field by its access code (R13, R14). -/
def writeField (s : State) (die i v : Nat) (f : Fld) : State :=
  let x := fieldOf f v
  match f.acc with
  | .ro => s
  | .wo => s
  | .w1c => setF s f die i (getF s f die i &&& (2 ^ f.width - 1 - x))
  | .rwl => if sealed s then s else setF s f die i x
  | _ =>
    let s := setF s f die i x
    if x = 0 then { s with rems := tdel s.rems (fieldKey f die i) } else s

/-- The _LO field of a pair is written: its value waits for the _HI write (R15, R601). -/
def isLo (f : Fld) : Bool := pairs.any (fun p => p.1 == f)

/-- The _LO field that a _HI field completes. -/
def loOf (f : Fld) : Option Fld := (pairs.find? (fun p => p.2 == f)).map (·.1)

/-- Write one field, or half of a pair (R13-R15, R601). DESIGN CHOICE (log entry 131): a _HI write before any _LO write since reset leaves
the _LO half in force as it is; R601 names no value that is then pending. -/
def writePart (s : State) (die v : Nat) (p : Fld × Nat) : State :=
  let (f, i) := p
  if isLo f then
    if f.acc == .rwl && sealed s then s else { s with loPend := tins s.loPend (fieldKey f die i) (fieldOf f v) }
  else
    match loOf f with
    | some l =>
      let s' := writeField s die i v f
      if f.acc == .rwl && sealed s then s
      else
        match tget? s.loPend (fieldKey l die i) with
        | some x => setF s' l die i x
        | none => s'
    | none => writeField s die i v f

/-- A write to a register that no rule beyond its table gives more of (R13-R15): the log of a sealed field, then every
field by its access code. -/
def plainWrite (s : State) (src : Src) (die off v : Nat) : State :=
  let s := if changesSealed s die off v then logErr s (srcFn src) SEALED_WRITE off else s
  (fieldsAt die off).foldl (fun s p => writePart s die v p) s

end Sys2Proof.Machine
end

