-- ==== Sys2Proof/Machine/Queues.lean ====
section
/-! DEFINITION. Queues, rings, doorbells, fetch, admission, dispatch, completions and host ports (R74-R107, R477, R553,
R570, R596, R621, R625, R632). -/

namespace Sys2Proof.Machine

open Sys2Proof

/-! ## Queue state -/

/-- Set STATE of a queue. -/
def setQState (s : State) (q v : Nat) : State := setF s F.QUE_Q_STATUS_STATE (qDie q) (qLoc q) v
/-- Set ENABLE of a queue. -/
def setQEnable (s : State) (q v : Nat) : State := setF s F.QUE_Q_CTRL_ENABLE (qDie q) (qLoc q) v
/-- Slots of a queue's ring. -/
def qSize (s : State) (q : Nat) : Nat := 2 ^ getF s F.QUE_Q_CFG_SIZE_LOG2 (qDie q) (qLoc q)
/-- Ring address of a queue: with LOC = 1 bits [47:0] (R80). -/
def qBase (s : State) (q : Nat) : Nat :=
  let b := getPair s F.QUE_Q_BASE_LO_BASE F.QUE_Q_BASE_HI_BASE (qDie q) (qLoc q)
  if flag s F.QUE_Q_CFG_LOC (qDie q) (qLoc q) then b % 2 ^ 48 else b
/-- Head write-back address (R80). -/
def qHwb (s : State) (q : Nat) : Nat := getPair s F.QUE_Q_HWB_LO_ADDR F.QUE_Q_HWB_HI_ADDR (qDie q) (qLoc q)
/-- Fetch counter. -/
def qFetch (s : State) (q : Nat) : Nat := getF s F.QUE_Q_HEAD_FETCH_HEAD (qDie q) (qLoc q)
/-- Last accepted tail. -/
def qTail (s : State) (q : Nat) : Nat := getF s F.QUE_Q_HEAD_TAIL (qDie q) (qLoc q)
/-- The queue enters the error state (R88, R90, R104): it fetches and admits nothing further, and a schedule whose lane
it is stops (R295). -/
def queueError (s : State) (q err : Nat) : State :=
  let s := setF (setQEnable (setQState s q 2) q 0) F.QUE_Q_STATUS_ERR (qDie q) (qLoc q) err
  settle (laneLeft s q CONFLICT 3)

/-- The schedules whose ST_RUN a queue holds stop now: each ST_RUN completes at once with a status, and the items released go on in their
lane queues with no ST_RUN to report to (R294, R299). -/
def stopHeldRuns (s : State) (q status : Nat) : State :=
  (s.scheds.filter (fun p => p.2.queue == q)).foldl (fun s p =>
    match tget? s.scheds p.1 with
    | some c =>
      let s := setSched s p.1 { stopSched c status 0 none with tag := 65536 }
      (match descOf s c.queue c.tag with
        | some d => if d.seqr = 5 then s else completeDesc s d status (seqStation d) (runDetail 0 c.lastDone (runFlags c)) 0
        | none => s)
    | none => s) s

/-- Abort a queue (R101, R102, R523): unadmitted descriptors go, admitted ones are cancelled with a status. DESIGN CHOICE (log entry 117):
FETCH_HEAD, set to TAIL, is not written back to the host; R89 speaks of a head that fetching moves. -/
def abortQueue (s : State) (q status : Nat) : State :=
  if qState s q = 0 ∨ qState s q = 3 then s
  else
    let s := setQEnable (setQState s q 3) q 0
    let s := setF s F.QUE_Q_HEAD_FETCH_HEAD (qDie q) (qLoc q) (qTail s q)
    let s := setQInt s q { getQInt s q with fetched := [], draining := false }
    let s := stopHeldRuns (laneLeft s q ABORTED_BY_HOST 0) q status
    let s := (queueDescs s q).foldl (fun s d => cancelDesc s d status) s
    settle (if qIdle s q then setQState s q 0 else s)

/-- The number of the first condition of R81 that fails for an enable. -/
def enableFail (s : State) (q : Nat) : Option Nat :=
  let die := qDie q
  let n := qLoc q
  let own := queueOwner s q
  let f := own.getD 0
  let r := queueRing s q
  let size := getF s F.QUE_Q_CFG_SIZE_LOG2 die n
  let loc := flag s F.QUE_Q_CFG_LOC die n
  firstFail
    [(1, own.isNone),
     (2, decide (size < 6) || decide (size > 12)),
     (3, qBase s q % 4096 != 0),
     (4, decide (qPrio s q > getF s F.HST_FN_CFG_MAX_PRIO f0 f)),
     (5, !flag s F.QUE_CR_CFG_ENABLE (r / 256) (r % 256) || ringOwner s r != own),
     (6, !isPF f && !sealed s),
     (7, loc && (!inMemory s (qBase s q) (64 * qSize s q) || (qHwb s q != 0 && !inMemory s (qHwb s q) 8)))]

/-- A write of 1 to ENABLE (R81). -/
def enableQueue (s : State) (q : Nat) : State :=
  let own := (queueOwner s q).getD 0
  if qState s q ≠ 0 then (if qEnabled s q then s else logErr s own ENABLE_REFUSED 0 (some q))
  else
    match enableFail s q with
    | some k =>
      logErr (setF (setQEnable s q 0) F.QUE_Q_STATUS_ERR (qDie q) (qLoc q) 3) own ENABLE_REFUSED k (some q)
    | none =>
      let s := setF (setF s F.QUE_Q_HEAD_FETCH_HEAD (qDie q) (qLoc q) 0) F.QUE_Q_HEAD_TAIL (qDie q) (qLoc q) 0
      let s := setQInt s q QInt.reset
      setQEnable (setQState (setF s F.QUE_Q_STATUS_ERR (qDie q) (qLoc q) 0) q 1) q 1

/-- A write of 0 to ENABLE (R103): fetch and admission stop; an idle queue reads STATE 0 at once. -/
def disableQueue (s : State) (q : Nat) : State :=
  if qState s q = 0 ∨ qState s q = 3 then setQEnable s q 0
  else
    let s := setQInt (setQEnable s q 0) q { getQInt s q with draining := true }
    let s := settle (laneLeft s q CONFLICT 3)
    if qIdle s q then setQInt (setQState s q 0) q QInt.reset else s

/-- A write of 1 to CLR_ERR (R80, R103): the queue is disabled once it is idle. DESIGN CHOICE (log entry 116): ERR then reads 0, where the
spec says so only of a successful enable. -/
def clearQueueErr (s : State) (q : Nat) : State :=
  if qState s q = 2 then
    if qIdle s q then setF (setQInt (setQState s q 0) q QInt.reset) F.QUE_Q_STATUS_ERR (qDie q) (qLoc q) 0
    else setQInt s q { getQInt s q with draining := true }
  else s

/-- A write of QUE_Q_CTRL (R80-R82, R101, R103): OPC_MASK while the queue is stopped, then abort, enable or disable, then
CLR_ERR. A queue in the error state is disabled as a running one is (R103, R104). -/
def writeQCtrl (s : State) (src : Src) (q v : Nat) : State :=
  let mask := bits v 16 16
  let cur := getF s F.QUE_Q_CTRL_OPC_MASK (qDie q) (qLoc q)
  let s :=
    if qState s q = 0 then setF s F.QUE_Q_CTRL_OPC_MASK (qDie q) (qLoc q) mask
    else if mask = cur then s
    else logErr s (eventFn src (queueOwner s q)) CFG_WHILE_ENABLED (queueOff q + 0x0C) (some q)
  let s :=
    if bit v 1 then abortQueue s q ABORTED_BY_HOST
    else if bit v 0 then enableQueue s q
    else if qState s q = 1 ∨ (qState s q = 2 ∧ !bit v 2) then disableQueue s q
    else s
  if bit v 2 then clearQueueErr s q else s

/-- A write of QUE_Q_CTRL through a window or SetupWrite. -/
def qCtrlAccess (s : State) (src : Src) (q v : Nat) : State :=
  gate s src (qDie q) (queueOff q + 0x0C) v (fun s =>
    ownedWrite s src (queueOwner s q) (queueOff q + 0x0C) (some q) (fun s => writeQCtrl s src q v))

/-- OPC_MASK as it stands, in place. -/
def keepMask (s : State) (q : Nat) : Nat := getF s F.QUE_Q_CTRL_OPC_MASK (qDie q) (qLoc q) * 65536

/-- QUEUE_ENABLE (R81, R82). -/
def execQueueEnable (src : Src) (q mask : Nat) (s : State) : Host.Outcome State Fault Refusal :=
  .next (qCtrlAccess s src q (mask * 65536 + 1))

/-- QUEUE_DISABLE (R103). -/
def execQueueDisable (src : Src) (q mask : Nat) (s : State) : Host.Outcome State Fault Refusal :=
  .next (qCtrlAccess s src q (mask * 65536))

/-- QUEUE_DRAINED: a draining queue has become idle and reads STATE 0 (R103). -/
def execQueueDrained (q : Nat) (s : State) : Host.Outcome State Fault Refusal :=
  .next (if (qState s q == 1 || qState s q == 2) && (getQInt s q).draining && qIdle s q then
      let s := if qState s q = 2 then setF s F.QUE_Q_STATUS_ERR (qDie q) (qLoc q) 0 else s
      setQInt (setQState s q 0) q QInt.reset
    else s)

/-- QUEUE_ABORT (R101). -/
def execQueueAbort (src : Src) (q : Nat) (s : State) : Host.Outcome State Fault Refusal :=
  .next (qCtrlAccess s src q (keepMask s q + 2))

/-- QUEUE_ABORT_DONE: the last completion of an abort has been posted (R101). -/
def execQueueAbortDone (q : Nat) (s : State) : Host.Outcome State Fault Refusal :=
  .next (if qState s q = 3 ∧ qIdle s q then setQState s q 0 else s)

/-- QUEUE_CLR_ERR (R103). -/
def execQueueClrErr (src : Src) (q : Nat) (s : State) : Host.Outcome State Fault Refusal :=
  .next (qCtrlAccess s src q (keepMask s q + 4))

/-! ## Completion rings (R97-R99, R632) -/

/-- Every queue whose CR field names the ring reads STATE 0 (R632). -/
def ringUnused (s : State) (r : Nat) : Bool :=
  (List.range 4096).all (fun n =>
    let q := 4096 * (r / 256) + n
    queueRing s q != r || qState s q == 0)

/-- The three cases in which the enable of a ring is refused (R97), counted from 1. -/
def ringFail (s : State) (r : Nat) : Option Nat :=
  let die := r / 256
  let c := r % 256
  let own := ringOwner s r
  let vec := getF s F.QUE_CR_CFG_VEC die c
  let size := getF s F.QUE_CR_CFG_SIZE_LOG2 die c
  let top := if isPF (own.getD 0) then 2047 else 63
  firstFail
    [(1, decide (size < 6) || decide (size > 16) || vec == 0 || decide (vec > top)),
     (2, own.isNone),
     (3, flag s F.QUE_CR_CFG_LOC die c &&
       !inMemory s (getPair s F.QUE_CR_BASE_LO_BASE F.QUE_CR_BASE_HI_BASE die c) (16 * ringSize s r))]

/-- Store the fields of QUE_CR_CFG other than ENABLE. -/
def storeRingCfg (s : State) (r v : Nat) : State :=
  [F.QUE_CR_CFG_SIZE_LOG2, F.QUE_CR_CFG_LOC, F.QUE_CR_CFG_VEC].foldl
    (fun s f => setF s f (r / 256) (r % 256) (fieldOf f v)) s

/-- A write of QUE_CR_CFG (R97, R99, R632). -/
def writeRingCfg (s : State) (src : Src) (r v : Nat) : State :=
  let die := r / 256
  let c := r % 256
  let on := flag s F.QUE_CR_CFG_ENABLE die c
  if on && (bit v 6 || !ringUnused s r || !(getRInt s r).held.isEmpty) then
    logErr s (eventFn src (ringOwner s r)) CFG_WHILE_ENABLED (ringOff r + 8)
  else
    let s := storeRingCfg s r v
    if !bit v 6 then setF s F.QUE_CR_CFG_ENABLE die c 0
    else
      match ringFail s r with
      | some k => logErr s ((ringOwner s r).getD 0) ENABLE_REFUSED k
      | none =>
        let s := setF (setF s F.QUE_CR_TAIL_TAIL die c 0) F.QUE_CR_HEAD_HEAD die c 0
        let s := setF (setF s F.QUE_CR_STATUS_ARMED die c 1) F.QUE_CR_STATUS_FULL die c 0
        setRInt (setF s F.QUE_CR_CFG_ENABLE die c 1) r RInt.reset

/-- A write of QUE_CR_CFG through a window or SetupWrite. -/
def ringCfgAccess (s : State) (src : Src) (r v : Nat) : State :=
  gate s src (r / 256) (ringOff r + 8) v (fun s =>
    ownedWrite s src (ringOwner s r) (ringOff r + 8) none (fun s => writeRingCfg s src r v))

/-- CR_ENABLE (R97). -/
def execCrEnable (src : Src) (r cfg : Nat) (s : State) : Host.Outcome State Fault Refusal :=
  .next (ringCfgAccess s src r (setBits cfg 6 1 1))

/-- CR_DISABLE (R632). -/
def execCrDisable (src : Src) (r cfg : Nat) (s : State) : Host.Outcome State Fault Refusal :=
  .next (ringCfgAccess s src r (setBits cfg 6 1 0))

/-- POST_HELD_COMPLETION: room in the ring lets the oldest held completion be written (R98). -/
def execPostHeldCompletion (r : Nat) (s : State) : Host.Outcome State Fault Refusal :=
  .next (match (getRInt s r).held with
    | [] => s
    | c :: rest =>
      if ringFull s r then s
      else
        let s := setRInt s r { getRInt s r with held := rest }
        let s := if rest.isEmpty then setF s F.QUE_CR_STATUS_FULL (r / 256) (r % 256) 0 else s
        settle (releaseCpl (writeEntry s r c) c))

/-- CR_MOD_TIMER: a pending entry is TIME µs old (R99). -/
def execCrModTimer (r : Nat) (s : State) : Host.Outcome State Fault Refusal := .next (fireRing s r)

/-- A head doorbell (R99): accepted between HEAD and TAIL, then ARM. -/
def headDoorbell (s : State) (src : Src) (r value : Nat) : State :=
  let die := r / 256
  let c := r % 256
  let h := value % 2 ^ 32
  let head := getF s F.QUE_CR_HEAD_HEAD die c
  if (h + 2 ^ 32 - head) % 2 ^ 32 > ringPending s r then logErr s (eventFn src (ringOwner s r)) HEAD_RANGE h
  else
    let s := setF s F.QUE_CR_HEAD_HEAD die c h
    fireRing (if bit value 32 then setF s F.QUE_CR_STATUS_ARMED die c 1 else s) r

/-- The detail of a SETUP_FORMAT entry: offset within the block and die (R609). -/
def formatDetail (die off : Nat) : Nat := die * 2 ^ 25 + off % 2 ^ 25

/-- CR_HEAD_DOORBELL (R99, R598). -/
def execCrHeadDoorbell (src : Src) (r size value : Nat) (s : State) : Host.Outcome State Fault Refusal :=
  .next (gate s src (die04 s) (0x1000000 + 8 * r) value (fun s =>
    if size ≠ 8 ∨ src = .mgmt then logErr s (srcFn src) SETUP_FORMAT (formatDetail (die04 s) (0x1000000 + 8 * r))
    else ownedWrite s src (ringOwner s r) (0x3000000 + 8 * r) none (fun s => headDoorbell s src r value)))

/-! ## Doorbells and fetch -/

/-- The queue of a doorbell slot (R75, R87). -/
def doorbellQueue (s : State) (fn off : Nat) : Option Nat :=
  if isPF fn then (if off / 8 < 65536 then some (off / 8) else none) else if off / 8 < 4096 then fnQueue s fn (off / 8) else none

/-- A doorbell of the right form to a queue the function may ring (R87, R88, R104, R283). -/
def ringQueue (s : State) (fn q tail : Nat) : State :=
  if qState s q ≠ 1 ∨ isLane s q ∨ dieFenced s (qDie q) then logErr s fn DB_DISABLED tail (some q)
  else if tail = qTail s q then s
  else if (tail + 2 ^ 16 - qFetch s q) % 2 ^ 16 > qSize s q then logErr (queueError s q 2) fn DB_RANGE tail (some q)
  else setF s F.QUE_Q_HEAD_TAIL (qDie q) (qLoc q) tail

/-- A doorbell write (R76, R87, R88): form, ownership, state, range. -/
def applyDoorbell (s : State) (fn off size value : Nat) : State :=
  if size ≠ 8 ∨ off % 8 ≠ 0 then logErr s fn DB_FORMAT off
  else
    match doorbellQueue s fn off with
    | none => s
    | some q =>
      match queueOwner s q with
      | none => ringQueue s 0 q (value % 65536)
      | some o => if o = fn then ringQueue s fn q (value % 65536) else logErr s fn NOT_OWNED off (some q)

/-- DOORBELL (R87, R88): held while its die is entering, in or leaving Charcoal (R486), and a wake event for its die (R488, R621). -/
def execDoorbell (fn off size value : Nat) (s : State) : Host.Outcome State Fault Refusal :=
  .next (match doorbellQueue s fn off with
    | some q =>
      let s := wakeFrom s 7 (qDie q)
      if powerOf s (qDie q) ≥ 2 ∧ !dieFenced s (qDie q) then
        { s with held := s.held ++ [.bell (qDie q) fn off size value] }
      else applyDoorbell s fn off size value
    | none => applyDoorbell s fn off size value)

/-- A die takes fetches, admissions and dispatches: not fenced, in White or Grey. -/
def dieServes (s : State) (die : Nat) : Bool := !dieFenced s die && decide (powerOf s die < 2) && !coreForced s die

/-- Write FETCH_HEAD back when it has advanced by 32 or reached the tail (R89). -/
def headWriteBack (s : State) (q : Nat) : State :=
  let h := qFetch s q
  let i := getQInt s q
  let a := qHwb s q
  if a = 0 ∨ ((h + 2 ^ 16 - i.written) % 2 ^ 16 < 32 ∧ h ≠ qTail s q) then s
  else
    let s := setQInt s q { i with written := h }
    if flag s F.QUE_Q_CFG_LOC (qDie q) (qLoc q) then physWrite s a (toLe 8 h) 0
    else hostWrite s (portOf ((queueOwner s q).getD 0)) a (toLe 8 h)

/-- The 64 bytes a fetch delivers: from the host, or from module memory where the ring lies there (R89, R90). -/
def fetchData (s : State) (q : Nat) (data : Option Bytes) : Option Bytes :=
  let a := qBase s q + 64 * (qFetch s q % qSize s q)
  if flag s F.QUE_Q_CFG_LOC (qDie q) (qLoc q) then
    if lostAt s a || (lineCauses s a 64).contains 1 then none else some (readBytes s.mem a 64)
  else
    match data with
    | some b => if b.length = 64 then some b else none
    | none => none

/-- Descriptors of a die that hold a place of the shared pool (R91). -/
def poolUsed (s : State) (die : Nat) : Nat := (s.descs.filter (fun d => qDie d.queue == die && !d.inFloor)).length
/-- Descriptors of a die in a level's floor. -/
def floorUsed (s : State) (die l : Nat) : Nat :=
  (s.descs.filter (fun d => qDie d.queue == die && d.inFloor && d.level == l)).length

/-- A die's budget has room for a descriptor of a level: in the shared pool or in the level's floor (R91, R92). -/
def dieRoom (s : State) (die l : Nat) : Bool := decide (poolUsed s die < 768) || decide (floorUsed s die l < 32)

/-- DESCRIPTOR_FETCH (R89, R90): the next descriptor of a running queue that has room for it, while its die has (R92). -/
def execDescriptorFetch (q : Nat) (data : Option Bytes) (s : State) : Host.Outcome State Fault Refusal :=
  .next (
    let i := getQInt s q
    let room := (queueDescs s q).length + i.fetched.length ≤ getF s F.QUE_Q_CFG_OUTST_M1 (qDie q) (qLoc q) ∧ dieRoom s (qDie q) (qPrio s q)
    if qState s q = 1 ∧ qEnabled s q ∧ !isLane s q ∧ dieServes s (qDie q) ∧ qFetch s q ≠ qTail s q ∧ room then
      let c := qFetch s q
      match fetchData s q data with
      | none => logErr (queueError s q 1) ((queueOwner s q).getD 0) FETCH_FAIL c (some q)
      | some b =>
        let s := setQInt s q { i with fetched := i.fetched ++ [⟨c, b⟩] }
        noteEligible (headWriteBack (setF s F.QUE_Q_HEAD_FETCH_HEAD (qDie q) (qLoc q) (c + 1)) q)
    else s)

/-! ## Admission (R86, R91-R93, R553) -/

/-- The reason a descriptor fails admission, with its status (R86). -/
def admitFail (s : State) (q : Nat) (img : Bytes) : Option Nat :=
  let f := (queueOwner s q).getD 0
  let die := qDie q
  let op := opcode img
  let cls := (opClass op).getD 15
  let mask := getF s F.QUE_Q_CTRL_OPC_MASK die (qLoc q) &&& getF s F.HST_FN_CFG_OPC_MASK f0 f
  let badTok (d t : Nat) : Bool := decide (t ≥ 3072) || tokenOwner s d t != some f
  firstFail
    [(1, !definedOps.contains op || hReserved img || (op == 0 && !zeroAt img 0x10 48)),
     (2, !bit mask cls),
     (3, decide (hClass img > getF s F.HST_FN_CFG_MAX_EC f0 f)),
     (4, (hGlobal img && cls != 7) || (hSignal img && hSigInc img == 0)),
     (5, hGlobal img && !flag s F.HST_FN_CFG_GW_EN f0 f),
     (6, (hWait img && badTok die (hWaitTok img)) || (hSignal img && badTok (hSigDie img) (hSigTok img))),
     (7, (descOf s q (hTag img)).isSome),
     (8, cls == 2 && !fullService s die)]

/-- The status of a reason of R86. -/
def admitStatus (r : Nat) : Nat := if r = 2 ∨ r = 3 ∨ r = 5 ∨ r = 6 then FAULT_PROTECTION else CONFLICT

/-- The queues of a die that offer a descriptor, in ascending order. -/
def offering (s : State) (die : Nat) : List Nat :=
  (s.qints.filter (fun p => qDie p.1 == die && offers s p.1)).map (·.1)

/-- Pick by round-robin state `k` among queues of one level. -/
def pickWrr (s : State) (k : Nat) (qs : List Nat) : Option (Nat × State) :=
  (wrrPick (tgetD s.wrrs k ⟨0, 0⟩) (qWeight s) qs).map (fun p => (p.1, { s with wrrs := tput s.wrrs k p.2 ⟨0, 0⟩ }))

/-- The highest level of some queues. -/
def topLevel (s : State) (qs : List Nat) : Nat := (qs.map (qPrio s)).foldl max 0

/-- The queue admitted next, and whether it takes its level's floor (R92). -/
def pickQueue (s : State) (die : Nat) : Option (Nat × Bool × State) :=
  let qs := offering s die
  if poolUsed s die < 768 then
    let l := topLevel s qs
    (pickWrr s (die * 16 + l) (qs.filter (fun q => qPrio s q == l))).map (fun p => (p.1, false, p.2))
  else
    let ok := qs.filter (fun q => decide (floorUsed s die (qPrio s q) < 32))
    (ok.foldl (fun acc q =>
      match acc with
      | none => some q
      | some a => if (getQInt s q).eligible < (getQInt s a).eligible then some q else some a) none).map
      (fun q => (q, true, s))

/-- Remove the front descriptor of a queue; it becomes eligible anew (R92). -/
def popFetched (s : State) (q : Nat) : State :=
  let i := getQInt s q
  setQInt { s with stamp := s.stamp + 1 } q { i with fetched := i.fetched.drop 1, eligible := 0 }

/-- Admit the front descriptor of a queue, or complete it at once with the reason of the check it fails (R86, R91). The die's
sequencers leave their waits (R484). -/
def admitFront (s : State) (q : Nat) (floor : Bool) : State :=
  match (getQInt s q).fetched with
  | [] => s
  | f :: _ =>
    let s := popFetched s q
    let lane := if f.counter ≥ 65536 then f.counter - 65536 + 1 else 0
    match admitFail s q f.image with
    | some r =>
      let st := admitStatus r
      let s := if lane = 0 then s else { s with laneDone := s.laneDone ++ [(q, lane - 1, st)] }
      settle (postCpl s ⟨q, hTag f.image, st, 0xFF, detail6 [r], 0, hIrq f.image, false⟩ false)
    | none =>
      let d : Desc :=
        { queue := q, tag := hTag f.image, image := f.image, fn := (queueOwner s q).getD 0, age := s.stamp,
          level := qPrio s q, inFloor := floor, seqr := 4, started := false, waiting := false, issued := 0, unretired := 0,
          retired := [], override := none, streams := [], detail := [], flags := 0, pins := [],
          full := fullService s (qDie q), heldAt := 0, lane := lane, moved := 0, todo := [], toks := [], inputs := [], snap := none,
          used := 0, marks := [] }
      noteEligible (countOut { s with descs := s.descs ++ [d], modes := s.modes.filter (fun p => !(p.1 / 4 == qDie q)) } q)

/-- ADMISSION: the die admits one descriptor, if one may be admitted (R91-R93). -/
def execAdmission (die : Nat) (s : State) : Host.Outcome State Fault Refusal :=
  .next (if dieServes s die && !admitsNone s then
      match pickQueue s die with
      | some (q, floor, s) => admitFront s q floor
      | none => s
    else s)

/-! ## Dispatch (R477, R596, R625) -/

/-- Die power at each operating point in thirds of a watt, interpolated between the exact points (R469). -/
def oppPower (i : Nat) : Nat :=
  ([450, 515, 580, 645, 720, 795, 870, 990, 1110, 1230, 1380, 1530, 1680, 1860, 2040] : List Nat).getD i 2040

/-- Reservation of an energy class at 1.8 GHz, in W (R476). -/
def classDraw (c : Nat) : Nat := ([10, 55, 130, 410] : List Nat).getD c 410

/-- Energy classes that the heat of a die and its stacks prefers (R477). -/
def prefClasses (s : State) (die : Nat) : List Nat :=
  let warmDie := getF s F.GV_STATE_DIE_LVL die != 0
  let warmStk := getF s F.GV_STATE_STK0_LVL die != 0 || getF s F.GV_STATE_STK1_LVL die != 0
  match warmDie, warmStk with
  | false, false => [0, 1, 2, 3]
  | false, true => [2, 3]
  | true, false => [0, 1]
  | true, true => [0]

/-- A descriptor that the dispatcher keeps and that is ready to start (R85, R625). -/
def isReady (s : State) (die : Nat) (d : Desc) : Bool :=
  qDie d.queue == die && d.seqr == 4 && d.override.isNone &&
    (!hWait d.image || waitHolds s die (hWaitTok d.image) (hWaitVal d.image))

/-- The oldest of some descriptors. -/
def oldest (ds : List Desc) : Option Desc :=
  ds.foldl (fun acc d =>
    match acc with
    | none => some d
    | some a => if d.age < a.age then some d else some a) none

/-- Descriptors that a sequencer of the die holds. -/
def seqLoad (s : State) (die k : Nat) : Nat := (s.descs.filter (fun d => qDie d.queue == die && d.seqr == k)).length

/-- The sequencer that takes the next descriptor: the least loaded with room, the lowest on a tie (R625). -/
def pickSeqr (s : State) (die : Nat) : Option Nat :=
  (([0, 1, 2, 3] : List Nat).filter (fun k => decide (seqLoad s die k < 256))).foldl (fun acc k =>
    match acc with
    | none => some k
    | some a => if seqLoad s die k < seqLoad s die a then some k else some a) none

/-- The reservation of a class fits under the die's share at the current operating point (R476, R477); a die that runs no descriptor
dispatches the chosen one whatever it reserves (R596). -/
def fits (s : State) (die c : Nat) : Bool :=
  let run := s.descs.filter (fun d => qDie d.queue == die && decide (d.seqr < 4))
  let sum := (run.map (fun d => classDraw (hClass d.image))).foldl (· + ·) 0 + classDraw c
  run.isEmpty || decide (sum * oppPower (getF s F.GV_STATE_OPP die) ≤ getF s F.GV_POWER_SHARE die * 1680)

/-- Give a descriptor to a sequencer. -/
def giveTo (s : State) (d : Desc) (k : Nat) : State := updDesc s d.queue d.tag (fun d => { d with seqr := k, heldAt := 0 })

/-- Insert a number into a rising list without repeats. -/
def insertUp (x : Nat) : List Nat → List Nat
  | [] => [x]
  | y :: r => if x < y then x :: y :: r else if x = y then y :: r else y :: insertUp x r

/-- Choose among ready descriptors that no global wait precedes (R477): preference, priority, round-robin, age. -/
def chooseReady (s : State) (die : Nat) (rs : List Desc) : Option (Desc × State) :=
  let pref := prefClasses s die
  let inPref := rs.filter (fun d => pref.contains (hClass d.image))
  let base := if inPref.isEmpty then rs else inPref
  let late := rs.filter (fun d => d.heldAt != 0 && decide (now s + 1 ≥ d.heldAt + 100000) && !base.any (fun e => e == d))
  let cand := base ++ late
  let s := { s with descs := s.descs.map (fun d =>
    if isReady s die d && d.heldAt == 0 && !base.any (fun e => e == d) then { d with heldAt := now s + 1 } else d) }
  let l := (cand.map (·.level)).foldl max 0
  let top := cand.filter (fun d => d.level == l)
  match pickWrr s (die * 16 + 8 + l) (top.foldl (fun qs d => insertUp d.queue qs) []) with
  | some (q, s) => (oldest (top.filter (fun d => d.queue == q))).map (fun d => (d, s))
  | none => none

/-- DISPATCH: the dispatcher hands one ready descriptor to a sequencer, or holds it for the share (R477, R596, R625). -/
def execDispatch (die : Nat) (s : State) : Host.Outcome State Fault Refusal :=
  .next (
    let rs := s.descs.filter (isReady s die)
    if !dieServes s die ∨ rs.isEmpty then s
    else
      match pickSeqr s die with
      | none => s
      | some k =>
        match oldest (rs.filter (fun d => hGlobal d.image)) with
        | some d => giveTo s d k
        | none =>
          match chooseReady s die rs with
          | none => s
          | some (d, s') =>
            if fits s die (hClass d.image) then giveTo s' d k
            else addF s' F.GV_CNT_HOLD_HOLD die 0 1)

/-- RESOURCE_WAIT_END: streams and pool space have become free for a waiting program (R71). -/
def execResourceWaitEnd (q tag : Nat) (s : State) : Host.Outcome State Fault Refusal :=
  .next (match descOf s q tag with
    | some d =>
      if d.waiting && (newStream s (qDie q) 0x28 3 tileLines [0x28]).isSome then
        updDesc s q tag (fun d => { d with waiting := false })
      else s
    | none => s)

/-- A program of a die waits to push its next micro-command into a station's FIFO (R70). -/
def pushesTo (die st : Nat) (d : Desc) : Bool :=
  qDie d.queue == die && (match d.todo with
    | .push x _ :: _ => x == st
    | _ => false)

/-- STATION_FIFO_ROOM: a micro-command that waited for room enters its station's FIFO, and its program goes on; the oldest program first
(R70; log entry 8). -/
def execStationFifoRoom (die st : Nat) (s : State) : Host.Outcome State Fault Refusal :=
  .next (match tgetD s.overs (fifoKey die st) [] with
    | [] =>
      match oldest (s.descs.filter (pushesTo die st)) with
      | some d => settle (advance s d.queue d.tag)
      | none => s
    | m :: r =>
      if (fifo s die st).length < 64 then
        setFifo { s with overs := tput s.overs (fifoKey die st) r [] } die st (fifo s die st ++ [m])
      else s)

/-- NOP: the header's wait is over; its signal is applied and it completes (R84). -/
def execNop (q tag : Nat) (s : State) : Host.Outcome State Fault Refusal :=
  .next (match opDesc s q tag (fun i => opcode i == 0) with
    | some d => settle (endOp s d DONE (seqStation d) [])
    | none => s)

/-! ## BAR4, the seal, reads with an effect -/

/-- The content of a physical line is lost: its place is, or its managed region is LOST (R78, R342). -/
def physLost (s : State) (a : Nat) : Bool :=
  lostAt s a || s.homes.any (fun p => p.2.state == 3 && locAddr p.2.tier p.2.location == a / region * region)

/-- The module address of an aperture access, if the function has an aperture there (R75, R78). -/
def apertureAddr (s : State) (fn off len : Nat) : Option Nat :=
  if isPF fn && s.bar4 != 0 && decide (len ≠ 0) && decide (off + len ≤ 2 ^ (s.bar4 - 1) * 2 ^ 30) then
    some (getPair s F.HST_BAR4_BASE_LO_BASE F.HST_BAR4_BASE_HI_BASE f0 + off)
  else none

/-- An aperture access outside HBM and populated far memory (R78). -/
def bar4Refuse (s : State) (fn off : Nat) : State := emit (logErr s fn BAR4_RANGE (off % 2 ^ 32)) (.pcieUR fn)

/-- BAR4_READ (R78): a line with an uncorrectable error or of a LOST region is returned poisoned. -/
def execBar4Read (fn off len : Nat) (s : State) : Host.Outcome State Fault Refusal :=
  .next (match apertureAddr s fn off len with
    | none => s
    | some a =>
      if !inMemory s a len then bar4Refuse s fn off
      else if physLost s a || physLost s (a + len - 1) then emit s (.pcieData fn (toLe len 0) true)
      else emit s (.pcieData fn (readBytes s.mem a len) ((lineCauses s a len).contains 1)))

/-- BAR4_WRITE (R78): a LOST region takes nothing; a line written whole loses its error. -/
def execBar4Write (fn off : Nat) (data : Bytes) (s : State) : Host.Outcome State Fault Refusal :=
  .next (match apertureAddr s fn off data.length with
    | none => s
    | some a =>
      if !inMemory s a data.length then bar4Refuse s fn off
      else if physLost s a || physLost s (a + data.length - 1) then s
      else
        let whole (p : Nat × Nat) : Bool := decide (a ≤ 64 * p.1) && decide (64 * p.1 + 64 ≤ a + data.length)
        markDirty { s with mem := writeBytes s.mem a data, lines := s.lines.filter (fun p => !whole p) } a data.length)

/-- SEAL (R14, R105, R564): a write of HST_SEAL; the partition is captured for attestation. -/
def execSeal (src : Src) (value : Nat) (s : State) : Host.Outcome State Fault Refusal :=
  .next (pfWrite s src (die04 s) 0x000100 value (fun s =>
    let t := plainWrite s src f0 0x100 value
    if sealed t && !sealed s then { t with sealBytes := rwlBytes t } else t))

/-- A read with an effect: what a fenced, sleeping or forced die answers (R76, R603, R634), else the read. -/
def readGate (s : State) (src : Src) (die : Nat) (k : State → State) : State :=
  if dieFenced s die then
    emit (match src with
      | .fn f => logErr s f WINDOW_FENCED die
      | .mgmt => s) (.regData 0xFFFFFFFF)
  else if inCharcoal s die then emit (wakeByAccess s src die) (.regData 0)
  else if coreForced s die then emit s (.regData 0xFFFFFFFF)
  else k (wakeByAccess s src die)

/-- A physical function or the management controller. -/
def isPfSrc : Src → Bool
  | .fn f => isPF f
  | .mgmt => true

/-- STREAM_TAIL_READ (R66, R600): returns the selected stream's tail and latches its slowest head. -/
def execStreamTailRead (src : Src) (die : Nat) (s : State) : Host.Outcome State Fault Refusal :=
  .next (if !isPfSrc src then s
    else readGate s src die (fun s =>
      if !isComp die then emit s (.regData 0)
      else
        match tget? s.streams (streamKey die (getF s F.QUE_STREAM_SEL_STREAM die)) with
        | some st => emit (setF s F.QUE_STREAM_HEAD_HEAD die 0 (slowest st).toNat) (.regData st.tail.toNat)
        | none => emit (setF s F.QUE_STREAM_HEAD_HEAD die 0 0) (.regData 0)))

/-- TICK_LO_READ (R508, R600): returns the low half of the tick and latches the high half. -/
def execTickLoRead (src : Src) (s : State) : Host.Outcome State Fault Refusal :=
  .next (if !isPfSrc src then s
    else readGate s src (die04 s) (fun s =>
      emit (setF s F.CLK_TICK_HI_TICK f0 0 (now s / 2 ^ 32)) (.regData (now s % 2 ^ 32))))

/-! ## Host ports (R104, R548) -/

/-- The functions of a host port (R74). -/
def portFns (port : Nat) : List Nat := (List.range 17).map (fun v => 17 * port + v)

/-- A queue belongs to a function of the port. -/
def ofPort (s : State) (port q : Nat) : Bool :=
  match queueOwner s q with
  | some f => portOf f == port
  | none => false

/-- Discard the completions held for the rings of a port's functions (R104). -/
def discardHeld (s : State) (port : Nat) : State :=
  s.rints.foldl (fun s p =>
    match ringOwner s p.1 with
    | some f =>
      if portOf f = port ∧ !p.2.held.isEmpty then
        let s := setRInt s p.1 { getRInt s p.1 with held := [] }
        let s := setF s F.QUE_CR_STATUS_FULL (p.1 / 256) (p.1 % 256) 0
        p.2.held.foldl (fun s c =>
          releaseCpl (addF (countLost s f) F.QUE_Q_STATUS_LOST_CPL (qDie c.queue) (qLoc c.queue) 1) c) s
      else s
    | none => s) s

/-- The link of a host port goes down (R104): its running queues enter the error state, completions are discarded from
now on. -/
def linkGoesDown (s : State) (port : Nat) : State :=
  let s := { s with linkDown := tins s.linkDown port 0 }
  let qs := (List.range 65536).filter (fun q => qState s q == 1 && ofPort s port q)
  settle (discardHeld (qs.foldl (fun s q => queueError s q 4) s) port)

/-- HOST_LINK_DOWN (R104). -/
def execHostLinkDown (port : Nat) (s : State) : Host.Outcome State Fault Refusal :=
  .next (if (tget? s.linkDown port).isSome then s else linkGoesDown s port)

/-- HOST_LINK_UP (R104): one CPL_LOST entry for each function that lost completions. The host port of a fenced fabric die stays lost (R24,
R37). -/
def execHostLinkUp (port : Nat) (s : State) : Host.Outcome State Fault Refusal :=
  .next (if (tget? s.linkDown port).isNone ∨ dieFenced s (16 + 2 * port) then s
    else
      let s := { s with linkDown := tdel s.linkDown port }
      (portFns port).foldl (fun s f =>
        match tget? s.lostCpls f with
        | some n => logErr { s with lostCpls := tdel s.lostCpls f } f CPL_LOST n
        | none => s) s)

/-- HOST_PORT_RESET (R548): the queues of the port as for a link that goes down; the error-ring registers of its
functions and the PF's copy of HST_WIN_SEL return to their reset values. -/
def execHostPortReset (port : Nat) (s : State) : Host.Outcome State Fault Refusal :=
  .next (
    let s := linkGoesDown s port
    let s := { s with winSel := tdel s.winSel (17 * port) }
    (portFns port).foldl (fun s f =>
      [F.HST_FN_ERR_BASE_LO_BASE, F.HST_FN_ERR_BASE_HI_BASE, F.HST_FN_ERR_HEAD_HEAD, F.HST_FN_ERR_TAIL_TAIL,
        F.HST_FN_ERR_TAIL_OVF].foldl (fun s g => setF s g f0 f g.reset) s) s)

end Sys2Proof.Machine
end

