-- ==== Sys2Proof/Machine/Movers.lean ====
section
/-! DEFINITION. The movers: copies, fills and indexed moves, reads into stream slots, region generations, writes and
their acknowledgements (R49-R56, R352-R376, R627). -/

namespace Sys2Proof.Machine

open Sys2Proof

/-! ## Tiles of a copy (R369) -/

/-- Tiles of whole rows: at most 64 KiB each; `fuel` bounds the tiles. -/
def rowTiles (src dst sp dp rb per : Nat) : Nat → Nat → Nat → List CopyTile
  | 0, _, _ => []
  | fuel + 1, r, rows =>
    if r ≥ rows then []
    else ⟨src + r * sp, dst + r * dp, rb, min per (rows - r), sp, dp, none⟩ :: rowTiles src dst sp dp rb per fuel (r + per) rows

/-- Pieces of 64 KiB of one row. -/
def pieceTiles (src dst rb : Nat) : List CopyTile :=
  (List.range (ceilDiv rb 65536)).map (fun k => ⟨src + k * 65536, dst + k * 65536, min 65536 (rb - k * 65536), 1, 0, 0, none⟩)

/-- The tiles of a copy (R369). -/
def copyTiles (src dst sp dp rb rows : Nat) : List CopyTile :=
  if rb ≤ 65536 then rowTiles src dst sp dp rb (65536 / rb) rows 0 rows
  else (List.range rows).flatMap (fun r => pieceTiles (src + r * sp) (dst + r * dp) rb)

/-- Every `n`-th element of a list, from one of the first `n` (R369). -/
def everyNth {α : Type} (n k : Nat) (l : List α) : List α := (l.zipIdx.filter (fun x => x.2 % n == k)).map (·.1)

/-- Bytes of a tile. -/
def tileBytes (t : CopyTile) : Nat := t.len * t.rows

/-! ## Descriptors -/

/-- The movers a movers field names: none where one of them is fenced, which is given (R368, R373). -/
def moverList (s : State) (die sel : Nat) : Nat × List Nat :=
  let all := [0x28, 0x29, 0x2A, 0x2B]
  if sel = 0 then
    let up := all.filter (fun m => !stFenced s die m)
    (0x28, up)
  else
    let named := all.filter (fun m => bit sel (m - 0x28))
    match named.find? (fun m => stFenced s die m) with
    | some m => (m, [])
    | none => (0x28, named)

/-- The detail bytes of a mover descriptor (R373). -/
def moverDetail (bytes eflags : Nat) : Bytes := ([0] ++ toLe 4 (sat (2 ^ 32 - 1) (bytes / 64)) ++ toLe 1 eflags)

/-- Set an eflag of a mover descriptor. -/
def moverFlag (s : State) (q tag e : Nat) : State :=
  updDesc s q tag (fun d => { d with detail := moverDetail d.moved (leNat (d.detail.drop 5) ||| e) })

/-- Count bytes a mover wrote for a descriptor; only a mover descriptor shows them. -/
def moverCount (s : State) (die mover q tag n : Nat) : State :=
  let s := addD s F.MV_CNT_WR_WR die (mover - 0x28) n (2 ^ 20)
  updDesc s q tag (fun d =>
    if 0x80 ≤ opcode d.image ∧ opcode d.image ≤ 0x82 then
      { d with moved := d.moved + n, detail := moverDetail (d.moved + n) (leNat (d.detail.drop 5)) }
    else d)

/-- Take reader pins on the managed regions of an extent for a descriptor (R332). -/
def pinExtent (s : State) (q tag : Nat) (sps : List (Option Span)) : State :=
  let rs := (sps.filterMap (fun o => o.bind (·.home))).eraseDups
  let s := { s with homes := rs.foldl (fun m r =>
    let h := tgetD m r HomeRec.empty
    tput m r { h with readers := h.readers + 1 } HomeRec.empty) s.homes }
  updDesc s q tag (fun d => { d with pins := d.pins ++ rs })

/-- Create one stream of 8 slots for each mover (R369); none where the pool has no room. -/
def moverStreams (s : State) (die q tag : Nat) (ms : List Nat) : Option (List (Nat × Nat) × State) :=
  ms.foldl (fun o m =>
    match o with
    | none => none
    | some (l, s) =>
      match newStream s die m 8 tileLines [m] with
      | none => none
      | some (n, s) => some (l ++ [(m, n)], updDesc s q tag (fun d => { d with streams := d.streams ++ [n] })))
    (some ([], s))

/-- Run a copy: the tiles spread over the movers in ascending order, one micro-command for each (R369). `fill` says that
the tiles carry their content. -/
def runTiles (s : State) (d : Desc) (ms : List Nat) (far : Option (Nat × Nat × Nat)) (fill : Bool)
    (share : Nat → Nat → List CopyTile) (bad : Nat → Nat → Nat) (eflags : Nat) : State :=
  match moverStreams s (qDie d.queue) d.queue d.tag ms with
  | none => updDesc s d.queue d.tag (fun d => { d with waiting := true })
  | some (xs, s) =>
    let n := ms.length
    issueAll (setDetail s d.queue d.tag (moverDetail 0 eflags)) d.queue d.tag
      (xs.zipIdx.map (fun x =>
        let ts := share n x.2
        ⟨x.1.1, .copy x.1.2 far (if fill then [] else ts) (if fill then ts else []) 0, bad n x.2, [], 0⟩))

/-- Class-8 reserved bits of a copy or fill: the field movers, the rest, and a local destination that names a module or
die (R368). -/
def copyReserved (img : Bytes) : Bool :=
  let far := bit (fld img 0x33 1) 0
  bits (fld img 0x10 8) 52 12 != 0 || bits (fld img 0x33 1) 5 3 != 0 || bits (fld img 0x34 1) 4 4 != 0 ||
    !zeroAt img 0x35 3 || bits (fld img 0x32 1) 5 3 != 0 ||
    (if far then bits (fld img 0x18 8) 48 16 != 0
      else bits (fld img 0x18 8) 52 12 != 0 || !zeroAt img 0x30 2 || fld img 0x32 1 != 0)

/-- The checks of R372 on MV_COPY and MV_FILL. -/
def copyChecks (fill : Bool) (img : Bytes) : List (Nat × Bool) :=
  let sp := fld img 0x20 4
  let dp := fld img 0x24 4
  let rb := fld img 0x2C 4
  [(1, (!fill && fld img 0x10 8 % 64 != 0) || fld img 0x18 8 % 64 != 0 || rb % 64 != 0 || decide (rb > 2 ^ 31) ||
      dp % 64 != 0 || decide (dp < rb) || (!fill && (sp % 64 != 0 || decide (sp < rb)))),
   (2, fld img 0x28 4 == 0 || rb == 0),
   (3, bits (fld img 0x33 1) 3 2 == 3 || (bit (fld img 0x33 1) 0 && isGroup (fld img 0x30 2) && bits (fld img 0x33 1) 3 2 == 0) ||
      (fill && bit (fld img 0x33 1) 0) ||
      (if fill then fld img 0x10 8 != 0 || sp != 0 else fld img 0x38 8 != 0)),
   (4, copyReserved img)]

/-- A tile with its content: the pattern at each 8-byte offset (R368). -/
def fillTile (pattern : Nat) (t : CopyTile) : CopyTile :=
  { t with data := some ((List.replicate (tileBytes t / 8) (toLe 8 pattern)).flatten, 0) }

/-- tclass of a fabric destination as a class code: Slate, Amber, Indigo (R368, R388). -/
def tclassCode (c : Nat) : Nat := if c = 0 then 3 else if c = 1 then 2 else 1

/-- Run MV_COPY or MV_FILL (R368, R369). A copy to a multicast group is one transfer, so one mover makes it (R404). -/
def runCopy (s : State) (d : Desc) (fill : Bool) : State :=
  let img := d.image
  let die := qDie d.queue
  let (bad, ms) := moverList s die (bits (fld img 0x34 1) 0 4)
  let ctl := fld img 0x33 1
  let rows := fld img 0x28 4
  let rb := fld img 0x2C 4
  let sp := fld img 0x20 4
  let far := if bit ctl 0 then some (fld img 0x30 2, bits (fld img 0x32 1) 0 5, tclassCode (bits ctl 3 2)) else none
  let stop := match far with
    | some (m, dd, _) => sendFail s m dd
    | none => none
  let group := match far with
    | some (m, _, _) => isGroup m
    | none => false
  match (if group then ms.take 1 else ms), stop with
  | [], _ => endOp s d FENCED bad []
  | m :: _, some st => endOp s d st m []
  | _, none =>
    let dst := if bit ctl 0 then fld img 0x18 8 % 2 ^ 48 else fld img 0x18 8 % 2 ^ 52
    let ts := copyTiles (fld img 0x10 8 % 2 ^ 52) dst sp (fld img 0x24 4) rb rows
    let ts := if fill then ts.map (fillTile (fld img 0x38 8)) else ts
    let s := if bit ctl 1 && !fill then pinExtent s d.queue d.tag (extent s d.fn (fld img 0x10 8 % 2 ^ 52) ((rows - 1) * sp + rb)) else s
    runTiles s d ms far fill (fun n k => everyNth n k ts) (fun _ _ => DONE) 0

/-- MV_COPY (R368, R369). -/
def execMvCopy (q tag : Nat) (s : State) : Host.Outcome State Fault Refusal :=
  .next (match opDesc s q tag (fun i => opcode i == 0x80) with
    | none => s
    | some d =>
      match firstFail (copyChecks false d.image) with
      | some r => settle (rejectOp s d CONFLICT r)
      | none => settle (runCopy s d false))

/-- MV_FILL (R368). -/
def execMvFill (q tag : Nat) (s : State) : Host.Outcome State Fault Refusal :=
  .next (match opDesc s q tag (fun i => opcode i == 0x81) with
    | none => s
    | some d =>
      match firstFail (copyChecks true d.image) with
      | some r => settle (rejectOp s d CONFLICT r)
      | none => settle (runCopy s d true))

/-- The checks of R372 on MV_INDEXED. -/
def indexedChecks (img : Bytes) : List (Nat × Bool) :=
  let eb := fld img 0x2C 4
  let st := fld img 0x30 4
  [(1, fld img 0x10 8 % 32 != 0 || fld img 0x18 8 % 64 != 0 || fld img 0x20 8 % 64 != 0 || eb % 32 != 0 || decide (eb < 32) ||
      decide (eb > 65536) || st % 32 != 0 || decide (st < eb)),
   (2, fld img 0x28 4 == 0 || fld img 0x34 4 == 0),
   (4, bits (fld img 0x10 8) 52 12 != 0 || bits (fld img 0x18 8) 52 12 != 0 || bits (fld img 0x20 8) 52 12 != 0 ||
      bits (fld img 0x38 1) 4 4 != 0 || bits (fld img 0x39 1) 4 4 != 0 || !zeroAt img 0x3A 6)]

/-- The element `i` of an indexed move, by its index `x`, as a tile (R370). -/
def elementTile (img : Bytes) (i x : Nat) : CopyTile :=
  let eb := fld img 0x2C 4
  let row := fld img 0x10 8 % 2 ^ 52 + x * fld img 0x30 4
  let el := fld img 0x20 8 % 2 ^ 52 + i * eb
  if bit (fld img 0x38 1) 0 then ⟨el, row, eb, 1, 0, 0, none⟩ else ⟨row, el, eb, 1, 0, 0, none⟩

/-- Run MV_INDEXED (R370, R371): an element goes to a mover by its place, a scattered one by its index, so that writes to
equal indices stay in list order. -/
def runIndexed (s : State) (d : Desc) : State :=
  let img := d.image
  let die := qDie d.queue
  let (bad, ms) := moverList s die (bits (fld img 0x39 1) 0 4)
  match ms with
  | [] => endOp s d FENCED bad []
  | m :: _ =>
    let cnt := fld img 0x28 4
    let (bs, cause) := jobRead s d.fn (fld img 0x18 8 % 2 ^ 52) (4 * cnt)
    if cause ≠ 0 then endOp s d (causeStatus cause) m []
    else
      let s := touchRead s d.fn (fld img 0x18 8 % 2 ^ 52) (4 * cnt)
      let scatter := bit (fld img 0x38 1) 0
      let xs := (List.range cnt).map (fun i => (i, fld bs (4 * i) 4))
      let rows := fld img 0x34 4
      let mine (n k : Nat) (x : Nat × Nat) : Bool := (if scatter then x.2 else x.1) % n == k
      let good := xs.filter (fun x => decide (x.2 < rows))
      let ts (n k : Nat) : List CopyTile := (good.filter (mine n k)).map (fun x => elementTile img x.1 x.2)
      let fault (n k : Nat) : Nat := if xs.any (fun x => mine n k x && decide (x.2 ≥ rows)) then FAULT_PROTECTION else DONE
      let s := if bit (fld img 0x38 1) 2 then
          pinExtent s d.queue d.tag (good.flatMap (fun x => extent s d.fn (elementTile img x.1 x.2).src (fld img 0x2C 4)))
        else s
      runTiles s d ms none false ts fault 0

/-- MV_INDEXED (R370, R371). -/
def execMvIndexed (q tag : Nat) (s : State) : Host.Outcome State Fault Refusal :=
  .next (match opDesc s q tag (fun i => opcode i == 0x82) with
    | none => s
    | some d =>
      match firstFail (indexedChecks d.image) with
      | some r => settle (rejectOp s d CONFLICT r)
      | none => settle (runIndexed s d))

/-! ## Reads (R352-R360) -/

/-- The read is of a no-prefetch page or descriptor (R358). -/
def isNopf (s : State) (fn va : Nat) (img : Bytes) : Bool :=
  (opcode img == 0x80 && bit (fld img 0x33 1) 2) || (opcode img == 0x82 && bit (fld img 0x38 1) 3) ||
    (match findPage s fn va with
      | some (_, p) => p.nopf
      | none => false)

/-- Count a run-ahead fetch dropped on translation or protection (R359). -/
def countDrop (s : State) (die mover cause : Nat) : State :=
  if cause = 2 then addF s F.MV_CNT_RA_DROP_XLATE die (mover - 0x28) 1
  else if cause = 3 then addF s F.MV_CNT_RA_DROP_PROT die (mover - 0x28) 1
  else s

/-- A line with an uncorrectable error was read: it stays poisoned until it is written, and is counted and logged (R510,
R512). -/
def badLine (s : State) (sps : List (Option Span)) : State :=
  match sps.head? with
  | some (some sp) =>
    if inHbm sp.addr then
      let n := sp.addr / stackBytes
      logRec (addF (markLines s sp.addr 1 1) F.MGT_ERR_UE_HBM (n / 2) 0 1) 1 (n / 2) (0x40 + n) 1 sp.addr 0
    else s
  | _ => s

/-- The oldest request of one direction that a mover has in flight. -/
def oldestReq (s : State) (die mover : Nat) (write : Bool) : Option Req := (moverReqs s die mover).find? (fun r => r.write == write)

/-- A request ends with a status and leaves its slots (R352). -/
def closeReq (s : State) (die mover : Nat) (r : Req) (status : Nat) : State :=
  endReq (setReqs s die mover (delFirst (· == r) (moverReqs s die mover))) die mover r status

/-- What a tile holds that a mover has fetched, with a further cause: its bytes, open where it is poisoned (R49), and the cause. -/
def fetched (s : State) (g : Geo) (sps : List (Option Span)) (extra : Nat) : (Bytes × Nat) × State :=
  let c := worstCause [spansCause s sps, extra]
  if c = 0 then ((spansBytes s sps, 0), s) else ((freeBytes (s.freeCtr * 2 ^ 40) (geoBytes g), c), (freshFree s).2)

/-- The requests of a tile took the narrow path: the call asks for it and the tile lies in HBM (R316, R371). -/
def tookNarrow (s : State) (r : Req) : Bool := narrowReq s r.queue r.tag r.spans

/-- Count the narrow requests of a tile, and flag its call (R371, R373). -/
def countNarrow (s : State) (die mover : Nat) (r : Req) : State :=
  if tookNarrow s r then
    moverFlag (addD s F.MV_CNT_NARROW_NARROW die (mover - 0x28) (geoBytes r.job.geo / 32) 1024) r.queue r.tag 8
  else s

/-- The data of a read has reached the pool: its slot is filled (R352, R359, R363). -/
def fillSlot (s : State) (die mover : Nat) (r : Req) (fn : Nat) (sps : List (Option Span)) (extra : Nat) : Slot × State :=
  let x := fetched s r.job.geo sps extra
  (⟨die, mover, r.stream, r.job, fn, x.1.1, x.1.2, r.gen, r.source, tileVersion s die fn r.job.geo, 1, false, r.queue, r.tag, r.tile⟩, x.2)

/-- A read ends: its slot is filled, and it leaves the mover. -/
def endRead (s : State) (die mover : Nat) (r : Req) (sps : List (Option Span)) (demand bad : Bool) : State :=
  let s := if bad then badLine s sps else s
  let x := fillSlot s die mover r (fnOf s r.queue r.tag) sps (b2n bad)
  let s := if demand then x.2 else countDrop x.2 die mover x.1.poison
  let s := countNarrow (addD s F.MV_CNT_RD_RD die (mover - 0x28) (geoBytes r.job.geo) (2 ^ 20)) die mover r
  closeReq { s with slots := s.slots ++ [x.1] } die mover r 0

/-- MOVER_READ_DONE (R352): the data of the mover's oldest read has reached the pool. A read of a no-prefetch page goes out on demand only,
and meets the tiers as they are then (R358). -/
def execMoverReadDone (die mover : Nat) (demand badEcc : Bool) (s : State) : Host.Outcome State Fault Refusal :=
  .next (match oldestReq s die mover false with
    | none => s
    | some r =>
      let fn := fnOf s r.queue r.tag
      if stFenced s die mover then s
      else if isNopf s fn r.job.geo.va (imageOf s r.queue r.tag) then
        if demand then pump (endRead s die mover r (geoSpans s fn r.job.geo) true badEcc)
        else addF s F.MV_CNT_NOPF_NOPF die (mover - 0x28) 1
      else pump (endRead s die mover r (refreshed s r.spans) demand badEcc))

/-! ## Late accesses (R339) -/

/-- The M die that counts a late access to a piece: the one with the record of a managed region, else the one of the memory (R339). -/
def limitDie (s : State) (sps : List (Option Span)) : Nat :=
  match sps.head? with
  | some (some sp) =>
    match sp.home with
    | some h => homeM h
    | none => if inHbm sp.addr then mDieOf (sp.addr / stackBytes / 2) else 24 + (sp.addr - farBase) / farRange s
  | _ => 24

/-- An access ends late or in error: counted and recorded (R339, R510). -/
def noteLate (s : State) (sps : List (Option Span)) : State :=
  logTier (addF s F.TM_CNT_TIMEOUT_TIMEOUT (limitDie s sps) 0 1)
    (match sps.head? with
      | some (some sp) => sp.addr
      | _ => 0)

/-- The consumer's slot of a tile that a mover has written is released (R55). -/
def releaseOut (s : State) (die mover : Nat) (r : Req) : State :=
  if r.tile.isSome then releaseSlot s die r.stream mover else if r.stream = 0 then s else releaseSlot s die (r.stream - 1) mover

/-- TIER_ACCESS_TIMEOUT (R339): the oldest access of a mover ends late or in error. A read fills its slot with poison 0x04, and its consumer
ends with TIER_ERROR (R49); a write ends its micro-command with TIER_ERROR, which goes on with the next. -/
def execTierAccessTimeout (die mover : Nat) (s : State) : Host.Outcome State Fault Refusal :=
  .next (match (moverReqs s die mover).head? with
    | none => s
    | some r =>
      if stFenced s die mover then s
      else
        let s := noteLate s r.spans
        if r.write then pump (closeReq (releaseOut s die mover r) die mover r TIER_ERROR)
        else
          let x : Slot := ⟨die, mover, r.stream, r.job, fnOf s r.queue r.tag, freeBytes (s.freeCtr * 2 ^ 40) (geoBytes r.job.geo), 4, 0, none,
            none, 1, false, r.queue, r.tag, r.tile⟩
          let s := (freshFree s).2
          pump (closeReq { s with slots := s.slots ++ [x] } die mover r 0))

/-! ## Commit (R364-R366) -/

/-- The recorded generation differs from the region's, and the slot is compared (R364, R365). -/
def isStale (s : State) (x : Slot) : Bool :=
  match x.source with
  | some k => decide (x.fetches < 5) && x.gen != tgetD s.gens k 0
  | none => false

/-- Fetch a slot again, from where its tile lies now (R329, R364, R365). -/
def refetch (s : State) (x : Slot) : Slot × State :=
  let sps := geoSpans s x.fn x.job.geo
  let k := trackOf x.die sps
  let y := fetched s x.job.geo sps 0
  ({ x with data := y.1.1, poison := y.1.2, gen := genOf s k, source := k, version := tileVersion s x.die x.fn x.job.geo,
            fetches := x.fetches + 1, aged := false },
    sps.foldl (fun s o => touchHome s (o.bind (·.home))) y.2)

/-- Refetch a slot if it is stale, or aged as the first of its stream, and count it. -/
def refetchOne (s : State) (x : Slot) (first : Bool) : Slot × State :=
  let stale := isStale s x
  if stale || (first && x.aged) then
    let (y, s) := refetch s x
    let s := if stale then addF s F.MV_CNT_REFETCH_STALE x.die (x.mover - 0x28) 1
      else addF s F.MV_CNT_REFETCH_AGED x.die (x.mover - 0x28) 1
    let s := if y.fetches = 5 then addF s F.MV_CNT_LOCKED_LOCKED x.die (x.mover - 0x28) 1 else s
    let s := if x.tile.isSome then moverFlag s x.queue x.tag (if y.fetches = 5 then 3 else 1) else s
    (y, s)
  else (x, s)

/-- Refetch the first slot of a stream and every later one that is stale, in order. -/
def refetchAll (die n : Nat) : List Slot → Bool → State → List Slot × State
  | [], _, s => ([], s)
  | x :: r, first, s =>
    if x.die = die ∧ x.stream = n then
      let (y, s) := refetchOne s x first
      let (ys, s) := refetchAll die n r false s
      (y :: ys, s)
    else
      let (ys, s) := refetchAll die n r first s
      (x :: ys, s)

/-- Give the first tile of a copy that has no content its committed content. -/
def giveData (bs : Bytes) (cause : Nat) : List CopyTile → List CopyTile
  | [] => []
  | t :: r => if t.data.isNone then { t with data := some (bs, cause) } :: r else t :: giveData bs cause r

/-- A micro-command's status after a further event: the first failure stands (R49, R72). -/
def keepStatus (m : Micro) (status : Nat) : Nat := if m.status = DONE then status else m.status

/-- Send a committed tile to a fabric destination as one unit (R51, R369, R383). -/
def sendTile (s : State) (die mover : Nat) (m : Micro) (n : Nat) (far : Nat × Nat × Nat) (todo stores : List CopyTile) (left : Nat)
    (t : CopyTile) (bs : Bytes) (cause : Nat) : State :=
  let rows := (List.range t.rows).map (fun i => (t.dst + i * t.dstPitch, (bs.drop (i * t.len)).take t.len))
  let ps := rows.flatMap (fun r => (writePieces r.1 r.2).map (fun p => (p.1, p.2, if cause = 0 then 0 else 5)))
  let cnt := if isGroup far.1 then 1 - left else ps.length
  let fin := todo.isEmpty && decide (stores.length ≤ 1)
  let s := updMicro s m.queue m.tag m.idx (fun m =>
    { m with kind := .copy n (some far) todo (stores.drop 1) (left + cnt), status := keepStatus m (causeStatus cause) })
  let fn := fnOf s m.queue m.tag
  let s :=
    if isGroup far.1 then sendMc s m.queue m.tag m.idx fn far.1 far.2.2 ps DONE fin true
    else sendPieces s m.queue m.tag m.idx fn far.1 far.2.1 far.2.2 ps DONE true
  moverCount s die mover m.queue m.tag (tileBytes t)

/-- The copy whose stream a slot belongs to. -/
def copyOf (s : State) (x : Slot) : Option Micro :=
  (fifo s x.die x.mover).find? (fun m => m.queue == x.queue && m.tag == x.tag && (match m.kind with
    | .copy n _ _ _ _ => n == x.stream
    | _ => false))

/-- A committed slot goes to its consumer: the copy it belongs to, which a poisoned one gives its status (R49), or the station whose input
it is (R55, R56). -/
def handOver (s : State) (x : Slot) : State :=
  match x.tile, copyOf s x with
  | none, _ =>
    updDesc s x.queue x.tag (fun d => { d with inputs := d.inputs ++ tileInputs x.data x.poison x.version (geoExtents x.job.geo) })
  | some t, some m =>
    match m.kind with
    | .copy n none todo stores left =>
      updMicro s x.queue x.tag m.idx (fun m =>
        { m with kind := .copy n none todo (giveData x.data x.poison stores) left, status := keepStatus m (causeStatus x.poison) })
    | .copy n (some far) todo stores left =>
      releaseSlot (sendTile s x.die x.mover m n far todo stores left t x.data x.poison) x.die x.stream x.mover
    | _ => s
  | some _, none => s

/-- Commit a slot: its tile is published at the tail of its stream, and its consumer takes it (R55, R56). -/
def commitSlot (s : State) (x : Slot) : State :=
  let s := if x.poison = 0 then s else addF s F.MV_CNT_POISON_POISON x.die (x.mover - 0x28) 1
  let s := { s with slots := delFirst (· == x) s.slots }
  let body := tilePayload x.job.geo x.job.head x.data
  let head := tileHeader s x.die x.mover x.stream x.job.geo x.job.head body.length (x.job.geo.va % 2 ^ 52) x.gen x.poison x.version
  handOver (commitTile s x.die x.stream (head ++ body)) x

/-- A consumer's head has reached the tail of a stream (R364). -/
def tailReached (s : State) (die n : Nat) : Bool :=
  match tget? s.streams (streamKey die n) with
  | some st => st.consumers.any (fun c => c.2 == st.tail)
  | none => false

/-- SLOT_COMMIT (R364-R366): the fastest consumer has reached the first filled slot of a stream. It is committed if its
generation still stands, and fetched again otherwise, behind the die's writes to its tile (R360). -/
def execSlotCommit (die stream : Nat) (s : State) : Host.Outcome State Fault Refusal :=
  .next (match s.slots.find? (fun x => x.die == die && x.stream == stream) with
    | none => s
    | some x =>
      if !tailReached s die stream then s
      else if isStale s x || (x.aged && decide (x.fetches < 5)) then
        if behindWrite s die (geoSpans s x.fn x.job.geo) then s
        else
          let (ys, s) := refetchAll die stream s.slots true s
          { s with slots := ys }
      else settle (commitSlot s x))

/-- SLOT_AGE_EXPIRY (R366): the first filled slot of a stream, if tracked, has waited more than 8 µs. -/
def execSlotAgeExpiry (die stream : Nat) (s : State) : Host.Outcome State Fault Refusal :=
  .next (
    let age (x : Slot) : Slot := if x.source.isSome then { x with aged := true } else x
    { s with slots := updFirst (fun x => x.die == die && x.stream == stream) age s.slots })

/-! ## Writes (R352, R627) -/

/-- A write of a mover is applied as a unit (R51), or not at all where a piece of it cannot be written (R627). Its regions have advanced at
its issue (R362). -/
def endWrite (s : State) (die mover : Nat) (r : Req) : State :=
  let sps := refreshed s r.spans
  let e := writeStatus s sps
  let s :=
    if e = 0 then
      countNarrow (moverCount (writeSpans s 32 r.poison sps r.data) die mover r.queue r.tag (geoBytes r.job.geo)) die mover r
    else s
  closeReq (releaseOut s die mover r) die mover r e

/-- MOVER_WRITE_ACK (R352, R627): the mover's oldest write is acknowledged by its destination. -/
def execMoverWriteAck (die mover : Nat) (s : State) : Host.Outcome State Fault Refusal :=
  .next (match oldestReq s die mover true with
    | none => s
    | some r => if stFenced s die mover then s else settle (endWrite s die mover r))

/-! ## Cycle counters (R375) -/

/-- Counters of a station's cycle block. -/
def scCounters : List Fld :=
  [F.QUE_SC_CNT0_CNT0, F.QUE_SC_CNT1_CNT1, F.QUE_SC_CNT2_CNT2, F.QUE_SC_CNT3_CNT3, F.QUE_SC_CNT4_CNT4, F.QUE_SC_CNT5_CNT5,
   F.QUE_SC_CNT6_CNT6]

/-- A write of QUE_SC_CTRL (R375). -/
def writeScCtrl (s : State) (die j value : Nat) : State :=
  let s := setF s F.QUE_SC_CTRL_FREEZE die j (bits value 0 1)
  if bit value 1 then clearAll s scCounters die j else s

/-- QUE_SC_CLEAR (R375): a write of QUE_SC_CTRL of the station with index `st` in its table. -/
def execQueScClear (src : Src) (die st value : Nat) (s : State) : Host.Outcome State Fault Refusal :=
  .next (if isComp die ∧ st < 14 then pfWrite s src die (0x3C0000 + 64 * st) value (fun s => writeScCtrl s die st value) else s)

end Sys2Proof.Machine
end

