-- ==== Sys2Proof/Machine/Conv.lean ====
section
/-! DEFINITION. The convert and check stations: CV_CONVERT, CV_RANDOM, CK_POLICY and the end of a sample
(R164-R202, R570, R631). -/

namespace Sys2Proof.Machine

open Sys2Proof

/-- Formats CV accepts (R183): every code of R48 but 0x10-0x12. -/
def cvFmt (f : Nat) : Bool := fmtKnown f && !(f == 0x10 || f == 0x11 || f == 0x12)

/-- Body checks of CV_CONVERT (R187), in table order. -/
def convertChecks (s : State) (d : Desc) : List (Nat × Bool) :=
  let img := d.image
  let src := fld img 0x10 8
  let dst := fld img 0x18 8
  let rows := fld img 0x20 4
  let cols := fld img 0x24 2
  let sf := fld img 0x26 1
  let df := fld img 0x27 1
  let blk := fld img 0x28 1
  let ctl := fld img 0x29 1
  let role := bits ctl 0 2
  let tr := bit ctl 2
  let sb := bits blk 0 3
  let db := bits blk 3 3
  let p := profileFor s (qDie d.queue) d.fn (fld img 0x2C 4)
  let cf := ladder role df p.ceil
  let dcols := if tr then rows else cols
  [(0x01, !cvFmt sf || !cvFmt df || ((sf == 0x20 || df == 0x20) && sf != df)),
   (0x02, rows == 0 || cols == 0 || (tr && decide (rows > 65535))),
   (0x03, addrOf src % 64 != 0 || addrOf dst % 64 != 0 ||
     (blkSuits sf sb && decide (pitchOf src < rowBytes sf sb cols)) ||
     (blkSuits df db && decide (pitchOf dst < rowBytes cf (if isBlock cf then db else 0) dcols))),
   (0x04, !blkSuits sf sb || !blkSuits df db),
   (0x05, role == 3),
   (0x07, bits blk 6 2 != 0 || bits ctl 3 5 != 0 || !zeroAt img 0x2A 2 || !zeroAt img 0x30 16)]

/-- The rows of an output that a poisoned source tile touches: of a plain conversion the row itself, of a transposed one the columns that
the tile holds (R49, R134, R184). -/
def poisonedRows (s : State) (fn base pitch sf cols : Nat) (tr : Bool) (srcs : List (Bytes × Nat)) (i : Nat) : Bool :=
  if !tr then (srcs.getD i ([], 0)).2 != 0
  else if isBlock sf then srcs.any (fun r => r.2 != 0)
  else
    let a := packedBytes sf i
    srcs.zipIdx.any (fun r => (jobRead s fn (base + r.2 * pitch + min a (packedBytes sf cols - 1)) (packedBytes sf 1)).2 != 0)

/-- The values of a source, by destination row: transposed or not (R184). -/
def sourceRows (sf sb rows cols : Nat) (tr : Bool) (src : List Bytes) : List (List Val) :=
  if tr then (List.range cols).map (fun j => (List.range rows).map (fun i => rowVal sf sb cols (src.getD i []) j))
  else src.map (fun r => (List.range cols).map (rowVal sf sb cols r))

/-- Convert a row: U32 is copied, every other pair is rounded once (R168, R172). -/
def convertRow (c : ConvCtx) (i : Nat) (vs : List Val) : Bytes × ConvFlags :=
  if c.fmt = 0x20 then
    (vs.flatMap (fun v => toLe 4 ((finPart v).n.toNat)), ConvFlags.none)
  else
    let (e, sc, f) := convSeg c i 0 vs
    (e ++ sc, f)

/-- The output of a conversion, computed from what CV has taken in: the cause it consumed first, and what follows (R168-R184, R188, R190,
R195). -/
def convertPart (s : State) (d : Desc) : Nat × Part :=
  let img := d.image
  let die := qDie d.queue
  let src := fld img 0x10 8
  let dst := fld img 0x18 8
  let rows := fld img 0x20 4
  let cols := fld img 0x24 2
  let sf := fld img 0x26 1
  let sb := bits (fld img 0x28 1) 0 3
  let db := bits (fld img 0x28 1) 3 3
  let role := bits (fld img 0x29 1) 0 2
  let tr := bit (fld img 0x29 1) 2
  let tensor := fld img 0x2C 4
  let p := profileFor s die d.fn tensor
  let dcols := if tr then rows else cols
  let drows := if tr then cols else rows
  let c := convCtx s die p role (fld img 0x27 1) db tensor dcols
  let srcs := (List.range rows).map (jobRow s d.fn (addrOf src) (pitchOf src) (rowBytes sf sb cols))
  let vals := sourceRows sf sb rows cols tr (srcs.map (·.1))
  let bad := poisonedRows s d.fn (addrOf src) (pitchOf src) sf cols tr srcs
  let outs := vals.zipIdx.map (fun v => (v.2, convertRow c v.2 v.1, v.1))
  let good := outs.filter (fun o => !bad o.1)
  let flags := good.foldl (fun a o => convJoin a o.2.1.2) ConvFlags.none
  let kept : List OutRow := good.map (fun o => ⟨o.1, 0, samplePairs c o.2.1.1 o.2.2⟩)
  let xs := convSamples p c.fmt tensor drows dcols kept
  let m : OutMat := ⟨addrOf dst, pitchOf dst, c.fmt, c.blk, dcols, tensor, decide (0 < p.level), xs.map (·.1)⟩
  let ws := (List.range (ceilDiv dcols 512)).flatMap (fun k =>
    let w := min 512 (dcols - 512 * k)
    outTiles m s.freeCtr (512 * k) w (outs.map (fun o =>
      let e := (o.2.1.1.drop (packedBytes c.fmt (512 * k))).take (packedBytes c.fmt w)
      let sc := if isBlock c.fmt then
          (o.2.1.1.drop (packedBytes c.fmt dcols + 512 * k / blockSize c.blk)).take (ceilDiv w (blockSize c.blk)) else []
      ⟨o.1, e, sc, if bad o.1 then 0x05 else 0⟩)))
  (firstCause (srcs.map (·.2)),
    { steps := [writeOut s d ws],
      detail := detail6 [0, numFlags flags, c.fmt, p.level, sat 255 xs.length, sat 255 (xs.filter (·.2)).length],
      tensor := tensor, fmt := c.fmt, split := false, samples := xs,
      after := fun s => countConv (freshFree s).2 die flags (if c.sr then good.length * dcols else 0) })

/-- Run a checked CV_CONVERT: movers bring the source tiles, CV converts them (R70, R183). -/
def runConvert (s : State) (d : Desc) : State :=
  let img := d.image
  let die := qDie d.queue
  let src := fld img 0x10 8
  let reads := matTiles (addrOf src) (pitchOf src) (fld img 0x26 1) (bits (fld img 0x28 1) 0 3) (fld img 0x24 2) (fld img 0x2C 4) 0
    (fld img 0x20 4) 0 (fld img 0x24 2) 512
  withStreams s d [(moverAt s die 0, [0x18]), (0x18, [moverAt s die 1])] (fun s ns =>
    runProgram (takeSnap s d (fld img 0x2C 4)) d.queue d.tag
      (workProgram [.of (moverAt s die 0) (.reads (ns.headD 0) reads)] [0x18]))

/-- CV_CONVERT (R183-R190). -/
def execCvConvert (q tag : Nat) (s : State) : Host.Outcome State Fault Refusal :=
  .next (match opDesc s q tag (fun i => opcode i == 0x28) with
    | none => s
    | some d =>
      match firstFail (convertChecks s d) with
      | some r => settle (rejectOp s d CONFLICT r)
      | none => settle (runConvert s d))

/-! ## CV_RANDOM (R185) -/

/-- Body checks of CV_RANDOM (R185, R187, R570). -/
def randomChecks (s : State) (d : Desc) : List (Nat × Bool) :=
  let img := d.image
  let op := fld img 0x10 1
  let st := fld img 0x11 1
  let dst := fld img 0x20 8
  let rows := fld img 0x28 4
  let cols := fld img 0x2C 2
  let len := if op = 2 then ceilDiv cols 8 else cols * 4
  [(0x02, (op == 2 || op == 3) && (rows == 0 || cols == 0)),
   (0x03, (op == 2 || op == 3) && (addrOf dst % 64 != 0 || decide (pitchOf dst < len))),
   (0x05, decide (op > 3)),
   (0x07, !zeroAt img 0x12 2 || !zeroAt img 0x2E 2 || !zeroAt img 0x38 8 ||
     (decide (op ≤ 1) && (!zeroAt img 0x20 8 || !zeroAt img 0x28 6 || !zeroAt img 0x30 8)) ||
     (op != 0 && (!zeroAt img 0x14 4 || !zeroAt img 0x18 8)) || (op == 3 && !zeroAt img 0x30 4)),
   (0x08, !mayUse (getF s F.SEC_RS_OWN_OWNER (qDie d.queue) (st / 16)) d.fn)]

/-- End a class-3 descriptor on a failed check: reason 0x08 is a protection fault (R187). -/
def rejectClass3 (s : State) (d : Desc) (r : Nat) : State :=
  rejectOp s d (if r = 8 then FAULT_PROTECTION else CONFLICT) r

/-- A descriptor of an op of CV_RANDOM; a reserved op goes with op 0, which refuses it (R185, R187). -/
def isRandom (op : Nat) (i : Bytes) : Bool :=
  opcode i == 0x29 && (fld i 0x10 1 == op || (op == 0 && decide (fld i 0x10 1 > 3)))

/-- Run one op of CV_RANDOM. -/
def runRandom (op : Nat) (eff : State → Desc → State) (q tag : Nat) (s : State) : State :=
  match opDesc s q tag (isRandom op) with
  | none => s
  | some d =>
    match firstFail (randomChecks s d) with
    | some r => settle (rejectClass3 s d r)
    | none => settle (eff s d)

/-- CV_RANDOM op 0: set seed and epoch (R185). -/
def execCvRandomSet (q tag : Nat) (s : State) : Host.Outcome State Fault Refusal :=
  .next (runRandom 0 (fun s d =>
    issueAll (setRS s (qDie q) (fld d.image 0x11 1) ⟨fld d.image 0x18 8, fld d.image 0x14 4, true⟩) q tag
      [.of 0x18 .plain]) q tag s)

/-- CV_RANDOM op 1: advance the epoch by 1, modulo 2^32 (R185). -/
def execCvRandomAdvance (q tag : Nat) (s : State) : Host.Outcome State Fault Refusal :=
  .next (runRandom 1 (fun s d =>
    let n := fld d.image 0x11 1
    let r := getRS s (qDie q) n
    issueAll (setRS s (qDie q) n { r with epoch := (r.epoch + 1) % 2 ^ 32 }) q tag [.of 0x18 .plain]) q tag s)

/-- The bytes of one row of a keep mask (R185). -/
def maskRow (r : RStream) (tensor threshold cols i : Nat) : Bytes :=
  (List.range (ceilDiv cols 8)).map (fun b =>
    BitVec.ofNat 8 (((List.range 8).map (fun k =>
      if b * 8 + k < cols ∧ elemWord r true tensor cols i (b * 8 + k) < threshold then 2 ^ k else 0)).foldl (· + ·) 0))

/-- The rows of `len` bytes that an op of CV_RANDOM writes, as the tiles of its output: `cb` bytes hold 512 elements. -/
def randomTiles (d : Desc) (len cb : Nat) (row : Nat → Bytes) : List JobWrite :=
  let dst := fld d.image 0x20 8
  let n := fld d.image 0x28 4
  (List.range (ceilDiv len cb)).flatMap (fun j =>
    let w := min cb (len - j * cb)
    let k := tileRows w 0
    (List.range (ceilDiv n k)).map (fun i =>
      let m := min k (n - i * k)
      ⟨⟨addrOf dst + i * k * pitchOf dst + j * cb, w, m, pitchOf dst, 0, 0, 0⟩,
        ⟨0x20, 0, min 512 (fld d.image 0x2C 2 - 512 * j), i * k / 128 * ceilDiv len cb + j, fld d.image 0x34 4, false, false⟩,
        (List.range m).flatMap (fun r => ((row (i * k + r)).drop (j * cb)).take w), 0, i * k⟩))

/-- CV_RANDOM op 2: write a dropout keep mask (R185). -/
def execCvRandomMask (q tag : Nat) (s : State) : Host.Outcome State Fault Refusal :=
  .next (runRandom 2 (fun s d =>
    let img := d.image
    let r := getRS s (qDie q) (fld img 0x11 1)
    runOut s d 0x18 (randomTiles d (ceilDiv (fld img 0x2C 2) 8) 64 (maskRow r (fld img 0x34 4) (fld img 0x30 4) (fld img 0x2C 2)))) q tag s)

/-- The bytes of one row of raw dropout words (R185). -/
def wordRow (r : RStream) (tensor cols i : Nat) : Bytes :=
  (List.range cols).flatMap (fun j => toLe 4 (elemWord r true tensor cols i j))

/-- CV_RANDOM op 3: write raw dropout words as U32 (R185). -/
def execCvRandomWords (q tag : Nat) (s : State) : Host.Outcome State Fault Refusal :=
  .next (runRandom 3 (fun s d =>
    let img := d.image
    let r := getRS s (qDie q) (fld img 0x11 1)
    runOut s d 0x18 (randomTiles d (4 * fld img 0x2C 2) 2048 (wordRow r (fld img 0x34 4) (fld img 0x2C 2)))) q tag s)

/-! ## CK_POLICY (R186, R631) -/

/-- The clamp code is negative other than -0, infinite or NaN (R175, R187). -/
def badClamp (c : Nat) : Bool :=
  match val32 c with
  | .fin _ x => decide (x.n < 0)
  | _ => true

/-- A field a CK_POLICY op does not use is nonzero, or a reserved bit is (R186, R631). -/
def policyReserved (img : Bytes) : Bool :=
  let op := fld img 0x14 1
  bits (fld img 0x15 1) 4 4 != 0 || bits (fld img 0x17 1) 5 3 != 0 || bits (fld img 0x19 1) 4 4 != 0 ||
  !zeroAt img 0x1A 2 || !zeroAt img 0x28 24 || decide (fld img 0x20 8 ≥ 2 ^ 52) ||
  (op != 3 && !zeroAt img 0x20 8) ||
  (op != 0 && (!zeroAt img 0x15 4 || !zeroAt img 0x1C 4)) ||
  (op == 1 && bits (fld img 0x19 1) 2 2 != 0) || (decide (op ≥ 2) && !zeroAt img 0x19 1)

/-- Body checks of CK_POLICY (R187, R570, R631). DESIGN CHOICE (log entry 119): op 1 compares its starting level with the ceiling of an entry
that is bound to its tag only, so on an entry that is unbound or bound to another tag it ends with 0x06, not 0x05. -/
def policyChecks (s : State) (d : Desc) : List (Nat × Bool) :=
  let img := d.image
  let die := qDie d.queue
  let t := fld img 0x10 4
  let op := fld img 0x14 1
  let p := getProf s die (t % 1024)
  let chk := bits (fld img 0x17 1) 0 5
  let start := bits (fld img 0x19 1) 0 2
  let ceil := bits (fld img 0x19 1) 2 2
  [(0x03, op == 3 && addrOf (fld img 0x20 8) % 64 != 0),
   (0x05, decide (op > 3) ||
     (op == 0 && (bits (fld img 0x15 1) 2 2 == 3 || (chk != 0 && (decide (chk < 4) || decide (chk > 16))) ||
       decide (fld img 0x18 1 > 30) || decide (start > ceil) || badClamp (fld img 0x1C 4))) ||
     (op == 1 && boundTo p t && decide (start > p.ceil))),
   (0x06, (op == 0 && p.bound && !boundTo p t) || ((op == 1 || op == 2) && !boundTo p t)),
   (0x07, policyReserved img),
   (0x08, !mayUse (getF s F.SEC_PF_OWN_OWNER die (t % 1024 / 64)) d.fn ||
     (op == 0 && !mayUse (getF s F.SEC_RS_OWN_OWNER die (fld img 0x16 1 / 16)) d.fn))]

/-- A descriptor of an op of CK_POLICY; a reserved op goes with op 0, which refuses it (R186, R187). -/
def isPolicy (op : Nat) (i : Bytes) : Bool :=
  opcode i == 0x2A && (fld i 0x14 1 == op || (op == 0 && decide (fld i 0x14 1 > 3)))

/-- Run one op of CK_POLICY. -/
def runPolicy (op : Nat) (eff : State → Desc → State) (q tag : Nat) (s : State) : State :=
  match opDesc s q tag (isPolicy op) with
  | none => s
  | some d =>
    match firstFail (policyChecks s d) with
    | some r => settle (rejectClass3 s d r)
    | none => settle (eff s d)

/-- The profile a bind writes (R175, R631): a clamp of -0 is stored as +0. -/
def bindProfile (img : Bytes) : Profile :=
  let cl := fld img 0x1C 4
  ⟨true, fld img 0x10 4 / 1024, fld img 0x15 1, fld img 0x16 1, fld img 0x17 1, fld img 0x18 1,
    bits (fld img 0x19 1) 0 2, bits (fld img 0x19 1) 0 2, bits (fld img 0x19 1) 2 2, 0,
    if cl = 0x80000000 then 0 else cl⟩

/-- CK_POLICY op 0: bind (R631). -/
def execCkPolicyBind (q tag : Nat) (s : State) : Host.Outcome State Fault Refusal :=
  .next (runPolicy 0 (fun s d =>
    issueAll (setProf s (qDie q) (fld d.image 0x10 4 % 1024) (bindProfile d.image)) q tag [.of 0x19 .plain])
    q tag s)

/-- CK_POLICY op 1: reset the level to the descriptor's starting level (R631). -/
def execCkPolicyReset (q tag : Nat) (s : State) : Host.Outcome State Fault Refusal :=
  .next (runPolicy 1 (fun s d =>
    let n := fld d.image 0x10 4 % 1024
    let l := bits (fld d.image 0x19 1) 0 2
    issueAll (setProf s (qDie q) n { getProf s (qDie q) n with level := l, start := l }) q tag
      [.of 0x19 .plain]) q tag s)

/-- CK_POLICY op 2: unbind (R631). DESIGN CHOICE (log entry 120): every field of the entry then reads as its reset value. -/
def execCkPolicyUnbind (q tag : Nat) (s : State) : Host.Outcome State Fault Refusal :=
  .next (runPolicy 2 (fun s d =>
    issueAll (setProf s (qDie q) (fld d.image 0x10 4 % 1024) Profile.default) q tag [.of 0x19 .plain]) q tag s)

/-- The image of a profile (R631). -/
def profileImage (p : Profile) (tensor : Nat) : Bytes :=
  toLe 4 tensor ++ toLe 1 p.ctl ++ toLe 1 p.stream ++ toLe 1 p.check ++ toLe 1 p.tau ++
    toLe 1 (p.level + p.ceil * 4 + b2n p.bound * 128) ++ toLe 1 0 ++ toLe 2 (sat 0xFFFF p.disagree) ++ toLe 4 p.clamp

/-- CK_POLICY op 3: write the image of the profile the tensor uses (R631). -/
def execCkPolicyRead (q tag : Nat) (s : State) : Host.Outcome State Fault Refusal :=
  .next (runPolicy 3 (fun s d =>
    let t := fld d.image 0x10 4
    let p := getProf s (qDie q) (t % 1024)
    runOut s d 0x19 [rawWrite (addrOf (fld d.image 0x20 8)) (profileImage (if boundTo p t then p else Profile.default) t) 0 0])
    q tag s)

/-! ## The end of a sample (R199-R202) -/

/-- A micro-command of the descriptor has already raised the level (R200). -/
def hasRaised (s : State) (die q tag : Nat) : Bool :=
  (fifo s die 0x19).any (fun m => m.queue == q && m.tag == tag && m.status == FORMAT_ESCALATED) ||
  (match descOf s q tag with
    | some d => d.retired.any (fun r => r.status == FORMAT_ESCALATED)
    | none => false)

/-- The written format has a wider step (R201). -/
def hasWider (fmt : Nat) : Bool := ladder 0 fmt 1 != fmt || ladder 1 fmt 1 != fmt

/-- The outcome of a disagreeing sample: the status of its micro-command and the state (R200, R202). The action, the level and the ceiling
are those that the descriptor read at its start (R181, R204); the count and the rise go to the entry as it now stands, which a rise never
takes past its ceiling (log entry 118). -/
def disagreeOutcome (s : State) (die : Nat) (x : Sample) : State × Nat :=
  let fn := fnOf s x.queue x.tag
  let n := x.tensor % 1024
  let p := (((descOf s x.queue x.tag).bind (·.snap)).map (·.1)).getD (profileFor s die fn x.tensor)
  let e := profileFor s die fn x.tensor
  let s := addF s F.CK_DISAGREE_DISAGREE die 0 1
  let s := if e.bound then setProf s die n { e with disagree := sat 0xFFFF (e.disagree + 1) } else s
  match profAction p with
  | 0 => (s, DONE)
  | 1 => (s, CHECK_DISAGREE)
  | _ =>
    if x.split then (s, CHECK_DISAGREE)
    else if hasRaised s die x.queue x.tag then (s, FORMAT_ESCALATED)
    else if p.level < p.ceil ∧ hasWider x.fmt then
      let q := getProf s die n
      let s := if e.bound then setProf s die n { q with level := min q.ceil (q.level + 1) } else s
      (addF s F.CK_ESCALATED_ESCALATED die 0 1, FORMAT_ESCALATED)
    else (s, CHECK_DISAGREE)

/-- A split sample disagrees, which only silent corruption can bring about: counted and logged as class 1 (R198, R517). -/
def countSilent (s : State) (die : Nat) : State :=
  logRec (addF s F.MGT_ERR_SILENT_SILENT die 0 1) 1 die 0x19 0 0 0

/-- CK_SAMPLE_DONE (R199): CK finishes comparing the oldest pending sample of a die and records its outcome; `corrupt` says that the
elements of a split sample were silently corrupted, so that it disagrees though the comparison of R198 finds none. -/
def execCkSampleDone (die : Nat) (corrupt : Bool) (s : State) : Host.Outcome State Fault Refusal :=
  .next (match s.samples.find? (fun x => qDie x.queue == die) with
    | none => s
    | some x =>
      let s := { s with samples := delFirst (fun x => qDie x.queue == die) s.samples }
      let s := countSamples (addF s F.CK_SAMPLES_SAMPLES die 0 1) die
      let silent := x.split && (corrupt || x.disagrees)
      let s := if silent then countSilent s die else s
      let (s, st) := if x.disagrees || silent then disagreeOutcome s die x else (s, DONE)
      finishEvent s x.queue x.tag (sampleEvent x.idx) st [])

end Sys2Proof.Machine
end

