-- ==== Sys2Proof/Machine/Retire.lean ====
section
/-! DEFINITION. The retirement of micro-commands, and what follows once the works of a program have retired (R49, R70, R72, R134-R140,
R153, R237). -/

namespace Sys2Proof.Machine

open Sys2Proof

/-! ## The work of a station (R49, R70, R72) -/

/-- The tensor whose profile and random stream a descriptor uses. -/
def descTensor (s : State) (d : Desc) : Nat :=
  let op := opcode d.image
  if op / 16 = 1 then (mxBody d.image).tensor
  else if op = 0x20 then (slBody d.image).tensor
  else if op = 0x28 then fld d.image 0x2C 4
  else if op = 0x33 then fld d.image 0x18 4
  else ((callOf s d.queue d.tag).map (fun r => At.tensor r.call)).getD 0

/-- What a descriptor's stations compute from. -/
def viewOf (s : State) (d : Desc) : State := viewed s d (descTensor s d)

/-- The cause of the first poisoned tile that a work consumes (R49): the number of the work, at a station. -/
def workCause (v : State) (d : Desc) (st k : Nat) : Nat :=
  let op := opcode d.image
  if op = 0x20 then slCause v d k
  else if op = 0x21 then sliceCause v d k
  else if op = 0x28 then (convertPart v d).1
  else if op = 0x33 then mergeCause v d
  else if op / 16 = 3 then atCause v d st
  else if op = 0x50 then ewCause v d
  else 0

/-- A work ends: its micro-command may retire, with the status of the first poisoned tile that it consumed (R49). -/
def endWork (s : State) (die st : Nat) (m : Micro) (rest : List Micro) (cause : Nat) : State :=
  setFifo s die st
    ({ m with started := true, ready := true, status := if m.status = DONE then causeStatus cause else m.status } :: rest)

/-! ## Passes (R134-R140) -/

/-- The passes of a matrix call. -/
def callPasses (v : State) (d : Desc) : List MxPass :=
  passList (mxBody d.image) [0] (maskTable v d.fn (mxBody d.image)).1

/-- The stationary tiles of a matrix call differ in version at a pass or before it (R136). DESIGN CHOICE (log entry 45): the rows issued
before the stop are those of the passes before the first whose stationary tile differs. -/
def mixedAt (v : State) (d : Desc) (k : Nat) : Bool :=
  opcode d.image / 16 == 1 && (mixedFrom d.inputs (mxBody d.image) (callPasses v d) 0 []).any (fun n => decide (n ≤ k))

/-- The cause of the first poisoned tile that a pass consumes (R134, R161). -/
def causeOfPass (v : State) (d : Desc) (k : Nat) : Nat :=
  if opcode d.image / 16 = 1 then
    let x := mxBody d.image
    match pairOf x.af x.bf, (callPasses v d)[k]? with
    | some kind, some p => passCause v d.fn kind x (maskTable v d.fn x).1 p
    | _, _ => 0
  else
    match (splitList (slBody d.image) (slScan v d).1 [0])[k]? with
    | some p => slPassCause v d p
    | none => 0

/-- The completion of a matrix call shows the stations that have issued rows, and the share of bubbles, which is timing (R138; log entry
6). -/
def showUsed (s : State) (d : Desc) (st : Nat) : State :=
  let s := updDesc s d.queue d.tag (fun d => { d with used := d.used ||| 2 ^ st })
  if opcode d.image / 16 ≠ 1 then s
  else
    let perm := (Config.freeWord s.freeCtr).toNat % 1001
    setDetail (freshFree s).2 d.queue d.tag (detail6 [0, 0, d.used ||| 2 ^ st, perm % 256, perm / 256])

/-- A pass has issued its last row: the micro-command may retire, and the next STREAM follows (R112-R114, R135, R139, R140). A call with
mixed weight versions issues no further rows (R136). -/
def endPass (s : State) (die st : Nat) (m : Micro) (rest : List Micro) (d : Desc) (rows skip k : Nat) (parity : Option Nat) : State :=
  let v := viewOf s d
  let s :=
    if mixedAt v d k then
      updDesc (setFifo s die st ({ m with ready := true, status := if m.status = DONE then WEIGHT_VERSION_MISMATCH else m.status } :: rest))
        d.queue d.tag dropTodo
    else
      let c := causeOfPass v d k
      let s := countPass s die st rows skip (rowCycles s d.queue d.tag) parity
      let s := updDesc s d.queue d.tag (fun d => { d with marks := d.marks ++ (parity.map (fun r => (k, r))).toList })
      endWork (showUsed s d st) die st m rest (if c = 0 ∧ parity.isSome then 1 else c)
  nextIssue s die st

/-- The work of the micro-command at the head of a FIFO ends, if its input tiles have all been taken in (R57); none at a halted station. -/
def endHead (s : State) (die st : Nat) : State :=
  if halted s die st then s else
  match fifo s die st with
  | [] => s
  | m :: r =>
    match m.kind, descOf s m.queue m.tag with
    | .work k, some d =>
      if m.ready ∨ !inputsDone s d.queue d.tag then s else endWork s die st m r (workCause (viewOf s d) d st k)
    | .pass rows skip _ k p, some d =>
      if !m.started ∨ m.ready ∨ !inputsDone s d.queue d.tag then s else endPass s die st m r d rows skip k p
    | _, _ => s

/-! ## What follows (R70) -/

/-- What the finished works of a descriptor lead to, for the opcodes that have one part or two. -/
def partOf (v : State) (d : Desc) (k : Nat) : Option Part :=
  let op := opcode d.image
  if op / 16 = 1 then some (mxPart v d k)
  else if op = 0x20 then some (gemmPart v d k)
  else if op = 0x21 then some (slicePart v d)
  else if op = 0x28 then some (convertPart v d).2
  else if op = 0x33 then some (mergePart v d)
  else if op = 0x50 then some (ewPart v d)
  else none

/-- A program that has come to the results of a part goes on; none where it cannot yet. -/
def finishPart (s : State) (d : Desc) (k : Nat) : Option State :=
  let v := viewOf s d
  let s := updDesc s d.queue d.tag (fun d => { d with todo := d.todo.drop 1 })
  match partOf v d k, callOf s d.queue d.tag with
  | some p, _ => some (applyPart s d p)
  | none, some r => atFinish s v d r k
  | none, none => some s

/-- The first program that can go on with the results of a part does so. -/
def finishNext (s : State) : Option State :=
  s.descs.findSome? (fun d =>
    match d.todo with
    | .finish k :: _ => (finishPart s d k).map (fun s => maybeComplete (advance s d.queue d.tag) d.queue d.tag)
    | _ => none)

/-- Programs go on with the results of their parts while one can; the fuel bounds them. -/
def finishN : Nat → State → State
  | 0, s => s
  | fuel + 1, s =>
    match finishNext s with
    | some s => finishN fuel s
    | none => s

/-- Programs go on with the results of their parts; then rings and what follows settle. -/
def finishAll (s : State) : State := runRings (settle (finishN (4 * s.descs.length + 4) s))

/-- MICRO_COMMAND_RETIRE (R72): the micro-command at the head of a station's FIFO retires once its work is finished. -/
def execMicroCommandRetire (die st : Nat) (s : State) : Host.Outcome State Fault Refusal :=
  .next (if isComp die && stations.contains st then finishAll (retireHead (endHead s die st) die st) else s)

end Sys2Proof.Machine
end

