-- ==== Sys2Proof/Machine/PageMap.lean ====
section
/-! DEFINITION. The page-map class, walks, remaps, demotions and rebuilds (R251-R281). -/

namespace Sys2Proof.Machine

open Sys2Proof

/-! ## Descriptors (R266-R270) -/

/-- A page-map descriptor comes to the page walker; one that is fenced ends it (R68). -/
def runPg (s : State) (q tag op : Nat) : State :=
  match opDesc s q tag (fun i => opcode i == op) with
  | none => s
  | some d =>
    if stFenced s (qDie q) 0x0C then settle (issueAll s q tag [.of 0x0C .plain])
    else settle (showPg (arriveEdit (beginPg s q tag) (fld d.image 0x10 2) q tag) (qDie q))

/-- PG_OPEN (R256, R266). -/
def execPgOpen (q tag : Nat) (s : State) : Host.Outcome State Fault Refusal := .next (runPg s q tag 0x40)

/-- PG_APPEND (R272-R275). -/
def execPgAppend (q tag : Nat) (s : State) : Host.Outcome State Fault Refusal := .next (runPg s q tag 0x41)

/-- PG_TRIM (R263, R266). -/
def execPgTrim (q tag : Nat) (s : State) : Host.Outcome State Fault Refusal := .next (runPg s q tag 0x42)

/-- PG_CLOSE (R252, R266). -/
def execPgClose (q tag : Nat) (s : State) : Host.Outcome State Fault Refusal := .next (runPg s q tag 0x43)

/-- PG_RESUME (R266). -/
def execPgResume (q tag : Nat) (s : State) : Host.Outcome State Fault Refusal := .next (runPg s q tag 0x44)

/-- PG_PIN (R258, R266). -/
def execPgPin (q tag : Nat) (s : State) : Host.Outcome State Fault Refusal := .next (runPg s q tag 0x45)

/-- PG_MOVE (R264, R269). -/
def execPgMove (q tag : Nat) (s : State) : Host.Outcome State Fault Refusal := .next (runPg s q tag 0x46)

/-- The record image and entries that PG_QUERY writes (R267). -/
def queryBytes (s : State) (n : Nat) (x : SeqRec) (first count : Nat) : Bytes :=
  toLe 2 n ++ toLe 1 x.state ++ toLe 1 (x.cls + x.prio * 4) ++ toLe 2 x.d ++ toLe 2 x.nkv ++ toLe 1 x.fmt ++ toLe 1 x.blk ++
    toLe 2 x.epoch ++ toLe 4 x.length ++ toLe 4 x.mapped ++ toLe 4 (firstPage x) ++ toLe 8 x.va ++ toLe 4 x.maxLen ++
    toLe 2 (seqPos x) ++ toLe 2 ((s.walks.filter (fun w => w.seq == n)).length) ++ toLe 24 0 ++
    (List.range count).flatMap (fun i => toLe 8 (entRaw (pageEnt s n x (first + i))))

/-- Writes of an output in tiles of at most 64 KiB (R627). -/
def tileWrites (va : Nat) : Nat → Bytes → List JobWrite
  | 0, _ => []
  | fuel + 1, bs =>
    if bs.isEmpty then [] else rawWrite va (bs.take 65536) 0 0 :: tileWrites (va + 65536) fuel (bs.drop 65536)

/-- PG_QUERY (R266, R267): it reads the record and entries and has a mover write them; it is no edit. -/
def execPgQuery (q tag : Nat) (s : State) : Host.Outcome State Fault Refusal :=
  .next (match opDesc s q tag (fun i => opcode i == 0x47) with
  | none => s
  | some d =>
    match firstFail (pgChecks s d) with
    | some r => settle (rejectOp s d (pgStatus r) r)
    | none =>
      let n := fld d.image 0x10 2
      match getSeq s n with
      | none => s
      | some x =>
        let cnt := fld d.image 0x28 4
        let bs := queryBytes s n x (fld d.image 0x2C 4) cnt
        let det := pgDetail 0 cnt 0
        settle (runOut (setDetail s q tag det) d 0x0C (tileWrites (fld d.image 0x18 8 % 2 ^ 52) (bs.length / 65536 + 1) bs)))

/-! ## Rebuilds (R277-R279) -/

/-- A PG_REBUILD is checked and waits for its turn (R268, R277). -/
def runRebuild (s : State) (q tag arg : Nat) : State :=
  match opDesc s q tag (fun i => opcode i == 0x48 && (fld i 0x25 1 == arg || (arg == 0 && fld i 0x25 1 > 1))) with
  | none => s
  | some d =>
    match firstFail (pgChecks s d) with
    | some r => settle (rejectOp s d (pgStatus r) r)
    | none =>
      if stFenced s (qDie q) 0x0C then settle (issueAll s q tag [.of 0x0C .plain])
      else
        let s := beginPg s q tag
        let x := getRb s (qDie q)
        settle (pumpRebuild (setRb s (qDie q) { x with waiting := x.waiting ++ [(q, tag)] }) (qDie q))

/-- PG_REBUILD_COMPACT (R277); a PG_REBUILD with a reserved arg is refused here. -/
def execPgRebuildCompact (q tag : Nat) (s : State) : Host.Outcome State Fault Refusal := .next (runRebuild s q tag 0)

/-- PG_REBUILD_REHOME (R279). -/
def execPgRebuildRehome (q tag : Nat) (s : State) : Host.Outcome State Fault Refusal := .next (runRebuild s q tag 1)

/-- Sort sequences by the base of their span. -/
def bySpan : List (Nat × SeqRec) → List (Nat × SeqRec)
  | [] => []
  | x :: r => insert x (bySpan r)
where
  /-- Insert one in its place. -/
  insert (x : Nat × SeqRec) : List (Nat × SeqRec) → List (Nat × SeqRec)
    | [] => [x]
    | y :: r => if x.2.spanBase ≤ y.2.spanBase then x :: y :: r else y :: insert x r

/-- Copy the entries of one span into the other bank. -/
def copySpan (s : State) (die bank from_ dst span : Nat) : State :=
  let src := (die * 2 + (1 - bank)) * 131072 + from_
  let dst := (die * 2 + bank) * 131072 + dst
  let es := (s.pmap.filter (fun p => decide (src ≤ p.1 ∧ p.1 < src + span))).map (fun p => (p.1 - src + dst, p.2))
  { s with pmap := s.pmap.filter (fun p => decide (p.1 < dst)) ++ es ++ s.pmap.filter (fun p => decide (dst + span ≤ p.1)) }

/-- Pack spans into a bank from index `pos`: the entries moved, and the state. -/
def packSpans (die bank : Nat) : List (Nat × SeqRec) → Nat → Nat × State → Nat × State
  | [], _, acc => acc
  | (n, x) :: r, pos, (k, s) =>
    let s := copySpan s die bank x.spanBase pos x.span
    let s := setSeq s n { x with spanBase := pos, epoch := (x.epoch + 1) % 2 ^ 16 }
    packSpans die bank r (pos + x.span) (if x.spanBase = pos then k else k + x.span, s)

/-- REBUILD_SWAP (R277, R278): the spans stand packed in the shadow bank, the banks swap, every walk epoch of the die
advances, and the completion is posted. -/
def execRebuildSwap (die : Nat) (s : State) : Host.Outcome State Fault Refusal :=
  let x := getRb s die
  .next (if isComp die && x.running && x.kind == 0 && !stFenced s die 0x0C then
    let bank := 1 - getF s F.PG_STATE_ACT_BANK die
    let (k, s) := packSpans die bank (bySpan (dieSeqs s die)) 0 (0, s)
    let s := setF s F.PG_STATE_ACT_BANK die 0 bank
    let old := s.walks.any (fun w => w.die == die)
    let s := { s with walks := s.walks.map (fun w => if w.die = die then { w with preswap := true } else w) }
    let s := setF s F.PG_STATE_REBUILD die 0 (if old then 2 else 0)
    let s := endRebuild (setRb s die { x with moved := k }) die
    settle (showPg (pumpRebuild s die) die)
  else s)

/-! ## Remaps (R263, R269, R273, R279, R280) -/

/-- The edit in progress has pages still to take (R335). -/
def pagesLeft (s : State) (n : Nat) : Bool := ((getSeq s n).bind (·.current)).any (fun e => !e.todo.isEmpty)

/-- Key of a page in the commands that end its copy: local sequence and page. -/
def pageCmd (r : Remap) : Nat := r.seq % 4096 * 131072 + r.page

/-- REMAP_COPY_DONE (R263, R269, R279, R280): the copy of one page has ended; `ok` says whether its tier access worked.
`entry` is the local sequence × 131,072 plus the page. -/
def execRemapCopyDone (die entry : Nat) (ok : Bool) (s : State) : Host.Outcome State Fault Refusal :=
  .next (match s.remaps.find? (fun r => r.die == die && r.why != 1 && r.copied.isNone && pageCmd r == entry) with
  | none => s
  | some r =>
    if r.why = 0 then
      let s := { noteCopy s ok r.addr with remaps := updFirst (fun x => x == r) (fun x => { x with copied := some ok }) s.remaps }
      if s.remaps.any (fun x => x.seq == r.seq && x.why == 0 && x.copied.isNone) || pagesLeft s r.seq then settle s
      else settle (showPg (landEdit s r.seq) die)
    else
      let live := remapLive s r
      let good := ok && remapGood s r
      let s := { noteCopy s ok r.addr with remaps := delFirst (fun x => x == r) s.remaps }
      let s :=
        if good then
          let x := getRb s die
          landAlone (if r.why = 2 then setRb s die { x with moved := x.moved + 1 } else s) r
        else releaseTarget (if live then updRemapEnt s r (fun e => { e with moving := false }) else s) r
      settle (fenceEmptied (showPg (pumpRebuild s die) die)))

/-- The sequence whose parked APPEND a demotion serves. -/
def grower (s : State) (r : Remap) : Option (Nat × SeqRec) :=
  (dieSeqs s r.die).find? (fun p => match p.2.current with
    | some e => e.parked.isSome && e.queue == r.queue && e.tag == r.tag
    | none => false)

/-- A page has been demoted for an APPEND: its completion says so (R270), and for its next page every candidate counts again. -/
def noteDemoted (s : State) (r : Remap) : State :=
  match grower s r with
  | some (n, _) => updEdit s n (fun e => { e with eflags := e.eflags ||| 4, tried := [] })
  | none => s

/-- PG_DEMOTION_DONE (R273, R275): a page demoted for a growing sequence is remapped and its region goes to a parked
APPEND when it is released; a demotion that is abandoned lets the allocator try the next candidate. -/
def execPgDemotionDone (die entry : Nat) (ok : Bool) (s : State) : Host.Outcome State Fault Refusal :=
  .next (match s.remaps.find? (fun r => r.die == die && r.why == 1 && r.copied.isNone && pageCmd r == entry) with
  | none => s
  | some r =>
    let s := { noteCopy s ok r.addr with remaps := delFirst (fun x => x == r) s.remaps }
    let live := remapLive s r
    if ok && remapGood s r then
      settle (showPg (landAlone (noteDemoted (addF s F.PG_CNT_DEMOTE_DEMOTE die 0 1) r) r) die)
    else
      let s := if live then updRemapEnt s r (fun e => { e with moving := false })
        else addF s F.PG_CNT_STALE_STALE die 0 1
      match grower s r with
      | none => settle s
      | some (n, _) =>
        let s := updEdit s n (fun e => { e with tried := e.tried ++ [(r.seq, r.page)] })
        match getSeq s n with
        | none => s
        | some x =>
          match x.current with
          | none => s
          | some e => settle (showPg (parkStep s n x e) die))

/-- APPEND_PARK_TIMEOUT (R275): an APPEND parked for PG_PARK_LIMIT µs makes its sequence PREEMPTED. -/
def execAppendParkTimeout (die seq : Nat) (s : State) : Host.Outcome State Fault Refusal :=
  .next (match getSeq s seq with
  | none => s
  | some x =>
    match x.current with
    | none => s
    | some e =>
      if seq / 4096 = die ∧ e.parked.isSome then settle (showPg (preempt s seq) die) else s)

/-- PG_AGE_SWEEP (R273): ages older than 2^15 units become now − 2^15. -/
def execPgAgeSweep (die : Nat) (s : State) : Host.Outcome State Fault Refusal :=
  let lo := entKey s die 0
  let old (e : PEntry) : Bool := decide ((ageNow s + 65536 - e.age) % 65536 > 32768)
  .next (if isComp die && !stFenced s die 0x0C then
    { s with pmap := s.pmap.map (fun p =>
        if lo ≤ p.1 ∧ p.1 < lo + 131072 ∧ p.2.valid ∧ old p.2 then
          (p.1, { p.2 with age := (ageNow s + 65536 - 32768) % 65536 })
        else p) }
  else s)

/-! ## Walks (R260, R261, R263) -/

/-- WALK_BEGIN (R260, R261): a walk takes the lowest free slot and reads its view; without a free slot it waits. -/
def execWalkBegin (die seq owner first last : Nat) (s : State) : Host.Outcome State Fault Refusal :=
  .next (if !walkOk s die seq owner ∨ last < first then s
    else if (freeWalk s die).isNone then { s with walkq := s.walkq ++ [(die, seq, owner, first, last)] }
    else beginWalk s die seq first last [] none)

/-- WALK_END (R263, R278): the walk ends; edits and remaps that waited for it go on. -/
def execWalkEnd (die slot : Nat) (s : State) : Host.Outcome State Fault Refusal :=
  .next (match s.walks.find? (fun w => w.die == die && w.slot == slot) with
  | none => s
  | some w => finishAll (showPg (pumpRebuild (endWalk s w) die) die))

end Sys2Proof.Machine
end

