-- ==== Sys2Proof/Machine/Fabric.lean ====
section
/-! DEFINITION. Transactions that arrive: windows, flows at both ends, multicast receivers, and the time limits of flows and
transfers (R383, R393-R407, R500, R529). -/

namespace Sys2Proof.Machine

open Sys2Proof

/-! ## Answers -/

/-- An answer of a die to a transaction's sender. -/
def answerTx (s : State) (die : Nat) (t : Tx) (type flags off seq len : Nat) : State :=
  transmit s { type := type, flags := flags, srcModule := myId s, dstModule := t.srcModule, dstDie := t.srcDie, srcDie := die,
               offset := off, seq := seq, len := len, tag := t.tag, cls := t.cls, body := [] }

/-- Refuse a transaction: NACK with a reason, counted (R396). -/
def refuseTx (s : State) (die : Nat) (t : Tx) (flags off reason : Nat) : State :=
  answerTx (addF s F.FAB_RX_REFUSED_REFUSED die 0 1) die t 3 flags off t.seq reason

/-! ## Receiving flows (R397) -/

/-- Die of a flow's receiving end. -/
def flowDie (k : Nat) : Nat := k / 8 % 32

/-- Flows held by a die. -/
def flowsOf (s : State) (die : Nat) : Nat := (s.rxFlows.filter (fun p => flowDie p.1 == die)).length

/-- FAB_RX_FLOWS (R416). -/
def showFlows (s : State) (die : Nat) : State := setF s F.FAB_RX_FLOWS_FLOWS die 0 (flowsOf s die)

/-- Raise the contiguous base over marked numbers; `fuel` bounds them. -/
def raiseBase : Nat → Nat → List Nat → Nat × List Nat
  | 0, b, m => (b, m)
  | fuel + 1, b, m => if m.contains b then raiseBase fuel ((b + 1) % 2 ^ 32) (m.filter (· != b)) else (b, m)

/-- Mark a number of a flow. -/
def markSeq (f : RxFlow) (n : Nat) : RxFlow :=
  let (b, m) := raiseBase (f.marks.length + 1) f.base (f.marks ++ [n])
  { f with base := b, marks := m }

/-- Acknowledge a flow with its base (R397). -/
def ackFlow (s : State) (die : Nat) (t : Tx) (f : RxFlow) : State :=
  answerTx { s with rxFlows := tins s.rxFlows (txKey t) { f with owed := 0 } } die t 2 0 0 f.base 0

/-- Reason for which a die refuses a transaction at its windows, before translation; 0: none (R395, R396). -/
def windowReason (s : State) (die : Nat) (t : Tx) (kind : Nat) : Nat :=
  match windowAt s die t.offset with
  | none => 1
  | some w =>
    let o := t.offset % 2 ^ 35
    if w.tag ≠ t.tag ∨ w.kind ≠ kind then 2
    else if kind = 0 then
      if o + t.body.length > w.len * region ∨ !w.write ∨ t.body.isEmpty ∨ t.body.length > 2048 ∨ t.len ≠ t.body.length then 2
      else 0
    else if o % 4 ≠ 0 ∨ o / 4 ≥ 3072 ∨ t.len = 0 ∨ tokenOwner s die (o / 4) ≠ some w.owner then 2
    else 0

/-- A place of the partner area of this module: only the ward may write it (R529). -/
def partnerHit (s : State) (fn va len : Nat) : Bool :=
  (extent s fn va len).any (fun o => match o with
    | some sp => inHbm sp.addr && inPartner s (sp.addr / 2 ^ 30)
    | none => false)

/-- Apply a WRITE at a die through its windows: the reason for which it is refused, 0 when it is applied (R395, R396). It
never advances a region generation (R362). On F0 the partner area takes it, from the ward alone (R529; log entry 50). -/
def applyWrite (s : State) (die : Nat) (t : Tx) : State × Nat :=
  if die = 16 then wardWrite s t
  else match windowReason s die t 0, windowAt s die t.offset with
  | 0, some w =>
    let va := w.base + t.offset % 2 ^ 35
    if partnerHit s w.owner va t.body.length &&
        !(flag s F.SN_WARD_VALID f0 && getF s F.SN_WARD_MODULE f0 == t.srcModule) then (s, 2)
    else
      let (s, e) := jobWrite s 32 w.owner va t.body (if t.poison = 0 then 0 else 5)
      (s, if e = 0 then 0 else if e = FAULT_PROTECTION then 2 else 3)
  | r, _ => (s, if r = 0 then 1 else r)

/-- Apply a SIGNAL at a die (R395). -/
def applySignal (s : State) (die : Nat) (t : Tx) : State × Nat :=
  match windowReason s die t 1 with
  | 0 => (signalTok s die (t.offset % 2 ^ 35 / 4) t.len, 0)
  | r => (s, r)

/-- The WRITEs of a tile that are applied once `t` has come, itself the last; none while one of them is missing (R51). -/
def tileParts (held : List Tx) (t : Tx) : Option (List Tx) :=
  match t.unit with
  | none => some [t]
  | some (_, n) =>
    let xs := held.filter (fun x => x.unit == t.unit) ++ [t]
    if xs.length < n then none else some xs

/-- Apply a transaction of a flow: it is marked, and acknowledged or refused (R396, R397). -/
def applyFlow (s : State) (die : Nat) (t : Tx) : State :=
  let f := tgetD s.rxFlows (txKey t) ⟨0, [], 0, []⟩
  let (s, reason) := if t.type = 1 then applyWrite s die t else applySignal s die t
  let f := { markSeq f t.seq with held := f.held.filter (fun x => x.seq != t.seq) }
  if reason ≠ 0 then refuseTx { s with rxFlows := tins s.rxFlows (txKey t) f } die t 0 0 reason
  else if f.owed + 1 ≥ 16 then ackFlow s die t f
  else { s with rxFlows := tins s.rxFlows (txKey t) { f with owed := f.owed + 1 } }

/-- A WRITE or SIGNAL of a flow arrives at its die: applied at most once, acknowledged, refused, or turned away while the
flow table is full; the WRITEs of a tile are applied together (R51, R396, R397). -/
def rxFlowTx (s : State) (die : Nat) (t : Tx) : State :=
  let k := txKey t
  match tget? s.rxFlows k with
  | none =>
    if flowsOf s die ≥ 4096 then
      let s := if bit t.flags 0 then addF s F.FAB_RX_BUSY_BUSY die 0 1 else s
      answerTx s die t 3 0 0 t.seq 4
    else go (showFlows { s with rxFlows := tins s.rxFlows k ⟨0, [], 0, []⟩ } die) ⟨0, [], 0, []⟩
  | some f => go s f
where
  /-- With the flow at hand. -/
  go (s : State) (f : RxFlow) : State :=
    let d := (t.seq + 2 ^ 32 - f.base) % 2 ^ 32
    if d ≥ 2 ^ 31 ∨ f.marks.contains t.seq ∨ f.held.any (fun x => x.seq == t.seq) then ackFlow (addF s F.FAB_RX_DUP_DUP die 0 1) die t f
    else if d ≥ 4096 then s
    else
      match tileParts f.held t with
      | some xs => xs.foldl (fun s x => applyFlow s die x) s
      | none => { s with rxFlows := tins s.rxFlows (txKey t) { f with held := f.held ++ [t] } }

/-! ## Multicast receivers (R403-R406) -/

/-- A receiver's record of a transfer. -/
def mcRecvOf (s : State) (die x : Nat) : Option McRecv := s.mcRecvs.find? (fun r => r.die == die && r.xfer == x)

/-- Replace or add a receiver's record. -/
def setRecv (s : State) (r : McRecv) : State :=
  if (mcRecvOf s r.die r.xfer).isSome then
    { s with mcRecvs := updFirst (fun y => y.die == r.die && y.xfer == r.xfer) (fun _ => r) s.mcRecvs }
  else { s with mcRecvs := s.mcRecvs ++ [r] }

/-- A transfer has been applied whole. -/
def recvDone (r : McRecv) : Bool :=
  match r.last with
  | some l => decide (r.base > l)
  | none => false

/-- Sender of a transfer: module and die. -/
def xferFrom (x : Nat) : Nat × Nat := (x / 1024 / 32, x / 1024 % 32)

/-- The lowest write of a transfer that a receiver has not got (R406). -/
def lowestMissing (r : McRecv) : Nat :=
  (((List.range (r.held.length + r.marks.length + 1)).map (· + r.base)).find?
    (fun n => !r.marks.contains n && !r.held.any (fun x => x.seq == n))).getD r.base

/-- A lagging die pulls the lowest missing write (R406). -/
def pullNext (s : State) (r : McRecv) : State :=
  if !r.lagging ∨ recvDone r then s
  else
    let (m, d) := xferFrom r.xfer
    transmit s { type := 5, flags := 2, srcModule := myId s, dstModule := m, dstDie := d, srcDie := r.die, offset := r.xfer,
                 seq := lowestMissing r, len := 2048, tag := 0, cls := r.cls, body := [] }

/-- Acknowledge a transfer's base to its sender (R404). -/
def ackRecv (s : State) (r : McRecv) : State :=
  let (m, d) := xferFrom r.xfer
  transmit s { type := 2, flags := 2, srcModule := myId s, dstModule := m, dstDie := d, srcDie := r.die, offset := r.xfer,
               seq := r.base, len := 0, tag := 0, cls := r.cls, body := [] }

/-- Apply a write of a transfer, through the die's windows: acknowledged or refused (R395, R396, R404). -/
def applyPiece (s : State) (die x : Nat) (r : McRecv) (t : Tx) : State :=
  let r := (mcRecvOf s die x).getD r
  let (s, reason) := applyWrite s die t
  let (b, m) := raiseBase (r.marks.length + 1) r.base (r.marks ++ [t.seq])
  let r := { r with base := b, marks := m, last := if bit t.flags 2 then some t.seq else r.last,
                    held := r.held.filter (fun y => y.seq != t.seq) }
  let s := setRecv s r
  if reason ≠ 0 then
    let (sm, sd) := xferFrom x
    transmit (addF s F.FAB_RX_REFUSED_REFUSED die 0 1)
      { type := 3, flags := 2, srcModule := myId s, dstModule := sm, dstDie := sd, srcDie := die, offset := x, seq := t.seq,
        len := reason, tag := t.tag, cls := t.cls, body := [] }
  else ackRecv s r

/-- One write of a transfer reaches a receiving die (R403, R404, R406): applied at most once, with the other writes of its tile (R51). A
first write of a transfer that has ended begins the sender's next transfer to the group. -/
def applyMc (s : State) (die x : Nat) (t : Tx) : State :=
  let r := match mcRecvOf s die x with
    | some r => if recvDone r && bit t.flags 0 && t.seq == 0 then ⟨die, x, t.cls, 0, [], none, false, []⟩ else r
    | none => ⟨die, x, t.cls, 0, [], none, false, []⟩
  if t.seq < r.base ∨ r.marks.contains t.seq ∨ r.held.any (fun y => y.seq == t.seq) then
    ackRecv (addF s F.FAB_RX_DUP_DUP die 0 1) r
  else
    match tileParts r.held t with
    | some xs => xs.foldl (fun s y => applyPiece s die x r y) (setRecv s r)
    | none => setRecv s { r with held := r.held ++ [t] }

/-- A die that receives PRUNE becomes lagging (R406). -/
def pruneRecv (s : State) (die x cls : Nat) : State :=
  let r := { ((mcRecvOf s die x).getD ⟨die, x, cls, 0, [], none, false, []⟩) with lagging := true }
  pullNext (setRecv s r) r

/-! ## The sending end -/

/-- The flow that an answer concerns. -/
def answeredFlow (t : Tx) : Nat := flowKey t.dstModule t.dstDie t.srcModule t.srcDie t.cls

/-- Move what waits for the limit of 4,096 into a flow's unacknowledged list and send it; `fuel` bounds it (R397). -/
def fillFlow (k : Nat) : Nat → State → State
  | 0, s => s
  | fuel + 1, s =>
    match tget? s.txFlows k with
    | some f =>
      match f.waiting with
      | x :: r =>
        if f.unacked.length < 4096 then
          fillFlow k fuel (transmit { s with txFlows := tins s.txFlows k { f with unacked := f.unacked ++ [x], waiting := r } } x.tx)
        else s
      | [] => s
    | none => s

/-- An ACK of a flow: every transaction below the base is acknowledged (R397). -/
def ackTx (s : State) (t : Tx) : State :=
  let k := answeredFlow t
  match tget? s.txFlows k with
  | none => s
  | some f =>
    let old (x : Sent) : Bool := decide ((x.tx.seq + 2 ^ 32 - t.seq) % 2 ^ 32 ≥ 2 ^ 31)
    let s := { s with txFlows := tins s.txFlows k { f with unacked := f.unacked.filter (fun x => !old x), busy := false } }
    fillFlow k f.waiting.length ((f.unacked.filter old).foldl (fun s x => ackMicro s x.queue x.tag x.idx) s)

/-- Receivers that have acknowledged a whole transfer. -/
def mcDone (m : McSend) : Nat := (m.acked.filter (fun p => decide (p.2 ≥ m.writes.length))).length

/-- Every receiver has acknowledged the last index of a transfer (R404). -/
def mcOver (m : McSend) : Bool :=
  decide (mcDone m ≥ m.count) && (match m.writes.getLast? with
    | some t => bit t.flags 2
    | none => true)

/-- The transfer of an own die with an identifier. -/
def mySend (s : State) (die x : Nat) : Option McSend := s.mcSends.find? (fun m => m.die == die && m.xfer == x)

/-- An ACK of a multicast transfer (R404). -/
def ackMc (s : State) (t : Tx) : State :=
  match mySend s t.dstDie t.offset with
  | none => s
  | some m =>
    let k := t.srcModule * 32 + t.srcDie
    let m := { m with acked := tins m.acked k (max (tgetD m.acked k 0) t.seq) }
    if mcOver m then
      ackMicro { s with mcSends := delFirst (fun y => y.die == m.die && y.xfer == m.xfer) s.mcSends } m.queue m.tag m.idx
    else { s with mcSends := updFirst (fun y => y.die == m.die && y.xfer == m.xfer) (fun _ => m) s.mcSends }

/-- The status a NACK's reason gives (R396). -/
def nackStatus (r : Nat) : Nat := if r = 2 then FAULT_PROTECTION else FAULT_TRANSLATION

/-- A NACK arrives (R396, R397, R407). -/
def nackTx (s : State) (t : Tx) : State :=
  let reason := t.len % 256
  if bit t.flags 1 then
    if reason = 5 then { s with mcRecvs := s.mcRecvs.filter (fun r => !(r.die == t.dstDie && r.xfer == t.offset && r.lagging)) }
    else
      match mySend s t.dstDie t.offset with
      | some m => failMicro s m.queue m.tag m.idx (nackStatus reason)
      | none => s
  else
    let k := answeredFlow t
    match tget? s.txFlows k with
    | none => s
    | some f =>
      if reason = 4 then { s with txFlows := tins s.txFlows k { f with busy := true } }
      else
        match f.unacked.find? (fun x => x.tx.seq == t.seq) with
        | some x => failMicro s x.queue x.tag x.idx (nackStatus reason)
        | none => s

/-- A READ of the ward's image in the partner area (R529, R542): its bytes, or NACK reason 2. -/
def wardRead (s : State) (t : Tx) : State :=
  if fromWard s t.srcModule && decide (t.len ≤ 2048) then
    transmit s { type := 6, flags := 0, srcModule := myId s, dstModule := t.srcModule, dstDie := t.srcDie, srcDie := t.dstDie,
                 offset := t.offset, seq := t.seq, len := t.len, tag := t.tag, cls := t.cls,
                 body := readBytes s.wardMem t.offset t.len }
  else refuseTx s t.dstDie t 0 0 2

/-- A READ: of the partner area (R529), or of a lagging receiver, which draws the write of the index, or NACK reason 5 once the
data is released (R406, R407). -/
def readTx (s : State) (t : Tx) : State :=
  if !bit t.flags 1 then wardRead s t
  else match (mySend s t.dstDie t.offset).bind (fun m => m.writes[t.seq]?) with
  | some w =>
    transmit s { w with lane := 0, type := 6, flags := w.flags / 2 * 2, dstModule := t.srcModule, dstDie := t.srcDie }
  | none => answerTx s t.dstDie t 3 2 t.offset t.seq 5

/-- READ_DATA arrives: applied as the WRITE of its index, and the next missing one is pulled (R406). -/
def readDataTx (s : State) (die : Nat) (t : Tx) : State :=
  if !bit t.flags 1 then s
  else match s.mcRecvs.find? (fun r => r.die == die && r.lagging && !recvDone r && r.xfer / 1024 == t.srcModule * 32 + t.srcDie &&
      r.cls == t.cls) with
  | none => s
  | some r =>
    let s := applyMc s die r.xfer t
    match mcRecvOf s die r.xfer with
    | some r => pullNext s r
    | none => s

/-! ## Arrival -/

/-- A transaction reaches its die on this module. -/
def deliverTx (s : State) (die : Nat) (t : Tx) : State :=
  if isGroup t.dstModule then
    if t.type = 1 then applyMc s die (xferId t.srcModule t.srcDie (t.dstModule - 0xF000)) t
    else if t.type = 8 then pruneRecv s die t.offset t.cls
    else s
  else
    match t.type with
    | 1 => rxFlowTx s die t
    | 4 => rxFlowTx s die t
    | 2 => if bit t.flags 1 then ackMc s t else ackTx s t
    | 3 => nackTx s t
    | 5 => readTx s t
    | 6 => readDataTx s die t
    | 8 => if (mySend s die t.offset).isSome then s else pruneRecv s die t.offset t.cls
    | _ => s

/-- A transaction is at its die, unless the die is fenced or asleep: a fenced die takes nothing; any other one wakes, and while it enters
Charcoal, is in it or leaves it the fabric side holds the transaction (R65, R486, R488). -/
def atDie (s : State) (die : Nat) (t : Tx) : State :=
  if dieFenced s die then s
  else
    let s := wakeFrom s 8 die
    if isComp die && decide (powerOf s die ≥ 2) then { s with held := s.held ++ [.tx die t] } else deliverTx s die t

/-- Count a discarded transaction at its port (R383, R398). -/
def discardTx (s : State) (port : Option Nat) : State :=
  match port with
  | some p => addF s F.FAB_PORT_ERR_ERR (portDie p) (portLoc p) 1
  | none => s

/-- Verify and decrypt what entered by a port (R567): a refused transaction is discarded, counted, and NACKed. -/
def openTx (s : State) (port : Option Nat) (die : Nat) (t : Tx) (k : State → Tx → State) : State :=
  match port with
  | none => k s t
  | some _ =>
    match unprotectTx s t with
    | some t => k s t
    | none =>
      let s := addF s F.SEC_CNT_AUTH_AUTH f0 0 1
      if isGroup t.dstModule then
        let (sm, sd) := (t.srcModule, t.srcDie)
        transmit s { type := 3, flags := 2, srcModule := myId s, dstModule := sm, dstDie := sd, srcDie := die,
                     offset := xferId sm sd (t.dstModule - 0xF000), seq := t.seq, len := 2, tag := t.tag, cls := t.cls, body := [] }
      else answerTx s die t 3 0 0 t.seq 2

/-- A transaction to a group: its local receivers, then the branches (R403). -/
def groupTx (s : State) (port : Option Nat) (t : Tx) : State :=
  let k := match port with
    | some p => portDie p
    | none => 16 + t.srcDie / 2
  let e := mcEntry s k (activeBank s k) (t.dstModule - 0xF000)
  let x := txXfer t
  if !bit e 95 ∨ ¬ (t.type = 1 ∨ t.type = 8) then discardTx s port
  else
    let dies := (List.range 16).filter (fun d => bit e d)
    let s := match dies with
      | [] => s
      | d :: _ => openTx s port d t (fun s t => dies.foldl (fun s d => atDie s d t) s)
    match port with
    | some _ => injectMc s k port x t
    | none => s

/-- A transaction arrives by a port, or on a link inside the package (R383, R386, R394, R400, R403). -/
def recvTx (s : State) (port : Option Nat) (t : Tx) : State :=
  let up := match port with
    | some p => portActive s p
    | none => true
  if !up then s
  else if t.type < 1 ∨ t.type > 8 ∨ !goodModule t.dstModule then discardTx s port
  else if isGroup t.dstModule then groupTx s port t
  else if toSelf s t.dstModule then openTx s port t.dstDie t (fun s t => atDie s t.dstDie t)
  else
    match port with
    | some p => if selfValid s then routeTx s (portDie p) (2 * (portDie p - 16)) port t else discardTx s port
    | none => s

/-- A transaction of one type arrives, and what follows from it. -/
def arrive (type : Nat) (port : Option Nat) (t : Tx) (s : State) : State :=
  if t.type ≠ type then s else settle (recvTx s port t)

/-- WRITE (R383, R395-R397, R403). -/
def execWrite (port : Option Nat) (t : Tx) (s : State) : Host.Outcome State Fault Refusal := .next (arrive 1 port t s)
/-- ACK (R397, R404). -/
def execAck (port : Option Nat) (t : Tx) (s : State) : Host.Outcome State Fault Refusal := .next (arrive 2 port t s)
/-- NACK (R396, R397, R407). -/
def execNack (port : Option Nat) (t : Tx) (s : State) : Host.Outcome State Fault Refusal := .next (arrive 3 port t s)
/-- SIGNAL (R395, R397). -/
def execSignal (port : Option Nat) (t : Tx) (s : State) : Host.Outcome State Fault Refusal := .next (arrive 4 port t s)
/-- READ (R406). -/
def execRead (port : Option Nat) (t : Tx) (s : State) : Host.Outcome State Fault Refusal := .next (arrive 5 port t s)
/-- READ_DATA (R406). -/
def execReadData (port : Option Nat) (t : Tx) (s : State) : Host.Outcome State Fault Refusal := .next (arrive 6 port t s)
/-- PRUNE (R405, R406). -/
def execPrune (port : Option Nat) (t : Tx) (s : State) : Host.Outcome State Fault Refusal := .next (arrive 8 port t s)

/-! ## Time limits of flows and transfers -/

/-- A flow's key as the header of a transaction that belongs to it. -/
def flowTx (k : Nat) : Tx :=
  { type := 1, flags := 0, srcModule := k / 2 ^ 34, srcDie := k / 2 ^ 29 % 32, dstModule := k / 2 ^ 13 % 65536, dstDie := k / 256 % 32,
    offset := 0, seq := 0, len := 0, tag := 0, cls := k % 8, body := [] }

/-- FLOW_ACK_TIMER (R397): 1 µs after the oldest unacknowledged application. -/
def execFlowAckTimer (flow : Nat) (s : State) : Host.Outcome State Fault Refusal :=
  .next (match tget? s.rxFlows flow with
    | some f => if f.owed = 0 then s else ackFlow s (flowDie flow) (flowTx flow) f
    | none => s)

/-- FLOW_BUSY_RETRY (R397): 2 µs after a busy NACK the flow's transactions are sent again. -/
def execFlowBusyRetry (flow : Nat) (s : State) : Host.Outcome State Fault Refusal :=
  .next (match tget? s.txFlows flow with
    | some f =>
      if !f.busy then s
      else f.unacked.foldl (fun s x => transmit s x.tx) { s with txFlows := tins s.txFlows flow { f with busy := false } }
    | none => s)

/-- FLOW_IDLE_RELEASE (R397): nothing has moved for 2 × FAB_LOSS_LIMIT, so the flow is released at both ends. -/
def execFlowIdleRelease (flow : Nat) (s : State) : Host.Outcome State Fault Refusal :=
  .next (
    let s := match tget? s.txFlows flow with
      | some f => if f.unacked.isEmpty && f.waiting.isEmpty then { s with txFlows := tdel s.txFlows flow } else s
      | none => s
    match tget? s.rxFlows flow with
    | some f => if f.owed = 0 then showFlows { s with rxFlows := tdel s.rxFlows flow } (flowDie flow) else s
    | none => s)

/-- A waiting transaction is held by a drain, and the limit does not run for it: a drain is active at the die it waits at (R459). -/
def heldByDrain (s : State) (w : Waiting) : Bool :=
  flag s F.FAB_DRAIN_ACTIVE w.fdie

/-- LOSS_LIMIT_EXPIRY (R398): the oldest transaction of a flow has not left the module, or has not been acknowledged, for
FAB_LOSS_LIMIT. -/
def execLossLimitExpiry (flow : Nat) (s : State) : Host.Outcome State Fault Refusal :=
  .next (
    match s.waits.find? (fun w => txKey w.tx == flow) with
    | some w =>
      if heldByDrain s w then s
      else
        let s := discardTx { s with waits := delFirst (· == w) s.waits } w.port
        settle (failTx s w.tx LINK_LOST)
    | none =>
      match tget? s.txFlows flow with
      | some f =>
        match f.unacked with
        | x :: _ => settle (failMicro s x.queue x.tag x.idx LINK_LOST)
        | [] => s
      | none => s)

/-- MULTICAST_BRANCH_PRUNE (R405): a branch fell behind by FAB_MC_LAG.FLITS, or sent nothing for FAB_MC_LAG.TIME µs. -/
def execMulticastBranchPrune (fdie port group xfer behind idle : Nat) (s : State) : Host.Outcome State Fault Refusal :=
  .next (
    let e := mcEntry s fdie (activeBank s fdie) group
    let cls := match s.mcSends.find? (fun m => m.xfer == xfer), s.mcRecvs.find? (fun r => r.xfer == xfer) with
      | some m, _ => m.cls
      | none, some r => r.cls
      | none, none => 2
    if isFab fdie && bit e 95 && bit (bits e 32 48) port && !s.pruned.contains (xfer, port) &&
        (decide (behind ≥ getF s F.FAB_MC_LAG_FLITS fdie) || decide (idle ≥ getF s F.FAB_MC_LAG_TIME fdie)) then
      pruneBranch s fdie port xfer group cls
    else s)

/-- MULTICAST_LAG_TIMEOUT (R406): nothing has arrived for 500 µs for an unfinished transfer. -/
def execMulticastLagTimeout (die xfer : Nat) (s : State) : Host.Outcome State Fault Refusal :=
  .next (match mcRecvOf s die xfer with
    | some r => if r.lagging ∨ recvDone r then s else pruneRecv s die xfer r.cls
    | none => s)

/-- RETENTION_LIMIT_EXPIRY (R407): the sender releases the data; its micro-command ends with what its issuer said. A gather
keeps the number of receivers that acknowledged (R433). -/
def execRetentionLimitExpiry (die xfer : Nat) (s : State) : Host.Outcome State Fault Refusal :=
  .next (match mySend s die xfer with
    | none => s
    | some m =>
      let note (c : RdCall) : RdCall :=
        if c.queue = m.queue ∧ c.tag = m.tag ∧ opcode c.image = 0x62 then { c with count := mcDone m, expired := true } else c
      settle (failMicro { s with calls := s.calls.map note } m.queue m.tag m.idx m.late))

end Sys2Proof.Machine
end

