-- ==== Sys2Proof/Machine/Ports.lean ====
section
/-! DEFINITION. The external ports: enabling, training, margining, loss, retraining, and the copy and swap of the routing tables
(R377, R378, R402, R408-R412, R459). -/

namespace Sys2Proof.Machine

open Sys2Proof

/-! ## The state of a port -/

/-- A port is held at half rate or at four lanes by its configuration (R413). -/
def cfgHalf (s : State) (p : Nat) : Bool := flag s F.FAB_PORT_CFG_HALF (portDie p) (portLoc p)
/-- FAB_PORT_CFG.NARROW of a port. -/
def cfgNarrow (s : State) (p : Nat) : Bool := flag s F.FAB_PORT_CFG_NARROW (portDie p) (portLoc p)
/-- FAB_PORT_CFG.ENABLE of a port. -/
def portEnabled (s : State) (p : Nat) : Bool := flag s F.FAB_PORT_CFG_ENABLE (portDie p) (portLoc p)

/-- The port can reach the full rate now: an optical port, or a copper port whose own margining has completed (R409, R553). -/
def mayFull (s : State) (p : Nat) : Bool := !isCopper p || (getPort s p).margined

/-- Set the mode of a port that becomes ACTIVE (R378, R409, R411). -/
def setMode (s : State) (p : Nat) : State :=
  let half := cfgHalf s p || !mayFull s p
  let narrow := cfgNarrow s p || (getPort s p).narrowed
  let s := setF s F.FAB_PORT_STATE_HALF (portDie p) (portLoc p) (b2n half)
  setF s F.FAB_PORT_STATE_NARROW (portDie p) (portLoc p) (b2n narrow)

/-- Numbers of the lanes in a mask of eight. -/
def lanesIn (mask : Nat) : List Nat := (List.range 8).filter (fun i => bit mask i)

/-- The lane map: the logical lanes 0-3 on four lanes, the others as at reset; the identity for eight lanes (R411, R413). -/
def laneMap (ls : List Nat) : Nat :=
  if ls.length = 8 then 0xFAC688
  else ((ls.take 4).zipIdx.map (fun p => p.1 * 8 ^ p.2)).foldl (· + ·) 0 + 0xFAC688 / 4096 * 4096

/-- The physical lanes that a port uses (R413). -/
def usedLanes (s : State) (p : Nat) : List Nat :=
  let n := if flag s F.FAB_PORT_STATE_NARROW (portDie p) (portLoc p) then 4 else 8
  (List.range n).map (fun i => getF s F.FAB_PORT_LANES_MAP (portDie p) (portLoc p) / 8 ^ i % 8)

/-- A port enters RETRAIN: its traffic takes other candidates (R408, R410). -/
def toRetrain (s : State) (p : Nat) : State :=
  addF (setPortState s p 3) F.FAB_PORT_DOWN_RETRAIN (portDie p) (portLoc p) 1

/-- Send what a port's replay buffer holds over the other candidates of its routes (R410, R459); what waits for this port alone is
dropped. -/
def resendReplay (s : State) (p : Nat) : State :=
  let l := (getPort s p).replay
  let s := setPort s p { getPort s p with replay := [] }
  let s := { s with waits := s.waits.filter (fun w => !(w.only == some p)) }
  (l.filter (fun r => !isGroup r.tx.dstModule && !(r.tx.type == 7))).foldl
    (fun s r => routeTx s (portDie p) (2 * (portDie p - 16)) none { r.tx with lane := 0 }) s

/-- Prune the branches of this module's own transfers at a port that has become LOST (R405). -/
def pruneLost (s : State) (p : Nat) : State :=
  s.mcSends.foldl (fun s m =>
    let k := 16 + m.die / 2
    let g := m.xfer % 1024
    if bit (bits (mcEntry s k (activeBank s k) g) 32 48) p && !s.pruned.contains (m.xfer, p) then
      pruneBranch s k p m.xfer g m.cls
    else s) s

/-- A port becomes LOST (R408, R410): counted, its replay buffer sent again, its branches pruned, a local notice raised. -/
def portDown (s : State) (p : Nat) : State :=
  let s := addF (setPortState s p 4) F.FAB_PORT_DOWN_LOST (portDie p) (portLoc p) 1
  settle (localNotice (pruneLost (resendReplay s p) p) 4 p 4)

/-- Begin the initial training of a port (R408, R409). -/
def toTraining (s : State) (p : Nat) : State := setPortState s p 1

/-! ## Configuration -/

/-- A write of FAB_PORT_CFG (R408, R412, R413, R459): the fields, then what ENABLE, HALF and NARROW bring about. -/
def writePortCfg (s : State) (src : Src) (p v : Nat) : State :=
  let k := portDie p
  let old := (cfgHalf s p, cfgNarrow s p)
  let s := plainWrite s src k (0x500000 + 256 * portLoc p) v
  let st := portState s p
  if st = 5 then s
  else if bit v 0 then
    if st = 0 ∧ (getPort s p).partner then toTraining s p
    else if st = 2 ∧ old ≠ (cfgHalf s p, cfgNarrow s p) then settle (toRetrain s p)
    else s
  else if st = 2 ∨ st = 3 then settle (resendReplay (setPortState s p 0) p)
  else setPortState s p 0

/-- PORT_ENABLE (R408): a write of FAB_PORT_CFG with ENABLE = 1. -/
def execPortEnable (src : Src) (port value : Nat) (s : State) : Host.Outcome State Fault Refusal :=
  .next (if bit value 0 then
      pfWrite s src (portDie port) (0x500000 + 256 * portLoc port) value (fun s => writePortCfg s src port value)
    else s)

/-- PORT_DISABLE (R459): a write of FAB_PORT_CFG with ENABLE = 0. -/
def execPortDisable (src : Src) (port value : Nat) (s : State) : Host.Outcome State Fault Refusal :=
  .next (if bit value 0 then s
    else pfWrite s src (portDie port) (0x500000 + 256 * portLoc port) value (fun s => writePortCfg s src port value))

/-- PORT_PARTNER_DETECTED (R408): an enabled port in OFF begins training. -/
def execPortPartnerDetected (port : Nat) (s : State) : Host.Outcome State Fault Refusal :=
  .next (
    let s := setPort s port { getPort s port with partner := true }
    if portEnabled s port && portState s port == 0 then toTraining s port else s)

/-! ## Training and retraining -/

/-- PORT_TRAINED (R409): `lanes` is the mask of healthy lanes. With eight the port runs at eight lanes, with four to seven it runs
narrow on the lowest four; copper starts at half rate. -/
def execPortTrained (port lanes : Nat) (s : State) : Host.Outcome State Fault Refusal :=
  .next (
    let ls := lanesIn lanes
    if portState s port ≠ 1 ∨ ls.length < 4 then s
    else
      let s := setPort s port { PortInt.reset with partner := true, narrowed := decide (ls.length < 8) }
      let s := setMode (setPortState s port 2) port
      let narrow := flag s F.FAB_PORT_STATE_NARROW (portDie port) (portLoc port)
      let s := setF s F.FAB_PORT_LANES_MAP (portDie port) (portLoc port) (laneMap (if narrow then ls.take 4 else ls))
      settle (retryWaits s))

/-- TRAINING_TIMEOUT (R408): 200 ms of initial training. -/
def execTrainingTimeout (port : Nat) (s : State) : Host.Outcome State Fault Refusal :=
  .next (if portState s port = 1 then portDown s port else s)

/-- PORT_MARGINING_DONE (R409): a copper port passes through RETRAIN to full mode. -/
def execPortMarginingDone (port : Nat) (s : State) : Host.Outcome State Fault Refusal :=
  .next (
    if portState s port = 2 ∧ !(getPort s port).margined then
      let s := setPort s port { getPort s port with margined := true }
      if isCopper port && !cfgHalf s port then settle (toRetrain s port) else s
    else s)

/-- The repair record of a port that runs narrow (R583, R584): its margins are not reported. -/
def narrowRecord (s : State) (p lane : Nat) : State :=
  let (a, s) := freshFree s
  let (b, s) := freshFree s
  let r : RepRec := ⟨now s, 6, portDie p, 0x80 + p, 0, lane, (Config.freeWord a).toNat % 65536, (Config.freeWord b).toNat % 65536⟩
  let l := s.rlog ++ [r]
  let s := addW { s with rlog := l.drop (l.length - 4096) } F.TST_RLOG_TAIL_TAIL f0 0 1
  logRec s 0 (portDie p) (0x80 + p) 0 0 lane

/-- LANE_ERROR_RETRAIN (R411): a lane in use exceeds its error limit. A port of eight lanes retrains as narrow on lanes without it;
a narrow port becomes LOST. -/
def execLaneErrorRetrain (port lane : Nat) (s : State) : Host.Outcome State Fault Refusal :=
  .next (
    if portState s port ≠ 2 ∨ !(usedLanes s port).contains lane then s
    else if flag s F.FAB_PORT_STATE_NARROW (portDie port) (portLoc port) then portDown s port
    else
      let s := setPort s port { getPort s port with narrowed := true }
      let s := setF s F.FAB_PORT_LANES_MAP (portDie port) (portLoc port)
        (laneMap (((List.range 8).filter (· != lane)).take 4))
      settle (toRetrain (narrowRecord s port lane) port))

/-- RETRAIN_DONE (R408): the port is ACTIVE again, in the mode that its lanes and its configuration allow. -/
def execRetrainDone (port : Nat) (s : State) : Host.Outcome State Fault Refusal :=
  .next (
    if portState s port ≠ 3 ∨ s.remargin.contains port then s
    else
      let s := setMode (setPortState s port 2) port
      let s := if flag s F.FAB_PORT_STATE_NARROW (portDie port) (portLoc port) || (getPort s port).narrowed then s
        else setF s F.FAB_PORT_LANES_MAP (portDie port) (portLoc port) 0xFAC688
      settle (retryWaits s))

/-- RETRAIN_TIMEOUT (R408, R581): 100 ms of retraining, counted from the end of a margin run. -/
def execRetrainTimeout (port : Nat) (s : State) : Host.Outcome State Fault Refusal :=
  .next (if portState s port = 3 ∧ !s.remargin.contains port then portDown s port else s)

/-- NO_FLIT_TIMEOUT (R410): 10 µs without a valid flit. -/
def execNoFlitTimeout (port : Nat) (s : State) : Host.Outcome State Fault Refusal :=
  .next (if portState s port = 2 then portDown s port else s)

/-- PORT_LOST (R410): loss of signal on a lane in use, or of FEC alignment. -/
def execPortLost (port : Nat) (s : State) : Host.Outcome State Fault Refusal :=
  .next (if portState s port = 2 then portDown s port else s)

/-- RETRAIN_HOLD_EXPIRY (R412): the port begins training again, without limit. -/
def execRetrainHoldExpiry (port : Nat) (s : State) : Host.Outcome State Fault Refusal :=
  .next (if portState s port = 4 then (if portEnabled s port then toTraining s port else setPortState s port 0) else s)

/-! ## Banks of the routing tables (R402) -/

/-- Copy the entries of one fabric die's active bank of a table with `n` entries into the shadow bank. -/
def copyBank (t : Tab Nat) (k act n : Nat) : Tab Nat :=
  let a := bankKey k act n 0
  let b := bankKey k (1 - act) n 0
  let keep (p : Nat × Nat) : Bool := !(decide (b ≤ p.1) && decide (p.1 < b + n))
  let src := t.filter (fun p => decide (a ≤ p.1) && decide (p.1 < a + n))
  src.foldl (fun m p => tins m (p.1 - a + b) p.2) (t.filter keep)

/-- Copy the three active tables of a fabric die into its shadow bank. -/
def copyTables (s : State) (k : Nat) : State :=
  let act := activeBank s k
  { s with modTab := copyBank s.modTab k act 16384, ovrTab := copyBank s.ovrTab k act 4096,
           mcTab := copyBank s.mcTab k act 1024 }

/-- Start a copy at a fabric die; while one runs it is ignored and sets ERR (R402). -/
def startCopy (s : State) (k : Nat) : State :=
  if flag s F.FAB_ROUTE_CTRL_BUSY k then setF s F.FAB_ROUTE_CTRL_ERR k 0 1 else setF s F.FAB_ROUTE_CTRL_BUSY k 0 1

/-- Swap the banks of a fabric die; while a copy runs it is ignored and sets ERR (R402). What waits for a route is tried again. -/
def swapBanks (s : State) (k : Nat) : State :=
  if flag s F.FAB_ROUTE_CTRL_BUSY k then setF s F.FAB_ROUTE_CTRL_ERR k 0 1
  else settle (retryWaits (setF s F.FAB_ROUTE_CTRL_ACTIVE k 0 (1 - activeBank s k)))

/-- ROUTE_COPY (R402). -/
def execRouteCopy (src : Src) (fdie : Nat) (s : State) : Host.Outcome State Fault Refusal :=
  .next (if isFab fdie then pfWrite s src fdie 0x501100 2 (fun s => startCopy s fdie) else s)

/-- No fabric die copies its tables. -/
def noCopy (s : State) : Bool := ((List.range 8).map (· + 16)).all (fun k => dieFenced s k || !flag s F.FAB_ROUTE_CTRL_BUSY k)

/-- A CopyTables command completes once no fabric die copies (R558). -/
def answerCopy (s : State) : State :=
  if s.copyAsked && noCopy s then emit { s with copyAsked := false } (.mgmt 0 []) else s

/-- ROUTE_COPY_DONE (R402). -/
def execRouteCopyDone (fdie : Nat) (s : State) : Host.Outcome State Fault Refusal :=
  .next (if isFab fdie ∧ flag s F.FAB_ROUTE_CTRL_BUSY fdie then
      answerCopy (setF (copyTables s fdie) F.FAB_ROUTE_CTRL_BUSY fdie 0 0)
    else s)

/-- ROUTE_SWAP (R402). -/
def execRouteSwap (src : Src) (fdie : Nat) (s : State) : Host.Outcome State Fault Refusal :=
  .next (if isFab fdie then pfWrite s src fdie 0x501100 4 (fun s => swapBanks s fdie) else s)

/-! ## Drains of ports (R457-R460) -/

/-- The fields of FAB_DRAIN that a write changes: HOLD always, PORTS while no drain runs (R457, R458). -/
def writeDrain (s : State) (k v : Nat) : State :=
  let s := setF s F.FAB_DRAIN_HOLD k 0 (bits v 16 16)
  if flag s F.FAB_DRAIN_ACTIVE k then s else setF s F.FAB_DRAIN_PORTS k 0 (bits v 0 6)

/-- Start a drain (R458). -/
def startDrain (s : State) (k : Nat) : State :=
  if flag s F.FAB_DRAIN_ACTIVE k then s
  else setF (setF (setF s F.FAB_DRAIN_ACTIVE k 0 1) F.FAB_DRAIN_DRAINED k 0 0) F.FAB_DRAIN_TIMEOUT k 0 0

/-- End a drain: the ports are open to every class, and what was held is tried again (R459, R460). -/
def endDrain (s : State) (k : Nat) : State :=
  if flag s F.FAB_DRAIN_ACTIVE k then settle (retryWaits (setF s F.FAB_DRAIN_ACTIVE k 0 0)) else s

/-- A write of FAB_DRAIN: its fields, GO, RELEASE (R457, R458). -/
def drainWrite (s : State) (k v : Nat) : State :=
  let s := writeDrain s k v
  let s := if bit v 6 then startDrain s k else s
  if bit v 7 then endDrain s k else s

/-- DRAIN_GO (R458): a write of FAB_DRAIN with GO = 1. -/
def execDrainGo (src : Src) (fdie value : Nat) (s : State) : Host.Outcome State Fault Refusal :=
  .next (if isFab fdie && bit value 6 then
      pfWrite s src fdie 0x501500 value (fun s => drainWrite s fdie value)
    else s)

/-- A port holds an Indigo or Amber flit in its replay buffer or a part of one in its receive buffer (R458). -/
def holdsDrained (s : State) (p : Nat) : Bool :=
  (getPort s p).replay.any (fun r => r.tx.cls == 1 || r.tx.cls == 2) ||
  (getPort s p).partial_.any (fun x => (x.1 / 2 == 1 || x.1 / 2 == 2) && !x.2.isEmpty)

/-- DRAIN_COMPLETE (R458). -/
def execDrainComplete (fdie : Nat) (s : State) : Host.Outcome State Fault Refusal :=
  .next (
    let ports := (List.range 6).filter (fun i => bit (getF s F.FAB_DRAIN_PORTS fdie) i)
    if isFab fdie && flag s F.FAB_DRAIN_ACTIVE fdie && !ports.any (fun i => holdsDrained s (portOn fdie i)) then
      setF s F.FAB_DRAIN_DRAINED fdie 0 1
    else s)

/-- DRAIN_RELEASE (R459): a write of FAB_DRAIN with RELEASE = 1. -/
def execDrainRelease (src : Src) (fdie value : Nat) (s : State) : Host.Outcome State Fault Refusal :=
  .next (if isFab fdie && bit value 7 then
      pfWrite s src fdie 0x501500 value (fun s => drainWrite s fdie value)
    else s)

/-- DRAIN_HOLD_EXPIRY (R457, R459, R460): HOLD has elapsed. TIMEOUT is set if it did so before DRAINED. -/
def execDrainHoldExpiry (fdie : Nat) (s : State) : Host.Outcome State Fault Refusal :=
  .next (
    if isFab fdie && flag s F.FAB_DRAIN_ACTIVE fdie then
      endDrain (if flag s F.FAB_DRAIN_DRAINED fdie then s else setF s F.FAB_DRAIN_TIMEOUT fdie 0 1) fdie
    else s)

end Sys2Proof.Machine
end

