-- ==== Sys2Proof/Machine/Tiers.lean ====
section
/-! DEFINITION. The tier-manager commands: mapping, moving, pinning and querying pages, flash objects, the end of moves,
policy demotions and failures (R322-R350, R622, R623, R628, R633). -/

namespace Sys2Proof.Machine

open Sys2Proof

/-! ## Bodies and checks (R344, R345) -/

/-- The pages of a range in ascending order (R622): base of each step, and its page if one is mapped. -/
def pagesFrom (s : State) (fn : Nat) : Nat → Nat → List (Nat × Option Page)
  | 0, _ => []
  | n + 1, va =>
    match findPage s fn va with
    | some (b, p) => (b, some p) :: pagesFrom s fn n (b + (if p.large then 2 ^ 30 else region))
    | none => (va, none) :: pagesFrom s fn n (va + region)

/-- End of a range of pages. -/
def endOf (s : State) (fn n va : Nat) : Nat :=
  match (pagesFrom s fn n va).getLast? with
  | some (b, some p) => b + (if p.large then 2 ^ 30 else region)
  | some (b, none) => b + region
  | none => va

/-- The target compute die of a tier body (R344). -/
def tierDie (d : Desc) : Nat :=
  let x := fld d.image 0x1F 1
  if bit x 4 then bits x 0 4 else qDie d.queue

/-- The function has a table granule (R345 reason 0x05). -/
def hasTable (s : State) (fn : Nat) : Bool := flag s F.TM_FN_TBL_VALID f0 fn

/-- A fixed map names a granule that the function may not use (R324). -/
def badFixed (s : State) (fn pa n size : Nat) : Bool :=
  (List.range n).any (fun i =>
    let a := pa + i * size
    if inHbm a then !ownsGran s fn (a / 2 ^ 30) || isTableGran s (a / 2 ^ 30)
    else decide (a < farBase) || !ownsFar s fn ((a - farBase) / 2 ^ 30))

/-- An interleaved map names a granule that the function may not use (R324). -/
def badRows (s : State) (fn r n : Nat) : Bool :=
  (List.range n).any (fun i => (List.range 32).any (fun k =>
    let g := k * 96 + (r + i) / 16384
    !ownsGran s fn g || isTableGran s g))

/-- Body checks of TM_MAP (R344, R345). -/
def mapChecks (s : State) (d : Desc) : List (Nat × Bool) :=
  let img := d.image
  let va := fld img 0x10 8
  let n := fld img 0x18 4
  let kind := fld img 0x1C 1
  let fl := fld img 0x1D 1
  let tier := fld img 0x1E 1
  let arg := fld img 0x20 8
  let size := if bit fl 2 then 2 ^ 30 else region
  let argOk : Bool :=
    match kind with
    | 0 => arg % region == 0 && decide (arg < 2 ^ 48) && (!bit fl 2 || arg % 2 ^ 30 == 0)
    | 1 => decide (arg < 1572864) && decide (arg + n ≤ 1572864)
    | _ => arg == 0
  [(1, decide (va ≥ 2 ^ 52) || va % size != 0 || n == 0 || decide (n > 2 ^ 20) || decide (kind > 2) ||
     bits fl 3 5 != 0 || (bit fl 2 && kind != 0) || decide (tier > 2) || (kind != 2 && tier != 0) ||
     bits (fld img 0x1F 1) 5 3 != 0 || !argOk || !zeroAt img 0x28 24),
   (2, decide (va + n * size > 2 ^ 52) || s.pages.any (fun p =>
     p.1 / 2 ^ 52 == d.fn && decide (p.1 % 2 ^ 52 < va + n * size) &&
       decide (va < p.1 % 2 ^ 52 + (if p.2.large then 2 ^ 30 else region)))),
   (3, (kind == 0 && badFixed s d.fn arg n size) || (kind == 1 && badRows s d.fn arg n)),
   (5, !hasTable s d.fn),
   (6, kind == 2 && !tierUsable s tier (tierDie d))]

/-- Body checks of TM_UNMAP, TM_MOVE, TM_PIN and TM_QUERY (R344, R345, R622). -/
def pageChecks (s : State) (d : Desc) : List (Nat × Bool) :=
  let img := d.image
  let oc := opcode img
  let va := fld img 0x10 8
  let n := fld img 0x18 4
  let op := fld img 0x1C 1
  let tier := fld img 0x1E 1
  let arg := fld img 0x20 8
  let ps := pagesFrom s d.fn n va
  let inside : Bool :=
    match findPage s d.fn va with
    | some (b, p) => p.large && b != va
    | none => false
  [(1, decide (va ≥ 2 ^ 52) || va % region != 0 || n == 0 || decide (n > 2 ^ 20) || fld img 0x1D 1 != 0 ||
     (if oc = 0x8B then decide (op > 1) else op != 0) ||
     (if oc = 0x8A then decide (tier > 2) || bits (fld img 0x1F 1) 5 3 != 0 else tier != 0 || fld img 0x1F 1 != 0) ||
     (if oc = 0x8C then decide (arg ≥ 2 ^ 52) || arg % 64 != 0 else arg != 0) || !zeroAt img 0x28 24),
   (2, decide (endOf s d.fn n va > 2 ^ 52) || inside),
   (4, oc != 0x8C && ps.any (fun x =>
     match x.2 with
     | some p => p.kind == 3 || ((oc == 0x8A || oc == 0x8B) && p.kind != 2)
     | none => oc == 0x8A || oc == 0x8B)),
   (5, !hasTable s d.fn),
   (6, oc == 0x8A && !tierUsable s tier (tierDie d))]

/-- End a tier descriptor on a failed check (R345). -/
def rejectTier (s : State) (d : Desc) (r : Nat) : State := rejectOp s d (if r = 3 then FAULT_PROTECTION else CONFLICT) r

/-- Detail bytes of a tier descriptor (R346). -/
def tierDetail (acted ef : Nat) : Bytes :=
  detail6 [0, acted % 256, acted / 256 % 256, acted / 65536 % 256, acted / 2 ^ 24, ef]

/-- Run a tier opcode: its checks, then its effect. -/
def runTier (s : State) (q tag : Nat) (p : Bytes → Bool) (checks : State → Desc → List (Nat × Bool))
    (eff : State → Desc → State) : State :=
  match opDesc s q tag p with
  | none => s
  | some d =>
    match firstFail (checks s d) with
    | some r => settle (rejectTier s d r)
    | none => settle (eff s d)

/-! ## TM_MAP (R322-R324, R328, R344, R361, R628, R633) -/

/-- Put a page into a function's space. -/
def putPage (s : State) (fn va : Nat) (p : Page) : State := { s with pages := tins s.pages (pageKey fn va) p }

/-- Zero what backs an interleaved row: its 64 KiB in every stack (R323, R628). -/
def zeroRow (s : State) (r : Nat) : State :=
  (List.range 32).foldl (fun s n =>
    let a := n * stackBytes + r * 65536
    markLines { s with mem := zeroBytes s.mem a 65536 } a 65536 0) s

/-- Zero a region's location (R628). -/
def zeroRegion (s : State) (a : Nat) : State := markLines { s with mem := zeroBytes s.mem a region } a region 0

/-- A free home record of an M die: the lowest one (R327). -/
def freeRecord (s : State) (m : Nat) : Option Nat :=
  searchUp (fun k => (tget? s.homes k).isNone) 524288 ((m - 24) * 524288)

/-- The first tier from `tier` on that has room for a region (R344). -/
def firstRoom (s : State) (fn die tier : Nat) : Option (Nat × Nat) :=
  (([0, 1, 2] : List Nat).filter (fun t => decide (tier ≤ t))).findSome? (fun t =>
    if tierUsable s t die then (placeIn s fn t die).map (fun l => (t, l)) else none)

/-- Map one managed region: the state, whether it was mapped, and its eflags (R344, R361, R633). -/
def mapManaged (s : State) (fn va die tier : Nat) (w np : Bool) : State × Bool × Nat :=
  let m := mDieOf die
  match freeRecord s m, firstRoom s fn die tier with
  | some r, some (t, l) =>
    let free := getF s F.MV_GEN_FREE_FREE die
    let tracked := free != 0
    let s := setHome s r { HomeRec.empty with
      tier := t, owner := fn, location := l, home := die, tracked := tracked, age := now s / 2 ^ 20 % 2 ^ 16 }
    let s := setF s F.TM_REC_FREE_FREE m 0 (getF s F.TM_REC_FREE_FREE m - 1)
    let s := if tracked then setF s F.MV_GEN_FREE_FREE die 0 (free - 1)
      else addF s F.MV_CNT_UNTRACKED_UNTRACKED die 0 1
    (putPage (zeroRegion s (locAddr t l)) fn va ⟨2, false, w, np, r⟩, true, if t = tier then 0 else 32)
  | _, _ => (s, false, 0)

/-- Map managed regions until one finds no record or no room: state, regions mapped, eflags, and whether it stopped. -/
def mapRegions (d : Desc) (die tier : Nat) (w np : Bool) : Nat → State → Nat → Nat → Nat → State × Nat × Nat × Bool
  | 0, s, _, done, ef => (s, done, ef, false)
  | n + 1, s, va, done, ef =>
    match mapManaged s d.fn va die tier w np with
    | (s, true, e) => mapRegions d die tier w np n s (va + region) (done + 1) (ef ||| e)
    | (s, false, _) => (s, done, ef, true)

/-- TM_MAP on a checked descriptor. -/
def runMap (s : State) (d : Desc) : State :=
  let img := d.image
  let va := fld img 0x10 8
  let n := fld img 0x18 4
  let fl := fld img 0x1D 1
  let arg := fld img 0x20 8
  match fld img 0x1C 1 with
  | 0 =>
    let size := if bit fl 2 then 2 ^ 30 else region
    let s := (List.range n).foldl (fun s i => putPage s d.fn (va + i * size) ⟨0, bit fl 2, bit fl 0, bit fl 1, arg + i * size⟩) s
    endOp s d DONE (seqStation d) (tierDetail n 0)
  | 1 =>
    let s := (List.range n).foldl (fun s i =>
      putPage (zeroRow s (arg + i)) d.fn (va + i * region) ⟨1, false, bit fl 0, bit fl 1, arg + i⟩) s
    endOp s d DONE (seqStation d) (tierDetail n 0)
  | _ =>
    let (s, done, ef, full) := mapRegions d (tierDie d) (fld img 0x1E 1) (bit fl 0) (bit fl 1) n s va 0 0
    endOp s d (if full then TIER_FULL else DONE) (seqStation d) (tierDetail done ef)

/-- TM_MAP (R628). -/
def execTmMap (q tag : Nat) (s : State) : Host.Outcome State Fault Refusal :=
  .next (runTier s q tag (fun i => opcode i == 0x88) mapChecks runMap)

/-! ## TM_UNMAP and TM_MOVE (R325, R330, R335, R346) -/

/-- Start a tier job over the pages of a body. -/
def startJob (unmap : Bool) (s : State) (d : Desc) : State :=
  let n := fld d.image 0x18 4
  let s := updDesc s d.queue d.tag (fun d => { d with started := true })
  let j : TierJob := ⟨d.queue, d.tag, unmap, fld d.image 0x10 8, n, 0, 0⟩
  runJob { s with tierJobs := s.tierJobs ++ [j] } d.queue d.tag (n + 1)

/-- TM_UNMAP (R325, R622). -/
def execTmUnmap (q tag : Nat) (s : State) : Host.Outcome State Fault Refusal :=
  .next (runTier s q tag (fun i => opcode i == 0x89) pageChecks (startJob true))

/-- TM_MOVE (R330, R334, R335, R346). -/
def execTmMove (q tag : Nat) (s : State) : Host.Outcome State Fault Refusal :=
  .next (runTier s q tag (fun i => opcode i == 0x8A) pageChecks (startJob false))

/-! ## TM_PIN and TM_QUERY -/

/-- Set or clear the host pin of a body's regions (R332). -/
def runPin (set : Bool) (s : State) (d : Desc) : State :=
  let ps := pagesFrom s d.fn (fld d.image 0x18 4) (fld d.image 0x10 8)
  let s := ps.foldl (fun s x =>
    match x.2 with
    | some p => setHome s p.backing { getHome s p.backing with hostPin := set }
    | none => s) s
  endOp s d DONE (seqStation d) (tierDetail ps.length 0)

/-- TM_PIN op 1 (R332); a reserved op is refused (R345). -/
def execTmPinSet (q tag : Nat) (s : State) : Host.Outcome State Fault Refusal :=
  .next (runTier s q tag (fun i => opcode i == 0x8B && fld i 0x1C 1 != 0) pageChecks (runPin true))

/-- TM_PIN op 0 (R332). -/
def execTmPinClear (q tag : Nat) (s : State) : Host.Outcome State Fault Refusal :=
  .next (runTier s q tag (fun i => opcode i == 0x8B && fld i 0x1C 1 == 0) pageChecks (runPin false))

/-- Module physical address that a translation word shows (R623): 0 for a region in flash. -/
def wordAddr (s : State) (p : Page) : Nat :=
  match p.kind with
  | 0 => p.backing
  | 1 => p.backing * 65536
  | 2 => let h := getHome s p.backing
         if h.tier = 2 then 0 else locAddr h.tier h.location
  | _ => p.backing

/-- The translation word of a page (R623). -/
def transWord (s : State) (p : Page) : Nat :=
  1 + 2 * p.kind + 8 * b2n p.large + 16 * b2n p.write + 32 * b2n p.nopf + wordAddr s p / 4096 * 4096

/-- Requests that wait on a record (R328). -/
def waitingOn (s : State) (r : Nat) : Nat := (s.moves.filter (fun m => m.record == r && !m.copying)).length

/-- The 16-byte image of a home record (R328). -/
def recordImage (s : State) (r : Nat) : Bytes :=
  let h := getHome s r
  toLe 1 h.state ++ toLe 1 h.tier ++ toLe 1 h.owner ++
    toLe 1 (h.prio + 16 * b2n h.slower + 32 * b2n h.changed) ++
    toLe 4 h.location ++ toLe 2 h.readers ++ toLe 1 (b2n h.hostPin + 2 * b2n (settling s h) + 4) ++
    toLe 1 (sat 255 (waitingOn s r)) ++ toLe 2 h.age ++ toLe 2 h.moved

/-- The 32 bytes that TM_QUERY writes for a page (R343, R622). -/
def queryRecord (s : State) (x : Option Page) : Bytes :=
  match x with
  | none => toLe 32 0
  | some p => toLe 8 (transWord s p) ++ (if p.kind = 2 then recordImage s p.backing else toLe 16 0) ++ toLe 8 0

/-- A mover writes what the tier manager gives it (R627). -/
def runMover (s : State) (d : Desc) (ws : List JobWrite) : State :=
  issueAll s d.queue d.tag [.of (pickMover s (qDie d.queue)) (.writes 0 ws)]

/-- Writes of bytes in tiles of at most 64 KiB. -/
def bytesOut (va : Nat) (bs : Bytes) : List JobWrite :=
  (List.range (ceilDiv bs.length 65536)).map (fun i => rawWrite (va + i * 65536) ((bs.drop (i * 65536)).take 65536) 0 i)

/-- TM_QUERY (R343, R622, R623): a mover writes the records (R627). -/
def execTmQuery (q tag : Nat) (s : State) : Host.Outcome State Fault Refusal :=
  .next (runTier s q tag (fun i => opcode i == 0x8C) pageChecks (fun s d =>
    let ps := pagesFrom s d.fn (fld d.image 0x18 4) (fld d.image 0x10 8)
    let ws := ps.zipIdx.map (fun x => rawWrite (fld d.image 0x20 8 + 32 * x.2) (queryRecord s x.1.2) 0 x.2)
    runMover (setDetail s q tag (tierDetail ps.length 0)) d ws))

/-! ## TM_OBJ (R347-R349) -/

/-- Body checks of TM_OBJ (R345, R347): a field that the op does not use is zero. -/
def objChecks (s : State) (d : Desc) : List (Nat × Bool) :=
  let img := d.image
  let va := fld img 0x10 8
  let len := fld img 0x20 8
  let off := fld img 0x28 8
  let op := fld img 0x30 1
  [(1, decide (va ≥ 2 ^ 52) || (op != 2 && va % 64 != 0) || !zeroAt img 0x31 15 || (op != 1 && off != 0) ||
     (op == 2 && va != 0) || (decide (op ≥ 2) && len != 0)),
   (2, decide (op ≤ 1) && decide (va + len > 2 ^ 52)),
   (5, !hasTable s d.fn),
   (7, fld img 0x18 8 == 0 || decide (op > 3) ||
     (decide (op ≤ 1) && (len % 4096 != 0 || len == 0 || decide (len > 2 ^ 40))) || off % 4096 != 0)]

/-- The object of a function with a key (R347). -/
def findObj (s : State) (fn key : Nat) : Option FlashObj := s.objects.find? (fun o => o.fn == fn && o.key == key)

/-- Objects without one. -/
def dropObj (s : State) (fn key : Nat) : List FlashObj := s.objects.filter (fun o => !(o.fn == fn && o.key == key))

/-- Free user flash of the module, in 2 MiB units, on the M dies whose flash takes new data (R37, R318, R349). -/
def moduleFlash (s : State) : Nat :=
  ((([24, 25, 26, 27, 28, 29, 30, 31] : List Nat).filter (flashUsable s)).map (flashFree s)).foldl (· + ·) 0

/-- A range of an object has a piece of 2 MiB on a fenced M die: it is lost with the die (R37, R349; log entry 126). -/
def lostPieces (s : State) (off len : Nat) : Bool :=
  (List.range 8).any (fun k => dieFenced s (24 + k) &&
    (List.range (ceilDiv (off % region + len) region)).any (fun i => (off / region + i) % 8 == k))

/-- Run one op of TM_OBJ. -/
def runObj (op : Nat) (eff : State → Desc → State) (q tag : Nat) (s : State) : State :=
  runTier s q tag (fun i => opcode i == 0x8D && (if op = 0 then fld i 0x30 1 == 0 || decide (fld i 0x30 1 > 3) else fld i 0x30 1 == op))
    objChecks eff

/-- TM_OBJ op 0, put: the object is replaced whole, or stays as it was (R348, R349). -/
def execTmObjPut (q tag : Nat) (s : State) : Host.Outcome State Fault Refusal :=
  .next (runObj 0 (fun s d =>
    let img := d.image
    let key := fld img 0x18 8
    let len := fld img 0x20 8
    let (bs, cause) := jobRead s d.fn (fld img 0x10 8) len
    let old := ((findObj s d.fn key).map (fun o => ceilDiv o.data.length region)).getD 0
    if cause ≠ 0 then endOp s d (causeStatus cause) (pickMover s (qDie q)) []
    else if ceilDiv len region > moduleFlash s + old then endOp s d TIER_FULL (seqStation d) []
    else
      let o : FlashObj := ⟨d.fn, key, now s, bs⟩
      let s := touchRead s d.fn (fld img 0x10 8) len
      let s := ([24, 25, 26, 27, 28, 29, 30, 31] : List Nat).foldl wearFlash { s with objects := dropObj s d.fn key ++ [o] }
      endOp s d DONE (seqStation d) (tierDetail (len / 4096) 0)) q tag s)

/-- TM_OBJ op 1, get (R348): past the object's end nothing is written. -/
def execTmObjGet (q tag : Nat) (s : State) : Host.Outcome State Fault Refusal :=
  .next (runObj 1 (fun s d =>
    let img := d.image
    let len := fld img 0x20 8
    let off := fld img 0x28 8
    match findObj s d.fn (fld img 0x18 8) with
    | none => endOp s d OBJ_ABSENT (seqStation d) []
    | some o =>
      if off + len > o.data.length then endOp s d OBJ_ABSENT (seqStation d) []
      else
        if lostPieces s off len then endOp s d FENCED (pickMover s (qDie q)) []
        else runMover (setDetail s q tag (tierDetail (len / 4096) 0)) d (bytesOut (fld img 0x10 8) ((o.data.drop off).take len))) q tag s)

/-- TM_OBJ op 2, delete (R348). -/
def execTmObjDelete (q tag : Nat) (s : State) : Host.Outcome State Fault Refusal :=
  .next (runObj 2 (fun s d =>
    let key := fld d.image 0x18 8
    match findObj s d.fn key with
    | none => endOp s d OBJ_ABSENT (seqStation d) []
    | some _ => endOp { s with objects := dropObj s d.fn key } d DONE (seqStation d) (tierDetail 0 0)) q tag s)

/-- TM_OBJ op 3, stat (R347, R348). -/
def execTmObjStat (q tag : Nat) (s : State) : Host.Outcome State Fault Refusal :=
  .next (runObj 3 (fun s d =>
    match findObj s d.fn (fld d.image 0x18 8) with
    | none => endOp s d OBJ_ABSENT (seqStation d) []
    | some o =>
      runMover (setDetail s q tag (tierDetail 0 0)) d [rawWrite (fld d.image 0x10 8) (toLe 8 o.data.length ++ toLe 8 o.tick) 0 0])
    q tag s)

/-! ## The end of moves, policy, failures -/

/-- The move in progress of a record. -/
def moveOf (s : State) (r : Nat) : Option Move := s.moves.find? (fun m => m.record == r && m.copying)

/-- A move that is copying goes on by up to `n` chunks, and lands once its copy is complete (R330). -/
def goOn (s : State) (m : Move) (n : Nat) : State :=
  let s := copyChunks m.record n (updMove s m.record (turnPass s))
  match moveOf s m.record with
  | none => s
  | some m => if copyOver s m then finishMove (landMove s m) m DONE else s

/-- MOVE_COPY_DONE (R330, R341): the copy of a move has got `chunks` chunks further, which ends it once its passes and its final phase are
through; or its source or destination has failed, which is recorded (R510). -/
def execMoveCopyDone (rec chunks : Nat) (result : CopyResult) (s : State) : Host.Outcome State Fault Refusal :=
  .next (match moveOf s rec with
    | none => s
    | some m =>
      let h := getHome s rec
      if result = .sourceFailed || h.state == 3 then settle (failMove (noteCopy s (result != .sourceFailed) (locAddr h.tier h.location)) m true TIER_ERROR)
      else if result = .targetFailed then settle (failMove (logTier s (locAddr m.tier m.location)) m false TIER_ERROR)
      else if destLost s m then settle (failMove s m false FENCED)
      else settle (goOn s m chunks))

/-- MOVE_SOURCE_RELEASE (R330 step 8): a move's source is released once no request issued against it is in flight. -/
def execMoveSourceRelease (rec : Nat) (s : State) : Host.Outcome State Fault Refusal :=
  .next (fenceEmptied { s with
    releases := delFirst (fun x => x.record == rec && !issuedOn s (locAddr x.tier x.location)) s.releases })

/-- A region is managed-capable and free for some function (R336). -/
def anyFree (s : State) (r : Nat) : Bool :=
  match ownerOf (getF s F.TM_GRAN_OWN_OWNER f0 (r / 512)) with
  | some f => hbmFree s f r
  | none => false

/-- Free managed-capable regions of a compute die's stacks (R336). -/
def freeHbm (s : State) (die : Nat) : Nat :=
  ((List.range 98304).filter (fun i => anyFree s (die * 98304 + i))).length

/-- Free managed-capable far regions of an M die (R336). -/
def freeFar (s : State) (m : Nat) : Nat :=
  let n := farRange s / region
  ((List.range n).filter (fun i =>
    let r := (m - 24) * n + i
    match ownerOf (getF s F.TM_FGRAN_OWN_OWNER f0 (r / 512)) with
    | some f => farFree s f r
    | none => false)).length

/-- Age distance of a record (R337). -/
def ageOf (s : State) (h : HomeRec) : Nat := (now s / 2 ^ 20 % 2 ^ 16 + 2 ^ 16 - h.age) % 2 ^ 16

/-- The candidate a policy demotion takes: the greatest age distance, then the lowest location (R335, R337). -/
def policyPick (s : State) (p : HomeRec → Bool) : Option Nat :=
  let ok := s.homes.filter (fun x =>
    p x.2 && x.2.state == 0 && x.2.readers == 0 && !x.2.hostPin && !settling s x.2 && !moving s x.1)
  (ok.foldl (fun acc x =>
    match acc with
    | none => some x
    | some a =>
      if ageOf s x.2 > ageOf s a.2 ∨ (ageOf s x.2 = ageOf s a.2 ∧ x.2.location < a.2.location) then some x
      else some a) (none : Option (Nat × HomeRec))).map (·.1)

/-- Policy moves in progress on an M die (R337): requested by nobody, at priority 0. -/
def policyMoves (s : State) (m : Nat) : Nat :=
  (s.moves.filter (fun x => homeM x.record == m && x.asker.isNone && x.origin == 0 && x.prio == 0 && x.copying)).length

/-- Demote one region to a tier or the next slower one that has room (R336, R337). -/
def policyMove (s : State) (m r tier : Nat) : State :=
  let h := getHome s r
  match (([1, 2] : List Nat).filter (fun t => decide (tier ≤ t) && decide (h.tier < t))).find? (fun t =>
      tierUsable s t h.home && (placeIn s h.owner t h.home).isSome) with
  | some t => requestMove s (.ask r t h.home 0 none 0)
  | none => addF s F.TM_CNT_FULL_FULL m 0 1

/-- One source of the policy: index 0 and 1 the stacks of the M die's compute dies, 2 its far memory. -/
def policyOne (s : State) (m j : Nat) : State :=
  let die := 2 * (m - 24) + j
  let free := if j = 2 then freeFar s m else freeHbm s die
  let low := 16 * (if j = 2 then getF s F.TM_WM_FAR_LOW m else getF s F.TM_WM_HBM_LOW m j)
  let high := 16 * (if j = 2 then getF s F.TM_WM_FAR_HIGH m else getF s F.TM_WM_HBM_HIGH m j)
  let k := 4 * (m - 24) + j
  let on := decide (free < low) || (tgetD s.policyOn k 0 == 1 && decide (free < high))
  let s := { s with policyOn := tput s.policyOn k (b2n on) 0 }
  if !on || decide (policyMoves s m ≥ 4) then s
  else
    let here (h : HomeRec) : Bool := if j = 2 then h.tier == 1 && atTarget s 1 h.location (2 * (m - 24)) else h.tier == 0 && h.location / 98304 == die
    match policyPick s here with
    | none => s
    | some r =>
      let t :=
        if j = 2 then 2
        else
          match getF s F.TM_CFG_DEMOTE m with
          | 0 => 1
          | 1 => 2
          | _ => if (getHome s r).prio ≥ getF s F.TM_CFG_FAR_PRIO m then 1 else 2
      policyMove s m r t

/-- POLICY_DEMOTE (R336, R337): the tier manager of an M die demotes at most one region of each of its three sources. -/
def execPolicyDemote (mdie : Nat) (s : State) : Host.Outcome State Fault Refusal :=
  .next (if isMem mdie && !dieFenced s mdie then
      ([0, 1, 2] : List Nat).foldl (fun s j => policyOne s mdie j) s
    else s)

/-- FAR_DEVICE_FAIL (R342): every far region and far page of the M die becomes LOST and its far tier is fenced; moves that
copy from or to it fail (R341), and the failure is recorded (R510). -/
def execFarDeviceFail (mdie _dev : Nat) (s : State) : Host.Outcome State Fault Refusal :=
  .next (if !isMem mdie || !flag s F.TM_STATE_FAR_OK mdie then s
    else
      let s := logRec (setF s F.TM_STATE_FAR_OK mdie 0 0) 1 mdie 0xFF 4 0 0
      let here (l : Nat) : Bool := l / (farRange s / region) == mdie - 24
      let lost := s.homes.filter (fun p => p.2.tier == 1 && here p.2.location && p.2.state != 3)
      let s := lost.foldl (fun s p => loseRegion s p.1) s
      let out := s.moves.filter (fun m => m.copying && (lost.any (fun p => p.1 == m.record)))
      let s := out.foldl (fun s m => failMove s m true TIER_ERROR) s
      let into := s.moves.filter (fun m => m.copying && m.tier == 1 && here m.location)
      showLevel (settle (loseFarPages (into.foldl (fun s m => failMove s m false TIER_ERROR) s) (mdie - 24))))

end Sys2Proof.Machine
end

