-- ==== Sys2Proof/Machine/Fences.lean ====
section
/-! DEFINITION. Fences of stations, dies and stacks, and the service level of the module (R37-R39, R65, R68, R104, R280, R342,
R385, R481, R514-R516, R554). -/

namespace Sys2Proof.Machine

open Sys2Proof

/-! ## Stations (R68, R514) -/

/-- A fence is logged and reported by a kind-3 notice: the die, its station bits (0 for the die itself), the cause (R510, R514,
R519). DESIGN CHOICE (log entry 130): where F0 and F4 are both fenced, the kind-3 notices of the two fences are the report that R38 asks
for; no rule names another. -/
def noteFence (s : State) (cls die unit cause : Nat) : State :=
  let st := if cls = 3 then 0 else getF s F.MGT_FENCE_STATIONS die
  floodNotice (logRec s cls die unit cause 0 0) 3 (myId s) 0 (die + 32 * st) cause

/-- End one micro-command of a fenced station, and with it its program (R68). -/
def endMicro (s : State) (st : Nat) (m : Micro) : State :=
  match descOf s m.queue m.tag with
  | some d => maybeComplete (fenceProgram s d st m.idx) m.queue m.tag
  | none => s

/-- Descriptors of a die whose call a fence of a station ends, whatever is left of it: SL_GEMM for SL, VX and the matrix stations (R161),
and a program that waits to push its next micro-command there (R68). -/
def fencedCall (die st : Nat) (d : Desc) : Bool :=
  qDie d.queue == die && decide (d.seqr < 4) && d.started && d.override.isNone &&
    (pushesTo die st d || (opcode d.image == 0x20 && ([0x00, 0x01, 0x02, 0x03, 0x10, 0x1A] : List Nat).contains st))

/-- Every micro-command in a station's FIFO and of those that wait for room ends with FENCED; a mover's requests and filled slots are gone
(R68). -/
def endStation (s : State) (die st : Nat) : State :=
  let k := fifoKey die st
  let ms := fifo s die st ++ tgetD s.overs k []
  let s := setFifo { s with overs := tdel s.overs k, reqs := tdel s.reqs k,
                            slots := s.slots.filter (fun x => !(x.die == die && x.mover == st)) } die st []
  let s := ms.foldl (fun s m => endMicro s st m) s
  (s.descs.filter (fencedCall die st)).foldl (fun s d => maybeComplete (fenceProgram s d st d.issued) d.queue d.tag) s

/-- The paged calls of a die end with FENCED: they have no page walker (R68, R260). -/
def endPaged (s : State) (die : Nat) : State :=
  (s.rings.filter (fun r => r.call.die == die && At.paged r.call)).foldl (fun s r => 
    match descOf s r.queue r.tag with
    | some d => maybeComplete (fenceProgram s d 0x0C d.issued) r.queue r.tag
    | none => s) s

/-- The page walker of a die is fenced: walks, remaps and rebuilds end, and every edit ends with FENCED (R68, R280). -/
def endPages (s : State) (die : Nat) : State :=
  let s := endPaged s die
  let s := (s.walks.filter (fun w => w.die == die)).foldl dropWalk { s with walkq := s.walkq.filter (fun w => !(w.1 == die)) }
  let clear (x : SeqRec) : SeqRec := { x with current := none, waiting := [] }
  let seqs := s.seqs.map (fun p => if p.1 / 4096 = die then (p.1, clear p.2) else p)
  let rs := s.remaps.filter (fun r => r.die == die)
  let s := { s with seqs := seqs, remaps := s.remaps.filter (fun r => !(r.die == die)), rebuilds := tdel s.rebuilds die }
  let s := rs.foldl (fun s r =>
    releaseTarget (if remapLive s r then updRemapEnt s r (fun e => { e with moving := false }) else s) r) s
  let s := setF s F.PG_STATE_REBUILD die 0 0
  showPg ((fifo s die pgStation).foldl (fun s m => endPg s m.queue m.tag FENCED 0x0C []) s) die

/-- The Reduce station of a die is fenced: its calls do not contribute, and what it holds ends with FENCED (R68, R432). -/
def endCalls (s : State) (die : Nat) : State :=
  let s := (s.calls.filter (fun c => c.die == die)).foldl (fun s c => abandonCall s c FENCED) s
  let s := (fifo s die rdStation).foldl (fun s m => freeRd s m.queue m.tag FENCED 0x20 [] (fun _ => true)) s
  { s with serves := s.serves.filter (fun x => !(x.die == die)), lates := s.lates.filter (fun x => !(x.die == die)) }

/-- The state register of a station shows the fence (R140, R163, R250, R376). -/
def showFenced (s : State) (die st : Nat) : State :=
  if st < 4 then setF s F.MX_STATE_ISSUE die st 3
  else if st = 0x08 ∨ st = 0x09 then setF s F.AT_STATE_ISSUE die (st - 8) 3
  else if st = 0x1A then setF s F.SL_STATE_PHASE die 0 3
  else if st ≥ 0x28 then setF s F.MV_STATE_FENCED die (st - 0x28) 1
  else s

/-- Fence a station (R68, R514): what it holds ends with FENCED, its bit is set until cold reset, a kind-3 notice is sent. -/
def fenceStation (s : State) (die st cause : Nat) : State :=
  match stBit st with
  | none => s
  | some b =>
    if stFenced s die st then s
    else
      let s := if st = 0x20 then endCalls s die else s
      let v := getF s F.MGT_FENCE_STATIONS die
      let s := setF (setF s F.MGT_FENCE_STATIONS die 0 (v ||| 2 ^ b)) F.MGT_FENCE_CAUSE die 0 cause
      let s := if st = 0x0C then endPages s die else s
      let s := if st = 0x19 then countSamples { s with samples := s.samples.filter (fun x => !(qDie x.queue == die)) } die else s
      showLevel (noteFence (runRings (settle (showFenced (endStation s die st) die st))) 2 die st cause)

/-! ## Regions of stacks and memory dies (R280, R341, R342, R481) -/

/-- Regions whose location satisfies a test become LOST; moves that copy from or to such a place fail (R341, R342). -/
def loseRegions (s : State) (here : Nat → Nat → Bool) : State :=
  let lost := s.homes.filter (fun p => here p.2.tier p.2.location && p.2.state != 3)
  let s := lost.foldl (fun s p => loseRegion s p.1) s
  let out := s.moves.filter (fun m => m.copying && lost.any (fun p => p.1 == m.record))
  let s := out.foldl (fun s m => failMove s m true TIER_ERROR) s
  let into := s.moves.filter (fun m => m.copying && here m.tier m.location)
  into.foldl (fun s m => failMove s m false FENCED) s

/-- Page Map entries of every die whose page lies in a lost HBM region are marked lost (R280). -/
def losePages (s : State) (here : Nat → Bool) : State :=
  let mark (e : PEntry) : PEntry := if e.valid && e.tier == 0 && here e.region then { e with lost := true } else e
  { s with pmap := s.pmap.map (fun p => (p.1, mark p.2)) }

/-- The content of one stack is lost (R342, R481). -/
def loseStack (s : State) (n : Nat) : State :=
  let s := { s with stackState := tput s.stackState n 1 0, drains := tdel s.drains n, hotStep := tdel s.hotStep n }
  losePages (loseRegions s (fun t l => t == 0 && l / 49152 == n)) (fun r => r / 49152 == n)

/-- Fence a stack that has lost its content, at once (R481, R504): logged, and a kind-7 notice sent with the code given. -/
def fenceStack (s : State) (n cause code : Nat) : State :=
  if tgetD s.stackState n 0 = 1 then s
  else
    let s := logRec (loseStack s n) 2 (n / 2) (0x40 + n) cause 0 0
    showLevel (settle (if code = 0 then s else floodNotice s 7 (myId s) 0 n code))

/-! ## Links inside the package (R22, R23, R385) -/

/-- The dies that an in-package link joins to a die (R22, R23). -/
def linkedTo (die : Nat) : List Nat :=
  if isComp die then
    let x := die % 4
    let y := die / 4
    [4 * y + (x + 1) % 4, 4 * y + (x + 3) % 4, 4 * ((y + 1) % 4) + x, 4 * ((y + 3) % 4) + x, 16 + die / 2, 24 + die / 2]
  else [die % 8 * 2, die % 8 * 2 + 1]

/-- Key of a link. -/
def linkKey (a b : Nat) : Nat := min a b * 32 + max a b

/-- A link is LOST (R385). -/
def linkLost (s : State) (a b : Nat) : Bool := (tget? s.links (linkKey a b)).isSome

/-- Every link of a die is LOST (R515). -/
def cutOff (s : State) (die : Nat) : Bool := (linkedTo die).all (linkLost s die)

/-! ## Dies (R37, R104, R515) -/

/-- Own flows toward a fenced die of this module end with FENCED (R398). -/
def failFlowsTo (s : State) (m dd : Nat) : State :=
  let hit := s.txFlows.filter (fun p => (flowTx p.1).dstModule == m && (flowTx p.1).dstDie == dd)
  hit.foldl (fun s p => (p.2.unacked ++ p.2.waiting).foldl (fun s x => failMicro s x.queue x.tag x.idx FENCED) s) s

/-- The queues of a compute die stop (R104). -/
def stopQueues (s : State) (die : Nat) : State :=
  let qs := (List.range 4096).map (· + 4096 * die)
  let s := { s with qints := s.qints.filter (fun p => !(qDie p.1 == die)) }
  qs.foldl (fun s q => setQEnable (setQState s q 0) q 0) s

/-- Everything a compute die has under way is gone (R37, R104): its stations, walks, calls, schedules, flows and what is held for
it; every admitted descriptor completes with FENCED. -/
def endDie (s : State) (die : Nat) : State :=
  let mine (p : Nat) : Bool := p / 64 == die
  let seq (p : Nat × SeqRec) : Nat × SeqRec := if p.1 / 4096 = die then (p.1, { p.2 with current := none, waiting := [] }) else p
  let sent (p : Nat × TxFlow) : Bool := (flowTx p.1).srcDie == die && (flowTx p.1).srcModule == myId s
  let rcvd (p : Nat × RxFlow) : Bool := flowDie p.1 == die
  let flowing (w : Waiting) : Bool := w.tx.srcModule == myId s && w.tx.srcDie == die
  let heldOf : Held → Nat
    | .sig d _ _ => d
    | .bell d _ _ _ _ => d
    | .tx d _ => d
  let fifos := s.fifos.filter (fun p => !mine p.1)
  let overs := s.overs.filter (fun p => !mine p.1)
  let reqs := s.reqs.filter (fun p => !mine p.1)
  let walkq := s.walkq.filter (fun w => !(w.1 == die))
  let asks (m : Move) : Bool := !m.copying && (m.asker.map (fun a => qDie a.1)) == some die
  let moves := s.moves.filter (fun m => !asks m)
  let jobs := s.tierJobs.filter (fun j => !(qDie j.queue == die))
  let opWaits := s.opWaits.filter (fun w => !(qDie w.1 == die))
  let walks := s.walks.filter (fun w => !(w.die == die))
  let remaps := s.remaps.filter (fun r => !(r.die == die))
  let detail (d : Desc) : Bytes :=
    match s.scheds.find? (fun p => p.2.queue == d.queue && p.2.tag == d.tag) with
    | some p => runDetail 0 p.2.lastDone (runFlags p.2)
    | none => []
  let seqs := s.seqs.map seq
  let rings := s.rings.filter (fun r => !(r.call.die == die))
  let scheds := s.scheds.filter (fun p => !(p.1 / 4 == die))
  let calls := s.calls.filter (fun c => !(c.die == die))
  let notes := s.notes.filter (fun p => !(p.1 == die))
  let lates := s.lates.filter (fun x => !(x.die == die))
  let serves := s.serves.filter (fun x => !(x.die == die))
  let streams := s.streams.filter (fun p => !(p.1 / 1024 == die))
  let slots := s.slots.filter (fun x => !(x.die == die))
  let samples := s.samples.filter (fun x => !(qDie x.queue == die))
  let txFlows := s.txFlows.filter (fun p => !sent p)
  let rxFlows := s.rxFlows.filter (fun p => !rcvd p)
  let waits := s.waits.filter (fun w => !flowing w)
  let mcSends := s.mcSends.filter (fun m => !(m.die == die))
  let mcRecvs := s.mcRecvs.filter (fun r => !(r.die == die))
  let held := s.held.filter (fun h => !(heldOf h == die))
  let laneDone := s.laneDone.filter (fun p => !(qDie p.1 == die))
  let modes := s.modes.filter (fun p => !(p.1 / 4 == die))
  let s := { s with
    fifos := fifos, overs := overs, reqs := reqs, walkq := walkq, moves := moves, tierJobs := jobs, opWaits := opWaits, walks := walks,
    remaps := remaps, seqs := seqs, rebuilds := tdel s.rebuilds die, rings := rings,
    scheds := scheds, calls := calls, notes := notes, lates := lates, serves := serves, streams := streams, slots := slots,
    samples := samples, txFlows := txFlows, rxFlows := rxFlows, waits := waits, mcSends := mcSends, mcRecvs := mcRecvs,
    held := held, laneDone := laneDone, modes := modes, psAt := tdel s.psAt die, psWake := tdel s.psWake die }
  let s := stopQueues s die
  (s.descs.filter (fun d => qDie d.queue == die && d.seqr != 5)).foldl
    (fun s d => completeDesc s d FENCED (seqStation d) (detail d) 0) s

/-- A fenced compute die: its work ends, what its stacks hold is lost, it leaves the service level (R37, R104, R280, R342). -/
def fenceComp (s : State) (die : Nat) : State :=
  let s := endDie s die
  let s := [F.MGT_SVC_DIES_LIMITED, F.MGT_SVC_DIES_FULL].foldl (fun s f =>
    if bit (getF s f f0) die then setF s f f0 0 (getF s f f0 - 2 ^ die) else s) s
  losePages (loseRegions s (fun t l => t == 0 && l / 98304 == die)) (fun r => r / 98304 == die)

/-- The host port of a fabric die, if it has one (R24). -/
def hostPortOf (die : Nat) : Option Nat := if isFab die && die % 2 == 0 then some ((die - 16) / 2) else none

/-- A fenced fabric die: its ports are FENCED and what they held takes other ports; its host port goes down, and its storage port is gone
(R24, R37); F4 manages after F0 (R37, R38, R104, R408). -/
def fenceFab (s : State) (die : Nat) : State :=
  let ports := (List.range 6).map (portOn die)
  let s := ports.foldl (fun s p => pruneLost (resendReplay (setPortState s p 5) p) p) s
  let s := { s with waits := s.waits.filter (fun w => !(w.fdie == die)), remargin := s.remargin.filter (fun p => !(portDie p == die)) }
  let s := match hostPortOf die with
    | some h => if (tget? s.linkDown h).isSome then s else linkGoesDown s h
    | none => s
  if die = 16 ∧ !dieFenced s 20 then setF s F.MGT_SVC_MANAGER f0 0 1 else s

/-- A fenced memory die: its far and flash tiers are gone, and with them every local snapshot image, which is striped over all eight
(R37, R342, R531). -/
def fenceMem (s : State) (die : Nat) : State :=
  let k := die - 24
  let s := setF (setF s F.TM_STATE_FAR_OK die 0 0) F.TM_STATE_FLASH_OK die 0 0
  let here (t l : Nat) : Bool := (t == 1 && l / (farRange s / region) == k) || (t == 2 && l / 2 ^ 29 == k)
  let s := loseFarPages (loseRegions s here) k
  let sets := s.sets.map (fun p => (p.1, { p.2 with genL := none }))
  { s with images := s.images.filter (fun p => !(p.1 / 8 == 1)), sets := sets }

/-- The module has become failed, under R38 or R39: a class-4 record is written (R510). -/
def noteFailed (before : Bool) (s : State) : State :=
  if !before && getF s F.MGT_SVC_LEVEL f0 == 4 then logModule s 0 else s

/-- Fence one die (R515). -/
def fenceOne (s : State) (die cause : Nat) : State :=
  let failed := getF s F.MGT_SVC_LEVEL f0 == 4
  let s := setF (setF s F.MGT_FENCE_DIE die 0 1) F.MGT_FENCE_CAUSE die 0 cause
  let links := (linkedTo die).foldl (fun t b => tins t (linkKey die b) 1) s.links
  let s := { s with links := links, bists := tdel s.bists die, margins := tdel s.margins die,
                    heldWrites := s.heldWrites.filter (fun w => !(w.die == die)) }
  let s := if isComp die then fenceComp s die else if isFab die then fenceFab s die else fenceMem s die
  let s := failFlowsTo s (myId s) die
  noteFailed failed (showLevel (noteFence (runRings (settle (retryWaits s))) 3 die 0xFF cause))

/-- Fence every unfenced die that has lost all its links (R515); `fuel` bounds them. -/
def fenceCut : Nat → State → State
  | 0, s => s
  | fuel + 1, s =>
    match (List.range 32).find? (fun d => !dieFenced s d && cutOff s d) with
    | some d => fenceCut fuel (fenceOne s d 6)
    | none => s

/-- Fence a die (R515): permanent until cold reset; a neighbour that has lost its last link follows. -/
def fenceDie (s : State) (die cause : Nat) : State := if dieFenced s die then s else fenceCut 32 (fenceOne s die cause)

/-! ## Commands -/

/-- PROGRESS_TIMEOUT (R514): the micro-command at the head of a busy station's FIFO has made no progress for 10 ms. -/
def execProgressTimeout (die st : Nat) (s : State) : Host.Outcome State Fault Refusal :=
  .next (if isComp die && stations.contains st && !(fifo s die st).isEmpty then fenceStation s die st 2 else s)

/-- STATION_FENCE (R514): errors (cause 1) or a management command (cause 3). -/
def execStationFence (die st cause : Nat) (s : State) : Host.Outcome State Fault Refusal :=
  .next (if isComp die then fenceStation s die st cause else s)

/-- DIE_FENCE (R515). -/
def execDieFence (die cause : Nat) (s : State) : Host.Outcome State Fault Refusal :=
  .next (if die < 32 then fenceDie s die cause else s)

/-- IN_PACKAGE_LINK_LOST (R385, R515): every UCIe module of the link between two dies has failed. -/
def execInPackageLinkLost (a b : Nat) (s : State) : Host.Outcome State Fault Refusal :=
  .next (if a < 32 ∧ (linkedTo a).contains b then fenceCut 32 { s with links := tins s.links (linkKey a b) 1 } else s)

end Sys2Proof.Machine
end

