-- ==== Sys2Proof/Machine/Drain.lean ====
section
/-! DEFINITION. The drain of an HBM stack (R280, R329, R480, R513, R582). -/

namespace Sys2Proof.Machine

open Sys2Proof

/-- The torus neighbours of a compute die in ascending order (R22, R480). -/
def neighbours (die : Nat) : List Nat := (List.range 16).filter (fun d => d != die && ((linkedTo die).take 4).contains d)

/-- The stacks that a drain of stack `n` tries, in order: the die's other stack, then the stacks of its torus neighbours (R480). -/
def drainStacks (n : Nat) : List Nat :=
  (if n % 2 = 0 then n + 1 else n - 1) :: (neighbours (n / 2)).flatMap (fun d => [2 * d, 2 * d + 1])

/-- A stack takes what a drain moves: its die is not fenced, in service, neither critical nor itself drained. -/
def takesDrain (s : State) (t : Nat) : Bool := !dieFenced s (t / 2) && tgetD s.stackState t 0 == 0 && stackLevel s t != 3 && tgetD s.drains t 0 == 0

/-- A free region for a managed region of `fn` among the stacks of a drain (R324, R480). -/
def drainPlace (s : State) (fn n : Nat) : Option Nat :=
  ((drainStacks n).filter (takesDrain s)).findSome? (fun t => searchUp (hbmFree s fn) 49152 (t * 49152))

/-- Move one managed region off a stack at priority 8 (R480): pins and settle times do not stop it. -/
def drainRecord (s : State) (n r : Nat) : State :=
  let h := getHome s r
  match drainPlace s h.owner n with
  | none => s
  | some l =>
    let s := setHome s r { h with state := 2 }
    { s with moves := s.moves ++ [(Move.ask r 0 (l / 98304) 8 none 0).begin_ l] }

/-- A free region for a page among the KV pools of the dies of a drain's stacks (R259, R480). -/
def drainPool (s : State) (n : Nat) : Option Nat :=
  ((drainStacks n).filter (fun t => takesDrain s t && getF s F.PG_SHARED_FREE_FREE (t / 2) != 0)).findSome? (fun t =>
    let d := t / 2
    searchUp (fun r => r / 49152 == t && poolFree s r) (getF s F.PG_KV_COUNT_COUNT d) (getF s F.PG_KV_BASE_BASE d))

/-- Remap one page off a stack (R263, R280). -/
def drainPage (s : State) (n seq i : Nat) : State :=
  match drainPool s n with
  | none => s
  | some r =>
    let d := r / 98304
    startRemap (setF s F.PG_SHARED_FREE_FREE d 0 (getF s F.PG_SHARED_FREE_FREE d - 1)) seq i 0 r 3 0 0

/-- Managed regions on a stack that no move takes yet. -/
def toDrain (s : State) (n : Nat) : List Nat :=
  (s.homes.filter (fun p => p.2.tier == 0 && p.2.location / 49152 == n && p.2.state != 3 && !moving s p.1)).map (·.1)

/-- Sequence pages on a stack that no remap takes yet. -/
def pagesToDrain (s : State) (n : Nat) : List (Nat × Nat) :=
  s.seqs.flatMap (fun p => ((List.range p.2.span).filter (fun i =>
    let e := pageEnt s p.1 p.2 i
    e.valid && e.tier == 0 && e.region / 49152 == n && !e.lost && !e.moving)).map (fun i => (p.1, i)))

/-- Drain a stack as far as places are free (R480). -/
def drainStack (s : State) (n : Nat) : State :=
  let s := (toDrain s n).foldl (fun s r => drainRecord s n r) s
  (pagesToDrain s n).foldl (fun s p => drainPage s n p.1 p.2) s

/-- Fixed or interleaved pages map onto a stack (R322, R480). -/
def pinnedPages (s : State) (n : Nat) : Bool :=
  s.pages.any (fun p => p.2.kind % 8 == 1 || (p.2.kind % 8 == 0 && p.2.backing / stackBytes == n))

/-- A region or page of the stack found no place (R480). -/
def stranded (s : State) (n : Nat) : Bool := !(toDrain s n).isEmpty || !(pagesToDrain s n).isEmpty

/-- Drain a stack that leaves service, tell once that it is not drained, and fence it when it is empty (R480). -/
def drainOut (s : State) (n : Nat) : State :=
  let s := drainStack s n
  let s :=
    if tgetD s.drains n 0 = 1 ∧ (stranded s n ∨ pinnedPages s n) then
      floodNotice { s with drains := tins s.drains n 2 } 7 (myId s) 0 n 1
    else s
  settle (fenceEmptied s)

end Sys2Proof.Machine
end

