-- ==== Sys2Proof/Machine/Recovery.lean ====
section
/-! DEFINITION. Freezes, notices, heartbeats and scrubs (R510-R523). -/

namespace Sys2Proof.Machine

open Sys2Proof

/-! ## Freezes (R522, R523) -/

/-- Queues that a function owns. -/
def queuesOf (s : State) (fn : Nat) : List Nat :=
  (List.range 65536).filter (fun q => queueOwner s q == some fn && qState s q != 0)

/-- Freeze a function (R523): its schedules stop with FROZEN, its queues are aborted with FROZEN, an entry names the subject. -/
def freezeFn (s : State) (subject fn : Nat) : State :=
  let s := (s.scheds.filter (fun p => p.2.fn == fn)).foldl (fun s p =>
    match tget? s.scheds p.1 with
    | some c => setSched s p.1 (stopSched c FROZEN 0 none)
    | none => s) s
  let s := (queuesOf s fn).foldl (fun s q => abortQueue s q FROZEN) (settle s)
  logErr s fn FROZEN_BY_NOTICE subject

/-- The functions with a job tag (R393). -/
def fnsOfTag (s : State) (tag : Nat) : List Nat := (List.range 68).filter (fun f => getF s F.FAB_FN_TAG_TAG f0 f == tag)

/-- Freeze some functions; a partner transfer to the subject does not go on (R523). -/
def freezeFns (s : State) (subject : Nat) (fns : List Nat) : State :=
  let s := fns.foldl (fun s f => freezeFn s subject f) s
  let sets := s.sets.filter (fun p => fns.contains p.2.owner && getF s F.SN_PARTNER_MODULE f0 == subject &&
    (match p.2.run with
      | some r => bit r.layers 0
      | none => false))
  runRings (settle (sets.foldl (fun s p => endPartner s p.1 LINK_LOST) s))

/-- A kind-2 or kind-6 notice with a tag freezes the tag's functions, while SN_CFG.FREEZE is 1 (R523). -/
def freezeTag (s : State) (subject tag : Nat) : State :=
  if tag = 0 ∨ !flag s F.SN_CFG_FREEZE f0 then s else freezeFns s subject (fnsOfTag s tag)

/-- The module learns that it is declared failed, with SN_CFG.LEAVE at 1 (R522): it freezes everything and leaves. -/
def leaveJobs (s : State) : State :=
  let me := myId s
  let s := freezeFns s me (List.range 68)
  let s := setF s F.FAB_SELF_VALID f0 0 0
  let (n, s) := newNotice s 9 me 0 0 0
  let n := { n with origin := me }
  floodOut (emit (cacheNotice s n.origin n.id) (.noticed n)) none n

/-! ## Notices (R518-R521) -/

/-- The kinds of notice that are flooded (R519). -/
def flooded (k : Nat) : Bool := k == 2 || k == 3 || k == 6 || k == 7 || k == 9

/-- What a flooded notice of another module brings about (R398, R522, R523). -/
def heed (s : State) (n : Notice) : State :=
  match n.kind with
  | 2 =>
    if selfValid s ∧ n.subject = myId s then
      if flag s F.SN_CFG_LEAVE f0 then leaveJobs s else freezeTag s n.subject n.tag
    else freezeTag s n.subject n.tag
  | 6 => freezeTag s n.subject n.tag
  | 3 =>
    let k := n.origin * 32 + n.arg % 32
    if n.arg / 32 % 65536 = 0 ∧ !toSelf s n.origin then
      let s := { s with remoteFenced := if s.remoteFenced.contains k then s.remoteFenced else s.remoteFenced ++ [k] }
      runRings (settle (failFlowsTo s n.origin (n.arg % 32)))
    else s
  | _ => s

/-- Forward a flooded notice on every ACTIVE port but the one it came by, while hops are left (R520). -/
def forwardNotice (s : State) (port : Option Nat) (n : Notice) : State :=
  if n.hops = 0 then s
  else addF (floodOut s port { n with hops := n.hops - 1 }) F.SN_CNT_NOTICE_FWD f0 0 1

/-- A heartbeat arrives (R521). -/
def noteHeartbeat (s : State) (m : Nat) : State :=
  (List.range 8).foldl (fun s i =>
    if flag s F.SN_HB_WATCH_VALID f0 i && getF s F.SN_HB_WATCH_MODULE f0 i == m then
      { s with hbLast := tins s.hbLast i (now s) }
    else s) s

/-- A notice reaches the module by a port: a repeat is discarded (R520). -/
def recvNotice (s : State) (port : Option Nat) (n : Notice) : State :=
  if n.kind = 1 then noteHeartbeat s n.origin
  else if !flooded n.kind then s
  else if s.noticeCache.contains (n.origin, n.id) then addF s F.SN_CNT_NOTICE_DUP f0 0 1
  else heed (forwardNotice (cacheNotice s n.origin n.id) port n) n

/-- NOTICE (R520-R523): a notice arrives by an ACTIVE port, or from the module itself. -/
def execNotice (port : Option Nat) (n : Notice) (s : State) : Host.Outcome State Fault Refusal :=
  .next (match port with
    | some p => if portActive s p then recvNotice s port n else s
    | none => recvNotice s port n)

/-- HEARTBEAT_SEND (R521): every PERIOD ms one heartbeat to each watched module. -/
def execHeartbeatSend (s : State) : Host.Outcome State Fault Refusal :=
  .next (
    if !flag s F.SN_HB_CFG_EN f0 then s
    else
      (List.range 8).foldl (fun s i =>
        if flag s F.SN_HB_WATCH_VALID f0 i then
          let (n, s) := newNotice s 1 (myId s) (getF s F.SN_HB_WATCH_TAG f0 i) (getF s F.SN_HB_CFG_PERIOD f0) 0
          transmit s (noticeTx s (getF s F.SN_HB_WATCH_MODULE f0 i) n)
        else s) s)

/-- Ticks without a heartbeat after which a module is declared failed (R521). -/
def heartbeatLimit (s : State) : Nat := getF s F.SN_HB_CFG_MISSES f0 * getF s F.SN_HB_CFG_PERIOD f0 * 100000

/-- HEARTBEAT_TIMEOUT (R521): no heartbeat of the entry's module for MISSES × PERIOD ms of the machine tick. Its own notice freezes
this module's functions of the tag as well (R523); a class-4 record is written (R510, log entry 97). -/
def execHeartbeatTimeout (entry : Nat) (s : State) : Host.Outcome State Fault Refusal :=
  .next (
    if entry < 8 ∧ flag s F.SN_HB_CFG_EN f0 ∧ flag s F.SN_HB_WATCH_VALID f0 entry ∧ !flag s F.SN_HB_WATCH_FAILED f0 entry ∧
        now s ≥ tgetD s.hbLast entry 0 + heartbeatLimit s then
      let m := getF s F.SN_HB_WATCH_MODULE f0 entry
      let tag := getF s F.SN_HB_WATCH_TAG f0 entry
      let s := setF s F.SN_HB_WATCH_FAILED f0 entry 1
      freezeTag (floodNotice (logModule s m) 2 m tag (getF s F.SN_HB_CFG_MISSES f0) 0) m tag
    else s)

/-! ## Scrubs (R511-R513) -/

/-- A program that waits on a lost token is released and ends with FAULT_POISON: it issues nothing more (R511). -/
def spoilProgram (s : State) (die tok : Nat) (d : Desc) : State :=
  match d.todo with
  | .await _ :: _ =>
    if qDie d.queue = die ∧ d.toks.head? = some tok then
      maybeComplete (updDesc s d.queue d.tag (fun d =>
        { dropTodo d with issued := d.issued + 1, retired := d.retired ++ [⟨d.issued, FAULT_POISON, seqStation d, []⟩] })) d.queue d.tag
    else s
  | _ => s

/-- A waiter on a token with an uncorrectable error is released and ends with FAULT_POISON (R511). -/
def spoilWaits (s : State) (die tok : Nat) : State :=
  let spoil (m : Micro) : Micro :=
    match m.kind with
    | .token t _ => if t = tok then { m with kind := .plain, started := true, ready := true, status := FAULT_POISON } else m
    | _ => m
  let on (p : Nat × List Micro) : Nat × List Micro := if p.1 / 64 = die then (p.1, p.2.map spoil) else p
  let s := { s with fifos := s.fifos.map on, overs := s.overs.map on }
  let s := s.descs.foldl (fun s d => spoilProgram s die tok d) s
  (s.descs.filter (fun d => qDie d.queue == die && d.seqr == 4 && d.override.isNone && hWait d.image && hWaitTok d.image == tok)).foldl
    (fun s d => completeDesc s d FAULT_POISON (seqStation d) [] 0) s

/-- An uncorrectable error in a word of a pool line (R511): a token word loses its two tokens; a line of a stream's filled slot
poisons the slot; any other line is poisoned where it lies. -/
def poolError (s : State) (die line word : Nat) : State :=
  if line ≥ streamLines then
    let t := ((line - streamLines) * 8 + word) * 2
    let s := spoilWaits (spoilWaits s die t) die (t + 1)
    runRings (settle (loseTok (loseTok s die t) die (t + 1)))
  else
    let hit (x : Slot) : Bool :=
      x.die == die && (match tget? s.streams (streamKey die x.stream) with
        | some st =>
          let k := ((s.slots.filter (fun y => y.die == die && y.stream == x.stream)).findIdx? (· == x)).getD 0
          let a := st.baseLine + ((st.tail.toNat + k) % st.slots) * st.slotLines
          decide (a ≤ line) && decide (line < a + st.slotLines)
        | none => false)
    let s := { s with slots := updFirst hit (fun x => { x with poison := worstCause [x.poison, 1] }) s.slots }
    markLines s (poolBase die + 64 * line) 64 1

/-- What an uncorrectable error in protected SRAM brings about (R511). -/
def sramError (s : State) (die : Nat) : SramPlace → State
  | .pool line word => if isComp die ∧ line < poolBytes / 64 then poolError s die line (word % 8) else s
  | .pageEntry i =>
    if isComp die ∧ i < 131072 ∧ (getEnt s die i).valid then setEnt s die i { getEnt s die i with lost := true } else s
  | .home r =>
    if (tget? s.homes r).isNone then s
    else
      let s := loseRegion s r
      settle ((s.moves.filter (fun m => m.copying && m.record == r)).foldl (fun s m => failMove s m true TIER_ERROR) s)
  | .page fn va =>
    match findPage s fn va with
    | some (b, p) => if p.kind < 8 then { s with pages := tins s.pages (pageKey fn b) { p with kind := p.kind + 8 } } else s
    | none => s
  | .shard n => if isComp die then settle (applyForce s die n (2, 0, 0)) else s
  | .state => fenceDie s die 1

/-- POOL_SCRUB (R511): protected SRAM of a die is read; a correctable error is corrected, an uncorrectable one has the outcome of
its place. -/
def execPoolScrub (die : Nat) (place : SramPlace) (bad : EccResult) (s : State) : Host.Outcome State Fault Refusal :=
  .next (
    if dieFenced s die then s
    else
      match bad with
      | .clean => s
      | .corrected => logRec (addF s F.MGT_ERR_CE_SRAM die 0 1) 0 die 0xFF 0 0 0
      | .uncorrectable => sramError (logRec (addF s F.MGT_ERR_UE_SRAM die 0 1) 1 die 0xFF 1 0 0) die place)

/-- Ticks of 24 h. -/
def dayTicks : Nat := 8640000000000

/-- The pseudo-channel of a byte of a stack: 256-byte blocks over 64 of them (R513). -/
def pseudoChannel (a : Nat) : Nat := a / 256 % 64

/-- A pseudo-channel is retired: counted for its stack; a stack with more than four is drained and fenced (R513). -/
def retireChannel (s : State) (stack pc : Nat) : State :=
  let s := { s with pcRetired := s.pcRetired ++ [stack * 64 + pc], pcs := tdel s.pcs (stack * 64 + pc) }
  let n := (s.pcRetired.filter (fun k => k / 64 == stack)).length
  let f := if stack % 2 = 0 then F.MGT_ERR_PC_STK0 else F.MGT_ERR_PC_STK1
  let s := setF s f (stack / 2) 0 (min n 5)
  if n > 4 then drainOut { s with drains := tins s.drains stack 4 } stack else s

/-- A corrected error of a line of a stack (R513). -/
def countCorrected (s : State) (stack pc : Nat) : State :=
  let k := stack * 64 + pc
  if s.pcRetired.contains k then s
  else
    let c := tgetD s.pcs k ⟨0, now s⟩
    let c : PcCount := if now s ≥ c.since + dayTicks then ⟨1, now s⟩ else ⟨c.errors + 1, c.since⟩
    let s := { s with pcs := tins s.pcs k c }
    if c.errors ≥ 256 then retireChannel s stack pc else s

/-- HBM_PATROL_SCRUB (R512, R513): a line of a stack in service is read; an uncorrectable error stays until a write clears it. -/
def execHbmPatrolScrub (stack line : Nat) (bad : EccResult) (s : State) : Host.Outcome State Fault Refusal :=
  .next (
    let a := stack * stackBytes + 64 * line
    if stack ≥ 32 ∨ 64 * line ≥ stackBytes ∨ lostAt s a then s
    else
      match bad with
      | .clean => s
      | .corrected =>
        countCorrected (logRec (addF s F.MGT_ERR_CE_HBM (stack / 2) 0 1) 0 (stack / 2) (0x40 + stack) 0 a 0) stack (pseudoChannel a)
      | .uncorrectable => logRec (addF (markLines s a 64 1) F.MGT_ERR_UE_HBM (stack / 2) 0 1) 1 (stack / 2) (0x40 + stack) 1 a 0)

end Sys2Proof.Machine
end

