-- ==== Sys2Proof/Machine/Resets.lean ====
section
/-! DEFINITION. Cold and warm resets: what each keeps (R13, R25, R548, R549, R584, R630). -/

namespace Sys2Proof.Machine

open Sys2Proof

/-- The read-only fields that keep their value across a warm reset, and the placement registers (R25, R28, R512-R515, R547, R548,
R562, R584, R630). -/
def warmKept : List Fld :=
  [F.MGT_FENCE_STATIONS, F.MGT_FENCE_DIE, F.MGT_FENCE_CAUSE, F.TM_STATE_FAR_OK, F.TM_STATE_FLASH_OK, F.TM_STATE_FAR_DEVS,
   F.TM_FLASH_STATE_RDONLY, F.TM_FLASH_STATE_WEAR, F.TM_FLASH_STATE_ABSENT, F.MGT_MOD_ID_BUILD, F.MGT_MOD_ID_FAR_DEV,
   F.MGT_MOD_ID_FLASH_CH, F.MGT_STRAP_SDA, F.MGT_STRAP_SCL, F.MGT_STRAP_ADDR, F.MGT_ERR_PC_STK0, F.MGT_ERR_PC_STK1,
   F.MGT_ELOG_TAIL_TAIL, F.TST_RLOG_TAIL_TAIL, F.TST_PPR_USED0, F.TST_PPR_USED1, F.MGT_FW_STATE_SVN_MIN,
   F.MGT_FW_STATE_KEYS_REVOKED, F.PWR_STATE_SRC, F.PWR_STATE_MAIN_OK, F.PWR_STATE_BACKUP_OK, F.PWR_STATE_COOL_OK,
   F.CLK_REF_STATE_SRC, F.CLK_REF_STATE_HOLDOVER, F.CLK_REF_STATE_PRI_OK, F.CLK_REF_STATE_SEC_OK, F.CLK_REF_STATE_LOC_OK,
   F.CLK_REF_STATE_AON_OK, F.CLK_REF_STATE_OFFSET] ++
  [F.FAB_SELF_MODULE, F.FAB_SELF_VALID, F.FAB_SELF_COORD_POD, F.FAB_SELF_COORD_X, F.FAB_SELF_COORD_Y, F.FAB_SELF_COORD_Z,
   F.FAB_SELF_COORD_VALID, F.FAB_SELF_CELL_CELL, F.FAB_DIM_X, F.FAB_DIM_Y, F.FAB_DIM_Z, F.FAB_DIM_WRAP, F.FAB_PORT_CFG_DIR,
   F.FAB_PORT_CFG_INTERPOD, F.FAB_ROUTE_CTRL_ACTIVE]

/-- The fields recorded in fuses, flash or the boot store (R562, R583, R584). -/
def coldKept : List Fld :=
  [F.TST_RLOG_TAIL_TAIL, F.TST_PPR_USED0, F.TST_PPR_USED1, F.MGT_FW_STATE_SVN_MIN, F.MGT_FW_STATE_KEYS_REVOKED]

/-- The entries of the register map whose field satisfies a test. -/
def keepFields (flds : Tab Nat) (p : Fld → Bool) : Tab Nat :=
  flds.filter (fun e => (fieldsAt (e.1 / 2 ^ 50) (e.1 / 32 % 2 ^ 25)).any (fun f => f.1.lo == e.1 % 32 && p f.1))

/-- A field keeps its value across a warm reset (R13, R548). -/
def warmField (f : Fld) : Bool := f.acc == .rws || f.acc == .rwl || warmKept.contains f

/-- Soft row repairs become hard where the bank's hard repair is not used, and are gone otherwise (R583). -/
def hardenRow (v : Nat) : Nat := if v % 4 = 1 then v + 1 else if v % 4 = 3 then v - 1 else v

/-- The records and counts of the soft repairs that a cold start makes hard (R583, R584). -/
def hardenRows (s : State) : State :=
  let soft := s.rows.filter (fun p => p.2 % 4 == 1)
  let s := { s with rows := s.rows.map (fun p => (p.1, hardenRow p.2)) }
  soft.foldl (fun s p =>
    let stack := p.1 / 1024
    let s := addF s (if stack % 2 = 0 then F.TST_PPR_USED0 else F.TST_PPR_USED1) (stack / 2) 0 1
    let r : RepRec := ⟨now s, 3, stack / 2, 0x40 + stack, 0, p.1 / 16 % 64 + p.1 % 16 * 64 + p.2 / 4 * 1024, 0, 0⟩
    let l := s.rlog ++ [r]
    addW { s with rlog := l.drop (l.length - 4096) } F.TST_RLOG_TAIL_TAIL f0 0 1) s

/-- The straps and devices that a cold reset samples (R25, R549, R630). -/
def sampleStraps (s : State) (x : Straps) : State :=
  let s := setF (setF (setF s F.MGT_STRAP_SDA f0 0 x.sda) F.MGT_STRAP_SCL f0 0 x.scl) F.MGT_STRAP_ADDR f0 0 (0x30 + x.scl % 4)
  let s := setF s F.MGT_MOD_ID_BUILD f0 0 x.sda
  let dev (k : Nat) : Nat := min 8 (x.farDevs.getD k 8)
  let gone (k : Nat) : Nat := x.absent.getD k 0 % 256
  let ones (v : Nat) : Nat := ((List.range 8).filter (bit v)).length
  let s := (List.range 8).foldl (fun s k =>
    let s := setF (setF s F.TM_STATE_FAR_DEVS (24 + k) 0 (dev k)) F.TM_FLASH_STATE_ABSENT (24 + k) 0 (gone k)
    if dev k = 0 then setF s F.TM_STATE_FAR_OK (24 + k) 0 0 else s) s
  let sum (f : Nat → Nat) : Nat := ((List.range 8).map f).foldl (· + ·) 0
  setF (setF s F.MGT_MOD_ID_FAR_DEV f0 0 (sum dev)) F.MGT_MOD_ID_FLASH_CH f0 0 (64 - sum (fun k => ones (gone k)))

/-- The reset values that depend on the build (R336, R338, R350). -/
def buildDefaults (s : State) : State :=
  if buildB s then
    (List.range 8).foldl (fun s k =>
      let s := setF (setF s F.TM_CFG_DEMOTE (24 + k) 0 2) F.TM_CFG_FAR_PRIO (24 + k) 0 4
      setF (setF s F.TM_WM_FAR_LOW (24 + k) 0 0x30) F.TM_WM_FAR_HIGH (24 + k) 0 0x60) s
  else s

/-- What a cold reset leaves: flash contents, fuses and the boot store, and nothing else (R548). -/
def coldState (s : State) : State :=
  let flds := keepFields s.flds (fun f => coldKept.contains f)
  let mem := s.mem.filter (fun c => decide (flashBase ≤ c.1))
  let lines := s.lines.filter (fun p => decide (flashBase / 64 ≤ p.1))
  let images := s.images.filter (fun p => p.1 / 8 == 1)
  hardenRows { State.reset with
    pending := s.pending, out := s.out, hostMem := s.hostMem, freeCtr := s.freeCtr, stamp := s.stamp, flds := flds, mem := mem,
    lines := lines, objects := s.objects, images := images, fwSlots := s.fwSlots, rlog := s.rlog, spares := s.spares,
    rows := s.rows }

/-- A cold reset with its cause: the straps are sampled, the input that carries the module stays the one it is (R13, R548-R550). -/
def coldReset (s : State) (cause : Nat) (x : Straps) : State :=
  let src := getF s F.PWR_STATE_SRC f0
  let ok (f : Fld) (t : State) : State := setF t f f0 0 (getF s f f0)
  let t := buildDefaults (sampleStraps (coldState s) x)
  let t := ok F.PWR_STATE_BACKUP_OK (ok F.PWR_STATE_MAIN_OK (setF t F.PWR_STATE_SRC f0 0 src))
  showCables s (setF t F.MGT_RESET_CAUSE f0 0 cause)

/-- The images of this module's partner area keep their place unless PART_GRAN changed (R528). -/
def keepImages (s : State) : Tab SnImage :=
  let same := getF s F.SN_CFG_PART_GRAN f0 == s.partGran
  s.images.filter (fun p => p.1 / 8 == 1 || (p.1 / 8 == 0 && same))

/-- The registers that show fences, and the free counts of the KV pools, after a warm reset (R140, R163, R250, R259, R376, R408). -/
def showKept (s : State) : State :=
  let s := (List.range 16).foldl (fun s die =>
    let s := stations.foldl (fun s st => if stFenced s die st then showFenced s die st else s) s
    layPool s die) s
  let s := (List.range 48).foldl (fun s p => if dieFenced s (portDie p) then setPortState s p 5 else s) s
  if dieFenced s 16 && !dieFenced s 20 then setF s F.MGT_SVC_MANAGER f0 0 1 else s

/-- What a warm reset leaves (R78, R528, R548): every queue and ring is disabled, every admitted descriptor is discarded without a
completion, and what is not kept takes its reset value. -/
def warmState (s : State) : State :=
  let flds := keepFields s.flds warmField
  let mem := s.mem.filter (fun c => decide (c.1 < poolBase 0) || decide (flashBase ≤ c.1))
  let lines := s.lines.filter (fun p => decide (p.1 < poolBase 0 / 64) || decide (flashBase / 64 ≤ p.1))
  let same := getF s F.SN_CFG_PART_GRAN f0 == s.partGran
  let hbm := s.stackState.filter (fun p => p.2 == 1)
  let drains := s.drains.filter (fun p => p.2 == 4)
  let links := s.links.filter (fun p => dieFenced s (p.1 / 32) || dieFenced s (p.1 % 32))
  let t := { State.reset with
    pending := s.pending, out := s.out, hostMem := s.hostMem, freeCtr := s.freeCtr, stamp := s.stamp, tick := s.tick, flds := flds,
    mem := mem, lines := lines, stackState := hbm, drains := drains, links := links, linkDown := s.linkDown,
    bar4 := getF s F.HST_BAR4_CFG_SIZE f0, partGran := getF s F.SN_CFG_PART_GRAN f0, objects := s.objects,
    modTab := s.modTab, ovrTab := s.ovrTab, mcTab := s.mcTab, elog := s.elog, noticeId := s.noticeId, supply := s.supply,
    aon := s.aon, pcRetired := s.pcRetired, images := keepImages s, wardGen := if same then s.wardGen else [],
    wardMem := if same then s.wardMem else [], fwSlots := s.fwSlots, sealBytes := s.sealBytes, rlog := s.rlog,
    spares := s.spares, rows := s.rows }
  showLevel (fenceEmptied (showKept (buildDefaults t)))

/-- A warm reset with its cause (R548, R550). -/
def warmReset (s : State) (cause : Nat) : State :=
  let t := setF (warmState s) F.MGT_RESET_CAUSE f0 0 cause
  showCables s { t with bootAt := now s }

end Sys2Proof.Machine
end

