-- ==== Sys2Proof/Machine/TestOps.lean ====
section
/-! DEFINITION. What margin runs and repairs share: the end of a run, the repair log (R478, R581, R582, R584). -/

namespace Sys2Proof.Machine

open Sys2Proof

/-- A record of the repair log (R584). -/
def repRec (s : State) (kind die unit result loc before after : Nat) : State :=
  let l := s.rlog ++ [⟨now s, kind, die, unit, result, loc, before, after⟩]
  addW { s with rlog := l.drop (l.length - 4096) } F.TST_RLOG_TAIL_TAIL f0 0 1

/-- A record of the repair log and its class-0 record of the error log (R584). -/
def logRepair (s : State) (kind die unit result loc before after : Nat) : State :=
  logRec (repRec s kind die unit result loc before after) 0 die unit 0 0 loc

/-- The stack that a margin target of a compute die names (R581). -/
def marginStack (die target : Nat) : Nat := 2 * die + target % 2

/-- The regions of its die's KV pool that lie on a stack (R259). -/
def stackPool (s : State) (n : Nat) : List Nat :=
  let lo := max (getF s F.PG_KV_BASE_BASE (n / 2)) (49152 * n)
  let hi := min (getF s F.PG_KV_BASE_BASE (n / 2) + getF s F.PG_KV_COUNT_COUNT (n / 2)) (49152 * (n + 1))
  (List.range (hi - lo)).map (· + lo)

/-- The free regions of a stack leave the KV pool of its die, from the shared part first (R582). -/
def leavePool (s : State) (n : Nat) : State :=
  let k := ((stackPool s n).filter (poolFree s)).length
  let cut (p : State × Nat) (c : Nat) : State × Nat :=
    let have_ := getF p.1 F.PG_CLASS_FREE_FREE (n / 2) c
    (setF p.1 F.PG_CLASS_FREE_FREE (n / 2) c (have_ - p.2), p.2 - have_)
  let sh := getF s F.PG_SHARED_FREE_FREE (n / 2)
  (([0, 1, 2, 3] : List Nat).foldl cut (setF s F.PG_SHARED_FREE_FREE (n / 2) 0 (sh - k), k - sh)).1

/-- A margin run of a die ends: its stack leaves the hold and its drain, and its free regions return; its port's retraining goes on
(R408, R581, R582). -/
def endMargin (s : State) (die : Nat) : State :=
  match tget? s.margins die with
  | none => s
  | some m =>
    let s := setF { s with margins := tdel s.margins die } F.TST_MARGIN_BUSY die 0 0
    if isComp die then
      let n := marginStack die m.target
      if tgetD s.stackState n 0 = 1 then s
      else
        let s := { s with stackState := tdel s.stackState n, drains := if tgetD s.drains n 0 = 3 then tdel s.drains n else s.drains }
        settle (((stackPool s n).filter (poolFree s)).foldl (fun s r => releaseRegion s (r * region)) s)
    else { s with remargin := s.remargin.filter (fun p => !(p == portOn die m.target)) }

/-- A stack that turns hot ends its margin run, which reports no result (R582). -/
def voidMargin (s : State) (n : Nat) : State :=
  match tget? s.margins (n / 2) with
  | some m => if marginStack (n / 2) m.target = n then endMargin s (n / 2) else s
  | none => s

end Sys2Proof.Machine
end

