-- ==== Sys2Proof/Machine/Power.lean ====
section
/-! DEFINITION. Supplies, budgets, governors, heat and power states (R34-R36, R465-R490, R612, R620, R634). -/

namespace Sys2Proof.Machine

open Sys2Proof

/-! ## Operating points (R469, R470, R474) -/

/-- Voltage of each operating point in thirds of a millivolt, interpolated between the exact points (R469). -/
def oppVolt (i : Nat) : Nat :=
  ([1800, 1850, 1900, 1950, 2000, 2050, 2100, 2180, 2260, 2340, 2410, 2480, 2550, 2625, 2700] : List Nat).getD i 2700

/-- Frequency of an operating point in MHz. -/
def oppMhz (i : Nat) : Nat := 600 + 100 * i

/-- Module draw at a point, matrix stations alone, in thirds of a milliwatt (R469). -/
def moduleDraw (i : Nat) : Nat := (16 * oppPower i + 8700) * 1059

/-- The highest point whose module draw does not exceed a budget in W; point 0 where none does (R474). -/
def budgetPoint (watts : Nat) : Nat :=
  (List.range 15).foldl (fun a i => if moduleDraw i ≤ 3000 * watts then i else a) 0

/-- The point that a frequency cap allows; a cap below 600 MHz reads as 600 (R491). -/
def capPoint (mhz : Nat) : Nat := min 14 ((max 600 mhz - 600) / 100)

/-- A die governor. -/
def govOf (s : State) (die : Nat) : Gov := tgetD s.govs die Gov.reset
/-- Change a die governor. -/
def updGov (s : State) (die : Nat) (f : Gov → Gov) : State := { s with govs := tput s.govs die (f (govOf s die)) Gov.reset }
/-- The operating point of a die (R491). -/
def oppOf (s : State) (die : Nat) : Nat := getF s F.GV_STATE_OPP die

/-- Put a die at an operating point. -/
def setOpp (s : State) (die i : Nat) : State :=
  setF (updGov s die (fun g => { g with mhz := oppMhz i, mv3 := oppVolt i })) F.GV_STATE_OPP die 0 i

/-- The clock of the matrix stations that the budget selects and, where that is 1.8 GHz and the die is of normal heat, the points above it
that the headroom of the running mix grants (R34, R474; log entry 134). -/
def grantedPoint (s : State) (die : Nat) : Nat :=
  let p := budgetPoint (getF s F.GV_MOD_BUDGET f0)
  if p ≥ 12 ∧ getF s F.GV_STATE_DIE_LVL die = 0 then min 14 (p + (govOf s die).boost) else p

/-- The point the governor works toward: the cap, the clock granted and the 1.2 GHz of limited service, less the cut for the share or
for heat, whichever is greater (R475, R478, R482, R552, R590; log entry 54). -/
def targetOpp (s : State) (die : Nat) : Nat :=
  let g := govOf s die
  let base := min (capPoint (getF s F.GV_CAP_FMAX die)) (grantedPoint s die)
  let base := if fullService s die then base else min base 6
  base - max g.shareCut g.heatCut

/-- The governor begins a step to the adjacent point, unless one runs, the host holds the point, or the core clock is being switched
(R470, R471, R505). -/
def startStep (s : State) (die : Nat) : State :=
  if flag s F.GV_CTRL_MANUAL die ∨ (govOf s die).stepping ∨ powerOf s die ≥ 2 ∨ dieFenced s die ∨
      (tget? s.swaps (die * 4)).isSome ∨ coreForced s die ∨ targetOpp s die = oppOf s die then s
  else updGov s die (fun g => { g with stepping := true })

/-- Begin steps on every compute die. -/
def startSteps (s : State) : State := (List.range 16).foldl startStep s

/-- OPP_STEP_DONE (R470): the step to the adjacent point completes; the next one begins if the target is further. -/
def execOppStepDone (die : Nat) (s : State) : Host.Outcome State Fault Refusal :=
  .next (
    let at_ := oppOf s die
    let dest := targetOpp s die
    let slow := (govOf s die).ramp
    if !isComp die ∨ !(govOf s die).stepping ∨ (dest > at_ ∧ slow ≠ 0 ∧ now s + 1 < slow + 200000) then s
    else
      let s := updGov s die (fun g => { g with stepping := false, ramp := if slow = 0 ∨ dest ≤ at_ + 1 then 0 else now s + 1 })
      startStep (if dest > at_ then setOpp s die (at_ + 1) else if dest < at_ then setOpp s die (at_ - 1) else s) die)

/-! ## Manual operation (R471, R472) -/

/-- Leave manual operation. -/
def leaveManual (s : State) (die : Nat) : State :=
  let s := setF (setF s F.GV_CTRL_MANUAL die 0 0) F.GV_STATE_MANUAL die 0 0
  startStep (updGov s die (fun g => { g with mv3 := oppVolt (oppOf s die) })) die

/-- A throttle, a trip or a budget breach ends manual operation (R472). -/
def override (s : State) (die : Nat) : State :=
  if flag s F.GV_CTRL_MANUAL die then leaveManual (setF s F.GV_VF_STATUS_OVERRIDE die 0 1) die else s

/-- A queue of the die is enabled. -/
def anyEnabled (s : State) (die : Nat) : Bool := (List.range 4096).any (fun i => qEnabled s (4096 * die + i))

/-- A refused manual write: LAST, and the log of the writing function (R471). -/
def refuseVf (s : State) (src : Src) (die off : Nat) : State :=
  logErr (setF s F.GV_VF_STATUS_LAST die 0 CONFLICT) (srcFn src) VF_ORDER off

/-- GV_MANUAL_SET (R471): a write of GV_CTRL. -/
def execGvManualSet (src : Src) (die value : Nat) (s : State) : Host.Outcome State Fault Refusal :=
  .next (
    if !isComp die then s
    else
      pfWrite s src die 0x600010 value (fun s =>
        let was := flag s F.GV_CTRL_MANUAL die
        let s := setF (setF s F.GV_CTRL_AUTO_GREY die 0 (bits value 1 1)) F.GV_CTRL_GREY_IDLE die 0 (bits value 16 16)
        if bit value 0 then
          if was then s
          else if anyEnabled s die then refuseVf s src die 0x600010
          else
            let s := updGov s die (fun g => { g with stepping := false })
            setF (setF (setF s F.GV_CTRL_MANUAL die 0 1) F.GV_STATE_MANUAL die 0 1) F.GV_VF_STATUS_LAST die 0 0
        else if was then leaveManual s die
        else s))

/-- The highest point whose voltage does not exceed a voltage in thirds of a millivolt, if there is one (R471). -/
def carried (mv3 : Nat) : Option Nat :=
  (List.range 15).foldl (fun a i => if oppVolt i ≤ mv3 then some i else a) none

/-- GV_FREQ_WRITE (R471): a point of R469 that the present voltage carries; outside manual operation the write has no effect. -/
def execGvFreqWrite (src : Src) (die value : Nat) (s : State) : Host.Outcome State Fault Refusal :=
  .next (
    if !isComp die then s
    else
      pfWrite s src die 0x600018 value (fun s =>
        let mhz := bits value 0 12
        if !flag s F.GV_CTRL_MANUAL die then s
        else
          match (List.range 15).find? (fun i => oppMhz i == mhz), carried (govOf s die).mv3 with
          | some i, some top =>
            if i ≤ top then
              let s := setF (updGov s die (fun g => { g with mhz := mhz })) F.GV_STATE_OPP die 0 i
              setF s F.GV_VF_STATUS_LAST die 0 0
            else refuseVf s src die 0x600018
          | _, _ => refuseVf s src die 0x600018))

/-- GV_VOLT_WRITE (R471): not below the voltage that the present frequency's point needs. -/
def execGvVoltWrite (src : Src) (die value : Nat) (s : State) : Host.Outcome State Fault Refusal :=
  .next (
    if !isComp die then s
    else
      pfWrite s src die 0x60001C value (fun s =>
        let mv3 := 3 * bits value 0 12
        if !flag s F.GV_CTRL_MANUAL die then s
        else if mv3 < oppVolt (oppOf s die) then refuseVf s src die 0x60001C
        else setF (updGov s die (fun g => { g with mv3 := mv3 })) F.GV_VF_STATUS_LAST die 0 0))

/-! ## Budgets (R36, R473-R475, R620) -/

/-- The cap for poor coolant in W, from flow in 0.1 L/min and inlet in 0.1 °C (R620). -/
def coolantCap (flow inlet : Nat) : Nat := max 5700 (min (65 * flow) (37000 - 60 * inlet))

/-- The budget of the selected input (R466, R473). -/
def inputBudget (s : State) : Nat :=
  if flag s F.PWR_STATE_SRC f0 then getF s F.PWR_BACKUP_BUDGET_WATTS f0 else getF s F.PWR_MAIN_BUDGET_WATTS f0

/-- The module budget: the selected input's, capped while the coolant is out of its limits (R36, R473, R620). -/
def moduleBudget (s : State) : Nat :=
  if flag s F.PWR_STATE_COOL_OK f0 then inputBudget s else min (inputBudget s) (coolantCap s.supply.flow s.supply.inlet)

/-- GV_MOD.BUDGET shows the budget in force (R466). -/
def showBudget (s : State) : State := setF s F.GV_MOD_BUDGET f0 0 (moduleBudget s)

/-- The draw that a die's ready and running work reserves, in W at the current point (R473, R476). -/
def readyDraw (s : State) (die : Nat) : Nat :=
  let ds := s.descs.filter (fun d => isReady s die d || (qDie d.queue == die && decide (d.seqr < 4)))
  (ds.map (fun d => classDraw (hClass d.image))).foldl (· + ·) 0 * oppPower (oppOf s die) / 1680

/-- A die holds a ready global_wait descriptor (R473). -/
def globalReady (s : State) (die : Nat) : Bool := s.descs.any (fun d => isReady s die d && hGlobal d.image)

/-- Give dies with ready global_wait work what their work reserves, in ascending order, while watts are left (R473). -/
def giveGlobal (s : State) : List Nat → Nat → List (Nat × Nat) × Nat
  | [], left => ([], left)
  | d :: r, left =>
    let x := if globalReady s d then min left (readyDraw s d) else 0
    let (l, left) := giveGlobal s r (left - x)
    ((d, x) :: l, left)

/-- The shares of a division (R473; the proportion is log entry 54): a floor of 150 W each, then global_wait, then in proportion to
what ready work reserves, equally where no work is ready. -/
def sharesOf (s : State) (watts : Nat) : List (Nat × Nat) :=
  let dies := (List.range 16).filter (fun d => !dieFenced s d)
  let (given, left) := giveGlobal s dies (watts - 150 * dies.length)
  let want (d : Nat) : Nat := if globalReady s d then 0 else readyDraw s d
  let total := (dies.map want).foldl (· + ·) 0
  given.map (fun p => (p.1, 150 + p.2 + (if total = 0 then left / dies.length else left * want p.1 / total)))

/-- BUDGET_DIVISION (R473): every 1 ms, with the measured draw of HBM, the fabric dies, the M dies, conversion and the module. -/
def execBudgetDivision (draws : List Nat) (s : State) : Host.Outcome State Fault Refusal :=
  .next (
    let s := showBudget s
    let rest := getF s F.GV_MOD_BUDGET f0 - (draws.take 4).foldl (· + ·) 0
    let s := (sharesOf s rest).foldl (fun s p => setF s F.GV_POWER_SHARE p.1 0 (sat 4095 p.2)) s
    startSteps (setF s F.GV_MOD_DRAW f0 0 (sat 65535 (draws.getD 4 0))))

/-- The next cut of a governor over its share: withheld dispatch, then bubbles by eighths through the classes, then the clock
(R475); a clock above 1.8 GHz is no longer granted (R34). -/
def cutMore (s : State) (die : Nat) : State :=
  updGov s die (fun g =>
    let g := { g with boost := 0 }
    if !g.withhold then { g with withhold := true, backAt := 0 }
    else if g.bubbles < 24 then { g with bubbles := g.bubbles + 1, backAt := 0 }
    else if !g.stepping && g.shareCut < 14 then { g with shareCut := g.shareCut + 1, backAt := 0 }
    else { g with backAt := 0 })

/-- The next reversal of a governor 5 % below its share, one per 100 µs, in the opposite order (R475); with nothing to reverse, one point
above 1.8 GHz (R34; DESIGN CHOICE, log entry 134). -/
def cutLess (s : State) (die : Nat) : State :=
  updGov s die (fun g =>
    if g.backAt = 0 then { g with backAt := now s + 1 }
    else if now s + 1 < g.backAt + 10000 then g
    else if g.shareCut > 0 then { g with shareCut := g.shareCut - 1, backAt := now s + 1 }
    else if g.bubbles > 0 then { g with bubbles := g.bubbles - 1, backAt := now s + 1 }
    else if g.withhold then { g with withhold := false, backAt := now s + 1 }
    else { g with boost := min 2 (g.boost + 1), backAt := now s + 1 })

/-- DIE_GOVERNOR_SAMPLE (R472, R475): the draw of a die, averaged over 10 µs, against its share. -/
def execDieGovernorSample (die draw : Nat) (s : State) : Host.Outcome State Fault Refusal :=
  .next (
    if !isComp die ∨ dieFenced s die ∨ powerOf s die ≥ 2 then s
    else
      let s := setF s F.GV_POWER_DRAW die 0 (sat 4095 draw)
      let share := getF s F.GV_POWER_SHARE die
      let s :=
        if draw > share then cutMore (override s die) die
        else if draw * 100 ≤ share * 95 then cutLess s die
        else updGov s die (fun g => { g with backAt := 0 })
      startStep s die)

/-- BUDGET_WRITE (R474): a budget outside 5,700-13,000 W is ignored and logged; after the seal the sealed value is what a write meets
(R14). -/
def execBudgetWrite (src : Src) (backup : Bool) (value : Nat) (s : State) : Host.Outcome State Fault Refusal :=
  .next (
    let off := if backup then 0x070008 else 0x070004
    pfWrite s src (die04 s) off value (fun s =>
      let w := bits value 0 16
      if !sealed s && (decide (w < 5700) || decide (w > 13000)) then logErr s (srcFn src) VF_ORDER off else plainWrite s src (die04 s) off value))

/-- PWR_UV_WRITE (R492): a threshold outside 46.00-50.00 V is ignored and logged; after the seal the sealed value is what a write meets
(R14). -/
def execPwrUvWrite (src : Src) (value : Nat) (s : State) : Host.Outcome State Fault Refusal :=
  .next (pfWrite s src (die04 s) 0x07000C value (fun s =>
    let w := bits value 0 16
    if !sealed s && (decide (w < 4600) || decide (w > 5000)) then logErr s (srcFn src) VF_ORDER 0x07000C else plainWrite s src (die04 s) 0x07000C value))

/-! ## The two inputs (R465-R468, R612) -/

/-- Change the supply. -/
def updSupply (s : State) (f : Supply → Supply) : State := { s with supply := f s.supply }

/-- A local SUPPLY notice: 1 switch-over, 2 return, 3 held, 4 restored; with the budget (R519). -/
def supplyNotice (s : State) (arg : Nat) : State := localNotice s 5 arg (getF s F.GV_MOD_BUDGET f0)

/-- The module runs on an input from now on (R466). -/
def selectInput (s : State) (backup : Bool) : State :=
  startSteps (showBudget (setF s F.PWR_STATE_SRC f0 0 (b2n backup)))

/-- Return to PWR-A: the main budget is restored one operating point per die per 2 ms (R465 event 5). -/
def returnMain (s : State) : State :=
  let s := (List.range 16).foldl (fun s die => updGov s die (fun g => { g with ramp := now s + 1 })) s
  let s := selectInput (addF s F.PWR_CNT_SWITCH_TO_MAIN f0 0 1) false
  supplyNotice (updSupply s (fun x => { x with mainAt := 0, returned := now s + 1, waits := false })) 2

/-- MAIN_INPUT_LOSS (R465, R467, R468): the main input, in 10 mV, falls below PWR_UV. -/
def execMainInputLoss (volts : Nat) (s : State) : Host.Outcome State Fault Refusal :=
  .next (
    if s.supply.phase ≠ 0 ∨ volts ≥ getF s F.PWR_UV_THRESH f0 then s
    else
      let s := updSupply (setF s F.PWR_STATE_MAIN_OK f0 0 0) (fun x => { x with mainAt := 0 })
      if flag s F.PWR_STATE_SRC f0 then s
      else if flag s F.PWR_STATE_BACKUP_OK f0 then
        let soon := s.supply.returned != 0 && decide (now s + 1 ≤ s.supply.returned + 100000000)
        let s := updSupply s (fun x => { x with waits := soon })
        supplyNotice (selectInput (addF s F.PWR_CNT_SWITCH_TO_BACKUP f0 0 1) true) 1
      else updSupply s (fun x => { x with phase := 1 }))

/-- MAIN_INPUT_VALID (R465, R468): the main input is above PWR_UV again; the 100 ms count starts. -/
def execMainInputValid (volts : Nat) (s : State) : Host.Outcome State Fault Refusal :=
  .next (
    if s.supply.phase = 0 ∧ volts > getF s F.PWR_UV_THRESH f0 ∧ !flag s F.PWR_STATE_MAIN_OK f0 then
      let s := setF s F.PWR_STATE_MAIN_OK f0 0 1
      if flag s F.PWR_STATE_SRC f0 then updSupply s (fun x => { x with mainAt := now s + 1 }) else s
    else s)

/-- MAIN_RETURN (R465, R468): the main input has been valid for 100 ms without interruption; where it failed within 1 s of the last
return, the module holds and waits for the host. -/
def execMainReturn (s : State) : Host.Outcome State Fault Refusal :=
  .next (
    if s.supply.phase ≠ 0 ∨ !flag s F.PWR_STATE_SRC f0 ∨ !flag s F.PWR_STATE_MAIN_OK f0 ∨ s.supply.mainAt = 0 then s
    else if s.supply.waits then
      let first := s.supply.returned != 0
      let s := updSupply s (fun x => { x with mainAt := 0, returned := 0 })
      if first then supplyNotice (addF s F.PWR_CNT_SWITCH_HELD f0 0 1) 3 else s
    else returnMain s)

/-- PWR_RETURN_PERMIT (R468): a write of PWR_STATE with RETURN permits a held return. -/
def execPwrReturnPermit (src : Src) (value : Nat) (s : State) : Host.Outcome State Fault Refusal :=
  .next (pfWrite s src (die04 s) 0x070000 value (fun s =>
    if !bit value 4 ∨ !s.supply.waits then s
    else
      let ready := s.supply.phase == 0 && flag s F.PWR_STATE_SRC f0 && flag s F.PWR_STATE_MAIN_OK f0 && s.supply.mainAt == 0
      if ready then returnMain s else updSupply s (fun x => { x with waits := false })))

/-- BOTH_INPUTS_LOSS (R467): neither input is valid; the module rides on its hold-up. -/
def execBothInputsLoss (s : State) : Host.Outcome State Fault Refusal :=
  .next (
    if s.supply.phase ≠ 0 then s
    else
      let s := setF (setF s F.PWR_STATE_MAIN_OK f0 0 0) F.PWR_STATE_BACKUP_OK f0 0 0
      updSupply s (fun x => { x with phase := 1, mainAt := 0 }))

/-- The distinct nonzero job tags of the module's functions (R467). -/
def jobTags (s : State) : List Nat :=
  (List.range 68).foldl (fun l f =>
    let t := getF s F.FAB_FN_TAG_TAG f0 f
    if t = 0 ∨ l.contains t then l else l ++ [t]) []

/-- The stations stop, and each job is told (R467); the loss of both inputs is a class-4 error (R510). -/
def stopOnHoldup (s : State) : State :=
  let tags := jobTags s
  let s := tags.foldl (fun s t => floodNotice s 6 (myId s) t 0 0) (logModule s 0)
  updSupply s (fun x => { x with phase := 2, named := tags, mainAt := 0 })

/-- HOLDUP_STATIONS_STOP (R467): 100 µs with no input valid. -/
def execHoldupStationsStop (s : State) : Host.Outcome State Fault Refusal :=
  .next (if s.supply.phase = 1 then stopOnHoldup s else s)

/-- PRESENT_OPEN (R612): the module acts as if both inputs were lost, and stops its stations at once. -/
def execPresentOpen (s : State) : Host.Outcome State Fault Refusal :=
  .next (
    if s.supply.phase = 0 then
      stopOnHoldup (setF (setF s F.PWR_STATE_MAIN_OK f0 0 0) F.PWR_STATE_BACKUP_OK f0 0 0)
    else if s.supply.phase = 1 then stopOnHoldup s
    else s)

/-- INPUT_RESTORED (R467): an input is valid before the hold-up is spent. After the power-loss notice the named jobs freeze. -/
def execInputRestored (main : Bool) (s : State) : Host.Outcome State Fault Refusal :=
  .next (
    if s.supply.phase ≠ 1 ∧ s.supply.phase ≠ 2 then s
    else
      let told := s.supply.phase == 2
      let named := s.supply.named
      let s := setF s (if main then F.PWR_STATE_MAIN_OK else F.PWR_STATE_BACKUP_OK) f0 0 1
      let s := addF (updSupply s (fun x => { x with phase := 0, named := [] })) F.PWR_CNT_SWITCH_RIDE f0 0 1
      let s := selectInput s (!main)
      if told then
        let s := if flag s F.SN_CFG_FREEZE f0 then freezeFns s (myId s) (named.flatMap (fnsOfTag s)) else s
        settle (supplyNotice s 4)
      else s)

/-- The always-on fields that stay in Black while an input is valid (R483, R490, R494). -/
def aonFields : List Fld :=
  [F.AON_WAKE_LAST_SRC, F.AON_WAKE_LAST_DIE, F.AON_WAKE_LAST_PORT, F.AON_WAKE_TIME_COUNT, F.AON_WAKE_EN_EN, F.AON_CMP_LO_CMP,
   F.AON_CMP_HI_CMP, F.PWR_STATE_SRC, F.PWR_STATE_MAIN_OK, F.PWR_STATE_BACKUP_OK, F.MGT_STRAP_SDA, F.MGT_STRAP_SCL, F.MGT_STRAP_ADDR,
   F.CLK_REF_STATE_AON_OK]

/-- The module is in Black (R467, R483): pool, HBM and far memory are lost, flash stays; with an input valid the always-on domain
runs on. -/
def blackState (s : State) (powered : Bool) : State :=
  let t := coldState s
  let dies := (List.range 16).map (fun d => (d, 5))
  let keep := if powered then keepFields s.flds (fun f => coldKept.contains f || aonFields.contains f) else t.flds
  let t := { t with flds := keep, powers := dies, supply := { Supply.reset with phase := 3 }, aon := if powered then s.aon else 0 }
  showCables s (if powered then t else setF (setF t F.PWR_STATE_MAIN_OK f0 0 0) F.PWR_STATE_BACKUP_OK f0 0 0)

/-- HOLDUP_SPENT (R467): the module falls to Black. -/
def execHoldupSpent (s : State) : Host.Outcome State Fault Refusal :=
  .next (if s.supply.phase = 1 ∨ s.supply.phase = 2 then blackState s false else s)

/-! ## Coolant (R620) -/

/-- COOL_OK changes; a class-0 record is written (R620). -/
def setCool (s : State) (v : Nat) : State := logRec (setF s F.PWR_STATE_COOL_OK f0 0 v) 0 (die04 s) 0xFF 0 0 v

/-- COOLANT_READING (R620): flow in 0.1 L/min, inlet in 0.1 °C. -/
def execCoolantReading (flow inlet : Nat) (s : State) : Host.Outcome State Fault Refusal :=
  .next (
    let s := updSupply s (fun x => { x with flow := flow, inlet := inlet })
    if (flow < 200 ∨ inlet > 400) ∧ flag s F.PWR_STATE_COOL_OK f0 then setCool s 0 else s)

/-- COOL_OK_RESTORE (R620): 1 s at 20.5 L/min or more and 39 °C or less. -/
def execCoolOkRestore (s : State) : Host.Outcome State Fault Refusal :=
  .next (
    if !flag s F.PWR_STATE_COOL_OK f0 ∧ s.supply.flow ≥ 205 ∧ s.supply.inlet ≤ 390 then setCool s 1 else s)

/-! ## Heat (R478-R482) -/

/-- Some sensor is at a warm level or above (R488). -/
def anyWarm (s : State) : Bool :=
  (List.range 16).any (fun d => !dieFenced s d &&
    (getF s F.GV_STATE_DIE_LVL d != 0 || getF s F.GV_STATE_STK0_LVL d != 0 || getF s F.GV_STATE_STK1_LVL d != 0))

/-- ALERT_N follows: pin 0 goes low while any sensor is warm or above. -/
def showAlert (was : Bool) (s : State) : State := if anyWarm s = was then s else emit s (.pin 0 (b2n was))

/-- The level of a die after a reading: 0 normal, 1 warm, 2 throttle; each is left 3 K below its threshold (R478). -/
def dieLevel (lvl temp : Nat) : Nat :=
  if temp ≥ 100 ∨ (lvl = 2 ∧ temp > 97) then 2 else if temp ≥ 90 ∨ (lvl ≥ 1 ∧ temp > 87) then 1 else 0

/-- DIE_TEMP_READING (R472, R478): the hottest junction of a compute die, in °C. -/
def execDieTempReading (die temp : Nat) (s : State) : Host.Outcome State Fault Refusal :=
  .next (
    if !isComp die ∨ dieFenced s die then s
    else
      let was := anyWarm s
      let s := setF s F.GV_TEMP_DIE die 0 (sat 255 temp)
      if temp ≥ 115 then showAlert was (fenceDie (override s die) die 4)
      else
        let l := dieLevel (getF s F.GV_STATE_DIE_LVL die) temp
        let s := setF s F.GV_STATE_DIE_LVL die 0 l
        showAlert was (if l = 2 then override s die else s))

/-- THROTTLE_CLOCK_STEP (R478): one point down per 200 µs at throttle, one point up per 2 ms after it. -/
def execThrottleClockStep (die : Nat) (s : State) : Host.Outcome State Fault Refusal :=
  .next (
    if !isComp die ∨ dieFenced s die ∨ powerOf s die ≥ 2 then s
    else
      let g := govOf s die
      let s :=
        if getF s F.GV_STATE_DIE_LVL die = 2 then
          if g.heatCut < 14 then addF (updGov s die (fun g => { g with heatCut := g.heatCut + 1 })) F.GV_CNT_THROTTLE_THROTTLE die 0 1
          else s
        else updGov s die (fun g => { g with heatCut := g.heatCut - 1 })
      startStep s die)

/-- The level of a stack after a reading: 0 normal, 1 warm, 2 hot, 3 critical (R478). -/
def heatLevel (lvl temp : Nat) : Nat :=
  if temp ≥ 105 ∨ (lvl = 3 ∧ temp > 102) then 3
  else if temp ≥ 95 ∨ (lvl ≥ 2 ∧ temp > 92) then 2
  else if temp ≥ 85 ∨ (lvl ≥ 1 ∧ temp > 82) then 1
  else 0

/-- The drain of a critical stack begins, goes on or is given up (R480). -/
def followCritical (s : State) (n lvl : Nat) : State :=
  let d := tgetD s.drains n 0
  if lvl = 3 then drainOut (if d = 0 ∨ d = 3 then { s with drains := tins s.drains n 1 } else s) n
  else if d = 1 ∨ d = 2 then { s with drains := tdel s.drains n }
  else s

/-- STACK_TEMP_READING (R478-R481, R582): the temperature of a stack, in °C. -/
def execStackTempReading (stack temp : Nat) (s : State) : Host.Outcome State Fault Refusal :=
  .next (
    let die := stack / 2
    if !isComp die ∨ dieFenced s die then s
    else
      let even := stack % 2 == 0
      let was := anyWarm s
      let s := setF s (if even then F.GV_TEMP_STK0 else F.GV_TEMP_STK1) die 0 (sat 255 temp)
      if tgetD s.stackState stack 0 = 1 then s
      else
        let old := stackLevel s stack
        let l := heatLevel old temp
        let s := setF s (if even then F.GV_STATE_STK0_LVL else F.GV_STATE_STK1_LVL) die 0 l
        let s := if old < 2 ∧ l ≥ 2 then voidMargin (addF s F.GV_CNT_HOT_HOT die 0 1) stack else s
        showAlert was (if temp ≥ 110 then fenceStack (voidMargin s stack) stack 4 2 else followCritical s stack l))

/-- The bandwidth allowance of a stack in eighths (R479, R491). -/
def bandwidth (stack : Nat) : Fld := if stack % 2 = 0 then F.GV_STK_BW_STK0 else F.GV_STK_BW_STK1

/-- HOT_STACK_STEP (R479): the next step while the stack is hot, the next reversal after it. -/
def execHotStackStep (stack : Nat) (s : State) : Host.Outcome State Fault Refusal :=
  .next (
    let die := stack / 2
    if !isComp die ∨ dieFenced s die ∨ tgetD s.stackState stack 0 = 1 then s
    else
      let bw := getF s (bandwidth stack) die
      let st := tgetD s.hotStep stack 0
      if stackLevel s stack ≥ 2 then
        if st < 2 then { s with hotStep := tins s.hotStep stack (st + 1) }
        else if bw > 4 then setF s (bandwidth stack) die 0 (bw - 1)
        else s
      else if bw < 8 then setF s (bandwidth stack) die 0 (bw + 1)
      else { s with hotStep := tput s.hotStep stack (st - 1) 0 })

/-! ## Power states (R483-R490, R634) -/

/-- No descriptor is admitted on a die, and no station of it is busy (R484). -/
def dieIdle (s : State) (die : Nat) : Bool :=
  !s.descs.any (fun d => qDie d.queue == die) && !s.fifos.any (fun p => p.1 / 64 == die) && !s.overs.any (fun p => p.1 / 64 == die) &&
    !s.reqs.any (fun p => p.1 / 64 == die)

/-- The mode in which a sequencer waits: 0 where it does not wait, or waits plainly (R484). -/
def waitMode (s : State) (die k : Nat) : Nat := tgetD s.modes (die * 4 + k) 0 - 1

/-- The state a die may enter: the shallowest mode of its four sequencers, once it is idle (R484). -/
def entryMode (s : State) (die : Nat) : Nat :=
  if isComp die && !dieFenced s die && dieIdle s die then
    min (min (waitMode s die 0) (waitMode s die 1)) (min (waitMode s die 2) (waitMode s die 3))
  else 0

/-- The mode in which a sequencer that executes its wait comes to wait: the firmware's, from GV_PS_TARGET, on an idle die where that names a
state; else the one it was given, of which 3 reads as 0 (R484, R491). -/
def firmwareMode (s : State) (die mode : Nat) : Nat :=
  let t := getF s F.GV_PS_TARGET_TARGET die
  if dieIdle s die && (t == 1 || t == 2) then t else if mode % 4 = 3 then 0 else mode % 4

/-- SEQUENCER_POWER_WAIT (R484). -/
def execSequencerPowerWait (die seqr mode : Nat) (s : State) : Host.Outcome State Fault Refusal :=
  .next (
    if isComp die ∧ seqr < 4 ∧ !dieFenced s die ∧ powerOf s die < 2 then
      { s with modes := tins s.modes (die * 4 + seqr) (1 + firmwareMode s die mode) }
    else s)

/-- GREY_IDLE_TIMER (R484): the firmware lets every sequencer that has no deeper mode wait in Grey. -/
def execGreyIdleTimer (die : Nat) (s : State) : Host.Outcome State Fault Refusal :=
  .next (
    if isComp die ∧ !dieFenced s die ∧ powerOf s die = 0 ∧ flag s F.GV_CTRL_AUTO_GREY die ∧ dieIdle s die then
      (List.range 4).foldl (fun s k =>
        if waitMode s die k = 0 then { s with modes := tins s.modes (die * 4 + k) 2 } else s) s
    else s)

/-- GREY_ENTRY (R484, R485): an early wake abandons the entry. -/
def execGreyEntry (die : Nat) (early : Bool) (s : State) : Host.Outcome State Fault Refusal :=
  .next (
    if powerOf s die = 0 ∧ entryMode s die = 1 then
      if early then addF (leaveWaits s die) F.GV_CNT_ABORT_ABORT die 0 1 else setPower s die 1
    else s)

/-- CHARCOAL_ENTRY (R484, R486): from now on admission, doorbells and transactions for the die are held. -/
def execCharcoalEntry (die : Nat) (s : State) : Host.Outcome State Fault Refusal :=
  .next (
    if powerOf s die ≤ 1 ∧ entryMode s die = 2 then
      setPower { s with psAt := tins s.psAt die (now s + 1), psWake := tdel s.psWake die } die 2
    else s)

/-- What the fabric side holds for a die is delivered in order (R486, R487). -/
def deliverHeld (s : State) (die : Nat) : State :=
  let dieOf : Held → Nat
    | .sig d _ _ => d
    | .bell d _ _ _ _ => d
    | .tx d _ => d
  let mine := s.held.filter (fun h => dieOf h == die)
  let s := { s with held := s.held.filter (fun h => !(dieOf h == die)) }
  runRings (settle (mine.foldl (fun s h =>
    match h with
    | .sig d tok inc => addTok s d tok inc
    | .bell _ fn off size value => applyDoorbell s fn off size value
    | .tx d t => deliverTx s d t) s))

/-- The fast domains of a die: CORE, HBM or its like, LINK, and FLASH of a memory die (R493). -/
def fastDomains (die : Nat) : List Nat := List.range (if isMem die then 4 else 3)

/-- The fast clocks of a die start: a domain that is off starts at D = 2, and ramps (R495; both PLLs lock, log entry 58). -/
def startDomains (s : State) (die : Nat) : State :=
  (fastDomains die).foldl (fun s d =>
    if getF s F.CLK_DOM_STATE_STATE die d = 3 then
      let s := setF (setF s F.CLK_DOM_STATE_STATE die d 0) F.CLK_DOM_STATE_DIV die d 16
      let s := setF (setF s F.CLK_DOM_STATE_LOCK0 die d 1) F.CLK_DOM_STATE_LOCK1 die d 1
      { s with swaps := tins s.swaps (die * 4 + d) 5 }
    else s) s

/-- The PLLs of a die stop (R495). -/
def stopDomains (s : State) (die : Nat) : State :=
  let s := { s with swaps := s.swaps.filter (fun p => !(p.1 / 4 == die)), stopped := s.stopped.filter (fun p => !(p.1 / 4 == die)) }
  (fastDomains die).foldl (fun s d =>
    let s := setF (setF s F.CLK_DOM_STATE_STATE die d 3) F.CLK_DOM_STATE_DIV die d 16
    setF (setF (setF s F.CLK_DOM_STATE_LOCK0 die d 0) F.CLK_DOM_STATE_LOCK1 die d 0) F.CLK_DOM_STATE_SRC die d 0) s

/-- CHARCOAL_REACHED (R486): the die is in Charcoal, and takes no work; a wake after the last abort point is served now. -/
def execCharcoalReached (die : Nat) (s : State) : Host.Outcome State Fault Refusal :=
  .next (
    if powerOf s die ≠ 2 then s
    else
      let clear (s : State) (f : Fld) : State := if bit (getF s f f0) die then setF s f f0 0 (getF s f f0 - 2 ^ die) else s
      let s := clear (clear s F.MGT_SVC_DIES_LIMITED) F.MGT_SVC_DIES_FULL
      let woken := (tget? s.psWake die).isSome
      let s := { s with psAt := tdel s.psAt die, psWake := tdel s.psWake die }
      showLevel (setPower (stopDomains (updGov s die (fun g => { g with stepping := false })) die) die (if woken then 4 else 3)))

/-- CHARCOAL_WAKE_DONE (R487): the die is White at 1.2 GHz, in limited service; what was held for it is delivered. -/
def execCharcoalWakeDone (die : Nat) (s : State) : Host.Outcome State Fault Refusal :=
  .next (
    if powerOf s die ≠ 4 ∨ !isComp die ∨ dieFenced s die then s
    else
      let s := setOpp (startDomains (setPower (leaveWaits s die) die 0) die) die 6
      let lim := getF s F.MGT_SVC_DIES_LIMITED f0
      let s := if bit lim die then s else setF s F.MGT_SVC_DIES_LIMITED f0 0 (lim + 2 ^ die)
      deliverHeld (showLevel s) die)

/-! ## Wakes (R486, R488-R490) -/

/-- A wake reaches a die; `direct` says it is addressed to the die (sources 7-9). The second part says whether a state changed. -/
def wakeDie (direct grey : Bool) (s : State) (die : Nat) : State × Bool :=
  if !isComp die ∨ dieFenced s die then (s, false)
  else
    match powerOf s die with
    | 1 => if grey then (setPower (leaveWaits s die) die 0, true) else (s, false)
    | 2 =>
      if direct && decide (now s + 1 < tgetD s.psAt die 0 + lastAbort) then
        let s := addF (setPower (leaveWaits { s with psAt := tdel s.psAt die } die) die 0) F.GV_CNT_ABORT_ABORT die 0 1
        (deliverHeld s die, true)
      else ({ s with psWake := tins s.psWake die 1 }, (tget? s.psWake die).isNone)
    | 3 => (setPower s die 4, true)
    | _ => (s, false)

/-- Every compute die that is not fenced is in Charcoal (R483). -/
def moduleCharcoal (s : State) : Bool := (List.range 16).all (fun d => dieFenced s d || powerOf s d == 3)

/-- Dies with a queue that a function of a host port owns (R488). -/
def portDies (s : State) (port : Nat) : List Nat :=
  (List.range 16).filter (fun d => (List.range 64).any (fun g =>
    match ownerOf (getF s F.QUE_GRP_OWN_OWNER d g) with
    | some f => portOf f == port
    | none => false))

/-- The dies that a wake source wakes (R488). -/
def wakeTargets (s : State) (source die port : Nat) : List Nat :=
  match source with
  | 2 => if (portDies s port).isEmpty then List.range 16 else portDies s port
  | 3 => if moduleCharcoal s then List.range 16 else []
  | 4 => List.range 16
  | 7 => [die]
  | 8 => [die]
  | 9 => [die]
  | _ => []

/-- A wake source fires for some dies (R488, R490). -/
def wakeAll (s : State) (source port : Nat) (dies : List Nat) : State :=
  let busy := s.powers.any (fun p => p.2 == 4) || !s.psWake.isEmpty
  let (s, changed) := dies.foldl (fun (p : State × Option Nat) d =>
    let (t, c) := wakeDie (decide (source ≥ 7)) (source == 7 || source == 8) p.1 d
    (t, if c && p.2.isNone then some d else p.2)) (s, none)
  match changed with
  | some d => if busy then s else recordWake s source d port
  | none => s

/-- A wake source fires (R488): a disabled one wakes nothing. In Black, sources 1, 2 and 4 ask for a cold start, and 5 drives
ALERT_N. -/
def wakeBy (s : State) (source die port : Nat) : State :=
  if source = 0 ∨ source > 9 ∨ !bit (getF s F.AON_WAKE_EN_EN f0) (source - 1) then s
  else if s.supply.phase = 3 then
    if source = 1 ∨ source = 2 ∨ source = 4 then recordWake (updSupply s (fun x => { x with phase := 4 })) source die port
    else if source = 5 then emit s (.pin 0 0)
    else s
  else if s.supply.phase = 4 then s
  else wakeAll s source port (wakeTargets s source die port)

/-- WAKE_EVENT (R488, R490). -/
def execWakeEvent (source die port : Nat) (s : State) : Host.Outcome State Fault Refusal := .next (wakeBy s source die port)

/-- The always-on count (R494, R500). -/
def aonCount (s : State) : Nat := s.aon / 100000000 % 2 ^ 48

/-- AON_TIMER_MATCH (R488, R492): the count has reached a nonzero compare. -/
def execAonTimerMatch (s : State) : Host.Outcome State Fault Refusal :=
  .next (
    let cmp := getPair s F.AON_CMP_LO_CMP F.AON_CMP_HI_CMP f0
    if cmp ≠ 0 ∧ aonCount s = cmp ∧ flag s F.CLK_REF_STATE_AON_OK f0 then wakeBy s 4 0 0 else s)

/-- I3C_ADDRESS_MATCH (R489): in Black a match is NACKed (pin 1) and raises source 1. -/
def execI3cAddressMatch (s : State) : Host.Outcome State Fault Refusal :=
  .next (if s.supply.phase ≥ 3 then wakeBy (emit s (.pin 1 0)) 1 0 0 else s)

end Sys2Proof.Machine
end

