-- ==== Sys2Proof/Machine/Clocks.lean ====
section
/-! DEFINITION. The module reference, the tick, clock domains and their failures and switches (R493-R509). -/

namespace Sys2Proof.Machine

open Sys2Proof

/-! ## The module reference (R496-R499) -/

/-- CLK_REF_STATE.SRC: 0 none, 1 primary, 2 secondary, 3 local. -/
def refSrc (s : State) : Nat := getF s F.CLK_REF_STATE_SRC f0

/-- A source is enabled and valid (R496, R497). -/
def refGood (s : State) (n : Nat) : Bool :=
  match n with
  | 1 => flag s F.CLK_REF_SEL_PRI_EN f0 && flag s F.CLK_REF_STATE_PRI_OK f0
  | 2 => flag s F.CLK_REF_SEL_SEC_EN f0 && flag s F.CLK_REF_STATE_SEC_OK f0
  | 3 => flag s F.CLK_REF_SEL_LOCAL_EN f0 && flag s F.CLK_REF_STATE_LOC_OK f0
  | _ => false

/-- The first valid source in order; 0 where none is (R497). -/
def refBest (s : State) : Nat := (([1, 2, 3] : List Nat).find? (refGood s)).getD 0

/-- CLK_TICK.ROOT: local is selected, and the management controller has not aligned the tick (R500). -/
def showRoot (s : State) : State := setF s F.CLK_TICK_ROOT f0 0 (b2n (refSrc s == 3 && !s.aligned))

/-- Take a source; each change to a source is counted and told, none at all is holdover (R497, R519; log entry 57). -/
def takeSource (s : State) (n : Nat) : State :=
  if n = refSrc s then s
  else
    let s := setF (setF s F.CLK_REF_STATE_SRC f0 0 n) F.CLK_REF_STATE_HOLDOVER f0 0 (b2n (n == 0))
    let s := showRoot s
    if n = 0 then s
    else
      let s := addF s F.CLK_CNT_REF_SWITCH f0 0 1
      let s := if n = 3 then addF s F.CLK_CNT_REF_LOCAL f0 0 1 else s
      localNotice s 8 n 0

/-- The field that shows whether a source is valid. -/
def refOk (n : Nat) : Option Fld :=
  match n with
  | 1 => some F.CLK_REF_STATE_PRI_OK
  | 2 => some F.CLK_REF_STATE_SEC_OK
  | 3 => some F.CLK_REF_STATE_LOC_OK
  | _ => none

/-- The port of the primary or secondary source. -/
def refPort (s : State) (n : Nat) : Nat :=
  if n = 1 then getF s F.CLK_REF_SEL_PRIMARY f0 else getF s F.CLK_REF_SEL_SECONDARY f0

/-- REF_SELECT_WRITE (R497, R508): a source whose port changes has still to be measured; the first valid source is selected. -/
def execRefSelectWrite (src : Src) (value : Nat) (s : State) : Host.Outcome State Fault Refusal :=
  .next (pfWrite s src (die04 s) 0x090000 value (fun s =>
    let old := (refPort s 1, refPort s 2)
    let s := plainWrite s src (die04 s) 0x090000 value
    let s := if refPort s 1 = old.1 then s else setF s F.CLK_REF_STATE_PRI_OK f0 0 0
    let s := if refPort s 2 = old.2 then s else setF s F.CLK_REF_STATE_SEC_OK f0 0 0
    takeSource s (refBest s)))

/-- REF_SOURCE_INVALID (R497): the next valid source is selected, if it was the selected one. -/
def execRefSourceInvalid (source : Nat) (s : State) : Host.Outcome State Fault Refusal :=
  .next (match refOk source with
    | none => s
    | some f =>
      let s := setF s f f0 0 0
      if source = refSrc s then takeSource s (refBest s) else s)

/-- REFERENCE_SOURCE_VALID (R496, R497): it is selected if no valid source is. -/
def execReferenceSourceValid (source : Nat) (s : State) : Host.Outcome State Fault Refusal :=
  .next (match refOk source with
    | none => s
    | some f =>
      if source < 3 ∧ !portActive s (refPort s source) then s
      else
        let s := setF s f f0 0 1
        if refGood s (refSrc s) then s else takeSource s (refBest s))

/-- REF_REVERT (R497): with REVERT at 1 an earlier source that has been valid for 1 s is selected again. -/
def execRefRevert (s : State) : Host.Outcome State Fault Refusal :=
  .next (
    let b := refBest s
    if flag s F.CLK_REF_SEL_REVERT f0 ∧ b ≠ 0 ∧ b < refSrc s then takeSource s b else s)

/-- AON_CRYSTAL_STOP (R494). -/
def execAonCrystalStop (s : State) : Host.Outcome State Fault Refusal := .next (setF s F.CLK_REF_STATE_AON_OK f0 0 0)

/-! ## The tick (R500) -/

/-- CLK_TICK.SLEWING follows what is left to slew. -/
def showSlew (s : State) : State := setF s F.CLK_TICK_SLEWING f0 0 (b2n (s.slew != 0))

/-- The rate of a storage connection recovers by 1/16 every 100 µs (R533). -/
def recoverRates (s : State) : State :=
  let up (x : Conn) : Conn := { x with rate := min 16 (x.rate + 1) }
  if now s % 10000 = 0 then { s with conns := s.conns.map (fun p => (p.1, up p.2)) } else s

/-- One cycle of the module reference (R494, R500; log entry 10): the tick advances by one, or by none or two while it slews; the
always-on count advances by its share of a cycle. -/
def idleTick (s : State) : State :=
  let powered := decide (s.supply.phase < 3) || flag s F.PWR_STATE_MAIN_OK f0 || flag s F.PWR_STATE_BACKUP_OK f0
  let s := if flag s F.CLK_REF_STATE_AON_OK f0 && powered then { s with aon := (s.aon + 32768) % (2 ^ 48 * 100000000) } else s
  if s.tickStop ∨ refSrc s = 0 ∨ s.supply.phase ≥ 3 then s
  else if s.slew = 0 then recoverRates { s with tick := s.tick + 1, slewCnt := 0 }
  else if s.slewCnt < 9999 then recoverRates { s with tick := s.tick + 1, slewCnt := s.slewCnt + 1 }
  else if s.slew > 0 then recoverRates (showSlew { s with tick := s.tick + 2, slewCnt := 0, slew := s.slew - 1 })
  else showSlew { s with slewCnt := 0, slew := s.slew + 1 }

/-- Align the tick (R500): at once while VALID is 0, by slewing where it differs by more than one. -/
def setTickTo (s : State) (t : Nat) : State :=
  if flag s F.CLK_TICK_VALID f0 then
    let d : Int := (t : Int) - (now s : Int)
    if d.natAbs ≤ 1 then s else showSlew { s with slew := d, slewCnt := 0 }
  else showSlew (setF { s with tick := BitVec.ofNat 64 t, slew := 0 } F.CLK_TICK_VALID f0 0 1)

/-- TICK_ALIGN_SEND (R500): an ACTIVE port sends the tick in link control. -/
def execTickAlignSend (port : Nat) (s : State) : Host.Outcome State Fault Refusal :=
  .next (if portActive s port then emit s (.control port 2 (toLe 8 (now s))) else s)

/-- The tick of the partner of a port arrives (R500): a module that is no root and that recovers its reference from that port takes
it, plus half the measured round trip, which is free (log entry 6). -/
def takeTick (s : State) (port t : Nat) : State :=
  let n := refSrc s
  if (n = 1 ∨ n = 2) ∧ refPort s n = port then
    let (k, s) := freshFree s
    setTickTo s ((t + (Config.freeWord k).toNat) % 2 ^ 64)
  else s

/-! ## Domains (R493, R502, R504) -/

/-- A die has a domain; 4 is the TICK domain of F0, and of F4 while F0 is fenced (R493). -/
def hasDomain (s : State) (die dom : Nat) : Bool :=
  die < 32 && (dom < 3 || (dom == 3 && isMem die) || (dom == 4 && die == die04 s))

/-- Key of a domain. -/
def domKey (die dom : Nat) : Nat := die * 4 + dom

/-- The lock field of a PLL. -/
def lockFld (pll : Nat) : Fld := if pll = 0 then F.CLK_DOM_STATE_LOCK0 else F.CLK_DOM_STATE_LOCK1

/-- CLK_DOM_STATE.STATE of a domain. -/
def domState (s : State) (die dom : Nat) : Nat := getF s F.CLK_DOM_STATE_STATE die dom

/-- The consequence of a forced domain for what it clocks (R385, R410, R502). -/
def domainLost (s : State) (die dom : Nat) : State :=
  if dom = 1 ∧ isFab die then
    ((List.range 6).map (portOn die)).foldl (fun s p =>
      let st := portState s p
      if st = 1 ∨ st = 2 ∨ st = 3 then portDown s p else s) s
  else if dom = 2 then
    fenceCut 32 { s with links := (linkedTo die).foldl (fun t b => tins t (linkKey die b) 1) s.links }
  else s

/-- A domain is forced to its safe state (R502). -/
def forceDomain (s : State) (die dom : Nat) (runt : Bool) : State :=
  let s := setF (setF s F.CLK_DOM_STATE_STATE die dom 2) F.CLK_DOM_STATE_RUNT die dom (b2n runt)
  let s := addF s F.CLK_DOM_CNT_STOPS die dom 1
  domainLost { s with swaps := tdel s.swaps (domKey die dom), stopped := tins s.stopped (domKey die dom) (now s + 1) } die dom

/-- CLOCK_SOURCE_FAIL (R502, R506): `stop` says that the PLL which fails is the one the domain runs from. A target lost before the
multiplexer changes returns D to 1 on the former PLL. -/
def execClockSourceFail (die dom : Nat) (stop runt : Bool) (s : State) : Host.Outcome State Fault Refusal :=
  .next (
    if !hasDomain s die dom ∨ dieFenced s die then s
    else if dom = 4 then
      setF (showSlew { s with tickStop := true, slew := 0 }) F.CLK_TICK_VALID f0 0 0
    else if domState s die dom ≥ 2 then s
    else
      let src := getF s F.CLK_DOM_STATE_SRC die dom
      if stop then forceDomain (setF s (lockFld src) die dom 0) die dom runt
      else
        let s := setF s (lockFld (1 - src)) die dom 0
        let k := domKey die dom
        match tget? s.swaps k with
        | some x =>
          if x ≤ 2 then setF { s with swaps := tins s.swaps k 4 } F.CLK_DOM_CTRL_LAST die dom CONFLICT else s
        | none => s)

/-- HOLDOVER_EXPIRY (R499): 1 ms without a source; every fast domain that runs is forced. `runts` names the domains, die × 4 + domain,
whose last edge had not its full width. -/
def execHoldoverExpiry (runts : List Nat) (s : State) : Host.Outcome State Fault Refusal :=
  .next (
    if refSrc s ≠ 0 then s
    else
      let s := addF s F.CLK_CNT_REF_LOSS f0 0 1
      (List.range 128).foldl (fun s k =>
        let die := k / 4
        let dom := k % 4
        if hasDomain s die dom && !dieFenced s die && decide (domState s die dom < 2) then
          let s := setF (setF s F.CLK_DOM_STATE_LOCK0 die dom 0) F.CLK_DOM_STATE_LOCK1 die dom 0
          forceDomain s die dom (runts.contains k)
        else s) s)

/-- The far tier of a memory die is fenced (R342, R504). -/
def fenceFar (s : State) (die : Nat) : State :=
  if flag s F.TM_STATE_FAR_OK die then
    let k := die - 24
    let s := logRec (setF s F.TM_STATE_FAR_OK die 0 0) 2 die 0xFF 5 0 0
    let here (t l : Nat) : Bool := t == 1 && l / (farRange s / region) == k
    showLevel (runRings (settle (loseFarPages (loseRegions s here) k)))
  else s

/-- MEMORY_CLOCK_TIMEOUT (R504): an HBM or FAR domain has not resumed within 32 ms. -/
def execMemoryClockTimeout (die dom : Nat) (s : State) : Host.Outcome State Fault Refusal :=
  .next (
    if dom ≠ 1 ∨ dieFenced s die ∨ domState s die 1 ≠ 2 then s
    else if isComp die then runRings (fenceStack (fenceStack s (2 * die) 5 0) (2 * die + 1) 5 0)
    else if isMem die then fenceFar s die
    else s)

/-! ## Switches (R505, R506) -/

/-- A switch of the domain is in progress (R505). -/
def switching (s : State) (die dom : Nat) : Bool :=
  match tget? s.swaps (domKey die dom) with
  | some x => decide (x < 5)
  | none => false

/-- A request to switch is refused: the domain does not run, its other PLL is not locked, or it switches already (R505). -/
def switchRefused (s : State) (die dom : Nat) : Bool :=
  decide (domState s die dom ≥ 2) || switching s die dom ||
    !flag s (lockFld (1 - getF s F.CLK_DOM_STATE_SRC die dom)) die dom

/-- Begin a switch; one of CORE waits for an operating-point step in progress (R506). -/
def startSwitch (s : State) (die dom : Nat) : State :=
  let waits := dom == 0 && isComp die && (govOf s die).stepping
  setF { s with swaps := tins s.swaps (domKey die dom) (if waits then 1 else 2) } F.CLK_DOM_STATE_STATE die dom 1

/-- DOMAIN_SWITCH (R505): a write of CLK_DOM_CTRL. -/
def execDomainSwitch (src : Src) (die dom value : Nat) (s : State) : Host.Outcome State Fault Refusal :=
  .next (
    if dom = 4 ∨ !hasDomain s die dom then s
    else
      pfWrite s src die (0x640004 + 0x10 * dom) value (fun s =>
        let s := setF s F.CLK_DOM_CTRL_MARGIN_SW die dom (bits value 1 1)
        if !bit value 0 then s
        else if switchRefused s die dom then
          logErr (setF s F.CLK_DOM_CTRL_LAST die dom CONFLICT) (srcFn src) CLK_REFUSED (0x640004 + 0x10 * dom)
        else startSwitch (setF s F.CLK_DOM_CTRL_LAST die dom 0) die dom))

/-- MARGIN_AUTO_SWITCH (R505, R509): the lock margin of the selected PLL has fallen below its limit. DESIGN CHOICE (log entry 137): a refusal
is logged in function 0's error ring, since no function asked. -/
def execMarginAutoSwitch (die dom : Nat) (s : State) : Host.Outcome State Fault Refusal :=
  .next (
    if dom = 4 ∨ !hasDomain s die dom ∨ dieFenced s die ∨ !flag s F.CLK_DOM_CTRL_MARGIN_SW die dom then s
    else if switchRefused s die dom then
      logErr (setF s F.CLK_DOM_CTRL_LAST die dom CONFLICT) 0 CLK_REFUSED (0x640004 + 0x10 * dom)
    else startSwitch (setF s F.CLK_DOM_CTRL_LAST die dom 0) die dom)

/-- D of a domain in sixteenths above 1. -/
def domDiv (s : State) (die dom : Nat) : Nat := getF s F.CLK_DOM_STATE_DIV die dom

/-- One step of D down; at D = 1 the ramp is over (R505). -/
def rampDown (s : State) (die dom : Nat) (counted : Bool) : State :=
  let d := domDiv s die dom - 1
  let s := setF s F.CLK_DOM_STATE_DIV die dom d
  if d ≠ 0 then s
  else
    let s := setF { s with swaps := tdel s.swaps (domKey die dom) } F.CLK_DOM_STATE_STATE die dom 0
    let s := if counted then addF s F.CLK_DOM_CNT_SWITCHES die dom 1 else s
    if dom = 0 ∧ isComp die then startStep s die else s

/-- One step of D up; at D = 2 the multiplexer changes to the target (R505). -/
def rampUp (s : State) (die dom : Nat) : State :=
  let d := min 16 (domDiv s die dom + 1)
  let s := setF s F.CLK_DOM_STATE_DIV die dom d
  if d = 16 then
    setF { s with swaps := tins s.swaps (domKey die dom) 3 } F.CLK_DOM_STATE_SRC die dom (1 - getF s F.CLK_DOM_STATE_SRC die dom)
  else { s with swaps := tins s.swaps (domKey die dom) 2 }

/-- SWITCH_RAMP_STEP (R503, R505): every 2 µs of a switch or a restart D changes by 1/16. -/
def execSwitchRampStep (die dom : Nat) (s : State) : Host.Outcome State Fault Refusal :=
  .next (
    if dom ≥ 4 then s
    else
      match tget? s.swaps (domKey die dom) with
      | none => s
      | some 1 => if (govOf s die).stepping then s else rampUp s die dom
      | some 2 => rampUp s die dom
      | some 3 => rampDown s die dom true
      | some _ => rampDown s die dom false)

/-! ## Clock observation (R507) -/

/-- The clock observation output, pin 2: 0 where it is not driven, else one more than die + 32 × domain. -/
def showObs (s : State) : State :=
  let v := if flag s F.CLK_OBS_EN f0 then 1 + getF s F.CLK_OBS_DIE f0 + 32 * getF s F.CLK_OBS_DOMAIN f0 else 0
  emit s (.pin 2 v)

/-- CLK_OBS_ENABLE (R507, R508): a write of CLK_OBS; EN = 1 is refused while ATB_B is enabled. -/
def execClkObsEnable (src : Src) (value : Nat) (s : State) : Host.Outcome State Fault Refusal :=
  .next (pfWrite s src (die04 s) 0x090020 value (fun s =>
    let s := setF (setF s F.CLK_OBS_DIE f0 0 (bits value 0 5)) F.CLK_OBS_DOMAIN f0 0 (bits value 5 2)
    let s := if bit value 9 then setF s F.CLK_OBS_PREEMPTED f0 0 0 else s
    if !bit value 8 then showObs (setF s F.CLK_OBS_EN f0 0 0)
    else if flag s F.TST_ATB_ROUTE_EN_B f0 then
      logErr (setF s F.CLK_OBS_LAST f0 0 CONFLICT) (srcFn src) CLK_REFUSED 0x090020
    else showObs (setF (setF s F.CLK_OBS_EN f0 0 1) F.CLK_OBS_LAST f0 0 0)))

end Sys2Proof.Machine
end

