-- ==== Sys2Proof/Machine/Collectives.lean ====
section
/-! DEFINITION. The class-7 commands: communicators, reductions, gathers, all-to-all, re-sharding, expert exchange, and the
control records that arrive (R417-R450). -/

namespace Sys2Proof.Machine

open Sys2Proof

/-! ## Checks (R448) -/

/-- The status of a failed check. -/
def rdStatus (r : Nat) : Nat := if r = 4 then FAULT_PROTECTION else CONFLICT

/-- End a descriptor on a failed check of R448. -/
def rejectRd (s : State) (d : Desc) (r : Nat) : State :=
  completeDesc s d (rdStatus r) (seqStation d) (detail6 [r]) 0

/-- The slot is undefined or another function's (R448). -/
def badSlot (s : State) (d : Desc) (slot : Nat) : Bool :=
  match getComm s (qDie d.queue) slot with
  | some c => c.owner != d.fn
  | none => true

/-- Bits [63:52] of a field are set. -/
def topBits (im : Bytes) (o : Nat) : Bool := bits (fld im o 8) 52 12 != 0

/-- A window that R421 does not allow for the span. -/
def badWindow (s : State) (d : Desc) (slot w : Nat) : Bool :=
  match getComm s (qDie d.queue) slot with
  | some c => (c.span == 0 && w != 0) || (c.span == 3 && w == 0)
  | none => false

/-- A call of a descriptor as it starts. -/
def newCall (d : Desc) (slot seq : Nat) (plan : List Bytes) : RdCall :=
  ⟨qDie d.queue, slot, d.queue, d.tag, d.image, d.fn, seq, 0, d.issued, [], [], false, false, plan, [], [], 0, 0, 0, [], none, (0, 0)⟩

/-- The receive area is too short for a reduction (R425). -/
def shortReduce (s : State) (d : Desc) : Bool :=
  match getComm s (qDie d.queue) (fld d.image 0x24 1) with
  | none => false
  | some cm =>
    let c := newCall d 0 0 []
    decide (stageOff cm + cm.size * rA c cm + cm.groups * rP c cm > cm.rxBytes)

/-- RD_REDUCE (R424, R448). -/
def reduceChecks (s : State) (d : Desc) : List (Nat × Bool) :=
  let im := d.image
  let slot := fld im 0x24 1
  let ctl := fld im 0x28 1
  let resid := fld im 0x30 8 % 2 ^ 52
  let slots := bits (fld im 0x30 8) 52 4
  let w := signed 8 (fld im 0x29 1)
  let okFmt (f : Nat) : Bool := decide (1 ≤ f ∧ f ≤ 4)
  [(1, !okFmt (fld im 0x26 1) || !okFmt (fld im 0x27 1) || decide (fld im 0x25 1 > 1)),
   (2, fld im 0x20 4 == 0 || decide (w < -64 ∨ w > 64) || decide (slot > 63)),
   (3, addrOf (fld im 0x10 8) % 64 != 0 || addrOf (fld im 0x18 8) % 64 != 0 || resid % 4096 != 0 || shortReduce s d),
   (4, badSlot s d slot),
   (5, badWindow s d slot (fld im 0x2C 4) || ((bit ctl 2 || bit ctl 3 || slots != 0) && resid == 0)),
   (7, topBits im 0x10 || topBits im 0x18 || bits ctl 4 4 != 0 || bits (fld im 0x30 8) 56 8 != 0 || !zeroAt im 0x3C 4)]

/-- RD_GATHER (R433, R448). -/
def gatherChecks (s : State) (d : Desc) : List (Nat × Bool) :=
  let im := d.image
  let slot := fld im 0x28 1
  let mode := fld im 0x29 1
  let n := ((getComm s (qDie d.queue) slot).map (·.n)).getD (2 ^ 32)
  let list := mode == 2
  [(1, decide (mode > 2)),
   (2, (!list && fld im 0x20 4 == 0) || (mode == 1 && decide (fld im 0x24 4 ≥ n)) ||
      (list && (fld im 0x2A 2 == 0 || decide (fld im 0x2A 2 > 4096))) || decide (slot > 63)),
   (3, (!list && (addrOf (fld im 0x10 8) % 64 != 0 || addrOf (fld im 0x18 8) % 64 != 0 || fld im 0x20 4 % 64 != 0)) ||
      (list && addrOf (fld im 0x30 8) % 64 != 0)),
   (4, badSlot s d slot),
   (5, badWindow s d slot (fld im 0x2C 4)),
   (7, topBits im 0x10 || topBits im 0x18 || topBits im 0x30 || !zeroAt im 0x38 8)]

/-- The entries of a shard list (R434, R448). -/
def listChecks (n : Nat) (es : List Bytes) : List (Nat × Bool) :=
  [(1, es.any (fun e => bits (fld e 4 2) 10 2 == 3)),
   (2, es.any (fun e => fld e 0x18 4 == 0 || decide (entOwner e ≥ n))),
   (3, es.any (fun e => addrOf (fld e 0x10 8) % 64 != 0)),
   (7, es.any (fun e => bits (fld e 4 2) 14 2 != 0 || !zeroAt e 7 1 || topBits e 0x10 || !zeroAt e 0x22 30))]

/-- RD_A2A (R436, R448). -/
def a2aChecks (s : State) (d : Desc) : List (Nat × Bool) :=
  let im := d.image
  [(2, fld im 0x20 4 == 0 || decide (fld im 0x24 1 > 63)),
   (3, addrOf (fld im 0x10 8) % 64 != 0 || addrOf (fld im 0x18 8) % 64 != 0 || fld im 0x20 4 % 64 != 0),
   (4, badSlot s d (fld im 0x24 1)),
   (7, topBits im 0x10 || topBits im 0x18 || !zeroAt im 0x25 27)]

/-- RD_PERMUTE (R438, R448). -/
def permuteChecks (s : State) (d : Desc) : List (Nat × Bool) :=
  let im := d.image
  [(2, fld im 0x18 4 == 0 || decide (fld im 0x18 4 > 2 ^ 20) || decide (fld im 0x1E 1 > 63)),
   (3, addrOf (fld im 0x10 8) % 64 != 0),
   (4, badSlot s d (fld im 0x1E 1)),
   (6, fld im 0x1C 2 != (curEpoch s (qDie d.queue) d.fn + 1) % 65536),
   (7, topBits im 0x10 || !zeroAt im 0x1F 33)]

/-- The entries of a permutation map (R438, R448). -/
def permuteMapChecks (es : List Bytes) : List (Nat × Bool) :=
  [(2, es.any (fun e => fld e 0x10 4 == 0)),
   (7, es.any (fun e => topBits e 0 || bits (fld e 0x1C 2) 10 4 != 0 || bits (fld e 0x1E 2) 10 5 != 0))]

/-- RD_EPOCH (R441, R448). -/
def epochChecks (s : State) (d : Desc) : List (Nat × Bool) :=
  let im := d.image
  [(1, fld im 0x12 1 != 0),
   (6, !epochBefore (fld im 0x10 2) (curEpoch s (qDie d.queue) d.fn)),
   (7, !zeroAt im 0x13 45)]

/-- RD_EXT (R442, R448). -/
def extChecks (im : Bytes) : List (Nat × Bool) :=
  let n := fld im 0x12 2
  [(1, decide (fld im 0x10 1 > 2)),
   (2, fld im 0x10 1 == 0 && (n == 0 || decide (fld im 0x11 1 + n > 256))),
   (7, !zeroAt im 0x14 4 || topBits im 0x18 || !zeroAt im 0x20 32)]

/-- The receive area is too short for a dispatch (R444). -/
def shortExpert (s : State) (d : Desc) : Bool :=
  match getComm s (qDie d.queue) (fld d.image 0x36 1) with
  | none => false
  | some cm =>
    let c := newCall d 0 0 []
    let cm := { cm with exch := ⟨extView s (qDie d.queue), [], []⟩ }
    decide (stageOff cm + localExperts cm cm.rank * xCap c * (xPitch c + 8) > cm.rxBytes)

/-- RD_EXPERT (R443, R448). -/
def expertChecks (s : State) (d : Desc) : List (Nat × Bool) :=
  let im := d.image
  let fmt := fld im 0x32 1
  let op := fld im 0x35 1
  let comb := op == 1
  let row := rowBytes fmt (fld im 0x37 1) (fld im 0x30 2)
  let badRow (o n : Nat) : Bool := addrOf (fld im o 8) % 64 != 0 || decide (pitchOf (fld im o 8) < n)
  [(1, !([1, 3, 8] : List Nat).contains fmt || decide (op > 1) || !blkSuits fmt (fld im 0x37 1) ||
      (comb && fld im 0x33 1 != 3 && fld im 0x33 1 != 4)),
   (2, fld im 0x28 4 == 0 || decide (fld im 0x28 4 > 2 ^ 24) || fld im 0x2C 4 == 0 || decide (fld im 0x2C 4 > 2 ^ 24) ||
      fld im 0x30 2 == 0 || fld im 0x34 1 == 0 || decide (fld im 0x34 1 > 8) || decide (fld im 0x36 1 > 63)),
   (3, badRow 0x10 row || addrOf (fld im 0x18 8) % 4 != 0 ||
      (comb && badRow 0x20 (rowBytes (fld im 0x33 1) 0 (fld im 0x30 2))) || (!comb && shortExpert s d)),
   (4, badSlot s d (fld im 0x36 1)),
   (7, topBits im 0x18 || !zeroAt im 0x3C 4)]

/-! ## Communicators (R418-R421) -/

/-- The members of a list (R419). -/
def memberList (b : Bytes) (n : Nat) : List (Nat × Nat) := (List.range n).map (fun r => (fld b (16 * r) 8, fld b (16 * r + 8) 2))

/-- A reserved byte of a member list is not zero (R10, R419). -/
def badMembers (b : Bytes) (n : Nat) : Bool := (List.range n).any (fun r => !zeroAt b (16 * r + 0xA) 6)

/-- A reserved bit or byte of routing entries is not zero (R10, R442). -/
def badRoutes (b : Bytes) (n : Nat) : Bool :=
  (List.range n).any (fun i => bits (fld b (16 * i + 6) 2) 1 15 != 0 || !zeroAt b (16 * i + 8) 8)

/-- Checks of RD_COMM before its member list is read (R448). -/
def commChecks (s : State) (d : Desc) (retire : Bool) : List (Nat × Bool) :=
  let im := d.image
  let slot := fld im 0x10 1
  [(1, decide (fld im 0x11 1 > 1) ||
      (!retire && !(fld im 0x12 2 == 0xFFFF || isGroup (fld im 0x12 2)))),
   (2, decide (slot > 63) || (!retire && (fld im 0x14 4 == 0 || decide (fld im 0x14 4 > 262144) || decide (fld im 0x18 4 ≥ fld im 0x14 4)))),
   (3, !retire && (addrOf (fld im 0x20 8) % 64 != 0 || addrOf (fld im 0x28 8) % region != 0 || fld im 0x30 8 % region != 0)),
   (4, if retire then badSlot s d slot else (getComm s (qDie d.queue) slot).isSome),
   (7, !zeroAt im 0x1C 4 || topBits im 0x20 || topBits im 0x28 || !zeroAt im 0x38 8)]

/-- Members of each group of a hierarchical communicator; 1 where it is flat (R420). -/
def groupSize (ms : List (Nat × Nat)) : Nat :=
  let mods := ms.map (fun m => m.1 / 2 ^ 48)
  let k := (mods.takeWhile (fun x => x == mods.headD 0)).length
  if k = 0 ∨ ms.length % k ≠ 0 then 1
  else
    let gs := (List.range (ms.length / k)).map (fun g => mods.getD (g * k) 0)
    let runs := (List.range ms.length).all (fun r => mods.getD r 0 == gs.getD (r / k) 0)
    if runs && gs.eraseDups.length == gs.length then k else 1

/-- The span of a communicator (R421). -/
def spanOfComm (s : State) (die : Nat) (ms : List (Nat × Nat)) : Nat :=
  let same (l : List Nat) : Bool := l.all (· == l.headD 0)
  let k := 16 + die / 2
  let mods := ms.map (fun m => m.1 / 2 ^ 48)
  if same mods then 0
  else if same (ms.map (·.2)) then 1
  else if same (mods.map (fun m => bits (modEntry s k (activeBank s k) m) 0 6)) then 2
  else 3

/-- RD_COMM_DEFINE (R418-R421); a reserved op is refused here. -/
def execRdCommDefine (q tag : Nat) (s : State) : Host.Outcome State Fault Refusal :=
  .next (match opDesc s q tag (fun i => opcode i == 0x60 && fld i 0x11 1 != 1) with
    | none => s
    | some d =>
      match firstFail (commChecks s d false) with
      | some r => settle (rejectRd s d r)
      | none =>
        let im := d.image
        let die := qDie q
        let n := fld im 0x14 4
        let rank := fld im 0x18 4
        let (b, cause) := jobRead s d.fn (addrOf (fld im 0x20 8)) (16 * n)
        if cause ≠ 0 then settle (completeDesc s d (causeStatus cause) (seqStation d) [] 0)
        else
          let ms := memberList b n
          let me := (ms.getD rank (0, 0)).1
          if me / 2 ^ 48 ≠ myId s ∨ me / 2 ^ 43 % 32 ≠ die then settle (rejectRd s d 4)
          else if badMembers b n then settle (rejectRd s d 7)
          else
            let cm : Comm := ⟨d.fn, fld im 0x12 2, rank, ms, addrOf (fld im 0x28 8), fld im 0x30 8, spanOfComm s die ms,
              groupSize ms, 0, ⟨[], [], []⟩⟩
            settle (endOp (setComm s die (fld im 0x10 1) cm) d DONE 0x20 (rdDetail 0 n 0)))

/-- Start a call on a slot: it takes the slot's next sequence number and waits its turn (R423). -/
def startCall (s : State) (d : Desc) (slot : Nat) (plan : List Bytes) (numbered : Bool) : State :=
  let die := qDie d.queue
  match getComm s die slot with
  | none => s
  | some cm =>
    if stFenced s die 0x20 then settle (endOp s d FENCED 0x20 [])
    else
      let c := newCall d slot cm.next plan
      let s := if numbered then setComm s die slot { cm with next := (cm.next + 1) % 2 ^ 32 } else s
      settle (showActive { holdRd (takeSnap s d (fld d.image 0x38 4)) d.queue d.tag with calls := s.calls ++ [c] } die)

/-- RD_COMM_RETIRE: it waits for the calls in flight, then frees the slot (R418). -/
def execRdCommRetire (q tag : Nat) (s : State) : Host.Outcome State Fault Refusal :=
  .next (match opDesc s q tag (fun i => opcode i == 0x60 && fld i 0x11 1 == 1) with
    | none => s
    | some d =>
      match firstFail (commChecks s d true) with
      | some r => settle (rejectRd s d r)
      | none => startCall s d (fld d.image 0x10 1) [] false)

/-- Run a class-7 opcode whose checks need nothing from memory. -/
def runRd (p : Bytes → Bool) (checks : State → Desc → List (Nat × Bool)) (slotAt : Nat) (q tag : Nat) (s : State) : State :=
  match opDesc s q tag p with
  | none => s
  | some d =>
    match firstFail (checks s d) with
    | some r => settle (rejectRd s d r)
    | none => startCall s d (fld d.image slotAt 1) [] true

/-- RD_REDUCE (R424-R432). -/
def execRdReduce (q tag : Nat) (s : State) : Host.Outcome State Fault Refusal :=
  .next (runRd (fun i => opcode i == 0x61) reduceChecks 0x24 q tag s)

/-- RD_A2A (R436). -/
def execRdA2a (q tag : Nat) (s : State) : Host.Outcome State Fault Refusal :=
  .next (runRd (fun i => opcode i == 0x63) a2aChecks 0x24 q tag s)

/-- RD_EXPERT_DISPATCH (R443, R444); a reserved op is refused here. -/
def execRdExpertDispatch (q tag : Nat) (s : State) : Host.Outcome State Fault Refusal :=
  .next (runRd (fun i => opcode i == 0x66 && fld i 0x35 1 != 1) expertChecks 0x36 q tag s)

/-- RD_EXPERT_COMBINE (R443, R445). -/
def execRdExpertCombine (q tag : Nat) (s : State) : Host.Outcome State Fault Refusal :=
  .next (runRd (fun i => opcode i == 0x66 && fld i 0x35 1 == 1) expertChecks 0x36 q tag s)

/-- Entries of `k` bytes of a list. -/
def cutList (k n : Nat) (b : Bytes) : List Bytes := (List.range n).map (fun i => (b.drop (k * i)).take k)

/-- Run a class-7 opcode that reads a list first. -/
def runListed (op : Nat) (checks : State → Desc → List (Nat × Bool)) (slotAt listAt k : Nat) (count : Bytes → Nat)
    (more : State → Desc → List Bytes → List (Nat × Bool)) (q tag : Nat) (s : State) : State :=
  match opDesc s q tag (fun i => opcode i == op) with
  | none => s
  | some d =>
    match firstFail (checks s d) with
    | some r => settle (rejectRd s d r)
    | none =>
      let n := count d.image
      let (b, cause) := jobRead s d.fn (addrOf (fld d.image listAt 8)) (k * n)
      if cause ≠ 0 then settle (completeDesc s d (causeStatus cause) (seqStation d) [] 0)
      else
        match firstFail (more s d (cutList k n b)) with
        | some r => settle (rejectRd s d r)
        | none => startCall s d (fld d.image slotAt 1) (cutList k n b) true

/-- RD_GATHER (R433-R435): a mode-2 gather reads its list first. -/
def execRdGather (q tag : Nat) (s : State) : Host.Outcome State Fault Refusal :=
  .next (runListed 0x62 gatherChecks 0x28 0x30 64 (fun im => if fld im 0x29 1 = 2 then fld im 0x2A 2 else 0)
    (fun s d es => listChecks (((getComm s (qDie d.queue) (fld d.image 0x28 1)).map (·.n)).getD 0) es) q tag s)

/-- RD_PERMUTE (R438, R439): the old epoch closes at its admission. -/
def execRdPermute (q tag : Nat) (s : State) : Host.Outcome State Fault Refusal :=
  .next (runListed 0x64 permuteChecks 0x1E 0x10 32 (fun im => fld im 0x18 4) (fun _ _ es => permuteMapChecks es) q tag s)

/-- PERMUTE_EPOCH_ADVANCE (R439): once every earlier call of the old epoch has completed at the die, the new epoch becomes
current and the writes begin. -/
def execPermuteEpochAdvance (die fn : Nat) (s : State) : Host.Outcome State Fault Refusal :=
  .next (match s.calls.find? (fun c => c.die == die && c.fn == fn && opcode c.image == 0x64 && c.phase == 0) with
    | none => s
    | some c =>
      let old (x : RdCall) : Bool := x.die == die && x.fn == fn &&
        ((opcode x.image == 0x61 && (rEpoch x == curEpoch s die fn || x.phase != 0)) || (opcode x.image == 0x62 && gMode x == 2 && !waitsEpoch s x))
      match getComm s die c.slot with
      | none => s
      | some cm =>
        if !inFlight s c || (s.calls.takeWhile (fun x => !sameCall c x)).any old then s
        else settle (permuteGo s c cm))

/-- RD_EPOCH_RETIRE (R441): the retained map of an earlier epoch is released. -/
def execRdEpochRetire (q tag : Nat) (s : State) : Host.Outcome State Fault Refusal :=
  .next (match opDesc s q tag (fun i => opcode i == 0x65) with
    | none => s
    | some d =>
      match firstFail (epochChecks s d) with
      | some r => settle (rejectRd s d r)
      | none =>
        let k := epochKey (qDie q) d.fn
        let keep := (tgetD s.maps k []).filter (fun m => m.old != fld d.image 0x10 2)
        settle (endOp { s with maps := tput s.maps k keep [] } d DONE 0x20 (rdDetail 0 0 0)))

/-! ## The routing table (R442) -/

/-- Run one op of RD_EXT. -/
def runExt (p : Nat → Bool) (eff : State → Desc → State) (q tag : Nat) (s : State) : State :=
  match opDesc s q tag (fun i => opcode i == 0x67 && p (fld i 0x10 1)) with
  | none => s
  | some d =>
    match firstFail (extChecks d.image) with
    | some r => settle (rejectRd s d r)
    | none => settle (eff s d)

/-- RD_EXT_WRITE: shadow entries are written; a reserved op is refused here (R442). -/
def execRdExtWrite (q tag : Nat) (s : State) : Host.Outcome State Fault Refusal :=
  .next (runExt (fun op => op != 1 && op != 2) (fun s d =>
    let die := qDie q
    let n := fld d.image 0x12 2
    let (b, cause) := jobRead s d.fn (addrOf (fld d.image 0x18 8)) (16 * n)
    if cause ≠ 0 then completeDesc s d (causeStatus cause) (seqStation d) [] 0
    else if badRoutes b n then rejectRd s d 7
    else
      let bank := 1 - extBank s die
      let t := (List.range n).foldl (fun t i => tput t (extKey die bank (fld d.image 0x11 1 + i)) (fld b (16 * i) 16) 0) s.extTab
      endOp { s with extTab := t } d DONE 0x20 (rdDetail 0 0 0)) q tag s)

/-- RD_EXT_SWAP: the banks change places (R442). -/
def execRdExtSwap (q tag : Nat) (s : State) : Host.Outcome State Fault Refusal :=
  .next (runExt (fun op => op == 1) (fun s d =>
    endOp (setF s F.RD_EXT_STATE_ACTIVE (qDie q) 0 (1 - extBank s (qDie q))) d DONE 0x20 (rdDetail 0 0 0)) q tag s)

/-- RD_EXT_COPY: the active bank is copied to the shadow (R442). -/
def execRdExtCopy (q tag : Nat) (s : State) : Host.Outcome State Fault Refusal :=
  .next (runExt (fun op => op == 2) (fun s d =>
    let die := qDie q
    let b := extBank s die
    let t := (List.range 256).foldl (fun t e => tput t (extKey die (1 - b) e) (tgetD t (extKey die b e) 0) 0) s.extTab
    endOp { s with extTab := t } d DONE 0x20 (rdDetail 0 0 0)) q tag s)

/-! ## Records that arrive (R422, R423) -/

/-- A control record arrives at a Reduce station: it is in its sender's inbox, and the station takes notice of it. -/
def recArrives (kind : Nat) (s : State) (die : Nat) (r : CtlRec) (k : State → State) : State :=
  match getComm s die r.slot with
  | none => s
  | some cm =>
    if r.kind ≠ kind ∨ r.rank ≥ cm.n ∨ stFenced s die 0x20 then s
    else settle (k (jobWrite s die cm.owner (cm.rx + 64 * r.rank) (recBytes r) 0).1)

/-- READY (R428). -/
def execReady (die : Nat) (r : CtlRec) (s : State) : Host.Outcome State Fault Refusal :=
  .next (recArrives 1 s die r (fun s => addNote s die r))

/-- DATA (R427). -/
def execData (die : Nat) (r : CtlRec) (s : State) : Host.Outcome State Fault Refusal :=
  .next (recArrives 2 s die r (fun s => addNote s die r))

/-- CLOSE (R429). -/
def execClose (die : Nat) (r : CtlRec) (s : State) : Host.Outcome State Fault Refusal :=
  .next (recArrives 3 s die r (fun s => addNote s die r))

/-- FAIL (R432). -/
def execFail (die : Nat) (r : CtlRec) (s : State) : Host.Outcome State Fault Refusal :=
  .next (recArrives 4 s die r (fun s => addNote s die r))

/-- LIST (R444). -/
def execList (die : Nat) (r : CtlRec) (s : State) : Host.Outcome State Fault Refusal :=
  .next (recArrives 5 s die r (fun s => addNote s die r))

/-- GATHER_REQ (R434): the owner applies the reference mode and serves the entry. -/
def execGatherReq (die : Nat) (r : CtlRec) (s : State) : Host.Outcome State Fault Refusal :=
  .next (recArrives 6 s die r (fun s => addServe s die r))

/-! ## Time limits -/

/-- STRAGGLER_WINDOW_CLOSE (R428, R433): at the root of a reduction the late groups are left out; at a member of a gather the
missing receivers are given up. -/
def execStragglerWindowClose (die slot seq : Nat) (s : State) : Host.Outcome State Fault Refusal :=
  .next (match callAt s die slot seq, getComm s die slot with
    | some c, some cm =>
      if callWindow c = 0 ∨ !inFlight s c then s
      else if opcode c.image = 0x61 then
        if cm.rank = 0 && (closeOf s c).isNone && c.closing.isNone && !bit (rCtl c) 3 then settle (closeNow s c cm) else s
      else if gMode c = 2 ∨ c.expired then s
      else
        match descOf s c.queue c.tag with
        | some d => settle (gatherExpire s d c cm)
        | none => s
    | _, _ => s)

/-- The phase from which a member of a call has sent its own data. -/
def sentPhase (c : RdCall) : Nat :=
  match opcode c.image with
  | 0x61 => 4
  | 0x66 => if fld c.image 0x35 1 = 0 then 6 else 2
  | _ => 2

/-- CLOSE_TIMEOUT (R432): a member that has sent its own data has had no CLOSE for window + 2 × FAB_LOSS_LIMIT. -/
def execCloseTimeout (die slot seq : Nat) (s : State) : Host.Outcome State Fault Refusal :=
  .next (match callAt s die slot seq with
    | none => s
    | some c =>
      if inFlight s c && (closeOf s c).isNone && decide (c.phase ≥ sentPhase c) then
        settle (endCall s c LINK_LOST (if opcode c.image = 0x66 then xDetail 0 0 0 else rdDetail 0 0 0))
      else s)

end Sys2Proof.Machine
end

