-- ==== Sys2Proof/Machine/Counters.lean ====
section
/-! DEFINITION. The control registers of the matrix and attention stations' counters (R140, R250). -/

namespace Sys2Proof.Machine

open Sys2Proof

/-- The counters of a matrix station (R140). -/
def mxCounters : List Fld :=
  [F.MX_CYC_VALID_VALID, F.MX_CYC_EMPTY_EMPTY, F.MX_CYC_BANK_BANK, F.MX_CYC_DRAIN_DRAIN, F.MX_CYC_LOAD_LOAD,
   F.MX_CYC_GOV_GOV, F.MX_CYC_IDLE_IDLE, F.MX_ROWS_SKIP_SKIP, F.MX_PASSES_PASSES, F.MX_ERR_PARITY, F.MX_ERR_POISON_ROWS]

/-- The counters of an attention station (R250). -/
def atCounters : List Fld :=
  [F.AT_CYC_VALID_VALID, F.AT_CYC_EMPTY_EMPTY, F.AT_CYC_LOAD_LOAD, F.AT_CYC_RING_RING, F.AT_CYC_GOV_GOV, F.AT_CYC_IDLE_IDLE,
   F.AT_PAIRS_PAIRS, F.AT_PAIRS_SKIP_SKIP, F.AT_ROWS_SPECIAL_NAN, F.AT_ROWS_SPECIAL_EMPTY, F.AT_ERR_POISON,
   F.AT_ERR_PARITY]

/-- A write of a station's counter control: FREEZE takes the bit written, CLEAR = 1 clears every counter (R140, R250). -/
def writeCntCtrl (s : State) (freeze : Fld) (cs : List Fld) (die i value : Nat) : State :=
  let s := setF s freeze die i (bits value 0 1)
  if bit value 1 then clearAll s cs die i else s

/-- MX_CNT_CLEAR (R140): a write of MX_CNT_CTRL of matrix station `st`. -/
def execMxCntClear (src : Src) (die st value : Nat) (s : State) : Host.Outcome State Fault Refusal :=
  .next (if isComp die ∧ st < 4 then
    pfWrite s src die (0x200004 + 256 * st) value (fun s => writeCntCtrl s F.MX_CNT_CTRL_FREEZE mxCounters die st value)
  else s)

/-- AT_CNT_CLEAR (R250): a write of AT_CNT_CTRL of attention station `st`. -/
def execAtCntClear (src : Src) (die st value : Nat) (s : State) : Host.Outcome State Fault Refusal :=
  .next (if isComp die ∧ st < 2 then
    pfWrite s src die (0x2C0004 + 256 * st) value (fun s => writeCntCtrl s F.AT_CNT_CTRL_FREEZE atCounters die st value)
  else s)

end Sys2Proof.Machine
end

