-- ==== Sys2Proof/Machine/Flits.lean ====
section
/-! DEFINITION. Flits at a port: checks, acknowledgements, replay and the transactions they carry (R379-R383, R410, R500). -/

namespace Sys2Proof.Machine

open Sys2Proof

/-! ## The fields of a flit (R379) -/

/-- Sequence number. -/
def flitSeq (f : Bytes) : Nat := bits (fld f 0x00 2) 0 14
/-- Kind: 0 idle, 1 payload, 2 link control. -/
def flitKind (f : Bytes) : Nat := bits (fld f 0x00 2) 14 2
/-- The next number that the other end expects. -/
def flitAck (f : Bytes) : Nat := bits (fld f 0x02 2) 0 14
/-- The flit naks. -/
def flitNak (f : Bytes) : Bool := bit (fld f 0x02 2) 14
/-- Class and virtual lane, as the key of a stream. -/
def flitStream (f : Bytes) : Nat := 2 * bits (fld f 0x04 1) 0 3 + bits (fld f 0x04 1) 3 1
/-- Class and virtual lane of the returned credits, as the key of a stream. -/
def flitCreditKey (f : Bytes) : Nat := 2 * bits (fld f 0x05 1) 0 3 + bits (fld f 0x05 1) 3 1
/-- Flits of returned credits. -/
def flitCredits (f : Bytes) : Nat := fld f 0x06 2
/-- Where the first header begins in the payload. -/
def flitStart (f : Bytes) : Nat := fld f 0x08 1
/-- Payload. -/
def flitPayload (f : Bytes) : Bytes := (f.drop 0x0A).take 242

/-- A flit is whole and its CRC holds (R379, R380). -/
def flitGood (f : Bytes) : Bool := f.length == 256 && fld f 0xFC 4 == crc32c (f.take 0xFC)

/-! ## Transactions in a stream (R382, R383, R566) -/

/-- Bytes that follow a header: data or a notice; a protected transaction adds its extension and tag. -/
def bodyBytes (type flags len : Nat) : Nat :=
  (if type = 1 ∨ type = 6 then len else if type = 7 then 32 else 0) + (if bit flags 3 then 24 else 0)

/-- A header of the stream of a class, with the bytes after it. -/
def parseTx (cls : Nat) (b : Bytes) : Tx :=
  { type := fld b 0 1, flags := bits (fld b 1 1) 0 4, srcModule := fld b 2 2, dstModule := fld b 4 2, dstDie := bits (fld b 6 1) 0 5,
    srcDie := bits (fld b 7 1) 0 5, offset := bits (fld b 8 8) 0 43, seq := fld b 16 4, len := fld b 20 2, tag := fld b 22 2,
    cls := cls, body := (b.drop 24).take (bodyBytes (fld b 0 1) (fld b 1 1) (fld b 20 2)) }

/-- The whole transactions at the front of a stream (none: one of a reserved type) and what is left of it; zeros up to the end of the
flit are padding (log entry 61). `fuel` bounds them. -/
def takeTxs (cls : Nat) : Nat → Bytes → List (Option Tx) × Bytes
  | 0, bs => ([], bs)
  | fuel + 1, bs =>
    let type := fld bs 0 1
    if bs.isEmpty ∨ type = 0 then ([], [])
    else if type > 8 then ([none], [])
    else if bs.length < 24 then ([], bs)
    else
      let n := 24 + bodyBytes type (fld bs 1 1) (fld bs 20 2)
      if bs.length < n then ([], bs)
      else
        let (ts, rest) := takeTxs cls fuel (bs.drop n)
        (some (parseTx cls bs) :: ts, rest)

/-- The 32 bytes of a notice (R518). -/
def parseNotice (b : Bytes) : Notice :=
  ⟨fld b 0 1, fld b 1 1, fld b 2 2, fld b 4 2, fld b 6 2, fld b 8 8, fld b 16 4, fld b 20 4, fld b 24 8⟩

/-- A transaction has arrived whole by a port. -/
def portTx (s : State) (p : Nat) (o : Option Tx) : State :=
  match o with
  | none => discardTx s (some p)
  | some t =>
    if t.type = 7 ∧ toSelf s t.dstModule then recvNotice s (some p) (parseNotice t.body) else settle (recvTx s (some p) t)

/-- The payload of a flit joins the stream of its class and lane; what is whole is received (R381, R382). -/
def payloadFlit (s : State) (p : Nat) (f : Bytes) : State :=
  let k := flitStream f
  if k / 2 > 4 then discardTx s (some p)
  else
    let x := getPort s p
    let old := tgetD x.partial_ k []
    let bs := if old.isEmpty then (flitPayload f).drop (flitStart f) else old ++ flitPayload f
    let (ts, rest) := takeTxs (k / 2) (bs.length / 24 + 1) bs
    let s := setPort s p { x with partial_ := tput x.partial_ k rest [] }
    ts.foldl (fun s o => portTx s p (o.map (fun t => { t with lane := k % 2 }))) s

/-! ## Acknowledgements (R381) -/

/-- An acknowledgement has passed a transaction of the replay buffer. -/
def acked (a : Nat) (r : Replay) : Bool := decide ((a + 16384 - (r.seq + r.flits) % 16384) % 16384 < 8192)

/-- The replay buffer without what an acknowledgement has passed. -/
def dropAcked (s : State) (p a : Nat) : State :=
  setPort s p { getPort s p with replay := (getPort s p).replay.filter (fun r => !acked a r) }

/-- A nak: the replay buffer is sent again from the named flit; the sixteenth nak in succession of its retransmission makes the port
LOST (R381, R410). -/
def nakPort (s : State) (p : Nat) : State :=
  let s := addF s F.FAB_PORT_REPLAY_REPLAY (portDie p) (portLoc p) 1
  match (getPort s p).replay with
  | [] => s
  | r :: rest =>
    if r.naks ≥ 16 then portDown s p
    else
      let s := setPort s p { getPort s p with replay := { r with naks := r.naks + 1 } :: rest }
      (r :: rest).foldl (fun s e => emit s (.sent (some p) e.tx)) s

/-- The other end returns credits of a class and virtual lane (R379, R388). -/
def creditBack (s : State) (p key n : Nat) : State :=
  let x := getPort s p
  setPort s p { x with used := tput x.used key (tgetD x.used key 0 - n) 0 }

/-- The acknowledgement and the credit return that every flit carries (R379, R381, R388): room in the replay buffer and credits let
waiting transactions go. -/
def flitAcks (s : State) (p : Nat) (f : Bytes) : State :=
  let s := dropAcked s p (flitAck f)
  let s := creditBack s p (flitCreditKey f) (flitCredits f)
  let s := if flitNak f then nakPort s p else s
  settle (retryWaits s)

/-! ## Receiving a flit -/

/-- A flit is discarded: a nak names the number that is expected (R380). -/
def discardFlit (s : State) (p : Nat) : State := emit s (.link p true (getPort s p).expect)

/-- A flit that fails its FEC or CRC is an error of the port, corrected by its retry: counted and recorded (R380, R381, R510). -/
def flitError (s : State) (p : Nat) (f : Fld) : State := logRec (addF s f (portDie p) (portLoc p) 1) 0 (portDie p) (0x80 + p) 0 0 0

/-- A flit in sequence (R380, R381, R388): a payload flit advances the expected number, which is acknowledged, and leaves the receive
buffer, so that its credit is returned (log entry 101). -/
def goodFlit (s : State) (p : Nat) (f : Bytes) : State :=
  let s := flitAcks s p f
  if !portActive s p then s
  else
    match flitKind f with
    | 1 =>
      let x := getPort s p
      let s := setPort s p { x with expect := (x.expect + 1) % 16384 }
      payloadFlit (emit (emit s (.link p false ((x.expect + 1) % 16384))) (.credits p (flitStream f) 1)) p f
    | 2 => takeTick s p (fld (flitPayload f) 0 8)
    | _ => s

/-- FLIT_RECEIVE (R380): `fecOk` says that no uncorrectable codeword holds the flit, `corrected` how many were corrected. -/
def execFlitReceive (port : Nat) (flit : Bytes) (fecOk : Bool) (corrected : Nat) (s : State) : Host.Outcome State Fault Refusal :=
  .next (
    if !portActive s port then s
    else
      let s := addF s F.FAB_PORT_FEC_CORR (portDie port) (portLoc port) corrected
      if !fecOk then discardFlit (flitError s port F.FAB_PORT_UNCORR_UNCORR) port
      else if !flitGood flit then discardFlit (flitError s port F.FAB_PORT_CRC_CRC) port
      else if flitSeq flit ≠ (getPort s port).expect then discardFlit s port
      else runRings (settle (goodFlit s port flit)))

end Sys2Proof.Machine
end

