-- ==== Sys2Proof/Machine/Sha.lean ====
section
/-! DEFINITION. SHA-384, the digest of measurements (R561, R564), on 64-bit words held as numbers; its constants are the fractions of
roots of primes. -/

namespace Sys2Proof.Machine

open Sys2Proof

/-- The integer root of order `k` of a number, from bit `n - 1` down. -/
def rootGo (k x : Nat) : Nat → Nat → Nat
  | 0, r => r
  | n + 1, r => rootGo k x n (if (r + 2 ^ n) ^ k ≤ x then r + 2 ^ n else r)

/-- A prime number. -/
def isPrime (n : Nat) : Bool := decide (2 ≤ n) && (List.range n).all (fun d => decide (d < 2) || n % d != 0)

/-- The first 80 primes. -/
def shaPrimes : List Nat := (List.range 410).filter isPrime

/-- The round constants: 64 fraction bits of the cube roots of the first 80 primes. -/
def shaK : List Nat := shaPrimes.map (fun p => rootGo 3 (p * 2 ^ 192) 68 0 % 2 ^ 64)

/-- The first state: 64 fraction bits of the square roots of the ninth to sixteenth primes. -/
def shaInit : List Nat := ((shaPrimes.drop 8).take 8).map (fun p => rootGo 2 (p * 2 ^ 128) 70 0 % 2 ^ 64)

/-- Rotation of a word to the right. -/
def rotr64 (x n : Nat) : Nat := x / 2 ^ n + x % 2 ^ n * 2 ^ (64 - n)

/-- The complement of a word. -/
def not64 (x : Nat) : Nat := 2 ^ 64 - 1 - x

/-- One word of the message schedule, given those before it, newest first. -/
def shaNext (w : List Nat) : Nat :=
  let a := w.getD 14 0
  let b := w.getD 1 0
  let s0 := rotr64 a 1 ^^^ rotr64 a 8 ^^^ (a / 2 ^ 7)
  let s1 := rotr64 b 19 ^^^ rotr64 b 61 ^^^ (b / 2 ^ 6)
  (s1 + w.getD 6 0 + s0 + w.getD 15 0) % 2 ^ 64

/-- The schedule, newest first, with `n` more words. -/
def shaExpand : Nat → List Nat → List Nat
  | 0, w => w
  | n + 1, w => shaExpand n (shaNext w :: w)

/-- One round. -/
def shaRound (v : List Nat) (kw : Nat) : List Nat :=
  match v with
  | [a, b, c, d, e, f, g, h] =>
    let s1 := rotr64 e 14 ^^^ rotr64 e 18 ^^^ rotr64 e 41
    let ch := (e &&& f) ^^^ (not64 e &&& g)
    let t1 := (h + s1 + ch + kw) % 2 ^ 64
    let s0 := rotr64 a 28 ^^^ rotr64 a 34 ^^^ rotr64 a 39
    let maj := (a &&& b) ^^^ (a &&& c) ^^^ (b &&& c)
    [(t1 + s0 + maj) % 2 ^ 64, a, b, c, (d + t1) % 2 ^ 64, e, f, g]
  | _ => v

/-- The words of a block of 128 bytes, newest first. -/
def shaWords (blk : List Nat) : List Nat := ((List.range 16).map (fun i => beNat ((blk.drop (8 * i)).take 8))).reverse

/-- One block. -/
def shaBlock (ks : List Nat) (h : List Nat) (blk : List Nat) : List Nat :=
  let w := (shaExpand 64 (shaWords blk)).reverse
  let v := (List.zipWith (· + ·) ks w).foldl shaRound h
  List.zipWith (fun a b => (a + b) % 2 ^ 64) h v

/-- Blocks one after the other; `fuel` counts them. -/
def shaBlocks (ks : List Nat) : Nat → List Nat → List Nat → List Nat
  | 0, h, _ => h
  | n + 1, h, bs => shaBlocks ks n (shaBlock ks h (bs.take 128)) (bs.drop 128)

/-- SHA-384 of a string of bytes. -/
def sha384 (bs : Bytes) : Bytes :=
  let m := bs.map (·.toNat)
  let pad := (128 - (m.length + 17) % 128) % 128
  let m := m ++ [0x80] ++ List.replicate pad 0 ++ toBe 16 (8 * bs.length)
  let h := shaBlocks shaK (m.length / 128) shaInit m
  ((h.take 6).flatMap (toBe 8)).map (BitVec.ofNat 8)

end Sys2Proof.Machine
end

