-- ==== Sys2Proof/Machine/Manage.lean ====
section
/-! DEFINITION. Resets, start-up, the management commands, firmware, keys, attestation and sensors (R548-R569). -/

namespace Sys2Proof.Machine

open Sys2Proof

/-! ## Resets and start-up (R548-R555) -/

/-- COLD_START (R495, R550): an input becomes valid in Black; it carries the module (R465), and the fast clocks start. -/
def execColdStart (main : Bool) (straps : Straps) (s : State) : Host.Outcome State Fault Refusal :=
  .next (
    if s.supply.phase < 3 then s
    else
      let t := setF (coldReset s 1 straps) F.PWR_STATE_SRC f0 0 (b2n (!main))
      let t := (List.range 32).foldl startDomains t
      showBudget (setF t (if main then F.PWR_STATE_MAIN_OK else F.PWR_STATE_BACKUP_OK) f0 0 1))

/-- RESET_N_ASSERT (R548): RESET_N low for 1 ms or more. -/
def execResetNAssert (straps : Straps) (s : State) : Host.Outcome State Fault Refusal :=
  .next (if s.supply.phase ≥ 3 then s else showBudget (coldReset s 2 straps))

/-- A warm reset that an activation may await: the written slot is then the one tried first, and the reset is its (R548, R562). -/
def activate (s : State) (cause : Nat) : State :=
  if s.supply.phase ≥ 3 then s
  else if flag s F.MGT_FW_STATE_PENDING f0 then
    showBudget (warmReset (setF s F.MGT_FW_STATE_SLOT f0 0 (1 - getF s F.MGT_FW_STATE_RUNNING f0)) 6)
  else showBudget (warmReset s cause)

/-- MGT_RESET_WARM (R548, R572): a write of MGT_RESET. -/
def execMgtResetWarm (src : Src) (value : Nat) (s : State) : Host.Outcome State Fault Refusal :=
  .next (pfWrite s src (die04 s) 0x0C0014 value (fun s =>
    let s := plainWrite s src f0 0x0C0014 value
    if bit value 0 then activate s 4 else s))

/-- MANAGEMENT_WATCHDOG (R548). -/
def execManagementWatchdog (s : State) : Host.Outcome State Fault Refusal := .next (activate s 7)

/-- The managing die: 0 F0, 1 F4 (R572). -/
def manager (s : State) : Nat := getF s F.MGT_SVC_MANAGER f0

/-- The module is powered and one of F0 and F4 is in service (R38). -/
def managed (s : State) : Bool := decide (s.supply.phase < 3) && !(dieFenced s 16 && dieFenced s 20)

/-- A slot verifies: its key is not revoked, its signature and digests hold, its SVN is not below the fused minimum (R561). -/
def verifies (s : State) (x : FwImage) : Bool :=
  x.valid && decide (x.key < 4) && !bit (getF s F.MGT_FW_STATE_KEYS_REVOKED f0) x.key &&
    decide (getF s F.MGT_FW_STATE_SVN_MIN f0 ≤ x.svn)

/-- Neither slot verifies on a die, or the die is fenced (R551). -/
def bootFails (s : State) (m : Nat) : Bool :=
  dieFenced s (16 + 4 * m) || (s.bootBad.contains (2 * m) && s.bootBad.contains (2 * m + 1))

/-- The controller of a module without a placement enables every Eskan port (R454, R559). -/
def enablePorts (s : State) : State :=
  if selfValid s then s
  else
    (List.range 48).foldl (fun s p =>
      if portEnabled s p || dieFenced s (portDie p) then s
      else
        let s := setF s F.FAB_PORT_CFG_ENABLE (portDie p) (portLoc p) 1
        if portState s p = 0 ∧ (getPort s p).partner then toTraining s p else s) s

/-- The boot ROM of F0 or F4 derives the keys of the die for the firmware it loads, and its DeviceID key issues a fresh Alias certificate
(R563). -/
def deriveIdent (s : State) (die : Nat) (x : FwImage) : State :=
  let (k, s) := freshFree s
  let secret := Config.deviceSecret die
  let key := Config.aliasKey secret (x.digests.headD [])
  { s with idents := tins s.idents die ⟨Config.deviceIdKey secret, key, Config.aliasCert secret key k⟩ }

/-- Both identities at a boot, but for a die that is fenced. -/
def deriveIdents (s : State) (x : FwImage) : State :=
  let s := if dieFenced s 16 then s else deriveIdent s 16 x
  if dieFenced s 20 then s else deriveIdent s 20 x

/-- BOOT_VERIFY (R551, R561, R562): the boot ROM of the managing die tries a slot, the one of MGT_FW.SLOT first. `img` is what the
slot holds, unless an update of the module wrote it. -/
def execBootVerify (slot : Nat) (img : FwImage) (s : State) : Host.Outcome State Fault Refusal :=
  .next (
    let m := manager s
    let first := getF s F.MGT_FW_STATE_SLOT f0
    if !managed s ∨ getF s F.MGT_SVC_DIES_LIMITED f0 ≠ 0 ∨ slot > 1 then s
    else if slot ≠ first ∧ !s.bootBad.contains (first + 2 * m) then s
    else
      let x := tgetD s.fwSlots slot img
      let s := { s with fwSlots := tins s.fwSlots slot x }
      if verifies s x then
        let s := setF (setF s F.MGT_FW_VERSION f0 0 x.version) F.MGT_FW_STATE_RUNNING f0 0 slot
        let s := setF (setF s F.MGT_FW_STATE_SVN f0 0 x.svn) F.MGT_FW_STATE_FALLBACK f0 0 (b2n (slot != first))
        enablePorts (deriveIdents (setF s F.MGT_SVC_RECOVERY f0 0 0) x)
      else
        let s := { s with bootBad := s.bootBad ++ [slot + 2 * m] }
        if bootFails s 0 && bootFails s 1 then setF s F.MGT_SVC_RECOVERY f0 0 1 else s)

/-- F4_TAKEOVER (R38, R551). -/
def execF4Takeover (s : State) : Host.Outcome State Fault Refusal :=
  .next (if managed s ∧ !dieFenced s 20 then setF s F.MGT_SVC_MANAGER f0 0 1 else s)

/-- The stacks of a die allow limited service: neither is left without the other (R552). -/
def stacksReady (s : State) (die : Nat) : Bool :=
  !(tgetD s.stackState (2 * die) 0 == 1 && tgetD s.stackState (2 * die + 1) 0 == 1)

/-- The link group of a compute die is trained: its F link, its M link, at least two torus links (R552). -/
def linkGroup (s : State) (die : Nat) : Bool :=
  !linkLost s die (16 + die / 2) && !linkLost s die (24 + die / 2) &&
    decide (2 ≤ (((linkedTo die).take 4).filter (fun b => !linkLost s die b)).length)

/-- Milliseconds since the start of the last start-up. -/
def bootMs (s : State) : Nat := (now s - s.bootAt) / 100000

/-- Every compute die that is not fenced has its bit in a mask. -/
def allDies (s : State) (mask : Nat) : Bool := (List.range 16).all (fun d => dieFenced s d || bit mask d)

/-- LIMITED_SERVICE_ENTRY (R550 event 8, R552, R554): a die that does not meet R552 is fenced with cause 6. In recovery mode
and under a strap fault the module takes no work and no die enters (R26, R551; log entry 112). -/
def execLimitedServiceEntry (die : Nat) (s : State) : Host.Outcome State Fault Refusal :=
  .next (
    let lim := getF s F.MGT_SVC_DIES_LIMITED f0
    if !managed s ∨ !isComp die ∨ dieFenced s die ∨ flag s F.MGT_SVC_RECOVERY f0 ∨ strapFault s ∨ powerOf s die ≥ 2 ∨
      bit lim die then s
    else if !(stacksReady s die && linkGroup s die) then fenceDie s die 6
    else
      let s := startDomains (startDomains (startDomains s die) (16 + die / 2)) (24 + die / 2)
      let s := setF s F.MGT_SVC_DIES_LIMITED f0 0 (lim + 2 ^ die)
      let s := if allDies s (lim + 2 ^ die) then setF s F.MGT_BOOT_LIM_MS f0 0 (bootMs s) else s
      showRoot (showLevel s))

/-- FULL_SERVICE_ENTRY (R550 events 9 and 10, R553, R554): the die's clock is governed up to 2.0 GHz. -/
def execFullServiceEntry (die : Nat) (s : State) : Host.Outcome State Fault Refusal :=
  .next (
    let full := getF s F.MGT_SVC_DIES_FULL f0
    if !managed s ∨ !isComp die ∨ dieFenced s die ∨ !bit (getF s F.MGT_SVC_DIES_LIMITED f0) die ∨ bit full die then s
    else
      let s := setF (setF s F.MGT_SVC_CAL_SPLIT f0 0 1) F.MGT_SVC_DIES_FULL f0 0 (full + 2 ^ die)
      let s := if allDies s (full + 2 ^ die) then setF s F.MGT_BOOT_FULL_MS f0 0 (bootMs s) else s
      startStep (showLevel s) die)

/-! ## OEM commands (R557-R560) -/

/-- Completion codes: those of PLDM Type 0 (log entry 59) and the OEM codes of R560. -/
def PLDM_SUCCESS : Nat := 0x00
def PLDM_INVALID_DATA : Nat := 0x02
def PLDM_INVALID_LENGTH : Nat := 0x03
def PLDM_NOT_READY : Nat := 0x04
def OEM_SEALED : Nat := 0x80
def OEM_NOT_IN_SESSION : Nat := 0x81
def OEM_CONFLICT : Nat := 0x82

/-- The controller answers OEM commands: not in Black, nor in recovery mode (R551, R557). -/
def answers (s : State) : Bool := managed s && !flag s F.MGT_SVC_RECOVERY f0

/-- Complete a command with a code. -/
def reply (s : State) (code : Nat) : State := emit s (.mgmt code [])

/-- An OEM command of `n` bytes: a shorter or longer request completes with ERROR_INVALID_LENGTH (log entry 59). -/
def oem (s : State) (data : Bytes) (n : Nat) (k : State → State) : State :=
  if !answers s then s else if data.length ≠ n then reply s PLDM_INVALID_LENGTH else k s

/-- A request arrived inside a session that is open (R560, R564). -/
def inSession (s : State) (secured : Bool) : Bool := secured && !s.sessions.isEmpty

/-- SET_PLACEMENT (R558): the placement is staged. -/
def execSetPlacement (data : Bytes) (s : State) : Host.Outcome State Fault Refusal :=
  .next (oem s data 60 (fun s => reply { s with staged := some data } PLDM_SUCCESS))

/-- Write entries of a routing table into the shadow banks of the eight fabric dies (R402, R558): one whose copy runs ignores it and
sets ERR. -/
def writeShadow (s : State) (put : State → Nat → State) : State :=
  ((List.range 8).map (· + 16)).foldl (fun s k =>
    if dieFenced s k then s
    else if flag s F.FAB_ROUTE_CTRL_BUSY k then setF s F.FAB_ROUTE_CTRL_ERR k 0 1
    else put s k) s

/-- The shadow bank of a fabric die. -/
def shadowBank (s : State) (k : Nat) : Nat := 1 - activeBank s k

/-- Write one entry of the module table in a shadow bank. -/
def putMod (s : State) (k i v : Nat) : State :=
  { s with modTab := tput s.modTab (bankKey k (shadowBank s k) 16384 i) (v &&& 0x801FFFFF) 0 }

/-- Write one entry of the override table in a shadow bank. -/
def putOvr (s : State) (k i v : Nat) : State :=
  { s with ovrTab := tput s.ovrTab (bankKey k (shadowBank s k) 4096 i) (v &&& 0x801FFFFFFFFFFFFFFFFFFFFF) 0 }

/-- Write one entry of the multicast table in a shadow bank. -/
def putMc (s : State) (k i v : Nat) : State :=
  { s with mcTab := tput s.mcTab (bankKey k (shadowBank s k) 1024 i) (v &&& 0xFFFFFFFFFFFFFFFF0000FFFF) 0 }

/-- A command that writes `count` entries of `w` bytes from `first` on of a table with `n` entries, at most `most` at once. -/
def tableWrite (s : State) (data : Bytes) (w n most : Nat) (put : State → Nat → Nat → Nat → State) : State :=
  let first := fld data 0 2
  let count := fld data 2 2
  if !answers s then s
  else if count = 0 ∨ count > most ∨ first + count > n then reply s PLDM_INVALID_DATA
  else if data.length ≠ 4 + w * count then reply s PLDM_INVALID_LENGTH
  else
    reply (writeShadow s (fun s k =>
      (List.range count).foldl (fun s i => put s k (first + i) (fld data (4 + w * i) w)) s)) PLDM_SUCCESS

/-- WRITE_MODULE_TABLE (R558). -/
def execWriteModuleTable (data : Bytes) (s : State) : Host.Outcome State Fault Refusal :=
  .next (tableWrite s data 4 16384 256 putMod)

/-- WRITE_OVERRIDE (R558): value, mask, ports 0-31, and FAB_OVR_PORTS_HI. -/
def execWriteOverride (data : Bytes) (s : State) : Host.Outcome State Fault Refusal :=
  .next (tableWrite s data 12 4096 64 putOvr)

/-- WRITE_MULTICAST (R558): dies, ports 0-31, and FAB_MC_PORTS_HI. -/
def execWriteMulticast (data : Bytes) (s : State) : Host.Outcome State Fault Refusal :=
  .next (tableWrite s data 12 1024 64 putMc)

/-- COPY_TABLES (R558): a copy on all eight fabric dies; it completes when none runs. -/
def execCopyTables (data : Bytes) (s : State) : Host.Outcome State Fault Refusal :=
  .next (oem s data 0 (fun s =>
    let s := ((List.range 8).map (· + 16)).foldl (fun s k => if dieFenced s k then s else startCopy s k) s
    answerCopy { s with copyAsked := true }))

/-- Every compute die reads RD_STATE.ACTIVE = 0 and FAB_RX_FLOWS = 0 (R455). -/
def noJob (s : State) : Bool :=
  (List.range 16).all (fun d => dieFenced s d || (getF s F.RD_STATE_ACTIVE d == 0 && getF s F.FAB_RX_FLOWS_FLOWS d == 0))

/-- A staged placement gives the module another identifier than it has (R455). -/
def newIdentity (s : State) (p : Bytes) : Bool :=
  bits (fld p 0 2) 0 14 != getF s F.FAB_SELF_MODULE f0 || bits (fld p 0 2) 14 1 != getF s F.FAB_SELF_VALID f0

/-- Write the placement registers from a staged placement (R559). -/
def putPlacement (s : State) (p : Bytes) : State :=
  let valid := bits (fld p 0 2) 14 1
  let s := setF (setF s F.FAB_SELF_MODULE f0 0 (fld p 0 2)) F.FAB_SELF_VALID f0 0 valid
  let s := setF (setF s F.FAB_SELF_COORD_POD f0 0 (fld p 2 1)) F.FAB_SELF_COORD_X f0 0 (fld p 3 1)
  let s := setF (setF s F.FAB_SELF_COORD_Y f0 0 (fld p 4 1)) F.FAB_SELF_COORD_Z f0 0 (fld p 5 1)
  let s := setF (setF s F.FAB_SELF_COORD_VALID f0 0 valid) F.FAB_SELF_CELL_CELL f0 0 (fld p 6 2)
  let dims := fld p 8 4
  let s := ((List.range 8).map (· + 16)).foldl (fun s k =>
    let s := setF (setF s F.FAB_DIM_X k 0 dims) F.FAB_DIM_Y k 0 (dims / 2 ^ 5)
    setF (setF s F.FAB_DIM_Z k 0 (dims / 2 ^ 10)) F.FAB_DIM_WRAP k 0 (dims / 2 ^ 15)) s
  (List.range 48).foldl (fun s i =>
    let v := fld p (12 + i) 1
    setF (setF s F.FAB_PORT_CFG_DIR (portDie i) (portLoc i) v) F.FAB_PORT_CFG_INTERPOD (portDie i) (portLoc i) (v / 8)) s

/-- COMMIT_PLACEMENT (R402, R455, R559): refused while a copy runs, or where a new identifier may not be taken. -/
def execCommitPlacement (data : Bytes) (s : State) : Host.Outcome State Fault Refusal :=
  .next (oem s data 0 (fun s =>
    match s.staged with
    | none => reply s PLDM_NOT_READY
    | some p =>
      if !noCopy s || (newIdentity s p && !noJob s) then reply s PLDM_NOT_READY
      else
        let s := { putPlacement s p with staged := none }
        let swap (s : State) (k : Nat) : State :=
          if dieFenced s k then s else setF s F.FAB_ROUTE_CTRL_ACTIVE k 0 (1 - activeBank s k)
        let s := ((List.range 8).map (· + 16)).foldl swap s
        reply (settle (retryWaits s)) PLDM_SUCCESS))

/-- A watch entry is watched now (R521). -/
def watching (s : State) (i : Nat) : Bool := flag s F.SN_HB_CFG_EN f0 && flag s F.SN_HB_WATCH_VALID f0 i

/-- The watch of entries that are watched from now on, or watch another module, starts (R521). -/
def startWatch (old s : State) : State :=
  (List.range 8).foldl (fun s i =>
    if watching s i && (!watching old i || getF old F.SN_HB_WATCH_MODULE f0 i != getF s F.SN_HB_WATCH_MODULE f0 i) then
      { s with hbLast := tins s.hbLast i (now s) }
    else s) s

/-- SET_RECOVERY (R558): the values go to SN_PARTNER, SN_WARD, SN_HB_CFG and the eight SN_HB_WATCH. -/
def execSetRecovery (data : Bytes) (s : State) : Host.Outcome State Fault Refusal :=
  .next (oem s data 40 (fun s =>
    let t := plainWrite (plainWrite s .mgmt f0 0x0A0004 (fld data 0 2)) .mgmt f0 0x0A0008 (fld data 2 2)
    let t := plainWrite t .mgmt f0 0x0A0010 (fld data 4 4)
    let t := (List.range 8).foldl (fun t i => plainWrite t .mgmt f0 (0x0A0020 + 4 * i) (fld data (8 + 4 * i) 4)) t
    reply (startWatch s t) PLDM_SUCCESS))

/-- The dies of a mask of compute dies. -/
def diesIn (mask : Nat) : List Nat := (List.range 16).filter (bit mask)

/-- WAKE (R488, R558): source 9, where AON_WAKE_EN lets it. -/
def execWake (data : Bytes) (s : State) : Host.Outcome State Fault Refusal :=
  .next (oem s data 2 (fun s =>
    reply (if bit (getF s F.AON_WAKE_EN_EN f0) 8 then wakeAll s 9 0 (diesIn (fld data 0 2)) else s) PLDM_SUCCESS))

/-- SET_POWER_STATE (R483, R558, R560): Charcoal targets, or Black, which is refused while a descriptor is admitted. -/
def execSetPowerState (data : Bytes) (s : State) : Host.Outcome State Fault Refusal :=
  .next (oem s data 3 (fun s =>
    let st := fld data 0 1
    if st = 2 then
      reply ((diesIn (fld data 1 2)).foldl (fun s d => if dieFenced s d then s else setF s F.GV_PS_TARGET_TARGET d 0 2) s) PLDM_SUCCESS
    else if st ≠ 3 then reply s PLDM_INVALID_DATA
    else if !s.descs.isEmpty then reply s OEM_CONFLICT
    else blackState (reply s PLDM_SUCCESS) true))

/-- A command that arrived by I3C outside a session is refused after the seal (R560). -/
def barred (s : State) (bare : Bool) : Bool := bare && sealed s

/-- FENCE (R514, R515, R558): the named stations of a compute die, or the die. -/
def execFence (data : Bytes) (bare : Bool) (s : State) : Host.Outcome State Fault Refusal :=
  .next (oem s data 3 (fun s =>
    let die := fld data 0 1
    let sts := fld data 1 2
    if barred s bare then reply s OEM_NOT_IN_SESSION
    else if die ≥ 32 ∨ (sts ≠ 0 ∧ !isComp die) then reply s PLDM_INVALID_DATA
    else if sts = 0 then reply (fenceDie s die 3) PLDM_SUCCESS
    else
      let named (st : Nat) : Bool :=
        match stBit st with
        | some b => bit sts b
        | none => false
      reply ((stations.filter named).foldl (fun s st => fenceStation s die st 3) s) PLDM_SUCCESS))

/-- ALIGN_TICK (R500, R560): the tick is aligned by the controller; VALID reads 1 and ROOT 0. -/
def execAlignTick (data : Bytes) (bare : Bool) (s : State) : Host.Outcome State Fault Refusal :=
  .next (oem s data 8 (fun s =>
    if barred s bare then reply s OEM_NOT_IN_SESSION
    else reply (showRoot { setTickTo s (fld data 0 8) with aligned := true }) PLDM_SUCCESS))

/-- WARM_RESET (R548): once the response is sent. -/
def execWarmReset (data : Bytes) (s : State) : Host.Outcome State Fault Refusal :=
  .next (oem s data 0 (fun s => activate (reply s PLDM_SUCCESS) 5))

/-- COLD_RESET (R548): once the response is sent. -/
def execColdReset (data : Bytes) (bare : Bool) (straps : Straps) (s : State) : Host.Outcome State Fault Refusal :=
  .next (oem s data 0 (fun s =>
    if barred s bare then reply s OEM_NOT_IN_SESSION else showBudget (coldReset (reply s PLDM_SUCCESS) 3 straps)))

/-! ## Firmware (R561, R562) -/

/-- A command that is accepted in a session only (R560). -/
def secure (s : State) (data : Bytes) (n : Nat) (secured : Bool) (k : State → State) : State :=
  oem s data n (fun s => if inSession s secured then k s else reply s OEM_NOT_IN_SESSION)

/-- COMMIT_SVN (R562): the fused minimum only rises, and not above the SVN of the running slot. -/
def execCommitSvn (data : Bytes) (secured : Bool) (s : State) : Host.Outcome State Fault Refusal :=
  .next (secure s data 1 secured (fun s =>
    let v := fld data 0 1
    if v > getF s F.MGT_FW_STATE_SVN f0 ∨ v < getF s F.MGT_FW_STATE_SVN_MIN f0 then reply s PLDM_INVALID_DATA
    else reply (setF s F.MGT_FW_STATE_SVN_MIN f0 0 v) PLDM_SUCCESS))

/-- An unrevoked key other than `k` verifies the running slot (R562): an image carries one key. -/
def keyLeft (s : State) (k : Nat) : Bool :=
  match tget? s.fwSlots (getF s F.MGT_FW_STATE_RUNNING f0) with
  | some x => x.key != k && !bit (getF s F.MGT_FW_STATE_KEYS_REVOKED f0) x.key
  | none => false

/-- REVOKE_KEY (R562). -/
def execRevokeKey (data : Bytes) (secured : Bool) (s : State) : Host.Outcome State Fault Refusal :=
  .next (secure s data 1 secured (fun s =>
    let k := fld data 0 1
    if k > 3 then reply s PLDM_INVALID_DATA
    else if !keyLeft s k then reply s OEM_CONFLICT
    else reply (setF s F.MGT_FW_STATE_KEYS_REVOKED f0 0 (getF s F.MGT_FW_STATE_KEYS_REVOKED f0 ||| 2 ^ k)) PLDM_SUCCESS))

/-- FIRMWARE_UPDATE (R551, R562): PLDM Type 5 writes the slot that is not running, in recovery mode too. -/
def execFirmwareUpdate (img : FwImage) (s : State) : Host.Outcome State Fault Refusal :=
  .next (
    if managed s then
      reply { s with fwSlots := tins s.fwSlots (1 - getF s F.MGT_FW_STATE_RUNNING f0) img } PLDM_SUCCESS
    else s)

/-- ACTIVATE_FIRMWARE (R562): recorded for the next warm reset. -/
def execActivateFirmware (s : State) : Host.Outcome State Fault Refusal :=
  .next (if managed s then reply (setF s F.MGT_FW_STATE_PENDING f0 0 1) PLDM_SUCCESS else s)

/-! ## Keys (R565, R568) -/

/-- A key that LoadKey gives: slot, kind, tag, scope, key_sel, identifier, key (R565). -/
def keyOf (data : Bytes) : KeySlot :=
  ⟨fld data 1 1, fld data 2 2, fld data 4 1, fld data 5 1, fld data 8 4, data.drop 12⟩

/-- A key fits its slot: link keys of 32 bytes in 0-63, snapshot keys of 64 bytes in 64-67 (R565). -/
def keyFits (n : Nat) (x : KeySlot) : Bool :=
  if n < 64 then x.kind == 0 && x.key.length == 32 && decide (x.scope < 8) && decide (x.sel < 2)
  else decide (n < 68) && x.kind == 1 && x.key.length == 64 && x.scope == 0

/-- Another valid link slot shares tag, key_sel and a class (R565). -/
def keyClashes (s : State) (n : Nat) (x : KeySlot) : Bool :=
  x.kind == 0 && s.keys.any (fun p => p.1 != n && p.2.kind == 0 && p.2.tag == x.tag && p.2.sel == x.sel && (p.2.scope &&& x.scope) != 0)

/-- The counters of a slot start again (R566). -/
def dropCounters (s : State) (n : Nat) : Tab Nat := s.keyCtr.filter (fun p => p.1 / 8 != n)

/-- LOAD_KEY (R565). -/
def execLoadKey (data : Bytes) (secured : Bool) (s : State) : Host.Outcome State Fault Refusal :=
  .next (secure s data data.length secured (fun s =>
    let n := fld data 0 1
    let x := keyOf data
    if data.length < 12 ∨ !keyFits n x ∨ keyClashes s n x then reply s PLDM_INVALID_DATA
    else reply { s with keys := tins s.keys n x, keyCtr := dropCounters s n } PLDM_SUCCESS))

/-- KEY_SEND_SELECT (R568): senders of the slot's tag and classes use the key_sel named. -/
def execKeySendSelect (data : Bytes) (secured : Bool) (s : State) : Host.Outcome State Fault Refusal :=
  .next (secure s data 3 secured (fun s =>
    let sel := fld data 2 1
    match tget? s.keys (fld data 1 1) with
    | some x =>
      if x.kind ≠ 0 ∨ sel > 1 then reply s PLDM_INVALID_DATA
      else
        let put (t : Tab Nat) (c : Nat) : Tab Nat := if bit x.scope (c - 1) then tput t (x.tag * 8 + c) sel 0 else t
        reply { s with keySend := [1, 2, 3].foldl put s.keySend } PLDM_SUCCESS
    | none => reply s PLDM_INVALID_DATA))

/-- KEY_ERASE_SLOT (R565). -/
def execKeyEraseSlot (data : Bytes) (secured : Bool) (s : State) : Host.Outcome State Fault Refusal :=
  .next (secure s data 3 secured (fun s =>
    let n := fld data 1 1
    if n > 67 then reply s PLDM_INVALID_DATA
    else reply { s with keys := tdel s.keys n, keyCtr := dropCounters s n } PLDM_SUCCESS))

/-- KEY_ERASE_ALL (R565). -/
def execKeyEraseAll (data : Bytes) (secured : Bool) (s : State) : Host.Outcome State Fault Refusal :=
  .next (secure s data 3 secured (fun s => reply { s with keys := [], keyCtr := [] } PLDM_SUCCESS))

/-! ## Attestation and sensors (R557, R563, R564) -/

/-- Measurement 7: HST_DIE_ID of the 32 dies and MGT_MOD_ID (R564). -/
def measureIds (s : State) : Bytes :=
  sha384 ((List.range 32).flatMap (fun d => toLe 4 (regWord s d 0x000000)) ++ toLe 4 (regWord s f0 0x000010))

/-- Measurement 8: the partition captured at the seal; zero before it (R564). -/
def measureSeal (s : State) : Bytes := if sealed s then sha384 s.sealBytes else List.replicate 48 0

/-- Measurement 9: MGT_FENCE of the 32 dies (R564). -/
def measureFences (s : State) : Bytes := sha384 ((List.range 32).flatMap (fun d => toLe 4 (regWord s d 0x68000C)))

/-- Measurements 2 to 6: the components of the firmware as loaded (R564). -/
def measureFw (s : State) (i : Nat) : Bytes :=
  match tget? s.fwSlots (getF s F.MGT_FW_STATE_RUNNING f0) with
  | some x => x.digests.getD (i - 2) []
  | none => []

/-- The certificate chain of a slot (R564): 0 from the Kealek root to the Alias certificate of the managing die, 1 the DeviceID
certificate of the other die. -/
def certChain (s : State) (slot : Nat) : Bytes :=
  let die := 16 + 4 * manager s
  let cert (d : Nat) : Bytes := Config.deviceCert (Config.deviceIdKey (Config.deviceSecret d))
  if slot = 0 then cert die ++ ((tget? s.idents die).map (·.aliasCert)).getD [] else if slot = 1 then cert (36 - die) else []

/-- The Alias key of the managing die, which signs its answers (R563, R564). -/
def signingKey (s : State) : Bytes := ((tget? s.idents (16 + 4 * manager s)).map (·.aliasKey)).getD []

/-- The measurement that a request names, where the module's state gives it (R564). -/
def measurement (s : State) (i : Nat) : Bytes :=
  if 2 ≤ i ∧ i ≤ 6 then measureFw s i else if i = 7 then measureIds s else if i = 8 then measureSeal s else if i = 9 then measureFences s else []

/-- The sessions after a request: KEY_EXCHANGE opens one of at most four, END_SESSION closes it (R564; log entry 59). -/
def sessionsAfter (s : State) (session code : Nat) : List Nat :=
  if code = 0xE4 then (if s.sessions.length < 4 ∧ !s.sessions.contains session then s.sessions ++ [session] else s.sessions)
  else if code = 0xEC then s.sessions.filter (fun x => x != session)
  else s.sessions

/-- SPDM_MESSAGE (R563, R564): a measurement request is answered with the measurement first, a certificate request with the chain of its
slot; what signatures and session keys add is free (log entry 6). -/
def execSpdmMessage (session : Nat) (msg : Bytes) (s : State) : Host.Outcome State Fault Refusal :=
  .next (
    if !answers s then s
    else
      let code := fld msg 1 1
      let m := if code = 0xE0 then measurement s (fld msg 3 1) else if code = 0x82 then certChain s (fld msg 2 1 % 16) else []
      emit { s with sessions := sessionsAfter s session code } (.mgmt PLDM_SUCCESS (m ++ Config.spdmAnswer session msg (signingKey s))))

/-- The value of a sensor (R557), numbered by the model (log entry 59): 0-15 compute dies, 16-31 the other dies, 32-63 stacks,
64 draw, 65 budget, 66 coolant flow, 67 coolant inlet; state sensors 128 level, 129 supply source, 130 strap fault, 144-159 the power
state of a compute die. What no register holds is free. -/
def sensor (s : State) (n k : Nat) : Nat :=
  if n < 16 then getF s F.GV_TEMP_DIE n
  else if 32 ≤ n ∧ n < 64 then getF s (if n % 2 = 0 then F.GV_TEMP_STK0 else F.GV_TEMP_STK1) ((n - 32) / 2)
  else if n = 64 then getF s F.GV_MOD_DRAW f0
  else if n = 65 then getF s F.GV_MOD_BUDGET f0
  else if n = 66 then s.supply.flow
  else if n = 67 then s.supply.inlet
  else if n = 128 then getF s F.MGT_SVC_LEVEL f0
  else if n = 129 then getF s F.PWR_STATE_SRC f0
  else if n = 130 then b2n (getF s F.MGT_MOD_ID_BUILD f0 != 1 && getF s F.MGT_MOD_ID_BUILD f0 != 2)
  else if 144 ≤ n ∧ n < 160 then psCode (powerOf s (n - 144))
  else (Config.sensorValue n k).toNat

/-- PLDM_SENSOR_READ (R551, R557): PLDM Type 2 returns a sensor, Type 4 the build and steppings beside what is free; in recovery mode
only Type 0 is answered. -/
def execPldmSensorRead (kind sensorNo : Nat) (s : State) : Host.Outcome State Fault Refusal :=
  .next (
    if !managed s ∨ (flag s F.MGT_SVC_RECOVERY f0 ∧ kind ≠ 0) then s
    else
      let (k, s) := freshFree s
      if kind = 2 then emit s (.mgmt PLDM_SUCCESS (toLe 4 (sensor s sensorNo k)))
      else if kind = 4 then
        emit s (.mgmt PLDM_SUCCESS (toLe 4 (regWord s f0 0x000000) ++ toLe 4 (regWord s f0 0x000010) ++
          toLe 4 (Config.sensorValue sensorNo k).toNat))
      else emit s (.mgmt PLDM_SUCCESS (toLe 4 (Config.sensorValue sensorNo k).toNat)))

end Sys2Proof.Machine
end

