-- ==== Sys2Proof/Machine/Shards.lean ====
section
/-! DEFINITION. SH_CTL: the shard entries of a die's Reduce station (R298-R305). -/

namespace Sys2Proof.Machine

open Sys2Proof

/-- An op suits the state of its entry (R301, R302). -/
def opSuits (x : Shard) (op : Nat) : Bool :=
  match op with
  | 0 => x.state == 0
  | 1 => x.state == 1
  | 2 => x.state == 3
  | 3 => true
  | 4 => x.state == 1 && x.refs == 0
  | _ => false

/-- The checks of an SH_CTL descriptor in the order of R298. -/
def shChecks (s : State) (d : Desc) : List (Nat × Bool) :=
  let im := d.image
  let n := fld im 0x10 2
  let op := fld im 0x12 1
  let out := fld im 0x20 8
  [(1, op == 3 && out % 64 != 0),
   (5, decide (n > 1023) || !opSuits (getShard s (qDie d.queue) n) op),
   (6, bits out 52 12 != 0 || !zeroAt im 0x13 1 || !zeroAt im 0x1A 6 || !zeroAt im 0x28 24),
   (9, !mayUse (getF s F.SEC_SH_OWN_OWNER (qDie d.queue) (n / 64)) d.fn)]

/-- Run an SH_CTL op: its checks, FENCED where the Reduce station is fenced, then its effect (R68, R298). -/
def runSh (s : State) (q tag : Nat) (p : Nat → Bool) (run : State → Desc → Nat → State) : State :=
  match opDesc s q tag (fun i => opcode i == 0xA2 && p (fld i 0x12 1)) with
  | none => s
  | some d =>
    match firstFail (shChecks s d) with
    | some r => settle (rejectOp s d (if r = 9 then FAULT_PROTECTION else CONFLICT) r)
    | none =>
      if stFenced s (qDie q) 0x20 then settle (endOp s d FENCED 0x20 [])
      else settle (run s d (fld d.image 0x10 2))

/-- SH_CTL_DEFINE (R301): op 0, FREE to OPEN at the given version. A reserved op fails its check here. -/
def execShCtlDefine (q tag : Nat) (s : State) : Host.Outcome State Fault Refusal :=
  .next (runSh s q tag (fun op => op == 0 || decide (op > 4)) (fun s d n =>
    let x : Shard := ⟨fld d.image 0x14 4, fld d.image 0x18 2, 0, 1, none, []⟩
    endOp (setShard s (qDie q) n x) d DONE 0x20 []))

/-- SH_CTL_BEGIN_UPDATE (R302, R527): op 1; it completes when the entry enters UPDATING, and waits for a snapshot's read phase. -/
def execShCtlBeginUpdate (q tag : Nat) (s : State) : Host.Outcome State Fault Refusal :=
  .next (runSh s q tag (· == 1) (fun s d n =>
    if snapAwaits s (qDie q) n then
      let s := holdRd { s with opWaits := s.opWaits ++ [(q, tag)] } q tag
      let mark (p : Nat × SnSet) : Nat × SnSet :=
        if (extsOf p.2 (qDie q) n).isEmpty then p else (p.1, { p.2 with run := p.2.run.map (fun r => { r with opwait := true }) })
      addF { s with sets := s.sets.map mark } F.SN_CNT_OPWAIT_OPWAIT f0 0 1
    else
      let (s, done) := applyOp1 s (qDie q) n q tag
      if done then endOp s d DONE 0x20 [] else holdRd s q tag))

/-- SH_CTL_COMMIT (R302, R305): op 2, UPDATING to OPEN at the next step; the forced fences that waited are applied. -/
def execShCtlCommit (q tag : Nat) (s : State) : Host.Outcome State Fault Refusal :=
  .next (runSh s q tag (· == 2) (fun s d n =>
    let x := getShard s (qDie q) n
    let s := setShard s (qDie q) n { x with step := (x.step + 1) % 2 ^ 32, state := 1, force := [] }
    let s := x.force.foldl (fun s f => applyForce s (qDie q) n f) s
    endOp s d DONE 0x20 []))

/-- SH_CTL_QUERY (R301, R627): op 3 gives the 16-byte image of an entry, which a mover writes. -/
def execShCtlQuery (q tag : Nat) (s : State) : Host.Outcome State Fault Refusal :=
  .next (runSh s q tag (· == 3) (fun s d n =>
    let x := getShard s (qDie q) n
    let bs := toLe 4 x.step ++ toLe 2 x.epoch ++ toLe 2 x.refs ++ toLe 1 x.state ++ toLe 1 0 ++
      toLe 2 (sat 65535 (shardWaiting s (qDie q) n)) ++ toLe 4 0
    runOut s d 0x20 [rawWrite (fld d.image 0x20 8) bs 0 0]))

/-- SH_CTL_FREE (R301): op 4, OPEN with no references to FREE. -/
def execShCtlFree (q tag : Nat) (s : State) : Host.Outcome State Fault Refusal :=
  .next (runSh s q tag (· == 4) (fun s d n => endOp (setShard s (qDie q) n Shard.free) d DONE 0x20 []))

end Sys2Proof.Machine
end

