-- ==== Sys2Proof/Machine/Snapshots.lean ====
section
/-! DEFINITION. Snapshot sets: their definition, capture, layers and restore, and the storage connections (R464, R524-R539, R569). -/

namespace Sys2Proof.Machine

open Sys2Proof

/-! ## Descriptors of class 9 (R535-R539) -/

/-- Detail bytes of a class-9 completion (R539). -/
def snDetail (reason gen eflags : Nat) : Bytes := toLe 1 reason ++ toLe 4 gen ++ toLe 1 eflags

/-- Status of a failed check of R538. -/
def snStatus (r : Nat) : Nat :=
  if r = 2 ∨ r = 3 then FAULT_PROTECTION else if r = 6 then TIER_FULL else if r = 7 then GEN_ABSENT else CONFLICT

/-- End a class-9 descriptor. -/
def endSn (s : State) (d : Desc) (status reason gen eflags : Nat) : State :=
  settle (completeDesc s d status (seqStation d) (snDetail reason gen eflags) 0)

/-- Run a class-9 opcode: its checks, then its effect. -/
def runSn (s : State) (q tag op : Nat) (checks : State → Desc → List (Nat × Bool)) (run : State → Desc → State) : State :=
  match opDesc s q tag (fun i => opcode i == op) with
  | none => s
  | some d =>
    match firstFail (checks s d) with
    | some r => endSn s d (snStatus r) r 0 0
    | none => run s d

/-- The set of a descriptor is another function's, or undefined. -/
def foreignSet (s : State) (d : Desc) (n : Nat) : Bool :=
  match tget? s.sets n with
  | some x => x.owner != d.fn
  | none => true

/-- The SN_TAKE that runs on a set. -/
def runOf (s : State) (n : Nat) : Option SnRun := (tget? s.sets n).bind (·.run)

/-! ## SN_DEFINE (R525, R526) -/

/-- Extents of a manifest of `k` entries. -/
def manifestExts (m : Bytes) (k : Nat) : List SnExtent :=
  (List.range k).map (fun i =>
    let o := 64 + 32 * i
    ⟨fld m o 8, fld m (o + 8) 8, fld m (o + 16) 1, fld m (o + 17) 1, fld m (o + 18) 2⟩)

/-- A manifest entry breaks R525. -/
def badExtent (m : Bytes) (i : Nat) : Bool :=
  let o := 64 + 32 * i
  let va := fld m o 8
  let n := fld m (o + 8) 8
  va % 4096 != 0 || decide (va ≥ 2 ^ 52) || n % 4096 != 0 || n == 0 || decide (n > 2 ^ 40) || decide (fld m (o + 16) 1 > 1) ||
    decide (fld m (o + 17) 1 ≥ 32) || decide (fld m (o + 18) 2 ≥ 1024) || !zeroAt m (o + 20) 12

/-- A manifest breaks R525. -/
def badManifest (m : Bytes) (k : Nat) : Bool :=
  fld m 0 8 % 64 != 0 || decide (fld m 0 8 ≥ 2 ^ 52) || !zeroAt m 8 56 || (List.range k).any (badExtent m)

/-- The checks of SN_DEFINE that its body decides (R538). -/
def defineChecks (s : State) (d : Desc) : List (Nat × Bool) :=
  let im := d.image
  let n := fld im 0x1C 1
  let cap := fld im 0x1D 1
  let busy := (runOf s n).isSome
  let taken := (tget? s.sets n).isSome && foreignSet s d n
  [(1, fld im 0x10 8 % 64 != 0 || decide (fld im 0x10 8 ≥ 2 ^ 52) || fld im 0x18 4 == 0 || decide (fld im 0x18 4 > 65536) ||
      decide (n > 3) || decide (cap ≥ 128) || !zeroAt im 0x1E 34),
   (2, taken || busy),
   (3, (bit cap 0 || bit cap 1 || bit cap 5) && !isPF d.fn)]

/-- The newest generation of a set in local flash (R530, R531). -/
def flashGen (s : State) (n : Nat) : Option Nat :=
  ([0, 1] : List Nat).foldl (fun a b =>
    match tget? s.images (imgKey 1 n b) with
    | some x => some (max x.gen (a.getD 0))
    | none => a) none

/-- SN_DEFINE (R525). A set that the same function defines anew keeps its generations; one that is new finds those in flash. -/
def execSnDefine (q tag : Nat) (s : State) : Host.Outcome State Fault Refusal :=
  .next (runSn s q tag 0x90 defineChecks (fun s d =>
    let k := fld d.image 0x18 4
    let n := fld d.image 0x1C 1
    let (m, cause) := jobRead s d.fn (fld d.image 0x10 8) (64 + 32 * k)
    if cause ≠ 0 then endSn s d (causeStatus cause) 0 0 0
    else if badManifest m k then endSn s d CONFLICT 1 0 0
    else
      let new : SnSet := ⟨d.fn, m, fld m 0 8, manifestExts m k, fld d.image 0x1D 1, crc32c m, none, none, flashGen s n, none, none, none⟩
      let x := match tget? s.sets n with
        | some o => { new with prev := o.prev, genP := o.genP, genL := o.genL, genS := o.genS }
        | none => new
      endSn (setSet s n x) d DONE 0 0 0))

/-! ## Capture (R526, R527) -/

/-- The numbers of a sequence record, as they are captured. -/
def seqVals (x : SeqRec) : List Nat :=
  [x.state, x.fmt, x.blk, x.d, x.nkv, x.va, x.maxLen, x.cls, x.prio, x.epoch, x.length, x.first, x.mapped, x.spanBase, x.span]

/-- The numbers of a Page Map entry. -/
def entVals (e : PEntry) : List Nat := [e.tier, e.region, e.gen, b2n e.hostPin, b2n e.lost, e.age]

/-- The numbers of a profile. -/
def profVals (p : Profile) : List Nat :=
  [b2n p.bound, p.tag, p.ctl, p.stream, p.check, p.tau, p.start, p.level, p.ceil, p.disagree, p.clamp]

/-- Shard entries that a manifest names, once each (R525). -/
def namedShards (x : SnSet) : List Nat :=
  x.exts.foldl (fun l e =>
    let k := shardKey (e.die % 16) e.shard
    if e.kind = 0 ∧ bit e.die 4 ∧ !l.contains k then l ++ [k] else l) []

/-- The module state that a set captures (R526). -/
def captureItems (s : State) (x : SnSet) : List SnItem :=
  let c (i : Nat) (l : List SnItem) : List SnItem := if bit x.capture i then l else []
  let own := s.seqs.filter (fun p => p.2.owner == x.owner)
  c 0 (s.rstreams.map (fun p => ⟨0, p.1, [p.2.seed, p.2.epoch, b2n p.2.isSet]⟩)) ++
  c 1 (s.profiles.map (fun p => ⟨1, p.1, profVals p.2⟩)) ++
  c 2 ((namedShards x).map (fun k => ⟨2, k, [(getShard s (k / 1024) (k % 1024)).step, (getShard s (k / 1024) (k % 1024)).epoch]⟩)) ++
  c 3 ((List.range 16).map (fun d => ⟨3, d, [curEpoch s d x.owner]⟩)) ++
  c 4 (own.map (fun p => ⟨4, p.1, seqVals p.2⟩) ++
    own.flatMap (fun p => (List.range p.2.span).filterMap (fun i =>
      let e := pageEnt s p.1 p.2 i
      if e.valid then some ⟨5, p.1 * 2 ^ 18 + i, entVals e⟩ else none))) ++
  c 5 ((s.extTab.filter (fun p => p.1 / 256 % 2 == extBank s (p.1 / 512))).map (fun p => ⟨6, p.1 / 512 * 256 + p.1 % 256, [p.2]⟩)) ++
  c 6 ((s.scheds.filter (fun p => p.2.fn == x.owner)).map (fun p =>
    ⟨7, p.1, [getF s F.QUE_ST_NEXT_NEXT (p.1 / 4) (p.1 % 4), getF s F.QUE_ST_STEP_STEP (p.1 / 4) (p.1 % 4)]⟩))

/-- The images of a set do not fit the bank or the local reserve (R528, R531, R538; log entry 60). -/
def noRoom (s : State) (x : SnSet) (layers : Nat) : Bool :=
  let own := ownBytes s
  let all := (s.sets.map (fun p => fullBytes p.2)).foldl (· + ·) 0
  decide (own > bankBytes s) || (bit layers 0 && decide (own + fullBytes x > bankBytes s)) ||
    (bit layers 1 && decide (2 * all > getF s F.SN_LOCAL_RSV_GIB f0 * 2 ^ 30))

/-- The checks of SN_TAKE (R535, R538). -/
def takeChecks (s : State) (d : Desc) : List (Nat × Bool) :=
  let im := d.image
  let n := fld im 0x10 1
  let ls := fld im 0x11 1
  let gen := fld im 0x14 4
  let late := match (tget? s.sets n).bind (·.prev) with
    | some p => decide (gen ≤ p)
    | none => false
  let full := match tget? s.sets n with
    | some x => noRoom s x ls
    | none => false
  [(1, decide (n > 3) || decide (ls > 7) || (bit ls 2 && !bit ls 1) || decide (fld im 0x12 1 > 15) || !zeroAt im 0x13 1 ||
      decide (fld im 0x24 2 ≥ 3072) || !zeroAt im 0x28 24),
   (2, foreignSet s d n),
   (4, late),
   (6, full),
   (8, bit ls 0 && !flag s F.SN_PARTNER_VALID f0)]

/-- The snapshot engine holds a descriptor until its capture is over. -/
def holdSn (s : State) (q tag : Nat) : State :=
  match descOf s q tag with
  | none => s
  | some d =>
    let k := qDie q
    let s := setFifo s k snapStation (fifo s k snapStation ++ [⟨q, tag, d.issued, .event 3, false, false, DONE, [], 0⟩])
    updDesc s q tag (fun d => { d with started := true, issued := d.issued + 1, unretired := d.unretired + 1 })

/-- The engine lets a descriptor go. -/
def freeSn (s : State) (q tag status gen eflags : Nat) : State :=
  let k := qDie q
  let mine (m : Micro) : Bool := m.queue == q && m.tag == tag
  match (fifo s k snapStation).find? mine with
  | none => s
  | some m =>
    let s := setFifo s k snapStation (delFirst mine (fifo s k snapStation))
    let st := match descOf s q tag with
      | some d => seqStation d
      | none => 0x30
    let bs := snDetail 0 gen eflags
    maybeComplete (updDesc s q tag (fun d =>
      { d with unretired := d.unretired - 1, detail := bs, retired := d.retired ++ [⟨m.idx, status, st, bs⟩] })) q tag

/-- SN_TAKE (R527, R535): a generation begins; it waits while an earlier generation of the set is in transfer (log entry 60). -/
def execSnTake (q tag : Nat) (s : State) : Host.Outcome State Fault Refusal :=
  .next (
    match opDesc s q tag (fun i => opcode i == 0x91) with
    | none => s
    | some d =>
      let im := d.image
      let n := fld im 0x10 1
      if !foreignSet s d n ∧ (runOf s n).isSome then s
      else
        runSn s q tag 0x91 takeChecks (fun s _ =>
          let ls := fld im 0x11 1
          let r : SnRun := ⟨q, tag, fld im 0x14 4, ls, ls, fld im 0x12 1, fld im 0x18 8, fld im 0x20 4, fld im 0x24 2, fld im 0x26 2,
            false, [], false, false, false⟩
          holdSn (updSet s n (fun x => { x with run := some r })) q tag))

/-- The places of the shard extents of a set. -/
def shardExts (x : SnSet) : List Nat :=
  (List.range x.exts.length).filter (fun i => match x.exts[i]? with
    | some e => e.kind == 0
    | none => false)

/-- Every shard extent has been read: the partner layer begins its transfer (R527, R529). -/
def afterReads (s : State) (n : Nat) : State :=
  match tget? s.sets n with
  | none => s
  | some x =>
    match x.run with
    | none => s
    | some r =>
      if !r.captured ∨ !(shardExts x).all (fun i => r.read.contains i) then s
      else if bit r.layers 0 then startPartner s n
      else s

/-- The bank for a new own-state image: not the one with the holder's newest generation, nor that of the last one (R529, R530). -/
def newSlot (s : State) (n : Nat) (x : SnSet) : Nat :=
  match x.genP.bind (ownSlot s n) with
  | some b => 1 - b
  | none =>
    match x.prev.bind (ownSlot s n) with
    | some b => 1 - b
    | none => 0

/-- Every layer that still runs fails with a status (R534, R535). -/
def failLayers (s : State) (n status : Nat) : State := ([0, 1, 2] : List Nat).foldl (fun s l => endLayer s n l status) s

/-- The capture of a set cannot be made: its descriptor and its layers end with the status. -/
def failCapture (s : State) (n : Nat) (r : SnRun) (status : Nat) : State :=
  let s := freeSn s r.queue r.tag status r.gen (b2n r.opwait + 4)
  let s := updRun s n (fun r => { r with captured := true })
  if r.layers = 0 then endRun s n r else failLayers s n status

/-- CAPTURE_DONE (R527): the captured state and the state extents are in the own-state image; CLEAN is the generation, and SN_TAKE
completes. -/
def execCaptureDone (set : Nat) (s : State) : Host.Outcome State Fault Refusal :=
  .next (
    match tget? s.sets set with
    | none => s
    | some x =>
      match x.run with
      | none => s
      | some r =>
        if r.captured then s
        else if (match descOf s r.queue r.tag with
            | some d => d.override.isSome || d.seqr == 5
            | none => true) then settle (updSet s set (fun x => { x with run := none }))
        else
          let parts := (x.exts.filter (fun e => e.kind == 1)).map (fun e => jobRead s x.owner e.va e.bytes)
          match parts.find? (fun p => p.2 != 0) with
          | some p => runRings (settle (failCapture s set r (causeStatus p.2)))
          | none =>
            let img : SnImage := ⟨r.gen, set, getF s F.FAB_FN_TAG_TAG f0 x.owner, x.crc, none, captureItems s x, parts.map (·.1), [], true⟩
            let images := tins (tins s.images (imgKey 0 set (newSlot s set x)) img) (imgKey 2 set 0) img
            let s := setSet { s with images := images } set { x with
              clean := some r.gen, prev := some r.gen, run := some { r with captured := true } }
            let s := freeSn s r.queue r.tag DONE r.gen (b2n r.opwait)
            let s := if r.layers = 0 then endRun s set r else afterReads s set
            runRings (settle s))

/-- SNAPSHOT_EXTENT_READ (R527): every layer in progress has read one shard extent. -/
def execSnapshotExtentRead (set extent : Nat) (s : State) : Host.Outcome State Fault Refusal :=
  .next (
    match tget? s.sets set with
    | none => s
    | some x =>
      match x.run with
      | none => s
      | some r =>
        if !r.captured ∨ r.layers = 0 ∨ r.read.contains extent ∨ !(shardExts x).contains extent then s
        else
          match x.exts[extent]? with
          | none => s
          | some e =>
            let (bs, cause) := jobRead s x.owner e.va e.bytes
            if cause ≠ 0 then runRings (settle (failLayers s set (causeStatus cause)))
            else
              let place := ((r.read.filter (fun i => decide (i < extent))).length)
              let s := match buildImg s set with
                | some img =>
                  { s with images := tins s.images (imgKey 2 set 0) { img with shards := img.shards.take place ++ [bs] ++ img.shards.drop place } }
                | none => s
              let s := updRun s set (fun r => { r with read := insertUp extent r.read })
              runRings (settle (afterReads s set)))

/-! ## The local and shared layers (R531-R534, R569) -/

/-- The valid snapshot key of a set (R565). -/
def snapKey (s : State) (n : Nat) : Option KeySlot := tget? s.keys (64 + n)

/-- The stored form of an image: in clear, or encrypted by 4 KiB units (R569). -/
def storedBytes (s : State) (n : Nat) (x : SnImage) : Bytes :=
  let bs := imgBytes x
  match x.keyId, snapKey s n with
  | some _, some k =>
    let key := natsOf k.key
    let u := ceilDiv bs.length 4096
    let padded := natsOf (bs ++ toLe (u * 4096 - bs.length) 0)
    bytesOf ((List.range u).flatMap (fun i =>
      xtsUnit true (key.take 32) (key.drop 32) (x.gen * 2 ^ 64 + i) ((padded.drop (4096 * i)).take 4096)))
  | _, _ => bs

/-- A storage connection. -/
def getConn (s : State) (c : Nat) : Option Conn := tget? s.conns c
/-- Its storage port and priority (R532). -/
def connPort (c : Conn) : Nat := fld c.record 0 1 % 2 * 8 + bits (fld c.record 1 1) 1 3
/-- Bytes of a packet: 1,024, 2,048 or 4,096 (R532). -/
def connMtu (c : Conn) : Nat := 512 * 2 ^ (fld c.record 3 1)

/-- The fabric die of a storage port: F1 or F5 (R24). -/
def storageDie (port : Nat) : Nat := 17 + 4 * port

/-- The storage port of a connection is gone with its fabric die (R24, R37): nothing passes it. -/
def connGone (s : State) (c : Conn) : Bool := dieFenced s (storageDie (connPort c / 8))

/-- Send a packet of a connection, unless its port is gone or its priority is paused (R37, R464). -/
def sendPkt (s : State) (c : Nat) (p : RocePkt) : State :=
  match getConn s c with
  | some x => if connGone s x || (tget? s.paused (connPort x)).isSome then s else emit s (.storage c p.kind p.data)
  | none => s

/-- Number packets of a connection and send them. -/
def queuePkts (s : State) (c : Nat) : List (Nat × Nat × Nat × Bytes × Nat) → State
  | [] => s
  | (kind, remote, rkey, data, set) :: r =>
    match getConn s c with
    | none => s
    | some x =>
      let p : RocePkt := ⟨x.psn, kind, remote, rkey, data, set⟩
      let s := { s with conns := tins s.conns c { x with psn := (x.psn + 1) % 2 ^ 24, unacked := x.unacked ++ [p] } }
      queuePkts (sendPkt s c p) c r

/-- Cut bytes into packets of RDMA WRITE. -/
def writePkts (mtu remote rkey set : Nat) (bs : Bytes) : List (Nat × Nat × Nat × Bytes × Nat) :=
  (List.range (ceilDiv bs.length mtu)).map (fun i => (0, remote + mtu * i, rkey, (bs.drop (mtu * i)).take mtu, set))

/-- The shared layer sends the local image, and then its header (R532, R533). -/
def startShared (s : State) (n : Nat) (r : SnRun) (img : SnImage) : State :=
  match getConn s r.conn with
  | none => endLayer s n 2 LINK_LOST
  | some c =>
    queuePkts s r.conn (writePkts (connMtu c) r.remote r.rkey n (storedBytes s n img) ++ [(1, 0, 0, imgHeader img, n)])

/-- The slot of a local image that does not hold the newest one (R530, R531). -/
def localSlot (s : State) (n : Nat) (x : SnSet) : Nat :=
  match x.genL with
  | some g =>
    if (match tget? s.images (imgKey 1 n 0) with
      | some i => i.gen == g
      | none => false) then 1 else 0
  | none => 0

/-- Every M die can hold its part of a local image (R531). -/
def flashWhole (s : State) : Bool :=
  (List.range 8).all (fun k => !dieFenced s (24 + k) && flag s F.TM_STATE_FLASH_OK (24 + k))

/-- LOCAL_LAYER_COMMIT (R531, R534): the image is in flash, or could not be written. -/
def execLocalLayerCommit (set : Nat) (ok : Bool) (s : State) : Host.Outcome State Fault Refusal :=
  .next (
    match tget? s.sets set, buildImg s set with
    | some x, some img =>
      match x.run with
      | none => s
      | some r =>
        if !r.captured ∨ !bit r.layers 1 ∨ !(shardExts x).all (fun i => r.read.contains i) then s
        else if !ok ∨ !flashWhole s then
          let st := if flashWhole s then TIER_ERROR else FENCED
          runRings (settle (endLayer (endLayer s set 1 st) set 2 st))
        else
          let img := { img with keyId := (snapKey s set).map (·.id) }
          let s := { s with images := tins s.images (imgKey 1 set (localSlot s set x)) img }
          let s := setSet s set { x with genL := some r.gen }
          let s := endLayer s set 1 DONE
          runRings (settle (if bit r.layers 2 then startShared s set r img else s))
    | _, _ => s)

/-- Packets of a set that its connection has not seen acknowledged. -/
def owesPkts (s : State) (c n : Nat) : Bool :=
  match getConn s c with
  | some x => x.unacked.any (fun p => p.set == n)
  | none => true

/-- SHARED_LAYER_COMMIT (R533): the store has acknowledged the header of the generation. -/
def execSharedLayerCommit (set : Nat) (s : State) : Host.Outcome State Fault Refusal :=
  .next (
    match runOf s set with
    | none => s
    | some r =>
      if !r.captured ∨ !bit r.layers 2 ∨ bit r.layers 1 ∨ owesPkts s r.conn set then s
      else runRings (settle (endLayer (updSet s set (fun x => { x with genS := some r.gen })) set 2 DONE)))

/-- A connection has failed: the shared layers that use it fail (R534). -/
def failConn (s : State) (c : Nat) : State :=
  let s := match getConn s c with
    | some x => { s with conns := tins s.conns c { x with unacked := [], retries := 0 } }
    | none => s
  let hit := s.sets.filter (fun p => match p.2.run with
    | some r => bit r.layers 2 && !bit r.layers 1 && r.conn == c
    | none => false)
  hit.foldl (fun s p => endLayer s p.1 2 LINK_LOST) s

/-- ROCE_RETRANSMIT_TIMEOUT (R533): go-back-N; after seven retries the connection has failed. -/
def execRoceRetransmitTimeout (conn : Nat) (s : State) : Host.Outcome State Fault Refusal :=
  .next (
    match getConn s conn with
    | none => s
    | some x =>
      if x.unacked.isEmpty then s
      else if x.retries ≥ 7 then runRings (settle (failConn s conn))
      else
        let s := { s with conns := tins s.conns conn { x with retries := x.retries + 1 } }
        x.unacked.foldl (fun s p => sendPkt s conn p) s)

/-- CONGESTION_NOTIFICATION (R533): the rate, in sixteenths, halves. -/
def execCongestionNotification (conn : Nat) (s : State) : Host.Outcome State Fault Refusal :=
  .next (
    match getConn s conn with
    | some x => { s with conns := tins s.conns conn { x with rate := max 1 (x.rate / 2) } }
    | none => s)

/-- ROCE_RESPONSE_RECEIVE (R533): everything up to a sequence number is acknowledged. The bytes of a read response reach the restore
that asked for them as its image. -/
def execRoceResponseReceive (conn psn : Nat) (_data : Bytes) (s : State) : Host.Outcome State Fault Refusal :=
  .next (
    match getConn s conn with
    | none => s
    | some x =>
      if connGone s x then s
      else
      let acked (p : RocePkt) : Bool := decide ((psn + 2 ^ 24 - p.psn) % 2 ^ 24 < 2 ^ 23)
      { s with conns := tins s.conns conn { x with unacked := x.unacked.filter (fun p => !acked p), retries := 0 } })

/-- PFC_PAUSE_FRAME (R464): a priority of a storage port is paused, or resumes and sends what waited. -/
def execPfcPauseFrame (sport prio quanta : Nat) (s : State) : Host.Outcome State Fault Refusal :=
  .next (
    let k := sport * 8 + prio
    if sport > 1 ∨ prio > 7 ∨ dieFenced s (storageDie sport) ∨ !s.conns.any (fun p => connPort p.2 == k) then s
    else
      let was := (tget? s.paused k).isSome
      let s := { s with paused := tput s.paused k quanta 0 }
      if quanta = 0 ∧ was then
        (s.conns.filter (fun p => connPort p.2 == k)).foldl (fun s p =>
          p.2.unacked.foldl (fun s x => emit s (.storage p.1 x.kind x.data)) s) s
      else s)

/-! ## SN_CONN (R532) -/

/-- A connection record breaks R532. -/
def badRecord (m : Bytes) : Bool :=
  decide (fld m 0 1 > 1) || decide (fld m 1 1 ≥ 16) || fld m 3 1 == 0 || decide (fld m 3 1 > 3) || !zeroAt m 7 1 || !zeroAt m 11 1 ||
    bits (fld m 0x0C 2) 12 3 != 0 || !zeroAt m 0x34 76

/-- The checks of SN_CONN that its body decides (R538). -/
def connChecks (_s : State) (d : Desc) : List (Nat × Bool) :=
  let im := d.image
  [(1, fld im 0x10 8 % 64 != 0 || decide (fld im 0x10 8 ≥ 2 ^ 52) || decide (fld im 0x18 1 > 15) || decide (fld im 0x19 1 > 1) ||
      !zeroAt im 0x1A 38),
   (3, !isPF d.fn)]

/-- SN_CONN (R532): a connection is set from its record, or cleared. -/
def execSnConn (q tag : Nat) (s : State) : Host.Outcome State Fault Refusal :=
  .next (runSn s q tag 0x93 connChecks (fun s d =>
    let c := fld d.image 0x18 1
    let s' := failConn s c
    if fld d.image 0x19 1 = 1 then endSn { s' with conns := tdel s'.conns c } d DONE 0 0 0
    else
      let (m, cause) := jobRead s d.fn (fld d.image 0x10 8) 128
      let mates := s.conns.filter (fun p => p.1 != c && fld p.2.record 0 1 == fld m 0 1)
      if cause ≠ 0 then endSn s d (causeStatus cause) 0 0 0
      else if badRecord m ∨ mates.length ≥ 8 then endSn s d CONFLICT 1 0 0
      else endSn { s' with conns := tins s'.conns c ⟨m, fld m 8 3, [], 0, 16⟩ } d DONE 0 0 0))

/-! ## SN_RESTORE (R536, R537) -/

/-- The image that a restore reads: the module's own for sources 0 and 2, else the one that its operand brings (R536). -/
def restoreImage (s : State) (d : Desc) (image : Option SnImage) : Option SnImage :=
  let n := fld d.image 0x10 1
  let gen := fld d.image 0x14 4
  let at_ (place : Nat) : Option SnImage :=
    (([0, 1] : List Nat).filterMap (fun b => tget? s.images (imgKey place n b))).find? (fun x => x.gen == gen)
  match fld d.image 0x11 1 with
  | 0 => at_ 0
  | 2 => if flashWhole s then at_ 1 else none
  | _ => image.bind (fun x => if x.gen = gen ∧ x.set = n then some x else none)

/-- The restore's function is otherwise idle on the module (R537). -/
def fnBusy (s : State) (d : Desc) : Bool :=
  s.descs.any (fun e => e.fn == d.fn && !(e.queue == d.queue && e.tag == d.tag)) || s.scheds.any (fun p => p.2.fn == d.fn)

/-- The checks of SN_RESTORE (R538). -/
def restoreChecks (image : Option SnImage) (s : State) (d : Desc) : List (Nat × Bool) :=
  let im := d.image
  let n := fld im 0x10 1
  let src := fld im 0x11 1
  let parts := fld im 0x12 1
  let nowhere := src == 1 && !flag s F.SN_PARTNER_VALID f0
  let x := restoreImage s d image
  let wrong := match x, tget? s.sets n with
    | some i, some t =>
      i.crc != t.crc || ((src == 2 || src == 3) && i.keyId != (snapKey s n).map (·.id) && i.keyId.isSome)
    | _, _ => false
  [(1, decide (n > 3) || decide (src > 3) || parts == 0 || decide (parts > 3) || (src == 0 && bit parts 1) ||
      decide (fld im 0x13 1 > 15) || !zeroAt im 0x24 28),
   (2, foreignSet s d n),
   (5, fnBusy s d),
   (7, !nowhere && x.isNone),
   (8, nowhere || wrong)]

/-- Write extents of a kind from their bytes, until one fails. -/
def writeExts (s : State) (die fn : Nat) : List SnExtent → List Bytes → State × Nat
  | e :: es, b :: bs =>
    match jobWrite s die fn e.va b 0 with
    | (s, 0) => writeExts s die fn es bs
    | (s, st) => (s, st)
  | _, _ => (s, 0)

/-- The value of an item at a place. -/
def item (i : SnItem) (k : Nat) : Nat := i.vals.getD k 0

/-- A region of a die's pool is taken back for a restored page (R274). -/
def takeBack (s : State) (die cls : Nat) : State :=
  if getF s F.PG_SHARED_FREE_FREE die ≠ 0 then subF s F.PG_SHARED_FREE_FREE die 0 1 else subF s F.PG_CLASS_FREE_FREE die cls 1

/-- The function's sequences are gone, and their regions free. -/
def dropSeqs (s : State) (fn : Nat) : State :=
  (s.seqs.filter (fun p => p.2.owner == fn)).foldl (fun s p =>
    let (held, s) := unmapPages s p.1 p.2 (List.range p.2.span)
    releaseRegions { s with seqs := tdel s.seqs p.1 } held) s

/-- A captured page comes back where its region is still free; else it is lost. -/
def restorePage (s : State) (n : Nat) (x : SeqRec) (i : Nat) (it : SnItem) : State :=
  let tier := item it 0
  let r := item it 1
  let ok := if tier = 0 then poolFree s r && inKvPool s r else !pageUses s (farBase + r * region)
  let e : PEntry := ⟨true, tier, r, item it 2, item it 3 == 1, false, item it 4 == 1 || !ok, item it 5⟩
  let s := if ok && tier == 0 then takeBack s (r / 98304) x.cls else s
  syncPage (setPageEnt s n x i e) n x i

/-- A captured sequence comes back, at its span or at another free one; one whose number another function holds does not (R536;
log entry 60). -/
def restoreSeq (s : State) (fn : Nat) (items : List SnItem) (it : SnItem) : State :=
  let n := it.key
  let die := n / 4096
  if (getSeq s n).isSome then s
  else
    let base := item it 13
    let span := item it 14
    let clash := (dieSeqs s die).any (fun p => decide (p.2.spanBase < base + span) && decide (base < p.2.spanBase + p.2.span))
    match (if clash then fitSpan s die span else some base) with
    | none => s
    | some b =>
      let x : SeqRec := ⟨item it 0, fn, item it 1, item it 2, item it 3, item it 4, item it 5, item it 6, item it 7, item it 8,
        item it 9, item it 10, item it 11, item it 12, b, span, none, []⟩
      let s := setSeq s n x
      let s := (items.filter (fun p => p.kind == 5 && p.key / 2 ^ 18 == n)).foldl (fun s p => restorePage s n x (p.key % 2 ^ 18) p) s
      showPg s die

/-- The Page Map comes back: built in the shadow bank of each compute die, which is swapped (R277, R278, R536; log entry 132). -/
def restoreMap (s : State) (fn : Nat) (items : List SnItem) : State :=
  let dies := (List.range 16).filter (fun d => !dieFenced s d)
  let s := dropSeqs (dies.foldl swapBanksPg s) fn
  let s := (items.filter (fun i => i.kind == 4)).foldl (fun s i => restoreSeq s fn items i) s
  dies.foldl advanceAll s

/-- Random streams, profiles and layout epochs come back (R536 step 2). -/
def restoreTables (s : State) (x : SnSet) (items : List SnItem) : State :=
  let of (k : Nat) : List SnItem := items.filter (fun i => i.kind == k)
  let s := if bit x.capture 0 then
      { s with rstreams := (of 0).foldl (fun t i => tput t i.key ⟨item i 0, item i 1, item i 2 == 1⟩ RStream.reset) [] }
    else s
  let s := if bit x.capture 1 then
      { s with profiles := (of 1).foldl (fun t i => tput t i.key ⟨item i 0 == 1, item i 1, item i 2, item i 3, item i 4, item i 5,
          item i 6, item i 7, item i 8, item i 9, item i 10⟩ Profile.default) [] }
    else s
  (of 3).foldl (fun s i =>
    let k := epochKey i.key x.owner
    { s with epochs := tput s.epochs k (item i 0) 0, maps := tdel s.maps k }) s

/-- The expert routing tables come back in the shadow banks, which are swapped (R442, R536). -/
def restoreExperts (s : State) (items : List SnItem) : State :=
  (List.range 16).foldl (fun s die =>
    let b := 1 - extBank s die
    let t := s.extTab.filter (fun p => !(p.1 / 256 == die * 2 + b))
    let t := (items.filter (fun i => i.kind == 6 && i.key / 256 == die)).foldl (fun t i => tput t (extKey die b (i.key % 256)) (item i 0) 0) t
    setF { s with extTab := t } F.RD_EXT_STATE_ACTIVE die 0 b) s

/-- The schedule positions, one next and one step per slot (R536). -/
def posBytes (items : List SnItem) : Bytes :=
  (items.filter (fun i => i.kind == 7)).flatMap (fun i => toLe 4 (item i 0) ++ toLe 4 (item i 1))

/-- The state part of a restore (R536 step 2). -/
def restoreState (s : State) (d : Desc) (x : SnSet) (img : SnImage) : State × Nat :=
  match writeExts s (qDie d.queue) x.owner (x.exts.filter (fun e => e.kind == 1)) img.state with
  | (s, 0) =>
    let s := restoreTables s x img.items
    let s := if bit x.capture 4 then restoreMap s x.owner img.items else s
    let s := if bit x.capture 5 then restoreExperts s img.items else s
    let pos := posBytes img.items
    if pos.isEmpty then (s, 0) else jobWrite s (qDie d.queue) x.owner x.posOut pos 0
  | (s, st) => (s, st)

/-- Each captured version opens its shard entry as a forced fence (R305, R536 step 4). -/
def restoreShards (s : State) (img : SnImage) : State :=
  (img.items.filter (fun i => i.kind == 2)).foldl (fun s i => forceShard s (i.key / 1024) (i.key % 1024) (1, item i 0, item i 1)) s

/-- SN_RESTORE (R536): `image` is what the holder or the store answers; none where it has no such generation. -/
def execSnRestore (q tag : Nat) (image : Option SnImage) (s : State) : Host.Outcome State Fault Refusal :=
  .next (runSn s q tag 0x92 (restoreChecks image) (fun s d =>
    let n := fld d.image 0x10 1
    let gen := fld d.image 0x14 4
    let parts := fld d.image 0x12 1
    match tget? s.sets n, restoreImage s d image with
    | some x, some img =>
      if !img.intact then endSn (addF s F.SN_CNT_CRC_CRC f0 0 3) d FAULT_POISON 0 gen 0
      else
        match (if bit parts 0 then restoreState s d x img else (s, 0)) with
        | (s, 0) =>
          match (if bit parts 1 then writeExts s (qDie q) x.owner (x.exts.filter (fun e => e.kind == 0)) img.shards else (s, 0)) with
          | (s, 0) =>
            let s := restoreShards s img
            let s := if bit parts 1 then updSet s n (fun x => { x with clean := some gen }) else s
            runRings (endSn s d DONE 0 gen 0)
          | (s, st) => endSn s d st 0 gen 0
        | (s, st) => endSn s d st 0 gen 0
    | _, _ => endSn s d GEN_ABSENT 7 gen 0))

end Sys2Proof.Machine
end

