-- ==== Sys2Proof/Machine/Test.lean ====
section
/-! DEFINITION. Analog test buses, self-tests, margining and repair (R574-R587). -/

namespace Sys2Proof.Machine

open Sys2Proof

/-! ## Who may test (R574) -/

/-- A start of a kind that TST_ALLOW does not allow has no effect; after the seal it is logged (R574). -/
def allowed (s : State) (src : Src) (kind : Fld) (off : Nat) (k : State → State) : State :=
  if flag s kind f0 then k s else if sealed s then logErr s (srcFn src) TEST_DENIED off else s

/-! ## Analog test buses (R575-R577) -/

/-- A die offers a source code (R576). -/
def atbOffers (die c : Nat) : Bool :=
  decide (c = 0x00 ∨ c = 0x01 ∨ c = 0x03) ||
  (isComp die && (c == 0x02 || decide (0x04 ≤ c ∧ c ≤ 0x0B))) ||
  decide (c = 0x04 ∨ c = 0x05) ||
  (decide (0x10 ≤ c ∧ c ≤ 0x17) && (decide (c % 4 < 3) || isMem die)) ||
  (decide (c = 0x20 ∨ c = 0x21) && !isFab die) ||
  (decide (0x30 ≤ c ∧ c ≤ 0x35) && isFab die)

/-- What a pin of the analog buses carries: 0 V, or one more than the die, and its source code × 64 (R575, R576). -/
def atbLevel (s : State) (en die : Nat) (code : Fld) : Nat :=
  let c := getF s code die
  if en = 0 ∨ c = 0 ∨ !atbOffers die c ∨ dieFenced s die ∨ inCharcoal s die then 0 else 1 + die + 64 * c

/-- The pins ATB_A (3) and ATB_B (4) follow the selection and the route. -/
def showAtb (s : State) : State :=
  let a := atbLevel s (getF s F.TST_ATB_ROUTE_EN_A f0) (getF s F.TST_ATB_ROUTE_DIE_A f0) F.TST_ATB_SRC_A
  let b := atbLevel s (getF s F.TST_ATB_ROUTE_EN_B f0) (getF s F.TST_ATB_ROUTE_DIE_B f0) F.TST_ATB_SRC_B
  emit (emit s (.pin 3 a)) (.pin 4 b)

/-- ATB_SELECT (R576): a write of TST_ATB. Codes of 0 disconnect the buses, and start nothing. -/
def execAtbSelect (src : Src) (die value : Nat) (s : State) : Host.Outcome State Fault Refusal :=
  .next (pfWrite s src die 0x700000 value (fun s =>
    let a := bits value 0 8
    let b := bits value 8 8
    let put (s : State) : State :=
      let s := setF (setF s F.TST_ATB_SRC_A die 0 a) F.TST_ATB_SRC_B die 0 b
      showAtb (setF s F.TST_ATB_ERR die 0 (b2n (!(atbOffers die a && atbOffers die b))))
    if a = 0 ∧ b = 0 then put s else allowed s src F.TST_ALLOW_ATB 0x700000 put))

/-- ATB_ROUTE (R507, R577): a write of TST_ATB_ROUTE; ATB_B takes the shared pin from the clock observation output. -/
def execAtbRoute (src : Src) (value : Nat) (s : State) : Host.Outcome State Fault Refusal :=
  .next (pfWrite s src (die04 s) 0x0E0004 value (fun s =>
    let put (s : State) : State :=
      let s := setF (setF s F.TST_ATB_ROUTE_DIE_A f0 0 (bits value 0 5)) F.TST_ATB_ROUTE_EN_A f0 0 (bits value 5 1)
      let s := setF (setF s F.TST_ATB_ROUTE_DIE_B f0 0 (bits value 8 5)) F.TST_ATB_ROUTE_EN_B f0 0 (bits value 13 1)
      let s :=
        if bit value 13 ∧ flag s F.CLK_OBS_EN f0 then
          showObs (setF (setF s F.CLK_OBS_EN f0 0 0) F.CLK_OBS_PREEMPTED f0 0 1)
        else s
      showAtb s
    if bit value 5 ∨ bit value 13 then allowed s src F.TST_ALLOW_ATB 0x0E0004 put else put s))

/-! ## Built-in self-test (R578, R579) -/

/-- The die meets the condition of a target (R578). -/
def bistReady (s : State) (die target : Nat) : Bool :=
  isComp die && !(tget? s.bists die).isSome &&
    (if target = 4 then getF s F.PG_STATE_REBUILD die == 0
     else decide (1 ≤ target ∧ target ≤ 3) && !s.descs.any (fun d => qDie d.queue == die) && !anyEnabled s die)

/-- BIST_START (R574, R578): a write of TST_BIST. -/
def execBistStart (src : Src) (die value : Nat) (s : State) : Host.Outcome State Fault Refusal :=
  .next (pfWrite s src die 0x700004 value (fun s =>
    let t := bits value 0 3
    if !bit value 3 then setF s F.TST_BIST_TARGET die 0 t
    else
      allowed s src F.TST_ALLOW_BIST 0x700004 (fun s =>
        let ok := bistReady s die t
        let s := setF s F.TST_BIST_TARGET die 0 t
        if ok then setF (setF { s with bists := tins s.bists die t } F.TST_BIST_BUSY die 0 1) F.TST_BIST_LAST die 0 0
        else setF s F.TST_BIST_LAST die 0 CONFLICT)))

/-- Pool and tokens of a die read 0 after the march (R578). -/
def clearPool (s : State) (die : Nat) : State :=
  let mem := zeroBytes s.mem (poolBase die) poolBytes
  let lo := poolBase die / 64
  let lines := s.lines.filter (fun p => !(decide (lo ≤ p.1) && decide (p.1 < lo + poolBytes / 64)))
  { s with mem := mem, lines := lines, tokens := s.tokens.filter (fun p => !(p.1 / 4096 == die)) }

/-- The shadow bank of a die's Page Map is cleared (R578). -/
def clearShadow (s : State) (die : Nat) : State :=
  let lo := (die * 2 + (1 - getF s F.PG_STATE_ACT_BANK die)) * 131072
  { s with pmap := s.pmap.filter (fun p => !(decide (lo ≤ p.1) && decide (p.1 < lo + 131072))) }

/-- What a self-test leaves (R578). -/
def bistLeaves (s : State) (die target : Nat) : State :=
  if target = 1 then clearPool s die else if target = 4 then clearShadow s die else s

/-- The outcome of a failing self-test (R579): `u` is the number of the matrix or attention station, of the pool bank or of the row. -/
def bistFail (s : State) (die target u : Nat) : State :=
  match target with
  | 1 => fenceDie (repRec s 4 die 0xFF 1 u 0 0) die 1
  | 2 => fenceStation (repRec s 4 die (u % 4) 1 u 0 0) die (u % 4) 1
  | 3 => fenceStation (repRec s 4 die (0x08 + u % 2) 1 u 0 0) die (0x08 + u % 2) 1
  | _ => fenceStation (repRec s 4 die 0x0C 1 u 0 0) die 0x0C 1

/-- BIST_DONE (R578, R579): the failing rows or units are named. -/
def execBistDone (die : Nat) (failed : List Nat) (s : State) : Host.Outcome State Fault Refusal :=
  .next (
    match tget? s.bists die with
    | none => s
    | some t =>
      let s := setF { s with bists := tdel s.bists die } F.TST_BIST_BUSY die 0 0
      let s := setF (setF s F.TST_BIST_PASS die 0 (b2n failed.isEmpty)) F.TST_BIST_FAILS die 0 (sat 255 failed.length)
      let s := bistLeaves s die t
      let s := failed.foldl (fun s u => bistFail s die t u) s
      if t = 4 then settle (pumpRebuild s die) else s)

/-! ## Margining (R580-R582) -/

/-- Regions of a stack that something other than its KV pool and its partner granules uses (R582). -/
def regionsUsed (s : State) (n : Nat) : Nat :=
  let on (r : Nat) : Bool := r / 49152 == n && !inKvPool s r
  let homes := (s.homes.filter (fun p => p.2.tier == 0 && on p.2.location)).length
  let moves := (s.moves.filter (fun m => m.copying && m.tier == 0 && on m.location)).length
  let old := (s.releases.filter (fun x => x.tier == 0 && on x.location)).length
  let fixed := (s.pages.filter (fun p => p.2.kind % 8 == 0 && p.2.backing / stackBytes == n)).map (fun p => if p.2.large then 512 else 1)
  let rows := ((s.pages.filter (fun p => p.2.kind % 8 == 1)).map (fun p => p.2.backing / 32)).eraseDups
  let tables := ((List.range (96 - s.partGran)).filter (fun g => isTableGran s (96 * n + g))).length
  homes + moves + old + fixed.foldl (· + ·) 0 + rows.length + 512 * tables

/-- Free regions of a stack in service, outside its KV pool and its partner granules (R528, R582). -/
def regionsFree (s : State) (n : Nat) : Nat :=
  if tgetD s.stackState n 0 ≠ 0 ∨ tgetD s.drains n 0 ≠ 0 then 0
  else 49152 - 512 * s.partGran - (stackPool s n).length - regionsUsed s n

/-- A margin run of a stack is refused (R581, R582). -/
def stackRefused (s : State) (n : Nat) : Bool :=
  let other := if n % 2 = 0 then n + 1 else n - 1
  tgetD s.stackState n 0 != 0 || tgetD s.drains n 0 != 0 || pinnedPages s n || decide (stackLevel s n ≥ 2) ||
    decide (regionsFree s other < 512 * s.partGran)

/-- A start of a margin run is refused: its target is none of the die, cannot be margined, or a run of the die is in progress
(R581, R582). -/
def marginRefused (s : State) (die t : Nat) : Bool :=
  (tget? s.margins die).isSome ||
    (if isComp die then decide (t ≥ 2) || stackRefused s (marginStack die t)
     else decide (t ≥ 6) || !portActive s (portOn die t))

/-- A run ends before its hold begins: LAST reads 0x50 (R480). -/
def abandonMargin (s : State) (die : Nat) : State := setF (endMargin s die) F.TST_MARGIN_LAST die 0 CONFLICT

/-- A run begins: the stack is drained, or the port enters RETRAIN (R480, R581, R582). -/
def beginMargin (s : State) (die t : Nat) (repair : Bool) : State :=
  let s := { s with margins := tins s.margins die ⟨t, repair, false⟩ }
  let s := setF (setF s F.TST_MARGIN_BUSY die 0 1) F.TST_MARGIN_LAST die 0 0
  if isComp die then
    let n := marginStack die t
    let s := leavePool s n
    let s := drainOut { s with drains := tins s.drains n 3 } n
    if stranded s n then abandonMargin s die else s
  else
    let p := portOn die t
    settle (toRetrain { s with remargin := s.remargin ++ [p] } p)

/-- MARGIN_START (R574, R581, R582): a write of TST_MARGIN, which memory dies lack. -/
def execMarginStart (src : Src) (die value : Nat) (s : State) : Host.Outcome State Fault Refusal :=
  .next (
    if isMem die then s
    else
      pfWrite s src die 0x700008 value (fun s =>
        let t := bits value 0 3
        let put (s : State) : State := setF (setF s F.TST_MARGIN_TARGET die 0 t) F.TST_MARGIN_REPAIR die 0 (bits value 4 1)
        if !bit value 3 then put s
        else
          allowed s src F.TST_ALLOW_MARGIN 0x700008 (fun s =>
            if marginRefused s die t then setF (put s) F.TST_MARGIN_LAST die 0 CONFLICT
            else beginMargin (put s) die t (bit value 4))))

/-- MARGIN_HOLD_BEGIN (R582): the stack is drained, its partner granules are copied, it carries no traffic; a region that found no
place ends the run instead (R480). -/
def execMarginHoldBegin (die : Nat) (s : State) : Host.Outcome State Fault Refusal :=
  .next (
    match tget? s.margins die with
    | none => s
    | some m =>
      let n := marginStack die m.target
      if !isComp die ∨ m.hold ∨ tgetD s.drains n 0 ≠ 3 then s
      else if stranded s n then abandonMargin s die
      else if stackEmpty s n then
        { s with margins := tins s.margins die { m with hold := true }, stackState := tins s.stackState n 2 }
      else s)

/-! ## Limits (R580) -/

/-- Both sides of both quantities reach their limits. -/
def sidesReach (m : LaneMargins) (a b : Nat) : Bool :=
  decide (a ≤ m.low1) && decide (a ≤ m.high1) && decide (b ≤ m.low2) && decide (b ≤ m.high2)

/-- The worst margin of a lane, in steps: the least side of either quantity (DESIGN CHOICE, log entry 135). -/
def worstMargin (m : LaneMargins) : Nat := min (min m.low1 m.high1) (min m.low2 m.high2)

/-- An HBM DQ lane passes: 10 steps of timing and 8 of Vref on each side. -/
def stackLanePasses (m : LaneMargins) : Bool := sidesReach m 10 8

/-- An Eskan lane passes: 6 steps of either offset on each side, and a pre-FEC bit error ratio of at most 10⁻⁵ at zero offset. -/
def portLanePasses (m : LaneMargins) : Bool := sidesReach m 6 6 && decide (m.errors ≤ 100000)

/-! ## Repair (R583, R584) -/

/-- The location of a row in a repair record. -/
def rowLoc (pc bank row : Nat) : Nat := pc % 64 + bank % 16 * 64 + row % 2 ^ 18 * 1024

/-- What a run does with a lane of a stack, if it is weak; the second part says whether a lane stays weak (R580, R583, R584). -/
def fixLane (die n : Nat) (repair : Bool) (p : State × Bool) (chan lane : Nat) (x y : LaneMargins) : State × Bool :=
  let s := p.1
  let before := worstMargin x
  let unit := 0x40 + n
  let k := n * 64 + chan % 64
  let used := tgetD s.spares k 0
  if stackLanePasses x then p
  else if !repair ∨ !flag s F.TST_ALLOW_REPAIR f0 then (logRepair s 7 die unit 2 (lane % 64) before before, true)
  else if used ≥ 2 then (logRepair s 1 die unit 1 (lane % 64) before before, true)
  else (logRepair { s with spares := tins s.spares k (used + 1) } 1 die unit 0 (lane % 64) before (worstMargin y), p.2 || !stackLanePasses y)

/-- What a run does with a failing row of a stack (R583, R584): a bank holds one soft repair until cold reset. -/
def fixRow (die n : Nat) (repair : Bool) (s : State) (pc bank row : Nat) : State :=
  let unit := 0x40 + n
  let k := (n * 64 + pc % 64) * 16 + bank % 16
  let v := tgetD s.rows k 0
  let loc := rowLoc pc bank row
  if !repair then s
  else if !flag s F.TST_ALLOW_REPAIR f0 then logRepair s 2 die unit 2 loc 0 0
  else if v % 2 = 1 then logRepair s 2 die unit 1 loc 0 0
  else logRepair { s with rows := tins s.rows k (4 * (row % 2 ^ 18) + v % 4 + 1) } 2 die unit 0 loc 0 0

/-- The findings of a run on a stack. -/
def fixStack (s : State) (die n : Nat) (repair : Bool) (found : List Finding) : State × Bool :=
  found.foldl (fun p f =>
    match f with
    | .lane c l b a => fixLane die n repair p c l b a
    | .row pc bk r => (fixRow die n repair p.1 pc bk r, p.2)) (s, false)

/-- The weak lanes that a run on a port found (R580). -/
def weakLanes (found : List Finding) : List Nat :=
  found.filterMap (fun f =>
    match f with
    | .lane _ l m _ => if portLanePasses m then none else some l
    | .row _ _ _ => none)

/-- The findings of a run on a port: with REPAIR it runs narrow on lanes that are not weak (R411, R583). -/
def fixPort (s : State) (die p : Nat) (repair : Bool) (found : List Finding) : State × Bool :=
  let weak := weakLanes found
  let good := (List.range 8).filter (fun l => !weak.contains l)
  let can := repair && flag s F.TST_ALLOW_REPAIR f0
  let s := found.foldl (fun s f =>
    match f with
    | .lane _ l x y =>
      let b := worstMargin x
      if portLanePasses x then s
      else if can && decide (4 ≤ good.length) then logRepair s 6 die (0x80 + p) 0 (l % 64) b (worstMargin y)
      else if can then logRepair s 6 die (0x80 + p) 1 (l % 64) b b
      else logRepair s 7 die (0x80 + p) 2 (l % 64) b b
    | .row _ _ _ => s) s
  if weak.isEmpty then (s, false)
  else if can && decide (4 ≤ good.length) then
    (setF (setPort s p { getPort s p with narrowed := true }) F.FAB_PORT_LANES_MAP (portDie p) (portLoc p) (laneMap (good.take 4)), false)
  else (s, true)

/-- MARGIN_RUN_DONE (R580-R584): the worst lane and its margin, and what the run read. -/
def execMarginRunDone (die lane margin : Nat) (found : List Finding) (s : State) : Host.Outcome State Fault Refusal :=
  .next (
    match tget? s.margins die with
    | none => s
    | some m =>
      let n := marginStack die m.target
      if isComp die ∧ tgetD s.stackState n 0 = 1 then endMargin s die
      else if isComp die ∧ !m.hold then s
      else
        let (s, weak) := if isComp die then fixStack s die n m.repair found else fixPort s die (portOn die m.target) m.repair found
        let s := setF (setF s F.TST_MARGIN_LANE die 0 lane) F.TST_MARGIN_MARGIN die 0 margin
        endMargin (setF s F.TST_MARGIN_WEAK die 0 (b2n weak)) die)

end Sys2Proof.Machine
end

