-- ==== Sys2Proof/Machine/Views.lean ====
section
/-! DEFINITION. What a read of a setup register returns: the stored fields, and the registers that show other state (R12, R13, R66,
R105, R140, R206, R207, R250, R281, R313, R350, R376, R414, R416, R451, R491, R492, R508, R509, R545, R547, R572, R587, R599). -/

namespace Sys2Proof.Machine

open Sys2Proof

/-! ## Streams and tokens (R66) -/

/-- The stream that QUE_STREAM_SEL shows. -/
def shownStream (s : State) (die : Nat) : Option Stream := tget? s.streams (streamKey die (getF s F.QUE_STREAM_SEL_STREAM die))

/-- The registers 0x04_0004 to 0x04_0018 of a stream; without one they read as at reset. -/
def viewStream (s : State) (die off : Nat) : Nat :=
  match shownStream s die with
  | none => if off = 0x04000C then 0xFFFFFFFF else if off = 0x040014 then getF s F.QUE_STREAM_HEAD_HEAD die else 0
  | some x =>
    if off = 0x040004 then x.baseLine * 64 % 2 ^ 28
    else if off = 0x040008 then
      x.slots - 1 + x.slotLines * 2 ^ 8 + (x.consumers.length - 1) * 2 ^ 19 + 2 ^ 21 + x.producer * 2 ^ 24
    else if off = 0x04000C then ((x.consumers.map Prod.fst ++ [0xFF, 0xFF, 0xFF, 0xFF]).take 4).foldr (fun b v => v * 256 + b) 0
    else if off = 0x040010 then x.tail.toNat
    else if off = 0x040014 then getF s F.QUE_STREAM_HEAD_HEAD die
    else x.stallFull + x.stallEmpty * 65536

/-- A sequencer runs a program that waits on a token (R66). -/
def sequencerWaits (s : State) (die tok k : Nat) : Bool :=
  s.descs.any (fun d => qDie d.queue == die && d.seqr == k && d.toks.head? == some tok && (match d.todo with
    | .await _ :: _ => true
    | _ => false))

/-- Stations that now wait on a token, the sequencers among them (R66). -/
def tokenWaiters (s : State) (die tok : Nat) : Nat :=
  (([0, 1, 2, 3] : List Nat).filter (sequencerWaits s die tok)).length + (stations.filter (fun st =>
    match fifo s die st with
    | m :: _ =>
      match m.kind with
      | .token t _ => t == tok
      | _ => false
    | [] => false)).length

/-! ## Stations (R140, R250, R376) -/

/-- AT_STATE of an attention station: 2 while its head micro-command waits for an event or a token. -/
def viewAt (s : State) (die i : Nat) : Nat :=
  let l := fifo s die (8 + i)
  let issue := if getF s F.AT_STATE_ISSUE die i = 3 then 3 else
    match l with
    | [] => 0
    | m :: _ =>
      match m.kind with
      | .token _ _ => 2
      | .event _ => 2
      | _ => 1
  let back := match l with
    | [] => false
    | m :: _ =>
      match descOf s m.queue m.tag with
      | some d => opcode d.image == 0x31 || opcode d.image == 0x32
      | none => false
  issue + b2n back * 4 + l.length * 2 ^ 8

/-- SL_STATE.PHASE: scanning while SL has the scan of a split call before it, slicing with the slices of one or an SL_SLICE (R163). -/
def slPhase (s : State) (die : Nat) : Nat :=
  if getF s F.SL_STATE_PHASE die = 3 then 3
  else
    match fifo s die 0x1A with
    | [] => 0
    | m :: _ => if m.kind = .work 0 ∧ opcode (imageOf s m.queue m.tag) = 0x20 then 1 else 2

/-- Fabric transactions of a micro-command that are not yet acknowledged: each holds a request slot of its mover (R352). -/
def fabricSlots (m : Micro) : Nat :=
  match m.kind with
  | .copy _ _ _ _ left => left
  | .acks left => left
  | _ => 0

/-- Request slots of a mover that descriptors of the given levels use, at most 1,024 (R352, R376). -/
def moverSlots (s : State) (die i : Nat) (of : Nat → Bool) : Nat :=
  let level (m : Micro) : Nat := ((descOf s m.queue m.tag).map (·.level)).getD 0
  let far := ((fifo s die (0x28 + i)).filter (fun m => of (level m))).map fabricSlots
  let near := ((moverReqs s die (0x28 + i)).filter (fun r => of r.level)).map (fun r => r.shared + r.floor)
  sat 1024 ((far ++ near).foldl (· + ·) 0)

/-- Streams that a mover feeds or drains. -/
def shownStreams (s : State) (die i : Nat) : Nat :=
  (s.streams.filter (fun p => p.1 / 1024 == die && (p.2.producer == 0x28 + i || p.2.consumers.any (fun c => c.1 == 0x28 + i)))).length

/-! ## Tables behind a select register -/

/-- PG_SEQ_STATE to PG_SEQ_FIRST of the selected sequence record (R281). -/
def viewSeq (s : State) (die off : Nat) : Nat :=
  match getSeq s (die * 4096 + getF s F.PG_SEQ_SEL_INDEX die) with
  | none => 0
  | some x =>
    let parked := match x.current with
      | some e => e.parked.isSome
      | none => false
    if off = 0x300044 then
      x.state + b2n parked * 4 + x.cls * 2 ^ 3 + x.prio * 2 ^ 5 + x.owner * 2 ^ 8 + x.epoch % 65536 * 2 ^ 16
    else if off = 0x300048 then x.length % 2 ^ 32
    else if off = 0x30004C then x.spanBase
    else if off = 0x300050 then x.mapped
    else firstPage x

/-- RD_SH_STEP to RD_SH_REFS of the selected shard entry (R313). -/
def viewShard (s : State) (die off : Nat) : Nat :=
  let n := getF s F.RD_SH_SEL_SHARD die
  let x := getShard s die n
  if off = 0x340004 then x.step
  else if off = 0x340008 then x.epoch % 65536 + x.state * 2 ^ 16
  else sat 65535 x.refs + sat 65535 (shardWaiting s die n) * 2 ^ 16

/-- RD_COMM_SIZE to RD_COMM_SEQ of the selected communicator slot (R451). -/
def viewComm (s : State) (die off : Nat) : Nat :=
  match getComm s die (getF s F.RD_COMM_SEL_SLOT die) with
  | none => 0
  | some c =>
    if off = 0x360018 then c.members.length + 2 ^ 31
    else if off = 0x36001C then c.rank + c.owner * 2 ^ 19
    else if off = 0x360020 then c.members.length / max 1 c.size + (c.size - 1) * 2 ^ 19 + c.span * 2 ^ 23
    else c.next % 2 ^ 32

/-- RD_EPOCH of the selected function (R451). -/
def viewEpoch (s : State) (die : Nat) : Nat :=
  let f := getF s F.RD_EPOCH_SEL_FUNCTION die
  curEpoch s die f % 65536 + b2n (!(tgetD s.maps (epochKey die f) []).isEmpty) * 2 ^ 16

/-- CV_RS_SEED_LO to CV_RS_STATE of the selected random stream (R206). -/
def viewRandom (s : State) (die off : Nat) : Nat :=
  let x := tgetD s.rstreams (rsKey die (getF s F.CV_RS_SEL_STREAM die)) RStream.reset
  if off = 0x280004 then x.seed % 2 ^ 32
  else if off = 0x280008 then x.seed / 2 ^ 32 % 2 ^ 32
  else if off = 0x28000C then x.epoch % 2 ^ 32
  else b2n x.isSet

/-- CK_TT_TAG to CK_TT_LEVEL of the selected profile entry (R207). -/
def viewProfile (s : State) (die off : Nat) : Nat :=
  let p := getProf s die (getF s F.CK_TT_SEL_INDEX die)
  if off = 0x2A0004 then p.tag % 2 ^ 22 + b2n p.bound * 2 ^ 31
  else if off = 0x2A0008 then p.ctl + p.stream * 2 ^ 8 + p.check * 2 ^ 16 + p.tau * 2 ^ 24
  else p.level + p.ceil * 2 ^ 2 + p.disagree * 2 ^ 16

/-- The window that FAB_WIN_SEL shows (R416). -/
def winKey (s : State) (die : Nat) : Nat := die * 256 + getF s F.FAB_WIN_SEL_WINDOW die

/-- FAB_WIN_CFG to FAB_WIN_LEN of the selected window (R416). -/
def viewWindow (s : State) (die off : Nat) : Nat :=
  let w := tgetD s.windows (winKey s die) Window.reset
  if off = 0x440004 then b2n w.enable + w.kind * 2 + b2n w.write * 4 + w.owner * 8 + w.tag * 2 ^ 16
  else if off = 0x440008 then w.base % 2 ^ 32
  else if off = 0x44000C then w.base / 2 ^ 32
  else w.len

/-! ## Compute dies -/

/-- The registers of a compute die that show state kept elsewhere. -/
def viewComp (s : State) (die off : Nat) : Option Nat :=
  if 0x040004 ≤ off ∧ off ≤ 0x040018 then some (viewStream s die off)
  else if off = 0x040104 then some (getTok s die (getF s F.QUE_TOKEN_SEL_TOKEN die)).toNat
  else if off = 0x040108 then some (tokenWaiters s die (getF s F.QUE_TOKEN_SEL_TOKEN die))
  else if 0x200000 ≤ off ∧ off < 0x200400 ∧ off % 256 = 0 then
    let i := (off - 0x200000) / 256
    some (getF s F.MX_STATE_ISSUE die i + getF s F.MX_STATE_ACT_SET die i * 4 + getF s F.MX_STATE_SHADOW die i * 8 +
      (fifo s die i).length * 2 ^ 8)
  else if off = 0x240000 then some (slPhase s die)
  else if 0x280004 ≤ off ∧ off ≤ 0x280010 then some (viewRandom s die off)
  else if 0x2A0004 ≤ off ∧ off ≤ 0x2A000C then some (viewProfile s die off)
  else if off = 0x2C0000 then some (viewAt s die 0)
  else if off = 0x2C0100 then some (viewAt s die 1)
  else if 0x300044 ≤ off ∧ off ≤ 0x300054 then some (viewSeq s die off)
  else if 0x340004 ≤ off ∧ off ≤ 0x34000C then some (viewShard s die off)
  else if off = 0x360008 then some (viewEpoch s die)
  else if off = 0x360010 then some (accFree s die)
  else if 0x360018 ≤ off ∧ off ≤ 0x360024 then some (viewComm s die off)
  else if 0x380000 ≤ off ∧ off < 0x380400 ∧ off % 256 = 0 then
    let i := (off - 0x380000) / 256
    some (moverSlots s die i (fun _ => true) + getF s F.MV_STATE_FENCED die i * 2 ^ 11 + shownStreams s die i * 2 ^ 16)
  else if 0x380000 ≤ off ∧ off < 0x380400 ∧ off % 256 = 8 then
    let i := (off - 0x380000) / 256
    some (moverSlots s die i (· == getF s F.MV_LEVEL_SEL_LEVEL die i))
  else if 0x440004 ≤ off ∧ off ≤ 0x440010 then some (viewWindow s die off)
  else if off = 0x60000C then some (max 600 (getF s F.GV_CAP_FMAX die))
  else none

/-! ## Fabric and memory dies -/

/-- The shadow entries that the select registers of a fabric die show (R414). -/
def viewFab (s : State) (die off : Nat) : Option Nat :=
  let b := shadowBank s die
  let ovr := tgetD s.ovrTab (bankKey die b 4096 (getF s F.FAB_OVR_SEL_INDEX die)) 0
  let mc := mcEntry s die b (getF s F.FAB_MC_SEL_GROUP die)
  if 0x501204 ≤ off ∧ off ≤ 0x50120C then some (bits ovr (8 * (off - 0x501204)) 32)
  else if off = 0x501304 then some (modEntry s die b (getF s F.FAB_MOD_SEL_MODULE die))
  else if 0x501404 ≤ off ∧ off ≤ 0x50140C then some (bits mc (8 * (off - 0x501404)) 32)
  else if off = 0x700004 ∨ off = 0x70000C then some 0
  else none

/-- TM_STATE and TM_FLASH_FREE (R350); a memory die has no self-test and no margining (R586). -/
def viewMem (s : State) (die off : Nat) : Option Nat :=
  if off = 0x400000 then
    let moves := (s.moves.filter (fun m => m.copying && homeM m.record == die)).length
    let waits := ((s.homes.filter (fun p => homeM p.1 == die)).map (fun p => p.2.waiting)).foldl (· + ·) 0
    some (getF s F.TM_STATE_FAR_OK die + getF s F.TM_STATE_FLASH_OK die * 2 + getF s F.TM_STATE_FAR_DEVS die * 4 +
      sat 255 moves * 2 ^ 8 + sat 65535 waits * 2 ^ 16)
  else if off = 0x40002C then some (flashFree s die)
  else if 0x700004 ≤ off ∧ off ≤ 0x70000C then some 0
  else none

/-! ## The F0 block -/

/-- The record that a log shows at an index of its store of `n` records, of which `tail` were written (R547, R587). -/
def recordAt {α : Type} (l : List α) (tail n i : Nat) : Option α :=
  let start := (tail + 2 ^ 32 - l.length) % n
  l[(i + n - start) % n]?

/-- The 32 bytes of a repair record (R584). -/
def repairBytes (r : RepRec) : Bytes :=
  toLe 8 r.tick ++ toLe 1 r.kind ++ toLe 1 r.die ++ toLe 1 r.unit ++ toLe 1 r.result ++ toLe 4 r.loc ++ toLe 2 r.before ++
    toLe 2 r.after ++ toLe 12 0

/-- The selected word of a record; 0 where none is. -/
def wordAt (b : Option Bytes) (w : Nat) : Nat :=
  match b with
  | some l => fld l (4 * w) 4
  | none => 0

/-- Senders of a link key's tag use it in a class of its scope (R568). -/
def sendsWith (s : State) (x : KeySlot) : Bool :=
  x.kind == 0 && ([1, 2, 3] : List Nat).any (fun c => bit x.scope (c - 1) && tgetD s.keySend (x.tag * 8 + c) 0 == x.sel)

/-- SN_GEN_PARTNER to SN_SET_STATE of the selected set (R545). -/
def viewSet (s : State) (off : Nat) : Nat :=
  let n := getF s F.SN_SET_SEL_SET f0
  let x := tget? s.sets n
  let gen (g : SnSet → Option Nat) : Nat := (x.bind g).getD 0xFFFFFFFF
  if off = 0x0A0044 then gen (·.genP)
  else if off = 0x0A0048 then gen (·.genL)
  else if off = 0x0A004C then gen (·.genS)
  else if off = 0x0A0050 then gen (·.clean)
  else if off = 0x0A0054 then tgetD s.wardGen n 0xFFFFFFFF
  else
    match x with
    | none => 0
    | some x =>
      match x.run with
      | none => 1 + x.owner * 2
      | some r => 1 + x.owner * 2 + b2n (!r.captured) * 2 ^ 8 + r.layers * 2 ^ 9

/-- The registers of the F0 block that show state kept elsewhere; HST_WIN_SEL reads as the reader's own copy (R105). -/
def view04 (s : State) (src : Src) (off : Nat) : Option Nat :=
  if off = 0x000104 then some (tgetD s.winSel (srcFn src) 0)
  else if off = 0x080010 then some (s.aon / 100000000 % 2 ^ 32)
  else if off = 0x080014 then some (s.aon / 100000000 / 2 ^ 32)
  else if off = 0x090008 then some (now s % 2 ^ 32)
  else if 0x0A0044 ≤ off ∧ off ≤ 0x0A0058 then some (viewSet s off)
  else if 0x0B0020 ≤ off ∧ off ≤ 0x0B003C then
    let r := recordAt s.elog (getF s F.MGT_ELOG_TAIL_TAIL f0) 1024 (getF s F.MGT_ELOG_SEL_INDEX f0)
    some (wordAt (r.map logBytes) ((off - 0x0B0020) / 4))
  else if off = 0x0D0004 then
    some (match tget? s.keys (getF s F.SEC_KEY_SEL_SLOT f0) with
      | some x => 1 + x.kind * 2 + x.sel * 4 + b2n (sendsWith s x) * 8 + x.scope * 16 + x.tag * 2 ^ 16
      | none => 0)
  else if off = 0x0D0008 then some ((tget? s.keys (getF s F.SEC_KEY_SEL_SLOT f0)).map (·.id) |>.getD 0)
  else if 0x0E0020 ≤ off ∧ off ≤ 0x0E003C then
    let r := recordAt s.rlog (getF s F.TST_RLOG_TAIL_TAIL f0) 4096 (getF s F.TST_RLOG_SEL_INDEX f0)
    some (wordAt (r.map repairBytes) ((off - 0x0E0020) / 4))
  else none

/-! ## Any register -/

/-- The registers that show state kept elsewhere; those of a clock domain that a die lacks read 0 (R509). -/
def viewReg (s : State) (src : Src) (die off : Nat) : Option Nat :=
  if 0x640000 ≤ off ∧ off < 0x640040 ∧ !hasDomain s die ((off - 0x640000) / 16) then some 0
  else if isComp die then viewComp s die off
  else if isMem die then viewMem s die off
  else if die = 16 ∨ die = 20 then
    match view04 s src off with
    | some v => some v
    | none => viewFab s die off
  else viewFab s die off

/-- The value of a register of a die that answers (R13, R599); fields that nothing stores read 0. -/
def readReg (s : State) (src : Src) (die off : Nat) : Nat :=
  if off % 4 ≠ 0 ∨ (fieldsAt die off).isEmpty then 0
  else
    match viewReg s src die off with
    | some v => v
    | none => regWord s die off

end Sys2Proof.Machine
end

