-- ==== Sys2Proof/Machine/Registers.lean ====
section
/-! DEFINITION. A write of any setup register, the register accesses of hosts and of the management controller, and the restart of a
forced domain (R13-R15, R76, R77, R82, R97, R105, R259, R389, R402, R414, R416, R503, R558, R598-R603, R634). -/

namespace Sys2Proof.Machine

open Sys2Proof

/-- The state after a meaning that only goes on. -/
def after (o : Host.Outcome State Fault Refusal) (s : State) : State :=
  match o with
  | .next t => t
  | _ => s

/-! ## Registers whose write does more than store -/

/-- What a write that has reached its die does where physical functions and the management controller alone may write (R77). -/
def pfOnly (s : State) (src : Src) (k : State → State) : State :=
  match src with
  | .fn f => if isPF f then k s else s
  | .mgmt => k s

/-- A write to the register set of a queue (R76, R80, R82). -/
def writeQueueReg (s : State) (src : Src) (die off v : Nat) : State :=
  let q := 4096 * die + (off - 0x100000) / 32
  let reg := off % 32
  ownedWrite s src (queueOwner s q) off (some q) (fun s =>
    if reg = 0x0C then writeQCtrl s src q v
    else if reg = 0x10 ∨ reg = 0x14 then s
    else if qState s q ≠ 0 then logErr s (eventFn src (queueOwner s q)) CFG_WHILE_ENABLED off (some q)
    else plainWrite s src die off v)

/-- A write to the register set of a completion ring (R76, R97). -/
def writeRingReg (s : State) (src : Src) (die off v : Nat) : State :=
  let r := 256 * die + (off - 0x140000) / 32
  let reg := off % 32
  ownedWrite s src (ringOwner s r) off none (fun s =>
    if reg = 0x08 then writeRingCfg s src r v
    else if reg < 0x08 ∧ flag s F.QUE_CR_CFG_ENABLE die (r % 256) then
      logErr s (eventFn src (ringOwner s r)) CFG_WHILE_ENABLED off
    else plainWrite s src die off v)

/-- A write of QUE_STREAM_STALL reaches the selected stream (R66). -/
def writeStall (s : State) (die v : Nat) : State :=
  match shownStream s die with
  | some x =>
    let x := { x with stallFull := bits v 0 16, stallEmpty := bits v 16 16 }
    { s with streams := tins s.streams (streamKey die (getF s F.QUE_STREAM_SEL_STREAM die)) x }
  | none => s

/-- A write of QUE_TOK_OWN that names an owner allocates the 64 tokens of the block (R60, R106). -/
def writeTokOwn (s : State) (src : Src) (die off v : Nat) : State :=
  let t := plainWrite s src die off v
  if sealed s ∨ ownerOf (v % 256) = none then t else settle (allocToks t die ((off - 0x150100) / 4))

/-- A write of PG_KV_BASE, PG_KV_COUNT or PG_CLASS_RSV (R259): only while every sequence record of the die is FREE. -/
def writePool (s : State) (src : Src) (die off v : Nat) : State :=
  if !(dieSeqs s die).isEmpty then logErr s (srcFn src) CFG_WHILE_ENABLED off
  else if sealed s then plainWrite s src die off v
  else layPool (plainWrite s src die off v) die

/-- A write of FAB_WIN_CFG, FAB_WIN_BASE or FAB_WIN_LEN reaches the selected window; all but FAB_WIN_CFG only while ENABLE is 0
(R416). The half of the base that waits is the die's (R601). -/
def writeWindow (s : State) (src : Src) (die off v : Nat) : State :=
  let k := winKey s die
  let w := tgetD s.windows k Window.reset
  let put (w : Window) : State := { s with windows := tput s.windows k w Window.reset }
  let lo := fieldKey F.FAB_WIN_BASE_LO_BASE die 0
  if off = 0x440004 then
    put { w with enable := bit v 0, kind := bits v 1 1, write := bit v 2, owner := bits v 3 7, tag := bits v 16 16 }
  else if w.enable then logErr s (srcFn src) CFG_WHILE_ENABLED off
  else if off = 0x440008 then { s with loPend := tins s.loPend lo (bits v 21 11) }
  else if off = 0x44000C then
    put { w with base := bits v 0 20 * 2 ^ 32 + tgetD s.loPend lo (bits w.base 21 11) * 2 ^ 21 }
  else put { w with len := bits v 0 15 }

/-- A write to a register of a compute die (R60, R66, R80, R97, R140, R250, R259, R375, R416, R471, R576). -/
def writeComp (s : State) (src : Src) (die off v : Nat) : State :=
  if 0x100000 ≤ off ∧ off < 0x120000 then writeQueueReg s src die off v
  else if 0x140000 ≤ off ∧ off < 0x142000 then writeRingReg s src die off v
  else if 0x150100 ≤ off ∧ off < 0x1501C0 then pfOnly s src (fun s => writeTokOwn s src die off v)
  else if off = 0x040018 then pfOnly s src (fun s => writeStall s die v)
  else if 0x200000 ≤ off ∧ off < 0x200400 ∧ off % 256 = 4 then after (execMxCntClear src die ((off - 0x200000) / 256) v s) s
  else if 0x2C0000 ≤ off ∧ off < 0x2C0200 ∧ off % 256 = 4 then after (execAtCntClear src die ((off - 0x2C0000) / 256) v s) s
  else if 0x3C0000 ≤ off ∧ off < 0x3C0380 ∧ off % 64 = 0 then after (execQueScClear src die ((off - 0x3C0000) / 64) v s) s
  else if off = 0x300004 ∨ off = 0x300008 ∨ (0x300010 ≤ off ∧ off ≤ 0x30001C) then
    pfOnly s src (fun s => writePool s src die off v)
  else if 0x440004 ≤ off ∧ off ≤ 0x440010 then pfOnly s src (fun s => writeWindow s src die off v)
  else if off = 0x60000C then pfOnly s src (fun s => startStep (plainWrite s src die off v) die)
  else if off = 0x600010 then after (execGvManualSet src die v s) s
  else if off = 0x600018 then after (execGvFreqWrite src die v s) s
  else if off = 0x60001C then after (execGvVoltWrite src die v s) s
  else pfOnly s src (fun s => plainWrite s src die off v)

/-- A write of FAB_CLS_FLOOR (R389): one that takes the sum of the floors over 6,144 is ignored and sets ERR. -/
def writeFloor (s : State) (src : Src) (die off v : Nat) : State :=
  let c := (off - 0x501000) / 4
  let floors := (List.range 5).map (fun i => if i = c then bits v 0 13 else getF s F.FAB_CLS_FLOOR_FLOOR die i)
  if !sealed s && decide (floors.foldl (· + ·) 0 > 6144) then setF s F.FAB_ROUTE_CTRL_ERR die 0 1
  else plainWrite s src die off v

/-- A write of FAB_ROUTE_CTRL: ERR is cleared, then COPY and SWAP act (R402, R414). -/
def writeRouteCtrl (s : State) (die v : Nat) : State :=
  let s := if bit v 4 then setF s F.FAB_ROUTE_CTRL_ERR die 0 0 else s
  let s := if bit v 1 then startCopy s die else s
  if bit v 2 then swapBanks s die else s

/-- One of the three words of an override or multicast entry is written: its ports are a pair, whose _LO half waits at the die for the _HI
write (R15, R601). Until a _LO half has been written, a _HI write leaves the entry's as it is (log entry 131). -/
def writeWord (s : State) (die : Nat) (lo : Fld) (word v old : Nat) (put : State → Nat → State) : State :=
  let k := fieldKey lo die 0
  if word = 1 then { s with loPend := tins s.loPend k (v % 2 ^ 32) }
  else if word = 2 then
    put s (setBits (match tget? s.loPend k with
      | some x => setBits old 32 32 x
      | none => old) 64 32 v)
  else put s (setBits old 0 32 v)

/-- A write of a data register of the routing tables reaches the selected shadow entry; while a copy runs it is ignored and sets ERR
(R402, R414). -/
def writeTable (s : State) (die off v : Nat) : State :=
  let b := shadowBank s die
  let i := getF s F.FAB_OVR_SEL_INDEX die
  let g := getF s F.FAB_MC_SEL_GROUP die
  if flag s F.FAB_ROUTE_CTRL_BUSY die then setF s F.FAB_ROUTE_CTRL_ERR die 0 1
  else if off < 0x501300 then
    writeWord s die F.FAB_OVR_PORTS_LO_PORTS ((off - 0x501204) / 4) v (tgetD s.ovrTab (bankKey die b 4096 i) 0) (fun s x => putOvr s die i x)
  else if off < 0x501400 then putMod s die (getF s F.FAB_MOD_SEL_MODULE die) v
  else writeWord s die F.FAB_MC_PORTS_LO_PORTS ((off - 0x501404) / 4) v (mcEntry s die b g) (fun s x => putMc s die g x)

/-- A write to a register of a fabric die other than the F0 block (R389, R402, R408, R414, R457, R459). -/
def writeFabReg (s : State) (src : Src) (die off v : Nat) : State :=
  if 0x500000 ≤ off ∧ off < 0x500600 ∧ off % 256 = 0 then
    let p := portOn die ((off - 0x500000) / 256)
    if bit v 0 then after (execPortEnable src p v s) s else after (execPortDisable src p v s) s
  else if 0x501000 ≤ off ∧ off ≤ 0x501010 then pfOnly s src (fun s => writeFloor s src die off v)
  else if off = 0x501100 then pfOnly s src (fun s => writeRouteCtrl s die v)
  else if off = 0x501104 then pfOnly s src (fun s => settle (retryWaits (plainWrite s src die off v)))
  else if (0x501204 ≤ off ∧ off ≤ 0x50120C) ∨ off = 0x501304 ∨ (0x501404 ≤ off ∧ off ≤ 0x50140C) then
    pfOnly s src (fun s => writeTable s die off v)
  else if off = 0x501500 then pfOnly s src (fun s => drainWrite s die v)
  else pfOnly s src (fun s => plainWrite s src die off v)

/-- A write of HST_BAR4_CFG: a reserved size is ignored (R105). -/
def writeBar4Cfg (s : State) (src : Src) (v : Nat) : State :=
  if !sealed s && decide (bits v 0 4 ≥ 8) then s else plainWrite s src f0 0x000108 v

/-- A write to a register of the F0 block, by die 16 or 20 (R105, R402, R414, R468, R474, R492, R497, R507, R521, R548, R577, R598). -/
def write04 (s : State) (src : Src) (die off v : Nat) : State :=
  if off = 0x000100 then after (execSeal src v s) s
  else if off = 0x000104 then
    pfOnly s src (fun s => { s with winSel := tput s.winSel (srcFn src) (bits v 0 5) 0 })
  else if off = 0x000108 then pfOnly s src (fun s => writeBar4Cfg s src v)
  else if off = 0x070000 then after (execPwrReturnPermit src v s) s
  else if off = 0x070004 then after (execBudgetWrite src false v s) s
  else if off = 0x070008 then after (execBudgetWrite src true v s) s
  else if off = 0x07000C then after (execPwrUvWrite src v s) s
  else if off = 0x090000 then after (execRefSelectWrite src v s) s
  else if off = 0x090020 then after (execClkObsEnable src v s) s
  else if off = 0x0A0010 ∨ (0x0A0020 ≤ off ∧ off ≤ 0x0A003C) then
    pfOnly s src (fun s => startWatch s (plainWrite s src die off v))
  else if off = 0x0C0014 then after (execMgtResetWarm src v s) s
  else if off = 0x0E0004 then after (execAtbRoute src v s) s
  else if 0x1000000 ≤ off ∧ off < 0x1008000 then logErr s (srcFn src) SETUP_FORMAT (formatDetail die off)
  else writeFabReg s src die off v

/-- A write to the registers that every die has: clock domains and test (R505, R509, R576, R578, R581). -/
def writeAll (s : State) (src : Src) (die off v : Nat) : Option State :=
  if 0x640000 ≤ off ∧ off < 0x640040 ∧ !hasDomain s die ((off - 0x640000) / 16) then some s
  else if 0x640000 ≤ off ∧ off < 0x640040 ∧ off % 16 = 4 then some (after (execDomainSwitch src die ((off - 0x640000) / 16) v s) s)
  else if off = 0x700000 then some (after (execAtbSelect src die v s) s)
  else if off = 0x700004 then some (after (execBistStart src die v s) s)
  else if off = 0x700008 then some (after (execMarginStart src die v s) s)
  else none

/-- An aligned 32-bit write to a die block that answers. -/
def applyReg (s : State) (src : Src) (die off v : Nat) : State :=
  match writeAll s src die off v with
  | some t => t
  | none =>
    if isComp die then writeComp s src die off v
    else if die = 16 ∨ die = 20 then write04 s src die off v
    else if isFab die then writeFabReg s src die off v
    else pfOnly s src (fun s => plainWrite s src die off v)

/-- An aligned 32-bit write to a die block (R13-R15, R76, R603, R634). -/
def writeReg (s : State) (src : Src) (die off v : Nat) : State := gate s src die off v (fun s => applyReg s src die off v)

/-! ## Accesses of functions (R75, R77, R598, R599) -/

/-- The place in the setup space of an offset in the BAR0 of a function: die and offset in its block (R75, R77). -/
def barPlace (s : State) (fn off : Nat) : Option (Nat × Nat) :=
  if isPF fn then
    if off < 0x2000000 then some (tgetD s.winSel fn 0, off)
    else if off < 0x4000000 then some (die04 s, off - 0x2000000)
    else none
  else if off < 0x20000 then (fnQueue s fn (off / 32)).map (fun q => (qDie q, queueOff q + off % 32))
  else if off < 0x22000 then (fnRing s fn ((off - 0x20000) / 32)).map (fun r => (r / 256, ringOff r + off % 32))
  else if off < 0x22800 then (fnRing s fn ((off - 0x22000) / 8)).map (fun r => (die04 s, 0x1000000 + 8 * r + off % 8))
  else if 0x30000 ≤ off ∧ off < 0x30010 then some (die04 s, 0x011000 + 16 * fn + off % 16)
  else none

/-- The global ring of a head doorbell at a place of the setup space (R99, R105). -/
def crdbRing (die off : Nat) : Option Nat :=
  if (die = 16 ∨ die = 20) ∧ 0x1000000 ≤ off ∧ off < 0x1008000 then some ((off - 0x1000000) / 8) else none

/-- A die block holds a register at an offset (R599): domain 3 is an M die's (R493), and the sets of the completion rings end in a
reserved register (R97). -/
def holdsReg (die off : Nat) : Bool :=
  (crdbRing die off).isSome ||
    (!(fieldsAt die (off / 4 * 4)).isEmpty && (isMem die || !(decide (0x640030 ≤ off) && decide (off < 0x640040)))) ||
    (isComp die && decide (0x140000 ≤ off) && decide (off < 0x142000))

/-- A write of the wrong size or alignment (R598); a fenced die logs the access as fenced, one in Charcoal ignores it. -/
def badWrite (s : State) (fn die off : Nat) : State :=
  if s.supply.phase ≥ 3 then s
  else if dieFenced s die then logErr s fn WINDOW_FENCED die
  else if inCharcoal s die ∨ !holdsReg die off then s
  else logErr s fn SETUP_FORMAT (formatDetail die off)

/-- A write of `size` bytes to the BAR0 of a function (R75-R77, R598). A virtual function reaches its error ring under its own name. -/
def barWrite (s : State) (fn off size v : Nat) : State :=
  match barPlace s fn off with
  | none => s
  | some (die, o) =>
    match crdbRing die o with
    | some r =>
      if size = 8 ∧ off % 8 = 0 then gate s (.fn fn) die o v (fun s => after (execCrHeadDoorbell (.fn fn) r 8 v s) s)
      else badWrite s fn die o
    | none =>
      let put (s : State) (die o v : Nat) : State :=
        if !isPF fn && decide (0x30000 ≤ off) then gate s (.fn fn) die o v (fun s => plainWrite s (.fn fn) die o v)
        else writeReg s (.fn fn) die o v
      if off % size ≠ 0 ∨ ¬ (size = 4 ∨ size = 8) then badWrite s fn die o
      else
        let t := put s die o (v % 2 ^ 32)
        if size = 4 then t
        else
          match barPlace t fn (off + 4) with
          | some (die, o) => put t die o (v / 2 ^ 32 % 2 ^ 32)
          | none => t

/-- REGISTER_WRITE (R13, R598). -/
def execRegisterWrite (fn off size value : Nat) (s : State) : Host.Outcome State Fault Refusal :=
  .next (barWrite s fn off size value)

/-! ## SetupWrite and SetupRead (R558, R603) -/

/-- SETUP_WRITE (R14, R558, R560, R598): +0 offset from 0x0900_0000_0000, +4 value. After the seal it is accepted in a session only,
and a change of a sealed field completes with its own code; the other fields of the register take the write. -/
def execSetupWrite (data : Bytes) (bare : Bool) (s : State) : Host.Outcome State Fault Refusal :=
  .next (oem s data 8 (fun s =>
    let a := fld data 0 4
    let v := fld data 4 4
    let die := a / 2 ^ 25
    let off := a % 2 ^ 25
    if barred s bare then reply s OEM_NOT_IN_SESSION
    else if die ≥ 32 then reply s PLDM_SUCCESS
    else if off % 4 ≠ 0 then
      reply (if dieFenced s die then s else logErr s 0 SETUP_FORMAT (formatDetail die off)) PLDM_INVALID_DATA
    else
      let blocked := !dieFenced s die && !inCharcoal s die && changesSealed s die off v
      reply (writeReg s .mgmt die off v) (if blocked then OEM_SEALED else PLDM_SUCCESS)))

/-- The value that a read of a register returns, and what it latches (R66, R508, R600, R603, R634). The measured offset of a source that
is not the local oscillator is free (log entry 6). -/
def readBlock (s : State) (src : Src) (die off : Nat) : Nat × State :=
  if dieFenced s die then (0xFFFFFFFF, s)
  else if inCharcoal s die && !(decide (0x600000 ≤ off) && decide (off < 0x600038)) then (0, s)
  else if coreForced s die then (0xFFFFFFFF, s)
  else
    let v := readReg s src die off
    if isComp die ∧ off = 0x040010 then
      let h := match shownStream s die with
        | some x => (slowest x).toNat
        | none => 0
      (v, setF s F.QUE_STREAM_HEAD_HEAD die 0 h)
    else if (die = 16 ∨ die = 20) ∧ off = 0x090008 then (v, setF s F.CLK_TICK_HI_TICK f0 0 (now s / 2 ^ 32))
    else if (die = 16 ∨ die = 20) ∧ off = 0x090004 ∧ (refSrc s = 1 ∨ refSrc s = 2) then
      let (k, s) := freshFree s
      (setBits v 16 16 (Config.freeWord k).toNat, s)
    else (v, s)

/-- A read through SetupRead. -/
def setupRead (s : State) (die off : Nat) : Nat × State := readBlock s .mgmt die off

/-- A read of 32 bits of the BAR0 of a function: its own resources for a VF and zero elsewhere, any register of the named die for a PF; a
head doorbell reads 0; a fenced die is logged, and the access wakes a die (R75-R77, R488, R598). -/
def barWord (s : State) (fn off : Nat) : Nat × State :=
  match barPlace s fn off with
  | none => (0, s)
  | some (die, o) =>
    if (crdbRing die o).isSome then (0, s)
    else if dieFenced s die then (0xFFFFFFFF, logErr s fn WINDOW_FENCED die)
    else
      let x := readBlock s (.fn fn) die o
      (x.1, wakeByAccess x.2 (.fn fn) die)

/-- A read of the BAR0 of a function and what it leaves (R76, R77, R598): the table has no command for it, since but for the latches that
STREAM_TAIL_READ and TICK_LO_READ show, the record of a fenced die and the wake of a sleeping one, it changes nothing. A read of another
size or alignment has no answer in the spec: none. -/
def barRead (s : State) (fn off size : Nat) : Option (Nat × State) :=
  if s.supply.phase ≥ 3 then none
  else if size = 8 ∧ off % 8 = 0 then
    let a := barWord s fn off
    let b := barWord a.2 fn (off + 4)
    some (a.1 + b.1 * 2 ^ 32, b.2)
  else if size ≠ 0 ∧ off % 4 + size ≤ 4 then
    let a := barWord s fn (off / 4 * 4)
    some (bits a.1 (8 * (off % 4)) (8 * size), a.2)
  else none

/-- A read of a doorbell slot of BAR2: the last accepted tail of its queue (R87); 0 where the function has no queue there. -/
def bellRead (s : State) (fn off : Nat) : Nat :=
  match doorbellQueue s fn (off / 8 * 8) with
  | some q => qTail s q
  | none => 0

/-- SETUP_READ (R558): +0 offset; answers the value. -/
def execSetupRead (data : Bytes) (s : State) : Host.Outcome State Fault Refusal :=
  .next (oem s data 4 (fun s =>
    let a := fld data 0 4
    if a % 4 ≠ 0 then reply s PLDM_INVALID_DATA
    else
      let (v, s) := if a / 2 ^ 25 < 32 then setupRead s (a / 2 ^ 25) (a % 2 ^ 25) else (0, s)
      emit s (.mgmt PLDM_SUCCESS (toLe 4 v))))

/-! ## A forced domain runs again (R503, R504, R603) -/

/-- Apply the writes that a die held, in their order (R603). -/
def replayWrites (s : State) (die : Nat) : State :=
  let mine := s.heldWrites.filter (fun w => w.die == die)
  let s := { s with heldWrites := s.heldWrites.filter (fun w => !(w.die == die)) }
  mine.foldl (fun s w => match crdbRing w.die w.off with
    | some r => after (execCrHeadDoorbell w.src r 8 w.value s) s
    | none => writeReg s w.src w.die w.off w.value) s

/-- DOMAIN_RESUME (R500, R503): a forced domain restarts on a PLL that has locked, at D = 2. A core domain whose stop was not clean is
not resumed: its die is fenced. The TICK domain counts again from where it stopped, and its tick has still to be aligned. -/
def execDomainResume (die dom pll : Nat) (s : State) : Host.Outcome State Fault Refusal :=
  .next (
    if !hasDomain s die dom ∨ dieFenced s die then s
    else if dom = 4 then { s with tickStop := false }
    else if domState s die dom ≠ 2 ∨ pll > 1 then s
    else
      let s := setF s (lockFld pll) die dom 1
      if dom = 0 ∧ flag s F.CLK_DOM_STATE_RUNT die 0 then fenceDie s die 5
      else
        let s := setF (setF s F.CLK_DOM_STATE_SRC die dom pll) F.CLK_DOM_STATE_STATE die dom 0
        let s := setF s F.CLK_DOM_STATE_DIV die dom 16
        let k := domKey die dom
        let s := { s with swaps := tins s.swaps k 5, stopped := tdel s.stopped k }
        if dom = 0 then settle (replayWrites s die) else s)

end Sys2Proof.Machine
end

