-- ==== Sys2Proof/Machine/Tiles.lean ====
section
/-! DEFINITION. Tokens, streams and the pool arbiter as commands (R44, R46-R48, R55-R66, R626). -/

namespace Sys2Proof.Machine

open Sys2Proof

/-- A signal to a fenced die is discarded, and the descriptor that sent it completes with FENCED (R65). -/
def failSignal (s : State) (desc : Option (Nat × Nat)) : State :=
  match desc.bind (fun x => descOf s x.1 x.2) with
  | none => s
  | some d =>
    if d.seqr ≥ 5 then s
    else
      maybeComplete (updDesc s d.queue d.tag (fun d =>
        { dropTodo d with issued := d.issued + 1, retired := d.retired ++ [⟨d.issued, FENCED, seqStation d, []⟩] })) d.queue d.tag

/-- TOKEN_SIGNAL (R61, R62, R65): a station signals a token of a die, for a descriptor if one is named. -/
def execTokenSignal (die tok : Nat) (sent : Signal) (s : State) : Host.Outcome State Fault Refusal :=
  .next (if 1 ≤ sent.inc ∧ sent.inc ≤ 65535 ∧ tok < 4096 ∧ isComp die then
      if dieFenced s die then settle (failSignal s sent.desc) else signalTok s die tok sent.inc
    else s)

/-- The formats of R48. -/
def tileFormats : List Nat := [0x01, 0x02, 0x03, 0x04, 0x05, 0x06, 0x07, 0x08, 0x09, 0x0A, 0x0B, 0x0C, 0x10, 0x11, 0x12, 0x20]

/-- A tile as a producer may write it (R46-R48): format and block size, rows, columns, row pitch, the scales behind the rows, and the
size of the payload. -/
def tileOk (tile : Bytes) : Bool :=
  let fmt := fld tile 0 1
  let blk := bits (fld tile 1 1) 0 3
  let rows := fld tile 2 2
  let cols := fld tile 4 2
  let pitch := fld tile 6 2
  let scales := if isBlock fmt then ceilDiv (rows * ceilDiv cols (blockSize blk)) 64 * 64 else 0
  tileFormats.contains fmt && (if isBlock fmt then decide (1 ≤ blk ∧ blk ≤ 4) else blk == 0) &&
    decide (1 ≤ rows ∧ rows ≤ 1024) && decide (1 ≤ cols ∧ cols ≤ 512) &&
    pitch % 64 == 0 && decide (64 ≤ pitch ∧ pitch ≤ 4096) && decide (packedBytes fmt cols ≤ pitch) &&
    (if isBlock fmt then fld tile 8 2 % 64 == 0 && decide (rows * pitch ≤ fld tile 8 2) else fld tile 8 2 == 0) &&
    decide (max (rows * pitch) (fld tile 8 2) + scales ≤ tile.length - 64) && decide (tile.length ≤ 64 + 65536)

/-- The tile as its producer writes it (R10, R47): the fields that the commit fixes, reserved bits and bytes 0, no cause without poison. -/
def sealTile (s : State) (die n : Nat) (st : Stream) (tile : Bytes) : Bytes :=
  let flags := bits (fld tile 0x12 1) 0 4
  tile.take 1 ++ toLe 1 (bits (fld tile 1 1) 0 3) ++ (tile.drop 2).take 0x10 ++ toLe 1 flags ++
    toLe 1 (if bit flags 1 then fld tile 0x13 1 else 0) ++ toLe 1 st.producer ++ toLe 1 die ++ toLe 2 n ++
    toLe 8 (fld tile 0x18 8 % 2 ^ 52) ++ (tile.drop 0x20).take 8 ++ toLe 4 (tile.length - 64) ++ toLe 4 (now s) ++ toLe 16 0 ++
    tile.drop 0x40

/-- STREAM_COMMIT (R55, R56): the producer's tile is published at the tail, unless the stream is full. -/
def execStreamCommit (die stream : Nat) (tile : Bytes) (s : State) : Host.Outcome State Fault Refusal :=
  .next (match tget? s.streams (streamKey die stream) with
    | none => s
    | some st =>
      if streamFill st ≥ st.slots ∨ !tileOk tile ∨ tile.length > 64 * st.slotLines ∨ stFenced s die st.producer then s
      else commitTile s die stream (sealTile s die stream st tile))

/-- STREAM_RELEASE (R55): a consumer releases the slot at its head; a mover that waited for a free slot goes on (R57). -/
def execStreamRelease (die stream st : Nat) (s : State) : Host.Outcome State Fault Refusal :=
  .next (pump (releaseSlot s die stream st))

/-! ## Bank arbitration (R44) -/

/-- Rank of a port of the pool, its ports numbered in the table's order. -/
def portRank (p : Nat) : Nat := if p < 8 then 1 else if p < 12 then 2 else if p < 16 then 3 else if p < 20 then 4 else if p < 26 then 5 else 6

/-- Key of the turn of a rank at a bank. -/
def bankKeyOf (die bank rank : Nat) : Nat := (die * 256 + bank) * 8 + rank

/-- The request that has waited longest, the first of equals (log entry 125). -/
def eldest : List (Nat × Nat) → Option (Nat × Nat)
  | [] => none
  | x :: r =>
    match eldest r with
    | some y => some (if y.2 > x.2 then y else x)
    | none => some x

/-- The port next behind the last one granted, in a circle. -/
def nextPort (last : Nat) (ps : List Nat) : Option Nat :=
  match (ps.filter (fun p => decide (last ≤ p))).foldl (fun a p => some (min (a.getD p) p)) none with
  | some p => some p
  | none => ps.foldl (fun a p => some (min (a.getD p) p)) none

/-- The port that a bank grants among its requests, each a port and the cycles that it has waited: the oldest that has waited 64 cycles or
more; else the next of the first rank that asks (R44). -/
def bankGrant (s : State) (die bank : Nat) (reqs : List (Nat × Nat)) : Option Nat :=
  match eldest (reqs.filter (fun x => decide (x.2 ≥ 64))) with
  | some x => some x.1
  | none =>
    ([1, 2, 3, 4, 5, 6] : List Nat).findSome? (fun r =>
      nextPort (tgetD s.bankTurn (bankKeyOf die bank r) 0) ((reqs.map (·.1)).filter (fun p => portRank p == r)))

/-- POOL_REQUEST_AGED (R44): a bank grants one of the requests at its ports; a grant by age is counted. -/
def execPoolRequestAged (die bank : Nat) (first : Nat × Nat) (others : List (Nat × Nat)) (s : State) : Host.Outcome State Fault Refusal :=
  .next (match bankGrant s die bank (first :: others) with
    | none => s
    | some p =>
      let s := { s with bankTurn := tput s.bankTurn (bankKeyOf die bank (portRank p)) (p + 1) 0 }
      if (first :: others).any (fun x => decide (x.2 ≥ 64)) then addF s F.QUE_POOL_AGED_AGED die 0 1 else s)

end Sys2Proof.Machine
end

