-- ==== Sys2Proof/Machine/Train.lean ====
section
/-! DEFINITION. The stage-schedule commands: ST_RUN, ST_STOP and the release of an entry (R284-R299). -/

namespace Sys2Proof.Machine

open Sys2Proof

/-- The lanes an ST_RUN names. -/
def runLanes (img : Bytes) : List Nat := (List.range 4).map (fun l => fld img (0x20 + 2 * l) 2)

/-- A lane breaks R283. -/
def badLane (s : State) (d : Desc) (n : Nat) : Bool :=
  let q := 4096 * qDie d.queue + n
  n != 0xFFFF && (qState s q != 1 || !qEnabled s q || queueOwner s q != some d.fn || isLane s q)

/-- One queue is named by two lanes. -/
def twice (ls : List Nat) : Bool :=
  (ls.zipIdx).any (fun a => a.1 != 0xFFFF && (ls.zipIdx).any (fun b => a.1 == b.1 && decide (a.2 < b.2)))

/-- A stage of the header (R286). -/
def stageAt (h : Bytes) (i : Nat) : Stage :=
  let o := 0x40 + 32 * i
  ⟨fld h o 8 % 2 ^ 52, fld h (o + 8) 4, fld h (o + 0x0C) 2, fld h (o + 0x0E) 1,
    (List.range 16).map (fun l => fld h (o + 0x10 + l) 1)⟩

/-- A stage breaks R286. -/
def badStage (g : Stage) : Bool :=
  g.layers == 0 || decide (g.layers > 16) || g.slots == 0 || decide (g.slots > 1024) || g.base % region != 0 ||
    g.bytes % region != 0 || (g.actions.take g.layers).any (fun a => decide (a > 3))

/-- Body and header checks of ST_RUN (R298). -/
def runChecks (s : State) (d : Desc) (h : Bytes) : List (Nat × Bool) :=
  let img := d.image
  let first := fld img 0x18 4
  let count := fld img 0x1C 4
  let ls := runLanes img
  let slot := bits (fld img 0x34 1) 0 2
  let entries := fld h 0 4
  let v := fld h 4 1
  let stages := (List.range v).map (stageAt h)
  [(1, addrOf (fld img 0x10 8) % 4096 != 0 || addrOf (fld img 0x28 8) % 64 != 0 ||
     ls.any (fun n => n != 0xFFFF && decide (n > 4095))),
   (2, (tget? s.scheds (schedKey (qDie d.queue) slot)).isSome),
   (3, ls.headD 0xFFFF == 0xFFFF || ls.any (badLane s d) || twice ls),
   (4, entries == 0 || decide (entries > 2 ^ 20) || v == 0 || decide (v > 8) || count == 0 ||
     decide (first + count > entries) || decide (fld h 6 2 > 4095) || stages.any badStage),
   (6, decide (fld img 0x10 8 ≥ 2 ^ 52) || decide (fld img 0x28 8 ≥ 2 ^ 52) || bits (fld img 0x34 1) 2 6 != 0 ||
     bits (fld img 0x35 1) 1 7 != 0 || !zeroAt img 0x36 10 || bits (fld h 5 1) 1 7 != 0 || !zeroAt h 8 56 ||
     (List.range v).any (fun i => !zeroAt h (0x4F + 32 * i) 1 || decide (fld h (0x40 + 32 * i) 8 ≥ 2 ^ 52) ||
       ((stageAt h i).actions.drop (stageAt h i).layers).any (fun a => a != 0)))]

/-- Start a checked schedule (R282-R286, R297). -/
def startRun (s : State) (d : Desc) (h : Bytes) : State :=
  let img := d.image
  let die := qDie d.queue
  let slot := bits (fld img 0x34 1) 0 2
  let replay := bit (fld img 0x35 1) 0
  let first := fld img 0x18 4
  let c : Schedule :=
    { queue := d.queue, tag := d.tag, fn := d.fn, table := addrOf (fld img 0x10 8), first := first,
      count := fld img 0x1C 4, lanes := runLanes img, log := addrOf (fld img 0x28 8), drop := bit (fld h 5 1) 0,
      lead := fld h 6 2, stages := (List.range (fld h 4 1)).map (stageAt h), step := fld img 0x30 4, replay := replay,
      ahead := 1, plan := [], pos := [first, first, first, first], items := [none, none, none, none], stash := [], stepItems := 0,
      stepDropped := 0, stepRerun := 0, stepLate := 0, drops := [], lastDone := first, waited := [], stopping := 0,
      ending := none, eflags := 0 }
  let plan := if replay then planOf s d.fn c.log c.step else some []
  match plan with
  | none => rejectOp s d CONFLICT 7
  | some p =>
    let s := updDesc s d.queue d.tag (fun d => { d with started := true })
    let k := schedKey die slot
    setF (setSched s k { c with plan := p }) F.QUE_ST_NEXT_NEXT die slot first

/-- ST_RUN (R285, R286, R298). -/
def execStRun (q tag : Nat) (s : State) : Host.Outcome State Fault Refusal :=
  .next (match opDesc s q tag (fun i => opcode i == 0xA0) with
    | none => s
    | some d =>
      let (h, cause) := jobRead s d.fn (addrOf (fld d.image 0x10 8)) 0x140
      match firstFail ((runChecks s d h).take 3) with
      | some r => settle (rejectOp s d CONFLICT r)
      | none =>
        if cause ≠ 0 then settle (endOp s d (causeStatus cause) (seqStation d) [])
        else
          match firstFail (runChecks s d h) with
          | some r => settle (rejectOp s d CONFLICT r)
          | none => settle (startRun s d h))

/-- Body checks of ST_STOP (R294, R298). -/
def stopChecks (s : State) (d : Desc) : List (Nat × Bool) :=
  let img := d.image
  [(1, decide (fld img 0x11 1 > 1)),
   (2, (tget? s.scheds (schedKey (qDie d.queue) (bits (fld img 0x10 1) 0 2))).isNone),
   (6, bits (fld img 0x10 1) 2 6 != 0 || !zeroAt img 0x12 46)]

/-- ST_STOP with a mode: what it does to the schedule. -/
def runStop (mode : Nat) (eff : Schedule → Schedule) (q tag : Nat) (s : State) : State :=
  match opDesc s q tag (fun i => opcode i == 0xA1 && (if mode = 0 then fld i 0x11 1 != 1 else fld i 0x11 1 == 1)) with
  | none => s
  | some d =>
    match firstFail (stopChecks s d) with
    | some r => settle (rejectOp s d CONFLICT r)
    | none =>
      let k := schedKey (qDie q) (bits (fld d.image 0x10 1) 0 2)
      let s := match tget? s.scheds k with
        | some c => setSched s k (eff c)
        | none => s
      settle (endOp s d DONE (seqStation d) [])

/-- ST_STOP mode 0: stop at the next END (R294); reserved modes are refused. -/
def execStStopAtEnd (q tag : Nat) (s : State) : Host.Outcome State Fault Refusal :=
  .next (runStop 0 (fun c => if c.stopping = 0 then { c with stopping := 2 } else c) q tag s)

/-- ST_STOP mode 1: stop now (R294). -/
def execStStopNow (q tag : Nat) (s : State) : Host.Outcome State Fault Refusal :=
  .next (runStop 1 (fun c => stopSched c DONE 0 none) q tag s)

/-- ENTRY_RELEASE: the lowest lane that offers a releasable entry releases it; an entry that fails its read or its
checks stops the schedule (R289, R292, R298). -/
def execEntryRelease (die slot : Nat) (s : State) : Host.Outcome State Fault Refusal :=
  .next (
    let k := schedKey die (slot % 4)
    let s := noteSlotWaits s k
    match tget? s.scheds k with
    | none => s
    | some c =>
      if c.stopping = 3 ∨ !dieServes s die then s
      else
        match pickLane s k c with
        | none => s
        | some (l, i, e, cause, bad) =>
          if cause ≠ 0 then settle (setSched s k (stopSched c (causeStatus cause) 0 (some i)))
          else
            match bad with
            | some r => settle (setSched s k (stopSched c CONFLICT r (some i)))
            | none => settle (releaseEntry s k l c i e))

end Sys2Proof.Machine
end

