-- ==== Sys2Proof/Machine/Dispatch.lean ====
section
/-! DEFINITION. The effect of a command: one arm for each constructor, each one call of its meaning. -/

namespace Sys2Proof.Machine

open Sys2Proof

/-- The effect of a command on everything but the queue of commands. -/
def exec (i : Instr) (s : State) : Host.Outcome State Fault Refusal :=
  match i with
  | .queueEnable src q mask => Sys2Proof.Machine.execQueueEnable src q mask s
  | .queueDisable src q mask => Sys2Proof.Machine.execQueueDisable src q mask s
  | .queueDrained q => Sys2Proof.Machine.execQueueDrained q s
  | .queueAbort src q => Sys2Proof.Machine.execQueueAbort src q s
  | .queueAbortDone q => Sys2Proof.Machine.execQueueAbortDone q s
  | .queueClrErr src q => Sys2Proof.Machine.execQueueClrErr src q s
  | .crEnable src r cfg => Sys2Proof.Machine.execCrEnable src r cfg s
  | .crDisable src r cfg => Sys2Proof.Machine.execCrDisable src r cfg s
  | .doorbell fn off size value => Sys2Proof.Machine.execDoorbell fn off size value s
  | .descriptorFetch q data => Sys2Proof.Machine.execDescriptorFetch q data s
  | .admission die => Sys2Proof.Machine.execAdmission die s
  | .dispatch die => Sys2Proof.Machine.execDispatch die s
  | .resourceWaitEnd q tag => Sys2Proof.Machine.execResourceWaitEnd q tag s
  | .stationFifoRoom die st => Sys2Proof.Machine.execStationFifoRoom die st s
  | .nop q tag => Sys2Proof.Machine.execNop q tag s
  | .microCommandRetire die st => Sys2Proof.Machine.execMicroCommandRetire die st s
  | .postHeldCompletion r => Sys2Proof.Machine.execPostHeldCompletion r s
  | .crModTimer r => Sys2Proof.Machine.execCrModTimer r s
  | .crHeadDoorbell src r size value => Sys2Proof.Machine.execCrHeadDoorbell src r size value s
  | .bar4Read fn off len => Sys2Proof.Machine.execBar4Read fn off len s
  | .bar4Write fn off data => Sys2Proof.Machine.execBar4Write fn off data s
  | .seal src value => Sys2Proof.Machine.execSeal src value s
  | .registerWrite fn off size value => Sys2Proof.Machine.execRegisterWrite fn off size value s
  | .streamTailRead src die => Sys2Proof.Machine.execStreamTailRead src die s
  | .tickLoRead src => Sys2Proof.Machine.execTickLoRead src s
  | .hostLinkDown port => Sys2Proof.Machine.execHostLinkDown port s
  | .hostLinkUp port => Sys2Proof.Machine.execHostLinkUp port s
  | .hostPortReset port => Sys2Proof.Machine.execHostPortReset port s
  | .tokenSignal die tok sent => Sys2Proof.Machine.execTokenSignal die tok sent s
  | .streamCommit die stream tile => Sys2Proof.Machine.execStreamCommit die stream tile s
  | .streamRelease die stream st => Sys2Proof.Machine.execStreamRelease die stream st s
  | .poolRequestAged die bank first others => Sys2Proof.Machine.execPoolRequestAged die bank first others s
  | .mxFwd q tag => Sys2Proof.Machine.execMxFwd q tag s
  | .mxDgrad q tag => Sys2Proof.Machine.execMxDgrad q tag s
  | .mxWgrad q tag => Sys2Proof.Machine.execMxWgrad q tag s
  | .mxLoad die st => Sys2Proof.Machine.execMxLoad die st s
  | .shadowReady die st => Sys2Proof.Machine.execShadowReady die st s
  | .mxStream die st parity => Sys2Proof.Machine.execMxStream die st parity s
  | .mxCntClear src die st value => Sys2Proof.Machine.execMxCntClear src die st value s
  | .slGemm q tag => Sys2Proof.Machine.execSlGemm q tag s
  | .slSlice q tag => Sys2Proof.Machine.execSlSlice q tag s
  | .vxEw q tag => Sys2Proof.Machine.execVxEw q tag s
  | .cvConvert q tag => Sys2Proof.Machine.execCvConvert q tag s
  | .cvRandomSet q tag => Sys2Proof.Machine.execCvRandomSet q tag s
  | .cvRandomAdvance q tag => Sys2Proof.Machine.execCvRandomAdvance q tag s
  | .cvRandomMask q tag => Sys2Proof.Machine.execCvRandomMask q tag s
  | .cvRandomWords q tag => Sys2Proof.Machine.execCvRandomWords q tag s
  | .ckPolicyBind q tag => Sys2Proof.Machine.execCkPolicyBind q tag s
  | .ckPolicyReset q tag => Sys2Proof.Machine.execCkPolicyReset q tag s
  | .ckPolicyUnbind q tag => Sys2Proof.Machine.execCkPolicyUnbind q tag s
  | .ckPolicyRead q tag => Sys2Proof.Machine.execCkPolicyRead q tag s
  | .ckSampleDone die corrupt => Sys2Proof.Machine.execCkSampleDone die corrupt s
  | .atFwd q call => Sys2Proof.Machine.execAtFwd q call s
  | .atBwd q call => Sys2Proof.Machine.execAtBwd q call s
  | .atBprep q tag => Sys2Proof.Machine.execAtBprep q tag s
  | .atMerge q tag => Sys2Proof.Machine.execAtMerge q tag s
  | .ringWaitTimeout die st => Sys2Proof.Machine.execRingWaitTimeout die st s
  | .atCntClear src die st value => Sys2Proof.Machine.execAtCntClear src die st value s
  | .pgOpen q tag => Sys2Proof.Machine.execPgOpen q tag s
  | .pgAppend q tag => Sys2Proof.Machine.execPgAppend q tag s
  | .pgTrim q tag => Sys2Proof.Machine.execPgTrim q tag s
  | .pgClose q tag => Sys2Proof.Machine.execPgClose q tag s
  | .pgResume q tag => Sys2Proof.Machine.execPgResume q tag s
  | .pgPin q tag => Sys2Proof.Machine.execPgPin q tag s
  | .pgMove q tag => Sys2Proof.Machine.execPgMove q tag s
  | .pgQuery q tag => Sys2Proof.Machine.execPgQuery q tag s
  | .pgRebuildCompact q tag => Sys2Proof.Machine.execPgRebuildCompact q tag s
  | .pgRebuildRehome q tag => Sys2Proof.Machine.execPgRebuildRehome q tag s
  | .rebuildSwap die => Sys2Proof.Machine.execRebuildSwap die s
  | .walkBegin die seq owner first last => Sys2Proof.Machine.execWalkBegin die seq owner first last s
  | .walkEnd die slot => Sys2Proof.Machine.execWalkEnd die slot s
  | .remapCopyDone die entry ok => Sys2Proof.Machine.execRemapCopyDone die entry ok s
  | .pgDemotionDone die entry ok => Sys2Proof.Machine.execPgDemotionDone die entry ok s
  | .appendParkTimeout die seq => Sys2Proof.Machine.execAppendParkTimeout die seq s
  | .pgAgeSweep die => Sys2Proof.Machine.execPgAgeSweep die s
  | .stRun q tag => Sys2Proof.Machine.execStRun q tag s
  | .stStopAtEnd q tag => Sys2Proof.Machine.execStStopAtEnd q tag s
  | .stStopNow q tag => Sys2Proof.Machine.execStStopNow q tag s
  | .entryRelease die slot => Sys2Proof.Machine.execEntryRelease die slot s
  | .shCtlDefine q tag => Sys2Proof.Machine.execShCtlDefine q tag s
  | .shCtlBeginUpdate q tag => Sys2Proof.Machine.execShCtlBeginUpdate q tag s
  | .shCtlCommit q tag => Sys2Proof.Machine.execShCtlCommit q tag s
  | .shCtlQuery q tag => Sys2Proof.Machine.execShCtlQuery q tag s
  | .shCtlFree q tag => Sys2Proof.Machine.execShCtlFree q tag s
  | .tmMap q tag => Sys2Proof.Machine.execTmMap q tag s
  | .tmUnmap q tag => Sys2Proof.Machine.execTmUnmap q tag s
  | .tmMove q tag => Sys2Proof.Machine.execTmMove q tag s
  | .tmPinSet q tag => Sys2Proof.Machine.execTmPinSet q tag s
  | .tmPinClear q tag => Sys2Proof.Machine.execTmPinClear q tag s
  | .tmQuery q tag => Sys2Proof.Machine.execTmQuery q tag s
  | .tmObjPut q tag => Sys2Proof.Machine.execTmObjPut q tag s
  | .tmObjGet q tag => Sys2Proof.Machine.execTmObjGet q tag s
  | .tmObjDelete q tag => Sys2Proof.Machine.execTmObjDelete q tag s
  | .tmObjStat q tag => Sys2Proof.Machine.execTmObjStat q tag s
  | .moveCopyDone rec chunks result => Sys2Proof.Machine.execMoveCopyDone rec chunks result s
  | .moveSourceRelease rec => Sys2Proof.Machine.execMoveSourceRelease rec s
  | .policyDemote mdie => Sys2Proof.Machine.execPolicyDemote mdie s
  | .tierAccessTimeout die mover => Sys2Proof.Machine.execTierAccessTimeout die mover s
  | .farDeviceFail mdie dev => Sys2Proof.Machine.execFarDeviceFail mdie dev s
  | .mvCopy q tag => Sys2Proof.Machine.execMvCopy q tag s
  | .mvFill q tag => Sys2Proof.Machine.execMvFill q tag s
  | .mvIndexed q tag => Sys2Proof.Machine.execMvIndexed q tag s
  | .moverReadDone die mover demand badEcc => Sys2Proof.Machine.execMoverReadDone die mover demand badEcc s
  | .moverWriteAck die mover => Sys2Proof.Machine.execMoverWriteAck die mover s
  | .slotCommit die stream => Sys2Proof.Machine.execSlotCommit die stream s
  | .slotAgeExpiry die stream => Sys2Proof.Machine.execSlotAgeExpiry die stream s
  | .queScClear src die st value => Sys2Proof.Machine.execQueScClear src die st value s
  | .flitReceive port flit fecOk corrected => Sys2Proof.Machine.execFlitReceive port flit fecOk corrected s
  | .portEnable src port value => Sys2Proof.Machine.execPortEnable src port value s
  | .portDisable src port value => Sys2Proof.Machine.execPortDisable src port value s
  | .portTrained port lanes => Sys2Proof.Machine.execPortTrained port lanes s
  | .trainingTimeout port => Sys2Proof.Machine.execTrainingTimeout port s
  | .portMarginingDone port => Sys2Proof.Machine.execPortMarginingDone port s
  | .laneErrorRetrain port lane => Sys2Proof.Machine.execLaneErrorRetrain port lane s
  | .retrainDone port => Sys2Proof.Machine.execRetrainDone port s
  | .retrainTimeout port => Sys2Proof.Machine.execRetrainTimeout port s
  | .noFlitTimeout port => Sys2Proof.Machine.execNoFlitTimeout port s
  | .portLost port => Sys2Proof.Machine.execPortLost port s
  | .retrainHoldExpiry port => Sys2Proof.Machine.execRetrainHoldExpiry port s
  | .write port t => Sys2Proof.Machine.execWrite port t s
  | .ack port t => Sys2Proof.Machine.execAck port t s
  | .nack port t => Sys2Proof.Machine.execNack port t s
  | .signal port t => Sys2Proof.Machine.execSignal port t s
  | .read port t => Sys2Proof.Machine.execRead port t s
  | .readData port t => Sys2Proof.Machine.execReadData port t s
  | .notice port n => Sys2Proof.Machine.execNotice port n s
  | .prune port t => Sys2Proof.Machine.execPrune port t s
  | .flowAckTimer flow => Sys2Proof.Machine.execFlowAckTimer flow s
  | .flowBusyRetry flow => Sys2Proof.Machine.execFlowBusyRetry flow s
  | .flowIdleRelease flow => Sys2Proof.Machine.execFlowIdleRelease flow s
  | .lossLimitExpiry flow => Sys2Proof.Machine.execLossLimitExpiry flow s
  | .multicastBranchPrune fdie port group xfer behind idle => Sys2Proof.Machine.execMulticastBranchPrune fdie port group xfer behind idle s
  | .multicastLagTimeout die xfer => Sys2Proof.Machine.execMulticastLagTimeout die xfer s
  | .retentionLimitExpiry die xfer => Sys2Proof.Machine.execRetentionLimitExpiry die xfer s
  | .routeCopy src fdie => Sys2Proof.Machine.execRouteCopy src fdie s
  | .routeCopyDone fdie => Sys2Proof.Machine.execRouteCopyDone fdie s
  | .routeSwap src fdie => Sys2Proof.Machine.execRouteSwap src fdie s
  | .tickAlignSend port => Sys2Proof.Machine.execTickAlignSend port s
  | .rdCommDefine q tag => Sys2Proof.Machine.execRdCommDefine q tag s
  | .rdCommRetire q tag => Sys2Proof.Machine.execRdCommRetire q tag s
  | .rdReduce q tag => Sys2Proof.Machine.execRdReduce q tag s
  | .rdGather q tag => Sys2Proof.Machine.execRdGather q tag s
  | .rdA2a q tag => Sys2Proof.Machine.execRdA2a q tag s
  | .rdPermute q tag => Sys2Proof.Machine.execRdPermute q tag s
  | .permuteEpochAdvance die fn => Sys2Proof.Machine.execPermuteEpochAdvance die fn s
  | .rdEpochRetire q tag => Sys2Proof.Machine.execRdEpochRetire q tag s
  | .rdExpertDispatch q tag => Sys2Proof.Machine.execRdExpertDispatch q tag s
  | .rdExpertCombine q tag => Sys2Proof.Machine.execRdExpertCombine q tag s
  | .rdExtWrite q tag => Sys2Proof.Machine.execRdExtWrite q tag s
  | .rdExtSwap q tag => Sys2Proof.Machine.execRdExtSwap q tag s
  | .rdExtCopy q tag => Sys2Proof.Machine.execRdExtCopy q tag s
  | .ready die rec => Sys2Proof.Machine.execReady die rec s
  | .data die rec => Sys2Proof.Machine.execData die rec s
  | .close die rec => Sys2Proof.Machine.execClose die rec s
  | .fail die rec => Sys2Proof.Machine.execFail die rec s
  | .list die rec => Sys2Proof.Machine.execList die rec s
  | .gatherReq die rec => Sys2Proof.Machine.execGatherReq die rec s
  | .stragglerWindowClose die slot seq => Sys2Proof.Machine.execStragglerWindowClose die slot seq s
  | .closeTimeout die slot seq => Sys2Proof.Machine.execCloseTimeout die slot seq s
  | .drainGo src fdie value => Sys2Proof.Machine.execDrainGo src fdie value s
  | .drainComplete fdie => Sys2Proof.Machine.execDrainComplete fdie s
  | .drainRelease src fdie value => Sys2Proof.Machine.execDrainRelease src fdie value s
  | .drainHoldExpiry fdie => Sys2Proof.Machine.execDrainHoldExpiry fdie s
  | .mainInputLoss volts => Sys2Proof.Machine.execMainInputLoss volts s
  | .mainReturn => Sys2Proof.Machine.execMainReturn s
  | .pwrReturnPermit src value => Sys2Proof.Machine.execPwrReturnPermit src value s
  | .bothInputsLoss => Sys2Proof.Machine.execBothInputsLoss s
  | .holdupStationsStop => Sys2Proof.Machine.execHoldupStationsStop s
  | .inputRestored main => Sys2Proof.Machine.execInputRestored main s
  | .holdupSpent => Sys2Proof.Machine.execHoldupSpent s
  | .budgetDivision draws => Sys2Proof.Machine.execBudgetDivision draws s
  | .dieGovernorSample die draw => Sys2Proof.Machine.execDieGovernorSample die draw s
  | .oppStepDone die => Sys2Proof.Machine.execOppStepDone die s
  | .gvManualSet src die value => Sys2Proof.Machine.execGvManualSet src die value s
  | .gvFreqWrite src die value => Sys2Proof.Machine.execGvFreqWrite src die value s
  | .gvVoltWrite src die value => Sys2Proof.Machine.execGvVoltWrite src die value s
  | .budgetWrite src backup value => Sys2Proof.Machine.execBudgetWrite src backup value s
  | .pwrUvWrite src value => Sys2Proof.Machine.execPwrUvWrite src value s
  | .dieTempReading die temp => Sys2Proof.Machine.execDieTempReading die temp s
  | .throttleClockStep die => Sys2Proof.Machine.execThrottleClockStep die s
  | .stackTempReading stack temp => Sys2Proof.Machine.execStackTempReading stack temp s
  | .hotStackStep stack => Sys2Proof.Machine.execHotStackStep stack s
  | .sequencerPowerWait die seqr mode => Sys2Proof.Machine.execSequencerPowerWait die seqr mode s
  | .greyIdleTimer die => Sys2Proof.Machine.execGreyIdleTimer die s
  | .greyEntry die early => Sys2Proof.Machine.execGreyEntry die early s
  | .charcoalEntry die => Sys2Proof.Machine.execCharcoalEntry die s
  | .charcoalReached die => Sys2Proof.Machine.execCharcoalReached die s
  | .wakeEvent source die port => Sys2Proof.Machine.execWakeEvent source die port s
  | .charcoalWakeDone die => Sys2Proof.Machine.execCharcoalWakeDone die s
  | .aonTimerMatch => Sys2Proof.Machine.execAonTimerMatch s
  | .i3cAddressMatch => Sys2Proof.Machine.execI3cAddressMatch s
  | .refSelectWrite src value => Sys2Proof.Machine.execRefSelectWrite src value s
  | .refSourceInvalid source => Sys2Proof.Machine.execRefSourceInvalid source s
  | .refRevert => Sys2Proof.Machine.execRefRevert s
  | .holdoverExpiry runts => Sys2Proof.Machine.execHoldoverExpiry runts s
  | .clockSourceFail die dom stop runt => Sys2Proof.Machine.execClockSourceFail die dom stop runt s
  | .domainResume die dom pll => Sys2Proof.Machine.execDomainResume die dom pll s
  | .memoryClockTimeout die dom => Sys2Proof.Machine.execMemoryClockTimeout die dom s
  | .domainSwitch src die dom value => Sys2Proof.Machine.execDomainSwitch src die dom value s
  | .marginAutoSwitch die dom => Sys2Proof.Machine.execMarginAutoSwitch die dom s
  | .switchRampStep die dom => Sys2Proof.Machine.execSwitchRampStep die dom s
  | .clkObsEnable src value => Sys2Proof.Machine.execClkObsEnable src value s
  | .heartbeatSend => Sys2Proof.Machine.execHeartbeatSend s
  | .heartbeatTimeout entry => Sys2Proof.Machine.execHeartbeatTimeout entry s
  | .progressTimeout die st => Sys2Proof.Machine.execProgressTimeout die st s
  | .stationFence die st cause => Sys2Proof.Machine.execStationFence die st cause s
  | .dieFence die cause => Sys2Proof.Machine.execDieFence die cause s
  | .poolScrub die place bad => Sys2Proof.Machine.execPoolScrub die place bad s
  | .hbmPatrolScrub stack line bad => Sys2Proof.Machine.execHbmPatrolScrub stack line bad s
  | .snDefine q tag => Sys2Proof.Machine.execSnDefine q tag s
  | .snTake q tag => Sys2Proof.Machine.execSnTake q tag s
  | .captureDone set => Sys2Proof.Machine.execCaptureDone set s
  | .localLayerCommit set ok => Sys2Proof.Machine.execLocalLayerCommit set ok s
  | .sharedLayerCommit set => Sys2Proof.Machine.execSharedLayerCommit set s
  | .roceRetransmitTimeout conn => Sys2Proof.Machine.execRoceRetransmitTimeout conn s
  | .congestionNotification conn => Sys2Proof.Machine.execCongestionNotification conn s
  | .snRestore q tag image => Sys2Proof.Machine.execSnRestore q tag image s
  | .snConn q tag => Sys2Proof.Machine.execSnConn q tag s
  | .coldStart main straps => Sys2Proof.Machine.execColdStart main straps s
  | .resetNAssert straps => Sys2Proof.Machine.execResetNAssert straps s
  | .mgtResetWarm src value => Sys2Proof.Machine.execMgtResetWarm src value s
  | .managementWatchdog => Sys2Proof.Machine.execManagementWatchdog s
  | .bootVerify slot img => Sys2Proof.Machine.execBootVerify slot img s
  | .f4Takeover => Sys2Proof.Machine.execF4Takeover s
  | .limitedServiceEntry die => Sys2Proof.Machine.execLimitedServiceEntry die s
  | .fullServiceEntry die => Sys2Proof.Machine.execFullServiceEntry die s
  | .setPlacement data => Sys2Proof.Machine.execSetPlacement data s
  | .writeModuleTable data => Sys2Proof.Machine.execWriteModuleTable data s
  | .writeOverride data => Sys2Proof.Machine.execWriteOverride data s
  | .writeMulticast data => Sys2Proof.Machine.execWriteMulticast data s
  | .copyTables data => Sys2Proof.Machine.execCopyTables data s
  | .commitPlacement data => Sys2Proof.Machine.execCommitPlacement data s
  | .setRecovery data => Sys2Proof.Machine.execSetRecovery data s
  | .wake data => Sys2Proof.Machine.execWake data s
  | .setPowerState data => Sys2Proof.Machine.execSetPowerState data s
  | .fence data bare => Sys2Proof.Machine.execFence data bare s
  | .alignTick data bare => Sys2Proof.Machine.execAlignTick data bare s
  | .setupWrite data bare => Sys2Proof.Machine.execSetupWrite data bare s
  | .setupRead data => Sys2Proof.Machine.execSetupRead data s
  | .warmReset data => Sys2Proof.Machine.execWarmReset data s
  | .coldReset data bare straps => Sys2Proof.Machine.execColdReset data bare straps s
  | .commitSvn data secured => Sys2Proof.Machine.execCommitSvn data secured s
  | .revokeKey data secured => Sys2Proof.Machine.execRevokeKey data secured s
  | .loadKey data secured => Sys2Proof.Machine.execLoadKey data secured s
  | .keySendSelect data secured => Sys2Proof.Machine.execKeySendSelect data secured s
  | .keyEraseSlot data secured => Sys2Proof.Machine.execKeyEraseSlot data secured s
  | .keyEraseAll data secured => Sys2Proof.Machine.execKeyEraseAll data secured s
  | .firmwareUpdate img => Sys2Proof.Machine.execFirmwareUpdate img s
  | .activateFirmware => Sys2Proof.Machine.execActivateFirmware s
  | .spdmMessage session msg => Sys2Proof.Machine.execSpdmMessage session msg s
  | .pldmSensorRead kind sensor => Sys2Proof.Machine.execPldmSensorRead kind sensor s
  | .bistStart src die value => Sys2Proof.Machine.execBistStart src die value s
  | .bistDone die failed => Sys2Proof.Machine.execBistDone die failed s
  | .marginStart src die value => Sys2Proof.Machine.execMarginStart src die value s
  | .marginHoldBegin die => Sys2Proof.Machine.execMarginHoldBegin die s
  | .marginRunDone die lane margin found => Sys2Proof.Machine.execMarginRunDone die lane margin found s
  | .atbSelect src die value => Sys2Proof.Machine.execAtbSelect src die value s
  | .atbRoute src value => Sys2Proof.Machine.execAtbRoute src value s
  | .presentOpen => Sys2Proof.Machine.execPresentOpen s
  | .coolantReading flow inlet => Sys2Proof.Machine.execCoolantReading flow inlet s
  | .coolOkRestore => Sys2Proof.Machine.execCoolOkRestore s
  | .mainInputValid volts => Sys2Proof.Machine.execMainInputValid volts s
  | .referenceSourceValid source => Sys2Proof.Machine.execReferenceSourceValid source s
  | .aonCrystalStop => Sys2Proof.Machine.execAonCrystalStop s
  | .portPartnerDetected port => Sys2Proof.Machine.execPortPartnerDetected port s
  | .inPackageLinkLost a b => Sys2Proof.Machine.execInPackageLinkLost a b s
  | .roceResponseReceive conn psn data => Sys2Proof.Machine.execRoceResponseReceive conn psn data s
  | .pfcPauseFrame sport prio quanta => Sys2Proof.Machine.execPfcPauseFrame sport prio quanta s
  | .snapshotExtentRead set extent => Sys2Proof.Machine.execSnapshotExtentRead set extent s

end Sys2Proof.Machine
end

