-- ==== Sys2Proof/Safety.lean ====
section
/-! DEFINITION. What a safe step is: one that answers a next state. -/

namespace Sys2Proof.Machine

open Sys2Proof

/-- The outcome is a next state. -/
def completes (o : Host.Outcome State Fault Refusal) : Prop := ∃ s, o = .next s

/-- The step of a state is neither a fault nor a refusal. -/
def safeStep (s : State) : Prop := completes (step s)

/-- The register table, the tokens and the byte memories are in their one form, and the logs within their bounds (R42, R520, R547,
R584). -/
structure Sound (s : State) : Prop where
  flds : tabWf s.flds = true
  tokens : tabWf s.tokens = true
  mem : Memory.wf s.mem
  hostMem : Memory.wf s.hostMem
  wardMem : Memory.wf s.wardMem
  elog : s.elog.length ≤ 1024
  rlog : s.rlog.length ≤ 4096
  noticeCache : s.noticeCache.length ≤ 4096

/-- A write reaches the registers of a die: the module has power, and the die is not fenced, not in Charcoal and its core clock not
forced (R76, R483, R603, R634). -/
def reaches (s : State) (die : Nat) : Prop :=
  s.supply.phase < 3 ∧ dieFenced s die = false ∧ inCharcoal s die = false ∧ coreForced s die = false

/-- The sender owns a resource, or is a physical function where nobody does, or the management controller (R76, R77). -/
def mayWrite (src : Src) (owner : Option Nat) : Prop :=
  src = .mgmt ∨ ∃ f, src = .fn f ∧ (owner = some f ∨ (owner = none ∧ isPF f = true))

/-- How an operation of a dispatched descriptor runs: a check that fails ends the descriptor with its reason, and otherwise the operation
takes effect. -/
def opRuns (c : Nat → Nat → Instr) (p : Bytes → Bool) (checks : State → Desc → List (Nat × Bool)) (reject : State → Desc → Nat → State)
    (run : State → Desc → State) : Prop :=
  ∀ (s : State) (q tag : Nat) (d : Desc), opDesc s q tag p = some d →
    (firstFail (checks s d) = none → exec (c q tag) s = .next (settle (run s d))) ∧
    (∀ r, firstFail (checks s d) = some r → exec (c q tag) s = .next (settle (reject s d r)))

/-- The commands that run the operation of a dispatched descriptor. -/
def isOp : Instr → Bool
  | .nop .. | .mxFwd .. | .mxDgrad .. | .mxWgrad .. | .slGemm .. | .slSlice .. | .vxEw .. | .cvConvert .. | .cvRandomSet ..
  | .cvRandomAdvance .. | .cvRandomMask .. | .cvRandomWords .. | .ckPolicyBind .. | .ckPolicyReset .. | .ckPolicyUnbind ..
  | .ckPolicyRead .. | .atFwd .. | .atBwd .. | .atBprep .. | .atMerge .. | .pgOpen .. | .pgAppend .. | .pgTrim .. | .pgClose ..
  | .pgResume .. | .pgPin .. | .pgMove .. | .pgQuery .. | .pgRebuildCompact .. | .pgRebuildRehome .. | .stRun ..
  | .stStopAtEnd .. | .stStopNow .. | .shCtlDefine .. | .shCtlBeginUpdate .. | .shCtlCommit .. | .shCtlQuery .. | .shCtlFree ..
  | .tmMap .. | .tmUnmap .. | .tmMove .. | .tmPinSet .. | .tmPinClear .. | .tmQuery .. | .tmObjPut .. | .tmObjGet ..
  | .tmObjDelete .. | .tmObjStat .. | .mvCopy .. | .mvFill .. | .mvIndexed .. | .rdCommDefine .. | .rdCommRetire ..
  | .rdReduce .. | .rdGather .. | .rdA2a .. | .rdPermute .. | .rdEpochRetire .. | .rdExpertDispatch .. | .rdExpertCombine ..
  | .rdExtWrite .. | .rdExtSwap .. | .rdExtCopy .. | .snDefine .. | .snTake .. | .snRestore .. | .snConn .. => true
  | _ => false

/-- Commands that store to no byte of the memory of the module. -/
def isDry : Instr → Bool
  | .queueDrained .. | .queueAbortDone .. | .crEnable .. | .crDisable .. | .dispatch .. | .crModTimer ..
  | .crHeadDoorbell .. | .bar4Read .. | .seal .. | .streamTailRead .. | .tickLoRead .. | .hostLinkUp ..
  | .poolRequestAged .. | .mxLoad .. | .shadowReady .. | .mxStream .. | .mxCntClear .. | .ckSampleDone ..
  | .atCntClear .. | .walkBegin .. | .pgAgeSweep .. | .moveSourceRelease .. | .policyDemote ..
  | .slotAgeExpiry .. | .queScClear .. | .retrainHoldExpiry .. | .flowAckTimer .. | .flowBusyRetry ..
  | .flowIdleRelease .. | .multicastBranchPrune .. | .multicastLagTimeout .. | .routeCopy .. | .routeCopyDone ..
  | .tickAlignSend .. | .drainComplete .. | .mainInputLoss .. | .mainReturn | .pwrReturnPermit .. | .bothInputsLoss
  | .holdupStationsStop | .budgetDivision .. | .dieGovernorSample .. | .oppStepDone .. | .gvManualSet .. | .gvFreqWrite ..
  | .gvVoltWrite .. | .budgetWrite .. | .pwrUvWrite .. | .throttleClockStep .. | .hotStackStep .. | .sequencerPowerWait ..
  | .greyIdleTimer .. | .greyEntry .. | .charcoalEntry .. | .charcoalReached .. | .refSelectWrite .. | .refSourceInvalid ..
  | .refRevert | .domainSwitch .. | .marginAutoSwitch .. | .switchRampStep .. | .clkObsEnable .. | .heartbeatSend
  | .congestionNotification .. | .bootVerify .. | .f4Takeover | .fullServiceEntry .. | .setPlacement .. | .writeModuleTable ..
  | .writeOverride .. | .writeMulticast .. | .copyTables .. | .setRecovery .. | .alignTick .. | .setupRead .. | .commitSvn ..
  | .revokeKey .. | .loadKey .. | .keySendSelect .. | .keyEraseSlot .. | .keyEraseAll .. | .firmwareUpdate ..
  | .activateFirmware | .spdmMessage .. | .pldmSensorRead .. | .bistStart .. | .atbSelect .. | .atbRoute .. | .presentOpen
  | .coolantReading .. | .coolOkRestore | .mainInputValid .. | .referenceSourceValid .. | .aonCrystalStop
  | .portPartnerDetected .. | .roceResponseReceive .. | .pfcPauseFrame .. => true
  | _ => false

/-- The commands that may make a cold reset or take the power away (R467, R483, R548, R550). -/
def isCold : Instr → Bool
  | .holdupSpent | .coldStart .. | .resetNAssert .. | .setPowerState .. | .coldReset .. => true
  | _ => false

/-- What no operation of a descriptor reaches: supply, clocks and the tick; the error and repair logs and the notices; keys, sessions,
identities, the seal's capture, firmware and placement; the routing tables and windows; links, self-tests and margin runs; writes that a
forced clock holds. -/
structure Unmoved (s t : State) : Prop where
  wardMem : t.wardMem = s.wardMem
  elog : t.elog = s.elog
  rlog : t.rlog = s.rlog
  noticeCache : t.noticeCache = s.noticeCache
  aligned : t.aligned = s.aligned
  aon : t.aon = s.aon
  bar4 : t.bar4 = s.bar4
  bists : t.bists = s.bists
  bootAt : t.bootAt = s.bootAt
  bootBad : t.bootBad = s.bootBad
  copyAsked : t.copyAsked = s.copyAsked
  fwSlots : t.fwSlots = s.fwSlots
  hbLast : t.hbLast = s.hbLast
  keySend : t.keySend = s.keySend
  keys : t.keys = s.keys
  linkDown : t.linkDown = s.linkDown
  links : t.links = s.links
  loPend : t.loPend = s.loPend
  margins : t.margins = s.margins
  mcRecvs : t.mcRecvs = s.mcRecvs
  mcTab : t.mcTab = s.mcTab
  modTab : t.modTab = s.modTab
  noticeId : t.noticeId = s.noticeId
  ovrTab : t.ovrTab = s.ovrTab
  partGran : t.partGran = s.partGran
  paused : t.paused = s.paused
  pcRetired : t.pcRetired = s.pcRetired
  pcs : t.pcs = s.pcs
  policyOn : t.policyOn = s.policyOn
  psAt : t.psAt = s.psAt
  releases : t.releases = s.releases
  remargin : t.remargin = s.remargin
  remoteFenced : t.remoteFenced = s.remoteFenced
  rxFlows : t.rxFlows = s.rxFlows
  sealBytes : t.sealBytes = s.sealBytes
  sessions : t.sessions = s.sessions
  slew : t.slew = s.slew
  slewCnt : t.slewCnt = s.slewCnt
  spares : t.spares = s.spares
  staged : t.staged = s.staged
  stopped : t.stopped = s.stopped
  supply : t.supply = s.supply
  swaps : t.swaps = s.swaps
  tick : t.tick = s.tick
  tickStop : t.tickStop = s.tickStop
  winSel : t.winSel = s.winSel
  windows : t.windows = s.windows
  bankTurn : t.bankTurn = s.bankTurn
  heldWrites : t.heldWrites = s.heldWrites
  idents : t.idents = s.idents

/-- The register write that a command is: its sender, die, offset and value (R76, R598). -/
def writeOf (s : State) : Instr → Option (Src × Nat × Nat × Nat)
  | .seal src v => some (src, die04 s, 0x000100, v)
  | .mxCntClear src die st v => if isComp die ∧ st < 4 then some (src, die, 0x200004 + 256 * st, v) else none
  | .atCntClear src die st v => if isComp die ∧ st < 2 then some (src, die, 0x2C0004 + 256 * st, v) else none
  | .queScClear src die st v => if isComp die ∧ st < 14 then some (src, die, 0x3C0000 + 64 * st, v) else none
  | .portEnable src p v => if bit v 0 then some (src, portDie p, 0x500000 + 256 * portLoc p, v) else none
  | .portDisable src p v => if bit v 0 then none else some (src, portDie p, 0x500000 + 256 * portLoc p, v)
  | .routeCopy src k => if isFab k then some (src, k, 0x501100, 2) else none
  | .routeSwap src k => if isFab k then some (src, k, 0x501100, 4) else none
  | .drainGo src k v => if isFab k && bit v 6 then some (src, k, 0x501500, v) else none
  | .drainRelease src k v => if isFab k && bit v 7 then some (src, k, 0x501500, v) else none
  | .gvManualSet src die v => if isComp die then some (src, die, 0x600010, v) else none
  | .gvFreqWrite src die v => if isComp die then some (src, die, 0x600018, v) else none
  | .gvVoltWrite src die v => if isComp die then some (src, die, 0x60001C, v) else none
  | .budgetWrite src backup v => some (src, die04 s, if backup then 0x070008 else 0x070004, v)
  | .pwrUvWrite src v => some (src, die04 s, 0x07000C, v)
  | .pwrReturnPermit src v => some (src, die04 s, 0x070000, v)
  | .refSelectWrite src v => some (src, die04 s, 0x090000, v)
  | .clkObsEnable src v => some (src, die04 s, 0x090020, v)
  | .mgtResetWarm src v => some (src, die04 s, 0x0C0014, v)
  | .domainSwitch src die dom v => if dom = 4 ∨ !hasDomain s die dom then none else some (src, die, 0x640004 + 0x10 * dom, v)
  | .atbSelect src die v => some (src, die, 0x700000, v)
  | .atbRoute src v => some (src, die04 s, 0x0E0004, v)
  | .bistStart src die v => some (src, die, 0x700004, v)
  | .marginStart src die v => if isMem die then none else some (src, die, 0x700008, v)
  | _ => none

end Sys2Proof.Machine
end

