-- ==== Sys2Proof/Certificates/Slice0/Obligations.lean ====
section
/-! DEFINITION. The statements for the provers: what each command does, when it is turned away, and what holds of the whole
machine. -/

open Sys2Proof Sys2Proof.Machine

/-! ## Queues, completion rings and doorbells -/

/-- R81, R80: a stopped queue whose enable passes every check of R81 takes OPC_MASK, restarts its counters and runs; one that fails
a check records ERR 3 and reports which (R81). Here and below `w` is the state after the wake that the access is for its die (R488). -/
def Claims.QueueEnable : Prop :=
  ∀ (s w t : State) (src : Src) (q mask : Nat), reaches s (qDie q) → w = wakeByAccess s src (qDie q) →
    mayWrite src (queueOwner w q) → mask < 65536 → Sound s → qState w q = 0 →
    t = setF w F.QUE_Q_CTRL_OPC_MASK (qDie q) (qLoc q) mask →
    (enableFail t q = none → exec (.queueEnable src q mask) s = .next
      (setQEnable (setQState (setF (setQInt (setF (setF t F.QUE_Q_HEAD_FETCH_HEAD (qDie q) (qLoc q) 0)
        F.QUE_Q_HEAD_TAIL (qDie q) (qLoc q) 0) q QInt.reset) F.QUE_Q_STATUS_ERR (qDie q) (qLoc q) 0) q 1) q 1)) ∧
    (∀ k, enableFail t q = some k → exec (.queueEnable src q mask) s = .next
      (logErr (setF (setQEnable t q 0) F.QUE_Q_STATUS_ERR (qDie q) (qLoc q) 3) ((queueOwner t q).getD 0) ENABLE_REFUSED k
        (some q)))

/-- R101, R103, R104: disable, abort and CLR_ERR of a queue, and the end of a drain and of an abort; a write to a queue of another
function is logged and changes nothing (R77). -/
def Claims.QueueControl : Prop :=
  (∀ (s w : State) (src : Src) (q : Nat), reaches s (qDie q) → w = wakeByAccess s src (qDie q) → mayWrite src (queueOwner w q) →
    Sound s → getF w F.QUE_Q_CTRL_OPC_MASK (qDie q) (qLoc q) < 65536 → qState w q ≠ 0 →
    ((qState w q = 1 ∨ qState w q = 2) →
      exec (.queueDisable src q (getF w F.QUE_Q_CTRL_OPC_MASK (qDie q) (qLoc q))) s = .next (disableQueue w q)) ∧
    exec (.queueAbort src q) s = .next (abortQueue w q ABORTED_BY_HOST) ∧
    (qState w q = 2 → exec (.queueClrErr src q) s = .next (clearQueueErr w q))) ∧
  (∀ (s : State) (q : Nat), (getQInt s q).draining = true → qIdle s q = true →
    (qState s q = 1 → exec (.queueDrained q) s = .next (setQInt (setQState s q 0) q QInt.reset)) ∧
    (qState s q = 2 → exec (.queueDrained q) s =
      .next (setQInt (setQState (setF s F.QUE_Q_STATUS_ERR (qDie q) (qLoc q) 0) q 0) q QInt.reset))) ∧
  (∀ (s : State) (q : Nat), qState s q = 3 → (qIdle s q = true →
    exec (.queueAbortDone q) s = .next (setQState s q 0)) ∧ (qIdle s q = false → exec (.queueAbortDone q) s = .next s)) ∧
  (∀ (s w : State) (f o q mask : Nat), reaches s (qDie q) → w = wakeByAccess s (.fn f) (qDie q) → isPF f = true →
    queueOwner w q = some o → o ≠ f →
    exec (.queueDisable (.fn f) q mask) s = .next (logErr w f NOT_OWNED (queueOff q + 0x0C) (some q)) ∧
    exec (.queueAbort (.fn f) q) s = .next (logErr w f NOT_OWNED (queueOff q + 0x0C) (some q)) ∧
    exec (.queueClrErr (.fn f) q) s = .next (logErr w f NOT_OWNED (queueOff q + 0x0C) (some q)))

/-- R80, R81, R101, R103: the commands of a queue: enable, disable, abort, CLR_ERR, and the ends of a drain and of an abort. -/
def Obligations.Queues : Prop :=
  Claims.QueueEnable ∧ Claims.QueueControl

/-- R97, R98, R632: a disabled ring that passes the checks of R97 is enabled with its counters at 0, armed and not full; an enabled
ring that no queue uses and that holds nothing is disabled; a write while it is in use is logged. -/
def Claims.RingConfig : Prop :=
  ∀ (s w t : State) (src : Src) (r cfg : Nat), reaches s (r / 256) → w = wakeByAccess s src (r / 256) → mayWrite src (ringOwner w r) →
    (flag w F.QUE_CR_CFG_ENABLE (r / 256) (r % 256) = false → t = storeRingCfg w r (setBits cfg 6 1 1) → ringFail t r = none →
      exec (.crEnable src r cfg) s = .next
        (setRInt (setF (setF (setF (setF (setF t F.QUE_CR_TAIL_TAIL (r / 256) (r % 256) 0) F.QUE_CR_HEAD_HEAD (r / 256) (r % 256) 0)
          F.QUE_CR_STATUS_ARMED (r / 256) (r % 256) 1) F.QUE_CR_STATUS_FULL (r / 256) (r % 256) 0)
          F.QUE_CR_CFG_ENABLE (r / 256) (r % 256) 1) r RInt.reset)) ∧
    (ringUnused w r = true → (getRInt w r).held = [] → exec (.crDisable src r cfg) s =
      .next (setF (storeRingCfg w r (setBits cfg 6 1 0)) F.QUE_CR_CFG_ENABLE (r / 256) (r % 256) 0)) ∧
    (flag w F.QUE_CR_CFG_ENABLE (r / 256) (r % 256) = true → exec (.crEnable src r cfg) s =
      .next (logErr w (eventFn src (ringOwner w r)) CFG_WHILE_ENABLED (ringOff r + 8))) ∧
    (flag w F.QUE_CR_CFG_ENABLE (r / 256) (r % 256) = true → ringUnused w r = false → exec (.crDisable src r cfg) s =
      .next (logErr w (eventFn src (ringOwner w r)) CFG_WHILE_ENABLED (ringOff r + 8)))

/-- R98, R99: room lets the oldest held completion be posted; the moderation timer fires the ring; a head doorbell between HEAD and
TAIL moves HEAD and one outside is logged as HEAD_RANGE and changes nothing. -/
def Claims.RingPosting : Prop :=
  (∀ (s : State) (r : Nat) (c : Cpl) (rest : List Cpl), (getRInt s r).held = c :: rest → ringFull s r = false →
    exec (.postHeldCompletion r) s = .next (settle (releaseCpl (writeEntry
      (if rest.isEmpty then setF (setRInt s r { getRInt s r with held := rest }) F.QUE_CR_STATUS_FULL (r / 256) (r % 256) 0
        else setRInt s r { getRInt s r with held := rest }) r c) c))) ∧
  (∀ (s : State) (r : Nat), ringFull s r = true → exec (.postHeldCompletion r) s = .next s) ∧
  (∀ (s : State) (r : Nat), exec (.crModTimer r) s = .next (fireRing s r)) ∧
  (∀ (s : State) (f r value : Nat), reaches s (die04 s) → mayWrite (.fn f) (ringOwner s r) →
    ((value % 2 ^ 32 + 2 ^ 32 - getF s F.QUE_CR_HEAD_HEAD (r / 256) (r % 256)) % 2 ^ 32 > ringPending s r →
      exec (.crHeadDoorbell (.fn f) r 8 value) s = .next (logErr s (eventFn (.fn f) (ringOwner s r)) HEAD_RANGE (value % 2 ^ 32))) ∧
    ((value % 2 ^ 32 + 2 ^ 32 - getF s F.QUE_CR_HEAD_HEAD (r / 256) (r % 256)) % 2 ^ 32 ≤ ringPending s r → bit value 32 = false →
      exec (.crHeadDoorbell (.fn f) r 8 value) s =
        .next (fireRing (setF s F.QUE_CR_HEAD_HEAD (r / 256) (r % 256) (value % 2 ^ 32)) r)))

/-- R97-R99, R632: the commands of a completion ring. -/
def Obligations.CompletionRings : Prop :=
  Claims.RingConfig ∧ Claims.RingPosting

/-- R87, R88, R486, R488: a doorbell wakes its die. One of 8 aligned bytes to a running queue of the function within the ring moves TAIL;
one out of range puts the queue in error 2; one of the wrong form, to another function's queue or to a stopped queue is logged, for a queue
that no function owns in function 0's ring (R100); one to a die on its way to, in or out of Charcoal is held. -/
def Obligations.Doorbell : Prop :=
  ∀ (s w : State) (f off size value q : Nat), Sound s → doorbellQueue s f off = some q → w = wakeFrom s 7 (qDie q) →
    (dieFenced w (qDie q) = false → powerOf w (qDie q) ≥ 2 → exec (.doorbell f off size value) s =
      .next { w with held := w.held ++ [.bell (qDie q) f off size value] }) ∧
    (powerOf w (qDie q) < 2 →
      ((size ≠ 8 ∨ off % 8 ≠ 0) → exec (.doorbell f off size value) s = .next (logErr w f DB_FORMAT off)) ∧
      (size = 8 → off % 8 = 0 →
        (∀ o, queueOwner w q = some o → o ≠ f → exec (.doorbell f off size value) s = .next (logErr w f NOT_OWNED off (some q))) ∧
        (∀ g, (queueOwner w q = some f ∧ g = f ∨ queueOwner w q = none ∧ g = 0) →
          (qState w q ≠ 1 → exec (.doorbell f off size value) s = .next (logErr w g DB_DISABLED (value % 65536) (some q))) ∧
          (qState w q = 1 → isLane w q = false → dieFenced w (qDie q) = false → value % 65536 ≠ qTail w q →
            ((value % 65536 + 2 ^ 16 - qFetch w q) % 2 ^ 16 ≤ qSize w q → exec (.doorbell f off size value) s =
              .next (setF w F.QUE_Q_HEAD_TAIL (qDie q) (qLoc q) (value % 65536))) ∧
            ((value % 65536 + 2 ^ 16 - qFetch w q) % 2 ^ 16 > qSize w q → exec (.doorbell f off size value) s =
              .next (logErr (queueError w q 2) g DB_RANGE (value % 65536) (some q)))))))

/-- R70, R71, R89, R91, R477: fetch, admission, dispatch and the waits of a descriptor for a stream and of a micro-command for room. -/
def Claims.FetchToDispatch : Prop :=
  (∀ (s : State) (q : Nat) (data : Option Bytes) (b : Bytes), qState s q = 1 → qEnabled s q = true → isLane s q = false →
    dieServes s (qDie q) = true → qFetch s q ≠ qTail s q →
    (queueDescs s q).length + (getQInt s q).fetched.length ≤ getF s F.QUE_Q_CFG_OUTST_M1 (qDie q) (qLoc q) →
    dieRoom s (qDie q) (qPrio s q) = true →
    (fetchData s q data = none → exec (.descriptorFetch q data) s =
      .next (logErr (queueError s q 1) ((queueOwner s q).getD 0) FETCH_FAIL (qFetch s q) (some q))) ∧
    (fetchData s q data = some b → exec (.descriptorFetch q data) s = .next (noteEligible (headWriteBack
      (setF (setQInt s q { getQInt s q with fetched := (getQInt s q).fetched ++ [⟨qFetch s q, b⟩] }) F.QUE_Q_HEAD_FETCH_HEAD
        (qDie q) (qLoc q) (qFetch s q + 1)) q)))) ∧
  (∀ (s : State) (q : Nat) (data : Option Bytes), dieRoom s (qDie q) (qPrio s q) = false →
    exec (.descriptorFetch q data) s = .next s) ∧
  (∀ (s t : State) (die q : Nat) (floor : Bool), dieServes s die = true → admitsNone s = false →
    pickQueue s die = some (q, floor, t) → exec (.admission die) s = .next (admitFront t q floor)) ∧
  (∀ (s : State) (die : Nat), admitsNone s = true → exec (.admission die) s = .next s) ∧
  (∀ (s : State) (die k : Nat) (d : Desc), dieServes s die = true → s.descs.filter (isReady s die) ≠ [] →
    pickSeqr s die = some k → oldest ((s.descs.filter (isReady s die)).filter (fun d => hGlobal d.image)) = some d →
    exec (.dispatch die) s = .next (giveTo s d k)) ∧
  (∀ (s t : State) (die k : Nat) (d : Desc), dieServes s die = true → s.descs.filter (isReady s die) ≠ [] →
    pickSeqr s die = some k → oldest ((s.descs.filter (isReady s die)).filter (fun d => hGlobal d.image)) = none →
    chooseReady s die (s.descs.filter (isReady s die)) = some (d, t) →
    (fits s die (hClass d.image) = true → exec (.dispatch die) s = .next (giveTo t d k)) ∧
    (fits s die (hClass d.image) = false → exec (.dispatch die) s = .next (addF t F.GV_CNT_HOLD_HOLD die 0 1))) ∧
  (∀ (s : State) (q tag : Nat) (d : Desc), descOf s q tag = some d → d.waiting = true →
    ((newStream s (qDie q) 0x28 3 tileLines [0x28]).isSome = true → exec (.resourceWaitEnd q tag) s =
      .next (updDesc s q tag (fun d => { d with waiting := false }))) ∧
    (newStream s (qDie q) 0x28 3 tileLines [0x28] = none → exec (.resourceWaitEnd q tag) s = .next s)) ∧
  (∀ (s : State) (die st : Nat), tgetD s.overs (fifoKey die st) [] = [] →
    (∀ d, oldest (s.descs.filter (pushesTo die st)) = some d → exec (.stationFifoRoom die st) s =
      .next (settle (advance s d.queue d.tag))) ∧
    (oldest (s.descs.filter (pushesTo die st)) = none → exec (.stationFifoRoom die st) s = .next s)) ∧
  (∀ (s : State) (die st : Nat) (m : Micro) (r : List Micro), tgetD s.overs (fifoKey die st) [] = m :: r →
    ((fifo s die st).length < 64 → exec (.stationFifoRoom die st) s = .next (setFifo
      { s with overs := tput s.overs (fifoKey die st) r [] } die st (fifo s die st ++ [m]))) ∧
    ((fifo s die st).length ≥ 64 → exec (.stationFifoRoom die st) s = .next s))

/-- R72, R84: NOP ends with DONE; the head micro-command of a station ends its work and retires, and programs go on with what it gave. -/
def Claims.NopAndRetire : Prop :=
  (∀ (s : State) (q tag : Nat) (d : Desc), opDesc s q tag (fun i => opcode i == 0) = some d →
    exec (.nop q tag) s = .next (settle (endOp s d DONE (seqStation d) []))) ∧
  (∀ (s : State) (die st : Nat), isComp die = true → stations.contains st = true →
    exec (.microCommandRetire die st) s = .next (finishAll (retireHead (endHead s die st) die st)))

/-- R70-R72, R84, R89, R91, R477: a descriptor from its fetch to its retirement. -/
def Obligations.DispatchAndRetire : Prop :=
  Claims.FetchToDispatch ∧ Claims.NopAndRetire


/-! ## Host accesses -/

/-- R75, R78: an access through a function's aperture to HBM or populated far memory reads those bytes, poisoned where a line has an
uncorrectable error, or stores exactly its own bytes, which a region that is being moved notes (R330); one elsewhere is refused and
logged; one outside the aperture does nothing. -/
def Claims.Aperture : Prop :=
  ∀ (s : State) (fn off : Nat),
    (∀ len a, apertureAddr s fn off len = some a → inMemory s a len = true → physLost s a = false →
      physLost s (a + len - 1) = false → exec (.bar4Read fn off len) s =
        .next (emit s (.pcieData fn (readBytes s.mem a len) ((lineCauses s a len).contains 1)))) ∧
    (∀ len a, apertureAddr s fn off len = some a → inMemory s a len = false → exec (.bar4Read fn off len) s =
      .next (bar4Refuse s fn off)) ∧
    (∀ len, apertureAddr s fn off len = none → exec (.bar4Read fn off len) s = .next s) ∧
    (∀ data a, apertureAddr s fn off data.length = some a → inMemory s a data.length = true → physLost s a = false →
      physLost s (a + data.length - 1) = false → exec (.bar4Write fn off data) s =
        .next (markDirty { s with mem := writeBytes s.mem a data, lines := s.lines.filter (fun p =>
          !(decide (a ≤ 64 * p.1) && decide (64 * p.1 + 64 ≤ a + data.length))) } a data.length)) ∧
    (∀ data a, apertureAddr s fn off data.length = some a → inMemory s a data.length = false →
      exec (.bar4Write fn off data) s = .next (bar4Refuse s fn off)) ∧
    (∀ data, apertureAddr s fn off data.length = none → exec (.bar4Write fn off data) s = .next s)

/-- R78, R9, R42: bytes that a function stores through its aperture are the bytes it reads back, and every other byte of memory reads as
before. -/
def Obligations.ApertureReadBack : Prop :=
  ∀ (s t : State) (fn off a : Nat) (data : Bytes), Sound s → exec (.bar4Write fn off data) s = .next t →
    apertureAddr s fn off data.length = some a → inMemory s a data.length = true → physLost s a = false →
    physLost s (a + data.length - 1) = false →
    readBytes t.mem a data.length = data ∧ Sound t ∧
    (∀ b, b < a ∨ a + data.length ≤ b → readByte t.mem b = readByte s.mem b)

/-- R14, R564: the write that sets HST_SEAL captures the sealed registers; the seal and its capture stay when it is written again. -/
def Claims.SealWrite : Prop :=
  ∀ (s t : State) (src : Src) (value : Nat), reaches s (die04 s) → isPfSrc src = true →
    t = plainWrite s src f0 0x100 value →
    (sealed t = true → sealed s = false → exec (.seal src value) s = .next { t with sealBytes := rwlBytes t }) ∧
    (sealed s = true → exec (.seal src value) s = .next t)

/-- R13, R75-R77, R598: an aligned 32-bit write in the window of a function reaches the register; an aligned 64-bit write is its two
halves, the low one first; another size or alignment is logged as SETUP_FORMAT and writes nothing; outside its windows a function writes
nothing. -/
def Claims.RegisterWrite : Prop :=
  ∀ (s : State) (fn off value : Nat),
    (barPlace s fn off = none → ∀ size, exec (.registerWrite fn off size value) s = .next s) ∧
    (∀ die o, barPlace s fn off = some (die, o) → crdbRing die o = none → (isPF fn = true ∨ off < 0x30000) →
      (off % 4 = 0 → exec (.registerWrite fn off 4 value) s = .next (writeReg s (.fn fn) die o (value % 2 ^ 32))) ∧
      (∀ d1 o1, off % 8 = 0 → (isPF fn = true ∨ off + 4 < 0x30000) →
        barPlace (writeReg s (.fn fn) die o (value % 2 ^ 32)) fn (off + 4) = some (d1, o1) →
        exec (.registerWrite fn off 8 value) s =
          .next (writeReg (writeReg s (.fn fn) die o (value % 2 ^ 32)) (.fn fn) d1 o1 (value / 2 ^ 32 % 2 ^ 32))) ∧
      (∀ size, (off % size ≠ 0 ∨ ¬ (size = 4 ∨ size = 8)) → reaches s die → holdsReg die o = true →
        exec (.registerWrite fn off size value) s = .next (logErr s fn SETUP_FORMAT (formatDetail die o))))

/-- R66, R76, R488, R508, R600: a read of a stream's tail latches its slowest head; a read of CLK_TICK_LO latches the high half; a fenced
die answers all ones and logs a function's access, one in Charcoal zero; an access wakes its die. -/
def Claims.LatchingReads : Prop :=
  ∀ (s w : State) (src : Src) (die : Nat), isPfSrc src = true → w = wakeByAccess s src die →
    (reaches s die → isComp die = true →
      (∀ st, tget? w.streams (streamKey die (getF w F.QUE_STREAM_SEL_STREAM die)) = some st →
        exec (.streamTailRead src die) s = .next
          (emit (setF w F.QUE_STREAM_HEAD_HEAD die 0 (slowest st).toNat) (.regData st.tail.toNat))) ∧
      (tget? w.streams (streamKey die (getF w F.QUE_STREAM_SEL_STREAM die)) = none →
        exec (.streamTailRead src die) s = .next (emit (setF w F.QUE_STREAM_HEAD_HEAD die 0 0) (.regData 0)))) ∧
    (reaches s (die04 s) → exec (.tickLoRead src) s =
      .next (emit (setF s F.CLK_TICK_HI_TICK f0 0 (now s / 2 ^ 32)) (.regData (now s % 2 ^ 32)))) ∧
    (dieFenced s die = true → exec (.streamTailRead .mgmt die) s = .next (emit s (.regData 0xFFFFFFFF)) ∧
      ∀ f, src = .fn f → exec (.streamTailRead src die) s = .next (emit (logErr s f WINDOW_FENCED die) (.regData 0xFFFFFFFF))) ∧
    (dieFenced s die = false → inCharcoal s die = true → exec (.streamTailRead src die) s = .next (emit w (.regData 0)))

/-- R24, R37, R104, R548: a host link goes down once, comes back with one CPL_LOST entry for each function that lost completions unless its
fabric die is fenced, and a port reset
returns the error-ring registers of its functions and its window selection to their reset values. -/
def Claims.HostPorts : Prop :=
  ∀ (s : State) (port : Nat),
    (tget? s.linkDown port = none → exec (.hostLinkDown port) s = .next (linkGoesDown s port) ∧
      exec (.hostLinkUp port) s = .next s) ∧
    (∀ n, tget? s.linkDown port = some n → exec (.hostLinkDown port) s = .next s ∧
      (dieFenced s (16 + 2 * port) = true → exec (.hostLinkUp port) s = .next s) ∧
      (dieFenced s (16 + 2 * port) = false → exec (.hostLinkUp port) s = .next ((portFns port).foldl (fun s f =>
        match tget? s.lostCpls f with
        | some n => logErr { s with lostCpls := tdel s.lostCpls f } f CPL_LOST n
        | none => s) { s with linkDown := tdel s.linkDown port }))) ∧
    exec (.hostPortReset port) s = .next ((portFns port).foldl (fun s f =>
      [F.HST_FN_ERR_BASE_LO_BASE, F.HST_FN_ERR_BASE_HI_BASE, F.HST_FN_ERR_HEAD_HEAD, F.HST_FN_ERR_TAIL_TAIL,
        F.HST_FN_ERR_TAIL_OVF].foldl (fun s g => setF s g f0 f g.reset) s)
      { linkGoesDown s port with winSel := tdel (linkGoesDown s port).winSel (17 * port) })

/-- R14, R66, R75-R78, R104, R508, R548, R598, R600: what a host does through its windows, and its link. -/
def Obligations.HostAccess : Prop :=
  Claims.Aperture ∧ Claims.SealWrite ∧ Claims.RegisterWrite ∧ Claims.LatchingReads ∧ Claims.HostPorts

/-! ## Tokens and streams -/

/-- R62, R63, R65: a signal of 1 to 65,535 to one of the 4,096 tokens of a compute die takes effect, unless the die is fenced: it is then
discarded and the descriptor that sent it completes with FENCED; any other changes nothing. -/
def Claims.TokenSignal : Prop :=
  ∀ (s : State) (die tok inc : Nat) (desc : Option (Nat × Nat)),
    (1 ≤ inc → inc ≤ 65535 → tok < 4096 → isComp die = true →
      (dieFenced s die = false → exec (.tokenSignal die tok ⟨inc, desc⟩) s = .next (signalTok s die tok inc)) ∧
      (dieFenced s die = true → exec (.tokenSignal die tok ⟨inc, desc⟩) s = .next (settle (failSignal s desc)))) ∧
    ((inc = 0 ∨ inc > 65535 ∨ tok ≥ 4096 ∨ isComp die = false) → exec (.tokenSignal die tok ⟨inc, desc⟩) s = .next s)

/-- R46, R55-R57, R66: a tile of the form of R46 that fits its slot is stored in the next slot where there is room and moves the tail by
one; a release moves the head of its consumer alone, and not past the tail, and lets movers go on; a full stream, a fenced producer or a
tile of another form change nothing. The stall counters move by free amounts (log entry 19). -/
def Claims.Streams : Prop :=
  ∀ (s : State) (die stream : Nat) (x : Stream), tget? s.streams (streamKey die stream) = some x →
    (∀ tile t e, streamFill x < x.slots → tileOk tile = true → tile.length ≤ 64 * x.slotLines → stFenced s die x.producer = false →
      (e, t) = (if x.consumers.any (fun c => c.2 == x.tail) then stalled s x.stallEmpty else (x.stallEmpty, s)) →
      exec (.streamCommit die stream tile) s = .next { physWrite t (slotAddr die x x.tail) (sealTile s die stream x tile) 0 with
        streams := (tins (physWrite t (slotAddr die x x.tail) (sealTile s die stream x tile) 0).streams (streamKey die stream)
          { x with tail := x.tail + 1, stallEmpty := e }) }) ∧
    (∀ tile, (streamFill x ≥ x.slots ∨ tileOk tile = false ∨ tile.length > 64 * x.slotLines ∨ stFenced s die x.producer = true) →
      exec (.streamCommit die stream tile) s = .next s) ∧
    (∀ st cs t e, cs = x.consumers.map (fun c => if c.1 = st ∧ c.2 ≠ x.tail then (c.1, c.2 + 1) else c) →
      (e, t) = (if streamFill x ≥ x.slots ∧ cs ≠ x.consumers then stalled s x.stallFull else (x.stallFull, s)) →
      exec (.streamRelease die stream st) s = .next (pump { t with
        streams := (tins t.streams (streamKey die stream) { x with consumers := cs, stallFull := e }) }))

/-- R44: a bank grants the request that has waited longest where one has waited 64 cycles or more, and counts it; else the next in turn
of the first class that asks. -/
def Claims.PoolAged : Prop :=
  ∀ (s : State) (die bank : Nat) (q : Nat × Nat) (rest reqs : List (Nat × Nat)), reqs = q :: rest →
    (∀ x, eldest (reqs.filter (fun x => decide (x.2 ≥ 64))) = some x → exec (.poolRequestAged die bank q rest) s =
      .next (addF { s with bankTurn := tput s.bankTurn (bankKeyOf die bank (portRank x.1)) (x.1 + 1) 0 } F.QUE_POOL_AGED_AGED die 0 1)) ∧
    ((∀ x ∈ reqs, x.2 < 64) → ∀ r p, r ∈ [1, 2, 3, 4, 5, 6] →
      (∀ k, 1 ≤ k → k < r → ∀ x ∈ reqs, portRank x.1 ≠ k) →
      nextPort (tgetD s.bankTurn (bankKeyOf die bank r) 0) ((reqs.map (·.1)).filter (fun p => portRank p == r)) = some p →
      exec (.poolRequestAged die bank q rest) s =
        .next { s with bankTurn := tput s.bankTurn (bankKeyOf die bank (portRank p)) (p + 1) 0 })

/-- R44, R55, R56, R62, R63, R66: tokens, streams and the pool. -/
def Obligations.TokensAndStreams : Prop :=
  Claims.TokenSignal ∧ Claims.Streams ∧ Claims.PoolAged


/-! ## Matrix, slice, element-wise, convert and check stations -/

/-- R126, R131: a matrix operation whose checks pass runs on its operand kind; a failed check ends it with CONFLICT and the reason. -/
def Claims.MatrixOps : Prop :=
  ∀ (s : State) (q tag op : Nat) (d : Desc) (c : Instr),
    (c = .mxFwd q tag ∧ op = 0x10 ∨ c = .mxDgrad q tag ∧ op = 0x11 ∨ c = .mxWgrad q tag ∧ op = 0x12) →
    opDesc s q tag (fun i => opcode i == op) = some d →
    (∀ kind, firstFail (mxChecks s d) = none → pairOf (mxBody d.image).af (mxBody d.image).bf = some kind →
      exec c s = .next (settle (runMatrix s d kind))) ∧
    (∀ r, firstFail (mxChecks s d) = some r → exec c s = .next (settle (rejectOp s d CONFLICT r)))

/-- R111-R114, R135, R139, R140: a weight load starts while the shadow set is not LOADING; a shadow set becomes ready, and a pass that waits
for it at the boundary takes it; a pass starts on a set that is ready and else waits; none starts at a fenced or halted station (R463, R634). A pass that has
issued its last row is counted, its micro-command ends, and the next one starts, waits or leaves the station idle. -/
def Claims.MatrixEvents : Prop :=
  (∀ (s : State) (die st : Nat), st < 4 → isComp die = true →
    (stFenced s die st = false → halted s die st = false → getF s F.MX_STATE_SHADOW die st ≠ 1 → nextLoad (fifo s die st) = true →
      exec (.mxLoad die st) s = .next (setF (setFifo s die st (startFirst (fifo s die st))) F.MX_STATE_SHADOW die st 1)) ∧
    (stFenced s die st = false → getF s F.MX_STATE_SHADOW die st = 1 → ∀ t,
      t = setF (setFifo s die st (loadDone (fifo s die st))) F.MX_STATE_SHADOW die st 2 → exec (.shadowReady die st) s =
        .next (if getF t F.MX_STATE_ISSUE die st = 2 ∧ halted t die st = false then startPass t die st none else t)) ∧
    (∀ parity m rows skip k p, stFenced s die st = false → halted s die st = false → getF s F.MX_STATE_ISSUE die st = 0 →
      nextPass (fifo s die st) = some m → m.kind = .pass rows skip true k p →
      (getF s F.MX_STATE_SHADOW die st ≠ 2 → exec (.mxStream die st parity) s = .next (setF s F.MX_STATE_ISSUE die st 2)) ∧
      (getF s F.MX_STATE_SHADOW die st = 2 → ∀ t, t = setF (setF s F.MX_STATE_ACT_SET die st (1 - getF s F.MX_STATE_ACT_SET die st))
          F.MX_STATE_SHADOW die st 0 →
        exec (.mxStream die st parity) s = .next (setF (setFifo t die st (updFirst (fun x => x == m)
          (fun x => noteParity parity { x with started := true }) (fifo t die st))) F.MX_STATE_ISSUE die st 1))) ∧
    (∀ parity m rows skip k p, stFenced s die st = false → halted s die st = false → getF s F.MX_STATE_ISSUE die st = 0 →
      nextPass (fifo s die st) = some m → m.kind = .pass rows skip false k p →
      exec (.mxStream die st parity) s = .next (setF (setFifo s die st (updFirst (fun x => x == m)
        (fun x => noteParity parity { x with started := true }) (fifo s die st))) F.MX_STATE_ISSUE die st 1)) ∧
    (stFenced s die st = true → exec (.shadowReady die st) s = .next s) ∧
    ((stFenced s die st = true ∨ halted s die st = true) → exec (.mxLoad die st) s = .next s ∧
      ∀ parity, exec (.mxStream die st parity) s = .next s)) ∧
  (∀ (s t u : State) (die st : Nat) (m : Micro) (rest : List Micro) (d : Desc) (rows skip k : Nat) (swap : Bool), st < 4 →
    isComp die = true → halted s die st = false → fifo s die st = m :: rest → m.kind = .pass rows skip swap k none →
    descOf s m.queue m.tag = some d → m.started = true → m.ready = false → inputsDone s d.queue d.tag = true →
    mixedAt (viewOf s d) d k = false → causeOfPass (viewOf s d) d k = 0 →
    t = mxCount (mxCount s F.MX_CYC_VALID_VALID die st (rows * rowCycles s d.queue d.tag)) F.MX_ROWS_SKIP_SKIP die st skip →
    flag t F.MX_CNT_CTRL_FREEZE die st = false →
    u = updDesc (addW t F.MX_PASSES_PASSES die st 1) d.queue d.tag (fun d => { d with marks := d.marks ++ [] }) →
    exec (.microCommandRetire die st) s =
      .next (finishAll (retireHead (nextIssue (endWork (showUsed u d st) die st m rest 0) die st) die st)))

/-- R140, R250, R375: the counter controls of the matrix, attention and copy stations are written by a physical function or the
management controller, for the stations a compute die has; the access wakes its die (R488). -/
def Claims.CounterClears : Prop :=
  ∀ (s w : State) (src : Src) (die st value : Nat), reaches s die → w = wakeByAccess s src die → isPfSrc src = true →
    isComp die = true →
    (st < 4 → exec (.mxCntClear src die st value) s = .next (writeCntCtrl w F.MX_CNT_CTRL_FREEZE mxCounters die st value)) ∧
    (st < 2 → exec (.atCntClear src die st value) s = .next (writeCntCtrl w F.AT_CNT_CTRL_FREEZE atCounters die st value)) ∧
    (st < 14 → exec (.queScClear src die st value) s = .next (writeScCtrl w die st value)) ∧
    (st ≥ 14 → exec (.mxCntClear src die st value) s = .next s ∧ exec (.atCntClear src die st value) s = .next s ∧
      exec (.queScClear src die st value) s = .next s)

/-- R111, R114, R126, R131, R140, R250, R375: the matrix stations, and the counter controls of the stations. -/
def Obligations.MatrixStations : Prop :=
  Claims.MatrixOps ∧ Claims.MatrixEvents ∧ Claims.CounterClears

/-- R155, R157, R162, R183: the sliced, element-wise and convert operations. -/
def Claims.TensorOps : Prop :=
  opRuns .slGemm (fun i => opcode i == 0x20) gemmChecks (fun s d r => rejectOp s d CONFLICT r) runGemm ∧
  opRuns .slSlice (fun i => opcode i == 0x21) (fun _ d => sliceChecks d.image) (fun s d r => rejectOp s d CONFLICT r) runSlice ∧
  opRuns .cvConvert (fun i => opcode i == 0x28) convertChecks (fun s d r => rejectOp s d CONFLICT r) runConvert ∧
  (∀ (s : State) (q tag : Nat) (d : Desc), opDesc s q tag (fun i => opcode i == 0x50) = some d →
    (fld d.image 0x2F 1 ≤ 2 → (fld d.image 0x2E 1 = 3 ∨ fld d.image 0x2E 1 = 4 ∨ fld d.image 0x2E 1 = 5) →
      exec (.vxEw q tag) s = .next (settle (runEw s d))) ∧
    ((fld d.image 0x2F 1 > 2 ∨ ¬ (fld d.image 0x2E 1 = 3 ∨ fld d.image 0x2E 1 = 4 ∨ fld d.image 0x2E 1 = 5)) →
      exec (.vxEw q tag) s = .next (settle (rejectOp s d CONFLICT 0x01))))

/-- R185: SET and ADVANCE of a random stream of the die write that stream and issue to the convert station; MASK and WORDS leave it, and
a mover writes their rows from the convert station's output; a failed check ends the descriptor. -/
def Claims.RandomStreams : Prop :=
  opRuns .cvRandomSet (isRandom 0) randomChecks rejectClass3 (fun s d => issueAll
    (setRS s (qDie d.queue) (fld d.image 0x11 1) ⟨fld d.image 0x18 8, fld d.image 0x14 4, true⟩) d.queue d.tag
      [.of 0x18 .plain]) ∧
  opRuns .cvRandomAdvance (isRandom 1) randomChecks rejectClass3 (fun s d => issueAll
    (setRS s (qDie d.queue) (fld d.image 0x11 1) { getRS s (qDie d.queue) (fld d.image 0x11 1) with
      epoch := ((getRS s (qDie d.queue) (fld d.image 0x11 1)).epoch + 1) % 2 ^ 32 }) d.queue d.tag [.of 0x18 .plain]) ∧
  opRuns .cvRandomMask (isRandom 2) randomChecks rejectClass3 (fun s d => runOut s d 0x18 (randomTiles d
    (ceilDiv (fld d.image 0x2C 2) 8) 64
    (maskRow (getRS s (qDie d.queue) (fld d.image 0x11 1)) (fld d.image 0x34 4) (fld d.image 0x30 4) (fld d.image 0x2C 2)))) ∧
  opRuns .cvRandomWords (isRandom 3) randomChecks rejectClass3 (fun s d => runOut s d 0x18 (randomTiles d
    (4 * fld d.image 0x2C 2) 2048 (fun i => (List.range (fld d.image 0x2C 2)).flatMap (fun j =>
      toLe 4 (elemWord (getRS s (qDie d.queue) (fld d.image 0x11 1)) true (fld d.image 0x34 4) (fld d.image 0x2C 2) i j)))))

/-- R199, R631: the four operations on a check profile; a read stores the profile bound to the named tensor, else the default. -/
def Claims.CheckProfiles : Prop :=
  opRuns .ckPolicyBind (isPolicy 0) policyChecks rejectClass3 (fun s d => issueAll
    (setProf s (qDie d.queue) (fld d.image 0x10 4 % 1024) (bindProfile d.image)) d.queue d.tag [.of 0x19 .plain]) ∧
  opRuns .ckPolicyReset (isPolicy 1) policyChecks rejectClass3 (fun s d => issueAll
    (setProf s (qDie d.queue) (fld d.image 0x10 4 % 1024) { getProf s (qDie d.queue) (fld d.image 0x10 4 % 1024) with
      level := bits (fld d.image 0x19 1) 0 2, start := bits (fld d.image 0x19 1) 0 2 }) d.queue d.tag [.of 0x19 .plain]) ∧
  opRuns .ckPolicyUnbind (isPolicy 2) policyChecks rejectClass3 (fun s d => issueAll
    (setProf s (qDie d.queue) (fld d.image 0x10 4 % 1024) Profile.default) d.queue d.tag [.of 0x19 .plain]) ∧
  opRuns .ckPolicyRead (isPolicy 3) policyChecks rejectClass3 (fun s d => runOut s d 0x19
    [rawWrite (addrOf (fld d.image 0x20 8)) (profileImage
      (if boundTo (getProf s (qDie d.queue) (fld d.image 0x10 4 % 1024)) (fld d.image 0x10 4) then
        getProf s (qDie d.queue) (fld d.image 0x10 4 % 1024) else Profile.default) (fld d.image 0x10 4)) 0 0]) ∧
  (∀ (s : State) (die : Nat) (corrupt : Bool) (x : Sample), s.samples.find? (fun x => qDie x.queue == die) = some x →
    x.disagrees = false → (x.split && corrupt) = false → exec (.ckSampleDone die corrupt) s = .next (finishEvent
      (countSamples (addF { s with samples := delFirst (fun x => qDie x.queue == die) s.samples } F.CK_SAMPLES_SAMPLES die 0 1) die)
      x.queue x.tag (sampleEvent x.idx) DONE [])) ∧
  (∀ (s : State) (die : Nat) (corrupt : Bool), s.samples.find? (fun x => qDie x.queue == die) = none →
    exec (.ckSampleDone die corrupt) s = .next s)

/-- R155, R157, R162, R183, R185, R199, R631: the sliced, element-wise, convert, random and check operations. -/
def Obligations.ConvertAndCheck : Prop :=
  Claims.TensorOps ∧ Claims.RandomStreams ∧ Claims.CheckProfiles

/-! ## Attention and paging -/

/-- R225, R228, R229, R250: a call that cannot be prepared ends with its reason; with every attention station of the die fenced it ends
FENCED; a sequence that cannot be walked ends it; otherwise a ring call starts its ring, a paged one begins its walks, and any other runs.
A parity error that will be found in a block pair is an operand of the model (log entry 2). -/
def Claims.AttentionOps : Prop :=
  ∀ (s t : State) (q tag op : Nat) (d : Desc) (c : Instr) (par : Option (Nat × Nat × Nat)),
    (c = .atFwd q ⟨tag, par⟩ ∧ op = 0x30 ∨ c = .atBwd q ⟨tag, par⟩ ∧ op = 0x31 ∨ c = .atBprep q tag ∧ op = 0x32 ∧ par = none) →
    opDesc s q tag (fun i => opcode i == op) = some d →
    t = updDesc s q tag (fun d => { d with marks := (par.map (fun p => (2 * p.2.1 + p.1 % 2, p.2.2))).toList }) →
    (∀ e, atPrepare s d = .error e → exec c s = .next (settle (endAt s d e))) ∧
    (∀ x, atPrepare s d = .ok x → atAllFenced s (qDie q) = true → exec c s = .next (settle (endOp s d FENCED 0x08 []))) ∧
    (∀ x, atPrepare s d = .ok x → atAllFenced s (qDie q) = false →
      (∀ st r, walksFail s x = some (st, r) → exec c s = .next (settle (completeDesc s d st 0x0C (detail6 [r]) 0))) ∧
      (walksFail s x = none → At.ring x = true → exec c s = .next (settle (startRing t d x))) ∧
      (walksFail s x = none → At.ring x = false → At.paged x = true → exec c s = .next (settle (runPaged t d x))) ∧
      (walksFail s x = none → At.ring x = false → At.paged x = false → exec c s = .next (settle (runLocal t d x))))

/-- R230, R238: AT_MERGE, and a ring wait whose limit has passed: its micro-command ends LINK_LOST and is counted. -/
def Claims.MergeAndRingWait : Prop :=
  (∀ (s : State) (q tag : Nat) (d : Desc), opDesc s q tag (fun i => opcode i == 0x33) = some d →
    (firstFail (mergeChecks s d) = none → atAllFenced s (qDie q) = false →
      exec (.atMerge q tag) s = .next (settle (runMerge s d))) ∧
    (firstFail (mergeChecks s d) = none → atAllFenced s (qDie q) = true →
      exec (.atMerge q tag) s = .next (settle (endOp s d FENCED 0x08 []))) ∧
    (∀ r, firstFail (mergeChecks s d) = some r → exec (.atMerge q tag) s = .next (settle (rejectOp s d CONFLICT r)))) ∧
  (∀ (s : State) (die st : Nat) (m : Micro) (rest : List Micro) (r : RingCall) (tok v : Nat), fifo s die st = m :: rest →
    s.rings.find? (fun r => r.queue == m.queue && r.tag == m.tag && r.wait == some m.idx) = some r → m.kind = .token tok v →
    At.ringLimit r.call ≠ 0 → (st = 0x08 ∨ st = 0x09) → exec (.ringWaitTimeout die st) s = .next (runRings (addF
      (updDesc (releaseAt (setFifo s die st rest) die st) m.queue m.tag (fun d =>
        { d with unretired := d.unretired - 1, retired := d.retired ++ [⟨m.idx, LINK_LOST, st, []⟩] })) F.AT_RING_TMO_TMO die 0 1))) ∧
  (∀ (s : State) (die st : Nat), fifo s die st = [] → exec (.ringWaitTimeout die st) s = .next s)

/-- R225, R228-R230, R238: the attention operations. -/
def Obligations.Attention : Prop :=
  Claims.AttentionOps ∧ Claims.MergeAndRingWait

/-- R252, R256, R263, R266, R267, R269, R272, R277, R279: an edit of a sequence is taken by the page engine in the order of arrival;
with the page engine fenced its command is issued there and ends FENCED; a query stores the entries asked for and changes none; a rebuild waits its turn. -/
def Obligations.PageOps : Prop :=
  (∀ (s : State) (q tag op : Nat) (d : Desc) (c : Instr),
    (c = .pgOpen q tag ∧ op = 0x40 ∨ c = .pgAppend q tag ∧ op = 0x41 ∨ c = .pgTrim q tag ∧ op = 0x42 ∨ c = .pgClose q tag ∧ op = 0x43 ∨
      c = .pgResume q tag ∧ op = 0x44 ∨ c = .pgPin q tag ∧ op = 0x45 ∨ c = .pgMove q tag ∧ op = 0x46) →
    opDesc s q tag (fun i => opcode i == op) = some d →
    (stFenced s (qDie q) 0x0C = false → exec c s =
      .next (settle (showPg (arriveEdit (beginPg s q tag) (fld d.image 0x10 2) q tag) (qDie q)))) ∧
    (stFenced s (qDie q) 0x0C = true → exec c s = .next (settle (issueAll s q tag [.of 0x0C .plain])))) ∧
  (∀ (s : State) (q tag : Nat) (d : Desc), opDesc s q tag (fun i => opcode i == 0x47) = some d →
    (∀ r, firstFail (pgChecks s d) = some r → exec (.pgQuery q tag) s = .next (settle (rejectOp s d (pgStatus r) r))) ∧
    (∀ x bs, firstFail (pgChecks s d) = none → getSeq s (fld d.image 0x10 2) = some x →
      bs = queryBytes s (fld d.image 0x10 2) x (fld d.image 0x2C 4) (fld d.image 0x28 4) → exec (.pgQuery q tag) s = .next (settle
        (runOut (setDetail s q tag (pgDetail 0 (fld d.image 0x28 4) 0)) d 0x0C
          (tileWrites (fld d.image 0x18 8 % 2 ^ 52) (bs.length / 65536 + 1) bs))))) ∧
  (∀ (s : State) (q tag arg : Nat) (d : Desc) (c : Instr),
    (c = .pgRebuildCompact q tag ∧ arg = 0 ∨ c = .pgRebuildRehome q tag ∧ arg = 1) →
    opDesc s q tag (fun i => opcode i == 0x48 && (fld i 0x25 1 == arg || (arg == 0 && fld i 0x25 1 > 1))) = some d →
    (∀ r, firstFail (pgChecks s d) = some r → exec c s = .next (settle (rejectOp s d (pgStatus r) r))) ∧
    (firstFail (pgChecks s d) = none → stFenced s (qDie q) 0x0C = false → ∀ t, t = beginPg s q tag → exec c s =
      .next (settle (pumpRebuild (setRb t (qDie q) { getRb t (qDie q) with waiting := (getRb t (qDie q)).waiting ++ [(q, tag)] })
        (qDie q)))))

/-- R260, R261, R263, R269, R270, R273, R275, R278: the events of the page engine: the swap of a rebuilt map, walks (one that finds no slot
waits), copies, demotions (one that is abandoned lets the next candidate be tried), parked appends and the age sweep. -/
def Obligations.PageEvents : Prop :=
  (∀ (s : State) (die : Nat), ((getRb s die).running = false ∨ stFenced s die 0x0C = true) → exec (.rebuildSwap die) s = .next s) ∧
  (∀ (s t : State) (die bank k : Nat), isComp die = true → (getRb s die).running = true → (getRb s die).kind = 0 →
    stFenced s die 0x0C = false → bank = 1 - getF s F.PG_STATE_ACT_BANK die →
    packSpans die bank (bySpan (dieSeqs s die)) 0 (0, s) = (k, t) →
    (setF t F.PG_STATE_ACT_BANK die 0 bank).walks.any (fun w => w.die == die) = false →
    exec (.rebuildSwap die) s = .next (settle (showPg (pumpRebuild (endRebuild (setRb (setF
      { setF t F.PG_STATE_ACT_BANK die 0 bank with walks := ((setF t F.PG_STATE_ACT_BANK die 0 bank).walks.map
        (fun w => if w.die = die then { w with preswap := true } else w)) } F.PG_STATE_REBUILD die 0 0) die
          { getRb s die with moved := k }) die) die) die))) ∧
  (∀ (s : State) (die seq owner first last : Nat), (walkOk s die seq owner = false ∨ last < first) →
    exec (.walkBegin die seq owner first last) s = .next s) ∧
  (∀ (s : State) (die seq owner first last : Nat), walkOk s die seq owner = true → first ≤ last → freeWalk s die = none →
    exec (.walkBegin die seq owner first last) s = .next { s with walkq := s.walkq ++ [(die, seq, owner, first, last)] }) ∧
  (∀ (s t : State) (die seq owner first last : Nat) (x : SeqRec) (slot : Nat) (mine : List Nat), walkOk s die seq owner = true →
    first ≤ last → getSeq s seq = some x → freeWalk s die = some slot →
    mine = ((List.range x.mapped).filter (fun i => decide (firstPage x ≤ i))).filter
      (fun i => decide (first / seqPos x ≤ i ∧ i ≤ last / seqPos x)) →
    t = { s with
      walks := s.walks ++ [⟨die, slot, seq, mine.headD 1, mine.getLastD 0, s.stamp + 1, false, x.epoch, x.maxLen,
        ((((List.range x.mapped).filter (fun i => decide (firstPage x ≤ i))).filter (fun i => mine.contains i)).map
          (fun i => (i, pageEnt s seq x i))).filter (fun e => e.2.valid), none⟩]
      stamp := s.stamp + 1 } →
    exec (.walkBegin die seq owner first last) s = .next (showPg (addF
      ((((List.range x.mapped).filter (fun i => decide (firstPage x ≤ i))).filter (fun i => mine.contains i)).foldl (fun s i =>
        if (pageEnt s seq x i).valid then setPageEnt s seq x i { pageEnt s seq x i with age := ageNow s } else s) t)
      F.PG_CNT_WALKS_WALKS die 0 1) die)) ∧
  (∀ (s : State) (die slot : Nat) (w : Walk), s.walks.find? (fun w => w.die == die && w.slot == slot) = some w →
    exec (.walkEnd die slot) s = .next (finishAll (showPg (pumpRebuild (endWalk s w) die) die))) ∧
  (∀ (s : State) (die entry : Nat) (ok : Bool) (r : Remap),
    s.remaps.find? (fun r => r.die == die && r.why != 1 && r.copied.isNone && pageCmd r == entry) = some r → r.why = 0 →
    ∀ t, t = { noteCopy s ok r.addr with remaps := updFirst (fun x => x == r) (fun x => { x with copied := some ok }) s.remaps } →
    ((t.remaps.any (fun x => x.seq == r.seq && x.why == 0 && x.copied.isNone) || pagesLeft t r.seq) = true →
      exec (.remapCopyDone die entry ok) s = .next (settle t)) ∧
    ((t.remaps.any (fun x => x.seq == r.seq && x.why == 0 && x.copied.isNone) || pagesLeft t r.seq) = false →
      exec (.remapCopyDone die entry ok) s =
      .next (settle (showPg (landEdit t r.seq) die)))) ∧
  (∀ (s : State) (die entry : Nat) (ok : Bool) (r : Remap),
    s.remaps.find? (fun r => r.die == die && r.why != 1 && r.copied.isNone && pageCmd r == entry) = some r → r.why ≠ 0 →
    ∀ t, t = { noteCopy s ok r.addr with remaps := delFirst (fun x => x == r) s.remaps } →
    ((ok && remapGood s r) = true → exec (.remapCopyDone die entry ok) s = .next (settle (fenceEmptied (showPg (pumpRebuild
      (landAlone (if r.why = 2 then setRb t die { getRb t die with moved := (getRb t die).moved + 1 } else t) r) die) die)))) ∧
    ((ok && remapGood s r) = false → exec (.remapCopyDone die entry ok) s = .next (settle (fenceEmptied (showPg (pumpRebuild
      (releaseTarget (if remapLive s r then updRemapEnt t r (fun e => { e with moving := false }) else t) r) die) die))))) ∧
  (∀ (s : State) (die entry : Nat) (r : Remap),
    s.remaps.find? (fun r => r.die == die && r.why == 1 && r.copied.isNone && pageCmd r == entry) = some r →
    ∀ t, t = { noteCopy s true r.addr with remaps := delFirst (fun x => x == r) s.remaps } → remapGood t r = true →
    exec (.pgDemotionDone die entry true) s =
      .next (settle (showPg (landAlone (noteDemoted (addF t F.PG_CNT_DEMOTE_DEMOTE die 0 1) r) r) die))) ∧
  (∀ (s t u : State) (die entry : Nat) (ok : Bool) (r : Remap),
    s.remaps.find? (fun r => r.die == die && r.why == 1 && r.copied.isNone && pageCmd r == entry) = some r →
    t = { noteCopy s ok r.addr with remaps := delFirst (fun x => x == r) s.remaps } → (ok && remapGood t r) = false →
    u = (if remapLive t r then updRemapEnt t r (fun e => { e with moving := false }) else addF t F.PG_CNT_STALE_STALE die 0 1) →
    (grower u r = none → exec (.pgDemotionDone die entry ok) s = .next (settle u)) ∧
    (∀ n y v x e, grower u r = some (n, y) → v = updEdit u n (fun e => { e with tried := e.tried ++ [(r.seq, r.page)] }) →
      getSeq v n = some x → x.current = some e →
      exec (.pgDemotionDone die entry ok) s = .next (settle (showPg (parkStep v n x e) die)))) ∧
  (∀ (s : State) (die seq : Nat) (x : SeqRec) (e : Edit), getSeq s seq = some x → x.current = some e → seq / 4096 = die →
    e.parked.isSome = true → exec (.appendParkTimeout die seq) s = .next (settle (showPg (preempt s seq) die))) ∧
  (∀ (s : State) (die : Nat), isComp die = true → stFenced s die 0x0C = false → exec (.pgAgeSweep die) s = .next
    { s with pmap := s.pmap.map (fun p => if entKey s die 0 ≤ p.1 ∧ p.1 < entKey s die 0 + 131072 ∧ p.2.valid = true ∧
      decide ((ageNow s + 65536 - p.2.age) % 65536 > 32768) = true then
        (p.1, { p.2 with age := (ageNow s + 65536 - 32768) % 65536 }) else p) }) ∧
  (∀ (s : State) (die : Nat), stFenced s die 0x0C = true → exec (.pgAgeSweep die) s = .next s)

/-! ## Schedules and shard entries -/

/-- R285, R294: a schedule starts when its conditions hold; ST_STOP stops the schedule of the named slot at its next END or at once, and
ends with DONE. -/
def Claims.Schedules : Prop :=
  (∀ (s : State) (q tag : Nat) (d : Desc) (h : Bytes) (cause : Nat), opDesc s q tag (fun i => opcode i == 0xA0) = some d →
    jobRead s d.fn (addrOf (fld d.image 0x10 8)) 0x140 = (h, cause) →
    (∀ r, firstFail ((runChecks s d h).take 3) = some r → exec (.stRun q tag) s = .next (settle (rejectOp s d CONFLICT r))) ∧
    (firstFail ((runChecks s d h).take 3) = none →
      (cause ≠ 0 → exec (.stRun q tag) s = .next (settle (endOp s d (causeStatus cause) (seqStation d) []))) ∧
      (cause = 0 → (∀ r, firstFail (runChecks s d h) = some r → exec (.stRun q tag) s = .next (settle (rejectOp s d CONFLICT r))) ∧
        (firstFail (runChecks s d h) = none → exec (.stRun q tag) s = .next (settle (startRun s d h)))))) ∧
  opRuns .stStopAtEnd (fun i => opcode i == 0xA1 && fld i 0x11 1 != 1) stopChecks (fun s d r => rejectOp s d CONFLICT r)
    (fun s d => endOp (match tget? s.scheds (schedKey (qDie d.queue) (bits (fld d.image 0x10 1) 0 2)) with
      | some c => setSched s (schedKey (qDie d.queue) (bits (fld d.image 0x10 1) 0 2))
          (if c.stopping = 0 then { c with stopping := 2 } else c)
      | none => s) d DONE (seqStation d) []) ∧
  opRuns .stStopNow (fun i => opcode i == 0xA1 && fld i 0x11 1 == 1) stopChecks (fun s d r => rejectOp s d CONFLICT r)
    (fun s d => endOp (match tget? s.scheds (schedKey (qDie d.queue) (bits (fld d.image 0x10 1) 0 2)) with
      | some c => setSched s (schedKey (qDie d.queue) (bits (fld d.image 0x10 1) 0 2)) (stopSched c DONE 0 none)
      | none => s) d DONE (seqStation d) [])

/-- R289, R291: an entry that a lane can release is released; a fault of its read or a bad entry stops the schedule; a schedule that has
stopped or whose die does not serve releases nothing. -/
def Claims.EntryRelease : Prop :=
  ∀ (s : State) (die slot : Nat) (t : State) (c : Schedule), t = noteSlotWaits s (schedKey die (slot % 4)) →
    (tget? t.scheds (schedKey die (slot % 4)) = none → exec (.entryRelease die slot) s = .next t) ∧
    (tget? t.scheds (schedKey die (slot % 4)) = some c →
      ((c.stopping = 3 ∨ dieServes t die = false) → exec (.entryRelease die slot) s = .next t) ∧
      (c.stopping ≠ 3 → dieServes t die = true →
        (pickLane t (schedKey die (slot % 4)) c = none → exec (.entryRelease die slot) s = .next t) ∧
        (∀ l i e, pickLane t (schedKey die (slot % 4)) c = some (l, i, e, 0, none) → exec (.entryRelease die slot) s =
          .next (settle (releaseEntry t (schedKey die (slot % 4)) l c i e))) ∧
        (∀ l i e r, pickLane t (schedKey die (slot % 4)) c = some (l, i, e, 0, some r) → exec (.entryRelease die slot) s =
          .next (settle (setSched t (schedKey die (slot % 4)) (stopSched c CONFLICT r (some i))))) ∧
        (∀ l i e cause bad, cause ≠ 0 → pickLane t (schedKey die (slot % 4)) c = some (l, i, e, cause, bad) →
          exec (.entryRelease die slot) s = .next (settle (setSched t (schedKey die (slot % 4)) (stopSched c (causeStatus cause) 0 (some i)))))))

/-- R285, R289, R291, R294: stage schedules. -/
def Obligations.ScheduleRuns : Prop :=
  Claims.Schedules ∧ Claims.EntryRelease

/-- R301, R302: the five operations on a shard entry: define, begin, commit, query and free; a failed check ends the descriptor with
FAULT_PROTECTION for reason 9 and CONFLICT for any other; a fenced reduction engine ends it FENCED. -/
def Obligations.ShardEntries : Prop :=
  ∀ (s : State) (q tag : Nat) (d : Desc) (p : Nat → Bool) (c : Instr),
    (c = .shCtlDefine q tag ∧ p = (fun op => op == 0 || decide (op > 4)) ∨ c = .shCtlBeginUpdate q tag ∧ p = (· == 1) ∨
      c = .shCtlCommit q tag ∧ p = (· == 2) ∨ c = .shCtlQuery q tag ∧ p = (· == 3) ∨ c = .shCtlFree q tag ∧ p = (· == 4)) →
    opDesc s q tag (fun i => opcode i == 0xA2 && p (fld i 0x12 1)) = some d →
    (∀ r, firstFail (shChecks s d) = some r →
      exec c s = .next (settle (rejectOp s d (if r = 9 then FAULT_PROTECTION else CONFLICT) r))) ∧
    (firstFail (shChecks s d) = none → stFenced s (qDie q) 0x20 = true → exec c s = .next (settle (endOp s d FENCED 0x20 []))) ∧
    (firstFail (shChecks s d) = none → stFenced s (qDie q) 0x20 = false → ∀ n x, n = fld d.image 0x10 2 → x = getShard s (qDie q) n →
      (c = .shCtlDefine q tag → exec c s = .next (settle (endOp
        (setShard s (qDie q) n ⟨fld d.image 0x14 4, fld d.image 0x18 2, 0, 1, none, []⟩) d DONE 0x20 []))) ∧
      (c = .shCtlFree q tag → exec c s = .next (settle (endOp (setShard s (qDie q) n Shard.free) d DONE 0x20 []))) ∧
      (c = .shCtlCommit q tag → exec c s = .next (settle (endOp (x.force.foldl (fun s f => applyForce s (qDie q) n f)
        (setShard s (qDie q) n { x with step := (x.step + 1) % 2 ^ 32, state := 1, force := [] })) d DONE 0x20 []))) ∧
      (c = .shCtlBeginUpdate q tag → snapAwaits s (qDie q) n = false → ∀ t done, applyOp1 s (qDie q) n q tag = (t, done) →
        exec c s = .next (settle (if done then endOp t d DONE 0x20 [] else holdRd t q tag))) ∧
      (c = .shCtlBeginUpdate q tag → snapAwaits s (qDie q) n = true →
        ∀ t, t = holdRd { s with opWaits := s.opWaits ++ [(q, tag)] } q tag → exec c s = .next (settle (addF
          { t with sets := (t.sets.map (fun p => if (extsOf p.2 (qDie q) n).isEmpty then p
            else (p.1, { p.2 with run := p.2.run.map (fun r => { r with opwait := true }) }))) } F.SN_CNT_OPWAIT_OPWAIT f0 0 1))) ∧
      (c = .shCtlQuery q tag → exec c s = .next (settle (runOut s d 0x20 [rawWrite (fld d.image 0x20 8)
        (toLe 4 x.step ++ toLe 2 x.epoch ++ toLe 2 x.refs ++ toLe 1 x.state ++ toLe 1 0 ++
          toLe 2 (sat 65535 (shardWaiting s (qDie q) n)) ++ toLe 4 0) 0 0]))))

/-! ## Memory tiers and objects -/

/-- R325, R330, R332, R343, R628: map, unmap, move, pin and query of pages. -/
def Claims.TierOps : Prop :=
  opRuns .tmMap (fun i => opcode i == 0x88) mapChecks rejectTier runMap ∧
  opRuns .tmUnmap (fun i => opcode i == 0x89) pageChecks rejectTier (startJob true) ∧
  opRuns .tmMove (fun i => opcode i == 0x8A) pageChecks rejectTier (startJob false) ∧
  opRuns .tmPinSet (fun i => opcode i == 0x8B && fld i 0x1C 1 != 0) pageChecks rejectTier (runPin true) ∧
  opRuns .tmPinClear (fun i => opcode i == 0x8B && fld i 0x1C 1 == 0) pageChecks rejectTier (runPin false) ∧
  opRuns .tmQuery (fun i => opcode i == 0x8C) pageChecks rejectTier (fun s d =>
    runMover (setDetail s d.queue d.tag (tierDetail (pagesFrom s d.fn (fld d.image 0x18 4) (fld d.image 0x10 8)).length 0))
      d ((pagesFrom s d.fn (fld d.image 0x18 4) (fld d.image 0x10 8)).zipIdx.map
        (fun x => rawWrite (fld d.image 0x20 8 + 32 * x.2) (queryRecord s x.1.2) 0 x.2)))

/-- R347, R348: a put replaces an object whole when the flash has room for it, and is refused with TIER_FULL otherwise; a delete removes
it; a get reads a range within it and a stat its length and tick; an absent object, or a range past its end, ends OBJ_ABSENT. -/
def Claims.FlashObjects : Prop :=
  ∀ (s : State) (q tag op key : Nat) (d : Desc), opDesc s q tag (fun i => opcode i == 0x8D &&
      (if op = 0 then fld i 0x30 1 == 0 || decide (fld i 0x30 1 > 3) else fld i 0x30 1 == op)) = some d →
    key = fld d.image 0x18 8 → firstFail (objChecks s d) = none →
    (op = 0 → ∀ bs cause, jobRead s d.fn (fld d.image 0x10 8) (fld d.image 0x20 8) = (bs, cause) →
      (cause ≠ 0 → exec (.tmObjPut q tag) s = .next (settle (endOp s d (causeStatus cause) (pickMover s (qDie q)) []))) ∧
      (cause = 0 → ∀ old, old = ((findObj s d.fn key).map (fun o => ceilDiv o.data.length region)).getD 0 →
        (ceilDiv (fld d.image 0x20 8) region > moduleFlash s + old → exec (.tmObjPut q tag) s =
          .next (settle (endOp s d TIER_FULL (seqStation d) []))) ∧
        (ceilDiv (fld d.image 0x20 8) region ≤ moduleFlash s + old → exec (.tmObjPut q tag) s = .next (settle (endOp
          (([24, 25, 26, 27, 28, 29, 30, 31] : List Nat).foldl wearFlash
            { touchRead s d.fn (fld d.image 0x10 8) (fld d.image 0x20 8) with
              objects := (dropObj (touchRead s d.fn (fld d.image 0x10 8) (fld d.image 0x20 8)) d.fn key ++ [⟨d.fn, key, now s, bs⟩]) })
          d DONE (seqStation d) (tierDetail (fld d.image 0x20 8 / 4096) 0)))))) ∧
    (op = 1 → ∀ o, findObj s d.fn key = some o →
      (fld d.image 0x28 8 + fld d.image 0x20 8 > o.data.length → exec (.tmObjGet q tag) s =
        .next (settle (endOp s d OBJ_ABSENT (seqStation d) []))) ∧
      (fld d.image 0x28 8 + fld d.image 0x20 8 ≤ o.data.length →
        (lostPieces s (fld d.image 0x28 8) (fld d.image 0x20 8) = true → exec (.tmObjGet q tag) s =
          .next (settle (endOp s d FENCED (pickMover s (qDie q)) []))) ∧
        (lostPieces s (fld d.image 0x28 8) (fld d.image 0x20 8) = false → exec (.tmObjGet q tag) s =
          .next (settle (runMover (setDetail s q tag (tierDetail (fld d.image 0x20 8 / 4096) 0)) d (bytesOut (fld d.image 0x10 8)
            ((o.data.drop (fld d.image 0x28 8)).take (fld d.image 0x20 8)))))))) ∧
    (op = 2 → ∀ o, findObj s d.fn key = some o → exec (.tmObjDelete q tag) s = .next (settle (endOp
      { s with objects := dropObj s d.fn key } d DONE (seqStation d) (tierDetail 0 0)))) ∧
    (op = 3 → ∀ o, findObj s d.fn key = some o → exec (.tmObjStat q tag) s = .next (settle (runMover
      (setDetail s q tag (tierDetail 0 0)) d [rawWrite (fld d.image 0x10 8) (toLe 8 o.data.length ++ toLe 8 o.tick) 0 0]))) ∧
    (findObj s d.fn key = none →
      (op = 1 → exec (.tmObjGet q tag) s = .next (settle (endOp s d OBJ_ABSENT (seqStation d) []))) ∧
      (op = 2 → exec (.tmObjDelete q tag) s = .next (settle (endOp s d OBJ_ABSENT (seqStation d) []))) ∧
      (op = 3 → exec (.tmObjStat q tag) s = .next (settle (endOp s d OBJ_ABSENT (seqStation d) []))))

/-- R325, R330, R332, R343, R347, R348, R628: pages of the memory tiers, and objects in flash. -/
def Obligations.Tiers : Prop :=
  Claims.TierOps ∧ Claims.FlashObjects

/-- R330, R336, R339, R342: a move lands at its target, fails back to its source, or loses the region with its source; a release frees a
moved source; the tier manager demotes on a memory die that is not fenced; a far device that fails is recorded, and its regions and pages
are lost. -/
def Obligations.TierEvents : Prop :=
  (∀ (s : State) (rec : Nat) (m : Move), moveOf s rec = some m →
    (∀ chunks, exec (.moveCopyDone rec chunks .sourceFailed) s = .next (settle (failMove
      (noteCopy s false (locAddr (getHome s rec).tier (getHome s rec).location)) m true TIER_ERROR))) ∧
    (∀ chunks res, res ≠ .sourceFailed → (getHome s rec).state = 3 → exec (.moveCopyDone rec chunks res) s = .next (settle (failMove
      (noteCopy s true (locAddr (getHome s rec).tier (getHome s rec).location)) m true TIER_ERROR))) ∧
    (∀ chunks, (getHome s rec).state ≠ 3 →
      exec (.moveCopyDone rec chunks .targetFailed) s = .next (settle (failMove (logTier s (locAddr m.tier m.location)) m false TIER_ERROR)) ∧
      (destLost s m = true → exec (.moveCopyDone rec chunks .copied) s = .next (settle (failMove s m false FENCED))) ∧
      (destLost s m = false → exec (.moveCopyDone rec chunks .copied) s = .next (settle (goOn s m chunks))))) ∧
  (∀ (s : State) (rec : Nat), exec (.moveSourceRelease rec) s = .next (fenceEmptied { s with
    releases := delFirst (fun x => x.record == rec && !issuedOn s (locAddr x.tier x.location)) s.releases })) ∧
  (∀ (s : State) (mdie : Nat), isMem mdie = true →
    (dieFenced s mdie = false → exec (.policyDemote mdie) s = .next (policyOne (policyOne (policyOne s mdie 0) mdie 1) mdie 2)) ∧
    (dieFenced s mdie = true → exec (.policyDemote mdie) s = .next s)) ∧
  (∀ (s t : State) (die mover : Nat) (r : Req), stFenced s die mover = false → (moverReqs s die mover).head? = some r →
    t = noteLate s r.spans →
    (r.write = true → exec (.tierAccessTimeout die mover) s =
      .next (pump (closeReq (releaseOut t die mover r) die mover r TIER_ERROR))) ∧
    (r.write = false → exec (.tierAccessTimeout die mover) s = .next (pump (closeReq { (freshFree t).2 with
      slots := (freshFree t).2.slots ++ [⟨die, mover, r.stream, r.job, fnOf t r.queue r.tag,
        freeBytes (t.freeCtr * 2 ^ 40) (geoBytes r.job.geo), 4, 0, none, none, 1, false, r.queue, r.tag, r.tile⟩] } die mover r 0)))) ∧
  (∀ (s : State) (mdie dev : Nat), (isMem mdie = false ∨ flag s F.TM_STATE_FAR_OK mdie = false) →
    exec (.farDeviceFail mdie dev) s = .next s) ∧
  (∀ (s t : State) (mdie dev : Nat), isMem mdie = true → flag s F.TM_STATE_FAR_OK mdie = true →
    t = logRec (setF s F.TM_STATE_FAR_OK mdie 0 0) 1 mdie 0xFF 4 0 0 → t.homes = [] → t.moves = [] →
    exec (.farDeviceFail mdie dev) s = .next (showLevel (settle (loseFarPages t (mdie - 24)))))

/-! ## Movers -/

/-- R368-R370: the three mover operations; a failed check ends the descriptor with CONFLICT and the reason. -/
def Claims.MoverOps : Prop :=
  opRuns .mvCopy (fun i => opcode i == 0x80) (fun _ d => copyChecks false d.image) (fun s d r => rejectOp s d CONFLICT r)
    (fun s d => runCopy s d false) ∧
  opRuns .mvFill (fun i => opcode i == 0x81) (fun _ d => copyChecks true d.image) (fun s d r => rejectOp s d CONFLICT r)
    (fun s d => runCopy s d true) ∧
  opRuns .mvIndexed (fun i => opcode i == 0x82) (fun _ d => indexedChecks d.image) (fun s d r => rejectOp s d CONFLICT r) runIndexed

/-- R352, R355, R364, R366: a mover's oldest read delivers its tile to a slot and its oldest write stores its bytes and counts them where
the store succeeds, each of them then lets the mover issue again; a tile under `nopf` is left where the read is no demand; a slot at the
tail whose region changed, or that waited too long, is fetched again once no write to its source is outstanding, and any other is published
and handed over; neither a read nor a write ends at a fenced mover. -/
def Claims.MoverEvents : Prop :=
  (∀ (s : State) (die mover : Nat) (demand badEcc : Bool) (r : Req), oldestReq s die mover false = some r →
    (stFenced s die mover = true → exec (.moverReadDone die mover demand badEcc) s = .next s) ∧
    (stFenced s die mover = false → isNopf s (fnOf s r.queue r.tag) r.job.geo.va (imageOf s r.queue r.tag) = false →
      exec (.moverReadDone die mover demand badEcc) s = .next (pump (endRead s die mover r (refreshed s r.spans) demand badEcc))) ∧
    (stFenced s die mover = false → isNopf s (fnOf s r.queue r.tag) r.job.geo.va (imageOf s r.queue r.tag) = true →
      exec (.moverReadDone die mover false badEcc) s = .next (addF s F.MV_CNT_NOPF_NOPF die (mover - 0x28) 1) ∧
      exec (.moverReadDone die mover true badEcc) s =
        .next (pump (endRead s die mover r (geoSpans s (fnOf s r.queue r.tag) r.job.geo) true badEcc)))) ∧
  (∀ (s t : State) (die mover : Nat) (r : Req), oldestReq s die mover true = some r →
    (stFenced s die mover = true → exec (.moverWriteAck die mover) s = .next s) ∧
    (stFenced s die mover = false →
      (writeStatus s (refreshed s r.spans) = 0 →
        t = countNarrow (moverCount (writeSpans s 32 r.poison (refreshed s r.spans) r.data) die mover r.queue r.tag
          (geoBytes r.job.geo)) die mover r →
        exec (.moverWriteAck die mover) s = .next (settle (closeReq (releaseOut t die mover r) die mover r 0))) ∧
      (writeStatus s (refreshed s r.spans) ≠ 0 → exec (.moverWriteAck die mover) s =
        .next (settle (closeReq (releaseOut s die mover r) die mover r (writeStatus s (refreshed s r.spans))))))) ∧
  (∀ (s : State) (die stream : Nat) (x : Slot), s.slots.find? (fun x => x.die == die && x.stream == stream) = some x →
    (tailReached s die stream = false → exec (.slotCommit die stream) s = .next s) ∧
    (tailReached s die stream = true → (isStale s x || (x.aged && decide (x.fetches < 5))) = true →
      (behindWrite s die (geoSpans s x.fn x.job.geo) = true → exec (.slotCommit die stream) s = .next s) ∧
      (∀ ys t, behindWrite s die (geoSpans s x.fn x.job.geo) = false → refetchAll die stream s.slots true s = (ys, t) →
        exec (.slotCommit die stream) s = .next { t with slots := ys })) ∧
    (tailReached s die stream = true → (isStale s x || (x.aged && decide (x.fetches < 5))) = false →
      exec (.slotCommit die stream) s = .next (settle (commitSlot s x)))) ∧
  (∀ (s : State) (die stream : Nat), exec (.slotAgeExpiry die stream) s = .next { s with
    slots := (updFirst (fun x => x.die == die && x.stream == stream) (fun x => if x.source.isSome then { x with aged := true } else x)
      s.slots) })

/-- R352, R364, R366, R368-R370: the movers. -/
def Obligations.Movers : Prop :=
  Claims.MoverOps ∧ Claims.MoverEvents


/-! ## Links, ports and fabric transactions -/

/-- R380: a flit that fails its FEC or its CRC is counted and discarded; one in sequence takes effect and one out of sequence is
discarded; a port that is not ACTIVE takes none. -/
def Claims.FlitReceive : Prop :=
  ∀ (s t : State) (port corrected : Nat) (flit : Bytes),
    (portActive s port = false → ∀ fec, exec (.flitReceive port flit fec corrected) s = .next s) ∧
    (portActive s port = true → t = addF s F.FAB_PORT_FEC_CORR (portDie port) (portLoc port) corrected →
      exec (.flitReceive port flit false corrected) s =
        .next (discardFlit (flitError t port F.FAB_PORT_UNCORR_UNCORR) port) ∧
      (flitGood flit = false → exec (.flitReceive port flit true corrected) s =
        .next (discardFlit (flitError t port F.FAB_PORT_CRC_CRC) port)) ∧
      (flitGood flit = true → flitSeq flit ≠ (getPort t port).expect →
        exec (.flitReceive port flit true corrected) s = .next (discardFlit t port)) ∧
      (flitGood flit = true → flitSeq flit = (getPort t port).expect →
        exec (.flitReceive port flit true corrected) s = .next (runRings (settle (goodFlit t port flit)))))

/-- R408-R412, R459: what a port does on its enable, training, margining, lane error, retrain and loss, by its state. -/
def Claims.PortEvents : Prop :=
  ∀ (s : State) (src : Src) (port value : Nat),
    (reaches s (portDie port) → isPfSrc src = true →
      (bit value 0 = true → exec (.portEnable src port value) s = .next (writePortCfg s src port value)) ∧
      (bit value 0 = false → exec (.portDisable src port value) s = .next (writePortCfg s src port value))) ∧
    (∀ lanes t, portState s port = 1 → 4 ≤ (lanesIn lanes).length → t = setMode (setPortState (setPort s port { PortInt.reset with
        partner := true, narrowed := decide ((lanesIn lanes).length < 8) }) port 2) port →
      exec (.portTrained port lanes) s = .next (settle (retryWaits (setF t F.FAB_PORT_LANES_MAP (portDie port) (portLoc port)
        (laneMap (if flag t F.FAB_PORT_STATE_NARROW (portDie port) (portLoc port) then (lanesIn lanes).take 4 else lanesIn lanes)))))) ∧
    (∀ lanes, (portState s port ≠ 1 ∨ (lanesIn lanes).length < 4) → exec (.portTrained port lanes) s = .next s) ∧
    (portState s port = 1 → exec (.trainingTimeout port) s = .next (portDown s port)) ∧
    (portState s port ≠ 1 → exec (.trainingTimeout port) s = .next s) ∧
    (portState s port = 2 → (getPort s port).margined = false → ∀ t, t = setPort s port { getPort s port with margined := true } →
      exec (.portMarginingDone port) s = .next (if (isCopper port && !cfgHalf t port) = true then settle (toRetrain t port) else t)) ∧
    (∀ lane, portState s port = 2 → (usedLanes s port).contains lane = true →
      (flag s F.FAB_PORT_STATE_NARROW (portDie port) (portLoc port) = true →
        exec (.laneErrorRetrain port lane) s = .next (portDown s port)) ∧
      (flag s F.FAB_PORT_STATE_NARROW (portDie port) (portLoc port) = false → exec (.laneErrorRetrain port lane) s =
        .next (settle (toRetrain (narrowRecord (setF (setPort s port { getPort s port with narrowed := true }) F.FAB_PORT_LANES_MAP
          (portDie port) (portLoc port) (laneMap (((List.range 8).filter (· != lane)).take 4))) port lane) port)))) ∧
    (portState s port = 3 → s.remargin.contains port = false → ∀ t, t = setMode (setPortState s port 2) port →
      exec (.retrainDone port) s = .next (settle (retryWaits (if flag t F.FAB_PORT_STATE_NARROW (portDie port) (portLoc port) ||
        (getPort t port).narrowed then t else setF t F.FAB_PORT_LANES_MAP (portDie port) (portLoc port) 0xFAC688))) ∧
      exec (.retrainTimeout port) s = .next (portDown s port)) ∧
    ((portState s port ≠ 3 ∨ s.remargin.contains port = true) → exec (.retrainDone port) s = .next s ∧
      exec (.retrainTimeout port) s = .next s) ∧
    (portState s port = 2 → exec (.noFlitTimeout port) s = .next (portDown s port) ∧
      exec (.portLost port) s = .next (portDown s port)) ∧
    (portState s port = 4 → (portEnabled s port = true → exec (.retrainHoldExpiry port) s = .next (toTraining s port)) ∧
      (portEnabled s port = false → exec (.retrainHoldExpiry port) s = .next (setPortState s port 0))) ∧
    (∀ t, t = setPort s port { getPort s port with partner := true } →
      ((portEnabled t port && portState t port == 0) = true → exec (.portPartnerDetected port) s = .next (toTraining t port)) ∧
      ((portEnabled t port && portState t port == 0) = false → exec (.portPartnerDetected port) s = .next t))

/-- R380, R408-R412, R459: the Eskan ports. -/
def Obligations.Ports : Prop :=
  Claims.FlitReceive ∧ Claims.PortEvents

/-- R395-R397, R405-R407: a transaction of the command's type is taken by its receiver, by way of a port or inside the package. -/
def Claims.Transactions : Prop :=
  ∀ (s : State) (port : Option Nat) (t : Tx) (k : Nat) (c : Instr),
    (c = .write port t ∧ k = 1 ∨ c = .ack port t ∧ k = 2 ∨ c = .nack port t ∧ k = 3 ∨ c = .signal port t ∧ k = 4 ∨
      c = .read port t ∧ k = 5 ∨ c = .readData port t ∧ k = 6 ∨ c = .prune port t ∧ k = 8) →
    (t.type = k → exec c s = .next (settle (recvTx s port t))) ∧ (t.type ≠ k → exec c s = .next s)

/-- R388, R389, R392: a transaction for another module that arrives by a port leaves by a port of its rule that is ACTIVE, has room and
has its credits; where none has, it waits and nothing is sent. That the floors of the other end are those of the port's own fabric die
is the model's choice (log entry 101). -/
def Obligations.CreditLimits : Prop :=
  (∀ (s : State) (q : Nat) (t : Tx), portActive s q = true → t.type = 1 → goodModule t.dstModule = true → isGroup t.dstModule = false →
    toSelf s t.dstModule = false → selfValid s = true →
    exec (.write (some q) t) s = .next (settle (queueTx s ⟨t, portDie q, some q, 2 * (portDie q - 16), none⟩))) ∧
  (∀ (s : State) (w : Waiting), s.waits = [] → (∀ p ∈ waitPorts s w, portTakes s w.port w.tx p = false) →
    (queueTx s w).waits = [w] ∧ (queueTx s w).ports = s.ports ∧ (queueTx s w).out = s.out) ∧
  (∀ (s : State) (w : Waiting), s.waits = [] → (queueTx s w).waits = [] →
    ∃ p ∈ waitPorts s w, portActive s p = true ∧ portTakes s w.port w.tx p = true)

/-- R520: a notice arrives by an ACTIVE port, or from a die of the package. -/
def Claims.NoticeArrives : Prop :=
  ∀ (s : State) (p : Nat) (n : Notice),
    (portActive s p = true → exec (.notice (some p) n) s = .next (recvNotice s (some p) n)) ∧
    (portActive s p = false → exec (.notice (some p) n) s = .next s) ∧
    exec (.notice none n) s = .next (recvNotice s none n)

/-- R397, R398, R405-R407: the timers of flows and multicast transfers. -/
def Claims.FlowTimers : Prop :=
  (∀ (s : State) (flow : Nat) (f : RxFlow), tget? s.rxFlows flow = some f →
    (f.owed ≠ 0 → exec (.flowAckTimer flow) s = .next (ackFlow s (flowDie flow) (flowTx flow) f)) ∧
    (f.owed = 0 → exec (.flowAckTimer flow) s = .next s)) ∧
  (∀ (s : State) (flow : Nat) (f : TxFlow), tget? s.txFlows flow = some f →
    (f.busy = true → exec (.flowBusyRetry flow) s = .next (f.unacked.foldl (fun s x => transmit s x.tx)
      { s with txFlows := tins s.txFlows flow { f with busy := false } })) ∧
    (f.busy = false → exec (.flowBusyRetry flow) s = .next s)) ∧
  (∀ (s : State) (flow : Nat) (f : TxFlow), tget? s.txFlows flow = some f → tget? s.rxFlows flow = none →
    (f.unacked = [] → f.waiting = [] → exec (.flowIdleRelease flow) s = .next { s with txFlows := tdel s.txFlows flow }) ∧
    ((f.unacked ≠ [] ∨ f.waiting ≠ []) → exec (.flowIdleRelease flow) s = .next s)) ∧
  (∀ (s : State) (flow : Nat) (f : RxFlow), tget? s.txFlows flow = none → tget? s.rxFlows flow = some f →
    (f.owed = 0 → exec (.flowIdleRelease flow) s = .next (showFlows { s with rxFlows := tdel s.rxFlows flow } (flowDie flow))) ∧
    (f.owed ≠ 0 → exec (.flowIdleRelease flow) s = .next s)) ∧
  (∀ (s : State) (flow : Nat) (w : Waiting), s.waits.find? (fun w => txKey w.tx == flow) = some w →
    (heldByDrain s w = true → exec (.lossLimitExpiry flow) s = .next s) ∧
    (heldByDrain s w = false → exec (.lossLimitExpiry flow) s =
      .next (settle (failTx (discardTx { s with waits := delFirst (· == w) s.waits } w.port) w.tx LINK_LOST)))) ∧
  (∀ (s : State) (flow : Nat) (f : TxFlow) (x : Sent) (xs : List Sent), s.waits.find? (fun w => txKey w.tx == flow) = none →
    tget? s.txFlows flow = some f → f.unacked = x :: xs →
    exec (.lossLimitExpiry flow) s = .next (settle (failMicro s x.queue x.tag x.idx LINK_LOST))) ∧
  (∀ (s : State) (die xfer : Nat) (r : McRecv), mcRecvOf s die xfer = some r → (r.lagging = false ∧ recvDone r = false →
      exec (.multicastLagTimeout die xfer) s = .next (pruneRecv s die xfer r.cls)) ∧
    ((r.lagging = true ∨ recvDone r = true) → exec (.multicastLagTimeout die xfer) s = .next s)) ∧
  (∀ (s : State) (fdie port group xfer behind idle : Nat),
    (isFab fdie && bit (mcEntry s fdie (activeBank s fdie) group) 95 && bit (bits (mcEntry s fdie (activeBank s fdie) group) 32 48) port
      && !s.pruned.contains (xfer, port)) = true → s.mcSends = [] → s.mcRecvs = [] →
    ((behind ≥ getF s F.FAB_MC_LAG_FLITS fdie ∨ idle ≥ getF s F.FAB_MC_LAG_TIME fdie) →
      exec (.multicastBranchPrune fdie port group xfer behind idle) s = .next (pruneBranch s fdie port xfer group 2)) ∧
    (behind < getF s F.FAB_MC_LAG_FLITS fdie → idle < getF s F.FAB_MC_LAG_TIME fdie →
      exec (.multicastBranchPrune fdie port group xfer behind idle) s = .next s)) ∧
  (∀ (s : State) (die xfer : Nat) (m : McSend), mySend s die xfer = some m → exec (.retentionLimitExpiry die xfer) s =
    .next (settle (failMicro { s with calls := (s.calls.map (fun c => if c.queue = m.queue ∧ c.tag = m.tag ∧ opcode c.image = 0x62 then
      { c with count := mcDone m, expired := true } else c)) } m.queue m.tag m.idx m.late)))

/-- R395-R398, R405-R407, R520: transactions, notices and the timers of flows. -/
def Obligations.Fabric : Prop :=
  Claims.Transactions ∧ Claims.NoticeArrives ∧ Claims.FlowTimers

/-- R402, R500: the copy and the swap of the routing banks of a fabric die, the end of a copy, and the tick sent on an ACTIVE port. -/
def Claims.RoutingControl : Prop :=
  ∀ (s : State) (src : Src) (fdie : Nat), isFab fdie = true →
    (reaches s fdie → isPfSrc src = true → exec (.routeCopy src fdie) s = .next (startCopy s fdie) ∧
      exec (.routeSwap src fdie) s = .next (swapBanks s fdie)) ∧
    (flag s F.FAB_ROUTE_CTRL_BUSY fdie = true → exec (.routeCopyDone fdie) s =
      .next (answerCopy (setF (copyTables s fdie) F.FAB_ROUTE_CTRL_BUSY fdie 0 0))) ∧
    (flag s F.FAB_ROUTE_CTRL_BUSY fdie = false → exec (.routeCopyDone fdie) s = .next s) ∧
    (∀ port, portActive s port = true → exec (.tickAlignSend port) s = .next (emit s (.control port 2 (toLe 8 (now s))))) ∧
    (∀ port, portActive s port = false → exec (.tickAlignSend port) s = .next s)

/-- R458-R460: GO and RELEASE of a drain, its completion once nothing is held, and the end of its hold with TIMEOUT unless it has
drained. -/
def Claims.DrainControl : Prop :=
  ∀ (s : State) (src : Src) (fdie value : Nat), isFab fdie = true →
    (reaches s fdie → isPfSrc src = true →
      (bit value 6 = true → exec (.drainGo src fdie value) s = .next (drainWrite s fdie value)) ∧
      (bit value 7 = true → exec (.drainRelease src fdie value) s = .next (drainWrite s fdie value))) ∧
    (bit value 6 = false → exec (.drainGo src fdie value) s = .next s) ∧
    (bit value 7 = false → exec (.drainRelease src fdie value) s = .next s) ∧
    (flag s F.FAB_DRAIN_ACTIVE fdie = true →
      (((List.range 6).filter (fun i => bit (getF s F.FAB_DRAIN_PORTS fdie) i)).any (fun i => holdsDrained s (portOn fdie i)) = false →
        exec (.drainComplete fdie) s = .next (setF s F.FAB_DRAIN_DRAINED fdie 0 1)) ∧
      (((List.range 6).filter (fun i => bit (getF s F.FAB_DRAIN_PORTS fdie) i)).any (fun i => holdsDrained s (portOn fdie i)) = true →
        exec (.drainComplete fdie) s = .next s) ∧
      (flag s F.FAB_DRAIN_DRAINED fdie = true → exec (.drainHoldExpiry fdie) s = .next (endDrain s fdie)) ∧
      (flag s F.FAB_DRAIN_DRAINED fdie = false → exec (.drainHoldExpiry fdie) s =
        .next (endDrain (setF s F.FAB_DRAIN_TIMEOUT fdie 0 1) fdie))) ∧
    (flag s F.FAB_DRAIN_ACTIVE fdie = false → exec (.drainComplete fdie) s = .next s ∧ exec (.drainHoldExpiry fdie) s = .next s)

/-- R402, R458-R460, R500: routing banks and drains of a fabric die. -/
def Obligations.RoutingAndDrain : Prop :=
  Claims.RoutingControl ∧ Claims.DrainControl


/-! ## Collectives -/

/-- R418: a communicator slot is defined from its member list when the caller is the member at its rank, and retired by a call that waits
for the slot's other calls; a failed check, a rank that is not this die, or a reserved bit in a member entry (R10) ends the descriptor with
its reason. -/
def Claims.Communicators : Prop :=
  (∀ (s : State) (q tag : Nat) (d : Desc) (b : Bytes) (cause : Nat),
    opDesc s q tag (fun i => opcode i == 0x60 && fld i 0x11 1 != 1) = some d →
    jobRead s d.fn (addrOf (fld d.image 0x20 8)) (16 * fld d.image 0x14 4) = (b, cause) →
    (∀ r, firstFail (commChecks s d false) = some r → exec (.rdCommDefine q tag) s = .next (settle (rejectRd s d r))) ∧
    (firstFail (commChecks s d false) = none →
      (cause ≠ 0 → exec (.rdCommDefine q tag) s = .next (settle (completeDesc s d (causeStatus cause) (seqStation d) [] 0))) ∧
      (cause = 0 → ∀ ms me, ms = memberList b (fld d.image 0x14 4) → me = (ms.getD (fld d.image 0x18 4) (0, 0)).1 →
        ((me / 2 ^ 48 ≠ myId s ∨ me / 2 ^ 43 % 32 ≠ qDie q) → exec (.rdCommDefine q tag) s = .next (settle (rejectRd s d 4))) ∧
        (me / 2 ^ 48 = myId s → me / 2 ^ 43 % 32 = qDie q → badMembers b (fld d.image 0x14 4) = true →
          exec (.rdCommDefine q tag) s = .next (settle (rejectRd s d 7))) ∧
        (me / 2 ^ 48 = myId s → me / 2 ^ 43 % 32 = qDie q → badMembers b (fld d.image 0x14 4) = false →
          exec (.rdCommDefine q tag) s = .next (settle (endOp
          (setComm s (qDie q) (fld d.image 0x10 1) ⟨d.fn, fld d.image 0x12 2, fld d.image 0x18 4, ms, addrOf (fld d.image 0x28 8),
            fld d.image 0x30 8, spanOfComm s (qDie q) ms, groupSize ms, 0, ⟨[], [], []⟩⟩) d DONE 0x20
              (rdDetail 0 (fld d.image 0x14 4) 0))))))) ∧
  (∀ (s : State) (q tag : Nat) (d : Desc), opDesc s q tag (fun i => opcode i == 0x60 && fld i 0x11 1 == 1) = some d →
    (∀ r, firstFail (commChecks s d true) = some r → exec (.rdCommRetire q tag) s = .next (settle (rejectRd s d r))) ∧
    (firstFail (commChecks s d true) = none → exec (.rdCommRetire q tag) s = .next (startCall s d (fld d.image 0x10 1) [] false)))

/-- R425, R436, R444, R445: a reduction, an exchange of equal blocks and the two expert operations start a call on their communicator
when their checks pass. -/
def Claims.CollectiveCalls : Prop :=
  ∀ (s : State) (q tag slotAt : Nat) (d : Desc) (p : Bytes → Bool) (checks : State → Desc → List (Nat × Bool)) (c : Instr),
    (c = .rdReduce q tag ∧ p = (fun i => opcode i == 0x61) ∧ checks = reduceChecks ∧ slotAt = 0x24 ∨
      c = .rdA2a q tag ∧ p = (fun i => opcode i == 0x63) ∧ checks = a2aChecks ∧ slotAt = 0x24 ∨
      c = .rdExpertDispatch q tag ∧ p = (fun i => opcode i == 0x66 && fld i 0x35 1 != 1) ∧ checks = expertChecks ∧ slotAt = 0x36 ∨
      c = .rdExpertCombine q tag ∧ p = (fun i => opcode i == 0x66 && fld i 0x35 1 == 1) ∧ checks = expertChecks ∧ slotAt = 0x36) →
    opDesc s q tag p = some d →
    (firstFail (checks s d) = none → exec c s = .next (startCall s d (fld d.image slotAt 1) [] true)) ∧
    (∀ r, firstFail (checks s d) = some r → exec c s = .next (settle (rejectRd s d r)))

/-- R433, R439: a gather and a permute read their list, end with the cause of a read that fails or the reason of an entry that is bad,
and start a call otherwise. -/
def Claims.ListedCalls : Prop :=
  (∀ (s : State) (q tag n : Nat) (d : Desc) (b : Bytes) (cause : Nat), opDesc s q tag (fun i => opcode i == 0x62) = some d →
    n = (if fld d.image 0x29 1 = 2 then fld d.image 0x2A 2 else 0) →
    jobRead s d.fn (addrOf (fld d.image 0x30 8)) (64 * n) = (b, cause) →
    (∀ r, firstFail (gatherChecks s d) = some r → exec (.rdGather q tag) s = .next (settle (rejectRd s d r))) ∧
    (firstFail (gatherChecks s d) = none →
      (cause ≠ 0 → exec (.rdGather q tag) s = .next (settle (completeDesc s d (causeStatus cause) (seqStation d) [] 0))) ∧
      (cause = 0 → ∀ m, m = ((getComm s (qDie d.queue) (fld d.image 0x28 1)).map (·.n)).getD 0 →
        (∀ r, firstFail (listChecks m (cutList 64 n b)) = some r → exec (.rdGather q tag) s = .next (settle (rejectRd s d r))) ∧
        (firstFail (listChecks m (cutList 64 n b)) = none → exec (.rdGather q tag) s =
          .next (startCall s d (fld d.image 0x28 1) (cutList 64 n b) true))))) ∧
  (∀ (s : State) (q tag n : Nat) (d : Desc) (b : Bytes) (cause : Nat), opDesc s q tag (fun i => opcode i == 0x64) = some d →
    n = fld d.image 0x18 4 → jobRead s d.fn (addrOf (fld d.image 0x10 8)) (32 * n) = (b, cause) →
    (∀ r, firstFail (permuteChecks s d) = some r → exec (.rdPermute q tag) s = .next (settle (rejectRd s d r))) ∧
    (firstFail (permuteChecks s d) = none →
      (cause ≠ 0 → exec (.rdPermute q tag) s = .next (settle (completeDesc s d (causeStatus cause) (seqStation d) [] 0))) ∧
      (cause = 0 →
        (∀ r, firstFail (permuteMapChecks (cutList 32 n b)) = some r → exec (.rdPermute q tag) s = .next (settle (rejectRd s d r))) ∧
        (firstFail (permuteMapChecks (cutList 32 n b)) = none → exec (.rdPermute q tag) s =
          .next (startCall s d (fld d.image 0x1E 1) (cutList 32 n b) true)))))

/-- R439, R441, R442: a permute makes its epoch current once the earlier calls of the old one have ended; a retire drops the map of an
earlier epoch; the expert routing table is written in its shadow bank, swapped, and copied. -/
def Claims.EpochsAndRouting : Prop :=
  (∀ (s : State) (die fn : Nat) (c : RdCall) (cm : Comm),
    s.calls.find? (fun c => c.die == die && c.fn == fn && opcode c.image == 0x64 && c.phase == 0) = some c →
    getComm s die c.slot = some cm →
    (inFlight s c = false → exec (.permuteEpochAdvance die fn) s = .next s) ∧
    (inFlight s c = true → s.calls.takeWhile (fun x => !sameCall c x) = [] →
      exec (.permuteEpochAdvance die fn) s = .next (settle (permuteGo s c cm)))) ∧
  opRuns .rdEpochRetire (fun i => opcode i == 0x65) epochChecks rejectRd (fun s d => endOp { s with
    maps := tput s.maps (epochKey (qDie d.queue) d.fn) ((tgetD s.maps (epochKey (qDie d.queue) d.fn) []).filter
      (fun m => m.old != fld d.image 0x10 2)) [] } d DONE 0x20 (rdDetail 0 0 0)) ∧
  opRuns .rdExtWrite (fun i => opcode i == 0x67 && (fld i 0x10 1 != 1 && fld i 0x10 1 != 2)) (fun _ d => extChecks d.image) rejectRd
    (fun s d => match jobRead s d.fn (addrOf (fld d.image 0x18 8)) (16 * fld d.image 0x12 2) with
      | (b, cause) => if cause ≠ 0 then completeDesc s d (causeStatus cause) (seqStation d) [] 0
        else if badRoutes b (fld d.image 0x12 2) then rejectRd s d 7
        else endOp { s with extTab := (List.range (fld d.image 0x12 2)).foldl (fun t i =>
          tput t (extKey (qDie d.queue) (1 - extBank s (qDie d.queue)) (fld d.image 0x11 1 + i)) (fld b (16 * i) 16) 0) s.extTab }
            d DONE 0x20 (rdDetail 0 0 0)) ∧
  opRuns .rdExtSwap (fun i => opcode i == 0x67 && fld i 0x10 1 == 1) (fun _ d => extChecks d.image) rejectRd (fun s d =>
    endOp (setF s F.RD_EXT_STATE_ACTIVE (qDie d.queue) 0 (1 - extBank s (qDie d.queue))) d DONE 0x20 (rdDetail 0 0 0)) ∧
  opRuns .rdExtCopy (fun i => opcode i == 0x67 && fld i 0x10 1 == 2) (fun _ d => extChecks d.image) rejectRd (fun s d =>
    endOp { s with extTab := (List.range 256).foldl (fun t e => tput t (extKey (qDie d.queue) (1 - extBank s (qDie d.queue)) e)
      (tgetD t (extKey (qDie d.queue) (extBank s (qDie d.queue)) e) 0) 0) s.extTab } d DONE 0x20 (rdDetail 0 0 0))

/-- R418, R425, R433, R436, R439, R441, R442, R444, R445: the collective operations. -/
def Obligations.Collectives : Prop :=
  Claims.Communicators ∧ Claims.CollectiveCalls ∧ Claims.ListedCalls ∧ Claims.EpochsAndRouting

/-- R427-R429, R432, R434, R444: a control record of the command's kind from a member of a defined slot is stored in the slot's record
area and noted; one of another kind, of no member, to no slot or to a fenced reduction engine changes nothing. -/
def Claims.ControlRecords : Prop :=
  ∀ (s : State) (die k : Nat) (r : CtlRec) (c : Instr),
    (c = .ready die r ∧ k = 1 ∨ c = .data die r ∧ k = 2 ∨ c = .close die r ∧ k = 3 ∨ c = .fail die r ∧ k = 4 ∨ c = .list die r ∧ k = 5 ∨
      c = .gatherReq die r ∧ k = 6) →
    (getComm s die r.slot = none → exec c s = .next s) ∧
    (∀ cm, getComm s die r.slot = some cm →
      ((r.kind ≠ k ∨ r.rank ≥ cm.n ∨ stFenced s die 0x20 = true) → exec c s = .next s) ∧
      (r.kind = k → r.rank < cm.n → stFenced s die 0x20 = false →
        ∀ t, t = (jobWrite s die cm.owner (cm.rx + 64 * r.rank) (recBytes r) 0).1 →
        (k ≠ 6 → exec c s = .next (settle (addNote t die r))) ∧ (k = 6 → exec c s = .next (settle (addServe t die r)))))

/-- R428, R432: the end of a straggler window closes an open reduction at its root, or a gather; a member that has heard no CLOSE ends
with LINK_LOST. -/
def Claims.CallTimers : Prop :=
  (∀ (s : State) (die slot seq : Nat) (c : RdCall) (cm : Comm), callAt s die slot seq = some c → getComm s die slot = some cm →
    callWindow c ≠ 0 → inFlight s c = true →
    (opcode c.image = 0x61 → cm.rank = 0 → closeOf s c = none → c.closing = none → bit (rCtl c) 3 = false →
      exec (.stragglerWindowClose die slot seq) s = .next (settle (closeNow s c cm))) ∧
    (opcode c.image = 0x61 → cm.rank ≠ 0 → exec (.stragglerWindowClose die slot seq) s = .next s) ∧
    (opcode c.image ≠ 0x61 → gMode c ≠ 2 → c.expired = false → ∀ d, descOf s c.queue c.tag = some d →
      exec (.stragglerWindowClose die slot seq) s = .next (settle (gatherExpire s d c cm)))) ∧
  (∀ (s : State) (die slot seq : Nat) (c : RdCall), callAt s die slot seq = some c →
    (inFlight s c = true → closeOf s c = none → c.phase ≥ sentPhase c → exec (.closeTimeout die slot seq) s =
      .next (settle (endCall s c LINK_LOST (if opcode c.image = 0x66 then xDetail 0 0 0 else rdDetail 0 0 0)))) ∧
    (inFlight s c = false → exec (.closeTimeout die slot seq) s = .next s))

/-- R427-R429, R432, R434, R444: control records and the timers of calls. -/
def Obligations.CollectiveEvents : Prop :=
  Claims.ControlRecords ∧ Claims.CallTimers


/-! ## Power, thermals and the governor -/

/-- R465, R467, R468, R612: what the power entry does as its inputs go and come, in the phase the module is in. -/
def Obligations.PowerInputs : Prop :=
  ∀ (s : State),
    (∀ volts, (s.supply.phase ≠ 0 ∨ volts ≥ getF s F.PWR_UV_THRESH f0) → exec (.mainInputLoss volts) s = .next s) ∧
    (∀ volts t, s.supply.phase = 0 → volts < getF s F.PWR_UV_THRESH f0 →
      t = updSupply (setF s F.PWR_STATE_MAIN_OK f0 0 0) (fun x => { x with mainAt := 0 }) →
      (flag t F.PWR_STATE_SRC f0 = true → exec (.mainInputLoss volts) s = .next t) ∧
      (flag t F.PWR_STATE_SRC f0 = false → flag t F.PWR_STATE_BACKUP_OK f0 = false →
        exec (.mainInputLoss volts) s = .next (updSupply t (fun x => { x with phase := 1 }))) ∧
      (flag t F.PWR_STATE_SRC f0 = false → flag t F.PWR_STATE_BACKUP_OK f0 = true →
        exec (.mainInputLoss volts) s = .next (supplyNotice (selectInput (addF (updSupply t (fun x =>
          { x with waits := (t.supply.returned != 0 && decide (now t + 1 ≤ t.supply.returned + 100000000)) }))
            F.PWR_CNT_SWITCH_TO_BACKUP f0 0 1) true) 1))) ∧
    (s.supply.phase = 0 → flag s F.PWR_STATE_SRC f0 = true → flag s F.PWR_STATE_MAIN_OK f0 = true → s.supply.mainAt ≠ 0 →
      (s.supply.waits = false → exec .mainReturn s = .next (returnMain s)) ∧
      (s.supply.waits = true → s.supply.returned ≠ 0 → exec .mainReturn s = .next (supplyNotice (addF (updSupply s
        (fun x => { x with mainAt := 0, returned := 0 })) F.PWR_CNT_SWITCH_HELD f0 0 1) 3)) ∧
      (s.supply.waits = true → s.supply.returned = 0 → exec .mainReturn s =
        .next (updSupply s (fun x => { x with mainAt := 0, returned := 0 })))) ∧
    ((s.supply.phase ≠ 0 ∨ flag s F.PWR_STATE_SRC f0 = false ∨ flag s F.PWR_STATE_MAIN_OK f0 = false ∨ s.supply.mainAt = 0) →
      exec .mainReturn s = .next s) ∧
    (∀ src value, reaches s (die04 s) → isPfSrc src = true →
      ((bit value 4 = false ∨ s.supply.waits = false) → exec (.pwrReturnPermit src value) s = .next s) ∧
      (bit value 4 = true → s.supply.waits = true → s.supply.mainAt ≠ 0 → exec (.pwrReturnPermit src value) s =
        .next (updSupply s (fun x => { x with waits := false }))) ∧
      (bit value 4 = true → s.supply.waits = true → s.supply.phase = 0 → flag s F.PWR_STATE_SRC f0 = true →
        flag s F.PWR_STATE_MAIN_OK f0 = true → s.supply.mainAt = 0 → exec (.pwrReturnPermit src value) s = .next (returnMain s))) ∧
    (s.supply.phase = 0 → exec .bothInputsLoss s = .next (updSupply (setF (setF s F.PWR_STATE_MAIN_OK f0 0 0)
        F.PWR_STATE_BACKUP_OK f0 0 0) (fun x => { x with phase := 1, mainAt := 0 })) ∧
      exec .presentOpen s = .next (stopOnHoldup (setF (setF s F.PWR_STATE_MAIN_OK f0 0 0) F.PWR_STATE_BACKUP_OK f0 0 0))) ∧
    (s.supply.phase ≠ 0 → exec .bothInputsLoss s = .next s) ∧
    (s.supply.phase = 1 → exec .holdupStationsStop s = .next (stopOnHoldup s) ∧ exec .presentOpen s = .next (stopOnHoldup s)) ∧
    (s.supply.phase ≠ 1 → exec .holdupStationsStop s = .next s) ∧
    ((s.supply.phase = 1 ∨ s.supply.phase = 2) → exec .holdupSpent s = .next (blackState s false)) ∧
    (s.supply.phase ≠ 1 → s.supply.phase ≠ 2 → exec .holdupSpent s = .next s ∧ ∀ main, exec (.inputRestored main) s = .next s) ∧
    (∀ main, s.supply.phase = 1 → exec (.inputRestored main) s = .next (selectInput (addF (updSupply (setF s
      (if main then F.PWR_STATE_MAIN_OK else F.PWR_STATE_BACKUP_OK) f0 0 1) (fun x => { x with phase := 0, named := [] }))
        F.PWR_CNT_SWITCH_RIDE f0 0 1) (!main))) ∧
    (∀ main t, s.supply.phase = 2 → t = selectInput (addF (updSupply (setF s
      (if main then F.PWR_STATE_MAIN_OK else F.PWR_STATE_BACKUP_OK) f0 0 1) (fun x => { x with phase := 0, named := [] }))
        F.PWR_CNT_SWITCH_RIDE f0 0 1) (!main) →
      (flag t F.SN_CFG_FREEZE f0 = false → exec (.inputRestored main) s = .next (settle (supplyNotice t 4))) ∧
      (flag t F.SN_CFG_FREEZE f0 = true → exec (.inputRestored main) s =
        .next (settle (supplyNotice (freezeFns t (myId t) (s.supply.named.flatMap (fnsOfTag t))) 4)))) ∧
    (∀ volts t, s.supply.phase = 0 → volts > getF s F.PWR_UV_THRESH f0 → flag s F.PWR_STATE_MAIN_OK f0 = false →
      t = setF s F.PWR_STATE_MAIN_OK f0 0 1 → exec (.mainInputValid volts) s =
        .next (if flag t F.PWR_STATE_SRC f0 then updSupply t (fun x => { x with mainAt := now t + 1 }) else t)) ∧
    (∀ volts, (s.supply.phase ≠ 0 ∨ volts ≤ getF s F.PWR_UV_THRESH f0 ∨ flag s F.PWR_STATE_MAIN_OK f0 = true) →
      exec (.mainInputValid volts) s = .next s)

/-- R470, R471, R473, R475: the division of the budget, a governor's sample of a die's draw, and the end of a step. -/
def Claims.Governor : Prop :=
  (∀ (s t : State) (draws : List Nat), t = showBudget s → exec (.budgetDivision draws) s = .next (startSteps (setF
    ((sharesOf t (getF t F.GV_MOD_BUDGET f0 - (draws.take 4).foldl (· + ·) 0)).foldl
      (fun s p => setF s F.GV_POWER_SHARE p.1 0 (sat 4095 p.2)) t) F.GV_MOD_DRAW f0 0 (sat 65535 (draws.getD 4 0))))) ∧
  (∀ (s t : State) (die draw : Nat), isComp die = true → dieFenced s die = false → powerOf s die < 2 →
    t = setF s F.GV_POWER_DRAW die 0 (sat 4095 draw) →
    (draw > getF t F.GV_POWER_SHARE die → exec (.dieGovernorSample die draw) s = .next (startStep (cutMore (override t die) die) die)) ∧
    (draw ≤ getF t F.GV_POWER_SHARE die → draw * 100 ≤ getF t F.GV_POWER_SHARE die * 95 →
      exec (.dieGovernorSample die draw) s = .next (startStep (cutLess t die) die)) ∧
    (draw ≤ getF t F.GV_POWER_SHARE die → draw * 100 > getF t F.GV_POWER_SHARE die * 95 →
      exec (.dieGovernorSample die draw) s = .next (startStep (updGov t die (fun g => { g with backAt := 0 })) die))) ∧
  (∀ (s : State) (die draw : Nat), (isComp die = false ∨ dieFenced s die = true ∨ powerOf s die ≥ 2) →
    exec (.dieGovernorSample die draw) s = .next s) ∧
  (∀ (s t : State) (die : Nat), isComp die = true → (govOf s die).stepping = true →
    (targetOpp s die > oppOf s die → ((govOf s die).ramp = 0 ∨ now s + 1 ≥ (govOf s die).ramp + 200000) →
      t = updGov s die (fun g => { g with
        stepping := false
        ramp := if (govOf s die).ramp = 0 ∨ targetOpp s die ≤ oppOf s die + 1 then 0 else now s + 1 }) →
      exec (.oppStepDone die) s = .next (startStep (setOpp t die (oppOf s die + 1)) die)) ∧
    (targetOpp s die > oppOf s die → (govOf s die).ramp ≠ 0 → now s + 1 < (govOf s die).ramp + 200000 →
      exec (.oppStepDone die) s = .next s) ∧
    (targetOpp s die ≤ oppOf s die → t = updGov s die (fun g => { g with stepping := false, ramp := 0 }) →
      (targetOpp s die < oppOf s die → exec (.oppStepDone die) s = .next (startStep (setOpp t die (oppOf s die - 1)) die)) ∧
      (targetOpp s die = oppOf s die → exec (.oppStepDone die) s = .next (startStep t die)))) ∧
  (∀ (s : State) (die : Nat), (govOf s die).stepping = false → exec (.oppStepDone die) s = .next s)

/-- R471: a die with no queue enabled takes manual mode; while queues run it is refused and logged; a manual frequency needs an
operating point its voltage carries, and a manual voltage may not fall below that of the point; either outside manual mode is ignored. The
write, as every access, has first woken a die in Grey or Charcoal (R488). -/
def Claims.ManualPoint : Prop :=
  ∀ (s w t : State) (src : Src) (die value : Nat), w = wakeByAccess s src die → reaches s die → isPfSrc src = true → isComp die = true →
    (t = setF (setF w F.GV_CTRL_AUTO_GREY die 0 (bits value 1 1)) F.GV_CTRL_GREY_IDLE die 0 (bits value 16 16) →
      flag w F.GV_CTRL_MANUAL die = false →
      (bit value 0 = false → exec (.gvManualSet src die value) s = .next t) ∧
      (bit value 0 = true → anyEnabled t die = true → exec (.gvManualSet src die value) s = .next (refuseVf t src die 0x600010)) ∧
      (bit value 0 = true → anyEnabled t die = false → exec (.gvManualSet src die value) s = .next (setF (setF (setF
        (updGov t die (fun g => { g with stepping := false })) F.GV_CTRL_MANUAL die 0 1) F.GV_STATE_MANUAL die 0 1)
          F.GV_VF_STATUS_LAST die 0 0))) ∧
    (flag w F.GV_CTRL_MANUAL die = false → exec (.gvFreqWrite src die value) s = .next w ∧ exec (.gvVoltWrite src die value) s = .next w) ∧
    (flag w F.GV_CTRL_MANUAL die = true →
      (∀ i top, (List.range 15).find? (fun i => oppMhz i == bits value 0 12) = some i → carried (govOf w die).mv3 = some top →
        (i ≤ top → exec (.gvFreqWrite src die value) s = .next (setF (setF (updGov w die (fun g => { g with mhz := bits value 0 12 }))
          F.GV_STATE_OPP die 0 i) F.GV_VF_STATUS_LAST die 0 0)) ∧
        (top < i → exec (.gvFreqWrite src die value) s = .next (refuseVf w src die 0x600018))) ∧
      ((List.range 15).find? (fun i => oppMhz i == bits value 0 12) = none →
        exec (.gvFreqWrite src die value) s = .next (refuseVf w src die 0x600018)) ∧
      (3 * bits value 0 12 < oppVolt (oppOf w die) → exec (.gvVoltWrite src die value) s = .next (refuseVf w src die 0x60001C)) ∧
      (3 * bits value 0 12 ≥ oppVolt (oppOf w die) → exec (.gvVoltWrite src die value) s = .next (setF
        (updGov w die (fun g => { g with mv3 := 3 * bits value 0 12 })) F.GV_VF_STATUS_LAST die 0 0)))

/-- R474, R492: a budget between 5,700 and 13,000 W and an under-voltage threshold between 46.00 and 50.00 V are taken; outside these
limits the write is ignored and logged as VF_ORDER. After the seal any such write is one to a sealed register (R14). -/
def Claims.PowerLimits : Prop :=
  ∀ (s : State) (src : Src) (value : Nat), reaches s (die04 s) → isPfSrc src = true →
    (5700 ≤ bits value 0 16 → bits value 0 16 ≤ 13000 →
      exec (.budgetWrite src false value) s = .next (plainWrite s src (die04 s) 0x070004 value) ∧
      exec (.budgetWrite src true value) s = .next (plainWrite s src (die04 s) 0x070008 value)) ∧
    (sealed s = false → (bits value 0 16 < 5700 ∨ bits value 0 16 > 13000) →
      exec (.budgetWrite src false value) s = .next (logErr s (srcFn src) VF_ORDER 0x070004) ∧
      exec (.budgetWrite src true value) s = .next (logErr s (srcFn src) VF_ORDER 0x070008)) ∧
    (4600 ≤ bits value 0 16 → bits value 0 16 ≤ 5000 →
      exec (.pwrUvWrite src value) s = .next (plainWrite s src (die04 s) 0x07000C value)) ∧
    (sealed s = false → (bits value 0 16 < 4600 ∨ bits value 0 16 > 5000) →
      exec (.pwrUvWrite src value) s = .next (logErr s (srcFn src) VF_ORDER 0x07000C)) ∧
    (sealed s = true → exec (.budgetWrite src false value) s = .next (plainWrite s src (die04 s) 0x070004 value) ∧
      exec (.budgetWrite src true value) s = .next (plainWrite s src (die04 s) 0x070008 value) ∧
      exec (.pwrUvWrite src value) s = .next (plainWrite s src (die04 s) 0x07000C value))

/-- R470, R471, R473-R475, R492: the budget, the governor of a die, and the limits of what may be written. -/
def Obligations.GovernorRules : Prop :=
  Claims.Governor ∧ Claims.ManualPoint ∧ Claims.PowerLimits

/-- R478, R479, R620: what a temperature, a clock step, a stack's step and a coolant reading do. -/
def Obligations.Thermals : Prop :=
  (∀ (s t : State) (die temp : Nat), isComp die = true → dieFenced s die = false → t = setF s F.GV_TEMP_DIE die 0 (sat 255 temp) →
    (temp ≥ 115 → exec (.dieTempReading die temp) s = .next (showAlert (anyWarm s) (fenceDie (override t die) die 4))) ∧
    (temp < 115 → ∀ l, l = dieLevel (getF t F.GV_STATE_DIE_LVL die) temp →
      (l = 2 → exec (.dieTempReading die temp) s =
        .next (showAlert (anyWarm s) (override (setF t F.GV_STATE_DIE_LVL die 0 2) die))) ∧
      (l ≠ 2 → exec (.dieTempReading die temp) s = .next (showAlert (anyWarm s) (setF t F.GV_STATE_DIE_LVL die 0 l))))) ∧
  (∀ (s : State) (die : Nat), isComp die = true → dieFenced s die = false → powerOf s die < 2 →
    (getF s F.GV_STATE_DIE_LVL die = 2 → (govOf s die).heatCut < 14 → exec (.throttleClockStep die) s = .next (startStep (addF
      (updGov s die (fun g => { g with heatCut := g.heatCut + 1 })) F.GV_CNT_THROTTLE_THROTTLE die 0 1) die)) ∧
    (getF s F.GV_STATE_DIE_LVL die = 2 → (govOf s die).heatCut ≥ 14 → exec (.throttleClockStep die) s = .next (startStep s die)) ∧
    (getF s F.GV_STATE_DIE_LVL die ≠ 2 → exec (.throttleClockStep die) s =
      .next (startStep (updGov s die (fun g => { g with heatCut := g.heatCut - 1 })) die))) ∧
  (∀ (s : State) (die temp stack : Nat), dieFenced s die = true → stack / 2 = die → exec (.dieTempReading die temp) s = .next s ∧
    exec (.throttleClockStep die) s = .next s ∧ exec (.stackTempReading stack temp) s = .next s ∧
    exec (.hotStackStep stack) s = .next s) ∧
  (∀ (s t u : State) (stack temp l : Nat), isComp (stack / 2) = true → dieFenced s (stack / 2) = false →
    t = setF s (if stack % 2 == 0 then F.GV_TEMP_STK0 else F.GV_TEMP_STK1) (stack / 2) 0 (sat 255 temp) →
    tgetD t.stackState stack 0 ≠ 1 → l = heatLevel (stackLevel t stack) temp →
    u = setF t (if stack % 2 == 0 then F.GV_STATE_STK0_LVL else F.GV_STATE_STK1_LVL) (stack / 2) 0 l →
    (temp < 110 → (stackLevel t stack ≥ 2 ∨ l < 2) → exec (.stackTempReading stack temp) s =
      .next (showAlert (anyWarm s) (followCritical u stack l))) ∧
    (temp < 110 → stackLevel t stack < 2 → l ≥ 2 → exec (.stackTempReading stack temp) s = .next (showAlert (anyWarm s)
      (followCritical (voidMargin (addF u F.GV_CNT_HOT_HOT (stack / 2) 0 1) stack) stack l))) ∧
    (temp ≥ 110 → stackLevel t stack ≥ 2 → exec (.stackTempReading stack temp) s =
      .next (showAlert (anyWarm s) (fenceStack (voidMargin u stack) stack 4 2)))) ∧
  (∀ (s : State) (stack : Nat), isComp (stack / 2) = true → dieFenced s (stack / 2) = false → tgetD s.stackState stack 0 ≠ 1 →
    (stackLevel s stack ≥ 2 → tgetD s.hotStep stack 0 < 2 → exec (.hotStackStep stack) s =
      .next { s with hotStep := tins s.hotStep stack (tgetD s.hotStep stack 0 + 1) }) ∧
    (stackLevel s stack ≥ 2 → tgetD s.hotStep stack 0 ≥ 2 → getF s (bandwidth stack) (stack / 2) > 4 →
      exec (.hotStackStep stack) s =
        .next (setF s (bandwidth stack) (stack / 2) 0 (getF s (bandwidth stack) (stack / 2) - 1))) ∧
    (stackLevel s stack ≥ 2 → tgetD s.hotStep stack 0 ≥ 2 → getF s (bandwidth stack) (stack / 2) ≤ 4 →
      exec (.hotStackStep stack) s = .next s) ∧
    (stackLevel s stack < 2 → getF s (bandwidth stack) (stack / 2) < 8 → exec (.hotStackStep stack) s =
      .next (setF s (bandwidth stack) (stack / 2) 0 (getF s (bandwidth stack) (stack / 2) + 1))) ∧
    (stackLevel s stack < 2 → getF s (bandwidth stack) (stack / 2) ≥ 8 → exec (.hotStackStep stack) s =
      .next { s with hotStep := tput s.hotStep stack (tgetD s.hotStep stack 0 - 1) 0 })) ∧
  (∀ (s t : State) (flow inlet : Nat), t = updSupply s (fun x => { x with flow := flow, inlet := inlet }) →
    ((flow < 200 ∨ inlet > 400) → flag t F.PWR_STATE_COOL_OK f0 = true → exec (.coolantReading flow inlet) s = .next (setCool t 0)) ∧
    (200 ≤ flow → inlet ≤ 400 → exec (.coolantReading flow inlet) s = .next t)) ∧
  (∀ (s : State), (flag s F.PWR_STATE_COOL_OK f0 = false → s.supply.flow ≥ 205 → s.supply.inlet ≤ 390 →
      exec .coolOkRestore s = .next (setCool s 1)) ∧
    ((flag s F.PWR_STATE_COOL_OK f0 = true ∨ s.supply.flow < 205 ∨ s.supply.inlet > 390) → exec .coolOkRestore s = .next s))

/-- R484-R487: how a die enters Grey and Charcoal. A sequencer's wait takes its mode from GV_PS_TARGET on an idle die and from its power-control
register otherwise, where 3 reads as 0; with AUTO_GREY set, an idle die's plain waits become waits for Grey; a die enters the shallowest
mode its four sequencers wait with; an early wake abandons the entry into Grey and is counted; a die that reaches Charcoal leaves service
and, where a wake came after the last abort point, starts to leave at once. -/
def Obligations.PowerStates : Prop :=
  (∀ (s : State) (die k mode : Nat), isComp die = true → dieFenced s die = false →
    (k < 4 → powerOf s die < 2 →
      (dieIdle s die = true → (getF s F.GV_PS_TARGET_TARGET die = 1 ∨ getF s F.GV_PS_TARGET_TARGET die = 2) →
        exec (.sequencerPowerWait die k mode) s =
          .next { s with modes := tins s.modes (die * 4 + k) (1 + getF s F.GV_PS_TARGET_TARGET die) }) ∧
      ((dieIdle s die = false ∨ getF s F.GV_PS_TARGET_TARGET die = 0 ∨ getF s F.GV_PS_TARGET_TARGET die > 2) →
        exec (.sequencerPowerWait die k mode) s =
          .next { s with modes := tins s.modes (die * 4 + k) (1 + (if mode % 4 = 3 then 0 else mode % 4)) })) ∧
    (powerOf s die ≥ 2 → exec (.sequencerPowerWait die k mode) s = .next s)) ∧
  (∀ (s : State) (die : Nat), isComp die = true → dieFenced s die = false → powerOf s die = 0 →
    flag s F.GV_CTRL_AUTO_GREY die = true → dieIdle s die = true → exec (.greyIdleTimer die) s = .next ((List.range 4).foldl
      (fun s k => if waitMode s die k = 0 then { s with modes := tins s.modes (die * 4 + k) 2 } else s) s)) ∧
  (∀ (s : State) (die : Nat), (flag s F.GV_CTRL_AUTO_GREY die = false ∨ dieIdle s die = false) →
    exec (.greyIdleTimer die) s = .next s) ∧
  (∀ (s : State) (die : Nat), powerOf s die = 0 → entryMode s die = 1 →
    exec (.greyEntry die false) s = .next (setPower s die 1) ∧
    exec (.greyEntry die true) s = .next (addF (leaveWaits s die) F.GV_CNT_ABORT_ABORT die 0 1)) ∧
  (∀ (s : State) (die : Nat) (early : Bool), (powerOf s die ≠ 0 ∨ entryMode s die ≠ 1) → exec (.greyEntry die early) s = .next s) ∧
  (∀ (s : State) (die : Nat), powerOf s die ≤ 1 → entryMode s die = 2 → exec (.charcoalEntry die) s =
    .next (setPower { s with psAt := tins s.psAt die (now s + 1), psWake := tdel s.psWake die } die 2)) ∧
  (∀ (s : State) (die : Nat), (powerOf s die > 1 ∨ entryMode s die ≠ 2) → exec (.charcoalEntry die) s = .next s) ∧
  (∀ (s t u : State) (die : Nat), powerOf s die = 2 →
    t = (if bit (getF s F.MGT_SVC_DIES_LIMITED f0) die then
      setF s F.MGT_SVC_DIES_LIMITED f0 0 (getF s F.MGT_SVC_DIES_LIMITED f0 - 2 ^ die) else s) →
    u = (if bit (getF t F.MGT_SVC_DIES_FULL f0) die then
      setF t F.MGT_SVC_DIES_FULL f0 0 (getF t F.MGT_SVC_DIES_FULL f0 - 2 ^ die) else t) →
    exec (.charcoalReached die) s = .next (showLevel (setPower (stopDomains (updGov { u with
      psAt := tdel u.psAt die, psWake := tdel u.psWake die } die (fun g => { g with stepping := false })) die)
        die (if (tget? u.psWake die).isSome then 4 else 3)))) ∧
  (∀ (s : State) (die : Nat), powerOf s die ≠ 2 → exec (.charcoalReached die) s = .next s) ∧
  (∀ (s : State) (die k : Nat), entryMode s die ≠ 0 → k < 4 → dieIdle s die = true ∧ entryMode s die ≤ waitMode s die k)

/-- R487-R489: the wake sources of the always-on domain. A disabled source wakes nothing and is not recorded; in Black an enabled I3C match,
PCIe wake or timer starts the module and is recorded; a die woken from Charcoal comes up in White at 1.2 GHz in limited service, and what
was held for it is delivered. -/
def Obligations.Wakes : Prop :=
  (∀ (s : State) (source die port : Nat), bit (getF s F.AON_WAKE_EN_EN f0) (source - 1) = true → 1 ≤ source → source ≤ 9 →
    (s.supply.phase = 3 → (source = 1 ∨ source = 2 ∨ source = 4) → exec (.wakeEvent source die port) s =
      .next (recordWake (updSupply s (fun x => { x with phase := 4 })) source die port)) ∧
    (s.supply.phase = 3 → source = 5 → exec (.wakeEvent source die port) s = .next (emit s (.pin 0 0))) ∧
    (s.supply.phase < 3 → exec (.wakeEvent source die port) s = .next (wakeAll s source port (wakeTargets s source die port)))) ∧
  (∀ (s : State) (source die port : Nat), bit (getF s F.AON_WAKE_EN_EN f0) (source - 1) = false →
    exec (.wakeEvent source die port) s = .next s) ∧
  (∀ (s t u : State) (die : Nat), powerOf s die = 4 → isComp die = true → dieFenced s die = false →
    t = setOpp (startDomains (setPower (leaveWaits s die) die 0) die) die 6 →
    u = (if bit (getF t F.MGT_SVC_DIES_LIMITED f0) die then t
      else setF t F.MGT_SVC_DIES_LIMITED f0 0 (getF t F.MGT_SVC_DIES_LIMITED f0 + 2 ^ die)) →
    exec (.charcoalWakeDone die) s = .next (deliverHeld (showLevel u) die)) ∧
  (∀ (s : State) (die : Nat), powerOf s die ≠ 4 → exec (.charcoalWakeDone die) s = .next s) ∧
  (∀ (s : State), flag s F.CLK_REF_STATE_AON_OK f0 = true → getPair s F.AON_CMP_LO_CMP F.AON_CMP_HI_CMP f0 ≠ 0 →
    (aonCount s = getPair s F.AON_CMP_LO_CMP F.AON_CMP_HI_CMP f0 → exec .aonTimerMatch s = .next (wakeBy s 4 0 0)) ∧
    (aonCount s ≠ getPair s F.AON_CMP_LO_CMP F.AON_CMP_HI_CMP f0 → exec .aonTimerMatch s = .next s)) ∧
  (∀ (s : State), (s.supply.phase ≥ 3 → exec .i3cAddressMatch s = .next (wakeBy (emit s (.pin 1 0)) 1 0 0)) ∧
    (s.supply.phase < 3 → exec .i3cAddressMatch s = .next s))

/-! ## Clocks -/

/-- R497, R499: the selection of the module reference: a write of the sources, a source that becomes valid or invalid, the return to an
earlier source, and the end of a holdover; the always-on crystal stops. -/
def Obligations.References : Prop :=
  (∀ (s t u v : State) (src : Src) (value : Nat), reaches s (die04 s) → isPfSrc src = true →
    t = plainWrite s src (die04 s) 0x090000 value → u = (if refPort t 1 = refPort s 1 then t else setF t F.CLK_REF_STATE_PRI_OK f0 0 0) →
    v = (if refPort u 2 = refPort s 2 then u else setF u F.CLK_REF_STATE_SEC_OK f0 0 0) →
    exec (.refSelectWrite src value) s = .next (takeSource v (refBest v))) ∧
  (∀ (s : State) (source : Nat) (f : Fld), refOk source = some f → ∀ t, t = setF s f f0 0 0 →
    (source = refSrc t → exec (.refSourceInvalid source) s = .next (takeSource t (refBest t))) ∧
    (source ≠ refSrc t → exec (.refSourceInvalid source) s = .next t)) ∧
  (∀ (s : State), (flag s F.CLK_REF_SEL_REVERT f0 = true → refBest s ≠ 0 → refBest s < refSrc s →
      exec .refRevert s = .next (takeSource s (refBest s))) ∧
    ((flag s F.CLK_REF_SEL_REVERT f0 = false ∨ refBest s = 0 ∨ refBest s ≥ refSrc s) → exec .refRevert s = .next s)) ∧
  (∀ (s : State) (source : Nat) (f : Fld), refOk source = some f →
    (source < 3 → portActive s (refPort s source) = false → exec (.referenceSourceValid source) s = .next s) ∧
    ((source ≥ 3 ∨ portActive s (refPort s source) = true) → ∀ t, t = setF s f f0 0 1 →
      (refGood t (refSrc t) = true → exec (.referenceSourceValid source) s = .next t) ∧
      (refGood t (refSrc t) = false → exec (.referenceSourceValid source) s = .next (takeSource t (refBest t))))) ∧
  (∀ (s : State) (source : Nat), refOk source = none → exec (.referenceSourceValid source) s = .next s ∧
    exec (.refSourceInvalid source) s = .next s) ∧
  (∀ (s : State) (runts : List Nat), refSrc s ≠ 0 → exec (.holdoverExpiry runts) s = .next s) ∧
  (∀ (s : State) (runts : List Nat), refSrc s = 0 → exec (.holdoverExpiry runts) s = .next ((List.range 128).foldl (fun s k =>
    if hasDomain s (k / 4) (k % 4) && !dieFenced s (k / 4) && decide (domState s (k / 4) (k % 4) < 2) then
      forceDomain (setF (setF s F.CLK_DOM_STATE_LOCK0 (k / 4) (k % 4) 0) F.CLK_DOM_STATE_LOCK1 (k / 4) (k % 4) 0) (k / 4) (k % 4)
        (runts.contains k)
    else s) (addF s F.CLK_CNT_REF_LOSS f0 0 1))) ∧
  (∀ (s : State), exec .aonCrystalStop s = .next (setF s F.CLK_REF_STATE_AON_OK f0 0 0))

/-- R502-R504: a failed clock forces its domain or drops the lock of its other PLL; a forced domain resumes on a locked PLL, or its die is
fenced after a runt stop; a memory domain not resumed in time fences its stacks or its far tier. -/
def Claims.ClockFailure : Prop :=
  (∀ (s : State) (die dom : Nat) (stop runt : Bool), hasDomain s die dom = true → dieFenced s die = false →
    (dom = 4 → exec (.clockSourceFail die dom stop runt) s =
      .next (setF (showSlew { s with tickStop := true, slew := 0 }) F.CLK_TICK_VALID f0 0 0)) ∧
    (dom ≠ 4 → domState s die dom ≥ 2 → exec (.clockSourceFail die dom stop runt) s = .next s) ∧
    (dom ≠ 4 → domState s die dom < 2 → exec (.clockSourceFail die dom true runt) s =
      .next (forceDomain (setF s (lockFld (getF s F.CLK_DOM_STATE_SRC die dom)) die dom 0) die dom runt)) ∧
    (dom ≠ 4 → domState s die dom < 2 →
      tget? (setF s (lockFld (1 - getF s F.CLK_DOM_STATE_SRC die dom)) die dom 0).swaps (domKey die dom) = none →
      exec (.clockSourceFail die dom false runt) s =
        .next (setF s (lockFld (1 - getF s F.CLK_DOM_STATE_SRC die dom)) die dom 0))) ∧
  (∀ (s : State) (die dom : Nat), (hasDomain s die dom = false ∨ dieFenced s die = true) →
    (∀ stop runt, exec (.clockSourceFail die dom stop runt) s = .next s) ∧ (∀ pll, exec (.domainResume die dom pll) s = .next s)) ∧
  (∀ (s t u : State) (die dom pll : Nat), hasDomain s die dom = true → dieFenced s die = false →
    (dom = 4 → exec (.domainResume die dom pll) s = .next { s with tickStop := false }) ∧
    (dom ≠ 4 → (domState s die dom ≠ 2 ∨ pll > 1) → exec (.domainResume die dom pll) s = .next s) ∧
    (dom ≠ 4 → domState s die dom = 2 → pll ≤ 1 → t = setF s (lockFld pll) die dom 1 →
      (dom = 0 → flag t F.CLK_DOM_STATE_RUNT die 0 = true → exec (.domainResume die dom pll) s = .next (fenceDie t die 5)) ∧
      (u = setF (setF (setF t F.CLK_DOM_STATE_SRC die dom pll) F.CLK_DOM_STATE_STATE die dom 0) F.CLK_DOM_STATE_DIV die dom 16 →
        (dom = 0 → flag t F.CLK_DOM_STATE_RUNT die 0 = false → exec (.domainResume die dom pll) s = .next (settle (replayWrites
          { u with swaps := tins u.swaps (domKey die dom) 5, stopped := tdel u.stopped (domKey die dom) } die))) ∧
        (dom ≠ 0 → exec (.domainResume die dom pll) s = .next
          { u with swaps := tins u.swaps (domKey die dom) 5, stopped := tdel u.stopped (domKey die dom) })))) ∧
  (∀ (s : State) (die : Nat), dieFenced s die = false → domState s die 1 = 2 →
    (isComp die = true → exec (.memoryClockTimeout die 1) s =
      .next (runRings (fenceStack (fenceStack s (2 * die) 5 0) (2 * die + 1) 5 0))) ∧
    (isComp die = false → isMem die = true → exec (.memoryClockTimeout die 1) s = .next (fenceFar s die))) ∧
  (∀ (s : State) (die dom : Nat), (dom ≠ 1 ∨ dieFenced s die = true ∨ domState s die 1 ≠ 2) →
    exec (.memoryClockTimeout die dom) s = .next s)

/-- R505, R507, R509: a switch of a running domain to its other PLL starts or is refused with LAST and a log entry, its ramp advances
step by step, and the observation output is driven unless ATB_B holds its pin. That the refusal of a switch a margining counter asks for is
logged in function 0's ring is the model's choice (log entry 137). -/
def Claims.ClockSwitch : Prop :=
  (∀ (s t : State) (src : Src) (die dom value : Nat), dom ≠ 4 → hasDomain s die dom = true → reaches s die → isPfSrc src = true →
    t = setF (wakeByAccess s src die) F.CLK_DOM_CTRL_MARGIN_SW die dom (bits value 1 1) →
    (bit value 0 = false → exec (.domainSwitch src die dom value) s = .next t) ∧
    (bit value 0 = true → switchRefused t die dom = true → exec (.domainSwitch src die dom value) s =
      .next (logErr (setF t F.CLK_DOM_CTRL_LAST die dom CONFLICT) (srcFn src) CLK_REFUSED (0x640004 + 0x10 * dom))) ∧
    (bit value 0 = true → switchRefused t die dom = false → exec (.domainSwitch src die dom value) s =
      .next (startSwitch (setF t F.CLK_DOM_CTRL_LAST die dom 0) die dom))) ∧
  (∀ (s : State) (die dom : Nat), dom ≠ 4 → hasDomain s die dom = true → dieFenced s die = false →
    (flag s F.CLK_DOM_CTRL_MARGIN_SW die dom = false → exec (.marginAutoSwitch die dom) s = .next s) ∧
    (flag s F.CLK_DOM_CTRL_MARGIN_SW die dom = true →
      (switchRefused s die dom = true → exec (.marginAutoSwitch die dom) s =
        .next (logErr (setF s F.CLK_DOM_CTRL_LAST die dom CONFLICT) 0 CLK_REFUSED (0x640004 + 0x10 * dom))) ∧
      (switchRefused s die dom = false → exec (.marginAutoSwitch die dom) s =
        .next (startSwitch (setF s F.CLK_DOM_CTRL_LAST die dom 0) die dom)))) ∧
  (∀ (s : State) (die dom : Nat), dom < 4 →
    (tget? s.swaps (domKey die dom) = none → exec (.switchRampStep die dom) s = .next s) ∧
    (tget? s.swaps (domKey die dom) = some 1 → (govOf s die).stepping = true → exec (.switchRampStep die dom) s = .next s) ∧
    (tget? s.swaps (domKey die dom) = some 1 → (govOf s die).stepping = false →
      exec (.switchRampStep die dom) s = .next (rampUp s die dom)) ∧
    (tget? s.swaps (domKey die dom) = some 2 → exec (.switchRampStep die dom) s = .next (rampUp s die dom)) ∧
    (tget? s.swaps (domKey die dom) = some 3 → exec (.switchRampStep die dom) s = .next (rampDown s die dom true)) ∧
    (∀ x, x > 3 → tget? s.swaps (domKey die dom) = some x → exec (.switchRampStep die dom) s = .next (rampDown s die dom false))) ∧
  (∀ (s t : State) (src : Src) (value : Nat), reaches s (die04 s) → isPfSrc src = true →
    t = (if bit value 9 then setF (setF (setF s F.CLK_OBS_DIE f0 0 (bits value 0 5)) F.CLK_OBS_DOMAIN f0 0 (bits value 5 2))
        F.CLK_OBS_PREEMPTED f0 0 0
      else setF (setF s F.CLK_OBS_DIE f0 0 (bits value 0 5)) F.CLK_OBS_DOMAIN f0 0 (bits value 5 2)) →
    (bit value 8 = false → exec (.clkObsEnable src value) s = .next (showObs (setF t F.CLK_OBS_EN f0 0 0))) ∧
    (bit value 8 = true → flag t F.TST_ATB_ROUTE_EN_B f0 = true → exec (.clkObsEnable src value) s =
      .next (logErr (setF t F.CLK_OBS_LAST f0 0 CONFLICT) (srcFn src) CLK_REFUSED 0x090020)) ∧
    (bit value 8 = true → flag t F.TST_ATB_ROUTE_EN_B f0 = false → exec (.clkObsEnable src value) s =
      .next (showObs (setF (setF t F.CLK_OBS_EN f0 0 1) F.CLK_OBS_LAST f0 0 0))))

/-- R502-R505, R507, R509: failed clocks and the switch of a domain between its PLLs. -/
def Obligations.Clocks : Prop :=
  Claims.ClockFailure ∧ Claims.ClockSwitch

/-! ## Fences, errors and heartbeats -/

/-- R511, R512, R514, R515, R521: heartbeats and their loss, the fences of stations and dies, and what a scrub finds: corrected and
uncorrectable lines are counted and recorded. -/
def Obligations.FencesAndScrubs : Prop :=
  (∀ (s : State), flag s F.SN_HB_CFG_EN f0 = false → exec .heartbeatSend s = .next s ∧ ∀ e, exec (.heartbeatTimeout e) s = .next s) ∧
  (∀ (s : State), flag s F.SN_HB_CFG_EN f0 = true → exec .heartbeatSend s = .next ((List.range 8).foldl (fun s i =>
    if flag s F.SN_HB_WATCH_VALID f0 i then
      transmit (newNotice s 1 (myId s) (getF s F.SN_HB_WATCH_TAG f0 i) (getF s F.SN_HB_CFG_PERIOD f0) 0).2
        (noticeTx (newNotice s 1 (myId s) (getF s F.SN_HB_WATCH_TAG f0 i) (getF s F.SN_HB_CFG_PERIOD f0) 0).2
          (getF (newNotice s 1 (myId s) (getF s F.SN_HB_WATCH_TAG f0 i) (getF s F.SN_HB_CFG_PERIOD f0) 0).2 F.SN_HB_WATCH_MODULE f0 i)
          (newNotice s 1 (myId s) (getF s F.SN_HB_WATCH_TAG f0 i) (getF s F.SN_HB_CFG_PERIOD f0) 0).1)
    else s) s)) ∧
  (∀ (s : State) (e : Nat), e < 8 → flag s F.SN_HB_CFG_EN f0 = true → flag s F.SN_HB_WATCH_VALID f0 e = true →
    flag s F.SN_HB_WATCH_FAILED f0 e = false → now s ≥ tgetD s.hbLast e 0 + heartbeatLimit s →
    ∀ t, t = setF s F.SN_HB_WATCH_FAILED f0 e 1 → exec (.heartbeatTimeout e) s = .next (freezeTag (floodNotice
      (logModule t (getF s F.SN_HB_WATCH_MODULE f0 e)) 2 (getF s F.SN_HB_WATCH_MODULE f0 e) (getF s F.SN_HB_WATCH_TAG f0 e) (getF t F.SN_HB_CFG_MISSES f0) 0)
        (getF s F.SN_HB_WATCH_MODULE f0 e) (getF s F.SN_HB_WATCH_TAG f0 e))) ∧
  (∀ (s : State) (die st : Nat), isComp die = true → stations.contains st = true →
    (fifo s die st ≠ [] → exec (.progressTimeout die st) s = .next (fenceStation s die st 2)) ∧
    (fifo s die st = [] → exec (.progressTimeout die st) s = .next s)) ∧
  (∀ (s : State) (die st cause : Nat), (isComp die = true → exec (.stationFence die st cause) s = .next (fenceStation s die st cause)) ∧
    (isComp die = false → exec (.stationFence die st cause) s = .next s)) ∧
  (∀ (s : State) (die cause : Nat), (die < 32 → exec (.dieFence die cause) s = .next (fenceDie s die cause)) ∧
    (die ≥ 32 → exec (.dieFence die cause) s = .next s)) ∧
  (∀ (s : State) (die : Nat) (place : SramPlace), exec (.poolScrub die place .clean) s = .next s ∧
    (dieFenced s die = false →
      exec (.poolScrub die place .corrected) s = .next (logRec (addF s F.MGT_ERR_CE_SRAM die 0 1) 0 die 0xFF 0 0 0) ∧
      exec (.poolScrub die place .uncorrectable) s =
        .next (sramError (logRec (addF s F.MGT_ERR_UE_SRAM die 0 1) 1 die 0xFF 1 0 0) die place)) ∧
    (dieFenced s die = true → ∀ bad, exec (.poolScrub die place bad) s = .next s)) ∧
  (∀ (s : State) (stack line a : Nat), a = stack * stackBytes + 64 * line →
    exec (.hbmPatrolScrub stack line .clean) s = .next s ∧
    (stack < 32 → 64 * line < stackBytes → lostAt s a = false →
      exec (.hbmPatrolScrub stack line .corrected) s = .next (countCorrected (logRec (addF s F.MGT_ERR_CE_HBM (stack / 2) 0 1) 0
        (stack / 2) (0x40 + stack) 0 a 0) stack (pseudoChannel a)) ∧
      exec (.hbmPatrolScrub stack line .uncorrectable) s = .next (logRec (addF (markLines s a 64 1) F.MGT_ERR_UE_HBM (stack / 2) 0 1) 1
        (stack / 2) (0x40 + stack) 1 a 0)) ∧
    (lostAt s a = true → ∀ bad, exec (.hbmPatrolScrub stack line bad) s = .next s))

/-! ## Snapshots and the storage ports -/

/-- R525, R527, R532, R536: the four snapshot operations: a failed check ends the descriptor with its reason; a definition stores the set of
its manifest; a take holds until its capture; a restore checks its image; a connection is set or cleared. -/
def Obligations.SnapshotOps : Prop :=
  (∀ (s : State) (q tag op : Nat) (d : Desc) (checks : State → Desc → List (Nat × Bool)) (c : Instr) (image : Option SnImage),
    (c = .snDefine q tag ∧ op = 0x90 ∧ checks = defineChecks ∨ c = .snRestore q tag image ∧ op = 0x92 ∧ checks = restoreChecks image ∨
      c = .snConn q tag ∧ op = 0x93 ∧ checks = connChecks) →
    opDesc s q tag (fun i => opcode i == op) = some d →
    ∀ r, firstFail (checks s d) = some r → exec c s = .next (endSn s d (snStatus r) r 0 0)) ∧
  (∀ (s : State) (q tag : Nat) (d : Desc) (m : Bytes) (cause : Nat), opDesc s q tag (fun i => opcode i == 0x90) = some d →
    firstFail (defineChecks s d) = none → jobRead s d.fn (fld d.image 0x10 8) (64 + 32 * fld d.image 0x18 4) = (m, cause) →
    (cause ≠ 0 → exec (.snDefine q tag) s = .next (endSn s d (causeStatus cause) 0 0 0)) ∧
    (cause = 0 → badManifest m (fld d.image 0x18 4) = true → exec (.snDefine q tag) s = .next (endSn s d CONFLICT 1 0 0)) ∧
    (cause = 0 → badManifest m (fld d.image 0x18 4) = false → tget? s.sets (fld d.image 0x1C 1) = none →
      exec (.snDefine q tag) s = .next (endSn (setSet s (fld d.image 0x1C 1) ⟨d.fn, m, fld m 0 8, manifestExts m (fld d.image 0x18 4),
        fld d.image 0x1D 1, crc32c m, none, none, flashGen s (fld d.image 0x1C 1), none, none, none⟩) d DONE 0 0 0)) ∧
    (cause = 0 → badManifest m (fld d.image 0x18 4) = false → ∀ o, tget? s.sets (fld d.image 0x1C 1) = some o →
      exec (.snDefine q tag) s = .next (endSn (setSet s (fld d.image 0x1C 1) ⟨d.fn, m, fld m 0 8, manifestExts m (fld d.image 0x18 4),
        fld d.image 0x1D 1, crc32c m, o.prev, o.genP, o.genL, o.genS, none, none⟩) d DONE 0 0 0))) ∧
  (∀ (s : State) (q tag n : Nat) (d : Desc), opDesc s q tag (fun i => opcode i == 0x91) = some d → n = fld d.image 0x10 1 →
    (foreignSet s d n = false → (runOf s n).isSome = true → exec (.snTake q tag) s = .next s) ∧
    (runOf s n = none → (∀ r, firstFail (takeChecks s d) = some r → exec (.snTake q tag) s = .next (endSn s d (snStatus r) r 0 0)) ∧
      (firstFail (takeChecks s d) = none → exec (.snTake q tag) s = .next (holdSn (updSet s n (fun x => { x with run := (some
        ⟨q, tag, fld d.image 0x14 4, fld d.image 0x11 1, fld d.image 0x11 1, fld d.image 0x12 1, fld d.image 0x18 8, fld d.image 0x20 4,
          fld d.image 0x24 2, fld d.image 0x26 2, false, [], false, false, false⟩) })) q tag)))) ∧
  (∀ (s : State) (q tag : Nat) (d : Desc) (image : Option SnImage), opDesc s q tag (fun i => opcode i == 0x92) = some d →
    firstFail (restoreChecks image s d) = none →
    ((tget? s.sets (fld d.image 0x10 1) = none ∨ restoreImage s d image = none) → exec (.snRestore q tag image) s =
      .next (endSn s d GEN_ABSENT 7 (fld d.image 0x14 4) 0)) ∧
    (∀ x img, tget? s.sets (fld d.image 0x10 1) = some x → restoreImage s d image = some img →
      (img.intact = false → exec (.snRestore q tag image) s =
        .next (endSn (addF s F.SN_CNT_CRC_CRC f0 0 3) d FAULT_POISON 0 (fld d.image 0x14 4) 0)) ∧
      (img.intact = true → ∀ t e u f v,
        (if bit (fld d.image 0x12 1) 0 then restoreState s d x img else (s, 0)) = (t, e) →
        (e ≠ 0 → exec (.snRestore q tag image) s = .next (endSn t d e 0 (fld d.image 0x14 4) 0)) ∧
        (e = 0 → (if bit (fld d.image 0x12 1) 1 then
            writeExts t (qDie q) x.owner (x.exts.filter (fun e => e.kind == 0)) img.shards else (t, 0)) = (u, f) →
          (f ≠ 0 → exec (.snRestore q tag image) s = .next (endSn u d f 0 (fld d.image 0x14 4) 0)) ∧
          (f = 0 → v = (if bit (fld d.image 0x12 1) 1 then
              updSet (restoreShards u img) (fld d.image 0x10 1) (fun x => { x with clean := some (fld d.image 0x14 4) })
            else restoreShards u img) →
            exec (.snRestore q tag image) s = .next (runRings (endSn v d DONE 0 (fld d.image 0x14 4) 0))))))) ∧
  (∀ (s t : State) (q tag : Nat) (d : Desc) (m : Bytes) (cause : Nat), opDesc s q tag (fun i => opcode i == 0x93) = some d →
    firstFail (connChecks s d) = none → t = failConn s (fld d.image 0x18 1) →
    (fld d.image 0x19 1 = 1 → exec (.snConn q tag) s =
      .next (endSn { t with conns := tdel t.conns (fld d.image 0x18 1) } d DONE 0 0 0)) ∧
    (fld d.image 0x19 1 ≠ 1 → jobRead s d.fn (fld d.image 0x10 8) 128 = (m, cause) →
      (cause ≠ 0 → exec (.snConn q tag) s = .next (endSn s d (causeStatus cause) 0 0 0)) ∧
      (cause = 0 → badRecord m = true → exec (.snConn q tag) s = .next (endSn s d CONFLICT 1 0 0)) ∧
      (cause = 0 → badRecord m = false →
        (s.conns.filter (fun p => p.1 != fld d.image 0x18 1 && fld p.2.record 0 1 == fld m 0 1)).length < 8 →
        exec (.snConn q tag) s =
          .next (endSn { t with conns := tins t.conns (fld d.image 0x18 1) ⟨m, fld m 8 3, [], 0, 16⟩ } d DONE 0 0 0))))

/-- R527, R531, R533: the phases of a capture: the reads, the local layer and the shared layer each advance the run of a captured set, and
none acts on a set that has no run. -/
def Obligations.SnapshotPhases : Prop :=
  (∀ (s : State) (set extent : Nat) (ok : Bool), (∀ x, tget? s.sets set = some x → x.run = none) → runOf s set = none →
    exec (.captureDone set) s = .next s ∧ exec (.localLayerCommit set ok) s = .next s ∧ exec (.sharedLayerCommit set) s = .next s ∧
      exec (.snapshotExtentRead set extent) s = .next s) ∧
  (∀ (s : State) (set : Nat) (x : SnSet) (r : SnRun), tget? s.sets set = some x → x.run = some r → r.captured = false →
    (descOf s r.queue r.tag = none → exec (.captureDone set) s = .next (settle (updSet s set (fun x => { x with run := none })))) ∧
    (∀ d p, descOf s r.queue r.tag = some d → d.override = none → d.seqr ≠ 5 →
      ((x.exts.filter (fun e => e.kind == 1)).map (fun e => jobRead s x.owner e.va e.bytes)).find? (fun p => p.2 != 0) = some p →
      exec (.captureDone set) s = .next (runRings (settle (failCapture s set r (causeStatus p.2))))) ∧
    (∀ d parts img t u, descOf s r.queue r.tag = some d → d.override = none → d.seqr ≠ 5 →
      parts = (x.exts.filter (fun e => e.kind == 1)).map (fun e => jobRead s x.owner e.va e.bytes) →
      parts.find? (fun p => p.2 != 0) = none →
      img = ⟨r.gen, set, getF s F.FAB_FN_TAG_TAG f0 x.owner, x.crc, none, captureItems s x, parts.map (·.1), [], true⟩ →
      t = { s with images := tins (tins s.images (imgKey 0 set (newSlot s set x)) img) (imgKey 2 set 0) img } →
      u = freeSn (setSet t set { x with clean := some r.gen, prev := some r.gen, run := some { r with captured := true } }) r.queue
        r.tag DONE r.gen (b2n r.opwait) →
      exec (.captureDone set) s = .next (runRings (settle (if r.layers = 0 then endRun u set r else afterReads u set))))) ∧
  (∀ (s : State) (set : Nat) (x : SnSet) (r : SnRun), tget? s.sets set = some x → x.run = some r → r.captured = true →
    exec (.captureDone set) s = .next s) ∧
  (∀ (s : State) (set : Nat) (x : SnSet) (r : SnRun) (img : SnImage), tget? s.sets set = some x → buildImg s set = some img →
    x.run = some r →
    ((r.captured = false ∨ bit r.layers 1 = false) → ∀ ok, exec (.localLayerCommit set ok) s = .next s) ∧
    (r.captured = true → bit r.layers 1 = true → (shardExts x).all (fun i => r.read.contains i) = true →
      (flashWhole s = true → exec (.localLayerCommit set false) s =
        .next (runRings (settle (endLayer (endLayer s set 1 TIER_ERROR) set 2 TIER_ERROR)))) ∧
      (flashWhole s = false → ∀ ok, exec (.localLayerCommit set ok) s =
        .next (runRings (settle (endLayer (endLayer s set 1 FENCED) set 2 FENCED)))) ∧
      (flashWhole s = true → ∀ im t, im = { img with keyId := (snapKey s set).map (·.id) } →
        t = endLayer (setSet { s with images := tins s.images (imgKey 1 set (localSlot s set x)) im } set { x with genL := some r.gen })
          set 1 DONE →
        exec (.localLayerCommit set true) s = .next (runRings (settle (if bit r.layers 2 then startShared t set r im else t)))))) ∧
  (∀ (s : State) (set : Nat) (r : SnRun), runOf s set = some r →
    (r.captured = true → bit r.layers 2 = true → bit r.layers 1 = false → owesPkts s r.conn set = false →
      exec (.sharedLayerCommit set) s =
        .next (runRings (settle (endLayer (updSet s set (fun x => { x with genS := some r.gen })) set 2 DONE)))) ∧
    ((r.captured = false ∨ bit r.layers 2 = false ∨ bit r.layers 1 = true ∨ owesPkts s r.conn set = true) →
      exec (.sharedLayerCommit set) s = .next s)) ∧
  (∀ (s : State) (set extent cause : Nat) (x : SnSet) (r : SnRun) (e : SnExtent) (bs : Bytes), tget? s.sets set = some x →
    x.run = some r → r.captured = true → r.layers ≠ 0 → r.read.contains extent = false → (shardExts x).contains extent = true →
    x.exts[extent]? = some e → jobRead s x.owner e.va e.bytes = (bs, cause) →
    (cause ≠ 0 → exec (.snapshotExtentRead set extent) s = .next (runRings (settle (failLayers s set (causeStatus cause))))) ∧
    (cause = 0 → buildImg s set = none → exec (.snapshotExtentRead set extent) s =
      .next (runRings (settle (afterReads (updRun s set (fun r => { r with read := insertUp extent r.read })) set)))) ∧
    (cause = 0 → ∀ img place, buildImg s set = some img → place = (r.read.filter (fun i => decide (i < extent))).length →
      exec (.snapshotExtentRead set extent) s = .next (runRings (settle (afterReads (updRun { s with images := (tins s.images
        (imgKey 2 set 0) { img with shards := img.shards.take place ++ [bs] ++ img.shards.drop place }) } set
          (fun r => { r with read := insertUp extent r.read })) set)))))

/-- R464, R533: a storage connection resends what is unacknowledged, fails after seven retries, halves its rate on a congestion
notification, drops what a response acknowledges, and holds while its priority is paused; a port whose fabric die is fenced takes neither a response nor a
pause. -/
def Obligations.StoragePorts : Prop :=
  (∀ (s : State) (conn : Nat) (x : Conn), getConn s conn = some x →
    (x.unacked = [] → exec (.roceRetransmitTimeout conn) s = .next s) ∧
    (x.unacked ≠ [] → x.retries ≥ 7 → exec (.roceRetransmitTimeout conn) s = .next (runRings (settle (failConn s conn)))) ∧
    (x.unacked ≠ [] → x.retries < 7 → exec (.roceRetransmitTimeout conn) s = .next (x.unacked.foldl (fun s p => sendPkt s conn p)
      { s with conns := tins s.conns conn { x with retries := x.retries + 1 } })) ∧
    exec (.congestionNotification conn) s = .next { s with conns := tins s.conns conn { x with rate := max 1 (x.rate / 2) } } ∧
    (∀ psn data, connGone s x = true → exec (.roceResponseReceive conn psn data) s = .next s) ∧
    (∀ psn data, connGone s x = false → exec (.roceResponseReceive conn psn data) s = .next { s with
      conns := (tins s.conns conn { x with
        unacked := x.unacked.filter (fun p => !decide ((psn + 2 ^ 24 - p.psn) % 2 ^ 24 < 2 ^ 23)), retries := 0 }) })) ∧
  (∀ (s : State) (conn psn : Nat) (data : Bytes), getConn s conn = none → exec (.roceRetransmitTimeout conn) s = .next s ∧
    exec (.congestionNotification conn) s = .next s ∧ exec (.roceResponseReceive conn psn data) s = .next s) ∧
  (∀ (s : State) (sport prio quanta : Nat), sport ≤ 1 → prio ≤ 7 → dieFenced s (storageDie sport) = false →
    s.conns.any (fun p => connPort p.2 == sport * 8 + prio) = true →
    (quanta ≠ 0 → exec (.pfcPauseFrame sport prio quanta) s =
      .next { s with paused := tput s.paused (sport * 8 + prio) quanta 0 }) ∧
    (tget? s.paused (sport * 8 + prio) = none → exec (.pfcPauseFrame sport prio quanta) s =
      .next { s with paused := tput s.paused (sport * 8 + prio) quanta 0 }) ∧
    ((tget? s.paused (sport * 8 + prio)).isSome = true → exec (.pfcPauseFrame sport prio 0) s = .next
      ((s.conns.filter (fun p => connPort p.2 == sport * 8 + prio)).foldl (fun s p => p.2.unacked.foldl
        (fun s x => emit s (.storage p.1 x.kind x.data)) s) { s with paused := tput s.paused (sport * 8 + prio) 0 0 }))) ∧
  (∀ (s : State) (sport prio quanta : Nat), (sport > 1 ∨ prio > 7 ∨ dieFenced s (storageDie sport) = true ∨
    s.conns.any (fun p => connPort p.2 == sport * 8 + prio) = false) → exec (.pfcPauseFrame sport prio quanta) s = .next s)

/-! ## Resets, boot and management -/

/-- R548, R550: a cold start from Black, RESET_N, a warm reset by register, watchdog or command, and a cold reset by command: the cause is
recorded, and what each keeps is kept. -/
def Obligations.Resets : Prop :=
  (∀ (s : State) (main : Bool) (straps : Straps), s.supply.phase < 3 → exec (.coldStart main straps) s = .next s) ∧
  (∀ (s t : State) (main : Bool) (straps : Straps), s.supply.phase ≥ 3 →
    t = (List.range 32).foldl startDomains (setF (coldReset s 1 straps) F.PWR_STATE_SRC f0 0 (b2n (!main))) →
    exec (.coldStart main straps) s =
      .next (showBudget (setF t (if main then F.PWR_STATE_MAIN_OK else F.PWR_STATE_BACKUP_OK) f0 0 1))) ∧
  (∀ (s : State) (straps : Straps), (s.supply.phase < 3 → exec (.resetNAssert straps) s = .next (showBudget (coldReset s 2 straps))) ∧
    (s.supply.phase ≥ 3 → exec (.resetNAssert straps) s = .next s)) ∧
  (∀ (s t : State) (src : Src) (value : Nat), reaches s (die04 s) → isPfSrc src = true → t = plainWrite s src f0 0x0C0014 value →
    (bit value 0 = true → exec (.mgtResetWarm src value) s = .next (activate t 4)) ∧
    (bit value 0 = false → exec (.mgtResetWarm src value) s = .next t)) ∧
  (∀ (s : State), (s.supply.phase ≥ 3 → exec .managementWatchdog s = .next s) ∧
    (s.supply.phase < 3 → flag s F.MGT_FW_STATE_PENDING f0 = false → exec .managementWatchdog s = .next (showBudget (warmReset s 7))) ∧
    (s.supply.phase < 3 → flag s F.MGT_FW_STATE_PENDING f0 = true → exec .managementWatchdog s = .next (showBudget (warmReset
      (setF s F.MGT_FW_STATE_SLOT f0 0 (1 - getF s F.MGT_FW_STATE_RUNNING f0)) 6)))) ∧
  (∀ (s : State), answers s = true → exec (.warmReset []) s = .next (activate (reply s PLDM_SUCCESS) 5)) ∧
  (∀ (s : State) (bare : Bool) (straps : Straps), answers s = true →
    (barred s bare = false → exec (.coldReset [] bare straps) s = .next (showBudget (coldReset (reply s PLDM_SUCCESS) 3 straps))) ∧
    (barred s bare = true → exec (.coldReset [] bare straps) s = .next (reply s OEM_NOT_IN_SESSION)))

/-- R551, R552, R554, R561, R562: the boot ROM takes a slot that verifies and derives its identities (R563), and marks
one that does not; F4 takes over; a die enters limited
and then full service, or is fenced when its stacks or links are not ready; an update is written to the slot that does not run, and its
activation waits for the next warm reset. -/
def Obligations.BootAndService : Prop :=
  (∀ (s t : State) (img : FwImage) (slot : Nat), managed s = true → getF s F.MGT_SVC_DIES_LIMITED f0 = 0 → slot ≤ 1 →
    (slot = getF s F.MGT_FW_STATE_SLOT f0 ∨ s.bootBad.contains (getF s F.MGT_FW_STATE_SLOT f0 + 2 * manager s) = true) →
    t = { s with fwSlots := tins s.fwSlots slot (tgetD s.fwSlots slot img) } →
    (verifies t (tgetD s.fwSlots slot img) = true → exec (.bootVerify slot img) s = .next (enablePorts (deriveIdents (setF (setF (setF
      (setF (setF t F.MGT_FW_VERSION f0 0 (tgetD s.fwSlots slot img).version) F.MGT_FW_STATE_RUNNING f0 0 slot) F.MGT_FW_STATE_SVN f0 0
        (tgetD s.fwSlots slot img).svn) F.MGT_FW_STATE_FALLBACK f0 0 (b2n (slot != getF s F.MGT_FW_STATE_SLOT f0)))
          F.MGT_SVC_RECOVERY f0 0 0) (tgetD s.fwSlots slot img)))) ∧
    (verifies t (tgetD s.fwSlots slot img) = false → ∀ u, u = { t with bootBad := t.bootBad ++ [slot + 2 * manager s] } →
      exec (.bootVerify slot img) s =
        .next (if bootFails u 0 && bootFails u 1 then setF u F.MGT_SVC_RECOVERY f0 0 1 else u))) ∧
  (∀ (s : State) (img : FwImage) (slot : Nat), managed s = false → exec (.bootVerify slot img) s = .next s ∧
    exec .f4Takeover s = .next s ∧ exec (.firmwareUpdate img) s = .next s ∧ exec .activateFirmware s = .next s) ∧
  (∀ (s : State) (img : FwImage), managed s = true →
    (dieFenced s 20 = false → exec .f4Takeover s = .next (setF s F.MGT_SVC_MANAGER f0 0 1)) ∧
    (dieFenced s 20 = true → exec .f4Takeover s = .next s) ∧
    exec (.firmwareUpdate img) s =
      .next (reply { s with fwSlots := tins s.fwSlots (1 - getF s F.MGT_FW_STATE_RUNNING f0) img } PLDM_SUCCESS) ∧
    exec .activateFirmware s = .next (reply (setF s F.MGT_FW_STATE_PENDING f0 0 1) PLDM_SUCCESS)) ∧
  (∀ (s t : State) (die : Nat), managed s = true → isComp die = true → dieFenced s die = false → flag s F.MGT_SVC_RECOVERY f0 = false →
    strapFault s = false → powerOf s die < 2 → bit (getF s F.MGT_SVC_DIES_LIMITED f0) die = false →
    ((stacksReady s die && linkGroup s die) = false → exec (.limitedServiceEntry die) s = .next (fenceDie s die 6)) ∧
    ((stacksReady s die && linkGroup s die) = true →
      t = setF (startDomains (startDomains (startDomains s die) (16 + die / 2)) (24 + die / 2)) F.MGT_SVC_DIES_LIMITED f0 0
        (getF s F.MGT_SVC_DIES_LIMITED f0 + 2 ^ die) →
      exec (.limitedServiceEntry die) s = .next (showRoot (showLevel
        (if allDies t (getF s F.MGT_SVC_DIES_LIMITED f0 + 2 ^ die) then setF t F.MGT_BOOT_LIM_MS f0 0 (bootMs t) else t))))) ∧
  (∀ (s t : State) (die : Nat), managed s = true → isComp die = true → dieFenced s die = false →
    bit (getF s F.MGT_SVC_DIES_LIMITED f0) die = true → bit (getF s F.MGT_SVC_DIES_FULL f0) die = false →
    t = setF (setF s F.MGT_SVC_CAL_SPLIT f0 0 1) F.MGT_SVC_DIES_FULL f0 0 (getF s F.MGT_SVC_DIES_FULL f0 + 2 ^ die) →
    exec (.fullServiceEntry die) s = .next (startStep (showLevel
      (if allDies t (getF s F.MGT_SVC_DIES_FULL f0 + 2 ^ die) then setF t F.MGT_BOOT_FULL_MS f0 0 (bootMs t) else t)) die)) ∧
  (∀ (s : State) (die : Nat), (managed s = false ∨ isComp die = false ∨ dieFenced s die = true) →
    exec (.limitedServiceEntry die) s = .next s ∧ exec (.fullServiceEntry die) s = .next s)

/-- R558, R559: the OEM commands of the placement and the routing tables; while the management firmware does not answer, none acts, and
a request of another length completes with INVALID_LENGTH. -/
def Claims.PlacementCommands : Prop :=
  ∀ (s : State) (data : Bytes),
    (answers s = false → exec (.setPlacement data) s = .next s ∧ exec (.writeModuleTable data) s = .next s ∧
      exec (.writeOverride data) s = .next s ∧ exec (.writeMulticast data) s = .next s ∧ exec (.copyTables data) s = .next s ∧
      exec (.commitPlacement data) s = .next s) ∧
    (answers s = true →
      (data.length = 60 → exec (.setPlacement data) s = .next (reply { s with staged := some data } PLDM_SUCCESS)) ∧
      (data.length ≠ 60 → exec (.setPlacement data) s = .next (reply s PLDM_INVALID_LENGTH)) ∧
      (∀ c w n most put, (c = .writeModuleTable data ∧ w = 4 ∧ n = 16384 ∧ most = 256 ∧ put = putMod ∨
          c = .writeOverride data ∧ w = 12 ∧ n = 4096 ∧ most = 64 ∧ put = putOvr ∨
          c = .writeMulticast data ∧ w = 12 ∧ n = 1024 ∧ most = 64 ∧ put = putMc) →
        ((fld data 2 2 = 0 ∨ fld data 2 2 > most ∨ fld data 0 2 + fld data 2 2 > n) → exec c s = .next (reply s PLDM_INVALID_DATA)) ∧
        (fld data 2 2 ≠ 0 → fld data 2 2 ≤ most → fld data 0 2 + fld data 2 2 ≤ n →
          (data.length ≠ 4 + w * fld data 2 2 → exec c s = .next (reply s PLDM_INVALID_LENGTH)) ∧
          (data.length = 4 + w * fld data 2 2 → exec c s = .next (reply (writeShadow s (fun s k => (List.range (fld data 2 2)).foldl
            (fun s i => put s k (fld data 0 2 + i) (fld data (4 + w * i) w)) s)) PLDM_SUCCESS)))) ∧
      (∀ t, t = ((List.range 8).map (· + 16)).foldl (fun s k => if dieFenced s k then s else startCopy s k) s →
        exec (.copyTables []) s = .next (answerCopy { t with copyAsked := true })) ∧
      (s.staged = none → exec (.commitPlacement []) s = .next (reply s PLDM_NOT_READY)) ∧
      (∀ p, s.staged = some p → (noCopy s = false ∨ (newIdentity s p = true ∧ noJob s = false)) →
        exec (.commitPlacement []) s = .next (reply s PLDM_NOT_READY)) ∧
      (∀ p t, s.staged = some p → noCopy s = true → (newIdentity s p = false ∨ noJob s = true) →
        t = { putPlacement s p with staged := none } → exec (.commitPlacement []) s = .next (reply (settle (retryWaits
          (((List.range 8).map (· + 16)).foldl (fun s k =>
            if dieFenced s k then s else setF s F.FAB_ROUTE_CTRL_ACTIVE k 0 (1 - activeBank s k)) t))) PLDM_SUCCESS)))

/-- R14, R500, R514, R515, R558, R560: the OEM commands on recovery, power, fences, the tick and setup registers; a request that came
outside a session after the seal is refused where the rule asks for a session. -/
def Claims.OemCommands : Prop :=
  ∀ (s : State), answers s = true →
    (∀ data t, data.length = 40 → t = (List.range 8).foldl (fun t i => plainWrite t .mgmt f0 (0x0A0020 + 4 * i) (fld data (8 + 4 * i) 4))
      (plainWrite (plainWrite (plainWrite s .mgmt f0 0x0A0004 (fld data 0 2)) .mgmt f0 0x0A0008 (fld data 2 2)) .mgmt f0 0x0A0010
        (fld data 4 4)) → exec (.setRecovery data) s = .next (reply (startWatch s t) PLDM_SUCCESS)) ∧
    (∀ data, data.length = 2 →
      (bit (getF s F.AON_WAKE_EN_EN f0) 8 = true → exec (.wake data) s =
        .next (reply (wakeAll s 9 0 (diesIn (fld data 0 2))) PLDM_SUCCESS)) ∧
      (bit (getF s F.AON_WAKE_EN_EN f0) 8 = false → exec (.wake data) s = .next (reply s PLDM_SUCCESS))) ∧
    (∀ data, data.length = 3 →
      (fld data 0 1 = 2 → exec (.setPowerState data) s = .next (reply ((diesIn (fld data 1 2)).foldl (fun s d =>
        if dieFenced s d then s else setF s F.GV_PS_TARGET_TARGET d 0 2) s) PLDM_SUCCESS)) ∧
      (fld data 0 1 = 3 → s.descs ≠ [] → exec (.setPowerState data) s = .next (reply s OEM_CONFLICT)) ∧
      (fld data 0 1 = 3 → s.descs = [] → exec (.setPowerState data) s = .next (blackState (reply s PLDM_SUCCESS) true)) ∧
      (fld data 0 1 ≠ 2 → fld data 0 1 ≠ 3 → exec (.setPowerState data) s = .next (reply s PLDM_INVALID_DATA))) ∧
    (∀ data bare, data.length = 3 → barred s bare = false →
      (fld data 0 1 < 32 → fld data 1 2 = 0 → exec (.fence data bare) s = .next (reply (fenceDie s (fld data 0 1) 3) PLDM_SUCCESS)) ∧
      (isComp (fld data 0 1) = true → fld data 1 2 ≠ 0 → exec (.fence data bare) s = .next (reply ((stations.filter (fun st =>
        match stBit st with
        | some b => bit (fld data 1 2) b
        | none => false)).foldl (fun s st => fenceStation s (fld data 0 1) st 3) s) PLDM_SUCCESS)) ∧
      ((fld data 0 1 ≥ 32 ∨ (fld data 1 2 ≠ 0 ∧ isComp (fld data 0 1) = false)) →
        exec (.fence data bare) s = .next (reply s PLDM_INVALID_DATA))) ∧
    (∀ data bare, data.length = 8 → barred s bare = false →
      exec (.alignTick data bare) s = .next (reply (showRoot { setTickTo s (fld data 0 8) with aligned := true }) PLDM_SUCCESS)) ∧
    (∀ data bare die off, data.length = 8 → barred s bare = false → die = fld data 0 4 / 2 ^ 25 → off = fld data 0 4 % 2 ^ 25 →
      (die ≥ 32 → exec (.setupWrite data bare) s = .next (reply s PLDM_SUCCESS)) ∧
      (die < 32 → off % 4 ≠ 0 → exec (.setupWrite data bare) s = .next (reply
        (if dieFenced s die then s else logErr s 0 SETUP_FORMAT (formatDetail die off)) PLDM_INVALID_DATA)) ∧
      (die < 32 → off % 4 = 0 → exec (.setupWrite data bare) s = .next (reply (writeReg s .mgmt die off (fld data 4 4))
        (if !dieFenced s die && !inCharcoal s die && changesSealed s die off (fld data 4 4) then OEM_SEALED else PLDM_SUCCESS)))) ∧
    (∀ data v t, data.length = 4 → fld data 0 4 % 4 = 0 →
      (fld data 0 4 / 2 ^ 25 < 32 → setupRead s (fld data 0 4 / 2 ^ 25) (fld data 0 4 % 2 ^ 25) = (v, t) →
        exec (.setupRead data) s = .next (emit t (.mgmt PLDM_SUCCESS (toLe 4 v)))) ∧
      (fld data 0 4 / 2 ^ 25 ≥ 32 → exec (.setupRead data) s = .next (emit s (.mgmt PLDM_SUCCESS (toLe 4 0))))) ∧
    (∀ data, data.length = 4 → fld data 0 4 % 4 ≠ 0 → exec (.setupRead data) s = .next (reply s PLDM_INVALID_DATA)) ∧
    (∀ data, barred s true = true → (data.length = 3 → exec (.fence data true) s = .next (reply s OEM_NOT_IN_SESSION)) ∧
      (data.length = 8 → exec (.alignTick data true) s = .next (reply s OEM_NOT_IN_SESSION) ∧
        exec (.setupWrite data true) s = .next (reply s OEM_NOT_IN_SESSION)))

/-- R14, R500, R514, R515, R558-R560: the OEM commands (completion codes and lengths: log entry 59). -/
def Obligations.ManagementCommands : Prop :=
  Claims.PlacementCommands ∧ Claims.OemCommands

/-- R562, R565, R568: the commands that a session alone may give: the minimum SVN rises and never above the running one, a key slot is
revoked unless it is the last, link and snapshot keys are loaded, selected and erased; outside a session each is refused. -/
def Claims.SecuredCommands : Prop :=
  ∀ (s : State), answers s = true →
    (inSession s true = true →
      (∀ data, data.length = 1 →
        (getF s F.MGT_FW_STATE_SVN_MIN f0 ≤ fld data 0 1 → fld data 0 1 ≤ getF s F.MGT_FW_STATE_SVN f0 →
          exec (.commitSvn data true) s = .next (reply (setF s F.MGT_FW_STATE_SVN_MIN f0 0 (fld data 0 1)) PLDM_SUCCESS)) ∧
        ((fld data 0 1 > getF s F.MGT_FW_STATE_SVN f0 ∨ fld data 0 1 < getF s F.MGT_FW_STATE_SVN_MIN f0) →
          exec (.commitSvn data true) s = .next (reply s PLDM_INVALID_DATA)) ∧
        (fld data 0 1 > 3 → exec (.revokeKey data true) s = .next (reply s PLDM_INVALID_DATA)) ∧
        (fld data 0 1 ≤ 3 → keyLeft s (fld data 0 1) = false → exec (.revokeKey data true) s = .next (reply s OEM_CONFLICT)) ∧
        (fld data 0 1 ≤ 3 → keyLeft s (fld data 0 1) = true → exec (.revokeKey data true) s = .next (reply (setF s
          F.MGT_FW_STATE_KEYS_REVOKED f0 0 (getF s F.MGT_FW_STATE_KEYS_REVOKED f0 ||| 2 ^ fld data 0 1)) PLDM_SUCCESS))) ∧
      (∀ data, 12 ≤ data.length → keyFits (fld data 0 1) (keyOf data) = true → keyClashes s (fld data 0 1) (keyOf data) = false →
        exec (.loadKey data true) s = .next (reply { s with keys := tins s.keys (fld data 0 1) (keyOf data),
                                                            keyCtr := dropCounters s (fld data 0 1) } PLDM_SUCCESS)) ∧
      (∀ data, (data.length < 12 ∨ keyFits (fld data 0 1) (keyOf data) = false ∨ keyClashes s (fld data 0 1) (keyOf data) = true) →
        exec (.loadKey data true) s = .next (reply s PLDM_INVALID_DATA)) ∧
      (∀ data x, data.length = 3 → tget? s.keys (fld data 1 1) = some x →
        ((x.kind ≠ 0 ∨ fld data 2 1 > 1) → exec (.keySendSelect data true) s = .next (reply s PLDM_INVALID_DATA)) ∧
        (x.kind = 0 → fld data 2 1 ≤ 1 → exec (.keySendSelect data true) s = .next (reply { s with
          keySend := [1, 2, 3].foldl (fun t c => if bit x.scope (c - 1) then tput t (x.tag * 8 + c) (fld data 2 1) 0 else t) s.keySend }
            PLDM_SUCCESS))) ∧
      (∀ data, data.length = 3 →
        (tget? s.keys (fld data 1 1) = none → exec (.keySendSelect data true) s = .next (reply s PLDM_INVALID_DATA)) ∧
        (fld data 1 1 ≤ 67 → exec (.keyEraseSlot data true) s = .next (reply { s with keys := tdel s.keys (fld data 1 1),
                                                                                      keyCtr := dropCounters s (fld data 1 1) }
          PLDM_SUCCESS)) ∧
        (fld data 1 1 > 67 → exec (.keyEraseSlot data true) s = .next (reply s PLDM_INVALID_DATA)) ∧
        exec (.keyEraseAll data true) s = .next (reply { s with keys := [], keyCtr := [] } PLDM_SUCCESS))) ∧
    (∀ data, inSession s false = false → (data.length = 1 → exec (.commitSvn data false) s = .next (reply s OEM_NOT_IN_SESSION) ∧
        exec (.revokeKey data false) s = .next (reply s OEM_NOT_IN_SESSION)) ∧
      exec (.loadKey data false) s = .next (reply s OEM_NOT_IN_SESSION) ∧
      (data.length = 3 → exec (.keySendSelect data false) s = .next (reply s OEM_NOT_IN_SESSION) ∧
        exec (.keyEraseSlot data false) s = .next (reply s OEM_NOT_IN_SESSION) ∧
        exec (.keyEraseAll data false) s = .next (reply s OEM_NOT_IN_SESSION)))

/-- R557, R563, R564: an SPDM request is answered, with the measurement or the certificate chain asked for before the answer's other bytes,
which are free and depend on the key it is signed with (log entry 6); a sensor read answers 4 bytes, and in recovery mode base requests alone are answered. -/
def Claims.Attestation : Prop :=
  (∀ (s : State) (session : Nat) (msg : Bytes), (answers s = false → exec (.spdmMessage session msg) s = .next s) ∧
    (answers s = true → exec (.spdmMessage session msg) s = .next (emit { s with
      sessions := sessionsAfter s session (fld msg 1 1) } (.mgmt PLDM_SUCCESS
        ((if fld msg 1 1 = 0xE0 then measurement s (fld msg 3 1)
          else if fld msg 1 1 = 0x82 then certChain s (fld msg 2 1 % 16) else []) ++ Config.spdmAnswer session msg (signingKey s)))))) ∧
  (∀ (s : State) (kind n : Nat), ((managed s = false ∨ (flag s F.MGT_SVC_RECOVERY f0 = true ∧ kind ≠ 0)) →
      exec (.pldmSensorRead kind n) s = .next s) ∧
    (managed s = true → (flag s F.MGT_SVC_RECOVERY f0 = false ∨ kind = 0) → ∀ k t, freshFree s = (k, t) →
      (kind = 2 → exec (.pldmSensorRead kind n) s = .next (emit t (.mgmt PLDM_SUCCESS (toLe 4 (sensor t n k))))) ∧
      (kind = 4 → exec (.pldmSensorRead kind n) s = .next (emit t (.mgmt PLDM_SUCCESS (toLe 4 (regWord t f0 0x000000) ++
        toLe 4 (regWord t f0 0x000010) ++ toLe 4 (Config.sensorValue n k).toNat)))) ∧
      (kind ≠ 2 → kind ≠ 4 → exec (.pldmSensorRead kind n) s =
        .next (emit t (.mgmt PLDM_SUCCESS (toLe 4 (Config.sensorValue n k).toNat))))))

/-- R557, R562, R564, R565, R568: the commands of a session, SPDM and sensors (codes and free values: log entries 6 and 59). -/
def Obligations.SessionsAndSensors : Prop :=
  Claims.SecuredCommands ∧ Claims.Attestation

/-! ## Test -/

/-- R515, R574-R579, R581-R583: self-tests, margin runs and the analog test bus: each starts where the test registers allow it, and ends with its
findings; a target that may not be tested now is refused with LAST. -/
def Obligations.TestControl : Prop :=
  (∀ (s w : State) (src : Src) (die value : Nat), w = wakeByAccess s src die → reaches s die → isPfSrc src = true →
    (bit value 3 = false → exec (.bistStart src die value) s = .next (setF w F.TST_BIST_TARGET die 0 (bits value 0 3))) ∧
    (bit value 3 = true → exec (.bistStart src die value) s = .next (allowed w src F.TST_ALLOW_BIST 0x700004 (fun s =>
      if bistReady s die (bits value 0 3) then setF (setF { setF s F.TST_BIST_TARGET die 0 (bits value 0 3) with
        bists := tins (setF s F.TST_BIST_TARGET die 0 (bits value 0 3)).bists die (bits value 0 3) } F.TST_BIST_BUSY die 0 1)
          F.TST_BIST_LAST die 0 0
      else setF (setF s F.TST_BIST_TARGET die 0 (bits value 0 3)) F.TST_BIST_LAST die 0 CONFLICT)))) ∧
  (∀ (s t : State) (die : Nat) (failed : List Nat), (tget? s.bists die = none → exec (.bistDone die failed) s = .next s) ∧
    (∀ k, tget? s.bists die = some k → t = failed.foldl (fun s u => bistFail s die k u) (bistLeaves (setF (setF (setF
      { s with bists := tdel s.bists die } F.TST_BIST_BUSY die 0 0) F.TST_BIST_PASS die 0 (b2n failed.isEmpty)) F.TST_BIST_FAILS die 0
        (sat 255 failed.length)) die k) →
      (k = 4 → exec (.bistDone die failed) s = .next (settle (pumpRebuild t die))) ∧
      (k ≠ 4 → exec (.bistDone die failed) s = .next t))) ∧
  (∀ (s w : State) (src : Src) (die value : Nat) (put : State → State), isMem die = false → w = wakeByAccess s src die →
    reaches s die → isPfSrc src = true →
    put = (fun s => setF (setF s F.TST_MARGIN_TARGET die 0 (bits value 0 3)) F.TST_MARGIN_REPAIR die 0 (bits value 4 1)) →
    (bit value 3 = false → exec (.marginStart src die value) s = .next (put w)) ∧
    (bit value 3 = true → exec (.marginStart src die value) s = .next (allowed w src F.TST_ALLOW_MARGIN 0x700008 (fun s =>
      if marginRefused s die (bits value 0 3) then setF (put s) F.TST_MARGIN_LAST die 0 CONFLICT
      else beginMargin (put s) die (bits value 0 3) (bit value 4))))) ∧
  (∀ (s : State) (die : Nat) (m : MarginRun), tget? s.margins die = some m → isComp die = true → m.hold = false →
    tgetD s.drains (marginStack die m.target) 0 = 3 →
    (stranded s (marginStack die m.target) = true → exec (.marginHoldBegin die) s = .next (abandonMargin s die)) ∧
    (stranded s (marginStack die m.target) = false → stackEmpty s (marginStack die m.target) = true →
      exec (.marginHoldBegin die) s = .next { s with margins := tins s.margins die { m with hold := true },
                                                     stackState := tins s.stackState (marginStack die m.target) 2 }) ∧
    (stranded s (marginStack die m.target) = false → stackEmpty s (marginStack die m.target) = false →
      exec (.marginHoldBegin die) s = .next s)) ∧
  (∀ (s : State) (die lane margin : Nat) (found : List Finding),
    (tget? s.margins die = none → exec (.marginRunDone die lane margin found) s = .next s ∧ exec (.marginHoldBegin die) s = .next s) ∧
    (∀ m t weak, tget? s.margins die = some m →
      (isComp die = true → tgetD s.stackState (marginStack die m.target) 0 = 1 →
        exec (.marginRunDone die lane margin found) s = .next (endMargin s die)) ∧
      (isComp die = true → tgetD s.stackState (marginStack die m.target) 0 ≠ 1 → m.hold = false →
        exec (.marginRunDone die lane margin found) s = .next s) ∧
      (isComp die = true → tgetD s.stackState (marginStack die m.target) 0 ≠ 1 → m.hold = true →
        fixStack s die (marginStack die m.target) m.repair found = (t, weak) → exec (.marginRunDone die lane margin found) s =
          .next (endMargin (setF (setF (setF t F.TST_MARGIN_LANE die 0 lane) F.TST_MARGIN_MARGIN die 0 margin) F.TST_MARGIN_WEAK die 0
            (b2n weak)) die)) ∧
      (isComp die = false → fixPort s die (portOn die m.target) m.repair found = (t, weak) →
        exec (.marginRunDone die lane margin found) s = .next (endMargin (setF (setF (setF t F.TST_MARGIN_LANE die 0 lane)
          F.TST_MARGIN_MARGIN die 0 margin) F.TST_MARGIN_WEAK die 0 (b2n weak)) die)))) ∧
  (∀ (s w : State) (src : Src) (die value : Nat) (put : State → State), w = wakeByAccess s src die → reaches s die → isPfSrc src = true →
    put = (fun s => showAtb (setF (setF (setF s F.TST_ATB_SRC_A die 0 (bits value 0 8)) F.TST_ATB_SRC_B die 0 (bits value 8 8))
      F.TST_ATB_ERR die 0 (b2n (!(atbOffers die (bits value 0 8) && atbOffers die (bits value 8 8)))))) →
    (bits value 0 8 = 0 → bits value 8 8 = 0 → exec (.atbSelect src die value) s = .next (put w)) ∧
    ((bits value 0 8 ≠ 0 ∨ bits value 8 8 ≠ 0) →
      exec (.atbSelect src die value) s = .next (allowed w src F.TST_ALLOW_ATB 0x700000 put))) ∧
  (∀ (s t : State) (src : Src) (value : Nat), reaches s (die04 s) → isPfSrc src = true → bit value 5 = false → bit value 13 = false →
    t = setF (setF (setF (setF s F.TST_ATB_ROUTE_DIE_A f0 0 (bits value 0 5)) F.TST_ATB_ROUTE_EN_A f0 0 (bits value 5 1))
      F.TST_ATB_ROUTE_DIE_B f0 0 (bits value 8 5)) F.TST_ATB_ROUTE_EN_B f0 0 (bits value 13 1) →
    exec (.atbRoute src value) s = .next (showAtb t)) ∧
  (∀ (s : State) (src : Src) (value : Nat) (route put : State → State), reaches s (die04 s) → isPfSrc src = true →
    (bit value 5 = true ∨ bit value 13 = true) →
    route = (fun s => setF (setF (setF (setF s F.TST_ATB_ROUTE_DIE_A f0 0 (bits value 0 5)) F.TST_ATB_ROUTE_EN_A f0 0
      (bits value 5 1)) F.TST_ATB_ROUTE_DIE_B f0 0 (bits value 8 5)) F.TST_ATB_ROUTE_EN_B f0 0 (bits value 13 1)) →
    put = (fun s => showAtb (if bit value 13 = true ∧ flag (route s) F.CLK_OBS_EN f0 = true then
        showObs (setF (setF (route s) F.CLK_OBS_EN f0 0 0) F.CLK_OBS_PREEMPTED f0 0 1) else route s)) →
    exec (.atbRoute src value) s = .next (allowed s src F.TST_ALLOW_ATB 0x0E0004 put)) ∧
  (∀ (s : State) (a b : Nat), (a < 32 → (linkedTo a).contains b = true →
      exec (.inPackageLinkLost a b) s = .next (fenceCut 32 { s with links := tins s.links (linkKey a b) 1 })) ∧
    ((a ≥ 32 ∨ (linkedTo a).contains b = false) → exec (.inPackageLinkLost a b) s = .next s))

/-! ## Every command -/

/-- A step takes the command at the front of the queue and runs it with the queue's rest. -/
def Obligations.StepRunsFront : Prop :=
  ∀ (s : State) (c : Instr) (r : List Instr), s.pending = c :: r → step s = exec c { s with pending := r }

/-- No command changes the queue, so that a step consumes exactly its front. -/
def Obligations.QueueIsFifo : Prop :=
  (∀ (c : Instr) (s t : State), Sound s → exec c s = .next t → t.pending = s.pending) ∧
  (∀ (s t : State) (c : Instr) (r : List Instr), Sound s → s.pending = c :: r → step s = .next t → t.pending = r)

/-- With no command waiting, a step is one cycle of the module reference (the model's choice, log entry 10): with a source and a
running clock the tick advances by one where it does not slew (R500), and with no power, no source or a stopped clock it stands. -/
def Obligations.IdleStep : Prop :=
  ∀ (s : State), s.pending = [] → ∃ t, step s = .next t ∧ t.pending = [] ∧
    ((s.tickStop = true ∨ refSrc s = 0 ∨ s.supply.phase ≥ 3) → t.tick = s.tick) ∧
    (s.tickStop = false → refSrc s ≠ 0 → s.supply.phase < 3 → s.slew = 0 → t.tick = s.tick + 1)

/-- Every command answers a next state in every state: no command ends a run. -/
def Obligations.NoCommandEnds : Prop :=
  (∀ (c : Instr) (s : State), completes (exec c s)) ∧ ∀ (s : State), safeStep s

/-- R13, R14, R410, R485, R514, R515: after reset every register field reads the value its table gives, no command waits, no queue runs, no
port has trained, no die is fenced or asleep, the seal is open, and memory, tokens and streams are empty. -/
def Obligations.ResetState : Prop :=
  State.reset.pending = [] ∧ (∀ (f : Fld) (die i : Nat), getF State.reset f die i = fieldReset f die i) ∧
  (∀ q, qState State.reset q = 0 ∧ qEnabled State.reset q = false) ∧
  (∀ p, portState State.reset p = 0 ∧ portActive State.reset p = false) ∧
  (∀ die, dieFenced State.reset die = false ∧ powerOf State.reset die = 0) ∧ sealed State.reset = false ∧
  (∀ a, readByte State.reset.mem a = readByte [] a) ∧ (∀ die tok, getTok State.reset die tok = 0) ∧
  State.reset.streams = [] ∧ State.reset.descs = [] ∧ now State.reset = 0

/-- The invariant holds after reset: tables and memories are in their one form, and the logs are within their bounds. -/
def Obligations.SoundAtReset : Prop := Sound State.reset

/-- Every step keeps the invariant: the register table, the tokens and the byte memories stay in their one form, and the error log, the
repair log and the cache of notices within the bounds of R547, R584 and R520. -/
def Obligations.SoundKept : Prop := ∀ (s t : State), Sound s → step s = .next t → Sound t

/-- R514, R515: a fence is permanent until a cold reset: no step other than a cold reset or a loss of power takes a fence from a die or from
a station. -/
def Obligations.FencesPermanent : Prop :=
  ∀ (s t : State), Sound s → (∀ c r, s.pending = c :: r → isCold c = false) → step s = .next t →
    (∀ die, dieFenced s die = true → dieFenced t die = true) ∧
    (∀ die st, stFenced s die st = true → stFenced t die st = true)

/-- R13, R14: the seal is cleared only by a cold reset: no other step opens it. -/
def Obligations.SealPermanent : Prop :=
  ∀ (s t : State), Sound s → (∀ c r, s.pending = c :: r → isCold c = false) → step s = .next t → sealed s = true → sealed t = true

/-- What no operation of a descriptor reaches: an operation leaves the power and clock state, the logs, the keys, the seal's capture, the
firmware, the placement and the routing tables as they are. -/
def Obligations.OpsStayInside : Prop :=
  ∀ (c : Instr) (s t : State), Sound s → isOp c = true → exec c s = .next t → Unmoved s t

/-- Commands that store nothing leave every byte of memory as it was. -/
def Obligations.MemoryFrame : Prop :=
  ∀ (c : Instr) (s t : State), Sound s → isDry c = true → exec c s = .next t → ∀ a, readByte t.mem a = readByte s.mem a

/-- R76, R77, R483, R488, R603, R634: what becomes of a register write that does not reach its die: in Black and in Charcoal it is ignored
(in Charcoal a host's access still wakes the die), at a fenced die dropped and logged with WINDOW_FENCED, at a forced core domain held; a
virtual function has no window onto these registers. -/
def Obligations.WritesTurnedAway : Prop :=
  ∀ (c : Instr) (s : State) (src : Src) (die off v : Nat), writeOf s c = some (src, die, off, v) →
    (∀ f, src = .fn f → isPF f = false → exec c s = .next s) ∧
    (s.supply.phase ≥ 3 → exec c s = .next s) ∧
    (isPfSrc src = true → s.supply.phase < 3 →
      (dieFenced s die = true → (∀ f, src = .fn f → exec c s = .next (logErr s f WINDOW_FENCED die)) ∧
        (src = .mgmt → exec c s = .next s)) ∧
      (dieFenced s die = false → inCharcoal s die = true → exec c s = .next (wakeByAccess s src die)) ∧
      (dieFenced s die = false → inCharcoal s die = false → coreForced s die = true →
        exec c s = .next { s with heldWrites := s.heldWrites ++ [⟨die, src, off, v⟩] }))

/-! ## Rules as the spec words them -/

/-- R9: a number stored little-endian has its lowest bits at the lowest address: byte `i` holds bits [8i+7:8i], and reading the bytes
gives the number back. -/
def Obligations.LittleEndian : Prop :=
  (∀ (n v : Nat), (toLe n v).length = n ∧ leNat (toLe n v) = v % 2 ^ (8 * n) ∧
    ∀ i, i < n → ((toLe n v).getD i 0).toNat = bits v (8 * i) 8) ∧
  (∀ (b : Bytes), toLe b.length (leNat b) = b) ∧
  (∀ (m : List Host.Cell) (a n v : Nat), Memory.wf m → leNat (readBytes (writeBytes m a (toLe n v)) a n) = v % 2 ^ (8 * n))

/-- R15: a write of the low half of a pair changes no register's value; the write of the high half then takes both halves. -/
def Obligations.PairWrite : Prop :=
  ∀ (s t u : State) (die i v w : Nat) (l h : Fld), Sound s → (l, h) ∈ pairs → (l.acc = .rwl → sealed s = false) → die < 32 → i < 4096 →
    t = writePart s die v (l, i) → u = writePart t die w (h, i) →
    (∀ f d j, getF t f d j = getF s f d j) ∧ getF u l die i = fieldOf l v ∧ getF u h die i = fieldOf h w

/-- R61: a wait for a value is satisfied when the token's value less it, as a signed 32-bit integer, is 0 or more; a descriptor that waits
on such a token is ready for dispatch only then. -/
def Obligations.TokenWait : Prop :=
  (∀ (s : State) (die tok v : Nat), waitHolds s die tok v = true ↔ 0 ≤ (getTok s die tok - BitVec.ofNat 32 v).toInt) ∧
  (∀ (s : State) (die : Nat) (d : Desc), isReady s die d = true → hWait d.image = true →
    0 ≤ (getTok s die (hWaitTok d.image) - BitVec.ofNat 32 (hWaitVal d.image)).toInt)

/-- R624: the cause of a tile is the first of the causes of its lines in the order 6, 1, 4, 3, 2, 5, whichever line was met first, and
gives its consumer that cause's status. -/
def Obligations.PoisonOrder : Prop :=
  (∀ (cs : List Nat), (∀ c ∈ cs, 1 ≤ c ∧ c ≤ 6) →
    (6 ∈ cs → worstCause cs = 6) ∧ (6 ∉ cs → 1 ∈ cs → worstCause cs = 1) ∧ (6 ∉ cs → 1 ∉ cs → 4 ∈ cs → worstCause cs = 4) ∧
    (6 ∉ cs → 1 ∉ cs → 4 ∉ cs → 3 ∈ cs → worstCause cs = 3) ∧
    (6 ∉ cs → 1 ∉ cs → 4 ∉ cs → 3 ∉ cs → 2 ∈ cs → worstCause cs = 2) ∧
    (cs ≠ [] → (∀ c ∈ cs, c = 5) → worstCause cs = 5)) ∧
  (∀ (cs ds : List Nat), (∀ c, c ∈ cs ↔ c ∈ ds) → worstCause cs = worstCause ds) ∧
  causeStatus 1 = FAULT_POISON ∧ causeStatus 2 = FAULT_TRANSLATION ∧ causeStatus 3 = FAULT_PROTECTION ∧ causeStatus 4 = TIER_ERROR ∧
  causeStatus 5 = FAULT_POISON ∧ causeStatus 6 = FENCED

/-- R96: the entry of counter value e lies at ring base + 16 × (e mod ring size), with a phase bit of 1 on the first pass after enable, 0 on
the second, and so on; here for a ring in memory of the module, whose entry is read back whole. -/
def Obligations.CompletionEntry : Prop :=
  ∀ (s : State) (r e a : Nat) (c : Cpl), Sound s → c.detail.length = 6 → e = getF s F.QUE_CR_TAIL_TAIL (r / 256) (r % 256) →
    a = getPair s F.QUE_CR_BASE_LO_BASE F.QUE_CR_BASE_HI_BASE (r / 256) (r % 256) + 16 * (e % ringSize s r) →
    (entryBytes s r c).length = 16 ∧ bit ((entryBytes s r c).getD 15 0).toNat 7 = (e / ringSize s r % 2 == 0) ∧
    (flag s F.QUE_CR_CFG_LOC (r / 256) (r % 256) = true → readBytes (writeEntry s r c).mem a 16 = entryBytes s r c) ∧
    (flag s F.QUE_CR_CFG_LOC (r / 256) (r % 256) = false →
      writeEntry s r c = fireRing (addW (setRInt (hostWrite s (portOf ((ringOwner s r).getD 0)) a (entryBytes s r c)) r
        { getRInt s r with stamps := (getRInt s r).stamps ++ [(e, now s)], hot := statusKind c.status == .fault || c.irq })
        F.QUE_CR_TAIL_TAIL (r / 256) (r % 256) 1) r)

/-- R82, R100: while STATE is not 0, a write to the base, the configuration or the head write-back registers of a queue, or one that would
change OPC_MASK, is ignored and logged with CFG_WHILE_ENABLED, in the ring of function 0 where no function owns the queue, whether it
comes through the window of a function, whose access has first woken a die in Grey (R488), or by SetupWrite. -/
def Obligations.QueueConfigLocked : Prop :=
  ∀ (s w : State) (src : Src) (q k v : Nat), Sound s → w = wakeByAccess s src (qDie q) → q < 65536 → reaches s (qDie q) →
    mayWrite src (queueOwner w q) → qState w q ≠ 0 →
    (k = 0x00 ∨ k = 0x04 ∨ k = 0x08 ∨ k = 0x18 ∨ k = 0x1C ∨
      (k = 0x0C ∧ v < 2 ^ 32 ∧ v / 2 ^ 16 ≠ getF w F.QUE_Q_CTRL_OPC_MASK (qDie q) (qLoc q) ∧ bit v 1 = false ∧ bit v 2 = false ∧
        (qState w q = 1 ∧ qEnabled w q = true ∧ bit v 0 = true ∨ qState w q = 3 ∧ bit v 0 = false))) →
    writeReg s src (qDie q) (queueOff q + k) v =
      logErr w (eventFn src (queueOwner w q)) CFG_WHILE_ENABLED (queueOff q + k) (some q) ∧
    (∀ fn off, src = .fn fn → barPlace s fn off = some (qDie q, queueOff q + k) → off % 4 = 0 → (isPF fn = true ∨ off < 0x30000) →
      exec (.registerWrite fn off 4 v) s =
        .next (logErr w (eventFn src (queueOwner w q)) CFG_WHILE_ENABLED (queueOff q + k) (some q))) ∧
    (∀ data bare, src = .mgmt → answers s = true → barred s bare = false → data.length = 8 →
      fld data 0 4 = qDie q * 2 ^ 25 + queueOff q + k → fld data 4 4 = v →
      exec (.setupWrite data bare) s = .next (reply (logErr s 0 CFG_WHILE_ENABLED (queueOff q + k) (some q)) PLDM_SUCCESS))

/-- R488, R599, R634: an offset that holds no register reads 0 and ignores writes, with no error logged; the block of a compute die in
Charcoal that is not fenced ignores writes and reads 0, but for its GV_ registers, which stay readable. An access of a host that is not
turned away wakes the die all the same. -/
def Obligations.AbsentAndAsleep : Prop :=
  (∀ (s : State) (src : Src) (die o v : Nat), o % 4 = 0 → die < 32 → holdsReg die o = false → reaches s die →
    writeReg s src die o v = wakeByAccess s src die) ∧
  (∀ (s : State) (src : Src) (die o v : Nat), inCharcoal s die = true → dieFenced s die = false →
    writeReg s src die o v = (if s.supply.phase ≥ 3 then s else wakeByAccess s src die)) ∧
  (∀ (s : State) (fn off v die o : Nat), barPlace s fn off = some (die, o) → off % 4 = 0 → o % 4 = 0 → die < 32 →
    (isPF fn = true ∨ off < 0x30000) → holdsReg die o = false → reaches s die →
    exec (.registerWrite fn off 4 v) s = .next (wakeByAccess s (.fn fn) die)) ∧
  (∀ (s : State) (data : Bytes) (die o : Nat), answers s = true → data.length = 4 → fld data 0 4 = die * 2 ^ 25 + o → o < 2 ^ 25 →
    o % 4 = 0 → holdsReg die o = false → reaches s die → exec (.setupRead data) s = .next (emit s (.mgmt PLDM_SUCCESS (toLe 4 0)))) ∧
  (∀ (s : State) (fn off v die o : Nat), barPlace s fn off = some (die, o) → off % 4 = 0 → inCharcoal s die = true →
    dieFenced s die = false → crdbRing die o = none → (isPF fn = true ∨ off < 0x30000) →
    exec (.registerWrite fn off 4 v) s = .next (if s.supply.phase ≥ 3 then s else wakeByAccess s (.fn fn) die)) ∧
  (∀ (s : State) (data : Bytes) (die o : Nat), answers s = true → data.length = 4 → fld data 0 4 = die * 2 ^ 25 + o → o < 2 ^ 25 →
    o % 4 = 0 → inCharcoal s die = true → dieFenced s die = false →
    ((o < 0x600000 ∨ 0x600038 ≤ o) → exec (.setupRead data) s = .next (emit s (.mgmt PLDM_SUCCESS (toLe 4 0)))) ∧
    (0x600000 ≤ o → o < 0x600038 → coreForced s die = false →
      exec (.setupRead data) s = .next (emit s (.mgmt PLDM_SUCCESS (toLe 4 (readReg s .mgmt die o)))))) ∧
  (∀ (s : State) (fn off v die o : Nat), barPlace s fn off = some (die, o) → crdbRing die o = none → off % 4 = 0 →
    (isPF fn = true ∨ off < 0x30000) → s.supply.phase < 3 → dieFenced s die = true →
    exec (.registerWrite fn off 4 v) s = .next (logErr s fn WINDOW_FENCED die)) ∧
  (∀ (s : State) (die o v : Nat), dieFenced s die = true → writeReg s .mgmt die o v = s) ∧
  (∀ (s : State) (data : Bytes) (die o : Nat), answers s = true → data.length = 4 → fld data 0 4 = die * 2 ^ 25 + o → o < 2 ^ 25 →
    o % 4 = 0 → die < 32 → dieFenced s die = true →
    exec (.setupRead data) s = .next (emit s (.mgmt PLDM_SUCCESS (toLe 4 0xFFFFFFFF))))

/-- R165, R167: FP6 packs four elements into a little-endian group of 3 bytes and FP4 two into a byte, with zeros after the last; every
NaN that a conversion writes is the format's canonical one, and a NaN is written as it. -/
def Obligations.NumberFormats : Prop :=
  (∀ (fmt i : Nat) (cs : List Nat), (fmt = 0x0A ∨ fmt = 0x0B) → (∀ c ∈ cs, c < 64) → 4 * i < cs.length →
    leNat (((packRow fmt cs).drop (3 * i)).take 3) = cs.getD (4 * i) 0 + cs.getD (4 * i + 1) 0 * 2 ^ 6 +
      cs.getD (4 * i + 2) 0 * 2 ^ 12 + cs.getD (4 * i + 3) 0 * 2 ^ 18) ∧
  (∀ (i : Nat) (cs : List Nat), (∀ c ∈ cs, c < 16) → 2 * i < cs.length →
    ((packRow 0x0C cs).getD i 0).toNat = cs.getD (2 * i) 0 + cs.getD (2 * i + 1) 0 * 16) ∧
  (∀ (fmt j : Nat) (cs : List Nat), (fmt = 0x0A ∨ fmt = 0x0B) → (∀ c ∈ cs, c < 64) → j < (cs.length + 3) / 4 * 4 →
    elemCode fmt (packRow fmt cs) j = cs.getD j 0) ∧
  (∀ (j : Nat) (cs : List Nat), (∀ c ∈ cs, c < 16) → j < (cs.length + 1) / 2 * 2 →
    elemCode 0x0C (packRow 0x0C cs) j = cs.getD j 0) ∧
  (∀ fmt, (fmt = 0x0A ∨ fmt = 0x0B ∨ fmt = 0x0C) → ∃ x, elemVal fmt 0 = .fin false x ∧ x.n = 0) ∧
  (∀ (fmt nan : Nat) (sat : Bool) (mode : RMode) (v : Val), (fmt = 0x01 ∧ nan = 0x7F ∨ fmt = 0x02 ∧ nan = 0x7F ∨
      fmt = 0x03 ∧ nan = 0x7FC0 ∨ fmt = 0x04 ∧ nan = 0x7FC00000 ∨ fmt = 0x05 ∧ nan = 0x7FF8000000000000) →
    (elemVal fmt (convPlain fmt sat mode v).1 = .nan → (convPlain fmt sat mode v).1 = nan) ∧
    (v = .nan → (convPlain fmt sat mode v).1 = nan ∧ elemVal fmt nan = .nan))

/-- R150, R151: the achieved bound of a split call is 7s - 6 - Δ bits, clamped to 0-255; with s = 0 the call uses the least number of
slices, from 2, that meets the bound asked for, or 8 with the bound-unmet flag. -/
def Obligations.SplitBound : Prop :=
  (∀ (s delta : Nat), (beta s delta : Int) = max 0 (min 255 (7 * (s : Int) - 6 - (delta : Int)))) ∧
  (∀ (b delta : Nat), b ≤ 255 →
    2 ≤ slicesUsed 0 b delta ∧ slicesUsed 0 b delta ≤ 8 ∧
    (unmet 0 b delta = false → b ≤ beta (slicesUsed 0 b delta) delta) ∧
    (unmet 0 b delta = true → slicesUsed 0 b delta = 8) ∧
    (b ≠ 0 → (∀ s, 2 ≤ s → s < slicesUsed 0 b delta → beta s delta < b) ∧ (unmet 0 b delta = true → beta 8 delta < b))) ∧
  (∀ (s b delta : Nat), s ≠ 0 → slicesUsed s b delta = s ∧ unmet s b delta = false)
end

