-- ==== Sys2Proof/Laws/Maps.lean ====
section
/-! SUPPORT. Laws of the finite maps and of the byte memory: a read after a write, other places left alone, and the canonical form
kept by every operation (R9, R42). -/

namespace Sys2Proof.Laws

open Sys2Proof Sys2Proof.Machine

variable {α : Type}

/-- A bound may be lowered. -/
theorem risingFrom_le {b c : Nat} (h : b ≤ c) : ∀ {m : Tab α}, risingFrom c m = true → risingFrom b m = true
  | [], _ => rfl
  | (k, v) :: r, hm => by
    simp only [risingFrom, Bool.and_eq_true, decide_eq_true_eq] at hm ⊢
    exact ⟨by omega, hm.2⟩

/-- A rising map lists nothing below its bound. -/
theorem tget?_below : ∀ {m : Tab α} {b x : Nat}, risingFrom b m = true → x < b → tget? m x = none
  | [], _, _, _, _ => rfl
  | (k, v) :: r, b, x, hm, hx => by
    simp only [risingFrom, Bool.and_eq_true, decide_eq_true_eq] at hm
    have h1 : k ≠ x := by omega
    have h2 : x < k := by omega
    simp [tget?, h1, h2]

/-- The key inserted reads as the value. -/
@[simp] theorem tget?_tins_same : ∀ (m : Tab α) (k : Nat) (v : α), tget? (tins m k v) k = some v
  | [], k, v => by simp [tins, tget?]
  | (a, b) :: r, k, v => by
    unfold tins
    split
    · simp [tget?]
    · split
      · simp [tget?]
      · have h1 : a ≠ k := by omega
        have h2 : ¬ k < a := by omega
        simp [tget?, h1, h2, tget?_tins_same r k v]

/-- Other keys read as before. -/
theorem tget?_tins_other : ∀ (m : Tab α) {k x : Nat} (v : α), x ≠ k → tget? (tins m k v) x = tget? m x
  | [], k, x, v, h => by
    have h1 : k ≠ x := fun e => h e.symm
    simp [tins, tget?, h1]
  | (a, b) :: r, k, x, v, h => by
    have h1 : k ≠ x := fun e => h e.symm
    unfold tins
    split
    · rename_i hk
      by_cases hx : x < k
      · have h2 : a ≠ x := by omega
        have h3 : x < a := by omega
        simp [tget?, h1, hx, h2, h3]
      · simp [tget?, h1, hx]
    · split
      · rename_i _ hk
        subst hk
        simp [tget?, h1]
      · simp only [tget?, tget?_tins_other r v h]

/-- The key removed reads as unlisted. -/
theorem tget?_tdel_same : ∀ {m : Tab α} {b : Nat} (k : Nat), risingFrom b m = true → tget? (tdel m k) k = none
  | [], _, _, _ => rfl
  | (a, v) :: r, b, k, hm => by
    simp only [risingFrom, Bool.and_eq_true, decide_eq_true_eq] at hm
    unfold tdel
    split
    · rename_i h
      subst h
      exact tget?_below hm.2 (by omega)
    · split
      · rename_i h1 h2
        simp [tget?, h1, h2]
      · rename_i h1 h2
        simp [tget?, h1, h2, tget?_tdel_same k hm.2]

/-- Other keys read as before. -/
theorem tget?_tdel_other : ∀ {m : Tab α} {b : Nat} {k x : Nat}, risingFrom b m = true → x ≠ k → tget? (tdel m k) x = tget? m x
  | [], _, _, _, _, _ => rfl
  | (a, v) :: r, b, k, x, hm, h => by
    simp only [risingFrom, Bool.and_eq_true, decide_eq_true_eq] at hm
    unfold tdel
    split
    · rename_i he
      subst he
      have h1 : a ≠ x := fun e => h e.symm
      by_cases hx : x < a
      · simp [tget?, h1, hx, tget?_below hm.2 (by omega : x < a + 1)]
      · simp [tget?, h1, hx]
    · split
      · rfl
      · simp only [tget?, tget?_tdel_other hm.2 h]

/-- Inserting keeps the form. -/
theorem risingFrom_tins : ∀ {m : Tab α} {b k : Nat} (v : α), risingFrom b m = true → b ≤ k → risingFrom b (tins m k v) = true
  | [], b, k, v, _, h => by simp [tins, risingFrom, h]
  | (a, w) :: r, b, k, v, hm, h => by
    simp only [risingFrom, Bool.and_eq_true, decide_eq_true_eq] at hm
    unfold tins
    split
    · rename_i hk
      simp only [risingFrom, Bool.and_eq_true, decide_eq_true_eq]
      exact ⟨h, by omega, hm.2⟩
    · split
      · rename_i _ hk
        subst hk
        simp only [risingFrom, Bool.and_eq_true, decide_eq_true_eq]
        exact ⟨h, hm.2⟩
      · simp only [risingFrom, Bool.and_eq_true, decide_eq_true_eq]
        exact ⟨hm.1, risingFrom_tins v hm.2 (by omega)⟩

/-- Removing keeps the form. -/
theorem risingFrom_tdel : ∀ {m : Tab α} {b : Nat} (k : Nat), risingFrom b m = true → risingFrom b (tdel m k) = true
  | [], _, _, _ => rfl
  | (a, w) :: r, b, k, hm => by
    have hm' := hm
    simp only [risingFrom, Bool.and_eq_true, decide_eq_true_eq] at hm'
    unfold tdel
    split
    · exact risingFrom_le (by omega) hm'.2
    · split
      · exact hm
      · simp only [risingFrom, Bool.and_eq_true, decide_eq_true_eq]
        exact ⟨hm'.1, risingFrom_tdel k hm'.2⟩

/-- A part of a rising map is rising. -/
theorem risingFrom_filter (p : Nat × α → Bool) : ∀ {m : Tab α} {b : Nat}, risingFrom b m = true → risingFrom b (m.filter p) = true
  | [], _, _ => rfl
  | (a, w) :: r, b, hm => by
    simp only [risingFrom, Bool.and_eq_true, decide_eq_true_eq] at hm
    by_cases hp : p (a, w) = true
    · rw [List.filter_cons_of_pos hp]
      simp only [risingFrom, Bool.and_eq_true, decide_eq_true_eq]
      exact ⟨hm.1, risingFrom_filter p hm.2⟩
    · rw [List.filter_cons_of_neg hp]
      exact risingFrom_filter p (risingFrom_le (by omega) hm.2)

/-- Changing values keeps the form. -/
theorem risingFrom_map {β : Type} (f : Nat × α → β) : ∀ {m : Tab α} {b : Nat}, risingFrom b m = true →
    risingFrom b (m.map (fun p => (p.1, f p))) = true
  | [], _, _ => rfl
  | (a, w) :: r, b, hm => by
    simp only [risingFrom, Bool.and_eq_true, decide_eq_true_eq] at hm
    simp only [List.map_cons, risingFrom, Bool.and_eq_true, decide_eq_true_eq]
    exact ⟨hm.1, risingFrom_map f hm.2⟩

theorem tabWf_nil : tabWf ([] : Tab α) = true := rfl

theorem tabWf_tins {m : Tab α} (k : Nat) (v : α) (h : tabWf m = true) : tabWf (tins m k v) = true :=
  risingFrom_tins v h (Nat.zero_le _)

theorem tabWf_tdel {m : Tab α} (k : Nat) (h : tabWf m = true) : tabWf (tdel m k) = true := risingFrom_tdel k h

theorem tabWf_filter {m : Tab α} (p : Nat × α → Bool) (h : tabWf m = true) : tabWf (m.filter p) = true := risingFrom_filter p h

theorem tabWf_tput [DecidableEq α] {m : Tab α} (k : Nat) (v d : α) (h : tabWf m = true) : tabWf (tput m k v d) = true := by
  unfold tput
  split
  · exact tabWf_tdel k h
  · exact tabWf_tins k v h

/-- A write reads back as the value written, whatever the default. -/
theorem tgetD_tput_same [DecidableEq α] {m : Tab α} (k : Nat) (v d : α) (h : tabWf m = true) : tgetD (tput m k v d) k d = v := by
  unfold tput tgetD
  split
  · rename_i hv
    simp [tget?_tdel_same k h, hv]
  · simp

/-- A write leaves every other key alone. -/
theorem tget?_tput_other [DecidableEq α] {m : Tab α} {k x : Nat} (v d : α) (h : tabWf m = true) (hx : x ≠ k) :
    tget? (tput m k v d) x = tget? m x := by
  unfold tput
  split
  · exact tget?_tdel_other h hx
  · exact tget?_tins_other m v hx

/-! ## The byte memory -/

/-- Joining maps whose keys do not interleave. -/
theorem risingFrom_append {c : Nat} : ∀ {m n : Tab α} {b : Nat}, risingFrom b m = true → (∀ p ∈ m, p.1 < c) → risingFrom c n = true →
    b ≤ c → risingFrom b (m ++ n) = true
  | [], n, b, _, _, hn, hb => risingFrom_le hb hn
  | (a, w) :: r, n, b, hm, hc, hn, hb => by
    simp only [risingFrom, Bool.and_eq_true, decide_eq_true_eq] at hm
    simp only [List.cons_append, risingFrom, Bool.and_eq_true, decide_eq_true_eq]
    have ha : a < c := hc (a, w) (by simp)
    exact ⟨hm.1, risingFrom_append hm.2 (fun p hp => hc p (by simp [hp])) hn (by omega)⟩

/-- The part of a rising map from a bound on rises from that bound. -/
theorem risingFrom_cellsFrom (a : Nat) : ∀ {m : List Host.Cell} {b : Nat}, risingFrom b m = true → risingFrom a (cellsFrom m a) = true
  | [], _, _ => rfl
  | (k, w) :: r, b, hm => by
    simp only [risingFrom, Bool.and_eq_true, decide_eq_true_eq] at hm
    by_cases hk : a ≤ k
    · have : cellsFrom ((k, w) :: r) a = (k, w) :: cellsFrom r a := by simp [cellsFrom, hk]
      rw [this]
      simp only [risingFrom, Bool.and_eq_true, decide_eq_true_eq]
      refine ⟨hk, ?_⟩
      have h1 : risingFrom (k + 1) (cellsFrom r a) = true := risingFrom_filter _ hm.2
      exact h1
    · have : cellsFrom ((k, w) :: r) a = cellsFrom r a := by simp [cellsFrom, hk]
      rw [this]
      exact risingFrom_cellsFrom a hm.2

theorem cellsBelow_lt (m : List Host.Cell) (a : Nat) : ∀ p ∈ cellsBelow m a, p.1 < a := by
  intro p hp
  simp only [cellsBelow, List.mem_filter, decide_eq_true_eq] at hp
  exact hp.2

/-- The cells of a byte string rise from its address and lie within it. -/
theorem risingFrom_cellsOf : ∀ (bs : Bytes) (a : Nat), risingFrom a (cellsOf a bs) = true
  | [], _ => rfl
  | b :: r, a => by
    unfold cellsOf
    split
    · exact risingFrom_le (by omega) (risingFrom_cellsOf r (a + 1))
    · simp only [risingFrom, Bool.and_eq_true, decide_eq_true_eq]
      exact ⟨Nat.le_refl a, risingFrom_cellsOf r (a + 1)⟩

theorem cellsOf_lt : ∀ (bs : Bytes) (a : Nat), ∀ p ∈ cellsOf a bs, p.1 < a + bs.length
  | [], _, _, hp => by simp [cellsOf] at hp
  | b :: r, a, p, hp => by
    unfold cellsOf at hp
    have ih := cellsOf_lt r (a + 1) p
    simp only [List.length_cons]
    split at hp
    · have := ih hp; omega
    · rcases List.mem_cons.mp hp with h | h
      · subst h; simp
      · have := ih h; omega

theorem noDefault_cellsOf : ∀ (bs : Bytes) (a : Nat), noDefault (cellsOf a bs) emptyByte = true
  | [], _ => rfl
  | b :: r, a => by
    unfold cellsOf
    split
    · exact noDefault_cellsOf r (a + 1)
    · rename_i h
      have ih := noDefault_cellsOf r (a + 1)
      simp only [noDefault, List.all_cons, Bool.and_eq_true, decide_eq_true_eq] at ih ⊢
      exact ⟨h, ih⟩

theorem noDefault_filter [DecidableEq α] {m : Tab α} {d : α} (p : Nat × α → Bool) (h : noDefault m d = true) :
    noDefault (m.filter p) d = true := by
  simp only [noDefault, List.all_eq_true] at h ⊢
  intro x hx
  exact h x (List.mem_of_mem_filter hx)

theorem noDefault_append [DecidableEq α] {m n : Tab α} {d : α} (hm : noDefault m d = true) (hn : noDefault n d = true) :
    noDefault (m ++ n) d = true := by
  simp only [noDefault, List.all_append, Bool.and_eq_true] at *
  exact ⟨hm, hn⟩

/-- Both halves of the canonical form. -/
theorem wf_iff (m : List Host.Cell) : Memory.wf m ↔ risingFrom 0 m = true ∧ noDefault m emptyByte = true := by
  simp [Memory.wf, tabWf]

theorem wf_nil : Memory.wf [] := by decide

theorem wf_filter {m : List Host.Cell} (p : Host.Cell → Bool) (h : Memory.wf m) : Memory.wf (m.filter p) := by
  rw [wf_iff] at *
  exact ⟨risingFrom_filter p h.1, noDefault_filter p h.2⟩

/-- Replacing bytes by cells in canonical form that lie within them keeps the form. -/
theorem wf_replaceCells {m cs : List Host.Cell} {a n : Nat} (h : Memory.wf m) (h1 : risingFrom a cs = true)
    (h2 : ∀ p ∈ cs, p.1 < a + n) (h3 : noDefault cs emptyByte = true) : Memory.wf (replaceCells m a n cs) := by
  rw [wf_iff] at *
  refine ⟨?_, noDefault_append (noDefault_append (noDefault_filter _ h.2) h3) (noDefault_filter _ h.2)⟩
  have e : replaceCells m a n cs = cellsBelow m a ++ (cs ++ cellsFrom m (a + n)) := by simp [replaceCells]
  rw [e]
  exact risingFrom_append (risingFrom_filter _ h.1) (cellsBelow_lt m a)
    (risingFrom_append h1 h2 (risingFrom_cellsFrom (a + n) h.1) (by omega)) (Nat.zero_le _)

theorem wf_writeBytes {m : List Host.Cell} (a : Nat) (bs : Bytes) (h : Memory.wf m) : Memory.wf (writeBytes m a bs) :=
  wf_replaceCells h (risingFrom_cellsOf bs a) (cellsOf_lt bs a) (noDefault_cellsOf bs a)

theorem wf_zeroBytes {m : List Host.Cell} (a n : Nat) (h : Memory.wf m) : Memory.wf (zeroBytes m a n) :=
  wf_replaceCells h rfl (by simp) rfl

/-- Cells moved by a distance keep rising. -/
theorem risingFrom_shift (src dst : Nat) : ∀ {m : List Host.Cell} {b : Nat}, risingFrom b m = true → src ≤ b →
    risingFrom (b - src + dst) (m.map (fun p => (p.1 - src + dst, p.2))) = true
  | [], _, _, _ => rfl
  | (k, w) :: r, b, hm, hb => by
    simp only [risingFrom, Bool.and_eq_true, decide_eq_true_eq] at hm
    simp only [List.map_cons, risingFrom, Bool.and_eq_true, decide_eq_true_eq]
    refine ⟨by omega, ?_⟩
    have := risingFrom_shift src dst hm.2 (by omega)
    have e : k - src + dst + 1 = k + 1 - src + dst := by omega
    rw [e]
    exact this

theorem wf_copyCells {m : List Host.Cell} (src dst n : Nat) (h : Memory.wf m) : Memory.wf (copyCells m src dst n) := by
  have h' := h
  rw [wf_iff] at h
  unfold copyCells
  refine wf_replaceCells h' ?_ ?_ ?_
  · have h1 : risingFrom src (cellsBelow (cellsFrom m src) (src + n)) = true :=
      risingFrom_filter _ (risingFrom_cellsFrom src h.1)
    have h2 := risingFrom_shift src dst h1 (Nat.le_refl _)
    simpa using h2
  · intro p hp
    obtain ⟨q, hq, rfl⟩ := List.mem_map.mp hp
    have h1 := cellsBelow_lt _ _ q hq
    have h2 : src ≤ q.1 := by
      have := (List.mem_filter.mp hq).1
      simpa [cellsFrom] using (List.mem_filter.mp this).2
    simp only
    omega
  · simp only [noDefault, List.all_map, List.all_eq_true]
    intro q hq
    have := (List.mem_filter.mp (List.mem_filter.mp hq).1).1
    have h2 := h.2
    simp only [noDefault, List.all_eq_true] at h2
    exact h2 q this

/-! ## Reads after writes -/

/-- A join reads as its left part below the bound. -/
theorem tget?_append_left {c : Nat} : ∀ {m n : Tab α} {x : Nat}, risingFrom c n = true → x < c → tget? (m ++ n) x = tget? m x
  | [], n, x, hn, hx => by simp [tget?, tget?_below hn hx]
  | (a, w) :: r, n, x, hn, hx => by
    simp only [List.cons_append, tget?, tget?_append_left hn hx]

/-- A join reads as its right part from the bound on. -/
theorem tget?_append_right {c : Nat} : ∀ {m n : Tab α} {x : Nat}, (∀ p ∈ m, p.1 < c) → c ≤ x → tget? (m ++ n) x = tget? n x
  | [], _, _, _, _ => rfl
  | (a, w) :: r, n, x, hm, hx => by
    have ha : a < c := hm (a, w) (by simp)
    have h1 : a ≠ x := by omega
    have h2 : ¬ x < a := by omega
    simp only [List.cons_append, tget?, h1, h2, if_false]
    exact tget?_append_right (fun p hp => hm p (by simp [hp])) hx

theorem tget?_cellsBelow (a : Nat) : ∀ {m : List Host.Cell} {b x : Nat}, risingFrom b m = true → x < a →
    tget? (cellsBelow m a) x = tget? m x
  | [], _, _, _, _ => rfl
  | (k, w) :: r, b, x, hm, hx => by
    simp only [risingFrom, Bool.and_eq_true, decide_eq_true_eq] at hm
    have ih := tget?_cellsBelow a hm.2 hx
    by_cases hk : k < a
    · have e : cellsBelow ((k, w) :: r) a = (k, w) :: cellsBelow r a := by simp [cellsBelow, hk]
      simp only [e, tget?, ih]
    · have e : cellsBelow ((k, w) :: r) a = cellsBelow r a := by simp [cellsBelow, hk]
      have h1 : k ≠ x := by omega
      have h2 : x < k := by omega
      rw [e, ih]
      simp [tget?, h1, h2, tget?_below hm.2 (by omega : x < k + 1)]

theorem tget?_cellsFrom (a : Nat) : ∀ {m : List Host.Cell} {x : Nat}, a ≤ x → tget? (cellsFrom m a) x = tget? m x ∨
    ∃ k w, (k, w) ∈ m ∧ x < k ∧ k < a
  | [], _, _ => .inl rfl
  | (k, w) :: r, x, hx => by
    by_cases hk : a ≤ k
    · have e : cellsFrom ((k, w) :: r) a = (k, w) :: cellsFrom r a := by simp [cellsFrom, hk]
      rcases tget?_cellsFrom a (m := r) hx with h | ⟨k', w', hm, h1, h2⟩
      · left; simp only [e, tget?, h]
      · omega
    · have e : cellsFrom ((k, w) :: r) a = cellsFrom r a := by simp [cellsFrom, hk]
      have h1 : k ≠ x := by omega
      have h2 : ¬ x < k := by omega
      rcases tget?_cellsFrom a (m := r) hx with h | ⟨k', w', hm, h3, h4⟩
      · left; rw [e, h]; simp [tget?, h1, h2]
      · omega

theorem tget?_from {m : List Host.Cell} {a x : Nat} (hx : a ≤ x) : tget? (cellsFrom m a) x = tget? m x := by
  rcases tget?_cellsFrom a (m := m) hx with h | ⟨k, w, _, h1, h2⟩
  · exact h
  · omega

/-- The cells of a byte string read as its bytes. -/
theorem tgetD_cellsOf : ∀ (bs : Bytes) (a i : Nat), tgetD (cellsOf a bs) (a + i) emptyByte = bs.getD i emptyByte
  | [], _, _ => rfl
  | b :: r, a, 0 => by
    unfold cellsOf
    split
    · rename_i h
      have := tget?_below (risingFrom_cellsOf r (a + 1)) (by omega : a < a + 1)
      simp [tgetD, this, h]
    · simp [tgetD, tget?]
  | b :: r, a, i + 1 => by
    have ih := tgetD_cellsOf r (a + 1) i
    have e : a + 1 + i = a + (i + 1) := by omega
    rw [e] at ih
    unfold cellsOf
    split
    · simpa using ih
    · have h1 : a ≠ a + (i + 1) := by omega
      have h2 : ¬ a + (i + 1) < a := by omega
      simp only [tgetD, tget?, h1, h2, if_false]
      simpa [tgetD] using ih

/-- A byte outside the bytes written reads as before. -/
theorem readByte_writeBytes_other {m : List Host.Cell} {a x : Nat} {bs : Bytes} (h : Memory.wf m) (hx : x < a ∨ a + bs.length ≤ x) :
    readByte (writeBytes m a bs) x = readByte m x := by
  rw [wf_iff] at h
  have hfrom := risingFrom_cellsFrom (a + bs.length) h.1
  have hcells : ∀ p ∈ cellsOf a bs, p.1 < a + bs.length := cellsOf_lt bs a
  have e : writeBytes m a bs = cellsBelow m a ++ (cellsOf a bs ++ cellsFrom m (a + bs.length)) := by
    simp [writeBytes, replaceCells]
  have hmid : risingFrom a (cellsOf a bs ++ cellsFrom m (a + bs.length)) = true :=
    risingFrom_append (risingFrom_cellsOf bs a) hcells hfrom (by omega)
  unfold readByte tgetD
  rw [e]
  rcases hx with hx | hx
  · rw [tget?_append_left hmid hx, tget?_cellsBelow a h.1 hx]
  · rw [tget?_append_right (cellsBelow_lt m a) (by omega), tget?_append_right hcells hx, tget?_from hx]

/-- A byte written reads as the byte given. -/
theorem readByte_writeBytes_same {m : List Host.Cell} {a i : Nat} {bs : Bytes} (h : Memory.wf m) (hi : i < bs.length) :
    readByte (writeBytes m a bs) (a + i) = bs.getD i emptyByte := by
  rw [wf_iff] at h
  have hfrom := risingFrom_cellsFrom (a + bs.length) h.1
  have e : writeBytes m a bs = cellsBelow m a ++ (cellsOf a bs ++ cellsFrom m (a + bs.length)) := by
    simp [writeBytes, replaceCells]
  have := tgetD_cellsOf bs a i
  unfold readByte
  unfold tgetD at *
  rw [e, tget?_append_right (cellsBelow_lt m a) (by omega), tget?_append_left hfrom (by omega)]
  exact this

/-- A read of `n` bytes gives `n` bytes. -/
theorem readBytes_length (m : List Host.Cell) : ∀ (n a : Nat), (readBytes m a n).length = n
  | 0, _ => rfl
  | n + 1, a => by simp [readBytes, readBytes_length m n]

/-- A read of bytes gives each byte of its range. -/
theorem readBytes_get (m : List Host.Cell) : ∀ (n a i : Nat), i < n → (readBytes m a n).getD i emptyByte = readByte m (a + i)
  | 0, _, _, h => by omega
  | n + 1, a, 0, _ => by simp [readBytes]
  | n + 1, a, i + 1, h => by
    simp only [readBytes, List.getD_cons_succ]
    rw [readBytes_get m n (a + 1) i (by omega), show a + 1 + i = a + (i + 1) by omega]

/-- Bytes written are the bytes read back. -/
theorem readBytes_writeBytes {m : List Host.Cell} {a : Nat} {bs : Bytes} (h : Memory.wf m) :
    readBytes (writeBytes m a bs) a bs.length = bs := by
  apply List.ext_getElem
  · exact readBytes_length _ _ _
  · intro i h1 h2
    have := readBytes_get (writeBytes m a bs) bs.length a i h2
    rw [readByte_writeBytes_same h h2] at this
    simpa [List.getD_eq_getElem?_getD, h1, h2] using this

end Sys2Proof.Laws
end

