-- ==== Sys2Proof/Laws/Keep.lean ====
section
/-! SUPPORT. What every operation of the model keeps, one lemma an operation: the queue of commands, the form of the register
table, of the tokens and of the byte memories, the bounds of the logs, fences and the seal, and the parts of the state that no
operation of a descriptor reaches. -/

namespace Sys2Proof.Laws

open Sys2Proof Sys2Proof.Machine

/-- Every part of the state that no operation of a descriptor reaches has the value it has in `r`. -/
structure QuietAt (r : State) (w : List Host.Cell) (el : List LogRec) (rl : List RepRec) (ca : List (Nat × Nat))
    (g0 : Bool)
    (g1 : Nat)
    (g2 : Nat)
    (g3 : Tab Nat)
    (g4 : Nat)
    (g5 : List Nat)
    (g6 : Bool)
    (g7 : Tab FwImage)
    (g8 : Tab Nat)
    (g9 : Tab Nat)
    (g10 : Tab KeySlot)
    (g11 : Tab Nat)
    (g12 : Tab Nat)
    (g13 : Tab Nat)
    (g14 : Tab MarginRun)
    (g15 : List McRecv)
    (g16 : Tab Nat)
    (g17 : Tab Nat)
    (g18 : Nat)
    (g19 : Tab Nat)
    (g20 : Nat)
    (g21 : Tab Nat)
    (g22 : List Nat)
    (g23 : Tab PcCount)
    (g24 : Tab Nat)
    (g25 : Tab Nat)
    (g26 : List Release)
    (g27 : List Nat)
    (g28 : List Nat)
    (g29 : Tab RxFlow)
    (g30 : Bytes)
    (g31 : List Nat)
    (g32 : Int)
    (g33 : Nat)
    (g34 : Tab Nat)
    (g35 : Option Bytes)
    (g36 : Tab Nat)
    (g37 : Supply)
    (g38 : Tab Nat)
    (g39 : DWord)
    (g40 : Bool)
    (g41 : Tab Nat)
    (g42 : Tab Window)
    (g43 : Tab Nat)
    (g44 : List HeldWrite)
    (g45 : Tab Ident) : Prop where
  q_wardMem : w = r.wardMem
  q_elog : el = r.elog
  q_rlog : rl = r.rlog
  q_noticeCache : ca = r.noticeCache
  q_aligned : g0 = r.aligned
  q_aon : g1 = r.aon
  q_bar4 : g2 = r.bar4
  q_bists : g3 = r.bists
  q_bootAt : g4 = r.bootAt
  q_bootBad : g5 = r.bootBad
  q_copyAsked : g6 = r.copyAsked
  q_fwSlots : g7 = r.fwSlots
  q_hbLast : g8 = r.hbLast
  q_keySend : g9 = r.keySend
  q_keys : g10 = r.keys
  q_linkDown : g11 = r.linkDown
  q_links : g12 = r.links
  q_loPend : g13 = r.loPend
  q_margins : g14 = r.margins
  q_mcRecvs : g15 = r.mcRecvs
  q_mcTab : g16 = r.mcTab
  q_modTab : g17 = r.modTab
  q_noticeId : g18 = r.noticeId
  q_ovrTab : g19 = r.ovrTab
  q_partGran : g20 = r.partGran
  q_paused : g21 = r.paused
  q_pcRetired : g22 = r.pcRetired
  q_pcs : g23 = r.pcs
  q_policyOn : g24 = r.policyOn
  q_psAt : g25 = r.psAt
  q_releases : g26 = r.releases
  q_remargin : g27 = r.remargin
  q_remoteFenced : g28 = r.remoteFenced
  q_rxFlows : g29 = r.rxFlows
  q_sealBytes : g30 = r.sealBytes
  q_sessions : g31 = r.sessions
  q_slew : g32 = r.slew
  q_slewCnt : g33 = r.slewCnt
  q_spares : g34 = r.spares
  q_staged : g35 = r.staged
  q_stopped : g36 = r.stopped
  q_supply : g37 = r.supply
  q_swaps : g38 = r.swaps
  q_tick : g39 = r.tick
  q_tickStop : g40 = r.tickStop
  q_winSel : g41 = r.winSel
  q_windows : g42 = r.windows
  q_bankTurn : g43 = r.bankTurn
  q_heldWrites : g44 = r.heldWrites
  q_idents : g45 = r.idents

/-- Every part of the state that no operation of a descriptor reaches is the same in two states. -/
def Quiet (r s : State) : Prop :=
  QuietAt r s.wardMem s.elog s.rlog s.noticeCache s.aligned s.aon s.bar4 s.bists s.bootAt s.bootBad s.copyAsked s.fwSlots
      s.hbLast s.keySend s.keys s.linkDown s.links s.loPend s.margins s.mcRecvs s.mcTab s.modTab s.noticeId s.ovrTab
      s.partGran s.paused s.pcRetired s.pcs s.policyOn s.psAt s.releases s.remargin s.remoteFenced s.rxFlows s.sealBytes
      s.sessions s.slew s.slewCnt s.spares s.staged s.stopped s.supply s.swaps s.tick s.tickStop s.winSel s.windows s.bankTurn
      s.heldWrites s.idents

/-- `Kept` over the fields it reads. -/
structure KeptAt (lasting calm dry : Bool) (r : State) (p : List Instr) (flds : Tab Nat) (tokens : Tab Word) (mem hostMem
    wardMem : List Host.Cell)
    (elog : List LogRec) (rlog : List RepRec) (cache : List (Nat × Nat))
    (g0 : Bool)
    (g1 : Nat)
    (g2 : Nat)
    (g3 : Tab Nat)
    (g4 : Nat)
    (g5 : List Nat)
    (g6 : Bool)
    (g7 : Tab FwImage)
    (g8 : Tab Nat)
    (g9 : Tab Nat)
    (g10 : Tab KeySlot)
    (g11 : Tab Nat)
    (g12 : Tab Nat)
    (g13 : Tab Nat)
    (g14 : Tab MarginRun)
    (g15 : List McRecv)
    (g16 : Tab Nat)
    (g17 : Tab Nat)
    (g18 : Nat)
    (g19 : Tab Nat)
    (g20 : Nat)
    (g21 : Tab Nat)
    (g22 : List Nat)
    (g23 : Tab PcCount)
    (g24 : Tab Nat)
    (g25 : Tab Nat)
    (g26 : List Release)
    (g27 : List Nat)
    (g28 : List Nat)
    (g29 : Tab RxFlow)
    (g30 : Bytes)
    (g31 : List Nat)
    (g32 : Int)
    (g33 : Nat)
    (g34 : Tab Nat)
    (g35 : Option Bytes)
    (g36 : Tab Nat)
    (g37 : Supply)
    (g38 : Tab Nat)
    (g39 : DWord)
    (g40 : Bool)
    (g41 : Tab Nat)
    (g42 : Tab Window)
    (g43 : Tab Nat)
    (g44 : List HeldWrite)
    (g45 : Tab Ident) : Prop where
  c_pending : p = r.pending
  c_flds : tabWf flds = true
  c_tokens : tabWf tokens = true
  c_mem : Memory.wf mem
  c_hostMem : Memory.wf hostMem
  c_wardMem : Memory.wf wardMem
  c_elog : elog.length ≤ 1024
  c_rlog : rlog.length ≤ 4096
  c_cache : cache.length ≤ 4096
  c_fence : lasting = true → ∀ d, dieFenced r d = true → tgetD flds (fieldKey F.MGT_FENCE_DIE d 0) 0 = 1
  c_station : lasting = true → ∀ d n, n < 16 → bit (getF r F.MGT_FENCE_STATIONS d) n = true →
    bit (tgetD flds (fieldKey F.MGT_FENCE_STATIONS d 0) 0) n = true
  c_sealed : lasting = true → sealed r = true → tgetD flds (fieldKey F.HST_SEAL_SEAL f0 0) 0 = 1
  c_dry : dry = true → mem = r.mem
  c_quiet : calm = true → QuietAt r wardMem elog rlog cache g0 g1 g2 g3 g4 g5 g6 g7 g8 g9 g10 g11 g12 g13 g14 g15 g16 g17 g18
      g19 g20 g21 g22 g23 g24 g25 g26 g27 g28 g29 g30 g31 g32 g33 g34 g35 g36 g37 g38 g39 g40 g41 g42 g43 g44 g45

/-- From state `r` to state `s` the queue is unchanged and `s` is sound; with `lasting` fences and the seal persist; with `calm` the parts
that no operation of a descriptor reaches are unchanged; with `dry` the job memory is. -/
def Kept (lasting calm dry : Bool) (r s : State) : Prop :=
  KeptAt lasting calm dry r s.pending s.flds s.tokens s.mem s.hostMem s.wardMem s.elog s.rlog s.noticeCache s.aligned s.aon
      s.bar4 s.bists s.bootAt s.bootBad s.copyAsked s.fwSlots s.hbLast s.keySend s.keys s.linkDown s.links s.loPend s.margins
      s.mcRecvs s.mcTab s.modTab s.noticeId s.ovrTab s.partGran s.paused s.pcRetired s.pcs s.policyOn s.psAt s.releases
      s.remargin s.remoteFenced s.rxFlows s.sealBytes s.sessions s.slew s.slewCnt s.spares s.staged s.stopped s.supply s.swaps
      s.tick s.tickStop s.winSel s.windows s.bankTurn s.heldWrites s.idents

variable {lasting calm dry : Bool} {r s t : State} {α β γ : Type}

theorem keeps_mk {x0 x1 x2 x3 x4 x5 x6 x7 x8 x9 x10 x11 x12 x13 x14 x15 x16 x17 x18 x19 x20 x21 x22 x23 x24 x25 x26 x27 x28 x29
    x30 x31 x32 x33 x34 x35 x36 x37 x38 x39 x40 x41 x42 x43 x44 x45 x46 x47 x48 x49 x50 x51 x52 x53 x54 x55 x56 x57 x58 x59 x60
    x61 x62 x63 x64 x65 x66 x67 x68 x69 x70 x71 x72 x73 x74 x75 x76 x77 x78 x79 x80 x81 x82 x83 x84 x85 x86 x87 x88 x89 x90 x91
    x92 x93 x94 x95 x96 x97 x98 x99 x100 x101 x102 x103 x104 x105 x106 x107 x108 x109 x110 x111 x112 x113 x114 x115 x116 x117
    x118 x119 x120 x121} (h : KeptAt
    lasting calm dry r x0 x2 x13 x5 x9 x97 x60 x107 x62 x89 x85 x28 x108 x103 x104 x114 x102 x91 x59 x57 x26 x47 x3 x109 x49 x55
        x53 x61 x54 x37 x99 x93 x92 x36 x83 x39 x110 x56 x45 x106 x105 x88 x113 x111 x101 x87 x78 x86 x1 x90 x15 x43 x120
        x38 x121) :
    Kept lasting calm dry r (State.mk x0 x1 x2 x3 x4 x5 x6 x7 x8 x9 x10 x11 x12 x13 x14 x15 x16 x17 x18 x19 x20 x21 x22 x23 x24
        x25 x26 x27 x28 x29 x30 x31 x32 x33 x34 x35 x36 x37 x38 x39 x40 x41 x42 x43 x44 x45 x46 x47 x48 x49 x50 x51 x52 x53
        x54 x55 x56 x57 x58 x59 x60 x61 x62 x63 x64 x65 x66 x67 x68 x69 x70 x71 x72 x73 x74 x75 x76 x77 x78 x79 x80 x81 x82
        x83 x84 x85 x86 x87 x88 x89 x90 x91 x92 x93 x94 x95 x96 x97 x98 x99 x100 x101 x102 x103 x104 x105 x106 x107 x108
        x109 x110 x111 x112 x113 x114 x115 x116 x117 x118 x119 x120 x121) := h

theorem keeps_mk0 {x0 x1 x2 x3 x4 x5 x6 x7 x8 x9 x10 x11 x12 x13 x14 x15 x16 x17 x18 x19 x20 x21 x22 x23 x24 x25 x26 x27 x28 x29
    x30 x31 x32 x33 x34 x35 x36 x37 x38 x39 x40 x41 x42 x43 x44 x45 x46 x47 x48 x49 x50 x51 x52 x53 x54 x55 x56 x57 x58 x59 x60
    x61 x62 x63 x64 x65 x66 x67 x68 x69 x70 x71 x72 x73 x74 x75 x76 x77 x78 x79 x80 x81 x82 x83 x84 x85 x86 x87 x88 x89 x90 x91
    x92 x93 x94 x95 x96 x97 x98 x99 x100 x101 x102 x103 x104 x105 x106 x107 x108 x109 x110 x111 x112 x113 x114 x115 x116 x117
    x118 x119 x120 x121 y0 y1 y2 y3 y4 y5 y6 y7 y8 y9 y10 y11 y12 y13 y14 y15 y16 y17 y18 y19 y20 y21 y22 y23 y24 y25 y26 y27
    y28 y29 y30 y31 y32 y33 y34 y35 y36 y37 y38 y39 y40 y41 y42 y43 y44 y45} (h : KeptAt lasting false dry r x0 x2 x13 x5 x9 x97
    x60 x107 x62 y0 y1 y2 y3 y4 y5 y6 y7 y8 y9 y10 y11 y12 y13 y14 y15 y16 y17 y18 y19 y20 y21 y22 y23 y24 y25 y26 y27 y28 y29
    y30 y31 y32 y33 y34 y35 y36 y37 y38 y39 y40 y41 y42 y43 y44 y45) :
    Kept lasting false dry r (State.mk x0 x1 x2 x3 x4 x5 x6 x7 x8 x9 x10 x11 x12 x13 x14 x15 x16 x17 x18 x19 x20 x21 x22 x23 x24
        x25 x26 x27 x28 x29 x30 x31 x32 x33 x34 x35 x36 x37 x38 x39 x40 x41 x42 x43 x44 x45 x46 x47 x48 x49 x50 x51 x52 x53
        x54 x55 x56 x57 x58 x59 x60 x61 x62 x63 x64 x65 x66 x67 x68 x69 x70 x71 x72 x73 x74 x75 x76 x77 x78 x79 x80 x81 x82
        x83 x84 x85 x86 x87 x88 x89 x90 x91 x92 x93 x94 x95 x96 x97 x98 x99 x100 x101 x102 x103 x104 x105 x106 x107 x108
        x109 x110 x111 x112 x113 x114 x115 x116 x117 x118 x119 x120 x121) := { h with c_quiet := fun e => nomatch e }

theorem keeps_mkFrom (w : State) {x0 x1 x2 x3 x4 x5 x6 x7 x8 x9 x10 x11 x12 x13 x14 x15 x16 x17 x18 x19 x20 x21 x22 x23 x24 x25
    x26 x27 x28 x29 x30 x31 x32 x33 x34 x35 x36 x37 x38 x39 x40 x41 x42 x43 x44 x45 x46 x47 x48 x49 x50 x51 x52 x53 x54 x55 x56
    x57 x58 x59 x60 x61 x62 x63 x64 x65 x66 x67 x68 x69 x70 x71 x72 x73 x74 x75 x76 x77 x78 x79 x80 x81 x82 x83 x84 x85 x86 x87
    x88 x89 x90 x91 x92 x93 x94 x95 x96 x97 x98 x99 x100 x101 x102 x103 x104 x105 x106 x107 x108 x109 x110 x111 x112 x113 x114
    x115 x116 x117 x118 x119 x120 x121}
    (h : KeptAt lasting false dry r x0 x2 x13 x5 x9 x97 x60 x107 x62 w.aligned w.aon w.bar4 w.bists w.bootAt w.bootBad
        w.copyAsked w.fwSlots w.hbLast w.keySend w.keys w.linkDown w.links w.loPend w.margins w.mcRecvs w.mcTab w.modTab
        w.noticeId w.ovrTab w.partGran w.paused w.pcRetired w.pcs w.policyOn w.psAt w.releases w.remargin w.remoteFenced
        w.rxFlows w.sealBytes w.sessions w.slew w.slewCnt w.spares w.staged w.stopped w.supply w.swaps w.tick w.tickStop
        w.winSel w.windows w.bankTurn w.heldWrites w.idents) :
    Kept lasting false dry r (State.mk x0 x1 x2 x3 x4 x5 x6 x7 x8 x9 x10 x11 x12 x13 x14 x15 x16 x17 x18 x19 x20 x21 x22 x23 x24
        x25 x26 x27 x28 x29 x30 x31 x32 x33 x34 x35 x36 x37 x38 x39 x40 x41 x42 x43 x44 x45 x46 x47 x48 x49 x50 x51 x52 x53
        x54 x55 x56 x57 x58 x59 x60 x61 x62 x63 x64 x65 x66 x67 x68 x69 x70 x71 x72 x73 x74 x75 x76 x77 x78 x79 x80 x81 x82
        x83 x84 x85 x86 x87 x88 x89 x90 x91 x92 x93 x94 x95 x96 x97 x98 x99 x100 x101 x102 x103 x104 x105 x106 x107 x108
        x109 x110 x111 x112 x113 x114 x115 x116 x117 x118 x119 x120 x121) := keeps_mk0 h

theorem keeps_at (h : Kept lasting calm dry r s) : KeptAt lasting calm dry r s.pending s.flds s.tokens s.mem s.hostMem
    s.wardMem s.elog s.rlog s.noticeCache s.aligned s.aon s.bar4 s.bists s.bootAt s.bootBad s.copyAsked s.fwSlots s.hbLast
        s.keySend s.keys s.linkDown s.links s.loPend s.margins s.mcRecvs s.mcTab s.modTab s.noticeId s.ovrTab s.partGran
        s.paused s.pcRetired s.pcs s.policyOn s.psAt s.releases s.remargin s.remoteFenced s.rxFlows s.sealBytes s.sessions
        s.slew s.slewCnt s.spares s.staged s.stopped s.supply s.swaps s.tick s.tickStop s.winSel s.windows s.bankTurn
        s.heldWrites s.idents := h

/-- A field that is neither a fence nor the seal. -/
def apart (f : Fld) : Bool :=
  decide (f.off < 2 ^ 25) && decide (f.lo < 32) &&
  !(f.off == F.MGT_FENCE_DIE.off && f.lo == F.MGT_FENCE_DIE.lo) &&
  !(f.off == F.MGT_FENCE_STATIONS.off && f.lo == F.MGT_FENCE_STATIONS.lo) &&
  !(f.off == F.HST_SEAL_SEAL.off && f.lo == F.HST_SEAL_SEAL.lo)

/-- Fields at different offsets or bits have different keys. -/
theorem fieldKey_ne {f g : Fld} (d e i j : Nat) (hf : f.off < 2 ^ 25) (hg : g.off < 2 ^ 25) (lf : f.lo < 32) (lg : g.lo < 32)
    (h : ¬ (f.off = g.off ∧ f.lo = g.lo)) : fieldKey f d i ≠ fieldKey g e j := by
  unfold fieldKey
  intro e
  apply h
  omega

theorem apart_ne {f : Fld} (ha : apart f = true) (d i e j : Nat) :
    fieldKey F.MGT_FENCE_DIE e j ≠ fieldKey f d i ∧ fieldKey F.MGT_FENCE_STATIONS e j ≠ fieldKey f d i ∧
    fieldKey F.HST_SEAL_SEAL e j ≠ fieldKey f d i := by
  simp only [apart, Bool.and_eq_true, decide_eq_true_eq, Bool.not_eq_true', beq_eq_false_iff_ne, Bool.and_eq_false_imp,
      beq_iff_eq] at ha
  obtain ⟨⟨⟨⟨h1, h2⟩, h3⟩, h4⟩, h5⟩ := ha
  refine ⟨fieldKey_ne _ _ _ _ (by decide) h1 (by decide) h2 ?_, fieldKey_ne _ _ _ _ (by decide) h1 (by decide) h2 ?_,
    fieldKey_ne _ _ _ _ (by decide) h1 (by decide) h2 ?_⟩
  · rintro ⟨x, y⟩; exact h3 x.symm y.symm
  · rintro ⟨x, y⟩; exact h4 x.symm y.symm
  · rintro ⟨x, y⟩; exact h5 x.symm y.symm

theorem tgetD_tput_other [DecidableEq α] {m : Tab α} {k x : Nat} (v d e : α) (h : tabWf m = true) (hx : x ≠ k) :
    tgetD (tput m k v d) x e = tgetD m x e := by
  unfold tgetD; rw [tget?_tput_other v d h hx]

theorem keeps_setF {f : Fld} {d i v : Nat} (h : Kept lasting calm dry r s) (ha : apart f = true) : Kept lasting calm dry r
    (setF s f d i v) := by
  unfold setF
  have hn := apart_ne ha d i
  apply keeps_mk
  exact { h with
    c_flds := tabWf_tput _ _ _ h.c_flds
    c_fence := fun hb d' hd => by rw [tgetD_tput_other _ _ _ h.c_flds (hn d' 0).1]; exact h.c_fence hb d' hd
    c_station := fun hb d' n hn16 hd => by rw [tgetD_tput_other _ _ _ h.c_flds (hn d' 0).2.1]; exact h.c_station hb d' n hn16 hd
    c_sealed := fun hb hd => by rw [tgetD_tput_other _ _ _ h.c_flds (hn f0 0).2.2]; exact h.c_sealed hb hd }

theorem keeps_refl (h : Sound s) : Kept lasting calm dry s s where
  c_pending := rfl
  c_flds := h.flds
  c_tokens := h.tokens
  c_mem := h.mem
  c_hostMem := h.hostMem
  c_wardMem := h.wardMem
  c_elog := h.elog
  c_rlog := h.rlog
  c_cache := h.noticeCache
  c_fence _ d hd := by simpa [dieFenced, flag, getF, fieldReset, F.MGT_FENCE_DIE] using hd
  c_station _ d n _ hd := hd
  c_sealed _ hd := by simpa [sealed, flag, getF, fieldReset, F.HST_SEAL_SEAL] using hd
  c_dry _ := rfl
  c_quiet _ := by constructor <;> rfl

theorem keeps_mem {m : List Host.Cell} (h : Kept lasting calm false r s) (hm : Memory.wf m) :
    KeptAt lasting calm false r s.pending s.flds s.tokens m s.hostMem s.wardMem s.elog s.rlog s.noticeCache s.aligned s.aon
        s.bar4 s.bists s.bootAt s.bootBad s.copyAsked s.fwSlots s.hbLast s.keySend s.keys s.linkDown s.links s.loPend
        s.margins s.mcRecvs s.mcTab s.modTab s.noticeId s.ovrTab s.partGran s.paused s.pcRetired s.pcs s.policyOn s.psAt
        s.releases s.remargin s.remoteFenced s.rxFlows s.sealBytes s.sessions s.slew s.slewCnt s.spares s.staged s.stopped
        s.supply s.swaps s.tick s.tickStop s.winSel s.windows s.bankTurn s.heldWrites s.idents :=
        { h with c_mem := hm, c_dry := fun e => nomatch e }
theorem keeps_hostMem {m : List Host.Cell} (h : Kept lasting calm dry r s) (hm : Memory.wf m) :
    KeptAt lasting calm dry r s.pending s.flds s.tokens s.mem m s.wardMem s.elog s.rlog s.noticeCache s.aligned s.aon s.bar4
        s.bists s.bootAt s.bootBad s.copyAsked s.fwSlots s.hbLast s.keySend s.keys s.linkDown s.links s.loPend s.margins
        s.mcRecvs s.mcTab s.modTab s.noticeId s.ovrTab s.partGran s.paused s.pcRetired s.pcs s.policyOn s.psAt s.releases
        s.remargin s.remoteFenced s.rxFlows s.sealBytes s.sessions s.slew s.slewCnt s.spares s.staged s.stopped s.supply
        s.swaps s.tick s.tickStop s.winSel s.windows s.bankTurn s.heldWrites s.idents := { h with c_hostMem := hm }
theorem keeps_wardMem {m : List Host.Cell} (h : Kept lasting false dry r s) (hm : Memory.wf m) :
    KeptAt lasting false dry r s.pending s.flds s.tokens s.mem s.hostMem m s.elog s.rlog s.noticeCache s.aligned s.aon s.bar4
        s.bists s.bootAt s.bootBad s.copyAsked s.fwSlots s.hbLast s.keySend s.keys s.linkDown s.links s.loPend s.margins
        s.mcRecvs s.mcTab s.modTab s.noticeId s.ovrTab s.partGran s.paused s.pcRetired s.pcs s.policyOn s.psAt s.releases
        s.remargin s.remoteFenced s.rxFlows s.sealBytes s.sessions s.slew s.slewCnt s.spares s.staged s.stopped s.supply
        s.swaps s.tick s.tickStop s.winSel s.windows s.bankTurn s.heldWrites s.idents :=
        { h with c_wardMem := hm, c_quiet := fun e => nomatch e }
theorem keeps_tokens {m : Tab Word} (h : Kept lasting calm dry r s) (hm : tabWf m = true) :
    KeptAt lasting calm dry r s.pending s.flds m s.mem s.hostMem s.wardMem s.elog s.rlog s.noticeCache s.aligned s.aon s.bar4
        s.bists s.bootAt s.bootBad s.copyAsked s.fwSlots s.hbLast s.keySend s.keys s.linkDown s.links s.loPend s.margins
        s.mcRecvs s.mcTab s.modTab s.noticeId s.ovrTab s.partGran s.paused s.pcRetired s.pcs s.policyOn s.psAt s.releases
        s.remargin s.remoteFenced s.rxFlows s.sealBytes s.sessions s.slew s.slewCnt s.spares s.staged s.stopped s.supply
        s.swaps s.tick s.tickStop s.winSel s.windows s.bankTurn s.heldWrites s.idents := { h with c_tokens := hm }
theorem keeps_elog {l : List LogRec} (h : Kept lasting false dry r s) (hm : l.length ≤ 1024) :
    KeptAt lasting false dry r s.pending s.flds s.tokens s.mem s.hostMem s.wardMem l s.rlog s.noticeCache s.aligned s.aon s.bar4
        s.bists s.bootAt s.bootBad s.copyAsked s.fwSlots s.hbLast s.keySend s.keys s.linkDown s.links s.loPend s.margins
        s.mcRecvs s.mcTab s.modTab s.noticeId s.ovrTab s.partGran s.paused s.pcRetired s.pcs s.policyOn s.psAt s.releases
        s.remargin s.remoteFenced s.rxFlows s.sealBytes s.sessions s.slew s.slewCnt s.spares s.staged s.stopped s.supply
        s.swaps s.tick s.tickStop s.winSel s.windows s.bankTurn s.heldWrites s.idents :=
        { h with c_elog := hm, c_quiet := fun e => nomatch e }
theorem keeps_rlog {l : List RepRec} (h : Kept lasting false dry r s) (hm : l.length ≤ 4096) :
    KeptAt lasting false dry r s.pending s.flds s.tokens s.mem s.hostMem s.wardMem s.elog l s.noticeCache s.aligned s.aon s.bar4
        s.bists s.bootAt s.bootBad s.copyAsked s.fwSlots s.hbLast s.keySend s.keys s.linkDown s.links s.loPend s.margins
        s.mcRecvs s.mcTab s.modTab s.noticeId s.ovrTab s.partGran s.paused s.pcRetired s.pcs s.policyOn s.psAt s.releases
        s.remargin s.remoteFenced s.rxFlows s.sealBytes s.sessions s.slew s.slewCnt s.spares s.staged s.stopped s.supply
        s.swaps s.tick s.tickStop s.winSel s.windows s.bankTurn s.heldWrites s.idents :=
        { h with c_rlog := hm, c_quiet := fun e => nomatch e }
theorem keeps_cache {l : List (Nat × Nat)} (h : Kept lasting false dry r s) (hm : l.length ≤ 4096) :
    KeptAt lasting false dry r s.pending s.flds s.tokens s.mem s.hostMem s.wardMem s.elog s.rlog l s.aligned s.aon s.bar4
        s.bists s.bootAt s.bootBad s.copyAsked s.fwSlots s.hbLast s.keySend s.keys s.linkDown s.links s.loPend s.margins
        s.mcRecvs s.mcTab s.modTab s.noticeId s.ovrTab s.partGran s.paused s.pcRetired s.pcs s.policyOn s.psAt s.releases
        s.remargin s.remoteFenced s.rxFlows s.sealBytes s.sessions s.slew s.slewCnt s.spares s.staged s.stopped s.supply
        s.swaps s.tick s.tickStop s.winSel s.windows s.bankTurn s.heldWrites s.idents :=
        { h with c_cache := hm, c_quiet := fun e => nomatch e }
theorem length_last {α : Type} (l : List α) (n : Nat) : (l.drop (l.length - n)).length ≤ n := by
  rw [List.length_drop]; omega
theorem keeps_wfMem (h : Kept lasting calm dry r s) : Memory.wf s.mem := h.c_mem
theorem keeps_wfHost (h : Kept lasting calm dry r s) : Memory.wf s.hostMem := h.c_hostMem
theorem keeps_wfWard (h : Kept lasting calm dry r s) : Memory.wf s.wardMem := h.c_wardMem
theorem keeps_wfTokens (h : Kept lasting calm dry r s) : tabWf s.tokens = true := h.c_tokens

theorem keeps_ite {c : Prop} [Decidable c] {x y : State} (h1 : Kept lasting calm dry r x) (h2 : Kept lasting calm dry r y) :
    Kept lasting calm dry r (if c then x else y) := by
  split
  · exact h1
  · exact h2
theorem keeps_foldl {l : List α} {g : State → α → State} (h : Kept lasting calm dry r s) (hg : ∀ s x, Kept lasting calm dry r s
    → Kept lasting calm dry r (g s x)) :
    Kept lasting calm dry r (l.foldl g s) := by
  induction l generalizing s with
  | nil => exact h
  | cons x l ih => exact ih (hg s x h)

/-- The state of a pair is kept. -/
def KeptP (lasting calm dry : Bool) (r : State) (p : State × α) : Prop := Kept lasting calm dry r p.1
/-- The state of a pair is kept. -/
def KeptQ (lasting calm dry : Bool) (r : State) (p : α × State) : Prop := Kept lasting calm dry r p.2
/-- The state of a triple is kept. -/
def KeptR (lasting calm dry : Bool) (r : State) (p : α × β × State) : Prop := Kept lasting calm dry r p.2.2
/-- The state of an option is kept. -/
def KeptO (lasting calm dry : Bool) (r : State) (o : Option State) : Prop := ∀ t, o = some t → Kept lasting calm dry r t
/-- The state of an optional pair is kept. -/
def KeptOQ (lasting calm dry : Bool) (r : State) (o : Option (α × State)) : Prop :=
    ∀ x t, o = some (x, t) → Kept lasting calm dry r t
/-- The state of an optional triple is kept. -/
def KeptOR (lasting calm dry : Bool) (r : State) (o : Option (α × β × State)) : Prop :=
    ∀ x y t, o = some (x, y, t) → Kept lasting calm dry r t
/-- The state of an outcome is kept. -/
def KeptN (lasting calm dry : Bool) (r : State) (o : Host.Outcome State Fault Refusal) : Prop :=
    ∀ t, o = .next t → Kept lasting calm dry r t

theorem keepsP_mk {x : α} (h : Kept lasting calm dry r s) : KeptP lasting calm dry r (s, x) := h
theorem keepsQ_mk {x : α} (h : Kept lasting calm dry r s) : KeptQ lasting calm dry r (x, s) := h
theorem keepsR_mk {x : α} {y : β} (h : Kept lasting calm dry r s) : KeptR lasting calm dry r (x, y, s) := h
theorem keepsO_none : KeptO lasting calm dry r none := fun _ e => nomatch e
theorem keepsO_some (h : Kept lasting calm dry r s) : KeptO lasting calm dry r (some s) := fun _ e => Option.some.inj e ▸ h
theorem keepsOQ_none : KeptOQ lasting calm dry r (none : Option (α × State)) := fun _ _ e => nomatch e
theorem keepsOQ_some {p : α × State} (h : KeptQ lasting calm dry r p) : KeptOQ lasting calm dry r (some p) :=
    fun _ _ e => by cases e; exact h
theorem keepsOR_none : KeptOR lasting calm dry r (none : Option (α × β × State)) := fun _ _ _ e => nomatch e
theorem keepsOR_some {p : α × β × State} (h : KeptR lasting calm dry r p) : KeptOR lasting calm dry r (some p) :=
    fun _ _ _ e => by cases e; exact h
theorem keepsN_next (h : Kept lasting calm dry r s) : KeptN lasting calm dry r (.next s) := fun _ e => by cases e; exact h

theorem keepsP_out {p : State × α} {x : α} (e : p = (s, x)) (h : KeptP lasting calm dry r p) : Kept lasting calm dry r s :=
    by subst e; exact h
theorem keepsQ_out {p : α × State} {x : α} (e : p = (x, s)) (h : KeptQ lasting calm dry r p) : Kept lasting calm dry r s :=
    by subst e; exact h
theorem keepsR_out {p : α × β × State} {x : α} {y : β} (e : p = (x, y, s)) (h : KeptR lasting calm dry r p) : Kept lasting calm
    dry r s := by subst e; exact h
theorem keepsO_out {o : Option State} (e : o = some s) (h : KeptO lasting calm dry r o) : Kept lasting calm dry r s := h _ e
theorem keepsOQ_out {o : Option (α × State)} {x : α} (e : o = some (x, s)) (h : KeptOQ lasting calm dry r o) : Kept lasting
    calm dry r s := h _ _ e
theorem keepsOR_out {o : Option (α × β × State)} {x : α} {y : β} (e : o = some (x, y, s)) (h : KeptOR lasting calm dry r o) :
    Kept lasting calm dry r s := h _ _ _ e
theorem keepsP_fst {p : State × α} (h : KeptP lasting calm dry r p) : Kept lasting calm dry r p.1 := h
theorem keepsQ_snd {p : α × State} (h : KeptQ lasting calm dry r p) : Kept lasting calm dry r p.2 := h
theorem keepsR_snd {p : α × β × State} (h : KeptR lasting calm dry r p) : Kept lasting calm dry r p.2.2 := h
theorem keepsP_pair {x : α} (h : KeptP lasting calm dry r (s, x)) : Kept lasting calm dry r s := h
theorem keepsQ_pair {x : α} (h : KeptQ lasting calm dry r (x, s)) : Kept lasting calm dry r s := h
theorem keepsP_foldl {l : List α} {g : State × β → α → State × β} {p : State × β} (h : KeptP lasting calm dry r p)
    (hg : ∀ p x, KeptP lasting calm dry r p → KeptP lasting calm dry r (g p x)) : KeptP lasting calm dry r (l.foldl g p) := by
  induction l generalizing p with
  | nil => exact h
  | cons x l ih => exact ih (hg p x h)
theorem keepsQ_foldl {l : List α} {g : β × State → α → β × State} {p : β × State} (h : KeptQ lasting calm dry r p)
    (hg : ∀ p x, KeptQ lasting calm dry r p → KeptQ lasting calm dry r (g p x)) : KeptQ lasting calm dry r (l.foldl g p) := by
  induction l generalizing p with
  | nil => exact h
  | cons x l ih => exact ih (hg p x h)

/-- The state of an optional pair is kept. -/
def KeptOP (lasting calm dry : Bool) (r : State) (o : Option (State × α)) : Prop :=
    ∀ x t, o = some (t, x) → Kept lasting calm dry r t
theorem keepsOP_none : KeptOP lasting calm dry r (none : Option (State × α)) := fun _ _ e => nomatch e
theorem keepsOP_some {p : State × α} (h : KeptP lasting calm dry r p) : KeptOP lasting calm dry r (some p) :=
    fun _ _ e => by cases e; exact h
theorem keepsOP_out {o : Option (State × α)} {x : α} (e : o = some (s, x)) (h : KeptOP lasting calm dry r o) : Kept lasting
    calm dry r s := h _ _ e
theorem keepsP_ite {c : Prop} [Decidable c] {x y : State × α} (h1 : KeptP lasting calm dry r x) (h2 : KeptP lasting calm dry r
    y) : KeptP lasting calm dry r (if c then x else y) := by
  split
  · exact h1
  · exact h2
theorem keepsQ_ite {c : Prop} [Decidable c] {x y : α × State} (h1 : KeptQ lasting calm dry r x) (h2 : KeptQ lasting calm dry r
    y) : KeptQ lasting calm dry r (if c then x else y) := by
  split
  · exact h1
  · exact h2
theorem keepsR_ite {c : Prop} [Decidable c] {x y : α × β × State} (h1 : KeptR lasting calm dry r x) (h2 : KeptR lasting calm
    dry r y) : KeptR lasting calm dry r (if c then x else y) := by
  split
  · exact h1
  · exact h2
theorem keepsO_ite {c : Prop} [Decidable c] {x y : Option State} (h1 : KeptO lasting calm dry r x) (h2 : KeptO lasting calm dry
    r y) : KeptO lasting calm dry r (if c then x else y) := by
  split
  · exact h1
  · exact h2
theorem keepsOQ_ite {c : Prop} [Decidable c] {x y : Option (α × State)} (h1 : KeptOQ lasting calm dry r x) (h2 : KeptOQ lasting
    calm dry r y) : KeptOQ lasting calm dry r (if c then x else y) := by
  split
  · exact h1
  · exact h2
theorem keepsOR_ite {c : Prop} [Decidable c] {x y : Option (α × β × State)} (h1 : KeptOR lasting calm dry r x) (h2 : KeptOR
    lasting calm dry r y) : KeptOR lasting calm dry r (if c then x else y) := by
  split
  · exact h1
  · exact h2
theorem keepsN_ite {c : Prop} [Decidable c] {x y : Host.Outcome State Fault Refusal} (h1 : KeptN lasting calm dry r x) (h2 :
    KeptN lasting calm dry r y) : KeptN lasting calm dry r (if c then x else y) := by
  split
  · exact h1
  · exact h2
theorem keepsR_foldl {γ : Type} {l : List α} {g : β × γ × State → α → β × γ × State} {p : β × γ × State} (h : KeptR lasting
    calm dry r p)
    (hg : ∀ p x, KeptR lasting calm dry r p → KeptR lasting calm dry r (g p x)) : KeptR lasting calm dry r (l.foldl g p) := by
  induction l generalizing p with
  | nil => exact h
  | cons x l ih => exact ih (hg p x h)

theorem keepsO_findSome {l : List α} {g : α → Option State} (h : ∀ x, KeptO lasting calm dry r (g x)) : KeptO lasting calm dry
    r (l.findSome? g) := by
  intro t e
  obtain ⟨x, _, hx⟩ := List.exists_of_findSome?_eq_some e
  exact h x t hx
theorem keepsO_map {o : Option α} {g : α → State} (h : ∀ x, Kept lasting calm dry r (g x)) : KeptO lasting calm dry r (o.map g) :=
    by
  cases o with
  | none => exact keepsO_none
  | some x => exact keepsO_some (h x)
theorem keepsO_mapO {o : Option State} {g : State → State} (ho : KeptO lasting calm dry r o)
    (h : ∀ s, Kept lasting calm dry r s → Kept lasting calm dry r (g s)) : KeptO lasting calm dry r (o.map g) := by
  cases o with
  | none => exact keepsO_none
  | some x => exact keepsO_some (h x (ho _ rfl))
theorem keepsOQ_map {o : Option β} {g : β → α × State} (h : ∀ x, KeptQ lasting calm dry r (g x)) : KeptOQ lasting calm dry r
    (o.map g) := by
  cases o with
  | none => exact keepsOQ_none
  | some x => exact keepsOQ_some (h x)
theorem keepsOR_map {o : Option γ} {g : γ → α × β × State} (h : ∀ x, KeptR lasting calm dry r (g x)) : KeptOR lasting calm dry
    r (o.map g) := by
  cases o with
  | none => exact keepsOR_none
  | some x => exact keepsOR_some (h x)
theorem keepsOQ_mapOQ {o : Option (β × State)} {g : β × State → α × State} (ho : KeptOQ lasting calm dry r o) (h : ∀ x, KeptQ
    lasting calm dry r x → KeptQ lasting calm dry r (g x)) :
    KeptOQ lasting calm dry r (o.map g) := by
  cases o with
  | none => exact keepsOQ_none
  | some x => exact keepsOQ_some (h x (ho _ _ rfl))
theorem keepsOR_mapOQ {o : Option (γ × State)} {g : γ × State → α × β × State} (ho : KeptOQ lasting calm dry r o) (h : ∀ x,
    KeptQ lasting calm dry r x → KeptR lasting calm dry r (g x)) :
    KeptOR lasting calm dry r (o.map g) := by
  cases o with
  | none => exact keepsOR_none
  | some x => exact keepsOR_some (h x (ho _ _ rfl))
theorem keeps_getD {o : Option State} (h : KeptO lasting calm dry r o) (hs : Kept lasting calm dry r s) : Kept lasting calm dry
    r (o.getD s) := by
  cases o with
  | none => exact hs
  | some x => exact h x rfl
theorem keepsN_pair (h : KeptN lasting calm dry r (.next s)) : Kept lasting calm dry r s := h s rfl
theorem keepsN_out {o : Host.Outcome State Fault Refusal} (e : o = .next s) (h : KeptN lasting calm dry r o) : Kept lasting
    calm dry r s := h s e

theorem apart_mem {l : List Fld} {f : Fld} (h : l.all apart = true) (hf : f ∈ l) : apart f = true :=
  List.all_eq_true.mp h f hf
theorem keeps_foldl_mem {l : List α} {g : State → α → State} (h : Kept lasting calm dry r s) (hg : ∀ s x, x ∈ l → Kept lasting
    calm dry r s → Kept lasting calm dry r (g s x)) :
    Kept lasting calm dry r (l.foldl g s) := by
  induction l generalizing s with
  | nil => exact h
  | cons x l ih => exact ih (hg s x (by simp) h) (fun s y hy h => hg s y (by simp [hy]) h)
theorem apart_refOk {n : Nat} {f : Fld} (h : refOk n = some f) : apart f = true := by
  unfold refOk at h
  split at h <;> cases h <;> rfl
theorem keeps_weak (h : Kept lasting calm dry r s) : Kept false false dry r s :=
  { h with
    c_quiet := fun e => nomatch e
    c_fence := fun e => nomatch e
    c_station := fun e => nomatch e
    c_sealed := fun e => nomatch e }

theorem keepsOQ_foldl {l : List α} {g : Option (β × State) → α → Option (β × State)} {p : Option (β × State)} (h : KeptOQ
    lasting calm dry r p)
    (hg : ∀ p x, KeptOQ lasting calm dry r p → KeptOQ lasting calm dry r (g p x)) : KeptOQ lasting calm dry r (l.foldl g p) := by
  induction l generalizing p with
  | nil => exact h
  | cons x l ih => exact ih (hg p x h)
theorem keepsOQ_pair {x : α} (h : KeptOQ lasting calm dry r (some (x, s))) : Kept lasting calm dry r s := h _ _ rfl
theorem keepsO_pair (h : KeptO lasting calm dry r (some s)) : Kept lasting calm dry r s := h _ rfl

end Sys2Proof.Laws
end

