-- ==== Sys2Proof/Laws/State.lean ====
section
/-! SUPPORT. What each update of the state leaves of every field, so that no later proof unfolds a record update; and reading back
what was written. -/

namespace Sys2Proof.Laws

open Sys2Proof Sys2Proof.Machine

variable (s : State)

/-! ## Register fields -/

/-- A field reads back what was written, cut to its width. -/
theorem getF_setF_same {s : State} (h : tabWf s.flds = true) (f : Fld) (d i v : Nat) :
    getF (setF s f d i v) f d i = v % 2 ^ f.width := tgetD_tput_same _ _ _ h

/-- A write to one place leaves every other place alone. -/
theorem getF_setF_key {s : State} (h : tabWf s.flds = true) (f : Fld) (d i v : Nat) {x : Fld} {e j : Nat}
    (hn : fieldKey x e j ≠ fieldKey f d i) : getF (setF s f d i v) x e j = getF s x e j :=
  tgetD_tput_other _ _ _ h hn

/-- A write to one field leaves the fields of other offsets or bits alone. -/
theorem getF_setF_other {s : State} (h : tabWf s.flds = true) (f x : Fld) (d i v e j : Nat) (hf : f.off < 2 ^ 25) (hx : x.off < 2 ^ 25)
    (lf : f.lo < 32) (lx : x.lo < 32) (hn : ¬ (x.off = f.off ∧ x.lo = f.lo)) :
    getF (setF s f d i v) x e j = getF s x e j :=
  getF_setF_key h f d i v (fieldKey_ne e d j i hx hf lx lf hn)

/-- The register table stays in its one form. -/
theorem tabWf_setF {s : State} (h : tabWf s.flds = true) (f : Fld) (d i v : Nat) : tabWf (setF s f d i v).flds = true :=
  tabWf_tput _ _ _ h

/-- The fields of one instance of a die have different keys on different dies and instances. -/
theorem fieldKey_inst {f : Fld} {d e i j : Nat} (hi : i < 2 ^ 20) (hj : j < 2 ^ 20)
    (h : ¬ (homeDie f d = homeDie f e ∧ i = j)) : fieldKey f d i ≠ fieldKey f e j := by
  unfold fieldKey
  intro e'
  apply h
  omega

/-- A token reads back what was written. -/
theorem getTok_setTok_same {s : State} (h : tabWf s.tokens = true) (d n : Nat) (v : Word) : getTok (setTok s d n v) d n = v :=
  tgetD_tput_same _ _ _ h

/-- A write to one token leaves the others alone. -/
theorem getTok_setTok_other {s : State} (h : tabWf s.tokens = true) (d n e m : Nat) (v : Word) (hn : tokKey e m ≠ tokKey d n) :
    getTok (setTok s d n v) e m = getTok s e m := tgetD_tput_other _ _ _ h hn

/-! ## `setF` changes `flds` alone -/

@[simp] theorem setF_pending (f : Fld) (d i v : Nat) : (setF s f d i v).pending = s.pending := rfl
@[simp] theorem setF_tick (f : Fld) (d i v : Nat) : (setF s f d i v).tick = s.tick := rfl
@[simp] theorem setF_loPend (f : Fld) (d i v : Nat) : (setF s f d i v).loPend = s.loPend := rfl
@[simp] theorem setF_rems (f : Fld) (d i v : Nat) : (setF s f d i v).rems = s.rems := rfl
@[simp] theorem setF_mem (f : Fld) (d i v : Nat) : (setF s f d i v).mem = s.mem := rfl
@[simp] theorem setF_lines (f : Fld) (d i v : Nat) : (setF s f d i v).lines = s.lines := rfl
@[simp] theorem setF_stackState (f : Fld) (d i v : Nat) : (setF s f d i v).stackState = s.stackState := rfl
@[simp] theorem setF_powers (f : Fld) (d i v : Nat) : (setF s f d i v).powers = s.powers := rfl
@[simp] theorem setF_hostMem (f : Fld) (d i v : Nat) : (setF s f d i v).hostMem = s.hostMem := rfl
@[simp] theorem setF_out (f : Fld) (d i v : Nat) : (setF s f d i v).out = s.out := rfl
@[simp] theorem setF_freeCtr (f : Fld) (d i v : Nat) : (setF s f d i v).freeCtr = s.freeCtr := rfl
@[simp] theorem setF_stamp (f : Fld) (d i v : Nat) : (setF s f d i v).stamp = s.stamp := rfl
@[simp] theorem setF_tokens (f : Fld) (d i v : Nat) : (setF s f d i v).tokens = s.tokens := rfl
@[simp] theorem setF_held (f : Fld) (d i v : Nat) : (setF s f d i v).held = s.held := rfl
@[simp] theorem setF_winSel (f : Fld) (d i v : Nat) : (setF s f d i v).winSel = s.winSel := rfl
@[simp] theorem setF_qints (f : Fld) (d i v : Nat) : (setF s f d i v).qints = s.qints := rfl
@[simp] theorem setF_rints (f : Fld) (d i v : Nat) : (setF s f d i v).rints = s.rints := rfl
@[simp] theorem setF_wrrs (f : Fld) (d i v : Nat) : (setF s f d i v).wrrs = s.wrrs := rfl
@[simp] theorem setF_descs (f : Fld) (d i v : Nat) : (setF s f d i v).descs = s.descs := rfl
@[simp] theorem setF_laneDone (f : Fld) (d i v : Nat) : (setF s f d i v).laneDone = s.laneDone := rfl
@[simp] theorem setF_scheds (f : Fld) (d i v : Nat) : (setF s f d i v).scheds = s.scheds := rfl
@[simp] theorem setF_shards (f : Fld) (d i v : Nat) : (setF s f d i v).shards = s.shards := rfl
@[simp] theorem setF_fifos (f : Fld) (d i v : Nat) : (setF s f d i v).fifos = s.fifos := rfl
@[simp] theorem setF_overs (f : Fld) (d i v : Nat) : (setF s f d i v).overs = s.overs := rfl
@[simp] theorem setF_streams (f : Fld) (d i v : Nat) : (setF s f d i v).streams = s.streams := rfl
@[simp] theorem setF_linkDown (f : Fld) (d i v : Nat) : (setF s f d i v).linkDown = s.linkDown := rfl
@[simp] theorem setF_lostCpls (f : Fld) (d i v : Nat) : (setF s f d i v).lostCpls = s.lostCpls := rfl
@[simp] theorem setF_bar4 (f : Fld) (d i v : Nat) : (setF s f d i v).bar4 = s.bar4 := rfl
@[simp] theorem setF_rstreams (f : Fld) (d i v : Nat) : (setF s f d i v).rstreams = s.rstreams := rfl
@[simp] theorem setF_profiles (f : Fld) (d i v : Nat) : (setF s f d i v).profiles = s.profiles := rfl
@[simp] theorem setF_samples (f : Fld) (d i v : Nat) : (setF s f d i v).samples = s.samples := rfl
@[simp] theorem setF_pages (f : Fld) (d i v : Nat) : (setF s f d i v).pages = s.pages := rfl
@[simp] theorem setF_homes (f : Fld) (d i v : Nat) : (setF s f d i v).homes = s.homes := rfl
@[simp] theorem setF_moves (f : Fld) (d i v : Nat) : (setF s f d i v).moves = s.moves := rfl
@[simp] theorem setF_tierJobs (f : Fld) (d i v : Nat) : (setF s f d i v).tierJobs = s.tierJobs := rfl
@[simp] theorem setF_policyOn (f : Fld) (d i v : Nat) : (setF s f d i v).policyOn = s.policyOn := rfl
@[simp] theorem setF_partGran (f : Fld) (d i v : Nat) : (setF s f d i v).partGran = s.partGran := rfl
@[simp] theorem setF_heldWrites (f : Fld) (d i v : Nat) : (setF s f d i v).heldWrites = s.heldWrites := rfl
@[simp] theorem setF_releases (f : Fld) (d i v : Nat) : (setF s f d i v).releases = s.releases := rfl
@[simp] theorem setF_objects (f : Fld) (d i v : Nat) : (setF s f d i v).objects = s.objects := rfl
@[simp] theorem setF_gens (f : Fld) (d i v : Nat) : (setF s f d i v).gens = s.gens := rfl
@[simp] theorem setF_slots (f : Fld) (d i v : Nat) : (setF s f d i v).slots = s.slots := rfl
@[simp] theorem setF_windows (f : Fld) (d i v : Nat) : (setF s f d i v).windows = s.windows := rfl
@[simp] theorem setF_txFlows (f : Fld) (d i v : Nat) : (setF s f d i v).txFlows = s.txFlows := rfl
@[simp] theorem setF_rxFlows (f : Fld) (d i v : Nat) : (setF s f d i v).rxFlows = s.rxFlows := rfl
@[simp] theorem setF_ports (f : Fld) (d i v : Nat) : (setF s f d i v).ports = s.ports := rfl
@[simp] theorem setF_links (f : Fld) (d i v : Nat) : (setF s f d i v).links = s.links := rfl
@[simp] theorem setF_mcSends (f : Fld) (d i v : Nat) : (setF s f d i v).mcSends = s.mcSends := rfl
@[simp] theorem setF_mcRecvs (f : Fld) (d i v : Nat) : (setF s f d i v).mcRecvs = s.mcRecvs := rfl
@[simp] theorem setF_pruned (f : Fld) (d i v : Nat) : (setF s f d i v).pruned = s.pruned := rfl
@[simp] theorem setF_waits (f : Fld) (d i v : Nat) : (setF s f d i v).waits = s.waits := rfl
@[simp] theorem setF_routeWrr (f : Fld) (d i v : Nat) : (setF s f d i v).routeWrr = s.routeWrr := rfl
@[simp] theorem setF_modTab (f : Fld) (d i v : Nat) : (setF s f d i v).modTab = s.modTab := rfl
@[simp] theorem setF_ovrTab (f : Fld) (d i v : Nat) : (setF s f d i v).ovrTab = s.ovrTab := rfl
@[simp] theorem setF_mcTab (f : Fld) (d i v : Nat) : (setF s f d i v).mcTab = s.mcTab := rfl
@[simp] theorem setF_remoteFenced (f : Fld) (d i v : Nat) : (setF s f d i v).remoteFenced = s.remoteFenced := rfl
@[simp] theorem setF_keys (f : Fld) (d i v : Nat) : (setF s f d i v).keys = s.keys := rfl
@[simp] theorem setF_keyCtr (f : Fld) (d i v : Nat) : (setF s f d i v).keyCtr = s.keyCtr := rfl
@[simp] theorem setF_keySend (f : Fld) (d i v : Nat) : (setF s f d i v).keySend = s.keySend := rfl
@[simp] theorem setF_elog (f : Fld) (d i v : Nat) : (setF s f d i v).elog = s.elog := rfl
@[simp] theorem setF_noticeId (f : Fld) (d i v : Nat) : (setF s f d i v).noticeId = s.noticeId := rfl
@[simp] theorem setF_noticeCache (f : Fld) (d i v : Nat) : (setF s f d i v).noticeCache = s.noticeCache := rfl
@[simp] theorem setF_seqs (f : Fld) (d i v : Nat) : (setF s f d i v).seqs = s.seqs := rfl
@[simp] theorem setF_pmap (f : Fld) (d i v : Nat) : (setF s f d i v).pmap = s.pmap := rfl
@[simp] theorem setF_walks (f : Fld) (d i v : Nat) : (setF s f d i v).walks = s.walks := rfl
@[simp] theorem setF_remaps (f : Fld) (d i v : Nat) : (setF s f d i v).remaps = s.remaps := rfl
@[simp] theorem setF_rebuilds (f : Fld) (d i v : Nat) : (setF s f d i v).rebuilds = s.rebuilds := rfl
@[simp] theorem setF_rings (f : Fld) (d i v : Nat) : (setF s f d i v).rings = s.rings := rfl
@[simp] theorem setF_comms (f : Fld) (d i v : Nat) : (setF s f d i v).comms = s.comms := rfl
@[simp] theorem setF_calls (f : Fld) (d i v : Nat) : (setF s f d i v).calls = s.calls := rfl
@[simp] theorem setF_notes (f : Fld) (d i v : Nat) : (setF s f d i v).notes = s.notes := rfl
@[simp] theorem setF_lates (f : Fld) (d i v : Nat) : (setF s f d i v).lates = s.lates := rfl
@[simp] theorem setF_serves (f : Fld) (d i v : Nat) : (setF s f d i v).serves = s.serves := rfl
@[simp] theorem setF_epochs (f : Fld) (d i v : Nat) : (setF s f d i v).epochs = s.epochs := rfl
@[simp] theorem setF_maps (f : Fld) (d i v : Nat) : (setF s f d i v).maps = s.maps := rfl
@[simp] theorem setF_extTab (f : Fld) (d i v : Nat) : (setF s f d i v).extTab = s.extTab := rfl
@[simp] theorem setF_vmap (f : Fld) (d i v : Nat) : (setF s f d i v).vmap = s.vmap := rfl
@[simp] theorem setF_supply (f : Fld) (d i v : Nat) : (setF s f d i v).supply = s.supply := rfl
@[simp] theorem setF_govs (f : Fld) (d i v : Nat) : (setF s f d i v).govs = s.govs := rfl
@[simp] theorem setF_hotStep (f : Fld) (d i v : Nat) : (setF s f d i v).hotStep = s.hotStep := rfl
@[simp] theorem setF_drains (f : Fld) (d i v : Nat) : (setF s f d i v).drains = s.drains := rfl
@[simp] theorem setF_modes (f : Fld) (d i v : Nat) : (setF s f d i v).modes = s.modes := rfl
@[simp] theorem setF_psAt (f : Fld) (d i v : Nat) : (setF s f d i v).psAt = s.psAt := rfl
@[simp] theorem setF_psWake (f : Fld) (d i v : Nat) : (setF s f d i v).psWake = s.psWake := rfl
@[simp] theorem setF_aon (f : Fld) (d i v : Nat) : (setF s f d i v).aon = s.aon := rfl
@[simp] theorem setF_swaps (f : Fld) (d i v : Nat) : (setF s f d i v).swaps = s.swaps := rfl
@[simp] theorem setF_stopped (f : Fld) (d i v : Nat) : (setF s f d i v).stopped = s.stopped := rfl
@[simp] theorem setF_slew (f : Fld) (d i v : Nat) : (setF s f d i v).slew = s.slew := rfl
@[simp] theorem setF_aligned (f : Fld) (d i v : Nat) : (setF s f d i v).aligned = s.aligned := rfl
@[simp] theorem setF_tickStop (f : Fld) (d i v : Nat) : (setF s f d i v).tickStop = s.tickStop := rfl
@[simp] theorem setF_hbLast (f : Fld) (d i v : Nat) : (setF s f d i v).hbLast = s.hbLast := rfl
@[simp] theorem setF_pcs (f : Fld) (d i v : Nat) : (setF s f d i v).pcs = s.pcs := rfl
@[simp] theorem setF_pcRetired (f : Fld) (d i v : Nat) : (setF s f d i v).pcRetired = s.pcRetired := rfl
@[simp] theorem setF_sets (f : Fld) (d i v : Nat) : (setF s f d i v).sets = s.sets := rfl
@[simp] theorem setF_images (f : Fld) (d i v : Nat) : (setF s f d i v).images = s.images := rfl
@[simp] theorem setF_wardGen (f : Fld) (d i v : Nat) : (setF s f d i v).wardGen = s.wardGen := rfl
@[simp] theorem setF_wardMem (f : Fld) (d i v : Nat) : (setF s f d i v).wardMem = s.wardMem := rfl
@[simp] theorem setF_conns (f : Fld) (d i v : Nat) : (setF s f d i v).conns = s.conns := rfl
@[simp] theorem setF_paused (f : Fld) (d i v : Nat) : (setF s f d i v).paused = s.paused := rfl
@[simp] theorem setF_opWaits (f : Fld) (d i v : Nat) : (setF s f d i v).opWaits = s.opWaits := rfl
@[simp] theorem setF_staged (f : Fld) (d i v : Nat) : (setF s f d i v).staged = s.staged := rfl
@[simp] theorem setF_fwSlots (f : Fld) (d i v : Nat) : (setF s f d i v).fwSlots = s.fwSlots := rfl
@[simp] theorem setF_bootAt (f : Fld) (d i v : Nat) : (setF s f d i v).bootAt = s.bootAt := rfl
@[simp] theorem setF_bootBad (f : Fld) (d i v : Nat) : (setF s f d i v).bootBad = s.bootBad := rfl
@[simp] theorem setF_sessions (f : Fld) (d i v : Nat) : (setF s f d i v).sessions = s.sessions := rfl
@[simp] theorem setF_sealBytes (f : Fld) (d i v : Nat) : (setF s f d i v).sealBytes = s.sealBytes := rfl
@[simp] theorem setF_rlog (f : Fld) (d i v : Nat) : (setF s f d i v).rlog = s.rlog := rfl
@[simp] theorem setF_bists (f : Fld) (d i v : Nat) : (setF s f d i v).bists = s.bists := rfl
@[simp] theorem setF_margins (f : Fld) (d i v : Nat) : (setF s f d i v).margins = s.margins := rfl
@[simp] theorem setF_remargin (f : Fld) (d i v : Nat) : (setF s f d i v).remargin = s.remargin := rfl
@[simp] theorem setF_spares (f : Fld) (d i v : Nat) : (setF s f d i v).spares = s.spares := rfl
@[simp] theorem setF_rows (f : Fld) (d i v : Nat) : (setF s f d i v).rows = s.rows := rfl
@[simp] theorem setF_slewCnt (f : Fld) (d i v : Nat) : (setF s f d i v).slewCnt = s.slewCnt := rfl
@[simp] theorem setF_copyAsked (f : Fld) (d i v : Nat) : (setF s f d i v).copyAsked = s.copyAsked := rfl
@[simp] theorem setF_deadToks (f : Fld) (d i v : Nat) : (setF s f d i v).deadToks = s.deadToks := rfl
@[simp] theorem setF_reqs (f : Fld) (d i v : Nat) : (setF s f d i v).reqs = s.reqs := rfl
@[simp] theorem setF_deficits (f : Fld) (d i v : Nat) : (setF s f d i v).deficits = s.deficits := rfl
@[simp] theorem setF_view (f : Fld) (d i v : Nat) : (setF s f d i v).view = s.view := rfl
@[simp] theorem setF_walkq (f : Fld) (d i v : Nat) : (setF s f d i v).walkq = s.walkq := rfl
@[simp] theorem setF_bankTurn (f : Fld) (d i v : Nat) : (setF s f d i v).bankTurn = s.bankTurn := rfl
@[simp] theorem setF_idents (f : Fld) (d i v : Nat) : (setF s f d i v).idents = s.idents := rfl

/-! ## `emit` changes `out` alone -/

@[simp] theorem emit_pending (o : Output) : (emit s o).pending = s.pending := rfl
@[simp] theorem emit_tick (o : Output) : (emit s o).tick = s.tick := rfl
@[simp] theorem emit_flds (o : Output) : (emit s o).flds = s.flds := rfl
@[simp] theorem emit_loPend (o : Output) : (emit s o).loPend = s.loPend := rfl
@[simp] theorem emit_rems (o : Output) : (emit s o).rems = s.rems := rfl
@[simp] theorem emit_mem (o : Output) : (emit s o).mem = s.mem := rfl
@[simp] theorem emit_lines (o : Output) : (emit s o).lines = s.lines := rfl
@[simp] theorem emit_stackState (o : Output) : (emit s o).stackState = s.stackState := rfl
@[simp] theorem emit_powers (o : Output) : (emit s o).powers = s.powers := rfl
@[simp] theorem emit_hostMem (o : Output) : (emit s o).hostMem = s.hostMem := rfl
@[simp] theorem emit_freeCtr (o : Output) : (emit s o).freeCtr = s.freeCtr := rfl
@[simp] theorem emit_stamp (o : Output) : (emit s o).stamp = s.stamp := rfl
@[simp] theorem emit_tokens (o : Output) : (emit s o).tokens = s.tokens := rfl
@[simp] theorem emit_held (o : Output) : (emit s o).held = s.held := rfl
@[simp] theorem emit_winSel (o : Output) : (emit s o).winSel = s.winSel := rfl
@[simp] theorem emit_qints (o : Output) : (emit s o).qints = s.qints := rfl
@[simp] theorem emit_rints (o : Output) : (emit s o).rints = s.rints := rfl
@[simp] theorem emit_wrrs (o : Output) : (emit s o).wrrs = s.wrrs := rfl
@[simp] theorem emit_descs (o : Output) : (emit s o).descs = s.descs := rfl
@[simp] theorem emit_laneDone (o : Output) : (emit s o).laneDone = s.laneDone := rfl
@[simp] theorem emit_scheds (o : Output) : (emit s o).scheds = s.scheds := rfl
@[simp] theorem emit_shards (o : Output) : (emit s o).shards = s.shards := rfl
@[simp] theorem emit_fifos (o : Output) : (emit s o).fifos = s.fifos := rfl
@[simp] theorem emit_overs (o : Output) : (emit s o).overs = s.overs := rfl
@[simp] theorem emit_streams (o : Output) : (emit s o).streams = s.streams := rfl
@[simp] theorem emit_linkDown (o : Output) : (emit s o).linkDown = s.linkDown := rfl
@[simp] theorem emit_lostCpls (o : Output) : (emit s o).lostCpls = s.lostCpls := rfl
@[simp] theorem emit_bar4 (o : Output) : (emit s o).bar4 = s.bar4 := rfl
@[simp] theorem emit_rstreams (o : Output) : (emit s o).rstreams = s.rstreams := rfl
@[simp] theorem emit_profiles (o : Output) : (emit s o).profiles = s.profiles := rfl
@[simp] theorem emit_samples (o : Output) : (emit s o).samples = s.samples := rfl
@[simp] theorem emit_pages (o : Output) : (emit s o).pages = s.pages := rfl
@[simp] theorem emit_homes (o : Output) : (emit s o).homes = s.homes := rfl
@[simp] theorem emit_moves (o : Output) : (emit s o).moves = s.moves := rfl
@[simp] theorem emit_tierJobs (o : Output) : (emit s o).tierJobs = s.tierJobs := rfl
@[simp] theorem emit_policyOn (o : Output) : (emit s o).policyOn = s.policyOn := rfl
@[simp] theorem emit_partGran (o : Output) : (emit s o).partGran = s.partGran := rfl
@[simp] theorem emit_heldWrites (o : Output) : (emit s o).heldWrites = s.heldWrites := rfl
@[simp] theorem emit_releases (o : Output) : (emit s o).releases = s.releases := rfl
@[simp] theorem emit_objects (o : Output) : (emit s o).objects = s.objects := rfl
@[simp] theorem emit_gens (o : Output) : (emit s o).gens = s.gens := rfl
@[simp] theorem emit_slots (o : Output) : (emit s o).slots = s.slots := rfl
@[simp] theorem emit_windows (o : Output) : (emit s o).windows = s.windows := rfl
@[simp] theorem emit_txFlows (o : Output) : (emit s o).txFlows = s.txFlows := rfl
@[simp] theorem emit_rxFlows (o : Output) : (emit s o).rxFlows = s.rxFlows := rfl
@[simp] theorem emit_ports (o : Output) : (emit s o).ports = s.ports := rfl
@[simp] theorem emit_links (o : Output) : (emit s o).links = s.links := rfl
@[simp] theorem emit_mcSends (o : Output) : (emit s o).mcSends = s.mcSends := rfl
@[simp] theorem emit_mcRecvs (o : Output) : (emit s o).mcRecvs = s.mcRecvs := rfl
@[simp] theorem emit_pruned (o : Output) : (emit s o).pruned = s.pruned := rfl
@[simp] theorem emit_waits (o : Output) : (emit s o).waits = s.waits := rfl
@[simp] theorem emit_routeWrr (o : Output) : (emit s o).routeWrr = s.routeWrr := rfl
@[simp] theorem emit_modTab (o : Output) : (emit s o).modTab = s.modTab := rfl
@[simp] theorem emit_ovrTab (o : Output) : (emit s o).ovrTab = s.ovrTab := rfl
@[simp] theorem emit_mcTab (o : Output) : (emit s o).mcTab = s.mcTab := rfl
@[simp] theorem emit_remoteFenced (o : Output) : (emit s o).remoteFenced = s.remoteFenced := rfl
@[simp] theorem emit_keys (o : Output) : (emit s o).keys = s.keys := rfl
@[simp] theorem emit_keyCtr (o : Output) : (emit s o).keyCtr = s.keyCtr := rfl
@[simp] theorem emit_keySend (o : Output) : (emit s o).keySend = s.keySend := rfl
@[simp] theorem emit_elog (o : Output) : (emit s o).elog = s.elog := rfl
@[simp] theorem emit_noticeId (o : Output) : (emit s o).noticeId = s.noticeId := rfl
@[simp] theorem emit_noticeCache (o : Output) : (emit s o).noticeCache = s.noticeCache := rfl
@[simp] theorem emit_seqs (o : Output) : (emit s o).seqs = s.seqs := rfl
@[simp] theorem emit_pmap (o : Output) : (emit s o).pmap = s.pmap := rfl
@[simp] theorem emit_walks (o : Output) : (emit s o).walks = s.walks := rfl
@[simp] theorem emit_remaps (o : Output) : (emit s o).remaps = s.remaps := rfl
@[simp] theorem emit_rebuilds (o : Output) : (emit s o).rebuilds = s.rebuilds := rfl
@[simp] theorem emit_rings (o : Output) : (emit s o).rings = s.rings := rfl
@[simp] theorem emit_comms (o : Output) : (emit s o).comms = s.comms := rfl
@[simp] theorem emit_calls (o : Output) : (emit s o).calls = s.calls := rfl
@[simp] theorem emit_notes (o : Output) : (emit s o).notes = s.notes := rfl
@[simp] theorem emit_lates (o : Output) : (emit s o).lates = s.lates := rfl
@[simp] theorem emit_serves (o : Output) : (emit s o).serves = s.serves := rfl
@[simp] theorem emit_epochs (o : Output) : (emit s o).epochs = s.epochs := rfl
@[simp] theorem emit_maps (o : Output) : (emit s o).maps = s.maps := rfl
@[simp] theorem emit_extTab (o : Output) : (emit s o).extTab = s.extTab := rfl
@[simp] theorem emit_vmap (o : Output) : (emit s o).vmap = s.vmap := rfl
@[simp] theorem emit_supply (o : Output) : (emit s o).supply = s.supply := rfl
@[simp] theorem emit_govs (o : Output) : (emit s o).govs = s.govs := rfl
@[simp] theorem emit_hotStep (o : Output) : (emit s o).hotStep = s.hotStep := rfl
@[simp] theorem emit_drains (o : Output) : (emit s o).drains = s.drains := rfl
@[simp] theorem emit_modes (o : Output) : (emit s o).modes = s.modes := rfl
@[simp] theorem emit_psAt (o : Output) : (emit s o).psAt = s.psAt := rfl
@[simp] theorem emit_psWake (o : Output) : (emit s o).psWake = s.psWake := rfl
@[simp] theorem emit_aon (o : Output) : (emit s o).aon = s.aon := rfl
@[simp] theorem emit_swaps (o : Output) : (emit s o).swaps = s.swaps := rfl
@[simp] theorem emit_stopped (o : Output) : (emit s o).stopped = s.stopped := rfl
@[simp] theorem emit_slew (o : Output) : (emit s o).slew = s.slew := rfl
@[simp] theorem emit_aligned (o : Output) : (emit s o).aligned = s.aligned := rfl
@[simp] theorem emit_tickStop (o : Output) : (emit s o).tickStop = s.tickStop := rfl
@[simp] theorem emit_hbLast (o : Output) : (emit s o).hbLast = s.hbLast := rfl
@[simp] theorem emit_pcs (o : Output) : (emit s o).pcs = s.pcs := rfl
@[simp] theorem emit_pcRetired (o : Output) : (emit s o).pcRetired = s.pcRetired := rfl
@[simp] theorem emit_sets (o : Output) : (emit s o).sets = s.sets := rfl
@[simp] theorem emit_images (o : Output) : (emit s o).images = s.images := rfl
@[simp] theorem emit_wardGen (o : Output) : (emit s o).wardGen = s.wardGen := rfl
@[simp] theorem emit_wardMem (o : Output) : (emit s o).wardMem = s.wardMem := rfl
@[simp] theorem emit_conns (o : Output) : (emit s o).conns = s.conns := rfl
@[simp] theorem emit_paused (o : Output) : (emit s o).paused = s.paused := rfl
@[simp] theorem emit_opWaits (o : Output) : (emit s o).opWaits = s.opWaits := rfl
@[simp] theorem emit_staged (o : Output) : (emit s o).staged = s.staged := rfl
@[simp] theorem emit_fwSlots (o : Output) : (emit s o).fwSlots = s.fwSlots := rfl
@[simp] theorem emit_bootAt (o : Output) : (emit s o).bootAt = s.bootAt := rfl
@[simp] theorem emit_bootBad (o : Output) : (emit s o).bootBad = s.bootBad := rfl
@[simp] theorem emit_sessions (o : Output) : (emit s o).sessions = s.sessions := rfl
@[simp] theorem emit_sealBytes (o : Output) : (emit s o).sealBytes = s.sealBytes := rfl
@[simp] theorem emit_rlog (o : Output) : (emit s o).rlog = s.rlog := rfl
@[simp] theorem emit_bists (o : Output) : (emit s o).bists = s.bists := rfl
@[simp] theorem emit_margins (o : Output) : (emit s o).margins = s.margins := rfl
@[simp] theorem emit_remargin (o : Output) : (emit s o).remargin = s.remargin := rfl
@[simp] theorem emit_spares (o : Output) : (emit s o).spares = s.spares := rfl
@[simp] theorem emit_rows (o : Output) : (emit s o).rows = s.rows := rfl
@[simp] theorem emit_slewCnt (o : Output) : (emit s o).slewCnt = s.slewCnt := rfl
@[simp] theorem emit_copyAsked (o : Output) : (emit s o).copyAsked = s.copyAsked := rfl
@[simp] theorem emit_deadToks (o : Output) : (emit s o).deadToks = s.deadToks := rfl
@[simp] theorem emit_reqs (o : Output) : (emit s o).reqs = s.reqs := rfl
@[simp] theorem emit_deficits (o : Output) : (emit s o).deficits = s.deficits := rfl
@[simp] theorem emit_view (o : Output) : (emit s o).view = s.view := rfl
@[simp] theorem emit_walkq (o : Output) : (emit s o).walkq = s.walkq := rfl
@[simp] theorem emit_bankTurn (o : Output) : (emit s o).bankTurn = s.bankTurn := rfl
@[simp] theorem emit_idents (o : Output) : (emit s o).idents = s.idents := rfl
@[simp] theorem getF_emit (o : Output) (y : Fld) (e j : Nat) :
    getF (emit s o) y e j = getF s y e j := rfl
@[simp] theorem flag_emit (o : Output) (y : Fld) (e j : Nat) :
    flag (emit s o) y e j = flag s y e j := rfl

/-! ## `hostWrite` changes `hostMem` alone -/

@[simp] theorem hostWrite_pending (p a : Nat) (bs : Bytes) : (hostWrite s p a bs).pending = s.pending := rfl
@[simp] theorem hostWrite_tick (p a : Nat) (bs : Bytes) : (hostWrite s p a bs).tick = s.tick := rfl
@[simp] theorem hostWrite_flds (p a : Nat) (bs : Bytes) : (hostWrite s p a bs).flds = s.flds := rfl
@[simp] theorem hostWrite_loPend (p a : Nat) (bs : Bytes) : (hostWrite s p a bs).loPend = s.loPend := rfl
@[simp] theorem hostWrite_rems (p a : Nat) (bs : Bytes) : (hostWrite s p a bs).rems = s.rems := rfl
@[simp] theorem hostWrite_mem (p a : Nat) (bs : Bytes) : (hostWrite s p a bs).mem = s.mem := rfl
@[simp] theorem hostWrite_lines (p a : Nat) (bs : Bytes) : (hostWrite s p a bs).lines = s.lines := rfl
@[simp] theorem hostWrite_stackState (p a : Nat) (bs : Bytes) : (hostWrite s p a bs).stackState = s.stackState := rfl
@[simp] theorem hostWrite_powers (p a : Nat) (bs : Bytes) : (hostWrite s p a bs).powers = s.powers := rfl
@[simp] theorem hostWrite_out (p a : Nat) (bs : Bytes) : (hostWrite s p a bs).out = s.out := rfl
@[simp] theorem hostWrite_freeCtr (p a : Nat) (bs : Bytes) : (hostWrite s p a bs).freeCtr = s.freeCtr := rfl
@[simp] theorem hostWrite_stamp (p a : Nat) (bs : Bytes) : (hostWrite s p a bs).stamp = s.stamp := rfl
@[simp] theorem hostWrite_tokens (p a : Nat) (bs : Bytes) : (hostWrite s p a bs).tokens = s.tokens := rfl
@[simp] theorem hostWrite_held (p a : Nat) (bs : Bytes) : (hostWrite s p a bs).held = s.held := rfl
@[simp] theorem hostWrite_winSel (p a : Nat) (bs : Bytes) : (hostWrite s p a bs).winSel = s.winSel := rfl
@[simp] theorem hostWrite_qints (p a : Nat) (bs : Bytes) : (hostWrite s p a bs).qints = s.qints := rfl
@[simp] theorem hostWrite_rints (p a : Nat) (bs : Bytes) : (hostWrite s p a bs).rints = s.rints := rfl
@[simp] theorem hostWrite_wrrs (p a : Nat) (bs : Bytes) : (hostWrite s p a bs).wrrs = s.wrrs := rfl
@[simp] theorem hostWrite_descs (p a : Nat) (bs : Bytes) : (hostWrite s p a bs).descs = s.descs := rfl
@[simp] theorem hostWrite_laneDone (p a : Nat) (bs : Bytes) : (hostWrite s p a bs).laneDone = s.laneDone := rfl
@[simp] theorem hostWrite_scheds (p a : Nat) (bs : Bytes) : (hostWrite s p a bs).scheds = s.scheds := rfl
@[simp] theorem hostWrite_shards (p a : Nat) (bs : Bytes) : (hostWrite s p a bs).shards = s.shards := rfl
@[simp] theorem hostWrite_fifos (p a : Nat) (bs : Bytes) : (hostWrite s p a bs).fifos = s.fifos := rfl
@[simp] theorem hostWrite_overs (p a : Nat) (bs : Bytes) : (hostWrite s p a bs).overs = s.overs := rfl
@[simp] theorem hostWrite_streams (p a : Nat) (bs : Bytes) : (hostWrite s p a bs).streams = s.streams := rfl
@[simp] theorem hostWrite_linkDown (p a : Nat) (bs : Bytes) : (hostWrite s p a bs).linkDown = s.linkDown := rfl
@[simp] theorem hostWrite_lostCpls (p a : Nat) (bs : Bytes) : (hostWrite s p a bs).lostCpls = s.lostCpls := rfl
@[simp] theorem hostWrite_bar4 (p a : Nat) (bs : Bytes) : (hostWrite s p a bs).bar4 = s.bar4 := rfl
@[simp] theorem hostWrite_rstreams (p a : Nat) (bs : Bytes) : (hostWrite s p a bs).rstreams = s.rstreams := rfl
@[simp] theorem hostWrite_profiles (p a : Nat) (bs : Bytes) : (hostWrite s p a bs).profiles = s.profiles := rfl
@[simp] theorem hostWrite_samples (p a : Nat) (bs : Bytes) : (hostWrite s p a bs).samples = s.samples := rfl
@[simp] theorem hostWrite_pages (p a : Nat) (bs : Bytes) : (hostWrite s p a bs).pages = s.pages := rfl
@[simp] theorem hostWrite_homes (p a : Nat) (bs : Bytes) : (hostWrite s p a bs).homes = s.homes := rfl
@[simp] theorem hostWrite_moves (p a : Nat) (bs : Bytes) : (hostWrite s p a bs).moves = s.moves := rfl
@[simp] theorem hostWrite_tierJobs (p a : Nat) (bs : Bytes) : (hostWrite s p a bs).tierJobs = s.tierJobs := rfl
@[simp] theorem hostWrite_policyOn (p a : Nat) (bs : Bytes) : (hostWrite s p a bs).policyOn = s.policyOn := rfl
@[simp] theorem hostWrite_partGran (p a : Nat) (bs : Bytes) : (hostWrite s p a bs).partGran = s.partGran := rfl
@[simp] theorem hostWrite_heldWrites (p a : Nat) (bs : Bytes) : (hostWrite s p a bs).heldWrites = s.heldWrites := rfl
@[simp] theorem hostWrite_releases (p a : Nat) (bs : Bytes) : (hostWrite s p a bs).releases = s.releases := rfl
@[simp] theorem hostWrite_objects (p a : Nat) (bs : Bytes) : (hostWrite s p a bs).objects = s.objects := rfl
@[simp] theorem hostWrite_gens (p a : Nat) (bs : Bytes) : (hostWrite s p a bs).gens = s.gens := rfl
@[simp] theorem hostWrite_slots (p a : Nat) (bs : Bytes) : (hostWrite s p a bs).slots = s.slots := rfl
@[simp] theorem hostWrite_windows (p a : Nat) (bs : Bytes) : (hostWrite s p a bs).windows = s.windows := rfl
@[simp] theorem hostWrite_txFlows (p a : Nat) (bs : Bytes) : (hostWrite s p a bs).txFlows = s.txFlows := rfl
@[simp] theorem hostWrite_rxFlows (p a : Nat) (bs : Bytes) : (hostWrite s p a bs).rxFlows = s.rxFlows := rfl
@[simp] theorem hostWrite_ports (p a : Nat) (bs : Bytes) : (hostWrite s p a bs).ports = s.ports := rfl
@[simp] theorem hostWrite_links (p a : Nat) (bs : Bytes) : (hostWrite s p a bs).links = s.links := rfl
@[simp] theorem hostWrite_mcSends (p a : Nat) (bs : Bytes) : (hostWrite s p a bs).mcSends = s.mcSends := rfl
@[simp] theorem hostWrite_mcRecvs (p a : Nat) (bs : Bytes) : (hostWrite s p a bs).mcRecvs = s.mcRecvs := rfl
@[simp] theorem hostWrite_pruned (p a : Nat) (bs : Bytes) : (hostWrite s p a bs).pruned = s.pruned := rfl
@[simp] theorem hostWrite_waits (p a : Nat) (bs : Bytes) : (hostWrite s p a bs).waits = s.waits := rfl
@[simp] theorem hostWrite_routeWrr (p a : Nat) (bs : Bytes) : (hostWrite s p a bs).routeWrr = s.routeWrr := rfl
@[simp] theorem hostWrite_modTab (p a : Nat) (bs : Bytes) : (hostWrite s p a bs).modTab = s.modTab := rfl
@[simp] theorem hostWrite_ovrTab (p a : Nat) (bs : Bytes) : (hostWrite s p a bs).ovrTab = s.ovrTab := rfl
@[simp] theorem hostWrite_mcTab (p a : Nat) (bs : Bytes) : (hostWrite s p a bs).mcTab = s.mcTab := rfl
@[simp] theorem hostWrite_remoteFenced (p a : Nat) (bs : Bytes) : (hostWrite s p a bs).remoteFenced = s.remoteFenced := rfl
@[simp] theorem hostWrite_keys (p a : Nat) (bs : Bytes) : (hostWrite s p a bs).keys = s.keys := rfl
@[simp] theorem hostWrite_keyCtr (p a : Nat) (bs : Bytes) : (hostWrite s p a bs).keyCtr = s.keyCtr := rfl
@[simp] theorem hostWrite_keySend (p a : Nat) (bs : Bytes) : (hostWrite s p a bs).keySend = s.keySend := rfl
@[simp] theorem hostWrite_elog (p a : Nat) (bs : Bytes) : (hostWrite s p a bs).elog = s.elog := rfl
@[simp] theorem hostWrite_noticeId (p a : Nat) (bs : Bytes) : (hostWrite s p a bs).noticeId = s.noticeId := rfl
@[simp] theorem hostWrite_noticeCache (p a : Nat) (bs : Bytes) : (hostWrite s p a bs).noticeCache = s.noticeCache := rfl
@[simp] theorem hostWrite_seqs (p a : Nat) (bs : Bytes) : (hostWrite s p a bs).seqs = s.seqs := rfl
@[simp] theorem hostWrite_pmap (p a : Nat) (bs : Bytes) : (hostWrite s p a bs).pmap = s.pmap := rfl
@[simp] theorem hostWrite_walks (p a : Nat) (bs : Bytes) : (hostWrite s p a bs).walks = s.walks := rfl
@[simp] theorem hostWrite_remaps (p a : Nat) (bs : Bytes) : (hostWrite s p a bs).remaps = s.remaps := rfl
@[simp] theorem hostWrite_rebuilds (p a : Nat) (bs : Bytes) : (hostWrite s p a bs).rebuilds = s.rebuilds := rfl
@[simp] theorem hostWrite_rings (p a : Nat) (bs : Bytes) : (hostWrite s p a bs).rings = s.rings := rfl
@[simp] theorem hostWrite_comms (p a : Nat) (bs : Bytes) : (hostWrite s p a bs).comms = s.comms := rfl
@[simp] theorem hostWrite_calls (p a : Nat) (bs : Bytes) : (hostWrite s p a bs).calls = s.calls := rfl
@[simp] theorem hostWrite_notes (p a : Nat) (bs : Bytes) : (hostWrite s p a bs).notes = s.notes := rfl
@[simp] theorem hostWrite_lates (p a : Nat) (bs : Bytes) : (hostWrite s p a bs).lates = s.lates := rfl
@[simp] theorem hostWrite_serves (p a : Nat) (bs : Bytes) : (hostWrite s p a bs).serves = s.serves := rfl
@[simp] theorem hostWrite_epochs (p a : Nat) (bs : Bytes) : (hostWrite s p a bs).epochs = s.epochs := rfl
@[simp] theorem hostWrite_maps (p a : Nat) (bs : Bytes) : (hostWrite s p a bs).maps = s.maps := rfl
@[simp] theorem hostWrite_extTab (p a : Nat) (bs : Bytes) : (hostWrite s p a bs).extTab = s.extTab := rfl
@[simp] theorem hostWrite_vmap (p a : Nat) (bs : Bytes) : (hostWrite s p a bs).vmap = s.vmap := rfl
@[simp] theorem hostWrite_supply (p a : Nat) (bs : Bytes) : (hostWrite s p a bs).supply = s.supply := rfl
@[simp] theorem hostWrite_govs (p a : Nat) (bs : Bytes) : (hostWrite s p a bs).govs = s.govs := rfl
@[simp] theorem hostWrite_hotStep (p a : Nat) (bs : Bytes) : (hostWrite s p a bs).hotStep = s.hotStep := rfl
@[simp] theorem hostWrite_drains (p a : Nat) (bs : Bytes) : (hostWrite s p a bs).drains = s.drains := rfl
@[simp] theorem hostWrite_modes (p a : Nat) (bs : Bytes) : (hostWrite s p a bs).modes = s.modes := rfl
@[simp] theorem hostWrite_psAt (p a : Nat) (bs : Bytes) : (hostWrite s p a bs).psAt = s.psAt := rfl
@[simp] theorem hostWrite_psWake (p a : Nat) (bs : Bytes) : (hostWrite s p a bs).psWake = s.psWake := rfl
@[simp] theorem hostWrite_aon (p a : Nat) (bs : Bytes) : (hostWrite s p a bs).aon = s.aon := rfl
@[simp] theorem hostWrite_swaps (p a : Nat) (bs : Bytes) : (hostWrite s p a bs).swaps = s.swaps := rfl
@[simp] theorem hostWrite_stopped (p a : Nat) (bs : Bytes) : (hostWrite s p a bs).stopped = s.stopped := rfl
@[simp] theorem hostWrite_slew (p a : Nat) (bs : Bytes) : (hostWrite s p a bs).slew = s.slew := rfl
@[simp] theorem hostWrite_aligned (p a : Nat) (bs : Bytes) : (hostWrite s p a bs).aligned = s.aligned := rfl
@[simp] theorem hostWrite_tickStop (p a : Nat) (bs : Bytes) : (hostWrite s p a bs).tickStop = s.tickStop := rfl
@[simp] theorem hostWrite_hbLast (p a : Nat) (bs : Bytes) : (hostWrite s p a bs).hbLast = s.hbLast := rfl
@[simp] theorem hostWrite_pcs (p a : Nat) (bs : Bytes) : (hostWrite s p a bs).pcs = s.pcs := rfl
@[simp] theorem hostWrite_pcRetired (p a : Nat) (bs : Bytes) : (hostWrite s p a bs).pcRetired = s.pcRetired := rfl
@[simp] theorem hostWrite_sets (p a : Nat) (bs : Bytes) : (hostWrite s p a bs).sets = s.sets := rfl
@[simp] theorem hostWrite_images (p a : Nat) (bs : Bytes) : (hostWrite s p a bs).images = s.images := rfl
@[simp] theorem hostWrite_wardGen (p a : Nat) (bs : Bytes) : (hostWrite s p a bs).wardGen = s.wardGen := rfl
@[simp] theorem hostWrite_wardMem (p a : Nat) (bs : Bytes) : (hostWrite s p a bs).wardMem = s.wardMem := rfl
@[simp] theorem hostWrite_conns (p a : Nat) (bs : Bytes) : (hostWrite s p a bs).conns = s.conns := rfl
@[simp] theorem hostWrite_paused (p a : Nat) (bs : Bytes) : (hostWrite s p a bs).paused = s.paused := rfl
@[simp] theorem hostWrite_opWaits (p a : Nat) (bs : Bytes) : (hostWrite s p a bs).opWaits = s.opWaits := rfl
@[simp] theorem hostWrite_staged (p a : Nat) (bs : Bytes) : (hostWrite s p a bs).staged = s.staged := rfl
@[simp] theorem hostWrite_fwSlots (p a : Nat) (bs : Bytes) : (hostWrite s p a bs).fwSlots = s.fwSlots := rfl
@[simp] theorem hostWrite_bootAt (p a : Nat) (bs : Bytes) : (hostWrite s p a bs).bootAt = s.bootAt := rfl
@[simp] theorem hostWrite_bootBad (p a : Nat) (bs : Bytes) : (hostWrite s p a bs).bootBad = s.bootBad := rfl
@[simp] theorem hostWrite_sessions (p a : Nat) (bs : Bytes) : (hostWrite s p a bs).sessions = s.sessions := rfl
@[simp] theorem hostWrite_sealBytes (p a : Nat) (bs : Bytes) : (hostWrite s p a bs).sealBytes = s.sealBytes := rfl
@[simp] theorem hostWrite_rlog (p a : Nat) (bs : Bytes) : (hostWrite s p a bs).rlog = s.rlog := rfl
@[simp] theorem hostWrite_bists (p a : Nat) (bs : Bytes) : (hostWrite s p a bs).bists = s.bists := rfl
@[simp] theorem hostWrite_margins (p a : Nat) (bs : Bytes) : (hostWrite s p a bs).margins = s.margins := rfl
@[simp] theorem hostWrite_remargin (p a : Nat) (bs : Bytes) : (hostWrite s p a bs).remargin = s.remargin := rfl
@[simp] theorem hostWrite_spares (p a : Nat) (bs : Bytes) : (hostWrite s p a bs).spares = s.spares := rfl
@[simp] theorem hostWrite_rows (p a : Nat) (bs : Bytes) : (hostWrite s p a bs).rows = s.rows := rfl
@[simp] theorem hostWrite_slewCnt (p a : Nat) (bs : Bytes) : (hostWrite s p a bs).slewCnt = s.slewCnt := rfl
@[simp] theorem hostWrite_copyAsked (p a : Nat) (bs : Bytes) : (hostWrite s p a bs).copyAsked = s.copyAsked := rfl
@[simp] theorem hostWrite_deadToks (p a : Nat) (bs : Bytes) : (hostWrite s p a bs).deadToks = s.deadToks := rfl
@[simp] theorem hostWrite_reqs (p a : Nat) (bs : Bytes) : (hostWrite s p a bs).reqs = s.reqs := rfl
@[simp] theorem hostWrite_deficits (p a : Nat) (bs : Bytes) : (hostWrite s p a bs).deficits = s.deficits := rfl
@[simp] theorem hostWrite_view (p a : Nat) (bs : Bytes) : (hostWrite s p a bs).view = s.view := rfl
@[simp] theorem hostWrite_walkq (p a : Nat) (bs : Bytes) : (hostWrite s p a bs).walkq = s.walkq := rfl
@[simp] theorem hostWrite_bankTurn (p a : Nat) (bs : Bytes) : (hostWrite s p a bs).bankTurn = s.bankTurn := rfl
@[simp] theorem hostWrite_idents (p a : Nat) (bs : Bytes) : (hostWrite s p a bs).idents = s.idents := rfl
@[simp] theorem getF_hostWrite (p a : Nat) (bs : Bytes) (y : Fld) (e j : Nat) :
    getF (hostWrite s p a bs) y e j = getF s y e j := rfl
@[simp] theorem flag_hostWrite (p a : Nat) (bs : Bytes) (y : Fld) (e j : Nat) :
    flag (hostWrite s p a bs) y e j = flag s y e j := rfl

/-! ## `setTok` changes `tokens` alone -/

@[simp] theorem setTok_pending (d n : Nat) (v : Word) : (setTok s d n v).pending = s.pending := rfl
@[simp] theorem setTok_tick (d n : Nat) (v : Word) : (setTok s d n v).tick = s.tick := rfl
@[simp] theorem setTok_flds (d n : Nat) (v : Word) : (setTok s d n v).flds = s.flds := rfl
@[simp] theorem setTok_loPend (d n : Nat) (v : Word) : (setTok s d n v).loPend = s.loPend := rfl
@[simp] theorem setTok_rems (d n : Nat) (v : Word) : (setTok s d n v).rems = s.rems := rfl
@[simp] theorem setTok_mem (d n : Nat) (v : Word) : (setTok s d n v).mem = s.mem := rfl
@[simp] theorem setTok_lines (d n : Nat) (v : Word) : (setTok s d n v).lines = s.lines := rfl
@[simp] theorem setTok_stackState (d n : Nat) (v : Word) : (setTok s d n v).stackState = s.stackState := rfl
@[simp] theorem setTok_powers (d n : Nat) (v : Word) : (setTok s d n v).powers = s.powers := rfl
@[simp] theorem setTok_hostMem (d n : Nat) (v : Word) : (setTok s d n v).hostMem = s.hostMem := rfl
@[simp] theorem setTok_out (d n : Nat) (v : Word) : (setTok s d n v).out = s.out := rfl
@[simp] theorem setTok_freeCtr (d n : Nat) (v : Word) : (setTok s d n v).freeCtr = s.freeCtr := rfl
@[simp] theorem setTok_stamp (d n : Nat) (v : Word) : (setTok s d n v).stamp = s.stamp := rfl
@[simp] theorem setTok_held (d n : Nat) (v : Word) : (setTok s d n v).held = s.held := rfl
@[simp] theorem setTok_winSel (d n : Nat) (v : Word) : (setTok s d n v).winSel = s.winSel := rfl
@[simp] theorem setTok_qints (d n : Nat) (v : Word) : (setTok s d n v).qints = s.qints := rfl
@[simp] theorem setTok_rints (d n : Nat) (v : Word) : (setTok s d n v).rints = s.rints := rfl
@[simp] theorem setTok_wrrs (d n : Nat) (v : Word) : (setTok s d n v).wrrs = s.wrrs := rfl
@[simp] theorem setTok_descs (d n : Nat) (v : Word) : (setTok s d n v).descs = s.descs := rfl
@[simp] theorem setTok_laneDone (d n : Nat) (v : Word) : (setTok s d n v).laneDone = s.laneDone := rfl
@[simp] theorem setTok_scheds (d n : Nat) (v : Word) : (setTok s d n v).scheds = s.scheds := rfl
@[simp] theorem setTok_shards (d n : Nat) (v : Word) : (setTok s d n v).shards = s.shards := rfl
@[simp] theorem setTok_fifos (d n : Nat) (v : Word) : (setTok s d n v).fifos = s.fifos := rfl
@[simp] theorem setTok_overs (d n : Nat) (v : Word) : (setTok s d n v).overs = s.overs := rfl
@[simp] theorem setTok_streams (d n : Nat) (v : Word) : (setTok s d n v).streams = s.streams := rfl
@[simp] theorem setTok_linkDown (d n : Nat) (v : Word) : (setTok s d n v).linkDown = s.linkDown := rfl
@[simp] theorem setTok_lostCpls (d n : Nat) (v : Word) : (setTok s d n v).lostCpls = s.lostCpls := rfl
@[simp] theorem setTok_bar4 (d n : Nat) (v : Word) : (setTok s d n v).bar4 = s.bar4 := rfl
@[simp] theorem setTok_rstreams (d n : Nat) (v : Word) : (setTok s d n v).rstreams = s.rstreams := rfl
@[simp] theorem setTok_profiles (d n : Nat) (v : Word) : (setTok s d n v).profiles = s.profiles := rfl
@[simp] theorem setTok_samples (d n : Nat) (v : Word) : (setTok s d n v).samples = s.samples := rfl
@[simp] theorem setTok_pages (d n : Nat) (v : Word) : (setTok s d n v).pages = s.pages := rfl
@[simp] theorem setTok_homes (d n : Nat) (v : Word) : (setTok s d n v).homes = s.homes := rfl
@[simp] theorem setTok_moves (d n : Nat) (v : Word) : (setTok s d n v).moves = s.moves := rfl
@[simp] theorem setTok_tierJobs (d n : Nat) (v : Word) : (setTok s d n v).tierJobs = s.tierJobs := rfl
@[simp] theorem setTok_policyOn (d n : Nat) (v : Word) : (setTok s d n v).policyOn = s.policyOn := rfl
@[simp] theorem setTok_partGran (d n : Nat) (v : Word) : (setTok s d n v).partGran = s.partGran := rfl
@[simp] theorem setTok_heldWrites (d n : Nat) (v : Word) : (setTok s d n v).heldWrites = s.heldWrites := rfl
@[simp] theorem setTok_releases (d n : Nat) (v : Word) : (setTok s d n v).releases = s.releases := rfl
@[simp] theorem setTok_objects (d n : Nat) (v : Word) : (setTok s d n v).objects = s.objects := rfl
@[simp] theorem setTok_gens (d n : Nat) (v : Word) : (setTok s d n v).gens = s.gens := rfl
@[simp] theorem setTok_slots (d n : Nat) (v : Word) : (setTok s d n v).slots = s.slots := rfl
@[simp] theorem setTok_windows (d n : Nat) (v : Word) : (setTok s d n v).windows = s.windows := rfl
@[simp] theorem setTok_txFlows (d n : Nat) (v : Word) : (setTok s d n v).txFlows = s.txFlows := rfl
@[simp] theorem setTok_rxFlows (d n : Nat) (v : Word) : (setTok s d n v).rxFlows = s.rxFlows := rfl
@[simp] theorem setTok_ports (d n : Nat) (v : Word) : (setTok s d n v).ports = s.ports := rfl
@[simp] theorem setTok_links (d n : Nat) (v : Word) : (setTok s d n v).links = s.links := rfl
@[simp] theorem setTok_mcSends (d n : Nat) (v : Word) : (setTok s d n v).mcSends = s.mcSends := rfl
@[simp] theorem setTok_mcRecvs (d n : Nat) (v : Word) : (setTok s d n v).mcRecvs = s.mcRecvs := rfl
@[simp] theorem setTok_pruned (d n : Nat) (v : Word) : (setTok s d n v).pruned = s.pruned := rfl
@[simp] theorem setTok_waits (d n : Nat) (v : Word) : (setTok s d n v).waits = s.waits := rfl
@[simp] theorem setTok_routeWrr (d n : Nat) (v : Word) : (setTok s d n v).routeWrr = s.routeWrr := rfl
@[simp] theorem setTok_modTab (d n : Nat) (v : Word) : (setTok s d n v).modTab = s.modTab := rfl
@[simp] theorem setTok_ovrTab (d n : Nat) (v : Word) : (setTok s d n v).ovrTab = s.ovrTab := rfl
@[simp] theorem setTok_mcTab (d n : Nat) (v : Word) : (setTok s d n v).mcTab = s.mcTab := rfl
@[simp] theorem setTok_remoteFenced (d n : Nat) (v : Word) : (setTok s d n v).remoteFenced = s.remoteFenced := rfl
@[simp] theorem setTok_keys (d n : Nat) (v : Word) : (setTok s d n v).keys = s.keys := rfl
@[simp] theorem setTok_keyCtr (d n : Nat) (v : Word) : (setTok s d n v).keyCtr = s.keyCtr := rfl
@[simp] theorem setTok_keySend (d n : Nat) (v : Word) : (setTok s d n v).keySend = s.keySend := rfl
@[simp] theorem setTok_elog (d n : Nat) (v : Word) : (setTok s d n v).elog = s.elog := rfl
@[simp] theorem setTok_noticeId (d n : Nat) (v : Word) : (setTok s d n v).noticeId = s.noticeId := rfl
@[simp] theorem setTok_noticeCache (d n : Nat) (v : Word) : (setTok s d n v).noticeCache = s.noticeCache := rfl
@[simp] theorem setTok_seqs (d n : Nat) (v : Word) : (setTok s d n v).seqs = s.seqs := rfl
@[simp] theorem setTok_pmap (d n : Nat) (v : Word) : (setTok s d n v).pmap = s.pmap := rfl
@[simp] theorem setTok_walks (d n : Nat) (v : Word) : (setTok s d n v).walks = s.walks := rfl
@[simp] theorem setTok_remaps (d n : Nat) (v : Word) : (setTok s d n v).remaps = s.remaps := rfl
@[simp] theorem setTok_rebuilds (d n : Nat) (v : Word) : (setTok s d n v).rebuilds = s.rebuilds := rfl
@[simp] theorem setTok_rings (d n : Nat) (v : Word) : (setTok s d n v).rings = s.rings := rfl
@[simp] theorem setTok_comms (d n : Nat) (v : Word) : (setTok s d n v).comms = s.comms := rfl
@[simp] theorem setTok_calls (d n : Nat) (v : Word) : (setTok s d n v).calls = s.calls := rfl
@[simp] theorem setTok_notes (d n : Nat) (v : Word) : (setTok s d n v).notes = s.notes := rfl
@[simp] theorem setTok_lates (d n : Nat) (v : Word) : (setTok s d n v).lates = s.lates := rfl
@[simp] theorem setTok_serves (d n : Nat) (v : Word) : (setTok s d n v).serves = s.serves := rfl
@[simp] theorem setTok_epochs (d n : Nat) (v : Word) : (setTok s d n v).epochs = s.epochs := rfl
@[simp] theorem setTok_maps (d n : Nat) (v : Word) : (setTok s d n v).maps = s.maps := rfl
@[simp] theorem setTok_extTab (d n : Nat) (v : Word) : (setTok s d n v).extTab = s.extTab := rfl
@[simp] theorem setTok_vmap (d n : Nat) (v : Word) : (setTok s d n v).vmap = s.vmap := rfl
@[simp] theorem setTok_supply (d n : Nat) (v : Word) : (setTok s d n v).supply = s.supply := rfl
@[simp] theorem setTok_govs (d n : Nat) (v : Word) : (setTok s d n v).govs = s.govs := rfl
@[simp] theorem setTok_hotStep (d n : Nat) (v : Word) : (setTok s d n v).hotStep = s.hotStep := rfl
@[simp] theorem setTok_drains (d n : Nat) (v : Word) : (setTok s d n v).drains = s.drains := rfl
@[simp] theorem setTok_modes (d n : Nat) (v : Word) : (setTok s d n v).modes = s.modes := rfl
@[simp] theorem setTok_psAt (d n : Nat) (v : Word) : (setTok s d n v).psAt = s.psAt := rfl
@[simp] theorem setTok_psWake (d n : Nat) (v : Word) : (setTok s d n v).psWake = s.psWake := rfl
@[simp] theorem setTok_aon (d n : Nat) (v : Word) : (setTok s d n v).aon = s.aon := rfl
@[simp] theorem setTok_swaps (d n : Nat) (v : Word) : (setTok s d n v).swaps = s.swaps := rfl
@[simp] theorem setTok_stopped (d n : Nat) (v : Word) : (setTok s d n v).stopped = s.stopped := rfl
@[simp] theorem setTok_slew (d n : Nat) (v : Word) : (setTok s d n v).slew = s.slew := rfl
@[simp] theorem setTok_aligned (d n : Nat) (v : Word) : (setTok s d n v).aligned = s.aligned := rfl
@[simp] theorem setTok_tickStop (d n : Nat) (v : Word) : (setTok s d n v).tickStop = s.tickStop := rfl
@[simp] theorem setTok_hbLast (d n : Nat) (v : Word) : (setTok s d n v).hbLast = s.hbLast := rfl
@[simp] theorem setTok_pcs (d n : Nat) (v : Word) : (setTok s d n v).pcs = s.pcs := rfl
@[simp] theorem setTok_pcRetired (d n : Nat) (v : Word) : (setTok s d n v).pcRetired = s.pcRetired := rfl
@[simp] theorem setTok_sets (d n : Nat) (v : Word) : (setTok s d n v).sets = s.sets := rfl
@[simp] theorem setTok_images (d n : Nat) (v : Word) : (setTok s d n v).images = s.images := rfl
@[simp] theorem setTok_wardGen (d n : Nat) (v : Word) : (setTok s d n v).wardGen = s.wardGen := rfl
@[simp] theorem setTok_wardMem (d n : Nat) (v : Word) : (setTok s d n v).wardMem = s.wardMem := rfl
@[simp] theorem setTok_conns (d n : Nat) (v : Word) : (setTok s d n v).conns = s.conns := rfl
@[simp] theorem setTok_paused (d n : Nat) (v : Word) : (setTok s d n v).paused = s.paused := rfl
@[simp] theorem setTok_opWaits (d n : Nat) (v : Word) : (setTok s d n v).opWaits = s.opWaits := rfl
@[simp] theorem setTok_staged (d n : Nat) (v : Word) : (setTok s d n v).staged = s.staged := rfl
@[simp] theorem setTok_fwSlots (d n : Nat) (v : Word) : (setTok s d n v).fwSlots = s.fwSlots := rfl
@[simp] theorem setTok_bootAt (d n : Nat) (v : Word) : (setTok s d n v).bootAt = s.bootAt := rfl
@[simp] theorem setTok_bootBad (d n : Nat) (v : Word) : (setTok s d n v).bootBad = s.bootBad := rfl
@[simp] theorem setTok_sessions (d n : Nat) (v : Word) : (setTok s d n v).sessions = s.sessions := rfl
@[simp] theorem setTok_sealBytes (d n : Nat) (v : Word) : (setTok s d n v).sealBytes = s.sealBytes := rfl
@[simp] theorem setTok_rlog (d n : Nat) (v : Word) : (setTok s d n v).rlog = s.rlog := rfl
@[simp] theorem setTok_bists (d n : Nat) (v : Word) : (setTok s d n v).bists = s.bists := rfl
@[simp] theorem setTok_margins (d n : Nat) (v : Word) : (setTok s d n v).margins = s.margins := rfl
@[simp] theorem setTok_remargin (d n : Nat) (v : Word) : (setTok s d n v).remargin = s.remargin := rfl
@[simp] theorem setTok_spares (d n : Nat) (v : Word) : (setTok s d n v).spares = s.spares := rfl
@[simp] theorem setTok_rows (d n : Nat) (v : Word) : (setTok s d n v).rows = s.rows := rfl
@[simp] theorem setTok_slewCnt (d n : Nat) (v : Word) : (setTok s d n v).slewCnt = s.slewCnt := rfl
@[simp] theorem setTok_copyAsked (d n : Nat) (v : Word) : (setTok s d n v).copyAsked = s.copyAsked := rfl
@[simp] theorem setTok_deadToks (d n : Nat) (v : Word) : (setTok s d n v).deadToks = s.deadToks := rfl
@[simp] theorem setTok_reqs (d n : Nat) (v : Word) : (setTok s d n v).reqs = s.reqs := rfl
@[simp] theorem setTok_deficits (d n : Nat) (v : Word) : (setTok s d n v).deficits = s.deficits := rfl
@[simp] theorem setTok_view (d n : Nat) (v : Word) : (setTok s d n v).view = s.view := rfl
@[simp] theorem setTok_walkq (d n : Nat) (v : Word) : (setTok s d n v).walkq = s.walkq := rfl
@[simp] theorem setTok_bankTurn (d n : Nat) (v : Word) : (setTok s d n v).bankTurn = s.bankTurn := rfl
@[simp] theorem setTok_idents (d n : Nat) (v : Word) : (setTok s d n v).idents = s.idents := rfl
@[simp] theorem getF_setTok (d n : Nat) (v : Word) (y : Fld) (e j : Nat) :
    getF (setTok s d n v) y e j = getF s y e j := rfl
@[simp] theorem flag_setTok (d n : Nat) (v : Word) (y : Fld) (e j : Nat) :
    flag (setTok s d n v) y e j = flag s y e j := rfl

/-! ## `setFifo` changes `fifos` alone -/

@[simp] theorem setFifo_pending (d n : Nat) (l : List Micro) : (setFifo s d n l).pending = s.pending := rfl
@[simp] theorem setFifo_tick (d n : Nat) (l : List Micro) : (setFifo s d n l).tick = s.tick := rfl
@[simp] theorem setFifo_flds (d n : Nat) (l : List Micro) : (setFifo s d n l).flds = s.flds := rfl
@[simp] theorem setFifo_loPend (d n : Nat) (l : List Micro) : (setFifo s d n l).loPend = s.loPend := rfl
@[simp] theorem setFifo_rems (d n : Nat) (l : List Micro) : (setFifo s d n l).rems = s.rems := rfl
@[simp] theorem setFifo_mem (d n : Nat) (l : List Micro) : (setFifo s d n l).mem = s.mem := rfl
@[simp] theorem setFifo_lines (d n : Nat) (l : List Micro) : (setFifo s d n l).lines = s.lines := rfl
@[simp] theorem setFifo_stackState (d n : Nat) (l : List Micro) : (setFifo s d n l).stackState = s.stackState := rfl
@[simp] theorem setFifo_powers (d n : Nat) (l : List Micro) : (setFifo s d n l).powers = s.powers := rfl
@[simp] theorem setFifo_hostMem (d n : Nat) (l : List Micro) : (setFifo s d n l).hostMem = s.hostMem := rfl
@[simp] theorem setFifo_out (d n : Nat) (l : List Micro) : (setFifo s d n l).out = s.out := rfl
@[simp] theorem setFifo_freeCtr (d n : Nat) (l : List Micro) : (setFifo s d n l).freeCtr = s.freeCtr := rfl
@[simp] theorem setFifo_stamp (d n : Nat) (l : List Micro) : (setFifo s d n l).stamp = s.stamp := rfl
@[simp] theorem setFifo_tokens (d n : Nat) (l : List Micro) : (setFifo s d n l).tokens = s.tokens := rfl
@[simp] theorem setFifo_held (d n : Nat) (l : List Micro) : (setFifo s d n l).held = s.held := rfl
@[simp] theorem setFifo_winSel (d n : Nat) (l : List Micro) : (setFifo s d n l).winSel = s.winSel := rfl
@[simp] theorem setFifo_qints (d n : Nat) (l : List Micro) : (setFifo s d n l).qints = s.qints := rfl
@[simp] theorem setFifo_rints (d n : Nat) (l : List Micro) : (setFifo s d n l).rints = s.rints := rfl
@[simp] theorem setFifo_wrrs (d n : Nat) (l : List Micro) : (setFifo s d n l).wrrs = s.wrrs := rfl
@[simp] theorem setFifo_descs (d n : Nat) (l : List Micro) : (setFifo s d n l).descs = s.descs := rfl
@[simp] theorem setFifo_laneDone (d n : Nat) (l : List Micro) : (setFifo s d n l).laneDone = s.laneDone := rfl
@[simp] theorem setFifo_scheds (d n : Nat) (l : List Micro) : (setFifo s d n l).scheds = s.scheds := rfl
@[simp] theorem setFifo_shards (d n : Nat) (l : List Micro) : (setFifo s d n l).shards = s.shards := rfl
@[simp] theorem setFifo_overs (d n : Nat) (l : List Micro) : (setFifo s d n l).overs = s.overs := rfl
@[simp] theorem setFifo_streams (d n : Nat) (l : List Micro) : (setFifo s d n l).streams = s.streams := rfl
@[simp] theorem setFifo_linkDown (d n : Nat) (l : List Micro) : (setFifo s d n l).linkDown = s.linkDown := rfl
@[simp] theorem setFifo_lostCpls (d n : Nat) (l : List Micro) : (setFifo s d n l).lostCpls = s.lostCpls := rfl
@[simp] theorem setFifo_bar4 (d n : Nat) (l : List Micro) : (setFifo s d n l).bar4 = s.bar4 := rfl
@[simp] theorem setFifo_rstreams (d n : Nat) (l : List Micro) : (setFifo s d n l).rstreams = s.rstreams := rfl
@[simp] theorem setFifo_profiles (d n : Nat) (l : List Micro) : (setFifo s d n l).profiles = s.profiles := rfl
@[simp] theorem setFifo_samples (d n : Nat) (l : List Micro) : (setFifo s d n l).samples = s.samples := rfl
@[simp] theorem setFifo_pages (d n : Nat) (l : List Micro) : (setFifo s d n l).pages = s.pages := rfl
@[simp] theorem setFifo_homes (d n : Nat) (l : List Micro) : (setFifo s d n l).homes = s.homes := rfl
@[simp] theorem setFifo_moves (d n : Nat) (l : List Micro) : (setFifo s d n l).moves = s.moves := rfl
@[simp] theorem setFifo_tierJobs (d n : Nat) (l : List Micro) : (setFifo s d n l).tierJobs = s.tierJobs := rfl
@[simp] theorem setFifo_policyOn (d n : Nat) (l : List Micro) : (setFifo s d n l).policyOn = s.policyOn := rfl
@[simp] theorem setFifo_partGran (d n : Nat) (l : List Micro) : (setFifo s d n l).partGran = s.partGran := rfl
@[simp] theorem setFifo_heldWrites (d n : Nat) (l : List Micro) : (setFifo s d n l).heldWrites = s.heldWrites := rfl
@[simp] theorem setFifo_releases (d n : Nat) (l : List Micro) : (setFifo s d n l).releases = s.releases := rfl
@[simp] theorem setFifo_objects (d n : Nat) (l : List Micro) : (setFifo s d n l).objects = s.objects := rfl
@[simp] theorem setFifo_gens (d n : Nat) (l : List Micro) : (setFifo s d n l).gens = s.gens := rfl
@[simp] theorem setFifo_slots (d n : Nat) (l : List Micro) : (setFifo s d n l).slots = s.slots := rfl
@[simp] theorem setFifo_windows (d n : Nat) (l : List Micro) : (setFifo s d n l).windows = s.windows := rfl
@[simp] theorem setFifo_txFlows (d n : Nat) (l : List Micro) : (setFifo s d n l).txFlows = s.txFlows := rfl
@[simp] theorem setFifo_rxFlows (d n : Nat) (l : List Micro) : (setFifo s d n l).rxFlows = s.rxFlows := rfl
@[simp] theorem setFifo_ports (d n : Nat) (l : List Micro) : (setFifo s d n l).ports = s.ports := rfl
@[simp] theorem setFifo_links (d n : Nat) (l : List Micro) : (setFifo s d n l).links = s.links := rfl
@[simp] theorem setFifo_mcSends (d n : Nat) (l : List Micro) : (setFifo s d n l).mcSends = s.mcSends := rfl
@[simp] theorem setFifo_mcRecvs (d n : Nat) (l : List Micro) : (setFifo s d n l).mcRecvs = s.mcRecvs := rfl
@[simp] theorem setFifo_pruned (d n : Nat) (l : List Micro) : (setFifo s d n l).pruned = s.pruned := rfl
@[simp] theorem setFifo_waits (d n : Nat) (l : List Micro) : (setFifo s d n l).waits = s.waits := rfl
@[simp] theorem setFifo_routeWrr (d n : Nat) (l : List Micro) : (setFifo s d n l).routeWrr = s.routeWrr := rfl
@[simp] theorem setFifo_modTab (d n : Nat) (l : List Micro) : (setFifo s d n l).modTab = s.modTab := rfl
@[simp] theorem setFifo_ovrTab (d n : Nat) (l : List Micro) : (setFifo s d n l).ovrTab = s.ovrTab := rfl
@[simp] theorem setFifo_mcTab (d n : Nat) (l : List Micro) : (setFifo s d n l).mcTab = s.mcTab := rfl
@[simp] theorem setFifo_remoteFenced (d n : Nat) (l : List Micro) : (setFifo s d n l).remoteFenced = s.remoteFenced := rfl
@[simp] theorem setFifo_keys (d n : Nat) (l : List Micro) : (setFifo s d n l).keys = s.keys := rfl
@[simp] theorem setFifo_keyCtr (d n : Nat) (l : List Micro) : (setFifo s d n l).keyCtr = s.keyCtr := rfl
@[simp] theorem setFifo_keySend (d n : Nat) (l : List Micro) : (setFifo s d n l).keySend = s.keySend := rfl
@[simp] theorem setFifo_elog (d n : Nat) (l : List Micro) : (setFifo s d n l).elog = s.elog := rfl
@[simp] theorem setFifo_noticeId (d n : Nat) (l : List Micro) : (setFifo s d n l).noticeId = s.noticeId := rfl
@[simp] theorem setFifo_noticeCache (d n : Nat) (l : List Micro) : (setFifo s d n l).noticeCache = s.noticeCache := rfl
@[simp] theorem setFifo_seqs (d n : Nat) (l : List Micro) : (setFifo s d n l).seqs = s.seqs := rfl
@[simp] theorem setFifo_pmap (d n : Nat) (l : List Micro) : (setFifo s d n l).pmap = s.pmap := rfl
@[simp] theorem setFifo_walks (d n : Nat) (l : List Micro) : (setFifo s d n l).walks = s.walks := rfl
@[simp] theorem setFifo_remaps (d n : Nat) (l : List Micro) : (setFifo s d n l).remaps = s.remaps := rfl
@[simp] theorem setFifo_rebuilds (d n : Nat) (l : List Micro) : (setFifo s d n l).rebuilds = s.rebuilds := rfl
@[simp] theorem setFifo_rings (d n : Nat) (l : List Micro) : (setFifo s d n l).rings = s.rings := rfl
@[simp] theorem setFifo_comms (d n : Nat) (l : List Micro) : (setFifo s d n l).comms = s.comms := rfl
@[simp] theorem setFifo_calls (d n : Nat) (l : List Micro) : (setFifo s d n l).calls = s.calls := rfl
@[simp] theorem setFifo_notes (d n : Nat) (l : List Micro) : (setFifo s d n l).notes = s.notes := rfl
@[simp] theorem setFifo_lates (d n : Nat) (l : List Micro) : (setFifo s d n l).lates = s.lates := rfl
@[simp] theorem setFifo_serves (d n : Nat) (l : List Micro) : (setFifo s d n l).serves = s.serves := rfl
@[simp] theorem setFifo_epochs (d n : Nat) (l : List Micro) : (setFifo s d n l).epochs = s.epochs := rfl
@[simp] theorem setFifo_maps (d n : Nat) (l : List Micro) : (setFifo s d n l).maps = s.maps := rfl
@[simp] theorem setFifo_extTab (d n : Nat) (l : List Micro) : (setFifo s d n l).extTab = s.extTab := rfl
@[simp] theorem setFifo_vmap (d n : Nat) (l : List Micro) : (setFifo s d n l).vmap = s.vmap := rfl
@[simp] theorem setFifo_supply (d n : Nat) (l : List Micro) : (setFifo s d n l).supply = s.supply := rfl
@[simp] theorem setFifo_govs (d n : Nat) (l : List Micro) : (setFifo s d n l).govs = s.govs := rfl
@[simp] theorem setFifo_hotStep (d n : Nat) (l : List Micro) : (setFifo s d n l).hotStep = s.hotStep := rfl
@[simp] theorem setFifo_drains (d n : Nat) (l : List Micro) : (setFifo s d n l).drains = s.drains := rfl
@[simp] theorem setFifo_modes (d n : Nat) (l : List Micro) : (setFifo s d n l).modes = s.modes := rfl
@[simp] theorem setFifo_psAt (d n : Nat) (l : List Micro) : (setFifo s d n l).psAt = s.psAt := rfl
@[simp] theorem setFifo_psWake (d n : Nat) (l : List Micro) : (setFifo s d n l).psWake = s.psWake := rfl
@[simp] theorem setFifo_aon (d n : Nat) (l : List Micro) : (setFifo s d n l).aon = s.aon := rfl
@[simp] theorem setFifo_swaps (d n : Nat) (l : List Micro) : (setFifo s d n l).swaps = s.swaps := rfl
@[simp] theorem setFifo_stopped (d n : Nat) (l : List Micro) : (setFifo s d n l).stopped = s.stopped := rfl
@[simp] theorem setFifo_slew (d n : Nat) (l : List Micro) : (setFifo s d n l).slew = s.slew := rfl
@[simp] theorem setFifo_aligned (d n : Nat) (l : List Micro) : (setFifo s d n l).aligned = s.aligned := rfl
@[simp] theorem setFifo_tickStop (d n : Nat) (l : List Micro) : (setFifo s d n l).tickStop = s.tickStop := rfl
@[simp] theorem setFifo_hbLast (d n : Nat) (l : List Micro) : (setFifo s d n l).hbLast = s.hbLast := rfl
@[simp] theorem setFifo_pcs (d n : Nat) (l : List Micro) : (setFifo s d n l).pcs = s.pcs := rfl
@[simp] theorem setFifo_pcRetired (d n : Nat) (l : List Micro) : (setFifo s d n l).pcRetired = s.pcRetired := rfl
@[simp] theorem setFifo_sets (d n : Nat) (l : List Micro) : (setFifo s d n l).sets = s.sets := rfl
@[simp] theorem setFifo_images (d n : Nat) (l : List Micro) : (setFifo s d n l).images = s.images := rfl
@[simp] theorem setFifo_wardGen (d n : Nat) (l : List Micro) : (setFifo s d n l).wardGen = s.wardGen := rfl
@[simp] theorem setFifo_wardMem (d n : Nat) (l : List Micro) : (setFifo s d n l).wardMem = s.wardMem := rfl
@[simp] theorem setFifo_conns (d n : Nat) (l : List Micro) : (setFifo s d n l).conns = s.conns := rfl
@[simp] theorem setFifo_paused (d n : Nat) (l : List Micro) : (setFifo s d n l).paused = s.paused := rfl
@[simp] theorem setFifo_opWaits (d n : Nat) (l : List Micro) : (setFifo s d n l).opWaits = s.opWaits := rfl
@[simp] theorem setFifo_staged (d n : Nat) (l : List Micro) : (setFifo s d n l).staged = s.staged := rfl
@[simp] theorem setFifo_fwSlots (d n : Nat) (l : List Micro) : (setFifo s d n l).fwSlots = s.fwSlots := rfl
@[simp] theorem setFifo_bootAt (d n : Nat) (l : List Micro) : (setFifo s d n l).bootAt = s.bootAt := rfl
@[simp] theorem setFifo_bootBad (d n : Nat) (l : List Micro) : (setFifo s d n l).bootBad = s.bootBad := rfl
@[simp] theorem setFifo_sessions (d n : Nat) (l : List Micro) : (setFifo s d n l).sessions = s.sessions := rfl
@[simp] theorem setFifo_sealBytes (d n : Nat) (l : List Micro) : (setFifo s d n l).sealBytes = s.sealBytes := rfl
@[simp] theorem setFifo_rlog (d n : Nat) (l : List Micro) : (setFifo s d n l).rlog = s.rlog := rfl
@[simp] theorem setFifo_bists (d n : Nat) (l : List Micro) : (setFifo s d n l).bists = s.bists := rfl
@[simp] theorem setFifo_margins (d n : Nat) (l : List Micro) : (setFifo s d n l).margins = s.margins := rfl
@[simp] theorem setFifo_remargin (d n : Nat) (l : List Micro) : (setFifo s d n l).remargin = s.remargin := rfl
@[simp] theorem setFifo_spares (d n : Nat) (l : List Micro) : (setFifo s d n l).spares = s.spares := rfl
@[simp] theorem setFifo_rows (d n : Nat) (l : List Micro) : (setFifo s d n l).rows = s.rows := rfl
@[simp] theorem setFifo_slewCnt (d n : Nat) (l : List Micro) : (setFifo s d n l).slewCnt = s.slewCnt := rfl
@[simp] theorem setFifo_copyAsked (d n : Nat) (l : List Micro) : (setFifo s d n l).copyAsked = s.copyAsked := rfl
@[simp] theorem setFifo_deadToks (d n : Nat) (l : List Micro) : (setFifo s d n l).deadToks = s.deadToks := rfl
@[simp] theorem setFifo_reqs (d n : Nat) (l : List Micro) : (setFifo s d n l).reqs = s.reqs := rfl
@[simp] theorem setFifo_deficits (d n : Nat) (l : List Micro) : (setFifo s d n l).deficits = s.deficits := rfl
@[simp] theorem setFifo_view (d n : Nat) (l : List Micro) : (setFifo s d n l).view = s.view := rfl
@[simp] theorem setFifo_walkq (d n : Nat) (l : List Micro) : (setFifo s d n l).walkq = s.walkq := rfl
@[simp] theorem setFifo_bankTurn (d n : Nat) (l : List Micro) : (setFifo s d n l).bankTurn = s.bankTurn := rfl
@[simp] theorem setFifo_idents (d n : Nat) (l : List Micro) : (setFifo s d n l).idents = s.idents := rfl
@[simp] theorem getF_setFifo (d n : Nat) (l : List Micro) (y : Fld) (e j : Nat) :
    getF (setFifo s d n l) y e j = getF s y e j := rfl
@[simp] theorem flag_setFifo (d n : Nat) (l : List Micro) (y : Fld) (e j : Nat) :
    flag (setFifo s d n l) y e j = flag s y e j := rfl

/-! ## `setRInt` changes `rints` alone -/

@[simp] theorem setRInt_pending (n : Nat) (x : RInt) : (setRInt s n x).pending = s.pending := rfl
@[simp] theorem setRInt_tick (n : Nat) (x : RInt) : (setRInt s n x).tick = s.tick := rfl
@[simp] theorem setRInt_flds (n : Nat) (x : RInt) : (setRInt s n x).flds = s.flds := rfl
@[simp] theorem setRInt_loPend (n : Nat) (x : RInt) : (setRInt s n x).loPend = s.loPend := rfl
@[simp] theorem setRInt_rems (n : Nat) (x : RInt) : (setRInt s n x).rems = s.rems := rfl
@[simp] theorem setRInt_mem (n : Nat) (x : RInt) : (setRInt s n x).mem = s.mem := rfl
@[simp] theorem setRInt_lines (n : Nat) (x : RInt) : (setRInt s n x).lines = s.lines := rfl
@[simp] theorem setRInt_stackState (n : Nat) (x : RInt) : (setRInt s n x).stackState = s.stackState := rfl
@[simp] theorem setRInt_powers (n : Nat) (x : RInt) : (setRInt s n x).powers = s.powers := rfl
@[simp] theorem setRInt_hostMem (n : Nat) (x : RInt) : (setRInt s n x).hostMem = s.hostMem := rfl
@[simp] theorem setRInt_out (n : Nat) (x : RInt) : (setRInt s n x).out = s.out := rfl
@[simp] theorem setRInt_freeCtr (n : Nat) (x : RInt) : (setRInt s n x).freeCtr = s.freeCtr := rfl
@[simp] theorem setRInt_stamp (n : Nat) (x : RInt) : (setRInt s n x).stamp = s.stamp := rfl
@[simp] theorem setRInt_tokens (n : Nat) (x : RInt) : (setRInt s n x).tokens = s.tokens := rfl
@[simp] theorem setRInt_held (n : Nat) (x : RInt) : (setRInt s n x).held = s.held := rfl
@[simp] theorem setRInt_winSel (n : Nat) (x : RInt) : (setRInt s n x).winSel = s.winSel := rfl
@[simp] theorem setRInt_qints (n : Nat) (x : RInt) : (setRInt s n x).qints = s.qints := rfl
@[simp] theorem setRInt_wrrs (n : Nat) (x : RInt) : (setRInt s n x).wrrs = s.wrrs := rfl
@[simp] theorem setRInt_descs (n : Nat) (x : RInt) : (setRInt s n x).descs = s.descs := rfl
@[simp] theorem setRInt_laneDone (n : Nat) (x : RInt) : (setRInt s n x).laneDone = s.laneDone := rfl
@[simp] theorem setRInt_scheds (n : Nat) (x : RInt) : (setRInt s n x).scheds = s.scheds := rfl
@[simp] theorem setRInt_shards (n : Nat) (x : RInt) : (setRInt s n x).shards = s.shards := rfl
@[simp] theorem setRInt_fifos (n : Nat) (x : RInt) : (setRInt s n x).fifos = s.fifos := rfl
@[simp] theorem setRInt_overs (n : Nat) (x : RInt) : (setRInt s n x).overs = s.overs := rfl
@[simp] theorem setRInt_streams (n : Nat) (x : RInt) : (setRInt s n x).streams = s.streams := rfl
@[simp] theorem setRInt_linkDown (n : Nat) (x : RInt) : (setRInt s n x).linkDown = s.linkDown := rfl
@[simp] theorem setRInt_lostCpls (n : Nat) (x : RInt) : (setRInt s n x).lostCpls = s.lostCpls := rfl
@[simp] theorem setRInt_bar4 (n : Nat) (x : RInt) : (setRInt s n x).bar4 = s.bar4 := rfl
@[simp] theorem setRInt_rstreams (n : Nat) (x : RInt) : (setRInt s n x).rstreams = s.rstreams := rfl
@[simp] theorem setRInt_profiles (n : Nat) (x : RInt) : (setRInt s n x).profiles = s.profiles := rfl
@[simp] theorem setRInt_samples (n : Nat) (x : RInt) : (setRInt s n x).samples = s.samples := rfl
@[simp] theorem setRInt_pages (n : Nat) (x : RInt) : (setRInt s n x).pages = s.pages := rfl
@[simp] theorem setRInt_homes (n : Nat) (x : RInt) : (setRInt s n x).homes = s.homes := rfl
@[simp] theorem setRInt_moves (n : Nat) (x : RInt) : (setRInt s n x).moves = s.moves := rfl
@[simp] theorem setRInt_tierJobs (n : Nat) (x : RInt) : (setRInt s n x).tierJobs = s.tierJobs := rfl
@[simp] theorem setRInt_policyOn (n : Nat) (x : RInt) : (setRInt s n x).policyOn = s.policyOn := rfl
@[simp] theorem setRInt_partGran (n : Nat) (x : RInt) : (setRInt s n x).partGran = s.partGran := rfl
@[simp] theorem setRInt_heldWrites (n : Nat) (x : RInt) : (setRInt s n x).heldWrites = s.heldWrites := rfl
@[simp] theorem setRInt_releases (n : Nat) (x : RInt) : (setRInt s n x).releases = s.releases := rfl
@[simp] theorem setRInt_objects (n : Nat) (x : RInt) : (setRInt s n x).objects = s.objects := rfl
@[simp] theorem setRInt_gens (n : Nat) (x : RInt) : (setRInt s n x).gens = s.gens := rfl
@[simp] theorem setRInt_slots (n : Nat) (x : RInt) : (setRInt s n x).slots = s.slots := rfl
@[simp] theorem setRInt_windows (n : Nat) (x : RInt) : (setRInt s n x).windows = s.windows := rfl
@[simp] theorem setRInt_txFlows (n : Nat) (x : RInt) : (setRInt s n x).txFlows = s.txFlows := rfl
@[simp] theorem setRInt_rxFlows (n : Nat) (x : RInt) : (setRInt s n x).rxFlows = s.rxFlows := rfl
@[simp] theorem setRInt_ports (n : Nat) (x : RInt) : (setRInt s n x).ports = s.ports := rfl
@[simp] theorem setRInt_links (n : Nat) (x : RInt) : (setRInt s n x).links = s.links := rfl
@[simp] theorem setRInt_mcSends (n : Nat) (x : RInt) : (setRInt s n x).mcSends = s.mcSends := rfl
@[simp] theorem setRInt_mcRecvs (n : Nat) (x : RInt) : (setRInt s n x).mcRecvs = s.mcRecvs := rfl
@[simp] theorem setRInt_pruned (n : Nat) (x : RInt) : (setRInt s n x).pruned = s.pruned := rfl
@[simp] theorem setRInt_waits (n : Nat) (x : RInt) : (setRInt s n x).waits = s.waits := rfl
@[simp] theorem setRInt_routeWrr (n : Nat) (x : RInt) : (setRInt s n x).routeWrr = s.routeWrr := rfl
@[simp] theorem setRInt_modTab (n : Nat) (x : RInt) : (setRInt s n x).modTab = s.modTab := rfl
@[simp] theorem setRInt_ovrTab (n : Nat) (x : RInt) : (setRInt s n x).ovrTab = s.ovrTab := rfl
@[simp] theorem setRInt_mcTab (n : Nat) (x : RInt) : (setRInt s n x).mcTab = s.mcTab := rfl
@[simp] theorem setRInt_remoteFenced (n : Nat) (x : RInt) : (setRInt s n x).remoteFenced = s.remoteFenced := rfl
@[simp] theorem setRInt_keys (n : Nat) (x : RInt) : (setRInt s n x).keys = s.keys := rfl
@[simp] theorem setRInt_keyCtr (n : Nat) (x : RInt) : (setRInt s n x).keyCtr = s.keyCtr := rfl
@[simp] theorem setRInt_keySend (n : Nat) (x : RInt) : (setRInt s n x).keySend = s.keySend := rfl
@[simp] theorem setRInt_elog (n : Nat) (x : RInt) : (setRInt s n x).elog = s.elog := rfl
@[simp] theorem setRInt_noticeId (n : Nat) (x : RInt) : (setRInt s n x).noticeId = s.noticeId := rfl
@[simp] theorem setRInt_noticeCache (n : Nat) (x : RInt) : (setRInt s n x).noticeCache = s.noticeCache := rfl
@[simp] theorem setRInt_seqs (n : Nat) (x : RInt) : (setRInt s n x).seqs = s.seqs := rfl
@[simp] theorem setRInt_pmap (n : Nat) (x : RInt) : (setRInt s n x).pmap = s.pmap := rfl
@[simp] theorem setRInt_walks (n : Nat) (x : RInt) : (setRInt s n x).walks = s.walks := rfl
@[simp] theorem setRInt_remaps (n : Nat) (x : RInt) : (setRInt s n x).remaps = s.remaps := rfl
@[simp] theorem setRInt_rebuilds (n : Nat) (x : RInt) : (setRInt s n x).rebuilds = s.rebuilds := rfl
@[simp] theorem setRInt_rings (n : Nat) (x : RInt) : (setRInt s n x).rings = s.rings := rfl
@[simp] theorem setRInt_comms (n : Nat) (x : RInt) : (setRInt s n x).comms = s.comms := rfl
@[simp] theorem setRInt_calls (n : Nat) (x : RInt) : (setRInt s n x).calls = s.calls := rfl
@[simp] theorem setRInt_notes (n : Nat) (x : RInt) : (setRInt s n x).notes = s.notes := rfl
@[simp] theorem setRInt_lates (n : Nat) (x : RInt) : (setRInt s n x).lates = s.lates := rfl
@[simp] theorem setRInt_serves (n : Nat) (x : RInt) : (setRInt s n x).serves = s.serves := rfl
@[simp] theorem setRInt_epochs (n : Nat) (x : RInt) : (setRInt s n x).epochs = s.epochs := rfl
@[simp] theorem setRInt_maps (n : Nat) (x : RInt) : (setRInt s n x).maps = s.maps := rfl
@[simp] theorem setRInt_extTab (n : Nat) (x : RInt) : (setRInt s n x).extTab = s.extTab := rfl
@[simp] theorem setRInt_vmap (n : Nat) (x : RInt) : (setRInt s n x).vmap = s.vmap := rfl
@[simp] theorem setRInt_supply (n : Nat) (x : RInt) : (setRInt s n x).supply = s.supply := rfl
@[simp] theorem setRInt_govs (n : Nat) (x : RInt) : (setRInt s n x).govs = s.govs := rfl
@[simp] theorem setRInt_hotStep (n : Nat) (x : RInt) : (setRInt s n x).hotStep = s.hotStep := rfl
@[simp] theorem setRInt_drains (n : Nat) (x : RInt) : (setRInt s n x).drains = s.drains := rfl
@[simp] theorem setRInt_modes (n : Nat) (x : RInt) : (setRInt s n x).modes = s.modes := rfl
@[simp] theorem setRInt_psAt (n : Nat) (x : RInt) : (setRInt s n x).psAt = s.psAt := rfl
@[simp] theorem setRInt_psWake (n : Nat) (x : RInt) : (setRInt s n x).psWake = s.psWake := rfl
@[simp] theorem setRInt_aon (n : Nat) (x : RInt) : (setRInt s n x).aon = s.aon := rfl
@[simp] theorem setRInt_swaps (n : Nat) (x : RInt) : (setRInt s n x).swaps = s.swaps := rfl
@[simp] theorem setRInt_stopped (n : Nat) (x : RInt) : (setRInt s n x).stopped = s.stopped := rfl
@[simp] theorem setRInt_slew (n : Nat) (x : RInt) : (setRInt s n x).slew = s.slew := rfl
@[simp] theorem setRInt_aligned (n : Nat) (x : RInt) : (setRInt s n x).aligned = s.aligned := rfl
@[simp] theorem setRInt_tickStop (n : Nat) (x : RInt) : (setRInt s n x).tickStop = s.tickStop := rfl
@[simp] theorem setRInt_hbLast (n : Nat) (x : RInt) : (setRInt s n x).hbLast = s.hbLast := rfl
@[simp] theorem setRInt_pcs (n : Nat) (x : RInt) : (setRInt s n x).pcs = s.pcs := rfl
@[simp] theorem setRInt_pcRetired (n : Nat) (x : RInt) : (setRInt s n x).pcRetired = s.pcRetired := rfl
@[simp] theorem setRInt_sets (n : Nat) (x : RInt) : (setRInt s n x).sets = s.sets := rfl
@[simp] theorem setRInt_images (n : Nat) (x : RInt) : (setRInt s n x).images = s.images := rfl
@[simp] theorem setRInt_wardGen (n : Nat) (x : RInt) : (setRInt s n x).wardGen = s.wardGen := rfl
@[simp] theorem setRInt_wardMem (n : Nat) (x : RInt) : (setRInt s n x).wardMem = s.wardMem := rfl
@[simp] theorem setRInt_conns (n : Nat) (x : RInt) : (setRInt s n x).conns = s.conns := rfl
@[simp] theorem setRInt_paused (n : Nat) (x : RInt) : (setRInt s n x).paused = s.paused := rfl
@[simp] theorem setRInt_opWaits (n : Nat) (x : RInt) : (setRInt s n x).opWaits = s.opWaits := rfl
@[simp] theorem setRInt_staged (n : Nat) (x : RInt) : (setRInt s n x).staged = s.staged := rfl
@[simp] theorem setRInt_fwSlots (n : Nat) (x : RInt) : (setRInt s n x).fwSlots = s.fwSlots := rfl
@[simp] theorem setRInt_bootAt (n : Nat) (x : RInt) : (setRInt s n x).bootAt = s.bootAt := rfl
@[simp] theorem setRInt_bootBad (n : Nat) (x : RInt) : (setRInt s n x).bootBad = s.bootBad := rfl
@[simp] theorem setRInt_sessions (n : Nat) (x : RInt) : (setRInt s n x).sessions = s.sessions := rfl
@[simp] theorem setRInt_sealBytes (n : Nat) (x : RInt) : (setRInt s n x).sealBytes = s.sealBytes := rfl
@[simp] theorem setRInt_rlog (n : Nat) (x : RInt) : (setRInt s n x).rlog = s.rlog := rfl
@[simp] theorem setRInt_bists (n : Nat) (x : RInt) : (setRInt s n x).bists = s.bists := rfl
@[simp] theorem setRInt_margins (n : Nat) (x : RInt) : (setRInt s n x).margins = s.margins := rfl
@[simp] theorem setRInt_remargin (n : Nat) (x : RInt) : (setRInt s n x).remargin = s.remargin := rfl
@[simp] theorem setRInt_spares (n : Nat) (x : RInt) : (setRInt s n x).spares = s.spares := rfl
@[simp] theorem setRInt_rows (n : Nat) (x : RInt) : (setRInt s n x).rows = s.rows := rfl
@[simp] theorem setRInt_slewCnt (n : Nat) (x : RInt) : (setRInt s n x).slewCnt = s.slewCnt := rfl
@[simp] theorem setRInt_copyAsked (n : Nat) (x : RInt) : (setRInt s n x).copyAsked = s.copyAsked := rfl
@[simp] theorem setRInt_deadToks (n : Nat) (x : RInt) : (setRInt s n x).deadToks = s.deadToks := rfl
@[simp] theorem setRInt_reqs (n : Nat) (x : RInt) : (setRInt s n x).reqs = s.reqs := rfl
@[simp] theorem setRInt_deficits (n : Nat) (x : RInt) : (setRInt s n x).deficits = s.deficits := rfl
@[simp] theorem setRInt_view (n : Nat) (x : RInt) : (setRInt s n x).view = s.view := rfl
@[simp] theorem setRInt_walkq (n : Nat) (x : RInt) : (setRInt s n x).walkq = s.walkq := rfl
@[simp] theorem setRInt_bankTurn (n : Nat) (x : RInt) : (setRInt s n x).bankTurn = s.bankTurn := rfl
@[simp] theorem setRInt_idents (n : Nat) (x : RInt) : (setRInt s n x).idents = s.idents := rfl
@[simp] theorem getF_setRInt (n : Nat) (x : RInt) (y : Fld) (e j : Nat) :
    getF (setRInt s n x) y e j = getF s y e j := rfl
@[simp] theorem flag_setRInt (n : Nat) (x : RInt) (y : Fld) (e j : Nat) :
    flag (setRInt s n x) y e j = flag s y e j := rfl

/-! ## `setQInt` changes `qints` alone -/

@[simp] theorem setQInt_pending (n : Nat) (x : QInt) : (setQInt s n x).pending = s.pending := rfl
@[simp] theorem setQInt_tick (n : Nat) (x : QInt) : (setQInt s n x).tick = s.tick := rfl
@[simp] theorem setQInt_flds (n : Nat) (x : QInt) : (setQInt s n x).flds = s.flds := rfl
@[simp] theorem setQInt_loPend (n : Nat) (x : QInt) : (setQInt s n x).loPend = s.loPend := rfl
@[simp] theorem setQInt_rems (n : Nat) (x : QInt) : (setQInt s n x).rems = s.rems := rfl
@[simp] theorem setQInt_mem (n : Nat) (x : QInt) : (setQInt s n x).mem = s.mem := rfl
@[simp] theorem setQInt_lines (n : Nat) (x : QInt) : (setQInt s n x).lines = s.lines := rfl
@[simp] theorem setQInt_stackState (n : Nat) (x : QInt) : (setQInt s n x).stackState = s.stackState := rfl
@[simp] theorem setQInt_powers (n : Nat) (x : QInt) : (setQInt s n x).powers = s.powers := rfl
@[simp] theorem setQInt_hostMem (n : Nat) (x : QInt) : (setQInt s n x).hostMem = s.hostMem := rfl
@[simp] theorem setQInt_out (n : Nat) (x : QInt) : (setQInt s n x).out = s.out := rfl
@[simp] theorem setQInt_freeCtr (n : Nat) (x : QInt) : (setQInt s n x).freeCtr = s.freeCtr := rfl
@[simp] theorem setQInt_stamp (n : Nat) (x : QInt) : (setQInt s n x).stamp = s.stamp := rfl
@[simp] theorem setQInt_tokens (n : Nat) (x : QInt) : (setQInt s n x).tokens = s.tokens := rfl
@[simp] theorem setQInt_held (n : Nat) (x : QInt) : (setQInt s n x).held = s.held := rfl
@[simp] theorem setQInt_winSel (n : Nat) (x : QInt) : (setQInt s n x).winSel = s.winSel := rfl
@[simp] theorem setQInt_rints (n : Nat) (x : QInt) : (setQInt s n x).rints = s.rints := rfl
@[simp] theorem setQInt_wrrs (n : Nat) (x : QInt) : (setQInt s n x).wrrs = s.wrrs := rfl
@[simp] theorem setQInt_descs (n : Nat) (x : QInt) : (setQInt s n x).descs = s.descs := rfl
@[simp] theorem setQInt_laneDone (n : Nat) (x : QInt) : (setQInt s n x).laneDone = s.laneDone := rfl
@[simp] theorem setQInt_scheds (n : Nat) (x : QInt) : (setQInt s n x).scheds = s.scheds := rfl
@[simp] theorem setQInt_shards (n : Nat) (x : QInt) : (setQInt s n x).shards = s.shards := rfl
@[simp] theorem setQInt_fifos (n : Nat) (x : QInt) : (setQInt s n x).fifos = s.fifos := rfl
@[simp] theorem setQInt_overs (n : Nat) (x : QInt) : (setQInt s n x).overs = s.overs := rfl
@[simp] theorem setQInt_streams (n : Nat) (x : QInt) : (setQInt s n x).streams = s.streams := rfl
@[simp] theorem setQInt_linkDown (n : Nat) (x : QInt) : (setQInt s n x).linkDown = s.linkDown := rfl
@[simp] theorem setQInt_lostCpls (n : Nat) (x : QInt) : (setQInt s n x).lostCpls = s.lostCpls := rfl
@[simp] theorem setQInt_bar4 (n : Nat) (x : QInt) : (setQInt s n x).bar4 = s.bar4 := rfl
@[simp] theorem setQInt_rstreams (n : Nat) (x : QInt) : (setQInt s n x).rstreams = s.rstreams := rfl
@[simp] theorem setQInt_profiles (n : Nat) (x : QInt) : (setQInt s n x).profiles = s.profiles := rfl
@[simp] theorem setQInt_samples (n : Nat) (x : QInt) : (setQInt s n x).samples = s.samples := rfl
@[simp] theorem setQInt_pages (n : Nat) (x : QInt) : (setQInt s n x).pages = s.pages := rfl
@[simp] theorem setQInt_homes (n : Nat) (x : QInt) : (setQInt s n x).homes = s.homes := rfl
@[simp] theorem setQInt_moves (n : Nat) (x : QInt) : (setQInt s n x).moves = s.moves := rfl
@[simp] theorem setQInt_tierJobs (n : Nat) (x : QInt) : (setQInt s n x).tierJobs = s.tierJobs := rfl
@[simp] theorem setQInt_policyOn (n : Nat) (x : QInt) : (setQInt s n x).policyOn = s.policyOn := rfl
@[simp] theorem setQInt_partGran (n : Nat) (x : QInt) : (setQInt s n x).partGran = s.partGran := rfl
@[simp] theorem setQInt_heldWrites (n : Nat) (x : QInt) : (setQInt s n x).heldWrites = s.heldWrites := rfl
@[simp] theorem setQInt_releases (n : Nat) (x : QInt) : (setQInt s n x).releases = s.releases := rfl
@[simp] theorem setQInt_objects (n : Nat) (x : QInt) : (setQInt s n x).objects = s.objects := rfl
@[simp] theorem setQInt_gens (n : Nat) (x : QInt) : (setQInt s n x).gens = s.gens := rfl
@[simp] theorem setQInt_slots (n : Nat) (x : QInt) : (setQInt s n x).slots = s.slots := rfl
@[simp] theorem setQInt_windows (n : Nat) (x : QInt) : (setQInt s n x).windows = s.windows := rfl
@[simp] theorem setQInt_txFlows (n : Nat) (x : QInt) : (setQInt s n x).txFlows = s.txFlows := rfl
@[simp] theorem setQInt_rxFlows (n : Nat) (x : QInt) : (setQInt s n x).rxFlows = s.rxFlows := rfl
@[simp] theorem setQInt_ports (n : Nat) (x : QInt) : (setQInt s n x).ports = s.ports := rfl
@[simp] theorem setQInt_links (n : Nat) (x : QInt) : (setQInt s n x).links = s.links := rfl
@[simp] theorem setQInt_mcSends (n : Nat) (x : QInt) : (setQInt s n x).mcSends = s.mcSends := rfl
@[simp] theorem setQInt_mcRecvs (n : Nat) (x : QInt) : (setQInt s n x).mcRecvs = s.mcRecvs := rfl
@[simp] theorem setQInt_pruned (n : Nat) (x : QInt) : (setQInt s n x).pruned = s.pruned := rfl
@[simp] theorem setQInt_waits (n : Nat) (x : QInt) : (setQInt s n x).waits = s.waits := rfl
@[simp] theorem setQInt_routeWrr (n : Nat) (x : QInt) : (setQInt s n x).routeWrr = s.routeWrr := rfl
@[simp] theorem setQInt_modTab (n : Nat) (x : QInt) : (setQInt s n x).modTab = s.modTab := rfl
@[simp] theorem setQInt_ovrTab (n : Nat) (x : QInt) : (setQInt s n x).ovrTab = s.ovrTab := rfl
@[simp] theorem setQInt_mcTab (n : Nat) (x : QInt) : (setQInt s n x).mcTab = s.mcTab := rfl
@[simp] theorem setQInt_remoteFenced (n : Nat) (x : QInt) : (setQInt s n x).remoteFenced = s.remoteFenced := rfl
@[simp] theorem setQInt_keys (n : Nat) (x : QInt) : (setQInt s n x).keys = s.keys := rfl
@[simp] theorem setQInt_keyCtr (n : Nat) (x : QInt) : (setQInt s n x).keyCtr = s.keyCtr := rfl
@[simp] theorem setQInt_keySend (n : Nat) (x : QInt) : (setQInt s n x).keySend = s.keySend := rfl
@[simp] theorem setQInt_elog (n : Nat) (x : QInt) : (setQInt s n x).elog = s.elog := rfl
@[simp] theorem setQInt_noticeId (n : Nat) (x : QInt) : (setQInt s n x).noticeId = s.noticeId := rfl
@[simp] theorem setQInt_noticeCache (n : Nat) (x : QInt) : (setQInt s n x).noticeCache = s.noticeCache := rfl
@[simp] theorem setQInt_seqs (n : Nat) (x : QInt) : (setQInt s n x).seqs = s.seqs := rfl
@[simp] theorem setQInt_pmap (n : Nat) (x : QInt) : (setQInt s n x).pmap = s.pmap := rfl
@[simp] theorem setQInt_walks (n : Nat) (x : QInt) : (setQInt s n x).walks = s.walks := rfl
@[simp] theorem setQInt_remaps (n : Nat) (x : QInt) : (setQInt s n x).remaps = s.remaps := rfl
@[simp] theorem setQInt_rebuilds (n : Nat) (x : QInt) : (setQInt s n x).rebuilds = s.rebuilds := rfl
@[simp] theorem setQInt_rings (n : Nat) (x : QInt) : (setQInt s n x).rings = s.rings := rfl
@[simp] theorem setQInt_comms (n : Nat) (x : QInt) : (setQInt s n x).comms = s.comms := rfl
@[simp] theorem setQInt_calls (n : Nat) (x : QInt) : (setQInt s n x).calls = s.calls := rfl
@[simp] theorem setQInt_notes (n : Nat) (x : QInt) : (setQInt s n x).notes = s.notes := rfl
@[simp] theorem setQInt_lates (n : Nat) (x : QInt) : (setQInt s n x).lates = s.lates := rfl
@[simp] theorem setQInt_serves (n : Nat) (x : QInt) : (setQInt s n x).serves = s.serves := rfl
@[simp] theorem setQInt_epochs (n : Nat) (x : QInt) : (setQInt s n x).epochs = s.epochs := rfl
@[simp] theorem setQInt_maps (n : Nat) (x : QInt) : (setQInt s n x).maps = s.maps := rfl
@[simp] theorem setQInt_extTab (n : Nat) (x : QInt) : (setQInt s n x).extTab = s.extTab := rfl
@[simp] theorem setQInt_vmap (n : Nat) (x : QInt) : (setQInt s n x).vmap = s.vmap := rfl
@[simp] theorem setQInt_supply (n : Nat) (x : QInt) : (setQInt s n x).supply = s.supply := rfl
@[simp] theorem setQInt_govs (n : Nat) (x : QInt) : (setQInt s n x).govs = s.govs := rfl
@[simp] theorem setQInt_hotStep (n : Nat) (x : QInt) : (setQInt s n x).hotStep = s.hotStep := rfl
@[simp] theorem setQInt_drains (n : Nat) (x : QInt) : (setQInt s n x).drains = s.drains := rfl
@[simp] theorem setQInt_modes (n : Nat) (x : QInt) : (setQInt s n x).modes = s.modes := rfl
@[simp] theorem setQInt_psAt (n : Nat) (x : QInt) : (setQInt s n x).psAt = s.psAt := rfl
@[simp] theorem setQInt_psWake (n : Nat) (x : QInt) : (setQInt s n x).psWake = s.psWake := rfl
@[simp] theorem setQInt_aon (n : Nat) (x : QInt) : (setQInt s n x).aon = s.aon := rfl
@[simp] theorem setQInt_swaps (n : Nat) (x : QInt) : (setQInt s n x).swaps = s.swaps := rfl
@[simp] theorem setQInt_stopped (n : Nat) (x : QInt) : (setQInt s n x).stopped = s.stopped := rfl
@[simp] theorem setQInt_slew (n : Nat) (x : QInt) : (setQInt s n x).slew = s.slew := rfl
@[simp] theorem setQInt_aligned (n : Nat) (x : QInt) : (setQInt s n x).aligned = s.aligned := rfl
@[simp] theorem setQInt_tickStop (n : Nat) (x : QInt) : (setQInt s n x).tickStop = s.tickStop := rfl
@[simp] theorem setQInt_hbLast (n : Nat) (x : QInt) : (setQInt s n x).hbLast = s.hbLast := rfl
@[simp] theorem setQInt_pcs (n : Nat) (x : QInt) : (setQInt s n x).pcs = s.pcs := rfl
@[simp] theorem setQInt_pcRetired (n : Nat) (x : QInt) : (setQInt s n x).pcRetired = s.pcRetired := rfl
@[simp] theorem setQInt_sets (n : Nat) (x : QInt) : (setQInt s n x).sets = s.sets := rfl
@[simp] theorem setQInt_images (n : Nat) (x : QInt) : (setQInt s n x).images = s.images := rfl
@[simp] theorem setQInt_wardGen (n : Nat) (x : QInt) : (setQInt s n x).wardGen = s.wardGen := rfl
@[simp] theorem setQInt_wardMem (n : Nat) (x : QInt) : (setQInt s n x).wardMem = s.wardMem := rfl
@[simp] theorem setQInt_conns (n : Nat) (x : QInt) : (setQInt s n x).conns = s.conns := rfl
@[simp] theorem setQInt_paused (n : Nat) (x : QInt) : (setQInt s n x).paused = s.paused := rfl
@[simp] theorem setQInt_opWaits (n : Nat) (x : QInt) : (setQInt s n x).opWaits = s.opWaits := rfl
@[simp] theorem setQInt_staged (n : Nat) (x : QInt) : (setQInt s n x).staged = s.staged := rfl
@[simp] theorem setQInt_fwSlots (n : Nat) (x : QInt) : (setQInt s n x).fwSlots = s.fwSlots := rfl
@[simp] theorem setQInt_bootAt (n : Nat) (x : QInt) : (setQInt s n x).bootAt = s.bootAt := rfl
@[simp] theorem setQInt_bootBad (n : Nat) (x : QInt) : (setQInt s n x).bootBad = s.bootBad := rfl
@[simp] theorem setQInt_sessions (n : Nat) (x : QInt) : (setQInt s n x).sessions = s.sessions := rfl
@[simp] theorem setQInt_sealBytes (n : Nat) (x : QInt) : (setQInt s n x).sealBytes = s.sealBytes := rfl
@[simp] theorem setQInt_rlog (n : Nat) (x : QInt) : (setQInt s n x).rlog = s.rlog := rfl
@[simp] theorem setQInt_bists (n : Nat) (x : QInt) : (setQInt s n x).bists = s.bists := rfl
@[simp] theorem setQInt_margins (n : Nat) (x : QInt) : (setQInt s n x).margins = s.margins := rfl
@[simp] theorem setQInt_remargin (n : Nat) (x : QInt) : (setQInt s n x).remargin = s.remargin := rfl
@[simp] theorem setQInt_spares (n : Nat) (x : QInt) : (setQInt s n x).spares = s.spares := rfl
@[simp] theorem setQInt_rows (n : Nat) (x : QInt) : (setQInt s n x).rows = s.rows := rfl
@[simp] theorem setQInt_slewCnt (n : Nat) (x : QInt) : (setQInt s n x).slewCnt = s.slewCnt := rfl
@[simp] theorem setQInt_copyAsked (n : Nat) (x : QInt) : (setQInt s n x).copyAsked = s.copyAsked := rfl
@[simp] theorem setQInt_deadToks (n : Nat) (x : QInt) : (setQInt s n x).deadToks = s.deadToks := rfl
@[simp] theorem setQInt_reqs (n : Nat) (x : QInt) : (setQInt s n x).reqs = s.reqs := rfl
@[simp] theorem setQInt_deficits (n : Nat) (x : QInt) : (setQInt s n x).deficits = s.deficits := rfl
@[simp] theorem setQInt_view (n : Nat) (x : QInt) : (setQInt s n x).view = s.view := rfl
@[simp] theorem setQInt_walkq (n : Nat) (x : QInt) : (setQInt s n x).walkq = s.walkq := rfl
@[simp] theorem setQInt_bankTurn (n : Nat) (x : QInt) : (setQInt s n x).bankTurn = s.bankTurn := rfl
@[simp] theorem setQInt_idents (n : Nat) (x : QInt) : (setQInt s n x).idents = s.idents := rfl
@[simp] theorem getF_setQInt (n : Nat) (x : QInt) (y : Fld) (e j : Nat) :
    getF (setQInt s n x) y e j = getF s y e j := rfl
@[simp] theorem flag_setQInt (n : Nat) (x : QInt) (y : Fld) (e j : Nat) :
    flag (setQInt s n x) y e j = flag s y e j := rfl

/-! ## `setPort` changes `ports` alone -/

@[simp] theorem setPort_pending (n : Nat) (x : PortInt) : (setPort s n x).pending = s.pending := rfl
@[simp] theorem setPort_tick (n : Nat) (x : PortInt) : (setPort s n x).tick = s.tick := rfl
@[simp] theorem setPort_flds (n : Nat) (x : PortInt) : (setPort s n x).flds = s.flds := rfl
@[simp] theorem setPort_loPend (n : Nat) (x : PortInt) : (setPort s n x).loPend = s.loPend := rfl
@[simp] theorem setPort_rems (n : Nat) (x : PortInt) : (setPort s n x).rems = s.rems := rfl
@[simp] theorem setPort_mem (n : Nat) (x : PortInt) : (setPort s n x).mem = s.mem := rfl
@[simp] theorem setPort_lines (n : Nat) (x : PortInt) : (setPort s n x).lines = s.lines := rfl
@[simp] theorem setPort_stackState (n : Nat) (x : PortInt) : (setPort s n x).stackState = s.stackState := rfl
@[simp] theorem setPort_powers (n : Nat) (x : PortInt) : (setPort s n x).powers = s.powers := rfl
@[simp] theorem setPort_hostMem (n : Nat) (x : PortInt) : (setPort s n x).hostMem = s.hostMem := rfl
@[simp] theorem setPort_out (n : Nat) (x : PortInt) : (setPort s n x).out = s.out := rfl
@[simp] theorem setPort_freeCtr (n : Nat) (x : PortInt) : (setPort s n x).freeCtr = s.freeCtr := rfl
@[simp] theorem setPort_stamp (n : Nat) (x : PortInt) : (setPort s n x).stamp = s.stamp := rfl
@[simp] theorem setPort_tokens (n : Nat) (x : PortInt) : (setPort s n x).tokens = s.tokens := rfl
@[simp] theorem setPort_held (n : Nat) (x : PortInt) : (setPort s n x).held = s.held := rfl
@[simp] theorem setPort_winSel (n : Nat) (x : PortInt) : (setPort s n x).winSel = s.winSel := rfl
@[simp] theorem setPort_qints (n : Nat) (x : PortInt) : (setPort s n x).qints = s.qints := rfl
@[simp] theorem setPort_rints (n : Nat) (x : PortInt) : (setPort s n x).rints = s.rints := rfl
@[simp] theorem setPort_wrrs (n : Nat) (x : PortInt) : (setPort s n x).wrrs = s.wrrs := rfl
@[simp] theorem setPort_descs (n : Nat) (x : PortInt) : (setPort s n x).descs = s.descs := rfl
@[simp] theorem setPort_laneDone (n : Nat) (x : PortInt) : (setPort s n x).laneDone = s.laneDone := rfl
@[simp] theorem setPort_scheds (n : Nat) (x : PortInt) : (setPort s n x).scheds = s.scheds := rfl
@[simp] theorem setPort_shards (n : Nat) (x : PortInt) : (setPort s n x).shards = s.shards := rfl
@[simp] theorem setPort_fifos (n : Nat) (x : PortInt) : (setPort s n x).fifos = s.fifos := rfl
@[simp] theorem setPort_overs (n : Nat) (x : PortInt) : (setPort s n x).overs = s.overs := rfl
@[simp] theorem setPort_streams (n : Nat) (x : PortInt) : (setPort s n x).streams = s.streams := rfl
@[simp] theorem setPort_linkDown (n : Nat) (x : PortInt) : (setPort s n x).linkDown = s.linkDown := rfl
@[simp] theorem setPort_lostCpls (n : Nat) (x : PortInt) : (setPort s n x).lostCpls = s.lostCpls := rfl
@[simp] theorem setPort_bar4 (n : Nat) (x : PortInt) : (setPort s n x).bar4 = s.bar4 := rfl
@[simp] theorem setPort_rstreams (n : Nat) (x : PortInt) : (setPort s n x).rstreams = s.rstreams := rfl
@[simp] theorem setPort_profiles (n : Nat) (x : PortInt) : (setPort s n x).profiles = s.profiles := rfl
@[simp] theorem setPort_samples (n : Nat) (x : PortInt) : (setPort s n x).samples = s.samples := rfl
@[simp] theorem setPort_pages (n : Nat) (x : PortInt) : (setPort s n x).pages = s.pages := rfl
@[simp] theorem setPort_homes (n : Nat) (x : PortInt) : (setPort s n x).homes = s.homes := rfl
@[simp] theorem setPort_moves (n : Nat) (x : PortInt) : (setPort s n x).moves = s.moves := rfl
@[simp] theorem setPort_tierJobs (n : Nat) (x : PortInt) : (setPort s n x).tierJobs = s.tierJobs := rfl
@[simp] theorem setPort_policyOn (n : Nat) (x : PortInt) : (setPort s n x).policyOn = s.policyOn := rfl
@[simp] theorem setPort_partGran (n : Nat) (x : PortInt) : (setPort s n x).partGran = s.partGran := rfl
@[simp] theorem setPort_heldWrites (n : Nat) (x : PortInt) : (setPort s n x).heldWrites = s.heldWrites := rfl
@[simp] theorem setPort_releases (n : Nat) (x : PortInt) : (setPort s n x).releases = s.releases := rfl
@[simp] theorem setPort_objects (n : Nat) (x : PortInt) : (setPort s n x).objects = s.objects := rfl
@[simp] theorem setPort_gens (n : Nat) (x : PortInt) : (setPort s n x).gens = s.gens := rfl
@[simp] theorem setPort_slots (n : Nat) (x : PortInt) : (setPort s n x).slots = s.slots := rfl
@[simp] theorem setPort_windows (n : Nat) (x : PortInt) : (setPort s n x).windows = s.windows := rfl
@[simp] theorem setPort_txFlows (n : Nat) (x : PortInt) : (setPort s n x).txFlows = s.txFlows := rfl
@[simp] theorem setPort_rxFlows (n : Nat) (x : PortInt) : (setPort s n x).rxFlows = s.rxFlows := rfl
@[simp] theorem setPort_links (n : Nat) (x : PortInt) : (setPort s n x).links = s.links := rfl
@[simp] theorem setPort_mcSends (n : Nat) (x : PortInt) : (setPort s n x).mcSends = s.mcSends := rfl
@[simp] theorem setPort_mcRecvs (n : Nat) (x : PortInt) : (setPort s n x).mcRecvs = s.mcRecvs := rfl
@[simp] theorem setPort_pruned (n : Nat) (x : PortInt) : (setPort s n x).pruned = s.pruned := rfl
@[simp] theorem setPort_waits (n : Nat) (x : PortInt) : (setPort s n x).waits = s.waits := rfl
@[simp] theorem setPort_routeWrr (n : Nat) (x : PortInt) : (setPort s n x).routeWrr = s.routeWrr := rfl
@[simp] theorem setPort_modTab (n : Nat) (x : PortInt) : (setPort s n x).modTab = s.modTab := rfl
@[simp] theorem setPort_ovrTab (n : Nat) (x : PortInt) : (setPort s n x).ovrTab = s.ovrTab := rfl
@[simp] theorem setPort_mcTab (n : Nat) (x : PortInt) : (setPort s n x).mcTab = s.mcTab := rfl
@[simp] theorem setPort_remoteFenced (n : Nat) (x : PortInt) : (setPort s n x).remoteFenced = s.remoteFenced := rfl
@[simp] theorem setPort_keys (n : Nat) (x : PortInt) : (setPort s n x).keys = s.keys := rfl
@[simp] theorem setPort_keyCtr (n : Nat) (x : PortInt) : (setPort s n x).keyCtr = s.keyCtr := rfl
@[simp] theorem setPort_keySend (n : Nat) (x : PortInt) : (setPort s n x).keySend = s.keySend := rfl
@[simp] theorem setPort_elog (n : Nat) (x : PortInt) : (setPort s n x).elog = s.elog := rfl
@[simp] theorem setPort_noticeId (n : Nat) (x : PortInt) : (setPort s n x).noticeId = s.noticeId := rfl
@[simp] theorem setPort_noticeCache (n : Nat) (x : PortInt) : (setPort s n x).noticeCache = s.noticeCache := rfl
@[simp] theorem setPort_seqs (n : Nat) (x : PortInt) : (setPort s n x).seqs = s.seqs := rfl
@[simp] theorem setPort_pmap (n : Nat) (x : PortInt) : (setPort s n x).pmap = s.pmap := rfl
@[simp] theorem setPort_walks (n : Nat) (x : PortInt) : (setPort s n x).walks = s.walks := rfl
@[simp] theorem setPort_remaps (n : Nat) (x : PortInt) : (setPort s n x).remaps = s.remaps := rfl
@[simp] theorem setPort_rebuilds (n : Nat) (x : PortInt) : (setPort s n x).rebuilds = s.rebuilds := rfl
@[simp] theorem setPort_rings (n : Nat) (x : PortInt) : (setPort s n x).rings = s.rings := rfl
@[simp] theorem setPort_comms (n : Nat) (x : PortInt) : (setPort s n x).comms = s.comms := rfl
@[simp] theorem setPort_calls (n : Nat) (x : PortInt) : (setPort s n x).calls = s.calls := rfl
@[simp] theorem setPort_notes (n : Nat) (x : PortInt) : (setPort s n x).notes = s.notes := rfl
@[simp] theorem setPort_lates (n : Nat) (x : PortInt) : (setPort s n x).lates = s.lates := rfl
@[simp] theorem setPort_serves (n : Nat) (x : PortInt) : (setPort s n x).serves = s.serves := rfl
@[simp] theorem setPort_epochs (n : Nat) (x : PortInt) : (setPort s n x).epochs = s.epochs := rfl
@[simp] theorem setPort_maps (n : Nat) (x : PortInt) : (setPort s n x).maps = s.maps := rfl
@[simp] theorem setPort_extTab (n : Nat) (x : PortInt) : (setPort s n x).extTab = s.extTab := rfl
@[simp] theorem setPort_vmap (n : Nat) (x : PortInt) : (setPort s n x).vmap = s.vmap := rfl
@[simp] theorem setPort_supply (n : Nat) (x : PortInt) : (setPort s n x).supply = s.supply := rfl
@[simp] theorem setPort_govs (n : Nat) (x : PortInt) : (setPort s n x).govs = s.govs := rfl
@[simp] theorem setPort_hotStep (n : Nat) (x : PortInt) : (setPort s n x).hotStep = s.hotStep := rfl
@[simp] theorem setPort_drains (n : Nat) (x : PortInt) : (setPort s n x).drains = s.drains := rfl
@[simp] theorem setPort_modes (n : Nat) (x : PortInt) : (setPort s n x).modes = s.modes := rfl
@[simp] theorem setPort_psAt (n : Nat) (x : PortInt) : (setPort s n x).psAt = s.psAt := rfl
@[simp] theorem setPort_psWake (n : Nat) (x : PortInt) : (setPort s n x).psWake = s.psWake := rfl
@[simp] theorem setPort_aon (n : Nat) (x : PortInt) : (setPort s n x).aon = s.aon := rfl
@[simp] theorem setPort_swaps (n : Nat) (x : PortInt) : (setPort s n x).swaps = s.swaps := rfl
@[simp] theorem setPort_stopped (n : Nat) (x : PortInt) : (setPort s n x).stopped = s.stopped := rfl
@[simp] theorem setPort_slew (n : Nat) (x : PortInt) : (setPort s n x).slew = s.slew := rfl
@[simp] theorem setPort_aligned (n : Nat) (x : PortInt) : (setPort s n x).aligned = s.aligned := rfl
@[simp] theorem setPort_tickStop (n : Nat) (x : PortInt) : (setPort s n x).tickStop = s.tickStop := rfl
@[simp] theorem setPort_hbLast (n : Nat) (x : PortInt) : (setPort s n x).hbLast = s.hbLast := rfl
@[simp] theorem setPort_pcs (n : Nat) (x : PortInt) : (setPort s n x).pcs = s.pcs := rfl
@[simp] theorem setPort_pcRetired (n : Nat) (x : PortInt) : (setPort s n x).pcRetired = s.pcRetired := rfl
@[simp] theorem setPort_sets (n : Nat) (x : PortInt) : (setPort s n x).sets = s.sets := rfl
@[simp] theorem setPort_images (n : Nat) (x : PortInt) : (setPort s n x).images = s.images := rfl
@[simp] theorem setPort_wardGen (n : Nat) (x : PortInt) : (setPort s n x).wardGen = s.wardGen := rfl
@[simp] theorem setPort_wardMem (n : Nat) (x : PortInt) : (setPort s n x).wardMem = s.wardMem := rfl
@[simp] theorem setPort_conns (n : Nat) (x : PortInt) : (setPort s n x).conns = s.conns := rfl
@[simp] theorem setPort_paused (n : Nat) (x : PortInt) : (setPort s n x).paused = s.paused := rfl
@[simp] theorem setPort_opWaits (n : Nat) (x : PortInt) : (setPort s n x).opWaits = s.opWaits := rfl
@[simp] theorem setPort_staged (n : Nat) (x : PortInt) : (setPort s n x).staged = s.staged := rfl
@[simp] theorem setPort_fwSlots (n : Nat) (x : PortInt) : (setPort s n x).fwSlots = s.fwSlots := rfl
@[simp] theorem setPort_bootAt (n : Nat) (x : PortInt) : (setPort s n x).bootAt = s.bootAt := rfl
@[simp] theorem setPort_bootBad (n : Nat) (x : PortInt) : (setPort s n x).bootBad = s.bootBad := rfl
@[simp] theorem setPort_sessions (n : Nat) (x : PortInt) : (setPort s n x).sessions = s.sessions := rfl
@[simp] theorem setPort_sealBytes (n : Nat) (x : PortInt) : (setPort s n x).sealBytes = s.sealBytes := rfl
@[simp] theorem setPort_rlog (n : Nat) (x : PortInt) : (setPort s n x).rlog = s.rlog := rfl
@[simp] theorem setPort_bists (n : Nat) (x : PortInt) : (setPort s n x).bists = s.bists := rfl
@[simp] theorem setPort_margins (n : Nat) (x : PortInt) : (setPort s n x).margins = s.margins := rfl
@[simp] theorem setPort_remargin (n : Nat) (x : PortInt) : (setPort s n x).remargin = s.remargin := rfl
@[simp] theorem setPort_spares (n : Nat) (x : PortInt) : (setPort s n x).spares = s.spares := rfl
@[simp] theorem setPort_rows (n : Nat) (x : PortInt) : (setPort s n x).rows = s.rows := rfl
@[simp] theorem setPort_slewCnt (n : Nat) (x : PortInt) : (setPort s n x).slewCnt = s.slewCnt := rfl
@[simp] theorem setPort_copyAsked (n : Nat) (x : PortInt) : (setPort s n x).copyAsked = s.copyAsked := rfl
@[simp] theorem setPort_deadToks (n : Nat) (x : PortInt) : (setPort s n x).deadToks = s.deadToks := rfl
@[simp] theorem setPort_reqs (n : Nat) (x : PortInt) : (setPort s n x).reqs = s.reqs := rfl
@[simp] theorem setPort_deficits (n : Nat) (x : PortInt) : (setPort s n x).deficits = s.deficits := rfl
@[simp] theorem setPort_view (n : Nat) (x : PortInt) : (setPort s n x).view = s.view := rfl
@[simp] theorem setPort_walkq (n : Nat) (x : PortInt) : (setPort s n x).walkq = s.walkq := rfl
@[simp] theorem setPort_bankTurn (n : Nat) (x : PortInt) : (setPort s n x).bankTurn = s.bankTurn := rfl
@[simp] theorem setPort_idents (n : Nat) (x : PortInt) : (setPort s n x).idents = s.idents := rfl
@[simp] theorem getF_setPort (n : Nat) (x : PortInt) (y : Fld) (e j : Nat) :
    getF (setPort s n x) y e j = getF s y e j := rfl
@[simp] theorem flag_setPort (n : Nat) (x : PortInt) (y : Fld) (e j : Nat) :
    flag (setPort s n x) y e j = flag s y e j := rfl

/-! ## `updDesc` changes `descs` alone -/

@[simp] theorem updDesc_pending (q n : Nat) (f : Desc → Desc) : (updDesc s q n f).pending = s.pending := rfl
@[simp] theorem updDesc_tick (q n : Nat) (f : Desc → Desc) : (updDesc s q n f).tick = s.tick := rfl
@[simp] theorem updDesc_flds (q n : Nat) (f : Desc → Desc) : (updDesc s q n f).flds = s.flds := rfl
@[simp] theorem updDesc_loPend (q n : Nat) (f : Desc → Desc) : (updDesc s q n f).loPend = s.loPend := rfl
@[simp] theorem updDesc_rems (q n : Nat) (f : Desc → Desc) : (updDesc s q n f).rems = s.rems := rfl
@[simp] theorem updDesc_mem (q n : Nat) (f : Desc → Desc) : (updDesc s q n f).mem = s.mem := rfl
@[simp] theorem updDesc_lines (q n : Nat) (f : Desc → Desc) : (updDesc s q n f).lines = s.lines := rfl
@[simp] theorem updDesc_stackState (q n : Nat) (f : Desc → Desc) : (updDesc s q n f).stackState = s.stackState := rfl
@[simp] theorem updDesc_powers (q n : Nat) (f : Desc → Desc) : (updDesc s q n f).powers = s.powers := rfl
@[simp] theorem updDesc_hostMem (q n : Nat) (f : Desc → Desc) : (updDesc s q n f).hostMem = s.hostMem := rfl
@[simp] theorem updDesc_out (q n : Nat) (f : Desc → Desc) : (updDesc s q n f).out = s.out := rfl
@[simp] theorem updDesc_freeCtr (q n : Nat) (f : Desc → Desc) : (updDesc s q n f).freeCtr = s.freeCtr := rfl
@[simp] theorem updDesc_stamp (q n : Nat) (f : Desc → Desc) : (updDesc s q n f).stamp = s.stamp := rfl
@[simp] theorem updDesc_tokens (q n : Nat) (f : Desc → Desc) : (updDesc s q n f).tokens = s.tokens := rfl
@[simp] theorem updDesc_held (q n : Nat) (f : Desc → Desc) : (updDesc s q n f).held = s.held := rfl
@[simp] theorem updDesc_winSel (q n : Nat) (f : Desc → Desc) : (updDesc s q n f).winSel = s.winSel := rfl
@[simp] theorem updDesc_qints (q n : Nat) (f : Desc → Desc) : (updDesc s q n f).qints = s.qints := rfl
@[simp] theorem updDesc_rints (q n : Nat) (f : Desc → Desc) : (updDesc s q n f).rints = s.rints := rfl
@[simp] theorem updDesc_wrrs (q n : Nat) (f : Desc → Desc) : (updDesc s q n f).wrrs = s.wrrs := rfl
@[simp] theorem updDesc_laneDone (q n : Nat) (f : Desc → Desc) : (updDesc s q n f).laneDone = s.laneDone := rfl
@[simp] theorem updDesc_scheds (q n : Nat) (f : Desc → Desc) : (updDesc s q n f).scheds = s.scheds := rfl
@[simp] theorem updDesc_shards (q n : Nat) (f : Desc → Desc) : (updDesc s q n f).shards = s.shards := rfl
@[simp] theorem updDesc_fifos (q n : Nat) (f : Desc → Desc) : (updDesc s q n f).fifos = s.fifos := rfl
@[simp] theorem updDesc_overs (q n : Nat) (f : Desc → Desc) : (updDesc s q n f).overs = s.overs := rfl
@[simp] theorem updDesc_streams (q n : Nat) (f : Desc → Desc) : (updDesc s q n f).streams = s.streams := rfl
@[simp] theorem updDesc_linkDown (q n : Nat) (f : Desc → Desc) : (updDesc s q n f).linkDown = s.linkDown := rfl
@[simp] theorem updDesc_lostCpls (q n : Nat) (f : Desc → Desc) : (updDesc s q n f).lostCpls = s.lostCpls := rfl
@[simp] theorem updDesc_bar4 (q n : Nat) (f : Desc → Desc) : (updDesc s q n f).bar4 = s.bar4 := rfl
@[simp] theorem updDesc_rstreams (q n : Nat) (f : Desc → Desc) : (updDesc s q n f).rstreams = s.rstreams := rfl
@[simp] theorem updDesc_profiles (q n : Nat) (f : Desc → Desc) : (updDesc s q n f).profiles = s.profiles := rfl
@[simp] theorem updDesc_samples (q n : Nat) (f : Desc → Desc) : (updDesc s q n f).samples = s.samples := rfl
@[simp] theorem updDesc_pages (q n : Nat) (f : Desc → Desc) : (updDesc s q n f).pages = s.pages := rfl
@[simp] theorem updDesc_homes (q n : Nat) (f : Desc → Desc) : (updDesc s q n f).homes = s.homes := rfl
@[simp] theorem updDesc_moves (q n : Nat) (f : Desc → Desc) : (updDesc s q n f).moves = s.moves := rfl
@[simp] theorem updDesc_tierJobs (q n : Nat) (f : Desc → Desc) : (updDesc s q n f).tierJobs = s.tierJobs := rfl
@[simp] theorem updDesc_policyOn (q n : Nat) (f : Desc → Desc) : (updDesc s q n f).policyOn = s.policyOn := rfl
@[simp] theorem updDesc_partGran (q n : Nat) (f : Desc → Desc) : (updDesc s q n f).partGran = s.partGran := rfl
@[simp] theorem updDesc_heldWrites (q n : Nat) (f : Desc → Desc) : (updDesc s q n f).heldWrites = s.heldWrites := rfl
@[simp] theorem updDesc_releases (q n : Nat) (f : Desc → Desc) : (updDesc s q n f).releases = s.releases := rfl
@[simp] theorem updDesc_objects (q n : Nat) (f : Desc → Desc) : (updDesc s q n f).objects = s.objects := rfl
@[simp] theorem updDesc_gens (q n : Nat) (f : Desc → Desc) : (updDesc s q n f).gens = s.gens := rfl
@[simp] theorem updDesc_slots (q n : Nat) (f : Desc → Desc) : (updDesc s q n f).slots = s.slots := rfl
@[simp] theorem updDesc_windows (q n : Nat) (f : Desc → Desc) : (updDesc s q n f).windows = s.windows := rfl
@[simp] theorem updDesc_txFlows (q n : Nat) (f : Desc → Desc) : (updDesc s q n f).txFlows = s.txFlows := rfl
@[simp] theorem updDesc_rxFlows (q n : Nat) (f : Desc → Desc) : (updDesc s q n f).rxFlows = s.rxFlows := rfl
@[simp] theorem updDesc_ports (q n : Nat) (f : Desc → Desc) : (updDesc s q n f).ports = s.ports := rfl
@[simp] theorem updDesc_links (q n : Nat) (f : Desc → Desc) : (updDesc s q n f).links = s.links := rfl
@[simp] theorem updDesc_mcSends (q n : Nat) (f : Desc → Desc) : (updDesc s q n f).mcSends = s.mcSends := rfl
@[simp] theorem updDesc_mcRecvs (q n : Nat) (f : Desc → Desc) : (updDesc s q n f).mcRecvs = s.mcRecvs := rfl
@[simp] theorem updDesc_pruned (q n : Nat) (f : Desc → Desc) : (updDesc s q n f).pruned = s.pruned := rfl
@[simp] theorem updDesc_waits (q n : Nat) (f : Desc → Desc) : (updDesc s q n f).waits = s.waits := rfl
@[simp] theorem updDesc_routeWrr (q n : Nat) (f : Desc → Desc) : (updDesc s q n f).routeWrr = s.routeWrr := rfl
@[simp] theorem updDesc_modTab (q n : Nat) (f : Desc → Desc) : (updDesc s q n f).modTab = s.modTab := rfl
@[simp] theorem updDesc_ovrTab (q n : Nat) (f : Desc → Desc) : (updDesc s q n f).ovrTab = s.ovrTab := rfl
@[simp] theorem updDesc_mcTab (q n : Nat) (f : Desc → Desc) : (updDesc s q n f).mcTab = s.mcTab := rfl
@[simp] theorem updDesc_remoteFenced (q n : Nat) (f : Desc → Desc) : (updDesc s q n f).remoteFenced = s.remoteFenced := rfl
@[simp] theorem updDesc_keys (q n : Nat) (f : Desc → Desc) : (updDesc s q n f).keys = s.keys := rfl
@[simp] theorem updDesc_keyCtr (q n : Nat) (f : Desc → Desc) : (updDesc s q n f).keyCtr = s.keyCtr := rfl
@[simp] theorem updDesc_keySend (q n : Nat) (f : Desc → Desc) : (updDesc s q n f).keySend = s.keySend := rfl
@[simp] theorem updDesc_elog (q n : Nat) (f : Desc → Desc) : (updDesc s q n f).elog = s.elog := rfl
@[simp] theorem updDesc_noticeId (q n : Nat) (f : Desc → Desc) : (updDesc s q n f).noticeId = s.noticeId := rfl
@[simp] theorem updDesc_noticeCache (q n : Nat) (f : Desc → Desc) : (updDesc s q n f).noticeCache = s.noticeCache := rfl
@[simp] theorem updDesc_seqs (q n : Nat) (f : Desc → Desc) : (updDesc s q n f).seqs = s.seqs := rfl
@[simp] theorem updDesc_pmap (q n : Nat) (f : Desc → Desc) : (updDesc s q n f).pmap = s.pmap := rfl
@[simp] theorem updDesc_walks (q n : Nat) (f : Desc → Desc) : (updDesc s q n f).walks = s.walks := rfl
@[simp] theorem updDesc_remaps (q n : Nat) (f : Desc → Desc) : (updDesc s q n f).remaps = s.remaps := rfl
@[simp] theorem updDesc_rebuilds (q n : Nat) (f : Desc → Desc) : (updDesc s q n f).rebuilds = s.rebuilds := rfl
@[simp] theorem updDesc_rings (q n : Nat) (f : Desc → Desc) : (updDesc s q n f).rings = s.rings := rfl
@[simp] theorem updDesc_comms (q n : Nat) (f : Desc → Desc) : (updDesc s q n f).comms = s.comms := rfl
@[simp] theorem updDesc_calls (q n : Nat) (f : Desc → Desc) : (updDesc s q n f).calls = s.calls := rfl
@[simp] theorem updDesc_notes (q n : Nat) (f : Desc → Desc) : (updDesc s q n f).notes = s.notes := rfl
@[simp] theorem updDesc_lates (q n : Nat) (f : Desc → Desc) : (updDesc s q n f).lates = s.lates := rfl
@[simp] theorem updDesc_serves (q n : Nat) (f : Desc → Desc) : (updDesc s q n f).serves = s.serves := rfl
@[simp] theorem updDesc_epochs (q n : Nat) (f : Desc → Desc) : (updDesc s q n f).epochs = s.epochs := rfl
@[simp] theorem updDesc_maps (q n : Nat) (f : Desc → Desc) : (updDesc s q n f).maps = s.maps := rfl
@[simp] theorem updDesc_extTab (q n : Nat) (f : Desc → Desc) : (updDesc s q n f).extTab = s.extTab := rfl
@[simp] theorem updDesc_vmap (q n : Nat) (f : Desc → Desc) : (updDesc s q n f).vmap = s.vmap := rfl
@[simp] theorem updDesc_supply (q n : Nat) (f : Desc → Desc) : (updDesc s q n f).supply = s.supply := rfl
@[simp] theorem updDesc_govs (q n : Nat) (f : Desc → Desc) : (updDesc s q n f).govs = s.govs := rfl
@[simp] theorem updDesc_hotStep (q n : Nat) (f : Desc → Desc) : (updDesc s q n f).hotStep = s.hotStep := rfl
@[simp] theorem updDesc_drains (q n : Nat) (f : Desc → Desc) : (updDesc s q n f).drains = s.drains := rfl
@[simp] theorem updDesc_modes (q n : Nat) (f : Desc → Desc) : (updDesc s q n f).modes = s.modes := rfl
@[simp] theorem updDesc_psAt (q n : Nat) (f : Desc → Desc) : (updDesc s q n f).psAt = s.psAt := rfl
@[simp] theorem updDesc_psWake (q n : Nat) (f : Desc → Desc) : (updDesc s q n f).psWake = s.psWake := rfl
@[simp] theorem updDesc_aon (q n : Nat) (f : Desc → Desc) : (updDesc s q n f).aon = s.aon := rfl
@[simp] theorem updDesc_swaps (q n : Nat) (f : Desc → Desc) : (updDesc s q n f).swaps = s.swaps := rfl
@[simp] theorem updDesc_stopped (q n : Nat) (f : Desc → Desc) : (updDesc s q n f).stopped = s.stopped := rfl
@[simp] theorem updDesc_slew (q n : Nat) (f : Desc → Desc) : (updDesc s q n f).slew = s.slew := rfl
@[simp] theorem updDesc_aligned (q n : Nat) (f : Desc → Desc) : (updDesc s q n f).aligned = s.aligned := rfl
@[simp] theorem updDesc_tickStop (q n : Nat) (f : Desc → Desc) : (updDesc s q n f).tickStop = s.tickStop := rfl
@[simp] theorem updDesc_hbLast (q n : Nat) (f : Desc → Desc) : (updDesc s q n f).hbLast = s.hbLast := rfl
@[simp] theorem updDesc_pcs (q n : Nat) (f : Desc → Desc) : (updDesc s q n f).pcs = s.pcs := rfl
@[simp] theorem updDesc_pcRetired (q n : Nat) (f : Desc → Desc) : (updDesc s q n f).pcRetired = s.pcRetired := rfl
@[simp] theorem updDesc_sets (q n : Nat) (f : Desc → Desc) : (updDesc s q n f).sets = s.sets := rfl
@[simp] theorem updDesc_images (q n : Nat) (f : Desc → Desc) : (updDesc s q n f).images = s.images := rfl
@[simp] theorem updDesc_wardGen (q n : Nat) (f : Desc → Desc) : (updDesc s q n f).wardGen = s.wardGen := rfl
@[simp] theorem updDesc_wardMem (q n : Nat) (f : Desc → Desc) : (updDesc s q n f).wardMem = s.wardMem := rfl
@[simp] theorem updDesc_conns (q n : Nat) (f : Desc → Desc) : (updDesc s q n f).conns = s.conns := rfl
@[simp] theorem updDesc_paused (q n : Nat) (f : Desc → Desc) : (updDesc s q n f).paused = s.paused := rfl
@[simp] theorem updDesc_opWaits (q n : Nat) (f : Desc → Desc) : (updDesc s q n f).opWaits = s.opWaits := rfl
@[simp] theorem updDesc_staged (q n : Nat) (f : Desc → Desc) : (updDesc s q n f).staged = s.staged := rfl
@[simp] theorem updDesc_fwSlots (q n : Nat) (f : Desc → Desc) : (updDesc s q n f).fwSlots = s.fwSlots := rfl
@[simp] theorem updDesc_bootAt (q n : Nat) (f : Desc → Desc) : (updDesc s q n f).bootAt = s.bootAt := rfl
@[simp] theorem updDesc_bootBad (q n : Nat) (f : Desc → Desc) : (updDesc s q n f).bootBad = s.bootBad := rfl
@[simp] theorem updDesc_sessions (q n : Nat) (f : Desc → Desc) : (updDesc s q n f).sessions = s.sessions := rfl
@[simp] theorem updDesc_sealBytes (q n : Nat) (f : Desc → Desc) : (updDesc s q n f).sealBytes = s.sealBytes := rfl
@[simp] theorem updDesc_rlog (q n : Nat) (f : Desc → Desc) : (updDesc s q n f).rlog = s.rlog := rfl
@[simp] theorem updDesc_bists (q n : Nat) (f : Desc → Desc) : (updDesc s q n f).bists = s.bists := rfl
@[simp] theorem updDesc_margins (q n : Nat) (f : Desc → Desc) : (updDesc s q n f).margins = s.margins := rfl
@[simp] theorem updDesc_remargin (q n : Nat) (f : Desc → Desc) : (updDesc s q n f).remargin = s.remargin := rfl
@[simp] theorem updDesc_spares (q n : Nat) (f : Desc → Desc) : (updDesc s q n f).spares = s.spares := rfl
@[simp] theorem updDesc_rows (q n : Nat) (f : Desc → Desc) : (updDesc s q n f).rows = s.rows := rfl
@[simp] theorem updDesc_slewCnt (q n : Nat) (f : Desc → Desc) : (updDesc s q n f).slewCnt = s.slewCnt := rfl
@[simp] theorem updDesc_copyAsked (q n : Nat) (f : Desc → Desc) : (updDesc s q n f).copyAsked = s.copyAsked := rfl
@[simp] theorem updDesc_deadToks (q n : Nat) (f : Desc → Desc) : (updDesc s q n f).deadToks = s.deadToks := rfl
@[simp] theorem updDesc_reqs (q n : Nat) (f : Desc → Desc) : (updDesc s q n f).reqs = s.reqs := rfl
@[simp] theorem updDesc_deficits (q n : Nat) (f : Desc → Desc) : (updDesc s q n f).deficits = s.deficits := rfl
@[simp] theorem updDesc_view (q n : Nat) (f : Desc → Desc) : (updDesc s q n f).view = s.view := rfl
@[simp] theorem updDesc_walkq (q n : Nat) (f : Desc → Desc) : (updDesc s q n f).walkq = s.walkq := rfl
@[simp] theorem updDesc_bankTurn (q n : Nat) (f : Desc → Desc) : (updDesc s q n f).bankTurn = s.bankTurn := rfl
@[simp] theorem updDesc_idents (q n : Nat) (f : Desc → Desc) : (updDesc s q n f).idents = s.idents := rfl
@[simp] theorem getF_updDesc (q n : Nat) (f : Desc → Desc) (y : Fld) (e j : Nat) :
    getF (updDesc s q n f) y e j = getF s y e j := rfl
@[simp] theorem flag_updDesc (q n : Nat) (f : Desc → Desc) (y : Fld) (e j : Nat) :
    flag (updDesc s q n f) y e j = flag s y e j := rfl

/-! ## `updSupply` changes `supply` alone -/

@[simp] theorem updSupply_pending (f : Supply → Supply) : (updSupply s f).pending = s.pending := rfl
@[simp] theorem updSupply_tick (f : Supply → Supply) : (updSupply s f).tick = s.tick := rfl
@[simp] theorem updSupply_flds (f : Supply → Supply) : (updSupply s f).flds = s.flds := rfl
@[simp] theorem updSupply_loPend (f : Supply → Supply) : (updSupply s f).loPend = s.loPend := rfl
@[simp] theorem updSupply_rems (f : Supply → Supply) : (updSupply s f).rems = s.rems := rfl
@[simp] theorem updSupply_mem (f : Supply → Supply) : (updSupply s f).mem = s.mem := rfl
@[simp] theorem updSupply_lines (f : Supply → Supply) : (updSupply s f).lines = s.lines := rfl
@[simp] theorem updSupply_stackState (f : Supply → Supply) : (updSupply s f).stackState = s.stackState := rfl
@[simp] theorem updSupply_powers (f : Supply → Supply) : (updSupply s f).powers = s.powers := rfl
@[simp] theorem updSupply_hostMem (f : Supply → Supply) : (updSupply s f).hostMem = s.hostMem := rfl
@[simp] theorem updSupply_out (f : Supply → Supply) : (updSupply s f).out = s.out := rfl
@[simp] theorem updSupply_freeCtr (f : Supply → Supply) : (updSupply s f).freeCtr = s.freeCtr := rfl
@[simp] theorem updSupply_stamp (f : Supply → Supply) : (updSupply s f).stamp = s.stamp := rfl
@[simp] theorem updSupply_tokens (f : Supply → Supply) : (updSupply s f).tokens = s.tokens := rfl
@[simp] theorem updSupply_held (f : Supply → Supply) : (updSupply s f).held = s.held := rfl
@[simp] theorem updSupply_winSel (f : Supply → Supply) : (updSupply s f).winSel = s.winSel := rfl
@[simp] theorem updSupply_qints (f : Supply → Supply) : (updSupply s f).qints = s.qints := rfl
@[simp] theorem updSupply_rints (f : Supply → Supply) : (updSupply s f).rints = s.rints := rfl
@[simp] theorem updSupply_wrrs (f : Supply → Supply) : (updSupply s f).wrrs = s.wrrs := rfl
@[simp] theorem updSupply_descs (f : Supply → Supply) : (updSupply s f).descs = s.descs := rfl
@[simp] theorem updSupply_laneDone (f : Supply → Supply) : (updSupply s f).laneDone = s.laneDone := rfl
@[simp] theorem updSupply_scheds (f : Supply → Supply) : (updSupply s f).scheds = s.scheds := rfl
@[simp] theorem updSupply_shards (f : Supply → Supply) : (updSupply s f).shards = s.shards := rfl
@[simp] theorem updSupply_fifos (f : Supply → Supply) : (updSupply s f).fifos = s.fifos := rfl
@[simp] theorem updSupply_overs (f : Supply → Supply) : (updSupply s f).overs = s.overs := rfl
@[simp] theorem updSupply_streams (f : Supply → Supply) : (updSupply s f).streams = s.streams := rfl
@[simp] theorem updSupply_linkDown (f : Supply → Supply) : (updSupply s f).linkDown = s.linkDown := rfl
@[simp] theorem updSupply_lostCpls (f : Supply → Supply) : (updSupply s f).lostCpls = s.lostCpls := rfl
@[simp] theorem updSupply_bar4 (f : Supply → Supply) : (updSupply s f).bar4 = s.bar4 := rfl
@[simp] theorem updSupply_rstreams (f : Supply → Supply) : (updSupply s f).rstreams = s.rstreams := rfl
@[simp] theorem updSupply_profiles (f : Supply → Supply) : (updSupply s f).profiles = s.profiles := rfl
@[simp] theorem updSupply_samples (f : Supply → Supply) : (updSupply s f).samples = s.samples := rfl
@[simp] theorem updSupply_pages (f : Supply → Supply) : (updSupply s f).pages = s.pages := rfl
@[simp] theorem updSupply_homes (f : Supply → Supply) : (updSupply s f).homes = s.homes := rfl
@[simp] theorem updSupply_moves (f : Supply → Supply) : (updSupply s f).moves = s.moves := rfl
@[simp] theorem updSupply_tierJobs (f : Supply → Supply) : (updSupply s f).tierJobs = s.tierJobs := rfl
@[simp] theorem updSupply_policyOn (f : Supply → Supply) : (updSupply s f).policyOn = s.policyOn := rfl
@[simp] theorem updSupply_partGran (f : Supply → Supply) : (updSupply s f).partGran = s.partGran := rfl
@[simp] theorem updSupply_heldWrites (f : Supply → Supply) : (updSupply s f).heldWrites = s.heldWrites := rfl
@[simp] theorem updSupply_releases (f : Supply → Supply) : (updSupply s f).releases = s.releases := rfl
@[simp] theorem updSupply_objects (f : Supply → Supply) : (updSupply s f).objects = s.objects := rfl
@[simp] theorem updSupply_gens (f : Supply → Supply) : (updSupply s f).gens = s.gens := rfl
@[simp] theorem updSupply_slots (f : Supply → Supply) : (updSupply s f).slots = s.slots := rfl
@[simp] theorem updSupply_windows (f : Supply → Supply) : (updSupply s f).windows = s.windows := rfl
@[simp] theorem updSupply_txFlows (f : Supply → Supply) : (updSupply s f).txFlows = s.txFlows := rfl
@[simp] theorem updSupply_rxFlows (f : Supply → Supply) : (updSupply s f).rxFlows = s.rxFlows := rfl
@[simp] theorem updSupply_ports (f : Supply → Supply) : (updSupply s f).ports = s.ports := rfl
@[simp] theorem updSupply_links (f : Supply → Supply) : (updSupply s f).links = s.links := rfl
@[simp] theorem updSupply_mcSends (f : Supply → Supply) : (updSupply s f).mcSends = s.mcSends := rfl
@[simp] theorem updSupply_mcRecvs (f : Supply → Supply) : (updSupply s f).mcRecvs = s.mcRecvs := rfl
@[simp] theorem updSupply_pruned (f : Supply → Supply) : (updSupply s f).pruned = s.pruned := rfl
@[simp] theorem updSupply_waits (f : Supply → Supply) : (updSupply s f).waits = s.waits := rfl
@[simp] theorem updSupply_routeWrr (f : Supply → Supply) : (updSupply s f).routeWrr = s.routeWrr := rfl
@[simp] theorem updSupply_modTab (f : Supply → Supply) : (updSupply s f).modTab = s.modTab := rfl
@[simp] theorem updSupply_ovrTab (f : Supply → Supply) : (updSupply s f).ovrTab = s.ovrTab := rfl
@[simp] theorem updSupply_mcTab (f : Supply → Supply) : (updSupply s f).mcTab = s.mcTab := rfl
@[simp] theorem updSupply_remoteFenced (f : Supply → Supply) : (updSupply s f).remoteFenced = s.remoteFenced := rfl
@[simp] theorem updSupply_keys (f : Supply → Supply) : (updSupply s f).keys = s.keys := rfl
@[simp] theorem updSupply_keyCtr (f : Supply → Supply) : (updSupply s f).keyCtr = s.keyCtr := rfl
@[simp] theorem updSupply_keySend (f : Supply → Supply) : (updSupply s f).keySend = s.keySend := rfl
@[simp] theorem updSupply_elog (f : Supply → Supply) : (updSupply s f).elog = s.elog := rfl
@[simp] theorem updSupply_noticeId (f : Supply → Supply) : (updSupply s f).noticeId = s.noticeId := rfl
@[simp] theorem updSupply_noticeCache (f : Supply → Supply) : (updSupply s f).noticeCache = s.noticeCache := rfl
@[simp] theorem updSupply_seqs (f : Supply → Supply) : (updSupply s f).seqs = s.seqs := rfl
@[simp] theorem updSupply_pmap (f : Supply → Supply) : (updSupply s f).pmap = s.pmap := rfl
@[simp] theorem updSupply_walks (f : Supply → Supply) : (updSupply s f).walks = s.walks := rfl
@[simp] theorem updSupply_remaps (f : Supply → Supply) : (updSupply s f).remaps = s.remaps := rfl
@[simp] theorem updSupply_rebuilds (f : Supply → Supply) : (updSupply s f).rebuilds = s.rebuilds := rfl
@[simp] theorem updSupply_rings (f : Supply → Supply) : (updSupply s f).rings = s.rings := rfl
@[simp] theorem updSupply_comms (f : Supply → Supply) : (updSupply s f).comms = s.comms := rfl
@[simp] theorem updSupply_calls (f : Supply → Supply) : (updSupply s f).calls = s.calls := rfl
@[simp] theorem updSupply_notes (f : Supply → Supply) : (updSupply s f).notes = s.notes := rfl
@[simp] theorem updSupply_lates (f : Supply → Supply) : (updSupply s f).lates = s.lates := rfl
@[simp] theorem updSupply_serves (f : Supply → Supply) : (updSupply s f).serves = s.serves := rfl
@[simp] theorem updSupply_epochs (f : Supply → Supply) : (updSupply s f).epochs = s.epochs := rfl
@[simp] theorem updSupply_maps (f : Supply → Supply) : (updSupply s f).maps = s.maps := rfl
@[simp] theorem updSupply_extTab (f : Supply → Supply) : (updSupply s f).extTab = s.extTab := rfl
@[simp] theorem updSupply_vmap (f : Supply → Supply) : (updSupply s f).vmap = s.vmap := rfl
@[simp] theorem updSupply_govs (f : Supply → Supply) : (updSupply s f).govs = s.govs := rfl
@[simp] theorem updSupply_hotStep (f : Supply → Supply) : (updSupply s f).hotStep = s.hotStep := rfl
@[simp] theorem updSupply_drains (f : Supply → Supply) : (updSupply s f).drains = s.drains := rfl
@[simp] theorem updSupply_modes (f : Supply → Supply) : (updSupply s f).modes = s.modes := rfl
@[simp] theorem updSupply_psAt (f : Supply → Supply) : (updSupply s f).psAt = s.psAt := rfl
@[simp] theorem updSupply_psWake (f : Supply → Supply) : (updSupply s f).psWake = s.psWake := rfl
@[simp] theorem updSupply_aon (f : Supply → Supply) : (updSupply s f).aon = s.aon := rfl
@[simp] theorem updSupply_swaps (f : Supply → Supply) : (updSupply s f).swaps = s.swaps := rfl
@[simp] theorem updSupply_stopped (f : Supply → Supply) : (updSupply s f).stopped = s.stopped := rfl
@[simp] theorem updSupply_slew (f : Supply → Supply) : (updSupply s f).slew = s.slew := rfl
@[simp] theorem updSupply_aligned (f : Supply → Supply) : (updSupply s f).aligned = s.aligned := rfl
@[simp] theorem updSupply_tickStop (f : Supply → Supply) : (updSupply s f).tickStop = s.tickStop := rfl
@[simp] theorem updSupply_hbLast (f : Supply → Supply) : (updSupply s f).hbLast = s.hbLast := rfl
@[simp] theorem updSupply_pcs (f : Supply → Supply) : (updSupply s f).pcs = s.pcs := rfl
@[simp] theorem updSupply_pcRetired (f : Supply → Supply) : (updSupply s f).pcRetired = s.pcRetired := rfl
@[simp] theorem updSupply_sets (f : Supply → Supply) : (updSupply s f).sets = s.sets := rfl
@[simp] theorem updSupply_images (f : Supply → Supply) : (updSupply s f).images = s.images := rfl
@[simp] theorem updSupply_wardGen (f : Supply → Supply) : (updSupply s f).wardGen = s.wardGen := rfl
@[simp] theorem updSupply_wardMem (f : Supply → Supply) : (updSupply s f).wardMem = s.wardMem := rfl
@[simp] theorem updSupply_conns (f : Supply → Supply) : (updSupply s f).conns = s.conns := rfl
@[simp] theorem updSupply_paused (f : Supply → Supply) : (updSupply s f).paused = s.paused := rfl
@[simp] theorem updSupply_opWaits (f : Supply → Supply) : (updSupply s f).opWaits = s.opWaits := rfl
@[simp] theorem updSupply_staged (f : Supply → Supply) : (updSupply s f).staged = s.staged := rfl
@[simp] theorem updSupply_fwSlots (f : Supply → Supply) : (updSupply s f).fwSlots = s.fwSlots := rfl
@[simp] theorem updSupply_bootAt (f : Supply → Supply) : (updSupply s f).bootAt = s.bootAt := rfl
@[simp] theorem updSupply_bootBad (f : Supply → Supply) : (updSupply s f).bootBad = s.bootBad := rfl
@[simp] theorem updSupply_sessions (f : Supply → Supply) : (updSupply s f).sessions = s.sessions := rfl
@[simp] theorem updSupply_sealBytes (f : Supply → Supply) : (updSupply s f).sealBytes = s.sealBytes := rfl
@[simp] theorem updSupply_rlog (f : Supply → Supply) : (updSupply s f).rlog = s.rlog := rfl
@[simp] theorem updSupply_bists (f : Supply → Supply) : (updSupply s f).bists = s.bists := rfl
@[simp] theorem updSupply_margins (f : Supply → Supply) : (updSupply s f).margins = s.margins := rfl
@[simp] theorem updSupply_remargin (f : Supply → Supply) : (updSupply s f).remargin = s.remargin := rfl
@[simp] theorem updSupply_spares (f : Supply → Supply) : (updSupply s f).spares = s.spares := rfl
@[simp] theorem updSupply_rows (f : Supply → Supply) : (updSupply s f).rows = s.rows := rfl
@[simp] theorem updSupply_slewCnt (f : Supply → Supply) : (updSupply s f).slewCnt = s.slewCnt := rfl
@[simp] theorem updSupply_copyAsked (f : Supply → Supply) : (updSupply s f).copyAsked = s.copyAsked := rfl
@[simp] theorem updSupply_deadToks (f : Supply → Supply) : (updSupply s f).deadToks = s.deadToks := rfl
@[simp] theorem updSupply_reqs (f : Supply → Supply) : (updSupply s f).reqs = s.reqs := rfl
@[simp] theorem updSupply_deficits (f : Supply → Supply) : (updSupply s f).deficits = s.deficits := rfl
@[simp] theorem updSupply_view (f : Supply → Supply) : (updSupply s f).view = s.view := rfl
@[simp] theorem updSupply_walkq (f : Supply → Supply) : (updSupply s f).walkq = s.walkq := rfl
@[simp] theorem updSupply_bankTurn (f : Supply → Supply) : (updSupply s f).bankTurn = s.bankTurn := rfl
@[simp] theorem updSupply_idents (f : Supply → Supply) : (updSupply s f).idents = s.idents := rfl
@[simp] theorem getF_updSupply (f : Supply → Supply) (y : Fld) (e j : Nat) :
    getF (updSupply s f) y e j = getF s y e j := rfl
@[simp] theorem flag_updSupply (f : Supply → Supply) (y : Fld) (e j : Nat) :
    flag (updSupply s f) y e j = flag s y e j := rfl

/-! ## `updGov` changes `govs` alone -/

@[simp] theorem updGov_pending (d : Nat) (f : Gov → Gov) : (updGov s d f).pending = s.pending := rfl
@[simp] theorem updGov_tick (d : Nat) (f : Gov → Gov) : (updGov s d f).tick = s.tick := rfl
@[simp] theorem updGov_flds (d : Nat) (f : Gov → Gov) : (updGov s d f).flds = s.flds := rfl
@[simp] theorem updGov_loPend (d : Nat) (f : Gov → Gov) : (updGov s d f).loPend = s.loPend := rfl
@[simp] theorem updGov_rems (d : Nat) (f : Gov → Gov) : (updGov s d f).rems = s.rems := rfl
@[simp] theorem updGov_mem (d : Nat) (f : Gov → Gov) : (updGov s d f).mem = s.mem := rfl
@[simp] theorem updGov_lines (d : Nat) (f : Gov → Gov) : (updGov s d f).lines = s.lines := rfl
@[simp] theorem updGov_stackState (d : Nat) (f : Gov → Gov) : (updGov s d f).stackState = s.stackState := rfl
@[simp] theorem updGov_powers (d : Nat) (f : Gov → Gov) : (updGov s d f).powers = s.powers := rfl
@[simp] theorem updGov_hostMem (d : Nat) (f : Gov → Gov) : (updGov s d f).hostMem = s.hostMem := rfl
@[simp] theorem updGov_out (d : Nat) (f : Gov → Gov) : (updGov s d f).out = s.out := rfl
@[simp] theorem updGov_freeCtr (d : Nat) (f : Gov → Gov) : (updGov s d f).freeCtr = s.freeCtr := rfl
@[simp] theorem updGov_stamp (d : Nat) (f : Gov → Gov) : (updGov s d f).stamp = s.stamp := rfl
@[simp] theorem updGov_tokens (d : Nat) (f : Gov → Gov) : (updGov s d f).tokens = s.tokens := rfl
@[simp] theorem updGov_held (d : Nat) (f : Gov → Gov) : (updGov s d f).held = s.held := rfl
@[simp] theorem updGov_winSel (d : Nat) (f : Gov → Gov) : (updGov s d f).winSel = s.winSel := rfl
@[simp] theorem updGov_qints (d : Nat) (f : Gov → Gov) : (updGov s d f).qints = s.qints := rfl
@[simp] theorem updGov_rints (d : Nat) (f : Gov → Gov) : (updGov s d f).rints = s.rints := rfl
@[simp] theorem updGov_wrrs (d : Nat) (f : Gov → Gov) : (updGov s d f).wrrs = s.wrrs := rfl
@[simp] theorem updGov_descs (d : Nat) (f : Gov → Gov) : (updGov s d f).descs = s.descs := rfl
@[simp] theorem updGov_laneDone (d : Nat) (f : Gov → Gov) : (updGov s d f).laneDone = s.laneDone := rfl
@[simp] theorem updGov_scheds (d : Nat) (f : Gov → Gov) : (updGov s d f).scheds = s.scheds := rfl
@[simp] theorem updGov_shards (d : Nat) (f : Gov → Gov) : (updGov s d f).shards = s.shards := rfl
@[simp] theorem updGov_fifos (d : Nat) (f : Gov → Gov) : (updGov s d f).fifos = s.fifos := rfl
@[simp] theorem updGov_overs (d : Nat) (f : Gov → Gov) : (updGov s d f).overs = s.overs := rfl
@[simp] theorem updGov_streams (d : Nat) (f : Gov → Gov) : (updGov s d f).streams = s.streams := rfl
@[simp] theorem updGov_linkDown (d : Nat) (f : Gov → Gov) : (updGov s d f).linkDown = s.linkDown := rfl
@[simp] theorem updGov_lostCpls (d : Nat) (f : Gov → Gov) : (updGov s d f).lostCpls = s.lostCpls := rfl
@[simp] theorem updGov_bar4 (d : Nat) (f : Gov → Gov) : (updGov s d f).bar4 = s.bar4 := rfl
@[simp] theorem updGov_rstreams (d : Nat) (f : Gov → Gov) : (updGov s d f).rstreams = s.rstreams := rfl
@[simp] theorem updGov_profiles (d : Nat) (f : Gov → Gov) : (updGov s d f).profiles = s.profiles := rfl
@[simp] theorem updGov_samples (d : Nat) (f : Gov → Gov) : (updGov s d f).samples = s.samples := rfl
@[simp] theorem updGov_pages (d : Nat) (f : Gov → Gov) : (updGov s d f).pages = s.pages := rfl
@[simp] theorem updGov_homes (d : Nat) (f : Gov → Gov) : (updGov s d f).homes = s.homes := rfl
@[simp] theorem updGov_moves (d : Nat) (f : Gov → Gov) : (updGov s d f).moves = s.moves := rfl
@[simp] theorem updGov_tierJobs (d : Nat) (f : Gov → Gov) : (updGov s d f).tierJobs = s.tierJobs := rfl
@[simp] theorem updGov_policyOn (d : Nat) (f : Gov → Gov) : (updGov s d f).policyOn = s.policyOn := rfl
@[simp] theorem updGov_partGran (d : Nat) (f : Gov → Gov) : (updGov s d f).partGran = s.partGran := rfl
@[simp] theorem updGov_heldWrites (d : Nat) (f : Gov → Gov) : (updGov s d f).heldWrites = s.heldWrites := rfl
@[simp] theorem updGov_releases (d : Nat) (f : Gov → Gov) : (updGov s d f).releases = s.releases := rfl
@[simp] theorem updGov_objects (d : Nat) (f : Gov → Gov) : (updGov s d f).objects = s.objects := rfl
@[simp] theorem updGov_gens (d : Nat) (f : Gov → Gov) : (updGov s d f).gens = s.gens := rfl
@[simp] theorem updGov_slots (d : Nat) (f : Gov → Gov) : (updGov s d f).slots = s.slots := rfl
@[simp] theorem updGov_windows (d : Nat) (f : Gov → Gov) : (updGov s d f).windows = s.windows := rfl
@[simp] theorem updGov_txFlows (d : Nat) (f : Gov → Gov) : (updGov s d f).txFlows = s.txFlows := rfl
@[simp] theorem updGov_rxFlows (d : Nat) (f : Gov → Gov) : (updGov s d f).rxFlows = s.rxFlows := rfl
@[simp] theorem updGov_ports (d : Nat) (f : Gov → Gov) : (updGov s d f).ports = s.ports := rfl
@[simp] theorem updGov_links (d : Nat) (f : Gov → Gov) : (updGov s d f).links = s.links := rfl
@[simp] theorem updGov_mcSends (d : Nat) (f : Gov → Gov) : (updGov s d f).mcSends = s.mcSends := rfl
@[simp] theorem updGov_mcRecvs (d : Nat) (f : Gov → Gov) : (updGov s d f).mcRecvs = s.mcRecvs := rfl
@[simp] theorem updGov_pruned (d : Nat) (f : Gov → Gov) : (updGov s d f).pruned = s.pruned := rfl
@[simp] theorem updGov_waits (d : Nat) (f : Gov → Gov) : (updGov s d f).waits = s.waits := rfl
@[simp] theorem updGov_routeWrr (d : Nat) (f : Gov → Gov) : (updGov s d f).routeWrr = s.routeWrr := rfl
@[simp] theorem updGov_modTab (d : Nat) (f : Gov → Gov) : (updGov s d f).modTab = s.modTab := rfl
@[simp] theorem updGov_ovrTab (d : Nat) (f : Gov → Gov) : (updGov s d f).ovrTab = s.ovrTab := rfl
@[simp] theorem updGov_mcTab (d : Nat) (f : Gov → Gov) : (updGov s d f).mcTab = s.mcTab := rfl
@[simp] theorem updGov_remoteFenced (d : Nat) (f : Gov → Gov) : (updGov s d f).remoteFenced = s.remoteFenced := rfl
@[simp] theorem updGov_keys (d : Nat) (f : Gov → Gov) : (updGov s d f).keys = s.keys := rfl
@[simp] theorem updGov_keyCtr (d : Nat) (f : Gov → Gov) : (updGov s d f).keyCtr = s.keyCtr := rfl
@[simp] theorem updGov_keySend (d : Nat) (f : Gov → Gov) : (updGov s d f).keySend = s.keySend := rfl
@[simp] theorem updGov_elog (d : Nat) (f : Gov → Gov) : (updGov s d f).elog = s.elog := rfl
@[simp] theorem updGov_noticeId (d : Nat) (f : Gov → Gov) : (updGov s d f).noticeId = s.noticeId := rfl
@[simp] theorem updGov_noticeCache (d : Nat) (f : Gov → Gov) : (updGov s d f).noticeCache = s.noticeCache := rfl
@[simp] theorem updGov_seqs (d : Nat) (f : Gov → Gov) : (updGov s d f).seqs = s.seqs := rfl
@[simp] theorem updGov_pmap (d : Nat) (f : Gov → Gov) : (updGov s d f).pmap = s.pmap := rfl
@[simp] theorem updGov_walks (d : Nat) (f : Gov → Gov) : (updGov s d f).walks = s.walks := rfl
@[simp] theorem updGov_remaps (d : Nat) (f : Gov → Gov) : (updGov s d f).remaps = s.remaps := rfl
@[simp] theorem updGov_rebuilds (d : Nat) (f : Gov → Gov) : (updGov s d f).rebuilds = s.rebuilds := rfl
@[simp] theorem updGov_rings (d : Nat) (f : Gov → Gov) : (updGov s d f).rings = s.rings := rfl
@[simp] theorem updGov_comms (d : Nat) (f : Gov → Gov) : (updGov s d f).comms = s.comms := rfl
@[simp] theorem updGov_calls (d : Nat) (f : Gov → Gov) : (updGov s d f).calls = s.calls := rfl
@[simp] theorem updGov_notes (d : Nat) (f : Gov → Gov) : (updGov s d f).notes = s.notes := rfl
@[simp] theorem updGov_lates (d : Nat) (f : Gov → Gov) : (updGov s d f).lates = s.lates := rfl
@[simp] theorem updGov_serves (d : Nat) (f : Gov → Gov) : (updGov s d f).serves = s.serves := rfl
@[simp] theorem updGov_epochs (d : Nat) (f : Gov → Gov) : (updGov s d f).epochs = s.epochs := rfl
@[simp] theorem updGov_maps (d : Nat) (f : Gov → Gov) : (updGov s d f).maps = s.maps := rfl
@[simp] theorem updGov_extTab (d : Nat) (f : Gov → Gov) : (updGov s d f).extTab = s.extTab := rfl
@[simp] theorem updGov_vmap (d : Nat) (f : Gov → Gov) : (updGov s d f).vmap = s.vmap := rfl
@[simp] theorem updGov_supply (d : Nat) (f : Gov → Gov) : (updGov s d f).supply = s.supply := rfl
@[simp] theorem updGov_hotStep (d : Nat) (f : Gov → Gov) : (updGov s d f).hotStep = s.hotStep := rfl
@[simp] theorem updGov_drains (d : Nat) (f : Gov → Gov) : (updGov s d f).drains = s.drains := rfl
@[simp] theorem updGov_modes (d : Nat) (f : Gov → Gov) : (updGov s d f).modes = s.modes := rfl
@[simp] theorem updGov_psAt (d : Nat) (f : Gov → Gov) : (updGov s d f).psAt = s.psAt := rfl
@[simp] theorem updGov_psWake (d : Nat) (f : Gov → Gov) : (updGov s d f).psWake = s.psWake := rfl
@[simp] theorem updGov_aon (d : Nat) (f : Gov → Gov) : (updGov s d f).aon = s.aon := rfl
@[simp] theorem updGov_swaps (d : Nat) (f : Gov → Gov) : (updGov s d f).swaps = s.swaps := rfl
@[simp] theorem updGov_stopped (d : Nat) (f : Gov → Gov) : (updGov s d f).stopped = s.stopped := rfl
@[simp] theorem updGov_slew (d : Nat) (f : Gov → Gov) : (updGov s d f).slew = s.slew := rfl
@[simp] theorem updGov_aligned (d : Nat) (f : Gov → Gov) : (updGov s d f).aligned = s.aligned := rfl
@[simp] theorem updGov_tickStop (d : Nat) (f : Gov → Gov) : (updGov s d f).tickStop = s.tickStop := rfl
@[simp] theorem updGov_hbLast (d : Nat) (f : Gov → Gov) : (updGov s d f).hbLast = s.hbLast := rfl
@[simp] theorem updGov_pcs (d : Nat) (f : Gov → Gov) : (updGov s d f).pcs = s.pcs := rfl
@[simp] theorem updGov_pcRetired (d : Nat) (f : Gov → Gov) : (updGov s d f).pcRetired = s.pcRetired := rfl
@[simp] theorem updGov_sets (d : Nat) (f : Gov → Gov) : (updGov s d f).sets = s.sets := rfl
@[simp] theorem updGov_images (d : Nat) (f : Gov → Gov) : (updGov s d f).images = s.images := rfl
@[simp] theorem updGov_wardGen (d : Nat) (f : Gov → Gov) : (updGov s d f).wardGen = s.wardGen := rfl
@[simp] theorem updGov_wardMem (d : Nat) (f : Gov → Gov) : (updGov s d f).wardMem = s.wardMem := rfl
@[simp] theorem updGov_conns (d : Nat) (f : Gov → Gov) : (updGov s d f).conns = s.conns := rfl
@[simp] theorem updGov_paused (d : Nat) (f : Gov → Gov) : (updGov s d f).paused = s.paused := rfl
@[simp] theorem updGov_opWaits (d : Nat) (f : Gov → Gov) : (updGov s d f).opWaits = s.opWaits := rfl
@[simp] theorem updGov_staged (d : Nat) (f : Gov → Gov) : (updGov s d f).staged = s.staged := rfl
@[simp] theorem updGov_fwSlots (d : Nat) (f : Gov → Gov) : (updGov s d f).fwSlots = s.fwSlots := rfl
@[simp] theorem updGov_bootAt (d : Nat) (f : Gov → Gov) : (updGov s d f).bootAt = s.bootAt := rfl
@[simp] theorem updGov_bootBad (d : Nat) (f : Gov → Gov) : (updGov s d f).bootBad = s.bootBad := rfl
@[simp] theorem updGov_sessions (d : Nat) (f : Gov → Gov) : (updGov s d f).sessions = s.sessions := rfl
@[simp] theorem updGov_sealBytes (d : Nat) (f : Gov → Gov) : (updGov s d f).sealBytes = s.sealBytes := rfl
@[simp] theorem updGov_rlog (d : Nat) (f : Gov → Gov) : (updGov s d f).rlog = s.rlog := rfl
@[simp] theorem updGov_bists (d : Nat) (f : Gov → Gov) : (updGov s d f).bists = s.bists := rfl
@[simp] theorem updGov_margins (d : Nat) (f : Gov → Gov) : (updGov s d f).margins = s.margins := rfl
@[simp] theorem updGov_remargin (d : Nat) (f : Gov → Gov) : (updGov s d f).remargin = s.remargin := rfl
@[simp] theorem updGov_spares (d : Nat) (f : Gov → Gov) : (updGov s d f).spares = s.spares := rfl
@[simp] theorem updGov_rows (d : Nat) (f : Gov → Gov) : (updGov s d f).rows = s.rows := rfl
@[simp] theorem updGov_slewCnt (d : Nat) (f : Gov → Gov) : (updGov s d f).slewCnt = s.slewCnt := rfl
@[simp] theorem updGov_copyAsked (d : Nat) (f : Gov → Gov) : (updGov s d f).copyAsked = s.copyAsked := rfl
@[simp] theorem updGov_deadToks (d : Nat) (f : Gov → Gov) : (updGov s d f).deadToks = s.deadToks := rfl
@[simp] theorem updGov_reqs (d : Nat) (f : Gov → Gov) : (updGov s d f).reqs = s.reqs := rfl
@[simp] theorem updGov_deficits (d : Nat) (f : Gov → Gov) : (updGov s d f).deficits = s.deficits := rfl
@[simp] theorem updGov_view (d : Nat) (f : Gov → Gov) : (updGov s d f).view = s.view := rfl
@[simp] theorem updGov_walkq (d : Nat) (f : Gov → Gov) : (updGov s d f).walkq = s.walkq := rfl
@[simp] theorem updGov_bankTurn (d : Nat) (f : Gov → Gov) : (updGov s d f).bankTurn = s.bankTurn := rfl
@[simp] theorem updGov_idents (d : Nat) (f : Gov → Gov) : (updGov s d f).idents = s.idents := rfl
@[simp] theorem getF_updGov (d : Nat) (f : Gov → Gov) (y : Fld) (e j : Nat) :
    getF (updGov s d f) y e j = getF s y e j := rfl
@[simp] theorem flag_updGov (d : Nat) (f : Gov → Gov) (y : Fld) (e j : Nat) :
    flag (updGov s d f) y e j = flag s y e j := rfl

end Sys2Proof.Laws
end

