-- ==== Sys2Proof/Laws/Access.lean ====
section
/-! SUPPORT. How an access ends: done where it reaches its registers and its sender may write them, and what happens in every
other case (R76, R77, R483, R598, R603, R634). -/

namespace Sys2Proof.Laws

open Sys2Proof Sys2Proof.Machine

variable {s : State} {src : Src} {die off v : Nat} {k : State → State}

/-! ## What an access wakes (R488) -/

/-- Only a compute die is woken. -/
theorem wakeByAccess_notComp (h : isComp die = false) : wakeByAccess s src die = s := by
  cases src <;> simp [wakeByAccess, wakeFrom, h]

/-- A die in White stays as it is. -/
theorem wakeByAccess_white (h : powerOf s die = 0) : wakeByAccess s src die = s := by
  cases src <;> simp [wakeByAccess, wakeFrom, h]

/-- An access of the management controller wakes nothing. -/
theorem wakeByAccess_mgmt : wakeByAccess s .mgmt die = s := rfl

/-- A field that no wake writes. -/
def offWake (x : Fld) : Bool :=
  decide (x.off < 2 ^ 25) && decide (x.lo < 32) &&
    ([F.GV_STATE_PS, F.AON_WAKE_LAST_SRC, F.AON_WAKE_LAST_DIE, F.AON_WAKE_LAST_PORT, F.AON_WAKE_TIME_COUNT] : List Fld).all
      (fun f => !(x.off == f.off && x.lo == f.lo))

/-- A write of a field that a wake writes leaves the other fields, and the table's form. -/
theorem setF_offWake {t : State} {f x : Fld} {d i v e j : Nat} (hx : offWake x = true)
    (hf : f ∈ ([F.GV_STATE_PS, F.AON_WAKE_LAST_SRC, F.AON_WAKE_LAST_DIE, F.AON_WAKE_LAST_PORT, F.AON_WAKE_TIME_COUNT] : List Fld))
    (h : tabWf t.flds = true ∧ getF t x e j = getF s x e j) :
    tabWf (setF t f d i v).flds = true ∧ getF (setF t f d i v) x e j = getF s x e j := by
  simp only [offWake, Bool.and_eq_true, decide_eq_true_eq] at hx
  have hn := List.all_eq_true.mp hx.2 f hf
  have hb : f.off < 2 ^ 25 ∧ f.lo < 32 := by
    simp only [List.mem_cons, List.mem_nil_iff, or_false] at hf
    rcases hf with rfl | rfl | rfl | rfl | rfl <;> decide
  refine ⟨tabWf_setF h.1 f d i v, ?_⟩
  rw [getF_setF_other h.1 f x d i v e j hb.1 hx.1.1 hb.2 hx.1.2 (fun e => by simp [e.1, e.2] at hn)]
  exact h.2

/-- A wake leaves every field that it does not write. -/
theorem getF_wakeFrom {x : Fld} {n e j : Nat} (h : tabWf s.flds = true) (hx : offWake x = true) :
    getF (wakeFrom s n die) x e j = getF s x e j := by
  have note : ∀ t : State, tabWf t.flds = true ∧ getF t x e j = getF s x e j →
      tabWf (recordWake t n die 0).flds = true ∧ getF (recordWake t n die 0) x e j = getF s x e j := fun t ht =>
    setF_offWake hx (by simp) (setF_offWake hx (by simp) (setF_offWake hx (by simp) (setF_offWake hx (by simp) ht)))
  have power : ∀ (t : State) (p : Nat), tabWf t.flds = true ∧ getF t x e j = getF s x e j →
      tabWf (setPower t die p).flds = true ∧ getF (setPower t die p) x e j = getF s x e j := fun t p ht =>
    setF_offWake hx (by simp) ht
  unfold wakeFrom
  split
  · rfl
  · extract_lets busy nt
    have hnt : ∀ t : State, tabWf t.flds = true ∧ getF t x e j = getF s x e j → getF (nt t) x e j = getF s x e j := by
      intro t ht
      show getF (if busy then t else recordWake t n die 0) x e j = _
      split
      · exact ht.2
      · exact (note t ht).2
    split
    · exact hnt _ (power _ 0 ⟨h, rfl⟩)
    · split
      · rfl
      · exact hnt _ ⟨h, rfl⟩
    · exact hnt _ (power _ 4 ⟨h, rfl⟩)
    · rfl

/-- An access leaves every field that a wake does not write. -/
theorem getF_wakeByAccess {x : Fld} {e j : Nat} (h : tabWf s.flds = true) (hx : offWake x = true) :
    getF (wakeByAccess s src die) x e j = getF s x e j := by
  cases src with
  | fn f => exact getF_wakeFrom h hx
  | mgmt => rfl

/-- A wake leaves the owners of queues. -/
theorem doorbellQueue_wakeFrom {f n : Nat} (h : tabWf s.flds = true) : doorbellQueue (wakeFrom s n die) f off = doorbellQueue s f off := by
  unfold doorbellQueue fnQueue
  simp only [getF_wakeFrom h (by decide : offWake F.QUE_GRP_OWN_OWNER = true)]

/-- The managing die is a fabric die. -/
theorem isComp_die04 : isComp (die04 s) = false := by
  unfold die04; split <;> rfl

/-! ## Writes -/

/-- A write that reaches a die is done, and wakes the die first. -/
theorem gate_reaches (h : reaches s die) : gate s src die off v k = k (wakeByAccess s src die) := by
  obtain ⟨h1, h2, h3, h4⟩ := h
  simp [gate, h2, h3, h4, Nat.not_le.mpr h1]

/-- A write that reaches a die which is awake is done. -/
theorem gate_awake (h : reaches s die) (hw : wakeByAccess s src die = s) : gate s src die off v k = k s := by
  rw [gate_reaches h, hw]

/-- A write in Black does nothing. -/
theorem gate_black (h : s.supply.phase ≥ 3) : gate s src die off v k = s := if_pos h

/-- A function's write to a fenced die is dropped and logged. -/
theorem gate_fenced {f : Nat} (h : s.supply.phase < 3) (hf : dieFenced s die = true) :
    gate s (.fn f) die off v k = logErr s f WINDOW_FENCED die := by
  simp [gate, hf, Nat.not_le.mpr h]

/-- A write to a die in Charcoal is ignored, and wakes the die. -/
theorem gate_charcoal (h : s.supply.phase < 3) (hf : dieFenced s die = false) (hc : inCharcoal s die = true) :
    gate s src die off v k = wakeByAccess s src die := by
  simp [gate, hf, hc, Nat.not_le.mpr h]

/-- A write to a die whose core clock is forced is held. -/
theorem gate_forced (h : s.supply.phase < 3) (hf : dieFenced s die = false) (hc : inCharcoal s die = false)
    (hk : coreForced s die = true) : gate s src die off v k = { s with heldWrites := s.heldWrites ++ [⟨die, src, off, v⟩] } := by
  simp [gate, hf, hc, hk, Nat.not_le.mpr h]

/-- A physical function or the management controller writes as the die lets it. -/
theorem pfWrite_pf (hp : isPfSrc src = true) : pfWrite s src die off v k = gate s src die off v k := by
  cases src with
  | fn f => simp only [isPfSrc] at hp; simp [pfWrite, hp]
  | mgmt => rfl

/-- A virtual function has no window onto these registers. -/
theorem pfWrite_vf (hp : isPfSrc src = false) : pfWrite s src die off v k = s := by
  cases src with
  | fn f => simp only [isPfSrc] at hp; simp [pfWrite, hp]
  | mgmt => cases hp

/-- A write of a physical function or of the management controller that reaches its die is done. -/
theorem pfWrite_reaches (h : reaches s die) (hp : isPfSrc src = true) : pfWrite s src die off v k = k (wakeByAccess s src die) := by
  rw [pfWrite_pf hp, gate_reaches h]

/-- A write of a physical function or of the management controller that reaches a die which is awake is done. -/
theorem pfWrite_awake (h : reaches s die) (hp : isPfSrc src = true) (hw : wakeByAccess s src die = s) : pfWrite s src die off v k = k s := by
  rw [pfWrite_reaches h hp, hw]

/-- The owner writes its resource. -/
theorem ownedWrite_may {o : Option Nat} {q : Option Nat} (h : mayWrite src o) : ownedWrite s src o off q k = k s := by
  obtain rfl | ⟨f, rfl, h⟩ := h
  · rfl
  · obtain rfl | ⟨rfl, hp⟩ := h
    · simp [ownedWrite]
    · simp [ownedWrite, hp]

/-- A physical function that writes what another owns changes nothing and is logged. -/
theorem ownedWrite_other {f o : Nat} {q : Option Nat} (h : o ≠ f) (hp : isPF f = true) :
    ownedWrite s (.fn f) (some o) off q k = logErr s f NOT_OWNED off q := by
  simp [ownedWrite, h, hp]

/-- A read with an effect that reaches its die is done. -/
theorem readGate_reaches (h : reaches s die) : readGate s src die k = k (wakeByAccess s src die) := by
  obtain ⟨_, h2, h3, h4⟩ := h
  simp [readGate, h2, h3, h4]

end Sys2Proof.Laws
end

