-- ==== Sys2Proof/Laws/KeepOps.lean ====
section
/-! SUPPORT. What the operations of descriptors, the links and the collectives keep (see Laws/Keep.lean), one lemma an operation. -/

namespace Sys2Proof.Laws

open Sys2Proof Sys2Proof.Machine

variable {lasting calm dry : Bool} {r s t : State} {α β γ : Type}

theorem keeps_addF {s : State} {f : Fld} {die : Nat} {i : Nat} {k : Nat} (hs : Kept lasting calm dry r s) (hf : apart f = true) :
    Kept lasting calm dry r (addF s f die i k) := by
  unfold addF
  exact (keeps_setF hs hf)

theorem keeps_addW {s : State} {f : Fld} {die : Nat} {i : Nat} {k : Nat} (hs : Kept lasting calm dry r s) (hf : apart f = true) :
    Kept lasting calm dry r (addW s f die i k) := by
  unfold addW
  exact (keeps_setF hs hf)

theorem keeps_addD {s : State} {f : Fld} {die : Nat} {i : Nat} {k : Nat} {div : Nat} (hs : Kept lasting calm dry r s) (hf :
    apart f = true) :
    Kept lasting calm dry r (addD s f die i k div) := by
  unfold addD
  extract_lets k1 t2
  exact (keeps_addF (keeps_mk (keeps_at hs)) hf)

theorem keeps_subF {s : State} {f : Fld} {die : Nat} {i : Nat} {k : Nat} (hs : Kept lasting calm dry r s) (hf : apart f = true) :
    Kept lasting calm dry r (subF s f die i k) := by
  unfold subF
  exact (keeps_setF hs hf)

theorem keeps_clearF {s : State} {f : Fld} {die : Nat} {i : Nat} (hs : Kept lasting calm dry r s) (hf : apart f = true) :
    Kept lasting calm dry r (clearF s f die i) := by
  unfold clearF
  exact (keeps_setF (keeps_mk (keeps_at hs)) hf)

theorem keeps_clearAll {s : State} {fs : List Fld} {die : Nat} {i : Nat} (hs : Kept lasting calm dry r s) (hfs : ∀ f ∈ fs,
    apart f = true) :
    Kept lasting calm dry r (clearAll s fs die i) := by
  unfold clearAll
  exact (keeps_foldl_mem hs (fun _ _ m2 h1 => (keeps_clearF h1 (hfs _ m2))))

theorem keeps_emit {s : State} {o : Output} (hs : Kept lasting calm dry r s) :
    Kept lasting calm dry r (emit s o) := by
  unfold emit
  exact (keeps_mk (keeps_at hs))

theorem keeps_freshFree {s : State} (hs : Kept lasting calm dry r s) :
    KeptQ lasting calm dry r (freshFree s) := by
  unfold freshFree
  exact (keepsQ_mk (keeps_mk (keeps_at hs)))

theorem keeps_hostWrite {s : State} {port : Nat} {a : Nat} {bs : Bytes} (hs : Kept lasting calm dry r s) :
    Kept lasting calm dry r (hostWrite s port a bs) := by
  unfold hostWrite
  exact (keeps_mk (keeps_hostMem hs (wf_writeBytes _ _ (keeps_wfHost hs))))

theorem keeps_logErr {s : State} {fn : Nat} {code : Nat} {detail : Nat} {queue : Option Nat} (hs : Kept lasting calm dry r s) :
    Kept lasting calm dry r (logErr s fn code detail queue) := by
  unfold logErr
  extract_lets b1 t2 h3 s4
  have h5 : Kept lasting calm dry r s4 := (keeps_hostWrite hs)
  refine keeps_ite ?_ ?_
  · exact hs
  · refine keeps_ite ?_ ?_
    · exact (keeps_addF hs rfl)
    · exact (keeps_emit (keeps_addW h5 rfl))

theorem keeps_markLines {s : State} {a : Nat} {n : Nat} {cause : Nat} (hs : Kept lasting calm dry r s) :
    Kept lasting calm dry r (markLines s a n cause) := by
  unfold markLines
  extract_lets l1 h2 k3 r4 m5
  exact (keeps_mk (keeps_at hs))

theorem keeps_physWrite {s : State} {a : Nat} {bs : Bytes} {cause : Nat} (hs : Kept lasting calm false r s) :
    Kept lasting calm false r (physWrite s a bs cause) := by
  unfold physWrite
  refine keeps_ite ?_ ?_
  · exact hs
  · exact (keeps_markLines (keeps_mk (keeps_mem hs (wf_writeBytes _ _ (keeps_wfMem hs)))))

theorem keeps_bumpGen {s : State} {die : Nat} {sp : Span} (hs : Kept lasting calm dry r s) :
    Kept lasting calm dry r (bumpGen s die sp) := by
  unfold bumpGen
  split
  · refine keeps_ite ?_ ?_
    · exact (keeps_mk (keeps_at hs))
    · exact hs
  · exact hs

theorem keeps_touchHome {s : State} {o : Option Nat} (hs : Kept lasting calm dry r s) :
    Kept lasting calm dry r (touchHome s o) := by
  unfold touchHome
  split
  · extract_lets s1
    exact (keeps_mk (keeps_at hs))
  · exact hs

theorem keeps_touchRead {s : State} {fn : Nat} {va : Nat} {len : Nat} (hs : Kept lasting calm dry r s) :
    Kept lasting calm dry r (touchRead s fn va len) := by
  unfold touchRead
  exact (keeps_foldl hs (fun _ _ h1 => (keeps_touchHome h1)))

theorem keeps_markDirty {s : State} {a : Nat} {n : Nat} (hs : Kept lasting calm dry r s) :
    Kept lasting calm dry r (markDirty s a n) := by
  unfold markDirty
  exact (keeps_mk (keeps_at hs))

theorem keeps_writeSpans {s : State} {die : Nat} {cause : Nat} {a : List (Option Span)} {a4 : Bytes} (hs : Kept lasting calm
    false r s) :
    Kept lasting calm false r (writeSpans s die cause a a4) := by
  induction a generalizing s a4 with
  | nil => exact hs
  | cons x l ih =>
    cases x with
    | none => exact ih hs
    | some sp =>
      have h := keeps_touchHome (o := sp.home) (keeps_bumpGen (die := die) (sp := sp) (keeps_physWrite (a := sp.addr) (bs :=
          a4.take sp.len) (cause := cause) hs))
      exact ih (keeps_ite (keeps_markDirty h) h)

theorem keeps_jobWrite {s : State} {die : Nat} {fn : Nat} {va : Nat} {bs : Bytes} {cause : Nat} (hs : Kept lasting calm false r s) :
    KeptP lasting calm false r (jobWrite s die fn va bs cause) := by
  unfold jobWrite
  extract_lets s1
  split
  · exact (keepsP_mk hs)
  · exact (keepsP_mk (keeps_writeSpans hs))

theorem keeps_setTok {s : State} {die : Nat} {tok : Nat} {v : Word} (hs : Kept lasting calm dry r s) :
    Kept lasting calm dry r (setTok s die tok v) := by
  unfold setTok
  exact (keeps_mk (keeps_tokens hs (tabWf_tput _ _ _ (keeps_wfTokens hs))))

theorem keeps_setFifo {s : State} {die : Nat} {st : Nat} {l : List Micro} (hs : Kept lasting calm dry r s) :
    Kept lasting calm dry r (setFifo s die st l) := by
  unfold setFifo
  exact (keeps_mk (keeps_at hs))

theorem keeps_releaseAt {s : State} {die : Nat} {st : Nat} (hs : Kept lasting calm dry r s) :
    Kept lasting calm dry r (releaseAt s die st) := by
  unfold releaseAt
  split
  · split
    · refine keeps_ite ?_ ?_
      · exact (keeps_setFifo hs)
      · exact hs
    · exact hs
  · exact hs

theorem keeps_releaseWaiters {s : State} {die : Nat} (hs : Kept lasting calm dry r s) :
    Kept lasting calm dry r (releaseWaiters s die) := by
  unfold releaseWaiters
  exact (keeps_foldl hs (fun _ _ h1 => (keeps_releaseAt h1)))

theorem keeps_addTok {s : State} {die : Nat} {tok : Nat} {inc : Nat} (hs : Kept lasting calm dry r s) :
    Kept lasting calm dry r (addTok s die tok inc) := by
  unfold addTok
  refine keeps_ite ?_ ?_
  · exact hs
  · exact (keeps_releaseWaiters (keeps_setTok hs))

theorem keeps_loseTok {s : State} {die : Nat} {tok : Nat} (hs : Kept lasting calm dry r s) :
    Kept lasting calm dry r (loseTok s die tok) := by
  unfold loseTok
  extract_lets s1
  have h2 : Kept lasting calm dry r s1 := (keeps_setTok hs)
  exact (keeps_mk (keeps_at h2))

theorem keeps_allocToks {s : State} {die : Nat} {block : Nat} (hs : Kept lasting calm dry r s) :
    Kept lasting calm dry r (allocToks s die block) := by
  unfold allocToks
  extract_lets o1
  exact (keeps_releaseWaiters (keeps_mk (keeps_tokens hs (tabWf_filter _ (keeps_wfTokens hs)))))

theorem keeps_setPower {s : State} {die : Nat} {p : Nat} (hs : Kept lasting calm dry r s) :
    Kept lasting calm dry r (setPower s die p) := by
  unfold setPower
  exact (keeps_setF (keeps_mk (keeps_at hs)) rfl)

theorem keeps_leaveWaits {s : State} {die : Nat} (hs : Kept lasting calm dry r s) :
    Kept lasting calm dry r (leaveWaits s die) := by
  unfold leaveWaits
  exact (keeps_mk (keeps_at hs))

theorem keeps_recordWake {s : State} {source : Nat} {die : Nat} {port : Nat} (hs : Kept lasting calm dry r s) :
    Kept lasting calm dry r (recordWake s source die port) := by
  unfold recordWake
  extract_lets s1 s2
  have h3 : Kept lasting calm dry r s1 := (keeps_setF (keeps_setF hs rfl) rfl)
  have h4 : Kept lasting calm dry r s2 := (keeps_setF h3 rfl)
  exact (keeps_setF h4 rfl)

theorem keeps_wakeFrom {s : State} {source : Nat} {die : Nat} (hs : Kept lasting calm dry r s) :
    Kept lasting calm dry r (wakeFrom s source die) := by
  unfold wakeFrom
  extract_lets b1 n2
  have h3 : ∀ x4, Kept lasting calm dry r x4 → Kept lasting calm dry r (n2 x4) := fun x4 h5 => (keeps_ite h5 (keeps_recordWake h5))
  refine keeps_ite ?_ ?_
  · exact hs
  · split
    · exact (h3 _ (keeps_setPower (keeps_leaveWaits hs)))
    · refine keeps_ite ?_ ?_
      · exact hs
      · exact (h3 _ (keeps_mk (keeps_at hs)))
    · exact (h3 _ (keeps_setPower hs))
    · exact hs

theorem keeps_signalTok {s : State} {die : Nat} {tok : Nat} {inc : Nat} (hs : Kept lasting calm dry r s) :
    Kept lasting calm dry r (signalTok s die tok inc) := by
  unfold signalTok
  extract_lets s1
  have h2 : Kept lasting calm dry r s1 := (keeps_wakeFrom hs)
  refine keeps_ite ?_ ?_
  · exact hs
  · refine keeps_ite ?_ ?_
    · exact (keeps_mk (keeps_at h2))
    · exact (keeps_addTok h2)

theorem keeps_updDesc {s : State} {q : Nat} {tag : Nat} {f : Desc → Desc} (hs : Kept lasting calm dry r s) :
    Kept lasting calm dry r (updDesc s q tag f) := by
  unfold updDesc
  exact (keeps_mk (keeps_at hs))

theorem keeps_setRInt {s : State} {r0 : Nat} {x : RInt} (hs : Kept lasting calm dry r s) :
    Kept lasting calm dry r (setRInt s r0 x) := by
  unfold setRInt
  exact (keeps_mk (keeps_at hs))

theorem keeps_countOut {s : State} {q : Nat} (hs : Kept lasting calm dry r s) :
    Kept lasting calm dry r (countOut s q) := by
  unfold countOut
  extract_lets s1
  have h2 : Kept lasting calm dry r s1 := (keeps_setF hs rfl)
  exact (keeps_setF h2 rfl)

theorem keeps_dropDesc {s : State} {q : Nat} {tag : Nat} (hs : Kept lasting calm dry r s) :
    Kept lasting calm dry r (dropDesc s q tag) := by
  unfold dropDesc
  exact (keeps_countOut (keeps_mk (keeps_at hs)))

theorem keeps_setQInt {s : State} {q : Nat} {x : QInt} (hs : Kept lasting calm dry r s) :
    Kept lasting calm dry r (setQInt s q x) := by
  unfold setQInt
  exact (keeps_mk (keeps_at hs))

theorem keeps_fireRing {s : State} {r0 : Nat} (hs : Kept lasting calm dry r s) :
    Kept lasting calm dry r (fireRing s r0) := by
  unfold fireRing
  extract_lets s1 s2 s3
  have h4 : Kept lasting calm dry r s1 := (keeps_setF hs rfl)
  have h5 : Kept lasting calm dry r s3 := (keeps_setRInt h4)
  refine keeps_ite ?_ ?_
  · split
    · exact (keeps_emit h5)
    · exact h5
  · exact hs

theorem keeps_writeEntry {s : State} {r0 : Nat} {c : Cpl} (hs : Kept lasting calm false r s) :
    Kept lasting calm false r (writeEntry s r0 c) := by
  unfold writeEntry
  extract_lets d1 i2 b3 t4 a5 b6 s7 s8 s9
  have h10 : Kept lasting calm false r s7 := (keeps_ite (keeps_physWrite hs) (keeps_hostWrite hs))
  have h11 : Kept lasting calm false r s9 := (keeps_setRInt h10)
  exact (keeps_fireRing (keeps_addW h11 rfl))

theorem keeps_releaseCpl {s : State} {c : Cpl} (hs : Kept lasting calm dry r s) :
    Kept lasting calm dry r (releaseCpl s c) := by
  unfold releaseCpl
  refine keeps_ite ?_ ?_
  · exact (keeps_dropDesc hs)
  · exact (keeps_countOut hs)

theorem keeps_countLost {s : State} {fn : Nat} (hs : Kept lasting calm dry r s) :
    Kept lasting calm dry r (countLost s fn) := by
  unfold countLost
  exact (keeps_mk (keeps_at hs))

theorem keeps_postCpl {s : State} {c : Cpl} {quiet : Bool} (hs : Kept lasting calm false r s) :
    Kept lasting calm false r (postCpl s c quiet) := by
  unfold postCpl
  extract_lets r1 p2 s3 s4
  have h5 : Kept lasting calm false r s4 := (keeps_setRInt hs)
  refine keeps_ite ?_ ?_
  · exact (keeps_releaseCpl hs)
  · split
    · exact (keeps_releaseCpl (keeps_addF (keeps_countLost hs) rfl))
    · refine keeps_ite ?_ ?_
      · exact (keeps_countOut (keeps_addF (keeps_setF h5 rfl) rfl))
      · exact (keeps_releaseCpl (keeps_writeEntry hs))

theorem keeps_newStream {s : State} {die : Nat} {producer : Nat} {slots : Nat} {slotLines : Nat} {consumers : List Nat} (hs :
    Kept lasting calm false r s) :
    KeptOQ lasting calm false r (newStream s die producer slots slotLines consumers) := by
  unfold newStream
  extract_lets u1 a2 s3
  split
  · exact keepsOQ_none
  · refine keepsOQ_ite ?_ ?_
    · exact (keepsOQ_some (keepsQ_mk (keeps_mk (keeps_mem hs (wf_zeroBytes _ _ (keeps_wfMem hs))))))
    · exact keepsOQ_none

theorem keeps_dropStreams {s : State} {die : Nat} {ns : List Nat} (hs : Kept lasting calm dry r s) :
    Kept lasting calm dry r (dropStreams s die ns) := by
  unfold dropStreams
  exact (keeps_mk (keeps_at hs))

theorem keeps_pushMicro {s : State} {die : Nat} {st : Nat} {m : Micro} (hs : Kept lasting calm dry r s) :
    Kept lasting calm dry r (pushMicro s die st m) := by
  unfold pushMicro
  extract_lets k1 w2
  refine keeps_ite ?_ ?_
  · exact (keeps_setFifo hs)
  · exact (keeps_mk (keeps_at hs))

theorem keeps_mapMicros {s : State} {die : Nat} {q : Nat} {tag : Nat} {f : Micro → Micro} (hs : Kept lasting calm dry r s) :
    Kept lasting calm dry r (mapMicros s die q tag f) := by
  unfold mapMicros
  extract_lets g1 h2
  exact (keeps_updDesc (keeps_mk (keeps_at hs)))

theorem keeps_restIssue {s : State} {die : Nat} (hs : Kept lasting calm dry r s) :
    Kept lasting calm dry r (restIssue s die) := by
  unfold restIssue
  extract_lets i1
  exact (keeps_foldl hs (fun _ _ h2 => by
    extract_lets v3
    refine keeps_ite ?_ ?_
    · exact (keeps_setF h2 rfl)
    · exact h2
))

theorem keeps_purgeDesc {s : State} {d : Desc} (hs : Kept lasting calm dry r s) :
    Kept lasting calm dry r (purgeDesc s d) := by
  unfold purgeDesc
  extract_lets d1 o2 f3 b4 f5 o6 l7 s8
  have h9 : Kept lasting calm dry r s8 := (keeps_mk (keeps_at hs))
  exact (keeps_restIssue (keeps_updDesc h9))

theorem keeps_fenceProgram {s : State} {d : Desc} {st : Nat} {idx : Nat} (hs : Kept lasting calm dry r s) :
    Kept lasting calm dry r (fenceProgram s d st idx) := by
  unfold fenceProgram
  extract_lets d1 d2 l3 r4 s5 s6
  have h7 : Kept lasting calm dry r s6 := (keeps_purgeDesc (keeps_mk (keeps_at hs)))
  exact (keeps_updDesc h7)

theorem keeps_stepProgram {s : State} {d : Desc} (hs : Kept lasting calm dry r s) :
    KeptO lasting calm dry r (stepProgram s d) := by
  unfold stepProgram
  extract_lets d1
  split
  · refine keepsO_ite ?_ ?_
    · exact (keepsO_some (keeps_fenceProgram hs))
    · refine keepsO_ite ?_ ?_
      · exact (keepsO_some (keeps_setFifo (keeps_updDesc hs)))
      · exact keepsO_none
  · refine keepsO_ite ?_ ?_
    · exact (keepsO_some (keeps_updDesc hs))
    · exact keepsO_none
  · exact keepsO_none

theorem keeps_advanceN {a : Nat} {a1 : State} {a2 : Nat} {a3 : Nat} (ha1 : Kept lasting calm dry r a1) :
    Kept lasting calm dry r (advanceN a a1 a2 a3) := by
  induction a generalizing a1 with
  | zero => exact ha1
  | succ a ih =>
    unfold advanceN
    split
    · rename_i e
      obtain ⟨_, _, h⟩ := Option.bind_eq_some_iff.mp e
      exact ih (keeps_stepProgram ha1 _ h)
    · exact ha1

theorem keeps_advance {s : State} {q : Nat} {tag : Nat} (hs : Kept lasting calm dry r s) :
    Kept lasting calm dry r (advance s q tag) := by
  unfold advance
  exact (keeps_advanceN hs)

theorem keeps_extend {s : State} {q : Nat} {tag : Nat} {xs : List PSpec} (hs : Kept lasting calm dry r s) :
    Kept lasting calm dry r (extend s q tag xs) := by
  unfold extend
  exact (keeps_advance (keeps_updDesc hs))

theorem keeps_issueOne {s : State} {q : Nat} {tag : Nat} {m : MSpec} (hs : Kept lasting calm dry r s) :
    Kept lasting calm dry r (issueOne s q tag m) := by
  unfold issueOne
  exact (keeps_extend hs)

theorem keeps_dropPins {s : State} {ps : List Nat} (hs : Kept lasting calm dry r s) :
    Kept lasting calm dry r (dropPins s ps) := by
  unfold dropPins
  exact (keeps_mk (keeps_at hs))

theorem keeps_completeDesc {s : State} {d : Desc} {status : Nat} {station : Nat} {detail : Bytes} {flags : Nat} (hs : Kept
    lasting calm false r s) :
    Kept lasting calm false r (completeDesc s d status station detail flags) := by
  unfold completeDesc
  extract_lets s1 l2 s3 s4 s5 s6 s7 s8 s9
  have h10 : Kept lasting calm false r s5 := (keeps_ite (keeps_signalTok hs) hs)
  have h11 : Kept lasting calm false r s6 := (keeps_dropPins (keeps_dropStreams h10))
  have h12 : Kept lasting calm false r s7 := (keeps_mk (keeps_at h11))
  have h13 : Kept lasting calm false r s8 := (keeps_updDesc h12)
  have h14 : Kept lasting calm false r s9 := (keeps_ite h13 (keeps_mk (keeps_at h13)))
  exact (keeps_postCpl h14)

theorem keeps_maybeComplete {s : State} {q : Nat} {tag : Nat} (hs : Kept lasting calm false r s) :
    Kept lasting calm false r (maybeComplete s q tag) := by
  unfold maybeComplete
  split
  · exact hs
  · refine keeps_ite ?_ ?_
    · exact hs
    · split
      · exact (keeps_completeDesc hs)
      · refine keeps_ite ?_ ?_
        · exact hs
        · split
          · exact (keeps_completeDesc hs)
          · exact (keeps_completeDesc hs)

theorem keeps_runProgram {s : State} {q : Nat} {tag : Nat} {xs : List PSpec} (hs : Kept lasting calm false r s) :
    Kept lasting calm false r (runProgram s q tag xs) := by
  unfold runProgram
  exact (keeps_maybeComplete (keeps_extend (keeps_updDesc hs)))

theorem keeps_issueAll {s : State} {q : Nat} {tag : Nat} {ms : List MSpec} (hs : Kept lasting calm false r s) :
    Kept lasting calm false r (issueAll s q tag ms) := by
  unfold issueAll
  exact (keeps_runProgram hs)

theorem keeps_pushNow {s : State} {q : Nat} {tag : Nat} {m : MSpec} (hs : Kept lasting calm false r s) :
    Kept lasting calm false r (pushNow s q tag m) := by
  unfold pushNow
  split
  · exact hs
  · refine keeps_ite ?_ ?_
    · exact (keeps_maybeComplete (keeps_fenceProgram (keeps_updDesc hs)))
    · exact (keeps_pushMicro (keeps_updDesc hs))

theorem keeps_signalOwn {s : State} {m : Micro} (hs : Kept lasting calm dry r s) :
    Kept lasting calm dry r (signalOwn s m) := by
  unfold signalOwn
  split
  · refine keeps_ite ?_ ?_
    · exact hs
    · exact (keeps_addTok hs)
  · exact hs

theorem keeps_wakeProgram {s : State} {q : Nat} {tag : Nat} (hs : Kept lasting calm dry r s) :
    Kept lasting calm dry r (wakeProgram s q tag) := by
  unfold wakeProgram
  split
  · exact (keeps_advance hs)
  · exact hs

theorem keeps_retireHead {s : State} {die : Nat} {st : Nat} (hs : Kept lasting calm false r s) :
    Kept lasting calm false r (retireHead s die st) := by
  unfold retireHead
  split
  · extract_lets s1 s2
    have h3 : Kept lasting calm false r s1 := (keeps_releaseAt (keeps_setFifo hs))
    have h4 : Kept lasting calm false r s2 := (keeps_updDesc h3)
    refine keeps_ite ?_ ?_
    · exact (keeps_maybeComplete (keeps_wakeProgram (keeps_signalOwn h4)))
    · exact hs
  · exact hs

theorem keeps_cancelDesc {s : State} {d : Desc} {status : Nat} (hs : Kept lasting calm false r s) :
    Kept lasting calm false r (cancelDesc s d status) := by
  unfold cancelDesc
  extract_lets a1 w2 o3 m4 j5 e6 f7 m8 s9 r10 s11
  have h12 : Kept lasting calm false r s11 := (keeps_purgeDesc (keeps_mk (keeps_at hs)))
  refine keeps_ite ?_ ?_
  · exact hs
  · exact (keeps_maybeComplete (keeps_updDesc h12))

theorem keeps_finishEvent {s : State} {q : Nat} {tag : Nat} {code : Nat} {status : Nat} {detail : Bytes} (hs : Kept lasting
    calm dry r s) :
    Kept lasting calm dry r (finishEvent s q tag code status detail) := by
  unfold finishEvent
  exact (keeps_mapMicros hs)

theorem keeps_rejectOp {s : State} {d : Desc} {status : Nat} {reason : Nat} (hs : Kept lasting calm false r s) :
    Kept lasting calm false r (rejectOp s d status reason) := by
  unfold rejectOp
  exact (keeps_completeDesc hs)

theorem keeps_endOp {s : State} {d : Desc} {status : Nat} {station : Nat} {detail : Bytes} (hs : Kept lasting calm false r s) :
    Kept lasting calm false r (endOp s d status station detail) := by
  unfold endOp
  exact (keeps_completeDesc hs)

theorem keeps_setDetail {s : State} {q : Nat} {tag : Nat} {bs : Bytes} (hs : Kept lasting calm dry r s) :
    Kept lasting calm dry r (setDetail s q tag bs) := by
  unfold setDetail
  exact (keeps_updDesc hs)

theorem keeps_newStreams {s : State} {die : Nat} {a : List (Nat × List Nat)} (hs : Kept lasting calm false r s) :
    KeptOQ lasting calm false r (newStreams s die a) := by
  induction a generalizing s with
  | nil => exact keepsOQ_some hs
  | cons x l ih =>
    intro ns t h
    obtain ⟨p, hp, e⟩ := Option.bind_eq_some_iff.mp h
    obtain ⟨q, hq, e⟩ := Option.map_eq_some_iff.mp e
    cases e
    exact ih (keepsOQ_out hp (keeps_newStream hs)) _ _ hq

theorem keeps_allocTok {s : State} {die : Nat} {tok : Nat} (hs : Kept lasting calm dry r s) :
    Kept lasting calm dry r (allocTok s die tok) := by
  unfold allocTok
  extract_lets s1
  have h2 : Kept lasting calm dry r s1 := (keeps_setTok hs)
  exact (keeps_mk (keeps_at h2))

theorem keeps_withPool {s : State} {d : Desc} {lines : Nat} {ss : List (Nat × List Nat)} {k : State → List Nat → State} (hs :
    Kept lasting calm false r s) (hk : ∀ a0 a1, Kept lasting calm false r a0 → Kept lasting calm false r (k a0 a1)) :
    Kept lasting calm false r (withPool s d lines ss k) := by
  unfold withPool
  extract_lets die own
  have h : KeptOQ lasting calm false r own := by
    unfold own
    split
    · exact keepsOQ_some hs
    · exact keepsOQ_mapOQ (keeps_newStream hs) (fun _ h => h)
  split
  · rename_i e _
    obtain ⟨p, hp, e⟩ := Option.bind_eq_some_iff.mp e
    obtain ⟨q, hq, e⟩ := Option.map_eq_some_iff.mp e
    cases e
    exact hk _ _ (keeps_updDesc (keeps_allocTok (keeps_newStreams (h _ _ hp) _ _ hq)))
  · exact keeps_updDesc hs

theorem keeps_withStreams {s : State} {d : Desc} {ss : List (Nat × List Nat)} {k : State → List Nat → State} (hs : Kept lasting
    calm false r s) (hk : ∀ a0 a1, Kept lasting calm false r a0 → Kept lasting calm false r (k a0 a1)) :
    Kept lasting calm false r (withStreams s d ss k) := by
  unfold withStreams
  exact (keeps_withPool hs hk)

theorem keeps_withStream {s : State} {d : Desc} {consumer : Nat} {k : State → Nat → State} (hs : Kept lasting calm false r s)
    (hk : ∀ a0 a1, Kept lasting calm false r a0 → Kept lasting calm false r (k a0 a1)) :
    Kept lasting calm false r (withStream s d consumer k) := by
  unfold withStream
  exact (keeps_withStreams hs (fun _ _ h1 => (hk _ _ h1)))

theorem keeps_takeIn {s : State} {d : Desc} {xs : List (Nat × Nat)} (hs : Kept lasting calm dry r s) :
    Kept lasting calm dry r (takeIn s d xs) := by
  unfold takeIn
  exact (keeps_updDesc (keeps_foldl hs (fun _ _ h1 => (keeps_touchRead h1))))

theorem keeps_runOut {s : State} {d : Desc} {st : Nat} {ws : List JobWrite} (hs : Kept lasting calm false r s) :
    Kept lasting calm false r (runOut s d st ws) := by
  unfold runOut
  extract_lets m1
  exact (keeps_withStreams hs (fun _ _ h2 => (keeps_runProgram h2)))

theorem keeps_showCable {old : State} {s : State} {p : Nat} (hold : Kept lasting calm dry r old) (hs : Kept lasting calm dry r s) :
    Kept lasting calm dry r (showCable old s p) := by
  unfold showCable
  refine keeps_ite ?_ ?_
  · exact hs
  · exact (keeps_emit hs)

theorem keeps_showCables {old : State} {s : State} (hold : Kept lasting calm dry r old) (hs : Kept lasting calm dry r s) :
    Kept lasting calm dry r (showCables old s) := by
  unfold showCables
  exact (keeps_foldl hs (fun _ _ h1 => (keeps_showCable hold h1)))

theorem keeps_dropRef {s : State} {p : Nat} (hs : Kept lasting calm dry r s) :
    Kept lasting calm dry r (dropRef s p) := by
  unfold dropRef
  extract_lets s1
  have h2 : Kept lasting calm dry r s1 := (keeps_ite (keeps_setF hs rfl) hs)
  refine keeps_ite ?_ ?_
  · exact (keeps_setF h2 rfl)
  · exact h2

theorem keeps_setPortState {s : State} {p : Nat} {v : Nat} (hs : Kept lasting calm dry r s) :
    Kept lasting calm dry r (setPortState s p v) := by
  unfold setPortState
  extract_lets t1
  have h2 : Kept lasting calm dry r t1 := (keeps_showCable hs (keeps_setF hs rfl))
  refine keeps_ite ?_ ?_
  · exact (keeps_dropRef h2)
  · exact h2

theorem keeps_setPort {s : State} {p : Nat} {x : PortInt} (hs : Kept lasting calm dry r s) :
    Kept lasting calm dry r (setPort s p x) := by
  unfold setPort
  exact (keeps_mk (keeps_at hs))

theorem keeps_logRec {s : State} {cls : Nat} {die : Nat} {unit : Nat} {cause : Nat} {addr : Nat} {detail : Nat} (hs : Kept
    lasting false dry r s) :
    Kept lasting false dry r (logRec s cls die unit cause addr detail) := by
  unfold logRec
  extract_lets r1 l2
  exact (keeps_addW (keeps_emit (keeps_mk0 (keeps_elog hs (length_last _ _)))) rfl)

theorem keeps_logModule {s : State} {detail : Nat} (hs : Kept lasting false dry r s) :
    Kept lasting false dry r (logModule s detail) := by
  unfold logModule
  exact (keeps_logRec hs)

theorem keeps_logTier {s : State} {a : Nat} (hs : Kept lasting false dry r s) :
    Kept lasting false dry r (logTier s a) := by
  unfold logTier
  refine keeps_ite ?_ ?_
  · exact (keeps_logRec hs)
  · refine keeps_ite ?_ ?_
    · exact (keeps_logRec hs)
    · exact (keeps_logRec hs)

theorem keeps_noteCopy {s : State} {ok : Bool} {a : Nat} (hs : Kept lasting false dry r s) :
    Kept lasting false dry r (noteCopy s ok a) := by
  unfold noteCopy
  refine keeps_ite ?_ ?_
  · exact hs
  · exact (keeps_logTier hs)

theorem keeps_cacheNotice {s : State} {origin : Nat} {id : Nat} (hs : Kept lasting false dry r s) :
    Kept lasting false dry r (cacheNotice s origin id) := by
  unfold cacheNotice
  extract_lets l1
  exact (keeps_mk0 (keeps_cache hs (length_last _ _)))

theorem keeps_newNotice {s : State} {kind : Nat} {subject : Nat} {tag : Nat} {arg : Nat} {detail : Nat} (hs : Kept lasting
    false dry r s) :
    KeptQ lasting false dry r (newNotice s kind subject tag arg detail) := by
  unfold newNotice
  exact (keepsQ_mk (keeps_mk0 (keeps_at hs)))

theorem keeps_localNotice {s : State} {kind : Nat} {arg : Nat} {detail : Nat} (hs : Kept lasting false dry r s) :
    Kept lasting false dry r (localNotice s kind arg detail) := by
  unfold localNotice
  split
  · exact (keeps_emit (keepsQ_out ‹_› (keeps_newNotice hs)))

theorem keeps_protectTx {s : State} {k : Nat} {t : Tx} (hs : Kept lasting calm dry r s) :
    KeptOQ lasting calm dry r (protectTx s k t) := by
  unfold protectTx
  extract_lets t1
  refine keepsOQ_ite ?_ ?_
  · exact (keepsOQ_some (keepsQ_mk hs))
  · split
    · exact (keepsOQ_some (keepsQ_mk hs))
    · extract_lets c2 e3 c4 s5
      have h6 : Kept lasting calm dry r s5 := (keeps_mk (keeps_at hs))
      refine keepsOQ_ite ?_ ?_
      · exact keepsOQ_none
      · exact (keepsOQ_some (keepsQ_mk (keeps_addD h6 rfl)))

theorem keeps_updMicro {s : State} {q : Nat} {tag : Nat} {idx : Nat} {f : Micro → Micro} (hs : Kept lasting calm dry r s) :
    Kept lasting calm dry r (updMicro s q tag idx f) := by
  unfold updMicro
  exact (keeps_mapMicros hs)

theorem keeps_ackMicro {s : State} {q : Nat} {tag : Nat} {idx : Nat} (hs : Kept lasting calm dry r s) :
    Kept lasting calm dry r (ackMicro s q tag idx) := by
  unfold ackMicro
  exact (keeps_updMicro hs)

theorem keeps_failMicro {s : State} {q : Nat} {tag : Nat} {idx : Nat} {status : Nat} (hs : Kept lasting calm dry r s) :
    Kept lasting calm dry r (failMicro s q tag idx status) := by
  unfold failMicro
  extract_lets m1 g2 f3 s4
  have h5 : Kept lasting calm dry r s4 := (keeps_mk (keeps_at hs))
  exact (keeps_updMicro h5)

theorem keeps_failTx {s : State} {t : Tx} {status : Nat} (hs : Kept lasting calm dry r s) :
    Kept lasting calm dry r (failTx s t status) := by
  unfold failTx
  split
  · split
    · exact (keeps_failMicro hs)
    · exact hs
  · exact hs

theorem keeps_putOnPort {s : State} {p : Nat} {lane : Nat} {t : Tx} (hs : Kept lasting calm dry r s) :
    Kept lasting calm dry r (putOnPort s p lane t) := by
  unfold putOnPort
  extract_lets k1
  split
  · exact (keeps_failTx hs)
  · extract_lets x2 n3 s4
    have h5 : Kept lasting calm dry r s4 := (keeps_setPort (keepsOQ_out ‹_› (keeps_protectTx hs)))
    exact (keeps_emit h5)

theorem keeps_sendWaits {a : Nat} {a1 : State} (ha1 : Kept lasting calm dry r a1) :
    Kept lasting calm dry r (sendWaits a a1) := by
  unfold sendWaits
  split
  · exact (by assumption)
  · split
    · exact (by assumption)
    · extract_lets h1
      split
      · split
        · exact (by assumption)
        · extract_lets s2 s3 s4 s5
          have h6 : Kept lasting calm dry r s3 := (keeps_setPort (by assumption))
          have h7 : Kept lasting calm dry r s4 := (keeps_mk (keeps_at h6))
          have h8 : Kept lasting calm dry r s5 := (keeps_ite h7 (keeps_mk (keeps_at h7)))
          exact (keeps_sendWaits (keeps_putOnPort h8))

theorem keeps_retryWaits {s : State} (hs : Kept lasting calm dry r s) :
    Kept lasting calm dry r (retryWaits s) := by
  unfold retryWaits
  exact (keeps_sendWaits hs)

theorem keeps_queueTx {s : State} {w : Waiting} (hs : Kept lasting calm dry r s) :
    Kept lasting calm dry r (queueTx s w) := by
  unfold queueTx
  extract_lets s1
  have h2 : Kept lasting calm dry r s1 := (keeps_retryWaits (keeps_mk (keeps_at hs)))
  refine keeps_ite ?_ ?_
  · exact (keeps_addF h2 rfl)
  · exact h2

theorem keeps_routeTx {s : State} {k : Nat} {c : Nat} {port : Option Nat} {t : Tx} (hs : Kept lasting calm dry r s) :
    Kept lasting calm dry r (routeTx s k c port t) := by
  unfold routeTx
  exact (keeps_queueTx hs)

theorem keeps_branchTx {s : State} {port : Option Nat} {p : Nat} {t : Tx} (hs : Kept lasting calm dry r s) :
    Kept lasting calm dry r (branchTx s port p t) := by
  unfold branchTx
  exact (keeps_queueTx hs)

theorem keeps_transmit {s : State} {t : Tx} (hs : Kept lasting calm dry r s) :
    Kept lasting calm dry r (transmit s t) := by
  unfold transmit
  extract_lets c1
  refine keeps_ite ?_ ?_
  · exact (keeps_emit hs)
  · exact (keeps_routeTx hs)

theorem keeps_sendFlow {s : State} {q : Nat} {tag : Nat} {idx : Nat} {t : Tx} (hs : Kept lasting calm dry r s) :
    Kept lasting calm dry r (sendFlow s q tag idx t) := by
  unfold sendFlow
  extract_lets k1 f2 t3 x4
  refine keeps_ite ?_ ?_
  · exact (keeps_transmit (keeps_mk (keeps_at hs)))
  · exact (keeps_mk (keeps_at hs))

theorem keeps_pruneBranch {s : State} {k : Nat} {p : Nat} {x : Nat} {g : Nat} {cls : Nat} (hs : Kept lasting calm dry r s) :
    Kept lasting calm dry r (pruneBranch s k p x g cls) := by
  unfold pruneBranch
  extract_lets s1 s2
  have h3 : Kept lasting calm dry r s1 := (keeps_mk (keeps_at hs))
  have h4 : Kept lasting calm dry r s2 := (keeps_ite (keeps_branchTx h3) h3)
  exact (keeps_transmit h4)

theorem keeps_injectMc {s : State} {k : Nat} {from_ : Option Nat} {x : Nat} {t : Tx} (hs : Kept lasting calm dry r s) :
    Kept lasting calm dry r (injectMc s k from_ x t) := by
  unfold injectMc
  extract_lets g1 e2
  refine keeps_ite ?_ ?_
  · exact hs
  · exact (keeps_foldl hs (fun _ _ h3 => (keeps_ite (keeps_branchTx h3) (keeps_pruneBranch h3))))

theorem keeps_sendMc {s : State} {q : Nat} {tag : Nat} {idx : Nat} {fn : Nat} {g : Nat} {cls : Nat} {ps : List (Nat × Bytes ×
    Nat)} {late : Nat} {fin : Bool} {tile : Bool} (hs : Kept lasting calm dry r s) :
    Kept lasting calm dry r (sendMc s q tag idx fn g cls ps late fin tile) := by
  unfold sendMc
  extract_lets d1 k2 x3 m4 b5 t6 n7 s8
  have h9 : Kept lasting calm dry r s8 := (keeps_ite (keeps_mk (keeps_at hs)) (keeps_mk (keeps_at hs)))
  exact (keeps_foldl h9 (fun _ _ h10 => (keeps_injectMc (keeps_emit h10))))

theorem keeps_sendPieces {s : State} {q : Nat} {tag : Nat} {idx : Nat} {fn : Nat} {m : Nat} {dd : Nat} {cls : Nat} {ps : List
    (Nat × Bytes × Nat)} {late : Nat} {tile : Bool} (hs : Kept lasting calm dry r s) :
    Kept lasting calm dry r (sendPieces s q tag idx fn m dd cls ps late tile) := by
  unfold sendPieces
  extract_lets f1
  refine keeps_ite ?_ ?_
  · exact (keeps_sendMc hs)
  · exact (keeps_foldl hs (fun _ _ h2 => (keeps_sendFlow h2)))

theorem keeps_floodOut {s : State} {except : Option Nat} {n : Notice} (hs : Kept lasting calm dry r s) :
    Kept lasting calm dry r (floodOut s except n) := by
  unfold floodOut
  exact (keeps_foldl hs (fun _ _ h1 => (keeps_branchTx h1)))

theorem keeps_floodNotice {s : State} {kind : Nat} {subject : Nat} {tag : Nat} {arg : Nat} {detail : Nat} (hs : Kept lasting
    false dry r s) :
    Kept lasting false dry r (floodNotice s kind subject tag arg detail) := by
  unfold floodNotice
  split
  · exact (keeps_floodOut (keeps_emit (keeps_cacheNotice (keepsQ_out ‹_› (keeps_newNotice hs)))))

theorem keeps_setRS {s : State} {die : Nat} {n : Nat} {r0 : RStream} (hs : Kept lasting calm dry r s) :
    Kept lasting calm dry r (setRS s die n r0) := by
  unfold setRS
  exact (keeps_mk (keeps_at hs))

theorem keeps_setProf {s : State} {die : Nat} {n : Nat} {p : Profile} (hs : Kept lasting calm dry r s) :
    Kept lasting calm dry r (setProf s die n p) := by
  unfold setProf
  exact (keeps_mk (keeps_at hs))

theorem keeps_countSamples {s : State} {die : Nat} (hs : Kept lasting calm dry r s) :
    Kept lasting calm dry r (countSamples s die) := by
  unfold countSamples
  exact (keeps_setF hs rfl)

theorem keeps_addSamples {s : State} {d : Desc} {tensor : Nat} {fmt : Nat} {split : Bool} {xs : List (Nat × Bool)} (hs : Kept
    lasting calm dry r s) :
    Kept lasting calm dry r (addSamples s d tensor fmt split xs) := by
  unfold addSamples
  extract_lets n1
  exact (keeps_countSamples (keeps_mk (keeps_at hs)))

theorem keeps_takeSnap {s : State} {d : Desc} {tensor : Nat} (hs : Kept lasting calm dry r s) :
    Kept lasting calm dry r (takeSnap s d tensor) := by
  unfold takeSnap
  extract_lets p1
  exact (keeps_updDesc hs)

theorem keeps_viewed {s : State} {d : Desc} {tensor : Nat} (hs : Kept lasting calm dry r s) :
    Kept lasting calm dry r (viewed s d tensor) := by
  unfold viewed
  extract_lets s1
  have h2 : Kept lasting calm dry r s1 := (keeps_mk (keeps_at hs))
  split
  · exact (keeps_setRS (keeps_setProf h2))
  · exact h2

theorem keeps_applyPart {s : State} {d : Desc} {p : Part} (hs : Kept lasting calm dry r s) (hp : ∀ s, Kept lasting calm dry r s
    → Kept lasting calm dry r (p.after s)) :
    Kept lasting calm dry r (applyPart s d p) := by
  unfold applyPart
  extract_lets s1
  have h2 : Kept lasting calm dry r s1 := (keeps_setDetail (hp _ hs))
  exact (keeps_extend (keeps_addSamples h2))

theorem keeps_countConv {s : State} {die : Nat} {f : ConvFlags} {srElems : Nat} (hs : Kept lasting calm dry r s) :
    Kept lasting calm dry r (countConv s die f srElems) := by
  unfold countConv
  extract_lets s1 s2 s3
  have h4 : Kept lasting calm dry r s1 := (keeps_addD hs rfl)
  have h5 : Kept lasting calm dry r s2 := (keeps_addF h4 rfl)
  have h6 : Kept lasting calm dry r s3 := (keeps_addD h5 rfl)
  exact (keeps_addF h6 rfl)

theorem keeps_setComm {s : State} {die : Nat} {slot : Nat} {c : Comm} (hs : Kept lasting calm dry r s) :
    Kept lasting calm dry r (setComm s die slot c) := by
  unfold setComm
  exact (keeps_mk (keeps_at hs))

theorem keeps_addNote {s : State} {die : Nat} {r0 : CtlRec} (hs : Kept lasting calm dry r s) :
    Kept lasting calm dry r (addNote s die r0) := by
  unfold addNote
  refine keeps_ite ?_ ?_
  · exact hs
  · exact (keeps_mk (keeps_at hs))

theorem keeps_showActive {s : State} {die : Nat} (hs : Kept lasting calm dry r s) :
    Kept lasting calm dry r (showActive s die) := by
  unfold showActive
  exact (keeps_setF hs rfl)

theorem keeps_setCall {s : State} {c : RdCall} (hs : Kept lasting calm dry r s) :
    Kept lasting calm dry r (setCall s c) := by
  unfold setCall
  exact (keeps_mk (keeps_at hs))

theorem keeps_holdRd {s : State} {q : Nat} {tag : Nat} (hs : Kept lasting calm dry r s) :
    Kept lasting calm dry r (holdRd s q tag) := by
  unfold holdRd
  extract_lets k1
  split
  · exact hs
  · extract_lets s2
    have h3 : Kept lasting calm dry r s2 := (keeps_setFifo hs)
    exact (keeps_updDesc h3)

theorem keeps_freeRd {s : State} {q : Nat} {tag : Nat} {status : Nat} {station : Nat} {detail : Bytes} {keep : Retired → Bool}
    (hs : Kept lasting calm false r s) :
    Kept lasting calm false r (freeRd s q tag status station detail keep) := by
  unfold freeRd
  extract_lets k1 m2 s3
  have h4 : Kept lasting calm false r s3 := (keeps_setFifo hs)
  split
  · exact hs
  · exact (keeps_maybeComplete (keeps_updDesc h4))

theorem keeps_dropNotes {s : State} {die : Nat} {slot : Nat} {seq : Nat} (hs : Kept lasting calm dry r s) :
    Kept lasting calm dry r (dropNotes s die slot seq) := by
  unfold dropNotes
  exact (keeps_mk (keeps_at hs))

theorem keeps_setShard {s : State} {die : Nat} {n : Nat} {x : Shard} (hs : Kept lasting calm dry r s) :
    Kept lasting calm dry r (setShard s die n x) := by
  unfold setShard
  exact (keeps_mk (keeps_at hs))

theorem keeps_openShard {s : State} {die : Nat} {n : Nat} {step : Nat} {epoch : Nat} (hs : Kept lasting calm dry r s) :
    Kept lasting calm dry r (openShard s die n step epoch) := by
  unfold openShard
  extract_lets s1
  exact (keeps_setShard hs)

theorem keeps_freeShard {s : State} {die : Nat} {n : Nat} (hs : Kept lasting calm false r s) :
    Kept lasting calm false r (freeShard s die n) := by
  unfold freeShard
  extract_lets x1 s2
  have h3 : Kept lasting calm false r s2 := (keeps_setShard hs)
  split
  · exact (keeps_freeRd h3)
  · exact h3

theorem keeps_forceOpen {s : State} {die : Nat} {n : Nat} {step : Nat} {epoch : Nat} (hs : Kept lasting calm dry r s) :
    Kept lasting calm dry r (forceOpen s die n step epoch) := by
  unfold forceOpen
  extract_lets x1
  refine keeps_ite ?_ ?_
  · exact (keeps_setShard hs)
  · exact (keeps_openShard hs)

theorem keeps_openAll {s : State} {c : RdCall} (hs : Kept lasting calm dry r s) :
    Kept lasting calm dry r (openAll s c) := by
  unfold openAll
  exact (keeps_foldl hs (fun _ _ h1 => (keeps_forceOpen h1)))

theorem keeps_endCall {s : State} {c : RdCall} {status : Nat} {detail : Bytes} {windowed : Bool} (hs : Kept lasting calm false
    r s) :
    Kept lasting calm false r (endCall s c status detail windowed) := by
  unfold endCall
  extract_lets s1
  have h2 : Kept lasting calm false r s1 := (keeps_openAll (keeps_dropNotes (keeps_mk (keeps_at hs))))
  exact (keeps_freeRd (keeps_showActive h2))

theorem keeps_writeChunks {s : State} {die : Nat} {fn : Nat} {a : Nat} {a4 : List (Bytes × Nat)} (hs : Kept lasting calm false
    r s) :
    KeptP lasting calm false r (writeChunks s die fn a a4) := by
  induction a4 generalizing s a with
  | nil => exact hs
  | cons x l ih =>
    obtain ⟨bs, c⟩ := x
    have h : KeptP lasting calm false r (jobWrite s die fn a bs (if c = 0 then 0 else 5)) := keeps_jobWrite hs
    unfold writeChunks
    split
    rename_i t e heq
    have ht : Kept lasting calm false r t := keepsP_out heq h
    exact keepsP_ite (keepsP_mk ht) (ih ht)

theorem keeps_fabSend {s : State} {c : RdCall} {m : Nat} {dd : Nat} {off : Nat} {ps : List (Bytes × Nat)} {late : Nat} (hs :
    Kept lasting calm dry r s) :
    KeptP lasting calm dry r (fabSend s c m dd off ps late) := by
  unfold fabSend
  extract_lets x1 s2
  have h3 : Kept lasting calm dry r s2 := (keeps_issueOne hs)
  split
  · exact (keepsP_mk hs)
  · split
    · exact (keepsP_mk (keeps_issueOne hs))
    · refine keepsP_ite ?_ ?_
      · exact (keepsP_mk h3)
      · exact (keepsP_mk (keeps_sendPieces h3))

theorem keeps_giveMember {s : State} {c : RdCall} {cm : Comm} {r0 : Nat} {va : Nat} {ps : List (Bytes × Nat)} (hs : Kept
    lasting calm false r s) :
    KeptP lasting calm false r (giveMember s c cm r0 va ps) := by
  unfold giveMember
  extract_lets n1 c2
  refine keepsP_ite ?_ ?_
  · exact (keepsP_mk hs)
  · refine keepsP_ite ?_ ?_
    · split
      · refine keepsP_ite ?_ ?_
        · exact (keepsP_mk (keepsP_out ‹_› (keeps_writeChunks hs)))
        · exact (keepsP_mk (keeps_issueOne (keepsP_out ‹_› (keeps_writeChunks hs))))
    · split
      · split
        · exact (keepsP_mk (keepsP_out ‹_› (keeps_fabSend hs)))

theorem keeps_sendRec {s : State} {c : RdCall} {cm : Comm} {r0 : Nat} {kind : Nat} {arg : Nat} {body : Bytes} (hs : Kept
    lasting calm false r s) :
    Kept lasting calm false r (sendRec s c cm r0 kind arg body) := by
  unfold sendRec
  extract_lets x1 v2
  refine keeps_ite ?_ ?_
  · exact (keeps_addNote (keepsP_fst (keeps_jobWrite hs)))
  · split
    · exact (keepsP_fst (keeps_fabSend hs))

theorem keeps_sendData {s : State} {c : RdCall} {cm : Comm} {rs : List Nat} {body : Bytes} (hs : Kept lasting calm false r s) :
    Kept lasting calm false r (sendData s c cm rs body) := by
  unfold sendData
  exact (keeps_foldl hs (fun _ _ h1 => (keeps_sendRec h1)))

theorem keeps_closeAll {s : State} {c : RdCall} {cm : Comm} {status : Nat} {body : Bytes} (hs : Kept lasting calm false r s) :
    Kept lasting calm false r (closeAll s c cm status body) := by
  unfold closeAll
  exact (keeps_foldl hs (fun _ _ h1 => (keeps_sendRec h1)))

theorem keeps_callFail {s : State} {c : RdCall} {cm : Comm} {status : Nat} (hs : Kept lasting calm false r s) :
    Kept lasting calm false r (callFail s c cm status) := by
  unfold callFail
  extract_lets s1
  have h2 : Kept lasting calm false r s1 := (keeps_setCall hs)
  refine keeps_ite ?_ ?_
  · refine keeps_ite ?_ ?_
    · exact h2
    · exact (keeps_closeAll h2)
  · exact (keeps_sendRec h2)

theorem keeps_drainShard {s : State} {die : Nat} {n : Nat} (hs : Kept lasting calm false r s) :
    Kept lasting calm false r (drainShard s die n) := by
  unfold drainShard
  extract_lets x1
  split
  · refine keeps_ite ?_ ?_
    · exact (keeps_freeRd (keeps_setShard hs))
    · exact hs
  · exact hs

theorem keeps_reviveStep {s : State} (hs : Kept lasting calm dry r s) :
    KeptO lasting calm dry r (reviveStep s) := by
  unfold reviveStep
  exact (keepsO_findSome (fun _ => (by
      extract_lets s1
      split
      · refine keepsO_ite ?_ ?_
        · exact (keepsO_some (keeps_mk (keeps_at hs)))
        · exact keepsO_none
      · exact keepsO_none
)))

theorem keeps_stageA {s : State} {c : RdCall} {cm : Comm} (hs : Kept lasting calm false r s) :
    KeptP lasting calm false r (stageA s c cm) := by
  unfold stageA
  exact (keepsP_foldl (keepsP_mk hs) (fun _ _ h1 => by
    split
    · extract_lets p2
      exact (keeps_giveMember (keepsP_pair ‹_›))
))

theorem keeps_stageB {s : State} {c : RdCall} {cm : Comm} (hs : Kept lasting calm false r s) :
    KeptP lasting calm false r (stageB s c cm) := by
  unfold stageB
  exact (keepsP_foldl (keepsP_mk hs) (fun _ _ h1 => by
    extract_lets r2
    split
    · exact (keeps_giveMember (keepsP_pair ‹_›))
))

theorem keeps_closeWith {s : State} {c : RdCall} {cm : Comm} {adm : List Nat} {defer_ : List Nat} {record : Bool} (hs : Kept
    lasting calm false r s) :
    Kept lasting calm false r (closeWith s c cm adm defer_ record) := by
  unfold closeWith
  extract_lets l1 m2 p3 b4
  split
  · extract_lets s5 s6 s7
    have h8 : Kept lasting calm false r s5 := (keeps_ite (keepsP_fst (keeps_jobWrite (keepsP_out ‹_› (keepsP_foldl (keepsP_mk
        hs) (fun _ _ h9 => (keepsP_ite (keepsP_mk (keepsP_fst (keeps_jobWrite (keepsP_fst h9)))) (by
          split
          · extract_lets x10
            have h11 : KeptP lasting calm false r x10 := (keeps_fabSend (keepsP_fst h9))
            exact (keepsP_mk (keepsP_fst h11))
))))))) (keepsP_out ‹_› (keepsP_foldl (keepsP_mk hs) (fun _ _ h12 => (keepsP_ite (keepsP_mk (keepsP_fst (keeps_jobWrite
    (keepsP_fst h12)))) (by
          split
          · extract_lets x13
            have h14 : KeptP lasting calm false r x13 := (keeps_fabSend (keepsP_fst h12))
            exact (keepsP_mk (keepsP_fst h14))
))))))
    have h15 : Kept lasting calm false r s6 := (keeps_addF h8 rfl)
    have h16 : Kept lasting calm false r s7 := (keeps_addF h15 rfl)
    exact (keeps_setCall h16)

theorem keeps_closeNow {s : State} {c : RdCall} {cm : Comm} (hs : Kept lasting calm false r s) :
    Kept lasting calm false r (closeNow s c cm) := by
  unfold closeNow
  extract_lets a1 l2
  exact (keeps_closeWith hs)

theorem keeps_rootReduce {s : State} {c : RdCall} {cm : Comm} (hs : Kept lasting calm false r s) :
    KeptO lasting calm false r (rootReduce s c cm) := by
  unfold rootReduce
  refine keepsO_ite ?_ ?_
  · split
    · extract_lets a1
      refine keepsO_ite ?_ ?_
      · exact (keepsO_some (keeps_closeAll hs))
      · refine keepsO_ite ?_ ?_
        · exact (keepsO_some (keeps_closeWith hs))
        · exact keepsO_none
  · refine keepsO_ite ?_ ?_
    · exact (keepsO_some (keeps_closeNow hs))
    · exact keepsO_none

theorem keeps_looseSend {s : State} {die : Nat} {fn : Nat} {m : Nat} {dd : Nat} {off : Nat} {ps : List (Bytes × Nat)} {tag :
    Nat} (hs : Kept lasting calm dry r s) :
    Kept lasting calm dry r (looseSend s die fn m dd off ps tag) := by
  unfold looseSend
  split
  · exact hs
  · exact (keeps_sendPieces hs)

theorem keeps_writeFab {s : State} {die : Nat} {fn : Nat} {addr : Nat} {ps : List (Bytes × Nat)} (hs : Kept lasting calm false
    r s) :
    Kept lasting calm false r (writeFab s die fn addr ps) := by
  unfold writeFab
  split
  · refine keeps_ite ?_ ?_
    · split
      · exact (keepsP_fst (keeps_writeChunks hs))
      · exact hs
    · exact (keeps_looseSend hs)

theorem keeps_placeLate {s : State} {l : Late} (hs : Kept lasting calm false r s) :
    Kept lasting calm false r (placeLate s l) := by
  unfold placeLate
  extract_lets d1 p2 s3
  have h4 : ∀ x5, Kept lasting calm false r x5 → Kept lasting calm false r (d1 x5) := fun x5 h6 => (keeps_addF h6 rfl)
  have h7 : Kept lasting calm false r s3 := (keeps_addF hs rfl)
  refine keeps_ite ?_ ?_
  · exact (h4 _ hs)
  · refine keeps_ite ?_ ?_
    · exact (keepsP_fst (keeps_writeChunks hs))
    · split
      · exact (h4 _ hs)
      · split
        · exact (h4 _ hs)
        · exact (keeps_writeFab h7)

theorem keeps_lateStep {s : State} (hs : Kept lasting calm false r s) :
    KeptO lasting calm false r (lateStep s) := by
  unfold lateStep
  split
  · exact keepsO_none
  · extract_lets e1 s2
    have h3 : Kept lasting calm false r s2 := (keeps_placeLate (keeps_mk (keeps_at hs)))
    exact (keepsO_some (keeps_ite (keeps_dropNotes h3) h3))

theorem keeps_takeAcc {s : State} {c : RdCall} {n : Nat} (hs : Kept lasting calm dry r s) :
    KeptP lasting calm dry r (takeAcc s c n) := by
  unfold takeAcc
  extract_lets k1 s2
  refine keepsP_ite ?_ ?_
  · split
    · exact (keepsP_mk (keeps_addF (keepsQ_out ‹_› (keeps_freshFree hs)) rfl))
  · exact (keepsP_mk hs)

theorem keeps_finalSum {s : State} {d : Desc} {c : RdCall} {cm : Comm} {close : CtlRec} (hs : Kept lasting calm false r s) :
    Kept lasting calm false r (finalSum s d c cm close) := by
  unfold finalSum
  extract_lets a1 l2 d3 d4 x5 c6 s7 c8 d9 e10 r11 e12
  have h13 : Kept lasting calm false r s7 := (keeps_viewed hs)
  split
  · extract_lets z14 b15 r16 o17 c18 f19 n20 x21
    split
    · extract_lets w22 s23 s24 s25 s26 s27 s28 p29 p30
      have h31 : Kept lasting calm false r s23 := (keeps_countConv (keepsQ_out ‹_› (keeps_freshFree hs)))
      have h32 : Kept lasting calm false r s24 := (keeps_foldl h31 (fun _ _ h33 => (keepsP_fst (keeps_jobWrite h33))))
      have h34 : Kept lasting calm false r s25 := (keeps_addF h32 rfl)
      have h35 : Kept lasting calm false r s26 := (keeps_mk (keeps_at h34))
      have h36 : Kept lasting calm false r s27 := (keeps_addSamples h35)
      have h37 : Kept lasting calm false r s28 := (keeps_foldl h36 (fun _ _ h38 => (keeps_issueOne h38)))
      split
      · extract_lets a39 s40 c41 i42 c43 s44
        have h45 : Kept lasting calm false r s40 := (keeps_issueOne (keepsP_out ‹_› (keeps_takeAcc h37)))
        have h46 : Kept lasting calm false r s44 := (keeps_setCall (keeps_issueOne h45))
        refine keeps_ite ?_ ?_
        · exact (keeps_setCall h45)
        · refine keeps_ite ?_ ?_
          · refine keeps_ite ?_ ?_
            · exact (keeps_setCall h45)
            · split
              · exact (keeps_setCall (keeps_issueOne h45))
              · refine keeps_ite ?_ ?_
                · exact h46
                · exact (keeps_sendMc h46)
          · split
            · exact (keeps_setCall (keepsP_out ‹_› (keepsP_foldl (keepsP_mk h45) (fun _ _ h47 => (keepsP_ite (keepsP_mk
                (keepsP_fst h47)) (keepsP_foldl h47 (fun _ _ h48 => (keeps_giveMember (keepsP_fst h48)))))))))

theorem keeps_refuseStale {s : State} {c : RdCall} {cm : Comm} (hs : Kept lasting calm false r s) :
    Kept lasting calm false r (refuseStale s c cm) := by
  unfold refuseStale
  exact (keeps_endCall (keeps_callFail (keeps_addF hs rfl)))

theorem keeps_reduceStep {s : State} {d : Desc} {c : RdCall} {cm : Comm} (hs : Kept lasting calm false r s) :
    KeptO lasting calm false r (reduceStep s d c cm) := by
  unfold reduceStep
  extract_lets l1 c2 s3 s4 s5 s6 b7 s8 s9 b10
  have h11 : Kept lasting calm false r s3 := (keeps_setCall hs)
  have h12 : Kept lasting calm false r s4 := (keeps_setCall hs)
  have h13 : Kept lasting calm false r s5 := (keeps_sendData h12)
  have h14 : Kept lasting calm false r s8 := (keeps_setCall hs)
  split
  · refine keepsO_ite ?_ ?_
    · exact (keepsO_some (keeps_refuseStale hs))
    · refine keepsO_ite ?_ ?_
      · exact keepsO_none
      · refine keepsO_ite ?_ ?_
        · split
          · exact (keepsO_some (keeps_setCall (keepsP_out ‹_› (keeps_stageB hs))))
        · split
          · exact (keepsO_some (keeps_setCall (keepsP_out ‹_› (keeps_stageA hs))))
  · split
    · exact (keepsO_some (keeps_callFail hs))
    · refine keepsO_ite ?_ ?_
      · exact (keepsO_some (keeps_sendData h11))
      · exact keepsO_none
  · refine keepsO_ite ?_ ?_
    · split
      · exact (keepsO_some (keeps_setCall (keepsP_out ‹_› (keeps_stageB hs))))
    · exact keepsO_none
  · split
    · exact (keepsO_some (keeps_callFail hs))
    · refine keepsO_ite ?_ ?_
      · exact (keepsO_some (keeps_sendRec h13))
      · exact keepsO_none
  · split
    · exact keepsO_none
    · exact (keepsO_some (keeps_finalSum hs))
  · split
    · exact (keepsO_some (keeps_callFail hs))
    · refine keepsO_ite ?_ ?_
      · refine keepsO_ite ?_ ?_
        · exact (keepsO_some (keeps_endCall (keeps_addF hs rfl)))
        · exact keepsO_none
      · refine keepsO_ite ?_ ?_
        · exact (keepsO_some (keeps_sendData h14))
        · exact keepsO_none
  · refine keepsO_ite ?_ ?_
    · exact (keepsO_some (keeps_endCall (keeps_addF hs rfl)))
    · exact keepsO_none

theorem keeps_gatherSend {s : State} {c : RdCall} {cm : Comm} (hs : Kept lasting calm false r s) :
    KeptP lasting calm false r (gatherSend s c cm) := by
  unfold gatherSend
  extract_lets p1 v2 x3 i4 c5 s6
  have h7 : Kept lasting calm false r s6 := (keeps_issueOne hs)
  refine keepsP_ite ?_ ?_
  · split
    · exact (keepsP_mk (keeps_issueOne hs))
    · exact (keepsP_mk (keeps_ite h7 (keeps_sendMc h7)))
  · exact (keepsP_foldl (keepsP_mk hs) (fun _ _ h8 => (keeps_giveMember (keepsP_fst h8))))

theorem keeps_gatherExpire {s : State} {d : Desc} {c : RdCall} {cm : Comm} (hs : Kept lasting calm dry r s) :
    Kept lasting calm dry r (gatherExpire s d c cm) := by
  unfold gatherExpire
  extract_lets p1 l2 m3 m4 s5 c6
  have h7 : Kept lasting calm dry r s5 := (keeps_foldl hs (fun _ _ h8 => (keeps_failMicro h8)))
  exact (keeps_setCall h7)

theorem keeps_setServe {s : State} {v : Serve} (hs : Kept lasting calm dry r s) :
    Kept lasting calm dry r (setServe s v) := by
  unfold setServe
  exact (keeps_mk (keeps_at hs))

theorem keeps_tellServe {s : State} {v : Serve} (hs : Kept lasting calm dry r s) :
    Kept lasting calm dry r (tellServe s v) := by
  unfold tellServe
  extract_lets s1
  have h2 : Kept lasting calm dry r s1 := (keeps_setServe hs)
  split
  · exact (keeps_setServe hs)
  · extract_lets x3
    refine keeps_ite ?_ ?_
    · exact (keeps_addNote h2)
    · split
      · exact (keeps_looseSend h2)

theorem keeps_sendServe {s : State} {v : Serve} {x : Shard} (hs : Kept lasting calm false r s) :
    Kept lasting calm false r (sendServe s v x) := by
  unfold sendServe
  extract_lets o1 n2 v3 d4 t5 s6
  have h7 : Kept lasting calm false r s6 := (keeps_mk (keeps_at hs))
  split
  · exact (keeps_setServe hs)
  · split
    · exact (keeps_tellServe hs)
    · extract_lets p8
      refine keeps_ite ?_ ?_
      · exact (keeps_tellServe hs)
      · refine keeps_ite ?_ ?_
        · split
          · exact (keeps_tellServe (keepsP_out ‹_› (keeps_writeChunks hs)))
        · split
          · extract_lets x9 s10
            have h11 : Kept lasting calm false r s10 := (keeps_pushMicro h7)
            split
            · exact (keeps_setServe hs)
            · exact (keeps_setServe (keeps_sendPieces h11))

theorem keeps_tryServe {s : State} {v : Serve} (hs : Kept lasting calm false r s) :
    KeptO lasting calm false r (tryServe s v) := by
  unfold tryServe
  extract_lets r1 n2 x3 s4
  have h5 : Kept lasting calm false r s4 := (keeps_ite (keeps_addF hs rfl) hs)
  refine keepsO_ite ?_ ?_
  · exact (keepsO_some (keeps_tellServe hs))
  · split
    · exact keepsO_none
    · exact (keepsO_some (keeps_tellServe hs))
    · exact (keepsO_some (keeps_drainShard (keeps_sendServe (keeps_setShard h5))))

theorem keeps_addServe {s : State} {die : Nat} {r0 : CtlRec} (hs : Kept lasting calm false r s) :
    Kept lasting calm false r (addServe s die r0) := by
  unfold addServe
  extract_lets l1 v2 s3 s4
  have h5 : Kept lasting calm false r s3 := (keeps_mk (keeps_at hs))
  have h6 : Kept lasting calm false r s4 := (keeps_mk (keeps_at h5))
  refine keeps_ite ?_ ?_
  · exact h5
  · exact (keeps_getD (keeps_tryServe h6) h6)

theorem keeps_staleServes {s : State} {die : Nat} {n : Nat} (hs : Kept lasting calm dry r s) :
    Kept lasting calm dry r (staleServes s die n) := by
  unfold staleServes
  exact (keeps_foldl hs (fun _ _ h1 => (keeps_tellServe h1)))

theorem keeps_applyForce {s : State} {die : Nat} {n : Nat} {f : Nat × Nat × Nat} (hs : Kept lasting calm false r s) :
    Kept lasting calm false r (applyForce s die n f) := by
  unfold applyForce
  extract_lets s1
  split
  · exact (keeps_openShard hs)
  · exact (keeps_openShard hs)
  · exact (keeps_freeShard hs)
  · exact (keeps_staleServes (keeps_freeShard hs))
  · exact (keeps_forceOpen (keeps_staleServes (keeps_freeShard hs)))

theorem keeps_forceShard {s : State} {die : Nat} {n : Nat} {f : Nat × Nat × Nat} (hs : Kept lasting calm false r s) :
    Kept lasting calm false r (forceShard s die n f) := by
  unfold forceShard
  extract_lets x1
  refine keeps_ite ?_ ?_
  · exact (keeps_setShard hs)
  · exact (keeps_applyForce hs)

theorem keeps_op1Step {s : State} (hs : Kept lasting calm false r s) :
    KeptO lasting calm false r (op1Step s) := by
  unfold op1Step
  exact (keepsO_findSome (fun _ => (keepsO_ite (keepsO_some (keeps_drainShard (keeps_setShard hs))) keepsO_none)))

theorem keeps_serveStep {s : State} (hs : Kept lasting calm false r s) :
    KeptO lasting calm false r (serveStep s) := by
  unfold serveStep
  exact (keepsO_findSome (fun _ => (keepsO_ite keepsO_none (keepsO_ite (keeps_tryServe hs) (by
      split
      · refine keepsO_ite ?_ ?_
        · exact keepsO_none
        · refine keepsO_ite ?_ ?_
          · exact (keepsO_some (keeps_tellServe hs))
          · exact (keepsO_some (keeps_setServe hs))
      · exact (keepsO_some (keeps_tellServe hs))
)))))

theorem keeps_takeEntry {s : State} {c : RdCall} {i : Nat} {r0 : CtlRec} (hs : Kept lasting calm dry r s) :
    Kept lasting calm dry r (takeEntry s c i r0) := by
  unfold takeEntry
  extract_lets e1 r2 s3 s4 e5 o6 c7 s8
  have h9 : Kept lasting calm dry r s8 := (keeps_ite (keeps_mk (keeps_at hs)) hs)
  exact (keeps_setCall (keeps_mk (keeps_at h9)))

theorem keeps_gatherStep {s : State} {d : Desc} {c : RdCall} {cm : Comm} (hs : Kept lasting calm false r s) :
    KeptO lasting calm false r (gatherStep s d c cm) := by
  unfold gatherStep
  extract_lets s1 s2 s3 b4
  have h5 : Kept lasting calm false r s1 := (keeps_sendData (keeps_setCall hs))
  have h6 : Kept lasting calm false r s3 := (keeps_ite (keeps_addF hs rfl) hs)
  split
  · refine keepsO_ite ?_ ?_
    · refine keepsO_ite ?_ ?_
      · exact (keepsO_some (keeps_refuseStale hs))
      · refine keepsO_ite ?_ ?_
        · exact keepsO_none
        · exact (keepsO_some (keeps_sendRec (keeps_setCall hs)))
    · refine keepsO_ite ?_ ?_
      · split
        · exact (keepsO_some (keeps_setCall (keepsP_out ‹_› (keeps_gatherSend hs))))
      · exact (keepsO_some (keeps_sendRec (keeps_setCall hs)))
  · split
    · exact (keepsO_some (keeps_callFail hs))
    · refine keepsO_ite ?_ ?_
      · exact (keepsO_some (keeps_sendRec h5))
      · exact keepsO_none
  · refine keepsO_ite ?_ ?_
    · exact (keepsO_some (keeps_endCall hs))
    · exact keepsO_none
  · split
    · exact (keepsO_some (keeps_takeEntry hs))
    · refine keepsO_ite ?_ ?_
      · exact (keepsO_some (keeps_endCall hs))
      · split
        · extract_lets s7 e8
          have h9 : Kept lasting calm false r s7 := (keeps_setCall hs)
          refine keepsO_ite ?_ ?_
          · exact (keepsO_some (keeps_addServe h9))
          · exact (keepsO_some (keeps_sendRec h9))
        · refine keepsO_ite ?_ ?_
          · exact (keepsO_some (keeps_endCall h6))
          · exact keepsO_none

theorem keeps_a2aStep {s : State} {d : Desc} {c : RdCall} {cm : Comm} (hs : Kept lasting calm false r s) :
    KeptO lasting calm false r (a2aStep s d c cm) := by
  unfold a2aStep
  extract_lets s1 d2 b3 s4
  have h5 : Kept lasting calm false r s4 := (keeps_sendData (keeps_setCall hs))
  split
  · split
    · exact (keepsO_some (keeps_setCall (keepsP_out ‹_› (keepsP_foldl (keepsP_mk hs) (fun _ _ h6 => (keeps_giveMember
        (keepsP_fst h6)))))))
  · split
    · exact (keepsO_some (keeps_callFail hs))
    · refine keepsO_ite ?_ ?_
      · exact (keepsO_some (keeps_sendRec h5))
      · exact keepsO_none
  · refine keepsO_ite ?_ ?_
    · exact (keepsO_some (keeps_endCall hs))
    · exact keepsO_none

theorem keeps_moveEntry {s : State} {c : RdCall} {cm : Comm} {addr : Nat} {ps : List (Bytes × Nat)} (hs : Kept lasting calm
    false r s) :
    KeptP lasting calm false r (moveEntry s c cm addr ps) := by
  unfold moveEntry
  extract_lets r1 c2
  split
  · refine keepsP_ite ?_ ?_
    · exact (keepsP_mk (keeps_writeFab hs))
    · split
      · exact (keepsP_mk (keepsP_out ‹_› (keeps_fabSend hs)))

theorem keeps_closeEntry {s : State} {c : RdCall} {e : Bytes} (hs : Kept lasting calm false r s) :
    KeptP lasting calm false r (closeEntry s c e) := by
  unfold closeEntry
  extract_lets o1 n2 o3 x4 e5
  split
  · extract_lets n6 t7
    refine keepsP_ite ?_ ?_
    · exact (keepsP_mk hs)
    · refine keepsP_ite ?_ ?_
      · exact (keepsP_mk (keeps_forceShard hs))
      · refine keepsP_ite ?_ ?_
        · exact (keepsP_mk (keeps_forceShard hs))
        · exact (keepsP_mk (keeps_forceShard hs))

theorem keeps_permuteGo {s : State} {c : RdCall} {cm : Comm} (hs : Kept lasting calm false r s) :
    Kept lasting calm false r (permuteGo s c cm) := by
  unfold permuteGo
  extract_lets k1 o2 n3 s4
  have h5 : Kept lasting calm false r s4 := (keeps_mk (keeps_at hs))
  split
  · exact (keeps_setCall (keepsP_out ‹_› (keepsP_foldl (keepsP_mk h5) (fun _ _ h6 => (keepsP_ite (keepsP_foldl h6 (fun _ _ h7
      => (keeps_moveEntry (keepsP_fst h7)))) (keeps_moveEntry (keepsP_fst h6)))))))

theorem keeps_permuteStep {s : State} {d : Desc} {c : RdCall} {cm : Comm} (hs : Kept lasting calm false r s) :
    KeptO lasting calm false r (permuteStep s d c cm) := by
  unfold permuteStep
  split
  · exact keepsO_none
  · split
    · exact (keepsO_some (keeps_callFail hs))
    · refine keepsO_ite ?_ ?_
      · split
        · extract_lets s1
          have h2 : Kept lasting calm false r s1 := (keeps_sendRec (keeps_setCall (keepsP_out ‹_› (keepsP_foldl (keepsP_mk hs)
              (fun _ _ h3 => (keeps_closeEntry (keepsP_fst h3)))))))
          exact (keepsO_some (keeps_sendData h2))
      · exact keepsO_none
  · refine keepsO_ite ?_ ?_
    · exact (keepsO_some (keeps_endCall hs))
    · exact keepsO_none

theorem keeps_sendItems {s : State} {c : RdCall} {cm : Comm} {round : Nat} {l : List Choice} (hs : Kept lasting calm false r s) :
    KeptP lasting calm false r (sendItems s c cm round l) := by
  unfold sendItems
  exact (keepsP_foldl (keepsP_mk hs) (fun _ _ h1 => by
    extract_lets b2
    exact (keeps_giveMember (keepsP_fst h1))
))

theorem keeps_hostAssign {s : State} {c : RdCall} {cm : Comm} {round : Nat} (hs : Kept lasting calm false r s) :
    KeptP lasting calm false r (hostAssign s c cm round) := by
  unfold hostAssign
  extract_lets c1 i2 s3
  split
  · extract_lets n4 s5 s6 c7 s8
    have h9 : Kept lasting calm false r s5 := (keeps_ite (keeps_addF hs rfl) hs)
    have h10 : Kept lasting calm false r s6 := (keeps_foldl h9 (fun _ _ h11 => (keepsP_fst (keeps_jobWrite h11))))
    have h12 : Kept lasting calm false r s8 := (keeps_setComm h10)
    split
    · exact (keepsP_mk (keepsP_out ‹_› (keepsP_foldl (keepsP_mk h12) (fun _ _ h13 => by
        extract_lets b14
        exact (keeps_giveMember (keepsP_fst h13))
))))

theorem keeps_rootExpert {s : State} {c : RdCall} {cm : Comm} (hs : Kept lasting calm false r s) :
    KeptO lasting calm false r (rootExpert s c cm) := by
  unfold rootExpert
  refine keepsO_ite ?_ ?_
  · split
    · exact (keepsO_some (keeps_closeAll hs))
  · exact keepsO_none

theorem keeps_hostStep {s : State} {d : Desc} {c : RdCall} {cm : Comm} (hs : Kept lasting calm false r s) :
    KeptO lasting calm false r (hostStep s d c cm) := by
  unfold hostStep
  extract_lets r1 r2
  refine keepsO_ite ?_ ?_
  · exact keepsO_none
  · refine keepsO_ite ?_ ?_
    · refine keepsO_ite ?_ ?_
      · exact (keepsO_some (keeps_sendData (keeps_setCall hs)))
      · exact keepsO_none
    · refine keepsO_ite ?_ ?_
      · split
        · exact (keepsO_some (keeps_setCall (keepsP_out ‹_› (keeps_hostAssign hs))))
      · exact keepsO_none

theorem keeps_dispatchStep {s : State} {d : Desc} {c : RdCall} {cm : Comm} (hs : Kept lasting calm false r s) :
    KeptO lasting calm false r (dispatchStep s d c cm) := by
  unfold dispatchStep
  extract_lets c1 s2 s3 l4 s5 l6 l7 m8 s9 s10 s11 p12 s13 s14 l15 p16 h17 r18 b19
  have h20 : Kept lasting calm false r s2 := (keeps_setComm hs)
  have h21 : Kept lasting calm false r s3 := (keeps_setCall hs)
  have h22 : Kept lasting calm false r s5 := (keeps_setCall hs)
  have h23 : Kept lasting calm false r s10 := (keeps_setComm hs)
  have h24 : Kept lasting calm false r s11 := (keeps_addF h23 rfl)
  have h25 : Kept lasting calm false r s13 := (keeps_setCall hs)
  have h26 : Kept lasting calm false r s14 := (keeps_sendData h25)
  split
  · exact (keepsO_some (keeps_callFail hs))
  · split
    · exact (keepsO_some (keepsO_out ‹_› (keeps_hostStep hs)))
    · split
      · split
        · exact (keepsO_some (keeps_setCall (keepsP_out ‹_› (keeps_sendItems h20))))
      · refine keepsO_ite ?_ ?_
        · exact (keepsO_some (keeps_foldl h21 (fun _ _ h27 => (keeps_sendRec h27))))
        · exact keepsO_none
      · refine keepsO_ite ?_ ?_
        · split
          · exact (keepsO_some (keeps_setCall (keepsP_out ‹_› (keeps_sendItems hs))))
        · exact keepsO_none
      · refine keepsO_ite ?_ ?_
        · exact (keepsO_some (keeps_foldl h22 (fun _ _ h28 => by
            extract_lets n29
            exact (keeps_sendRec h28)
)))
        · exact keepsO_none
      · refine keepsO_ite ?_ ?_
        · split
          · exact (keepsO_some (keeps_setCall (keepsP_out ‹_› (keepsP_foldl (keepsP_mk h24) (fun _ _ h30 => (by
                split
                · exact h30
                · exact (keeps_giveMember (keepsP_fst h30))
))))))
        · exact keepsO_none
      · refine keepsO_ite ?_ ?_
        · exact (keepsO_some (keeps_sendRec h26))
        · exact keepsO_none
      · split
        · exact keepsO_none
        · extract_lets a31 b32 w33
          refine keepsO_ite ?_ ?_
          · exact (keepsO_some (keeps_setCall (keeps_issueOne hs)))
          · exact keepsO_none
      · split
        · exact keepsO_none
        · refine keepsO_ite ?_ ?_
          · exact (keepsO_some (keeps_endCall hs))
          · exact keepsO_none

theorem keeps_combineStep {s : State} {d : Desc} {c : RdCall} {cm : Comm} (hs : Kept lasting calm false r s) :
    KeptO lasting calm false r (combineStep s d c cm) := by
  unfold combineStep
  extract_lets p1 s2 s3 p4 t5 s6 p7 c8 b9 p10
  have h11 : Kept lasting calm false r s2 := (keeps_setCall hs)
  have h12 : Kept lasting calm false r s3 := (keeps_sendData h11)
  have h13 : Kept lasting calm false r s6 := (keeps_viewed hs)
  split
  · split
    · exact (keepsO_some (keeps_setCall (keepsP_out ‹_› (keepsP_foldl (keepsP_mk hs) (fun _ _ h14 => (keeps_giveMember
        (keepsP_fst h14)))))))
  · split
    · exact (keepsO_some (keeps_callFail hs))
    · refine keepsO_ite ?_ ?_
      · exact (keepsO_some (keeps_sendRec h12))
      · exact keepsO_none
  · refine keepsO_ite ?_ ?_
    · split
      · extract_lets o15 g16 b17 w18 f19 s20 x21 s22 s23 s24
        have h25 : Kept lasting calm false r s20 := (keeps_countConv (keepsQ_out ‹_› (keeps_freshFree hs)))
        have h26 : Kept lasting calm false r s22 := (keeps_addSamples h25)
        have h27 : Kept lasting calm false r s23 := (keeps_foldl h26 (fun _ _ h28 => (keeps_issueOne h28)))
        have h29 : Kept lasting calm false r s24 := (keeps_issueOne h27)
        exact (keepsO_some (keeps_setCall h29))
    · exact keepsO_none
  · split
    · exact keepsO_none
    · refine keepsO_ite ?_ ?_
      · exact (keepsO_some (keeps_endCall hs))
      · exact keepsO_none

theorem keeps_rootStep {s : State} {d : Desc} {c : RdCall} {cm : Comm} (hs : Kept lasting calm false r s) :
    KeptO lasting calm false r (rootStep s d c cm) := by
  unfold rootStep
  refine keepsO_ite ?_ ?_
  · exact keepsO_none
  · split
    · refine keepsO_ite ?_ ?_
      · exact (keepsO_some (keeps_closeAll hs))
      · exact keepsO_none
    · split
      · exact (keepsO_some (keeps_closeAll hs))
      · refine keepsO_ite ?_ ?_
        · exact (keepsO_some (keeps_closeAll hs))
        · split
          · exact (keeps_rootReduce hs)
          · exact (keeps_rootExpert hs)
          · refine keepsO_ite ?_ ?_
            · exact (keepsO_some (keeps_closeAll hs))
            · exact keepsO_none

theorem keeps_abandonCall {s : State} {c : RdCall} {status : Nat} (hs : Kept lasting calm false r s) :
    Kept lasting calm false r (abandonCall s c status) := by
  unfold abandonCall
  extract_lets s1 s2
  have h3 : Kept lasting calm false r s1 := (keeps_mk (keeps_at hs))
  have h4 : Kept lasting calm false r s2 := (keeps_openAll (keeps_showActive h3))
  split
  · exact h4
  · extract_lets b5 s6
    have h7 : Kept lasting calm false r s6 := (keeps_ite h4 (keeps_ite (keeps_ite h4 (keeps_closeAll h4)) (keeps_sendRec h4)))
    exact (keeps_dropNotes h7)

theorem keeps_callStep_memberStep {s : State} {d : Desc} {c : RdCall} {cm : Comm} (hs : Kept lasting calm false r s) :
    KeptO lasting calm false r (callStep.memberStep s d c cm) := by
  unfold callStep.memberStep
  refine keepsO_ite ?_ ?_
  · refine keepsO_ite ?_ ?_
    · exact (keepsO_some (keeps_endCall hs))
    · exact keepsO_none
  · split
    · exact (keeps_reduceStep hs)
    · exact (keeps_gatherStep hs)
    · exact (keeps_a2aStep hs)
    · exact (keeps_permuteStep hs)
    · refine keepsO_ite ?_ ?_
      · exact (keeps_dispatchStep hs)
      · exact (keeps_combineStep hs)

theorem keeps_callStep {s : State} {c : RdCall} (hs : Kept lasting calm false r s) :
    KeptO lasting calm false r (callStep s c) := by
  unfold callStep
  split
  · exact (keepsO_some (keeps_abandonCall hs))
  · refine keepsO_ite ?_ ?_
    · exact (keepsO_some (keeps_abandonCall hs))
    · refine keepsO_ite ?_ ?_
      · exact keepsO_none
      · split
        · exact keepsO_none
        · refine keepsO_ite ?_ ?_
          · exact (keepsO_some (keeps_endCall (keeps_mk (keeps_at hs))))
          · split
            · exact (keepsO_some (keepsO_out ‹_› (keeps_rootStep hs)))
            · split
              · refine keepsO_ite ?_ ?_
                · exact (keepsO_some (keeps_endCall hs))
                · exact (keeps_callStep_memberStep hs)
              · exact (keeps_callStep_memberStep hs)

theorem keeps_callsStep {s : State} (hs : Kept lasting calm false r s) :
    KeptO lasting calm false r (callsStep s) := by
  unfold callsStep
  split
  · exact (keepsO_some (keepsO_out ‹_› (keepsO_findSome (fun _ => (keeps_callStep hs)))))
  · split
    · exact (keepsO_some (keepsO_out ‹_› (keeps_lateStep hs)))
    · split
      · exact (keepsO_some (keepsO_out ‹_› (keeps_reviveStep hs)))
      · split
        · exact (keepsO_some (keepsO_out ‹_› (keeps_serveStep hs)))
        · exact (keeps_op1Step hs)

end Sys2Proof.Laws
end

