-- ==== Sys2Proof/Laws/KeepSched.lean ====
section
/-! SUPPORT. What the tiers, the page map, the requests of movers, the snapshot engine and the schedules keep (see Laws/Keep.lean), one lemma an operation. -/

namespace Sys2Proof.Laws

open Sys2Proof Sys2Proof.Machine

variable {lasting calm dry : Bool} {r s t : State} {α β γ : Type}

theorem keeps_setHome {s : State} {r0 : Nat} {h0 : HomeRec} (hs : Kept lasting calm dry r s) :
    Kept lasting calm dry r (setHome s r0 h0) := by
  unfold setHome
  exact (keeps_mk (keeps_at hs))

theorem keeps_beginTier {s : State} {q : Nat} {tag : Nat} (hs : Kept lasting calm dry r s) :
    Kept lasting calm dry r (beginTier s q tag) := by
  unfold beginTier
  extract_lets d1
  split
  · exact hs
  · extract_lets s2
    have h3 : Kept lasting calm dry r s2 := (keeps_setFifo hs)
    exact (keeps_updDesc h3)

theorem keeps_noteTier {s : State} {q : Nat} {tag : Nat} {status : Nat} (hs : Kept lasting calm dry r s) :
    Kept lasting calm dry r (noteTier s q tag status) := by
  unfold noteTier
  exact (keeps_updDesc hs)

theorem keeps_endTier {s : State} {q : Nat} {tag : Nat} {status : Nat} (hs : Kept lasting calm dry r s) :
    Kept lasting calm dry r (endTier s q tag status) := by
  unfold endTier
  extract_lets d1 s2
  have h3 : Kept lasting calm dry r s2 := (keeps_setFifo hs)
  split
  · exact hs
  · exact (keeps_updDesc h3)

theorem keeps_evalMove {s : State} {m : Move} (hs : Kept lasting calm dry r s) :
    KeptP lasting calm dry r (evalMove s m) := by
  unfold evalMove
  extract_lets h1 s2
  have h3 : Kept lasting calm dry r s2 := (keeps_setHome hs)
  refine keepsP_ite ?_ ?_
  · exact (keepsP_mk hs)
  · refine keepsP_ite ?_ ?_
    · exact (keepsP_mk hs)
    · refine keepsP_ite ?_ ?_
      · exact (keepsP_mk (keeps_addF hs rfl))
      · refine keepsP_ite ?_ ?_
        · exact (keepsP_mk (keeps_addF hs rfl))
        · refine keepsP_ite ?_ ?_
          · exact (keepsP_mk hs)
          · split
            · exact (keepsP_mk hs)
            · exact (keepsP_mk (keeps_mk (keeps_at h3)))

theorem keeps_noteOrigin {s : State} {origin : Nat} {status : Nat} (hs : Kept lasting calm dry r s) :
    Kept lasting calm dry r (noteOrigin s origin status) := by
  unfold noteOrigin
  refine keeps_ite ?_ ?_
  · exact hs
  · refine keeps_ite ?_ ?_
    · exact (keeps_addF hs rfl)
    · exact hs

theorem keeps_updJob {s : State} {q : Nat} {tag : Nat} {f : TierJob → TierJob} (hs : Kept lasting calm dry r s) :
    Kept lasting calm dry r (updJob s q tag f) := by
  unfold updJob
  exact (keeps_mk (keeps_at hs))

theorem keeps_answerMove {s : State} {m : Move} {status : Nat} {eflag : Nat} (hs : Kept lasting calm dry r s) :
    Kept lasting calm dry r (answerMove s m status eflag) := by
  unfold answerMove
  split
  · exact (keeps_endTier (keeps_updJob hs))
  · exact (keeps_noteOrigin hs)

theorem keeps_requestMove {s : State} {m : Move} (hs : Kept lasting calm dry r s) :
    Kept lasting calm dry r (requestMove s m) := by
  unfold requestMove
  refine keeps_ite ?_ ?_
  · exact (keeps_mk (keeps_at hs))
  · split
    · exact (keeps_noteOrigin (keepsP_out ‹_› (keeps_evalMove hs)))
    · exact (keepsP_out ‹_› (keeps_evalMove hs))

theorem keeps_requestExtent {s : State} {fn : Nat} {va : Nat} {tier : Nat} {die : Nat} {prio : Nat} {origin : Nat} {a : Nat}
    (hs : Kept lasting calm dry r s) :
    Kept lasting calm dry r (requestExtent s fn va tier die prio origin a) := by
  unfold requestExtent
  split
  · exact hs
  · extract_lets s1
    have h2 : Kept lasting calm dry r s1 := (keeps_requestExtent hs)
    split
    · refine keeps_ite ?_ ?_
      · exact (keeps_requestMove h2)
      · exact h2
    · exact h2

theorem keeps_showLevel {s : State} (hs : Kept lasting calm dry r s) :
    Kept lasting calm dry r (showLevel s) := by
  unfold showLevel
  exact (keeps_setF hs rfl)

theorem keeps_loseFarPages {s : State} {k : Nat} (hs : Kept lasting calm dry r s) :
    Kept lasting calm dry r (loseFarPages s k) := by
  unfold loseFarPages
  extract_lets n1 m2
  exact (keeps_mk (keeps_at hs))

theorem keeps_fenceEmptied {s : State} (hs : Kept lasting calm dry r s) :
    Kept lasting calm dry r (fenceEmptied s) := by
  unfold fenceEmptied
  exact (keeps_foldl hs (fun _ _ h1 => (keeps_ite (keeps_showLevel (keeps_mk (keeps_at h1))) h1)))

theorem keeps_freeHome {s : State} {r0 : Nat} (hs : Kept lasting calm dry r s) :
    Kept lasting calm dry r (freeHome s r0) := by
  unfold freeHome
  extract_lets h1 m2 s3 s4
  have h5 : Kept lasting calm dry r s3 := (keeps_mk (keeps_at hs))
  have h6 : Kept lasting calm dry r s4 := (keeps_setF h5 rfl)
  refine keeps_ite ?_ ?_
  · exact (keeps_setF h6 rfl)
  · exact h6

theorem keeps_removePage {s : State} {fn : Nat} {base : Nat} (hs : Kept lasting calm dry r s) :
    Kept lasting calm dry r (removePage s fn base) := by
  unfold removePage
  extract_lets k1 s2
  have h3 : Kept lasting calm dry r s2 := (keeps_mk (keeps_at hs))
  split
  · exact hs
  · exact (keeps_fenceEmptied (keeps_ite (keeps_freeHome h3) h3))

theorem keeps_dropMove {s : State} {r0 : Nat} (hs : Kept lasting calm dry r s) :
    Kept lasting calm dry r (dropMove s r0) := by
  unfold dropMove
  exact (keeps_mk (keeps_at hs))

theorem keeps_copyLines {s : State} {src : Nat} {dst : Nat} {n : Nat} (hs : Kept lasting calm false r s) :
    Kept lasting calm false r (copyLines s src dst n) := by
  unfold copyLines
  extract_lets l1 i2 m3
  exact (keeps_mk (keeps_mem hs (wf_copyCells _ _ _ (keeps_wfMem hs))))

theorem keeps_copyRegion {s : State} {src : Nat} {dst : Nat} (hs : Kept lasting calm false r s) :
    Kept lasting calm false r (copyRegion s src dst) := by
  unfold copyRegion
  exact (keeps_copyLines hs)

theorem keeps_wearFlash {s : State} {m : Nat} (hs : Kept lasting calm dry r s) :
    Kept lasting calm dry r (wearFlash s m) := by
  unfold wearFlash
  extract_lets x1 s2 g3 r4 s5 s6
  have h7 : Kept lasting calm dry r s2 := (keepsQ_snd (keeps_freshFree hs))
  have h8 : Kept lasting calm dry r s5 := (keeps_setF h7 rfl)
  have h9 : Kept lasting calm dry r s6 := (keeps_setF h8 rfl)
  refine keeps_ite ?_ ?_
  · exact (keeps_setF h9 rfl)
  · exact h9

theorem keeps_landMove {s : State} {m : Move} (hs : Kept lasting false dry r s) :
    Kept lasting false dry r (landMove s m) := by
  unfold landMove
  extract_lets h1 c2 s3 s4 s5
  have h6 : Kept lasting false dry r s3 := (keeps_setHome hs)
  have h7 : Kept lasting false dry r s4 := (keeps_ite h6 (keeps_ite (keeps_addF h6 rfl) (keeps_addF h6 rfl)))
  have h8 : Kept lasting false dry r s5 := (keeps_ite (keeps_wearFlash h7) h7)
  exact (keeps_mk0 (keeps_at h8))

theorem keeps_updMove {s : State} {r0 : Nat} {f : Move → Move} (hs : Kept lasting calm dry r s) :
    Kept lasting calm dry r (updMove s r0 f) := by
  unfold updMove
  exact (keeps_mk (keeps_at hs))

theorem keeps_copyChunks {r0 : Nat} {a : Nat} {a2 : State} (ha2 : Kept lasting calm false r a2) :
    Kept lasting calm false r (copyChunks r0 a a2) := by
  unfold copyChunks
  split
  · exact (by assumption)
  · extract_lets h1
    split
    · exact (by assumption)
    · split
      · exact (by assumption)
      · extract_lets s2
        have h3 : Kept lasting calm false r s2 := (keeps_copyLines (by assumption))
        exact (keeps_copyChunks (keeps_updMove h3))

theorem keeps_loseRegion {s : State} {r0 : Nat} (hs : Kept lasting calm dry r s) :
    Kept lasting calm dry r (loseRegion s r0) := by
  unfold loseRegion
  extract_lets h1
  refine keeps_ite ?_ ?_
  · exact hs
  · exact (keeps_addF (keeps_setHome hs) rfl)

theorem keeps_abandonMove {s : State} {r0 : Nat} (hs : Kept lasting calm dry r s) :
    Kept lasting calm dry r (abandonMove s r0) := by
  unfold abandonMove
  extract_lets h1
  refine keeps_ite ?_ ?_
  · exact hs
  · exact (keeps_setHome hs)

theorem keeps_runJob {s : State} {q : Nat} {tag : Nat} {a : Nat} (hs : Kept lasting calm false r s) :
    Kept lasting calm false r (runJob s q tag a) := by
  unfold runJob
  extract_lets s1
  have h2 : Kept lasting calm false r s1 := (keeps_mk (keeps_at hs))
  split
  · exact hs
  · split
    · extract_lets b3 s4 s5 t6 d7 s8
      have h9 : Kept lasting calm false r s4 := (keeps_ite (keeps_noteTier h2) h2)
      have h10 : Kept lasting calm false r s5 := (keeps_updJob hs)
      have h11 : Kept lasting calm false r s8 := (keeps_beginTier (keeps_updJob h10))
      refine keeps_ite ?_ ?_
      · exact (keeps_maybeComplete (keeps_updDesc h9))
      · split
        · exact (keeps_runJob h10)
        · extract_lets m12
          refine keeps_ite ?_ ?_
          · refine keeps_ite ?_ ?_
            · exact (keeps_runJob (keeps_noteTier (keeps_updJob (keeps_removePage h10))))
            · exact (keeps_runJob h10)
          · refine keeps_ite ?_ ?_
            · exact (keeps_mk (keeps_at h11))
            · refine keeps_ite ?_ ?_
              · exact (keeps_runJob (keeps_noteTier (keeps_updJob (keeps_removePage h10))))
              · split
                · exact (keeps_runJob (keeps_noteTier (keeps_updJob (keepsP_out ‹_› (keeps_evalMove h10)))))
                · exact (keeps_beginTier (keepsP_out ‹_› (keeps_evalMove h10)))
    · exact hs

theorem keeps_resumeJob {s : State} {a : Option (Nat × Nat × Nat)} (hs : Kept lasting calm false r s) :
    Kept lasting calm false r (resumeJob s a) := by
  unfold resumeJob
  split
  · split
    · exact (keeps_runJob hs)
    · exact (keeps_maybeComplete hs)
  · exact hs

theorem keeps_serveWaiting {s : State} {r0 : Nat} {a : Nat} (hs : Kept lasting calm false r s) :
    Kept lasting calm false r (serveWaiting s r0 a) := by
  induction a generalizing s with
  | zero => exact hs
  | succ a ih =>
    unfold serveWaiting
    refine keeps_ite hs ?_
    split
    · exact hs
    · rename_i m _
      have h3 : Kept lasting calm false r { s with moves := delFirst (fun m => m.record == r0) s.moves } := keeps_mk (keeps_at hs)
      refine keeps_ite ?_ ?_
      · refine keeps_resumeJob (ih (keeps_answerMove ?_))
        split
        · exact keeps_removePage h3
        · exact h3
      · split
        · exact keeps_resumeJob (ih (keeps_answerMove (keepsP_out ‹_› (keeps_evalMove h3))))
        · exact keepsP_out ‹_› (keeps_evalMove h3)

theorem keeps_finishMove {s : State} {m : Move} {status : Nat} (hs : Kept lasting calm false r s) :
    Kept lasting calm false r (finishMove s m status) := by
  unfold finishMove
  extract_lets s1
  have h2 : Kept lasting calm false r s1 := (keeps_answerMove (keeps_dropMove hs))
  exact (keeps_fenceEmptied (keeps_resumeJob (keeps_serveWaiting h2)))

theorem keeps_failMove {s : State} {m : Move} {srcFailed : Bool} {status : Nat} (hs : Kept lasting calm false r s) :
    Kept lasting calm false r (failMove s m srcFailed status) := by
  unfold failMove
  exact (keeps_finishMove (keeps_ite (keeps_loseRegion hs) (keeps_abandonMove hs)))

theorem keeps_setSeq {s : State} {n : Nat} {x : SeqRec} (hs : Kept lasting calm dry r s) :
    Kept lasting calm dry r (setSeq s n x) := by
  unfold setSeq
  exact (keeps_mk (keeps_at hs))

theorem keeps_updSeq {s : State} {n : Nat} {f : SeqRec → SeqRec} (hs : Kept lasting calm dry r s) :
    Kept lasting calm dry r (updSeq s n f) := by
  unfold updSeq
  split
  · exact (keeps_setSeq hs)
  · exact hs

theorem keeps_setEnt {s : State} {die : Nat} {i : Nat} {e : PEntry} (hs : Kept lasting calm dry r s) :
    Kept lasting calm dry r (setEnt s die i e) := by
  unfold setEnt
  exact (keeps_mk (keeps_at hs))

theorem keeps_setPageEnt {s : State} {n : Nat} {x : SeqRec} {i : Nat} {e : PEntry} (hs : Kept lasting calm dry r s) :
    Kept lasting calm dry r (setPageEnt s n x i e) := by
  unfold setPageEnt
  exact (keeps_setEnt hs)

theorem keeps_syncPage {s : State} {n : Nat} {x : SeqRec} {i : Nat} (hs : Kept lasting calm dry r s) :
    Kept lasting calm dry r (syncPage s n x i) := by
  unfold syncPage
  extract_lets k1 e2
  refine keeps_ite ?_ ?_
  · exact (keeps_mk (keeps_at hs))
  · exact (keeps_mk (keeps_at hs))

theorem keeps_showPg {s : State} {die : Nat} (hs : Kept lasting calm dry r s) :
    Kept lasting calm dry r (showPg s die) := by
  unfold showPg
  extract_lets s1 u2 g3 s4 s5 s6
  have h7 : Kept lasting calm dry r s4 := (keeps_setF hs rfl)
  have h8 : Kept lasting calm dry r s5 := (keeps_setF h7 rfl)
  have h9 : Kept lasting calm dry r s6 := (keeps_setF h8 rfl)
  exact (keeps_setF h9 rfl)

theorem keeps_takeRegion {s : State} {die : Nat} {cls : Nat} (hs : Kept lasting calm dry r s) :
    KeptOR lasting calm dry r (takeRegion s die cls) := by
  unfold takeRegion
  extract_lets s1 c2
  split
  · exact keepsOR_none
  · refine keepsOR_ite ?_ ?_
    · exact (keepsOR_some (keepsR_mk (keeps_setF hs rfl)))
    · refine keepsOR_ite ?_ ?_
      · exact (keepsOR_some (keepsR_mk (keeps_setF hs rfl)))
      · exact keepsOR_none

theorem keeps_poolReturn {s : State} {die : Nat} (hs : Kept lasting calm dry r s) :
    Kept lasting calm dry r (poolReturn s die) := by
  unfold poolReturn
  split
  · exact (keeps_setF hs rfl)
  · exact (keeps_setF hs rfl)

theorem keeps_layPool {s : State} {die : Nat} (hs : Kept lasting calm dry r s) :
    Kept lasting calm dry r (layPool s die) := by
  unfold layPool
  extract_lets r1 s2
  have h3 : Kept lasting calm dry r s2 := (keeps_foldl hs (fun _ _ h4 => (keeps_setF h4 rfl)))
  exact (keeps_setF h3 rfl)

theorem keeps_beginPg {s : State} {q : Nat} {tag : Nat} (hs : Kept lasting calm dry r s) :
    Kept lasting calm dry r (beginPg s q tag) := by
  unfold beginPg
  split
  · exact hs
  · extract_lets s1
    have h2 : Kept lasting calm dry r s1 := (keeps_setFifo hs)
    exact (keeps_updDesc h2)

theorem keeps_endPg {s : State} {q : Nat} {tag : Nat} {status : Nat} {station : Nat} {detail : Bytes} (hs : Kept lasting calm
    false r s) :
    Kept lasting calm false r (endPg s q tag status station detail) := by
  unfold endPg
  extract_lets d1 s2
  have h3 : Kept lasting calm false r s2 := (keeps_setFifo hs)
  split
  · exact hs
  · extract_lets s4
    have h5 : Kept lasting calm false r s4 := (keeps_updDesc h3)
    exact (keeps_maybeComplete h5)

theorem keeps_advanceEpoch {s : State} {n : Nat} (hs : Kept lasting calm dry r s) :
    Kept lasting calm dry r (advanceEpoch s n) := by
  unfold advanceEpoch
  exact (keeps_updSeq hs)

theorem keeps_mapPage_zeroBytesAt {s : State} {a : Nat} (hs : Kept lasting calm false r s) :
    Kept lasting calm false r (mapPage.zeroBytesAt s a) := by
  unfold mapPage.zeroBytesAt
  exact (keeps_markLines (keeps_mk (keeps_mem hs (wf_zeroBytes _ _ (keeps_wfMem hs)))))

theorem keeps_mapPage {s : State} {n : Nat} {i : Nat} {r0 : Nat} (hs : Kept lasting calm false r s) :
    Kept lasting calm false r (mapPage s n i r0) := by
  unfold mapPage
  extract_lets s1
  have h2 : Kept lasting calm false r s1 := (keeps_mapPage_zeroBytesAt hs)
  split
  · exact hs
  · extract_lets e3 s4
    have h5 : Kept lasting calm false r s4 := (keeps_setPageEnt h2)
    exact (keeps_syncPage (keeps_setSeq h5))

theorem keeps_unmapPages {s : State} {n : Nat} {x : SeqRec} {is : List Nat} (hs : Kept lasting calm dry r s) :
    KeptQ lasting calm dry r (unmapPages s n x is) := by
  unfold unmapPages
  exact (keepsQ_foldl (keepsQ_mk hs) (fun _ _ h1 => by
    extract_lets e2
    refine keepsQ_ite ?_ ?_
    · exact (keepsQ_mk (keeps_syncPage (keeps_setPageEnt (keepsQ_snd h1))))
    · exact h1
))

theorem keeps_startRemap {s : State} {n : Nat} {i : Nat} {tier : Nat} {r0 : Nat} {why : Nat} {q : Nat} {tag : Nat} (hs : Kept
    lasting calm dry r s) :
    Kept lasting calm dry r (startRemap s n i tier r0 why q tag) := by
  unfold startRemap
  split
  · exact hs
  · extract_lets e1 s2
    have h3 : Kept lasting calm dry r s2 := (keeps_setPageEnt hs)
    exact (keeps_mk (keeps_at h3))

theorem keeps_selectDemotion {s : State} {die : Nat} {prio : Nat} {q : Nat} {tag : Nat} {tried : List (Nat × Nat)} (hs : Kept
    lasting calm dry r s) :
    KeptO lasting calm dry r (selectDemotion s die prio q tag tried) := by
  unfold selectDemotion
  extract_lets p1
  split
  · exact keepsO_none
  · exact (keepsO_map (fun _ => (keeps_startRemap hs)))

theorem keeps_updEdit {s : State} {n : Nat} {f : Edit → Edit} (hs : Kept lasting calm dry r s) :
    Kept lasting calm dry r (updEdit s n f) := by
  unfold updEdit
  exact (keeps_updSeq hs)

theorem keeps_preempt {s : State} {n : Nat} (hs : Kept lasting calm dry r s) :
    Kept lasting calm dry r (preempt s n) := by
  unfold preempt
  extract_lets s1
  have h2 : Kept lasting calm dry r s1 := (keeps_addF hs rfl)
  split
  · exact hs
  · extract_lets c3 l4
    exact (keeps_updEdit (keeps_setSeq h2))

theorem keeps_parkStep {s : State} {n : Nat} {x : SeqRec} {e : Edit} (hs : Kept lasting calm dry r s) :
    Kept lasting calm dry r (parkStep s n x e) := by
  unfold parkStep
  extract_lets d1 s2
  have h3 : Kept lasting calm dry r s2 := (keeps_ite hs (keeps_updEdit (keeps_addF (keeps_mk (keeps_at hs)) rfl)))
  refine keeps_ite ?_ ?_
  · exact (keeps_preempt h3)
  · refine keeps_ite ?_ ?_
    · exact h3
    · exact (keeps_getD (keeps_selectDemotion h3) h3)

theorem keeps_growStep {s : State} {n : Nat} {a : Nat} (hs : Kept lasting calm false r s) :
    Kept lasting calm false r (growStep s n a) := by
  induction a generalizing s with
  | zero => exact hs
  | succ a ih =>
    unfold growStep
    split
    · exact hs
    · split
      · exact hs
      · refine keeps_ite (keeps_updEdit (keeps_setSeq hs)) ?_
        split
        · exact ih (keeps_updEdit (keeps_mapPage (keepsOR_out ‹_› (keeps_takeRegion hs))))
        · exact keeps_parkStep hs

theorem keeps_closeEdit {s : State} {n : Nat} {status : Nat} {result : Nat} (hs : Kept lasting calm dry r s) :
    Kept lasting calm dry r (closeEdit s n status result) := by
  unfold closeEdit
  exact (keeps_updEdit hs)

theorem keeps_holdFor {s : State} {n : Nat} {is : List Nat} {held : List Nat} (hs : Kept lasting calm dry r s) :
    Kept lasting calm dry r (holdFor s n is held) := by
  unfold holdFor
  extract_lets b1 s2
  have h3 : Kept lasting calm dry r s2 := (keeps_ite hs (keeps_addF hs rfl))
  exact (keeps_updEdit h3)

theorem keeps_removePages {s : State} {n : Nat} {x : SeqRec} {is : List Nat} (hs : Kept lasting calm dry r s) :
    Kept lasting calm dry r (removePages s n x is) := by
  unfold removePages
  split
  · refine keeps_ite ?_ ?_
    · exact (keepsQ_out ‹_› (keeps_unmapPages hs))
    · exact (keeps_holdFor (keeps_advanceEpoch (keepsQ_out ‹_› (keeps_unmapPages hs))))

theorem keeps_moveNext {s : State} {n : Nat} {x : SeqRec} {e : Edit} {tier : Nat} (hs : Kept lasting calm dry r s) :
    KeptO lasting calm dry r (moveNext s n x e tier) := by
  unfold moveNext
  split
  · exact keepsO_none
  · extract_lets p1 o2 s3
    have h4 : ∀ x5 x7, Kept lasting calm dry r x5 → Kept lasting calm dry r (o2 x5 x7) := fun x5 x7 h6 => (keeps_updEdit h6)
    have h8 : ∀ x9, Kept lasting calm dry r x9 → Kept lasting calm dry r (s3 x9) := fun x9 h10 => (keeps_updEdit h10)
    refine keepsO_ite ?_ ?_
    · exact keepsO_none
    · refine keepsO_ite ?_ ?_
      · exact (keepsO_some (keeps_updEdit (h4 _ _ hs)))
      · refine keepsO_ite ?_ ?_
        · exact (keepsO_some (h4 _ _ hs))
        · refine keepsO_ite ?_ ?_
          · split
            · exact (keepsO_some (h8 _ hs))
            · exact (keepsO_some (h4 _ _ (keeps_startRemap (keepsOR_out ‹_› (keeps_takeRegion hs)))))
          · split
            · exact (keepsO_some (h8 _ hs))
            · exact (keepsO_some (h4 _ _ (keeps_startRemap hs)))

theorem keeps_moveN {a : Nat} {a1 : State} {a2 : Nat} (ha1 : Kept lasting calm dry r a1) :
    Kept lasting calm dry r (moveN a a1 a2) := by
  unfold moveN
  split
  · exact (by assumption)
  · split
    · exact (by assumption)
    · split
      · exact (by assumption)
      · split
        · exact (keeps_moveN (keepsO_out ‹_› (keeps_moveNext (by assumption))))
        · exact (by assumption)

theorem keeps_takePages {s : State} {n : Nat} (hs : Kept lasting calm dry r s) :
    Kept lasting calm dry r (takePages s n) := by
  unfold takePages
  split
  · exact (keeps_moveN hs)
  · exact hs

theorem keeps_applyEdit {s : State} {n : Nat} {d : Desc} {e : Edit} (hs : Kept lasting calm false r s) :
    Kept lasting calm false r (applyEdit s n d e) := by
  unfold applyEdit
  extract_lets i1 c2 f3 t4
  split
  · exact hs
  · extract_lets p5 i6 y7 y8 i9
    split
    · refine keeps_ite ?_ ?_
      · exact (keeps_closeEdit hs)
      · exact (keeps_growStep hs)
    · exact (keeps_closeEdit (keeps_removePages (keeps_setSeq hs)))
    · exact (keeps_closeEdit (keeps_removePages (keeps_setSeq hs)))
    · exact (keeps_closeEdit (keeps_setSeq hs))
    · refine keeps_ite ?_ ?_
      · exact (keeps_closeEdit (keeps_addF hs rfl))
      · exact (keeps_closeEdit (keeps_foldl hs (fun _ _ h10 => (keeps_setPageEnt h10))))
    · refine keeps_ite ?_ ?_
      · exact (keeps_closeEdit (keeps_addF hs rfl))
      · refine keeps_ite ?_ ?_
        · exact (keeps_closeEdit hs)
        · exact (keeps_takePages (keeps_updEdit hs))
    · exact hs

theorem keeps_releaseRegion {s : State} {a : Nat} (hs : Kept lasting calm false r s) :
    Kept lasting calm false r (releaseRegion s a) := by
  unfold releaseRegion
  extract_lets r1 d2
  refine keeps_ite ?_ ?_
  · exact hs
  · split
    · exact (keeps_poolReturn hs)
    · split
      · exact (keeps_poolReturn hs)
      · exact (keeps_growStep (keeps_mapPage hs))

theorem keeps_releaseRemap {s : State} {r0 : Remap} (hs : Kept lasting calm false r s) :
    Kept lasting calm false r (releaseRemap s r0) := by
  unfold releaseRemap
  extract_lets g1 k2
  split
  · refine keeps_ite ?_ ?_
    · exact (keeps_growStep (keeps_mapPage hs))
    · exact (keeps_releaseRegion hs)
  · exact (keeps_releaseRegion hs)

theorem keeps_releaseRegions {s : State} {as : List Nat} (hs : Kept lasting calm false r s) :
    Kept lasting calm false r (releaseRegions s as) := by
  unfold releaseRegions
  exact (keeps_foldl hs (fun _ _ h1 => (keeps_releaseRegion h1)))

theorem keeps_dropWalk {s : State} {w : Walk} (hs : Kept lasting calm false r s) :
    Kept lasting calm false r (dropWalk s w) := by
  unfold dropWalk
  extract_lets f1 w2 r3 s4 s5 d6 s7 s8
  have h9 : Kept lasting calm false r s5 := (keeps_mk (keeps_at hs))
  have h10 : Kept lasting calm false r s7 := (keeps_mk (keeps_at h9))
  have h11 : Kept lasting calm false r s8 := (keeps_foldl h10 (fun _ _ h12 => (keeps_releaseRemap h12)))
  refine keeps_ite ?_ ?_
  · exact (keeps_setF h11 rfl)
  · exact h11

theorem keeps_beginWalk {s : State} {die : Nat} {seq : Nat} {first : Nat} {last : Nat} {more : List Nat} {call : Option (Nat ×
    Nat)} (hs : Kept lasting calm dry r s) :
    Kept lasting calm dry r (beginWalk s die seq first last more call) := by
  unfold beginWalk
  split
  · extract_lets p1 i2 m3 g4 w5 s6 s7
    have h8 : Kept lasting calm dry r s6 := (keeps_mk (keeps_at hs))
    have h9 : Kept lasting calm dry r s7 := (keeps_foldl h8 (fun _ _ h10 => by
        extract_lets e11
        refine keeps_ite ?_ ?_
        · exact (keeps_setPageEnt h10)
        · exact h10
))
    exact (keeps_showPg (keeps_addF h9 rfl))
  · exact hs

theorem keeps_endWalk {s : State} {w : Walk} (hs : Kept lasting calm false r s) :
    Kept lasting calm false r (endWalk s w) := by
  unfold endWalk
  extract_lets s1 m2
  have h3 : Kept lasting calm false r s1 := (keeps_dropWalk hs)
  split
  · exact (keeps_beginWalk (keeps_mk (keeps_at h3)))
  · exact (keeps_mk (keeps_at h3))

theorem keeps_endEdit {s : State} {n : Nat} {x : SeqRec} {e : Edit} (hs : Kept lasting calm false r s) :
    Kept lasting calm false r (endEdit s n x e) := by
  unfold endEdit
  extract_lets s1 s2
  have h3 : Kept lasting calm false r s1 := (keeps_setSeq hs)
  have h4 : Kept lasting calm false r s2 := (keeps_ite (keeps_mk (keeps_at h3)) h3)
  exact (keeps_endPg (keeps_releaseRegions h4))

theorem keeps_startEdit_openSeq {s : State} {n : Nat} {d : Desc} {b0 : Nat} (hs : Kept lasting calm false r s) :
    Kept lasting calm false r (startEdit.openSeq s n d b0) := by
  unfold startEdit.openSeq
  extract_lets i1 s2 l3 s4 p5
  exact (keeps_setSeq (keeps_mk (keeps_at hs)))

theorem keeps_startEdit {s : State} {n : Nat} {q : Nat} {tag : Nat} (hs : Kept lasting calm false r s) :
    Kept lasting calm false r (startEdit s n q tag) := by
  unfold startEdit
  extract_lets s1
  have h2 : Kept lasting calm false r s1 := (keeps_mapMicros hs)
  split
  · exact hs
  · extract_lets b3 e4
    split
    · exact (keeps_endPg h2)
    · refine keeps_ite ?_ ?_
      · exact (keeps_endPg (keeps_startEdit_openSeq h2))
      · exact (keeps_applyEdit (keeps_updSeq h2))

theorem keeps_arriveEdit {s : State} {n : Nat} {q : Nat} {tag : Nat} (hs : Kept lasting calm false r s) :
    Kept lasting calm false r (arriveEdit s n q tag) := by
  unfold arriveEdit
  split
  · exact (keeps_startEdit hs)
  · refine keeps_ite ?_ ?_
    · exact (keeps_startEdit hs)
    · exact (keeps_setSeq hs)

theorem keeps_updRemapEnt {s : State} {r0 : Remap} {f : PEntry → PEntry} (hs : Kept lasting calm dry r s) :
    Kept lasting calm dry r (updRemapEnt s r0 f) := by
  unfold updRemapEnt
  split
  · exact hs
  · exact (keeps_syncPage (keeps_setPageEnt hs))

theorem keeps_releaseTarget {s : State} {r0 : Remap} (hs : Kept lasting calm false r s) :
    Kept lasting calm false r (releaseTarget s r0) := by
  unfold releaseTarget
  refine keeps_ite ?_ ?_
  · exact (keeps_releaseRegion hs)
  · exact hs

theorem keeps_landRemap {s : State} {r0 : Remap} (hs : Kept lasting calm false r s) :
    Kept lasting calm false r (landRemap s r0) := by
  unfold landRemap
  exact (keeps_updRemapEnt (keeps_copyRegion hs))

theorem keeps_landAlone {s : State} {r0 : Remap} (hs : Kept lasting calm false r s) :
    Kept lasting calm false r (landAlone s r0) := by
  unfold landAlone
  extract_lets s1 b2
  have h3 : Kept lasting calm false r s1 := (keeps_advanceEpoch (keeps_landRemap hs))
  refine keeps_ite ?_ ?_
  · exact (keeps_releaseRemap h3)
  · exact (keeps_mk (keeps_at h3))

theorem keeps_landEdit {s : State} {n : Nat} (hs : Kept lasting calm false r s) :
    Kept lasting calm false r (landEdit s n) := by
  unfold landEdit
  extract_lets r1 g2 b3 s4 s5 s6 s7
  have h8 : Kept lasting calm false r s4 := (keeps_mk (keeps_at hs))
  have h9 : Kept lasting calm false r s5 := (keeps_foldl h8 (fun _ _ h10 => (keeps_landRemap h10)))
  have h11 : Kept lasting calm false r s6 := (keeps_foldl h9 (fun _ _ h12 => (keeps_releaseTarget (keeps_updRemapEnt h12))))
  have h13 : Kept lasting calm false r s7 := (keeps_updEdit h11)
  split
  · exact hs
  · split
    · exact hs
    · refine keeps_ite ?_ ?_
      · exact h13
      · exact (keeps_holdFor (keeps_advanceEpoch h13))

theorem keeps_setRb {s : State} {die : Nat} {x : Rebuild} (hs : Kept lasting calm dry r s) :
    Kept lasting calm dry r (setRb s die x) := by
  unfold setRb
  exact (keeps_mk (keeps_at hs))

theorem keeps_endRebuild {s : State} {die : Nat} (hs : Kept lasting calm false r s) :
    Kept lasting calm false r (endRebuild s die) := by
  unfold endRebuild
  extract_lets x1
  exact (keeps_endPg (keeps_setRb hs))

theorem keeps_rehomeStep {s : State} {die : Nat} (hs : Kept lasting calm false r s) :
    Kept lasting calm false r (rehomeStep s die) := by
  unfold rehomeStep
  extract_lets x1 n2 s3
  have h4 : Kept lasting calm false r s3 := (keeps_setF hs rfl)
  refine keeps_ite ?_ ?_
  · exact hs
  · split
    · exact (keeps_startRemap (keeps_setRb h4))
    · refine keeps_ite ?_ ?_
      · exact hs
      · exact (keeps_endRebuild hs)

theorem keeps_nextRebuild {s : State} {die : Nat} (hs : Kept lasting calm false r s) :
    Kept lasting calm false r (nextRebuild s die) := by
  unfold nextRebuild
  extract_lets x1
  refine keeps_ite ?_ ?_
  · exact hs
  · split
    · exact hs
    · extract_lets s2
      have h3 : Kept lasting calm false r s2 := (keeps_mapMicros hs)
      split
      · exact (keeps_setRb hs)
      · extract_lets s4
        have h5 : Kept lasting calm false r s4 := (keeps_setRb h3)
        refine keeps_ite ?_ ?_
        · exact (keeps_setF h5 rfl)
        · exact (keeps_rehomeStep h5)

theorem keeps_swapBanksPg {s : State} {die : Nat} (hs : Kept lasting calm dry r s) :
    Kept lasting calm dry r (swapBanksPg s die) := by
  unfold swapBanksPg
  extract_lets b1 b2 r3 p4 s5 s6
  have h7 : Kept lasting calm dry r s5 := (keeps_setF (keeps_mk (keeps_at hs)) rfl)
  have h8 : Kept lasting calm dry r s6 := (keeps_mk (keeps_at h7))
  refine keeps_ite ?_ ?_
  · exact (keeps_setF h8 rfl)
  · exact h8

theorem keeps_advanceAll {s : State} {die : Nat} (hs : Kept lasting calm dry r s) :
    Kept lasting calm dry r (advanceAll s die) := by
  unfold advanceAll
  exact (keeps_foldl hs (fun _ _ h1 => (keeps_advanceEpoch h1)))

theorem keeps_pumpRebuild {s : State} {die : Nat} (hs : Kept lasting calm false r s) :
    Kept lasting calm false r (pumpRebuild s die) := by
  unfold pumpRebuild
  exact (keeps_foldl (keeps_nextRebuild (keeps_rehomeStep hs)) (fun _ _ h1 => (keeps_nextRebuild h1)))

theorem keeps_pgStep {s : State} (hs : Kept lasting calm false r s) :
    KeptO lasting calm false r (pgStep s) := by
  unfold pgStep
  split
  · exact (keepsO_some (keeps_showPg (keeps_pumpRebuild (keeps_endWalk hs))))
  · split
    · exact keepsO_none
    · split
      · extract_lets s1 s2
        have h3 : Kept lasting calm false r s1 := (keeps_endEdit hs)
        have h4 : Kept lasting calm false r s2 := (keeps_ite (keeps_foldl h3 (fun _ _ h5 => (keeps_arriveEdit h5))) h3)
        refine keepsO_ite ?_ ?_
        · exact (keepsO_some (keeps_showPg (keeps_takePages hs)))
        · refine keepsO_ite ?_ ?_
          · exact (keepsO_some (keeps_showPg (keeps_landEdit hs)))
          · exact (keepsO_some (keeps_showPg h4))
      · exact (keepsO_some (keeps_showPg (keeps_startEdit (keeps_setSeq hs))))
      · exact keepsO_none

theorem keeps_stalled {s : State} {old : Nat} (hs : Kept lasting calm dry r s) :
    KeptQ lasting calm dry r (stalled s old) := by
  unfold stalled
  exact (keepsQ_mk (keepsQ_snd (keeps_freshFree hs)))

theorem keeps_commitTile {s : State} {die : Nat} {n : Nat} {bytes : Bytes} (hs : Kept lasting calm false r s) :
    Kept lasting calm false r (commitTile s die n bytes) := by
  unfold commitTile
  split
  · exact hs
  · split
    · extract_lets s1
      have h2 : Kept lasting calm false r s1 := (keeps_physWrite (keepsQ_out ‹_› (keepsQ_ite (keeps_stalled hs) (keepsQ_mk hs))))
      exact (keeps_mk (keeps_at h2))

theorem keeps_releaseSlot {s : State} {die : Nat} {n : Nat} {station : Nat} (hs : Kept lasting calm dry r s) :
    Kept lasting calm dry r (releaseSlot s die n station) := by
  unfold releaseSlot
  split
  · exact hs
  · extract_lets c1
    split
    · exact (keeps_mk (keeps_at (keepsQ_out ‹_› (keepsQ_ite (keeps_stalled hs) (keepsQ_mk hs)))))

theorem keeps_bumpOnce {s : State} {die : Nat} {sps : List (Option Span)} (hs : Kept lasting calm dry r s) :
    Kept lasting calm dry r (bumpOnce s die sps) := by
  unfold bumpOnce
  exact (keepsQ_snd (keepsQ_foldl (keepsQ_mk hs) (fun _ _ h1 => by
    split
    · split
      · refine keepsQ_ite ?_ ?_
        · exact h1
        · exact (keepsQ_mk (keeps_bumpGen (keepsQ_snd h1)))
      · exact h1
    · exact h1
)))

theorem keeps_setReqs {s : State} {die : Nat} {mover : Nat} {rs : List Req} (hs : Kept lasting calm dry r s) :
    Kept lasting calm dry r (setReqs s die mover rs) := by
  unfold setReqs
  exact (keeps_mk (keeps_at hs))

theorem keeps_noteHeld {s : State} {die : Nat} {mover : Nat} (hs : Kept lasting calm dry r s) :
    Kept lasting calm dry r (noteHeld s die mover) := by
  unfold noteHeld
  exact (keeps_foldl hs (fun _ _ h1 => by
    split
    · extract_lets k2
      split
      · extract_lets s3
        have h4 : Kept lasting calm dry r s3 := (keeps_addF (keeps_updMove h1) rfl)
        split
        · refine keeps_ite ?_ ?_
          · exact h1
          · split
            · exact (keeps_updJob h4)
            · exact h4
        · exact h1
      · exact h1
    · exact h1
))

theorem keeps_addQuantum {s : State} {die : Nat} {mover : Nat} {q : Nat} (hs : Kept lasting calm dry r s) :
    Kept lasting calm dry r (addQuantum s die mover q) := by
  unfold addQuantum
  extract_lets k1
  exact (keeps_mk (keeps_at hs))

theorem keeps_deficitPick {s : State} {die : Nat} {mover : Nat} {qs : List (Nat × Nat)} {n : Nat} {cur : Nat} (hs : Kept
    lasting calm dry r s) :
    KeptOQ lasting calm dry r (deficitPick s die mover qs n cur) := by
  induction n generalizing s cur with
  | zero => exact keepsOQ_none
  | succ n ih =>
    unfold deficitPick
    extract_lets k1 s2
    have h3 : Kept lasting calm dry r s2 := (keeps_ite hs (keeps_mk (keeps_at hs)))
    split
    · exact (keepsOQ_some (keepsQ_mk (keeps_mk (keeps_at hs))))
    · split
      · exact ih (keeps_addQuantum h3)
      · exact ih (keeps_addQuantum h3)
      · exact keepsOQ_none

theorem keeps_pickAsk {s : State} {die : Nat} {mover : Nat} (hs : Kept lasting calm dry r s) :
    KeptOQ lasting calm dry r (pickAsk s die mover) := by
  unfold pickAsk
  extract_lets r1 x2 l3 m4 q5 w6
  refine keepsOQ_ite ?_ ?_
  · split
    · exact (keepsOQ_map (fun _ => (keepsQ_mk (keeps_mk (keeps_at (keepsOQ_out ‹_› (keeps_deficitPick hs)))))))
    · exact keepsOQ_none
  · exact (keepsOQ_map (fun _ => (keepsQ_mk hs)))

theorem keeps_issueAsk {s : State} {die : Nat} {mover : Nat} {pos : Nat} {m : Micro} {a : Ask} (hs : Kept lasting calm false r s) :
    Kept lasting calm false r (issueAsk s die mover pos m a) := by
  unfold issueAsk
  extract_lets r1 l2 f3 s4 w5 s6 o7 s8 s9 b10 d11 s12 b13 b14 s15 s16 r17
  have h18 : Kept lasting calm false r s9 := (keeps_ite hs (keeps_foldl hs (fun _ _ h19 => (keeps_touchHome h19))))
  have h20 : Kept lasting calm false r s12 := (keeps_ite (keepsQ_snd (keeps_freshFree h18)) h18)
  have h21 : Kept lasting calm false r s15 := (keeps_ite (keeps_commitTile h20) h20)
  have h22 : Kept lasting calm false r s16 := (keeps_ite (keeps_bumpOnce h21) h21)
  exact (keeps_setReqs (keeps_setFifo h22))

theorem keeps_pumpN {a : Nat} {a1 : State} {a2 : Nat} {a3 : Nat} (ha1 : Kept lasting calm false r a1) :
    Kept lasting calm false r (pumpN a a1 a2 a3) := by
  unfold pumpN
  split
  · exact (by assumption)
  · split
    · exact (keeps_pumpN (keeps_issueAsk (keepsOQ_out ‹_› (keeps_pickAsk (by assumption)))))
    · exact (by assumption)

theorem keeps_pumpMover {s : State} {die : Nat} {mover : Nat} (hs : Kept lasting calm false r s) :
    Kept lasting calm false r (pumpMover s die mover) := by
  unfold pumpMover
  refine keeps_ite ?_ ?_
  · exact hs
  · exact (keeps_pumpN (keeps_noteHeld hs))

theorem keeps_pump {s : State} (hs : Kept lasting calm false r s) :
    Kept lasting calm false r (pump s) := by
  unfold pump
  exact (keeps_foldl hs (fun _ _ h1 => (keeps_ite (keeps_pumpMover h1) h1)))

theorem keeps_endReq {s : State} {die : Nat} {mover : Nat} {r0 : Req} {status : Nat} (hs : Kept lasting calm dry r s) :
    Kept lasting calm dry r (endReq s die mover r0 status) := by
  unfold endReq
  exact (keeps_setFifo hs)

theorem keeps_setSet {s : State} {n : Nat} {x : SnSet} (hs : Kept lasting calm dry r s) :
    Kept lasting calm dry r (setSet s n x) := by
  unfold setSet
  exact (keeps_mk (keeps_at hs))

theorem keeps_updSet {s : State} {n : Nat} {f : SnSet → SnSet} (hs : Kept lasting calm dry r s) :
    Kept lasting calm dry r (updSet s n f) := by
  unfold updSet
  split
  · exact (keeps_setSet hs)
  · exact hs

theorem keeps_updRun {s : State} {n : Nat} {f : SnRun → SnRun} (hs : Kept lasting calm dry r s) :
    Kept lasting calm dry r (updRun s n f) := by
  unfold updRun
  exact (keeps_updSet hs)

theorem keeps_logLayer {s : State} {n : Nat} {layer : Nat} {status : Nat} (hs : Kept lasting calm dry r s) :
    Kept lasting calm dry r (logLayer s n layer status) := by
  unfold logLayer
  split
  · exact (keeps_logErr hs)
  · exact hs

theorem keeps_endRun {s : State} {n : Nat} {r0 : SnRun} (hs : Kept lasting calm dry r s) :
    Kept lasting calm dry r (endRun s n r0) := by
  unfold endRun
  extract_lets s1 s2
  have h3 : Kept lasting calm dry r s1 := (keeps_ite hs (keeps_signalTok hs))
  have h4 : Kept lasting calm dry r s2 := (keeps_updSet h3)
  exact (keeps_mk (keeps_at h4))

theorem keeps_endLayer {s : State} {n : Nat} {layer : Nat} {status : Nat} (hs : Kept lasting calm dry r s) :
    Kept lasting calm dry r (endLayer s n layer status) := by
  unfold endLayer
  extract_lets s1
  have h2 : Kept lasting calm dry r s1 := (keeps_ite hs (keeps_logLayer hs))
  split
  · exact hs
  · extract_lets r3 s4
    have h5 : Kept lasting calm dry r s4 := (keeps_updSet h2)
    refine keeps_ite ?_ ?_
    · exact hs
    · refine keeps_ite ?_ ?_
      · exact (keeps_endRun h5)
      · exact h5

theorem keeps_endPartner {s : State} {n : Nat} {status : Nat} (hs : Kept lasting calm dry r s) :
    Kept lasting calm dry r (endPartner s n status) := by
  unfold endPartner
  extract_lets s1 s2 s3
  have h4 : Kept lasting calm dry r s1 := (keeps_failMicro hs)
  have h5 : Kept lasting calm dry r s2 := (keeps_failMicro h4)
  have h6 : Kept lasting calm dry r s3 := (keeps_setFifo h5)
  exact (keeps_endLayer h6)

theorem keeps_sendPartner {s : State} {n : Nat} {idx : Nat} {off : Nat} {bs : Bytes} (hs : Kept lasting calm dry r s) :
    Kept lasting calm dry r (sendPartner s n idx off bs) := by
  unfold sendPartner
  extract_lets m1 p2 m3 s4
  have h5 : Kept lasting calm dry r s4 := (keeps_setFifo hs)
  split
  · exact hs
  · split
    · exact (keeps_endLayer hs)
    · exact (keeps_sendPieces h5)

theorem keeps_startPartner {s : State} {n : Nat} (hs : Kept lasting calm dry r s) :
    Kept lasting calm dry r (startPartner s n) := by
  unfold startPartner
  split
  · exact (keeps_endLayer hs)
  · exact (keeps_sendPartner hs)

theorem keeps_shrinkBanks {s : State} (hs : Kept lasting calm dry r s) :
    KeptO lasting calm dry r (shrinkBanks s) := by
  unfold shrinkBanks
  extract_lets c1 o2 i3 g4
  split
  · exact (keepsO_some (keeps_endPartner hs))
  · refine keepsO_ite ?_ ?_
    · exact (keepsO_some (keeps_mk (keeps_at hs)))
    · exact keepsO_none

theorem keeps_snapStep {s : State} (hs : Kept lasting calm dry r s) :
    KeptO lasting calm dry r (snapStep s) := by
  unfold snapStep
  split
  · exact (keepsO_some (keepsO_out ‹_› (keeps_shrinkBanks hs)))
  · split
    · exact keepsO_none
    · extract_lets n1 s2
      have h3 : Kept lasting calm dry r s2 := (keeps_setFifo hs)
      split
      · exact (keepsO_some h3)
      · refine keepsO_ite ?_ ?_
        · exact (keepsO_some (keeps_endLayer h3))
        · refine keepsO_ite ?_ ?_
          · exact (keepsO_some (keeps_sendPartner h3))
          · exact (keepsO_some (keeps_endLayer (keeps_updSet h3)))

theorem keeps_wardWrite {s : State} {t : Tx} (hs : Kept lasting false dry r s) :
    KeptP lasting false dry r (wardWrite s t) := by
  unfold wardWrite
  extract_lets s1
  have h2 : Kept lasting false dry r s1 := (keeps_mk0 (keeps_wardMem hs (wf_writeBytes _ _ (keeps_wfWard hs))))
  refine keepsP_ite ?_ ?_
  · exact (keepsP_mk hs)
  · refine keepsP_ite ?_ ?_
    · exact (keepsP_mk (keeps_mk0 (keeps_at h2)))
    · exact (keepsP_mk h2)

theorem keeps_soilSets {s : State} {die : Nat} {n : Nat} (hs : Kept lasting calm dry r s) :
    Kept lasting calm dry r (soilSets s die n) := by
  unfold soilSets
  exact (keeps_mk (keeps_at hs))

theorem keeps_applyOp1 {s : State} {die : Nat} {n : Nat} {q : Nat} {tag : Nat} (hs : Kept lasting calm dry r s) :
    KeptP lasting calm dry r (applyOp1 s die n q tag) := by
  unfold applyOp1
  extract_lets x1 s2
  have h3 : Kept lasting calm dry r s2 := (keeps_soilSets hs)
  refine keepsP_ite ?_ ?_
  · exact (keepsP_mk (keeps_setShard h3))
  · exact (keepsP_mk (keeps_setShard h3))

theorem keeps_opWaitStep {s : State} (hs : Kept lasting calm false r s) :
    KeptO lasting calm false r (opWaitStep s) := by
  unfold opWaitStep
  split
  · exact keepsO_none
  · extract_lets s1 d2 s3
    have h4 : Kept lasting calm false r s1 := (keeps_mk (keeps_at hs))
    split
    · exact (keepsO_some h4)
    · refine keepsO_ite ?_ ?_
      · exact (keepsO_some (keeps_freeRd h4))
      · split
        · exact (keepsO_some (keeps_ite (keeps_freeRd (keepsP_out ‹_› (keeps_applyOp1 h4))) (keepsP_out ‹_› (keeps_applyOp1 h4))))

theorem keeps_setSched {s : State} {k : Nat} {c : Schedule} (hs : Kept lasting calm dry r s) :
    Kept lasting calm dry r (setSched s k c) := by
  unfold setSched
  extract_lets d1 i2 b3 s4 s5 s6 s7
  have h8 : Kept lasting calm dry r s4 := (keeps_mk (keeps_at hs))
  have h9 : Kept lasting calm dry r s5 := (keeps_setF h8 rfl)
  have h10 : Kept lasting calm dry r s6 := (keeps_setF h9 rfl)
  have h11 : Kept lasting calm dry r s7 := (keeps_setF h10 rfl)
  exact (keeps_setF h11 rfl)

theorem keeps_showNext {s : State} {k : Nat} (hs : Kept lasting calm dry r s) :
    Kept lasting calm dry r (showNext s k) := by
  unfold showNext
  extract_lets f1
  split
  · exact (keeps_setF hs rfl)
  · exact hs

theorem keeps_endSched {s : State} {k : Nat} {c : Schedule} {status : Nat} {reason : Nat} {idx : Nat} {eflags : Nat} (hs : Kept
    lasting calm false r s) :
    Kept lasting calm false r (endSched s k c status reason idx eflags) := by
  unfold endSched
  extract_lets s1 s2 s3 s4
  have h5 : Kept lasting calm false r s1 := (keeps_mk (keeps_at hs))
  have h6 : Kept lasting calm false r s2 := (keeps_setF h5 rfl)
  have h7 : Kept lasting calm false r s3 := (keeps_setF h6 rfl)
  have h8 : Kept lasting calm false r s4 := (keeps_setF h7 rfl)
  split
  · refine keeps_ite ?_ ?_
    · exact h8
    · exact (keeps_completeDesc h8)
  · exact h8

theorem keeps_laneLeft {s : State} {q : Nat} {status : Nat} {reason : Nat} (hs : Kept lasting calm dry r s) :
    Kept lasting calm dry r (laneLeft s q status reason) := by
  unfold laneLeft
  split
  · extract_lets s1 c2
    exact (keeps_setSched hs)
  · exact hs

theorem keeps_startPart {s : State} {k : Nat} {l : Nat} {c : Schedule} {it : Item} {part : Nat} (hs : Kept lasting calm dry r s) :
    Kept lasting calm dry r (startPart s k l c it part) := by
  unfold startPart
  extract_lets q1 b2 i3
  split
  · extract_lets x4 b5 i6 n7 s8
    have h9 : Kept lasting calm dry r s8 := (keeps_setQInt hs)
    refine keeps_ite ?_ ?_
    · exact (keeps_setSched hs)
    · exact (keeps_setSched h9)

theorem keeps_moveStash {s : State} {k : Nat} {c : Schedule} {e : Bytes} {tier : Nat} (hs : Kept lasting calm dry r s) :
    Kept lasting calm dry r (moveStash s k c e tier) := by
  unfold moveStash
  extract_lets g1 p2
  exact (keeps_foldl hs (fun _ _ h3 => (keeps_requestExtent h3)))

theorem keeps_endItem {s : State} {k : Nat} {l : Nat} {c : Schedule} {it : Item} (hs : Kept lasting calm dry r s) :
    Kept lasting calm dry r (endItem s k l c it) := by
  unfold endItem
  extract_lets e1 s2 s3 s4 l5 s6 s7 k8 s9 d10 c11 c12 s13 s14 s15
  have h16 : Kept lasting calm dry r s7 := (keeps_ite (keeps_signalTok hs) hs)
  have h17 : Kept lasting calm dry r s13 := (keeps_setSched h16)
  have h18 : Kept lasting calm dry r s14 := (keeps_addF h17 rfl)
  have h19 : Kept lasting calm dry r s15 := (keeps_ite (keeps_addF h18 rfl) h18)
  refine keeps_ite ?_ ?_
  · exact (keeps_moveStash h19)
  · exact h19

theorem keeps_nextPart {s : State} {k : Nat} {l : Nat} {c : Schedule} {it : Item} (hs : Kept lasting calm dry r s) :
    Kept lasting calm dry r (nextPart s k l c it) := by
  unfold nextPart
  extract_lets g1 f2
  refine keeps_ite ?_ ?_
  · exact (keeps_endItem hs)
  · refine keeps_ite ?_ ?_
    · exact (keeps_startPart hs)
    · refine keeps_ite ?_ ?_
      · exact (keeps_startPart hs)
      · refine keeps_ite ?_ ?_
        · exact (keeps_endItem hs)
        · split
          · exact (keeps_startPart hs)
          · exact (keeps_startPart hs)
          · exact (keeps_startPart hs)
          · exact (keeps_endItem hs)

theorem keeps_abandonItem {s : State} {k : Nat} {l : Nat} {c : Schedule} {it : Item} (hs : Kept lasting calm false r s) :
    Kept lasting calm false r (abandonItem s k l c it) := by
  unfold abandonItem
  extract_lets q1 i2 k3 s4 i5 s6 s7
  have h8 : Kept lasting calm false r s4 := (keeps_setQInt hs)
  have h9 : Kept lasting calm false r s6 := (keeps_setSched h8)
  have h10 : Kept lasting calm false r s7 := (keeps_ite h9 (keeps_addF h9 rfl))
  exact (keeps_foldl h10 (fun _ _ h11 => (keeps_cancelDesc h11)))

theorem keeps_countEnd {s : State} {q : Nat} {pos : Nat} {status : Nat} (hs : Kept lasting calm false r s) :
    Kept lasting calm false r (countEnd s q pos status) := by
  unfold countEnd
  split
  · exact hs
  · split
    · exact hs
    · extract_lets m1 a2 e3 i4 s5
      have h6 : Kept lasting calm false r s5 := (keeps_setSched hs)
      refine keeps_ite ?_ ?_
      · split
        · exact (keeps_abandonItem h6)
        · exact h6
      · exact h6

theorem keeps_finishSched {s : State} {k : Nat} {c : Schedule} (hs : Kept lasting calm false r s) :
    Kept lasting calm false r (finishSched s k c) := by
  unfold finishSched
  split
  · exact (keeps_endSched hs)
  · exact (keeps_endSched hs)

theorem keeps_settleStep {s : State} (hs : Kept lasting calm false r s) :
    KeptO lasting calm false r (settleStep s) := by
  unfold settleStep
  split
  · exact (keepsO_some (keeps_countEnd (keeps_mk (keeps_at hs))))
  · split
    · exact (keepsO_some (keeps_nextPart hs))
    · split
      · exact (keepsO_some (keeps_finishSched hs))
      · split
        · exact (keepsO_some (keepsO_out ‹_› (keeps_pgStep hs)))
        · split
          · exact (keepsO_some (keepsO_out ‹_› (keeps_callsStep hs)))
          · split
            · exact (keepsO_some (keepsO_out ‹_› (keeps_snapStep hs)))
            · exact (keeps_opWaitStep hs)

theorem keeps_settleN {a : Nat} {a1 : State} (ha1 : Kept lasting calm false r a1) :
    Kept lasting calm false r (settleN a a1) := by
  unfold settleN
  split
  · exact (by assumption)
  · split
    · exact (keeps_settleN (keepsO_out ‹_› (keeps_settleStep (by assumption))))
    · exact (by assumption)

theorem keeps_noteEligible {s : State} (hs : Kept lasting calm dry r s) :
    Kept lasting calm dry r (noteEligible s) := by
  unfold noteEligible
  exact (keeps_foldl hs (fun _ _ h1 => by
    extract_lets o2 s3
    refine keeps_ite ?_ ?_
    · exact (keeps_setQInt (keeps_mk (keeps_at h1)))
    · refine keeps_ite ?_ ?_
      · exact (keeps_setQInt h1)
      · exact h1
))

theorem keeps_noteSlotWaits {s : State} {k : Nat} (hs : Kept lasting calm dry r s) :
    Kept lasting calm dry r (noteSlotWaits s k) := by
  unfold noteSlotWaits
  exact (keeps_foldl hs (fun _ _ h1 => by
    split
    · exact h1
    · split
      · refine keeps_ite ?_ ?_
        · exact (keeps_addF (keeps_setSched h1) rfl)
        · exact h1
      · exact h1
))

theorem keeps_noteAllSlotWaits {s : State} (hs : Kept lasting calm dry r s) :
    Kept lasting calm dry r (noteAllSlotWaits s) := by
  unfold noteAllSlotWaits
  exact (keeps_foldl hs (fun _ _ h1 => by
    split
    · refine keeps_ite ?_ ?_
      · exact h1
      · exact (keeps_noteSlotWaits h1)
    · exact h1
))

theorem keeps_settle {s : State} (hs : Kept lasting calm false r s) :
    Kept lasting calm false r (settle s) := by
  unfold settle
  exact (keeps_pump (keeps_noteAllSlotWaits (keeps_noteEligible (keeps_settleN hs))))

theorem keeps_releaseWith {s : State} {k : Nat} {l : Nat} {c : Schedule} {i : Nat} {e : Bytes} (hs : Kept lasting calm false r s) :
    Kept lasting calm false r (releaseWith s k l c i e) := by
  unfold releaseWith
  extract_lets c1 n2 x3 s4 s5 l6 c7 s8 d9 i10 s11
  have h12 : Kept lasting calm false r s4 := (keeps_setSched hs)
  have h13 : Kept lasting calm false r s5 := (keeps_ite (keeps_moveStash h12) h12)
  have h14 : Kept lasting calm false r s8 := (keeps_setSched (keeps_ite h13 (keeps_addF h13 rfl)))
  have h15 : Kept lasting calm false r s11 := (keeps_endItem h14)
  split
  · exact (keeps_showNext (keeps_startPart h14))
  · refine keeps_ite ?_ ?_
    · exact (keeps_showNext (keeps_startPart h14))
    · exact (keeps_showNext (keeps_startPart h14))
  · exact (keeps_showNext (keeps_startPart h14))
  · exact (keeps_showNext (keeps_endItem h14))
  · split
    · exact h15
    · extract_lets c16
      split
      · extract_lets c17 c18
        exact (keeps_showNext (keeps_setSched (keepsP_out ‹_› (keeps_jobWrite h15))))

theorem keeps_releaseEntry {s : State} {k : Nat} {l : Nat} {c : Schedule} {i : Nat} {e : Bytes} (hs : Kept lasting calm false r s) :
    Kept lasting calm false r (releaseEntry s k l c i e) := by
  unfold releaseEntry
  refine keeps_ite ?_ ?_
  · exact (keeps_releaseWith hs)
  · split
    · exact (keeps_releaseWith hs)
    · exact (keeps_setSched hs)

end Sys2Proof.Laws
end

