-- ==== Sys2Proof/Laws/KeepStations.lean ====
section
/-! SUPPORT. What the matrix, split and attention stations and register accesses keep (see Laws/Keep.lean), one lemma an operation. -/

namespace Sys2Proof.Laws

open Sys2Proof Sys2Proof.Machine

variable {lasting calm dry : Bool} {r s t : State} {α β γ : Type}

theorem keeps_mxCount {s : State} {f : Fld} {die : Nat} {st : Nat} {k : Nat} (hs : Kept lasting calm dry r s) (hf : apart f =
    true) :
    Kept lasting calm dry r (mxCount s f die st k) := by
  unfold mxCount
  refine keeps_ite ?_ ?_
  · exact hs
  · exact (keeps_addD hs hf)

theorem keeps_countPoison {s : State} {die : Nat} {st : Nat} {k : Nat} (hs : Kept lasting calm dry r s) :
    Kept lasting calm dry r (countPoison s die st k) := by
  unfold countPoison
  refine keeps_ite ?_ ?_
  · exact hs
  · exact (keeps_addD hs rfl)

theorem keeps_countMasked {s : State} {die : Nat} {x : MxBody} {sts : List Nat} {table : Bytes} (hs : Kept lasting calm dry r s) :
    Kept lasting calm dry r (countMasked s die x sts table) := by
  unfold countMasked
  exact (keeps_foldl hs (fun _ _ h1 => (keeps_ite h1 (keeps_mxCount h1 rfl))))

theorem keeps_runMatrix {s : State} {d : Desc} {kind : Pair} (hs : Kept lasting calm false r s) :
    Kept lasting calm false r (runMatrix s d kind) := by
  unfold runMatrix
  extract_lets x1 d2 s3 m4 p5 u6 p7 c8 f9
  split
  · exact (keeps_endOp hs)
  · refine keeps_ite ?_ ?_
    · exact (keeps_endOp hs)
    · refine keeps_ite ?_ ?_
      · exact (keeps_endOp (keeps_countMasked hs))
      · exact (keeps_withStreams hs (fun _ _ h10 => by
          extract_lets s11 s12
          have h13 : Kept lasting calm false r s11 := (keeps_takeSnap (keeps_countMasked h10))
          have h14 : Kept lasting calm false r s12 := (keeps_takeIn h13)
          exact (keeps_runProgram h14)
))

theorem keeps_runMxOp {op : Nat} {q : Nat} {tag : Nat} {s : State} (hs : Kept lasting calm false r s) :
    Kept lasting calm false r (runMxOp op q tag s) := by
  unfold runMxOp
  split
  · exact hs
  · split
    · exact (keeps_settle (keeps_rejectOp hs))
    · exact (keeps_settle (keeps_runMatrix hs))
    · exact hs

theorem keeps_execMxFwd {q : Nat} {tag : Nat} {s : State} (hs : Kept lasting calm false r s) :
    KeptN lasting calm false r (execMxFwd q tag s) := by
  unfold execMxFwd
  exact (keepsN_next (keeps_runMxOp hs))

theorem keeps_execMxDgrad {q : Nat} {tag : Nat} {s : State} (hs : Kept lasting calm false r s) :
    KeptN lasting calm false r (execMxDgrad q tag s) := by
  unfold execMxDgrad
  exact (keepsN_next (keeps_runMxOp hs))

theorem keeps_execMxWgrad {q : Nat} {tag : Nat} {s : State} (hs : Kept lasting calm false r s) :
    KeptN lasting calm false r (execMxWgrad q tag s) := by
  unfold execMxWgrad
  exact (keepsN_next (keeps_runMxOp hs))

theorem keeps_execMxLoad {die : Nat} {st : Nat} {s : State} (hs : Kept lasting calm dry r s) :
    KeptN lasting calm dry r (execMxLoad die st s) := by
  unfold execMxLoad
  exact (keepsN_next (keeps_ite (keeps_setF (keeps_setFifo hs) rfl) hs))

theorem keeps_swapSets {s : State} {die : Nat} {st : Nat} (hs : Kept lasting calm dry r s) :
    Kept lasting calm dry r (swapSets s die st) := by
  unfold swapSets
  exact (keeps_setF (keeps_setF hs rfl) rfl)

theorem keeps_startPass {s : State} {die : Nat} {st : Nat} {parity : Option Nat} (hs : Kept lasting calm dry r s) :
    Kept lasting calm dry r (startPass s die st parity) := by
  unfold startPass
  split
  · exact hs
  · extract_lets s1
    have h2 : Kept lasting calm dry r s1 := by
      unfold s1
      split
      · exact (keeps_swapSets hs)
      · exact hs

    exact (keeps_setF (keeps_setFifo h2) rfl)

theorem keeps_execShadowReady {die : Nat} {st : Nat} {s : State} (hs : Kept lasting calm dry r s) :
    KeptN lasting calm dry r (execShadowReady die st s) := by
  unfold execShadowReady
  extract_lets s1
  have h2 : Kept lasting calm dry r s1 := (keeps_setF (keeps_setFifo hs) rfl)
  exact (keepsN_next (keeps_ite (keeps_ite (keeps_startPass h2) h2) hs))

theorem keeps_execMxStream {die : Nat} {st : Nat} {parity : Option Nat} {s : State} (hs : Kept lasting calm dry r s) :
    KeptN lasting calm dry r (execMxStream die st parity s) := by
  unfold execMxStream
  exact (keepsN_next (keeps_ite (by
    split
    · refine keeps_ite ?_ ?_
      · exact (keeps_startPass hs)
      · exact (keeps_setF hs rfl)
    · refine keeps_ite ?_ ?_
      · exact (keeps_startPass hs)
      · exact hs
    · exact (keeps_setFifo hs)
    · exact hs
) hs))

theorem keeps_nextIssue {s : State} {die : Nat} {st : Nat} (hs : Kept lasting calm dry r s) :
    Kept lasting calm dry r (nextIssue s die st) := by
  unfold nextIssue
  split
  · exact (keeps_setF hs rfl)
  · refine keeps_ite ?_ ?_
    · exact (keeps_startPass hs)
    · exact (keeps_setF hs rfl)

theorem keeps_countPass {s : State} {die : Nat} {st : Nat} {rows : Nat} {skip : Nat} {cycles : Nat} {parity : Option Nat} (hs :
    Kept lasting false dry r s) :
    Kept lasting false dry r (countPass s die st rows skip cycles parity) := by
  unfold countPass
  extract_lets s1 s2
  have h3 : Kept lasting false dry r s1 := (keeps_mxCount (keeps_mxCount hs rfl) rfl)
  have h4 : Kept lasting false dry r s2 := (keeps_ite h3 (keeps_addW h3 rfl))
  refine keeps_ite ?_ ?_
  · exact h4
  · exact (keeps_logRec (keeps_ite h4 (keeps_addF h4 rfl)))

theorem keeps_atAdd {s : State} {f : Fld} {die : Nat} {st : Nat} {k : Nat} {div : Nat} (hs : Kept lasting calm dry r s) (hf :
    apart f = true) :
    Kept lasting calm dry r (atAdd s f die st k div) := by
  unfold atAdd
  refine keeps_ite ?_ ?_
  · exact hs
  · exact (keeps_addD hs hf)

theorem keeps_countPairs {s : State} {die : Nat} {c : AtCall} {ps : List BPair} (hs : Kept lasting calm dry r s) :
    Kept lasting calm dry r (countPairs s die c ps) := by
  unfold countPairs
  extract_lets o1 r2
  exact (keeps_foldl hs (fun _ _ h3 => by
    extract_lets k4 s5 s6 s7
    have h8 : Kept lasting calm dry r s5 := (keeps_atAdd h3 rfl)
    have h9 : Kept lasting calm dry r s6 := (keeps_atAdd h8 rfl)
    have h10 : Kept lasting calm dry r s7 := (keeps_atAdd h9 rfl)
    exact (keeps_atAdd h10 rfl)
))

theorem keeps_countRows {s : State} {die : Nat} {fin : Bool} {fs : List FinalRow} (hs : Kept lasting calm dry r s) :
    Kept lasting calm dry r (countRows s die fin fs) := by
  unfold countRows
  exact (keeps_foldl hs (fun _ _ h1 => (keeps_ite (keeps_atAdd h1 rfl) (keeps_ite h1 (keeps_ite (keeps_atAdd h1 rfl) (keeps_ite
      (keeps_atAdd h1 rfl) h1))))))

theorem keeps_countGrads {s : State} {c : AtCall} {gs : List KGrad} (hs : Kept lasting calm dry r s) :
    Kept lasting calm dry r (countGrads s c gs) := by
  unfold countGrads
  exact (keeps_foldl hs (fun _ _ h1 => by
    extract_lets h2
    exact (keeps_atAdd h1 rfl)
))

theorem keeps_countSliced {s : State} {die : Nat} {elems : Nat} {zer : Nat} (hs : Kept lasting calm dry r s) :
    Kept lasting calm dry r (countSliced s die elems zer) := by
  unfold countSliced
  exact (keeps_addD (keeps_addD hs rfl) rfl)

theorem keeps_countSplit {s : State} {die : Nat} {un : Bool} (hs : Kept lasting calm dry r s) :
    Kept lasting calm dry r (countSplit s die un) := by
  unfold countSplit
  extract_lets s1
  have h2 : Kept lasting calm dry r s1 := (keeps_addF hs rfl)
  refine keeps_ite ?_ ?_
  · exact (keeps_addF h2 rfl)
  · exact h2

theorem keeps_runGemm {s : State} {d : Desc} (hs : Kept lasting calm false r s) :
    Kept lasting calm false r (runGemm s d) := by
  unfold runGemm
  extract_lets x1 d2 c3 s4 u5 r6
  refine keeps_ite ?_ ?_
  · exact (keeps_endOp hs)
  · exact (keeps_withStreams hs (fun _ _ h7 => by
      extract_lets s8 o9
      have h10 : Kept lasting calm false r s8 := (keeps_takeIn (keeps_takeSnap h7))
      exact (keeps_runProgram h10)
))

theorem keeps_execSlGemm {q : Nat} {tag : Nat} {s : State} (hs : Kept lasting calm false r s) :
    KeptN lasting calm false r (execSlGemm q tag s) := by
  unfold execSlGemm
  exact (keepsN_next (by
    split
    · exact hs
    · split
      · exact (keeps_settle (keeps_rejectOp hs))
      · exact (keeps_settle (keeps_runGemm hs))
))

theorem keeps_runSlice {s : State} {d : Desc} (hs : Kept lasting calm false r s) :
    Kept lasting calm false r (runSlice s d) := by
  unfold runSlice
  extract_lets d1
  exact (keeps_withStreams hs (fun _ _ h2 => (keeps_runProgram h2)))

theorem keeps_execSlSlice {q : Nat} {tag : Nat} {s : State} (hs : Kept lasting calm false r s) :
    KeptN lasting calm false r (execSlSlice q tag s) := by
  unfold execSlSlice
  exact (keepsN_next (by
    split
    · exact hs
    · split
      · exact (keeps_settle (keeps_rejectOp hs))
      · exact (keeps_settle (keeps_runSlice hs))
))

theorem keeps_runEw {s : State} {d : Desc} (hs : Kept lasting calm false r s) :
    Kept lasting calm false r (runEw s d) := by
  unfold runEw
  extract_lets d1 i2
  exact (keeps_withStreams hs (fun _ _ h3 => (keeps_runProgram h3)))

theorem keeps_execVxEw {q : Nat} {tag : Nat} {s : State} (hs : Kept lasting calm false r s) :
    KeptN lasting calm false r (execVxEw q tag s) := by
  unfold execVxEw
  exact (keepsN_next (by
    split
    · exact hs
    · refine keeps_ite ?_ ?_
      · exact (keeps_settle (keeps_rejectOp hs))
      · exact (keeps_settle (keeps_runEw hs))
))

theorem keeps_endAt {s : State} {d : Desc} {e : AtEnd} (hs : Kept lasting calm false r s) :
    Kept lasting calm false r (endAt s d e) := by
  unfold endAt
  split
  · exact (keeps_completeDesc hs)
  · exact (keeps_completeDesc hs)

theorem keeps_setRing {s : State} {r0 : RingCall} (hs : Kept lasting calm dry r s) :
    Kept lasting calm dry r (setRing s r0) := by
  unfold setRing
  exact (keeps_mk (keeps_at hs))

theorem keeps_dropRing {s : State} {r0 : RingCall} (hs : Kept lasting calm dry r s) :
    Kept lasting calm dry r (dropRing s r0) := by
  unfold dropRing
  exact (keeps_mk (keeps_at hs))

theorem keeps_countParity {s : State} {d : Desc} {c : AtCall} {n : Nat} {k : Nat} (hs : Kept lasting false dry r s) :
    Kept lasting false dry r (countParity s d c n k) := by
  unfold countParity
  exact (keeps_foldl hs (fun _ _ h1 => by
    extract_lets s2
    refine keeps_ite ?_ ?_
    · exact (keeps_logRec (keeps_atAdd h1 rfl))
    · exact h1
))

theorem keeps_foldPart {s : State} {v : State} {d : Desc} {r0 : RingCall} (hs : Kept lasting false dry r s) (hv : Kept lasting
    false dry r v) :
    KeptP lasting false dry r (foldPart s v d r0) := by
  unfold foldPart
  extract_lets c1 p2 o3 n4
  split
  · exact (keepsP_mk (keeps_countParity (keeps_countPairs hs)))

theorem keeps_endFwd {s : State} {v : State} {d : Desc} {r0 : RingCall} {early : Bool} (hs : Kept lasting calm dry r s) :
    Kept lasting calm dry r (endFwd s v d r0 early) := by
  unfold endFwd
  extract_lets c1 d2 f3 h4 o5
  refine keeps_ite ?_ ?_
  · exact (keeps_applyPart hs (fun _ h => keeps_countRows (keeps_countConv (keepsQ_snd (keeps_freshFree h)))))
  · exact (keeps_applyPart hs (fun _ h => keeps_countRows h))

theorem keeps_endBwd {s : State} {v : State} {d : Desc} {r0 : RingCall} {gs : List KGrad} (hs : Kept lasting calm dry r s) :
    Kept lasting calm dry r (endBwd s v d r0 gs) := by
  unfold endBwd
  extract_lets c1 f2 n3
  exact (keeps_applyPart hs (fun _ h => keeps_countGrads (keeps_countRows (keepsQ_snd (keeps_freshFree h)))))

theorem keeps_endPrep {s : State} {v : State} {d : Desc} {r0 : RingCall} (hs : Kept lasting calm dry r s) :
    Kept lasting calm dry r (endPrep s v d r0) := by
  unfold endPrep
  extract_lets c1 o2
  exact (keeps_applyPart hs (fun _ h => keeps_foldl (keepsQ_snd (keeps_freshFree h)) (fun _ _ g => keeps_ite g (keeps_atAdd g
      rfl))))

theorem keeps_issuePart {s : State} {d : Desc} {r0 : RingCall} {query : List JobRead} {keys : List JobRead} {fin : Nat} (hs :
    Kept lasting calm dry r s) :
    Kept lasting calm dry r (issuePart s d r0 query keys fin) := by
  unfold issuePart
  extract_lets s1 n2
  split
  · exact (keeps_extend (keeps_setRing hs))

theorem keeps_stopAt {s : State} {d : Desc} {r0 : RingCall} {status : Nat} {station : Nat} (hs : Kept lasting calm false r s) :
    Kept lasting calm false r (stopAt s d r0 status station) := by
  unfold stopAt
  exact (keeps_maybeComplete (keeps_updDesc (keeps_dropRing hs)))

theorem keeps_walkPart {s : State} {d : Desc} {r0 : RingCall} {e : LenEnt} (hs : Kept lasting calm false r s) :
    KeptO lasting calm false r (walkPart s d r0 e) := by
  unfold walkPart
  extract_lets c1 o2 s3 w4 o5 s6
  have h7 : Kept lasting calm false r s3 := (keeps_ite (keeps_beginWalk hs) hs)
  have h8 : Kept lasting calm false r s6 := (keeps_updDesc h7)
  refine keepsO_ite ?_ ?_
  · exact (keepsO_some (keeps_stopAt hs))
  · refine keepsO_ite ?_ ?_
    · exact keepsO_none
    · exact (keepsO_some (keeps_issuePart h8))

theorem keeps_walkEnded {s : State} {r0 : RingCall} (hs : Kept lasting calm false r s) :
    Kept lasting calm false r (walkEnded s r0) := by
  unfold walkEnded
  split
  · exact (keeps_showPg (keeps_pumpRebuild (keeps_endWalk hs)))
  · exact hs

theorem keeps_atFinish {s : State} {v : State} {d : Desc} {r0 : RingCall} {k : Nat} (hs : Kept lasting false false r s) (hv :
    Kept lasting false false r v) :
    KeptO lasting false false r (atFinish s v d r0 k) := by
  unfold atFinish
  extract_lets c1 c2
  have h3 : ∀ x4, Kept lasting false false r x4 → Kept lasting false false r (c2 x4) := fun x4 h5 => (keeps_updDesc h5)
  split
  · refine keepsO_ite ?_ ?_
    · exact (keepsO_some (keeps_endPrep (keeps_dropRing hs)))
    · split
      · exact (keepsO_some (keeps_ite (keeps_endFwd (keeps_dropRing (keepsP_out ‹_› (keeps_foldPart hs hv)))) (keeps_endBwd
          (keeps_dropRing (keepsP_out ‹_› (keeps_foldPart hs hv))))))
  · split
    · extract_lets s6
      have h7 : Kept lasting false false r s6 := (h3 _ (keeps_setRing (keepsP_out ‹_› (keeps_foldPart hs hv))))
      exact (keepsO_some (keeps_ite h7 (keeps_endBwd h7)))
  · split
    · exact (keepsO_some (keeps_extend (h3 _ (keeps_setRing (keeps_walkEnded (keepsP_out ‹_› (keeps_foldPart hs hv)))))))
  · split
    · exact (keeps_walkPart hs)
    · exact (keepsO_some (keeps_ite (keeps_endFwd (keeps_dropRing hs)) (keeps_endBwd (keeps_dropRing hs))))

theorem keeps_startCallAt {s : State} {d : Desc} {c : AtCall} {go : State → Desc → RingCall → State} (hs : Kept lasting calm
    false r s) (hgo : ∀ a0 a1 a2, Kept lasting calm false r a0 → Kept lasting calm false r (go a0 a1 a2)) :
    Kept lasting calm false r (startCallAt s d c go) := by
  unfold startCallAt
  extract_lets d1 s2 r3
  exact (keeps_withPool hs (fun _ _ h4 => by
    extract_lets s5
    have h6 : Kept lasting calm false r s5 := (keeps_updDesc (keeps_takeSnap h4))
    split
    · exact (hgo _ _ _ (keeps_mk (keeps_at h6)))
    · exact h6
))

theorem keeps_runLocal {s : State} {d : Desc} {c : AtCall} (hs : Kept lasting calm false r s) :
    Kept lasting calm false r (runLocal s d c) := by
  unfold runLocal
  exact (keeps_startCallAt hs (fun _ _ _ h1 => by
    extract_lets o2
    refine keeps_ite ?_ ?_
    · exact (keeps_issuePart h1)
    · exact (keeps_issuePart h1)
))

theorem keeps_runPaged {s : State} {d : Desc} {c : AtCall} (hs : Kept lasting calm false r s) :
    Kept lasting calm false r (runPaged s d c) := by
  unfold runPaged
  exact (keeps_startCallAt hs (fun _ _ _ h1 => by
    split
    · extract_lets s2
      have h3 : Kept lasting calm false r s2 := (keeps_extend h1)
      split
      · split
        · exact (keepsO_out ‹_› (keeps_walkPart h3))
        · exact (keeps_extend h3)
      · exact (keeps_extend h3)
))

theorem keeps_runMerge {s : State} {d : Desc} (hs : Kept lasting calm false r s) :
    Kept lasting calm false r (runMerge s d) := by
  unfold runMerge
  extract_lets i1 d2 d3 s4 r5
  exact (keeps_withStreams hs (fun _ _ h6 => (keeps_runProgram (keeps_takeSnap h6))))

theorem keeps_execAtMerge {q : Nat} {tag : Nat} {s : State} (hs : Kept lasting calm false r s) :
    KeptN lasting calm false r (execAtMerge q tag s) := by
  unfold execAtMerge
  exact (keepsN_next (by
    split
    · exact hs
    · split
      · exact (keeps_settle (keeps_rejectOp hs))
      · refine keeps_ite ?_ ?_
        · exact (keeps_settle (keeps_endOp hs))
        · exact (keeps_settle (keeps_runMerge hs))
))

theorem keeps_holdDesc {s : State} {q : Nat} {tag : Nat} (hs : Kept lasting calm dry r s) :
    Kept lasting calm dry r (holdDesc s q tag) := by
  unfold holdDesc
  extract_lets k1
  split
  · exact hs
  · extract_lets s2
    have h3 : Kept lasting calm dry r s2 := (keeps_setFifo hs)
    exact (keeps_updDesc h3)

theorem keeps_unholdDesc {s : State} {q : Nat} {tag : Nat} (hs : Kept lasting calm false r s) :
    Kept lasting calm false r (unholdDesc s q tag) := by
  unfold unholdDesc
  extract_lets k1 m2 s3
  have h4 : Kept lasting calm false r s3 := (keeps_setFifo hs)
  refine keeps_ite ?_ ?_
  · exact (keeps_maybeComplete (keeps_updDesc h4))
  · exact hs

theorem keeps_ringWait {s : State} {r0 : RingCall} {st : Nat} {tok : Nat} {value : Nat} {next : Nat} (hs : Kept lasting calm
    false r s) :
    Kept lasting calm false r (ringWait s r0 st tok value next) := by
  unfold ringWait
  extract_lets s1
  have h2 : Kept lasting calm false r s1 := (keeps_pushNow hs)
  refine keeps_ite ?_ ?_
  · exact (keeps_setRing hs)
  · split
    · exact hs
    · exact (keeps_releaseAt (keeps_setRing h2))

theorem keeps_ringHop {s : State} {d : Desc} {r0 : RingCall} (hs : Kept lasting calm dry r s) :
    Kept lasting calm dry r (ringHop s d r0) := by
  unfold ringHop
  extract_lets c1 o2
  exact (keeps_issuePart hs)

theorem keeps_ringSend {s : State} {d : Desc} {r0 : RingCall} {rows : List FwdRow} {sig : Option (Nat × Nat)} (hs : Kept
    lasting calm false r s) :
    Kept lasting calm false r (ringSend s d r0 rows sig) := by
  unfold ringSend
  extract_lets c1 m2 d3 p4 n5
  split
  · exact hs
  · extract_lets s6 s7 s8
    have h9 : Kept lasting calm false r s7 := (keeps_setRing hs)
    have h10 : Kept lasting calm false r s8 := (keeps_pushNow h9)
    split
    · exact (keeps_pushNow h9)
    · refine keeps_ite ?_ ?_
      · exact h10
      · exact (keeps_foldl h10 (fun _ _ h11 => (keeps_sendPieces h11)))

theorem keeps_ringSignal {s : State} {d : Desc} {r0 : RingCall} {dst : Nat} {inc : Nat} (hs : Kept lasting calm false r s) :
    Kept lasting calm false r (ringSignal s d r0 dst inc) := by
  unfold ringSignal
  extract_lets c1 m2
  split
  · split
    · exact hs
    · extract_lets s3 s4
      have h5 : Kept lasting calm false r s3 := (keeps_setRing hs)
      have h6 : Kept lasting calm false r s4 := (keeps_pushNow h5)
      split
      · exact (keeps_pushNow h5)
      · refine keeps_ite ?_ ?_
        · exact h6
        · exact (keeps_sendFlow h6)

theorem keeps_ringForward {s : State} {d : Desc} {r0 : RingCall} (hs : Kept lasting calm false r s) :
    Kept lasting calm false r (ringForward s d r0) := by
  unfold ringForward
  extract_lets e1 s2 r3 s4 r5
  have h6 : Kept lasting calm false r s2 := (keeps_ite (keeps_addF hs rfl) hs)
  refine keeps_ite ?_ ?_
  · exact (keeps_setRing h6)
  · exact (keeps_ringSend h6)

theorem keeps_ringComputed {s : State} {d : Desc} {r0 : RingCall} (hs : Kept lasting calm false r s) :
    Kept lasting calm false r (ringComputed s d r0) := by
  unfold ringComputed
  extract_lets e1 r2 r3 s4 s5
  have h6 : Kept lasting calm false r s5 := (keeps_ite (keeps_setRing hs) (keeps_ringSend hs))
  split
  · refine keeps_ite ?_ ?_
    · exact h6
    · exact (keeps_ringSignal h6)
  · exact h6

theorem keeps_dropWaits {s : State} {q : Nat} {tag : Nat} (hs : Kept lasting calm dry r s) :
    Kept lasting calm dry r (dropWaits s q tag) := by
  unfold dropWaits
  extract_lets m1
  exact (keeps_foldl hs (fun _ _ h2 => by
    extract_lets n3
    refine keeps_ite ?_ ?_
    · exact h2
    · exact (keeps_updDesc (keeps_setFifo h2))
))

theorem keeps_endRing {s : State} {r0 : RingCall} {early : Bool} (hs : Kept lasting calm false r s) :
    Kept lasting calm false r (endRing s r0 early) := by
  unfold endRing
  extract_lets s1
  have h2 : Kept lasting calm false r s1 := (keeps_updDesc (keeps_dropRing (keeps_dropWaits hs)))
  split
  · exact (keeps_dropRing hs)
  · extract_lets v3 s4
    have h5 : Kept lasting calm false r v3 := (keeps_viewed h2)
    have h6 : Kept lasting calm false r s4 := (keeps_ite (keeps_endFwd h2) h2)
    exact (keeps_unholdDesc h6)

theorem keeps_ringStep {s : State} {r0 : RingCall} (hs : Kept lasting calm false r s) :
    KeptO lasting calm false r (ringStep s r0) := by
  unfold ringStep
  extract_lets e1
  split
  · exact (keepsO_some (keeps_dropRing hs))
  · refine keepsO_ite ?_ ?_
    · exact keepsO_none
    · refine keepsO_ite ?_ ?_
      · exact (keepsO_some (keeps_endRing hs))
      · split
        · exact (keepsO_some (keeps_ringSignal hs))
        · split
          · split
            · exact keepsO_none
            · refine keepsO_ite ?_ ?_
              · exact (keepsO_some (keeps_setRing hs))
              · exact (keepsO_some (keeps_endRing hs))
          · split
            · refine keepsO_ite ?_ ?_
              · refine keepsO_ite ?_ ?_
                · exact (keepsO_some (keeps_endRing hs))
                · exact keepsO_none
              · exact (keepsO_some (keeps_ringWait hs))
            · exact (keepsO_some (keeps_ringHop hs))
            · exact (keepsO_some (keeps_ringWait hs))
            · exact (keepsO_some (keeps_ringForward hs))
            · refine keepsO_ite ?_ ?_
              · exact (keepsO_some (keeps_ringComputed hs))
              · exact keepsO_none

theorem keeps_ringsN {a : Nat} {a1 : State} (ha1 : Kept lasting calm false r a1) :
    Kept lasting calm false r (ringsN a a1) := by
  unfold ringsN
  split
  · exact (by assumption)
  · split
    · exact (keeps_ringsN (keepsO_out ‹_› (keepsO_findSome (fun _ => (keeps_ringStep (by assumption))))))
    · exact (by assumption)

theorem keeps_runRings {s : State} (hs : Kept lasting calm false r s) :
    Kept lasting calm false r (runRings s) := by
  unfold runRings
  exact (keeps_settle (keeps_ringsN hs))

theorem keeps_startRing {s : State} {d : Desc} {c : AtCall} (hs : Kept lasting calm false r s) :
    Kept lasting calm false r (startRing s d c) := by
  unfold startRing
  exact (keeps_startCallAt hs (fun _ _ _ h1 => (keeps_runRings (keeps_holdDesc h1))))

theorem keeps_runCall {s : State} {d : Desc} {c : AtCall} (hs : Kept lasting calm false r s) :
    Kept lasting calm false r (runCall s d c) := by
  unfold runCall
  refine keeps_ite ?_ ?_
  · exact (keeps_startRing hs)
  · refine keeps_ite ?_ ?_
    · exact (keeps_runPaged hs)
    · exact (keeps_runLocal hs)

theorem keeps_runAt {op : Nat} {q : Nat} {tag : Nat} {parity : Option (Nat × Nat × Nat)} {s : State} (hs : Kept lasting calm
    false r s) :
    Kept lasting calm false r (runAt op q tag parity s) := by
  unfold runAt
  split
  · exact hs
  · split
    · exact (keeps_settle (keeps_endAt hs))
    · refine keeps_ite ?_ ?_
      · exact (keeps_settle (keeps_endOp hs))
      · split
        · exact (keeps_settle (keeps_completeDesc hs))
        · exact (keeps_settle (keeps_runCall (keeps_updDesc hs)))

theorem keeps_execAtFwd {q : Nat} {call : AtTag} {s : State} (hs : Kept lasting calm false r s) :
    KeptN lasting calm false r (execAtFwd q call s) := by
  unfold execAtFwd
  exact (keepsN_next (keeps_runAt hs))

theorem keeps_execAtBwd {q : Nat} {call : AtTag} {s : State} (hs : Kept lasting calm false r s) :
    KeptN lasting calm false r (execAtBwd q call s) := by
  unfold execAtBwd
  exact (keepsN_next (keeps_runAt hs))

theorem keeps_execAtBprep {q : Nat} {tag : Nat} {s : State} (hs : Kept lasting calm false r s) :
    KeptN lasting calm false r (execAtBprep q tag s) := by
  unfold execAtBprep
  exact (keepsN_next (keeps_runAt hs))

theorem keeps_execRingWaitTimeout {die : Nat} {st : Nat} {s : State} (hs : Kept lasting calm false r s) :
    KeptN lasting calm false r (execRingWaitTimeout die st s) := by
  unfold execRingWaitTimeout
  exact (keepsN_next (by
    split
    · exact hs
    · extract_lets s1 s2
      have h3 : Kept lasting calm false r s1 := (keeps_releaseAt (keeps_setFifo hs))
      have h4 : Kept lasting calm false r s2 := (keeps_updDesc h3)
      split
      · refine keeps_ite ?_ ?_
        · exact hs
        · exact (keeps_runRings (keeps_addF h4 rfl))
      · exact hs
))

theorem keeps_wakeByAccess {s : State} {src : Src} {die : Nat} (hs : Kept lasting calm dry r s) :
    Kept lasting calm dry r (wakeByAccess s src die) := by
  unfold wakeByAccess
  split
  · exact (keeps_wakeFrom hs)
  · exact hs

theorem keeps_gate {s : State} {src : Src} {die : Nat} {off : Nat} {v : Nat} {k : State → State} (hs : Kept lasting false dry r
    s) (hk : ∀ a0, Kept lasting false dry r a0 → Kept lasting false dry r (k a0)) :
    Kept lasting false dry r (gate s src die off v k) := by
  unfold gate
  refine keeps_ite ?_ ?_
  · exact hs
  · refine keeps_ite ?_ ?_
    · split
      · exact (keeps_logErr hs)
      · exact hs
    · refine keeps_ite ?_ ?_
      · exact (keeps_wakeByAccess hs)
      · refine keeps_ite ?_ ?_
        · exact (keeps_mk0 (keeps_at hs))
        · exact (hk _ (keeps_wakeByAccess hs))

theorem keeps_pfWrite {s : State} {src : Src} {die : Nat} {off : Nat} {v : Nat} {k : State → State} (hs : Kept lasting false
    dry r s) (hk : ∀ a0, Kept lasting false dry r a0 → Kept lasting false dry r (k a0)) :
    Kept lasting false dry r (pfWrite s src die off v k) := by
  unfold pfWrite
  split
  · refine keeps_ite ?_ ?_
    · exact (keeps_gate hs hk)
    · exact hs
  · exact (keeps_gate hs hk)

theorem keeps_ownedWrite {s : State} {src : Src} {owner : Option Nat} {off : Nat} {queue : Option Nat} {k : State → State} (hs
    : Kept lasting calm dry r s) (hk : ∀ a0, Kept lasting calm dry r a0 → Kept lasting calm dry r (k a0)) :
    Kept lasting calm dry r (ownedWrite s src owner off queue k) := by
  unfold ownedWrite
  split
  · exact (hk _ hs)
  · split
    · refine keeps_ite ?_ ?_
      · exact (hk _ hs)
      · exact hs
    · refine keeps_ite ?_ ?_
      · exact (hk _ hs)
      · refine keeps_ite ?_ ?_
        · exact (keeps_logErr hs)
        · exact hs

theorem keeps_writeField {s : State} {die : Nat} {i : Nat} {v : Nat} {f : Fld} (hs : Kept lasting calm dry r s) (hf : apart f =
    true) :
    Kept lasting calm dry r (writeField s die i v f) := by
  unfold writeField
  extract_lets x1 s2
  have h3 : Kept lasting calm dry r s2 := (keeps_setF hs hf)
  split
  · exact hs
  · exact hs
  · exact (keeps_setF hs hf)
  · refine keeps_ite ?_ ?_
    · exact hs
    · exact (keeps_setF hs hf)
  · refine keeps_ite ?_ ?_
    · exact (keeps_mk (keeps_at h3))
    · exact h3

/-- A write by the access code reaches no fence, and the seal only as an RWL field. -/
def writable (f : Fld) : Bool := f.acc == .ro || f.acc == .wo || apart f || (f.acc == .rwl && f == F.HST_SEAL_SEAL)
theorem w_tbl01_0 : F.tbl01_0.all writable = true := by rfl
theorem w_tbl02_0 : F.tbl02_0.all writable = true := by rfl
theorem w_tbl03_0 : F.tbl03_0.all writable = true := by rfl
theorem w_tbl03_1 : F.tbl03_1.all writable = true := by rfl
theorem w_tbl04_0 : F.tbl04_0.all writable = true := by rfl
theorem w_tbl05_0 : F.tbl05_0.all writable = true := by rfl
theorem w_tbl06_0 : F.tbl06_0.all writable = true := by rfl
theorem w_tbl07_0 : F.tbl07_0.all writable = true := by rfl
theorem w_tbl08_0 : F.tbl08_0.all writable = true := by rfl
theorem w_tbl09_0 : F.tbl09_0.all writable = true := by rfl
theorem w_tbl10_0 : F.tbl10_0.all writable = true := by rfl
theorem w_tbl11_0 : F.tbl11_0.all writable = true := by rfl
theorem w_tbl12_0 : F.tbl12_0.all writable = true := by rfl
theorem w_tbl12_1 : F.tbl12_1.all writable = true := by rfl
theorem w_tbl13_0 : F.tbl13_0.all writable = true := by rfl
theorem w_tbl14_0 : F.tbl14_0.all writable = true := by rfl
theorem w_tbl15_0 : F.tbl15_0.all writable = true := by rfl
theorem w_tbl15_1 : F.tbl15_1.all writable = true := by rfl
theorem w_tbl16_0 : F.tbl16_0.all writable = true := by rfl
theorem w_tbl17_0 : F.tbl17_0.all writable = true := by rfl
theorem w_tbl17_1 : F.tbl17_1.all writable = true := by rfl
theorem w_tbl18_0 : F.tbl18_0.all writable = true := by rfl
theorem w_tbl19_0 : F.tbl19_0.all writable = true := by rfl
theorem all_app {l k : List Fld} {p : Fld → Bool} (h1 : l.all p = true) (h2 : k.all p = true) : (l ++ k).all p = true := by
  rw [List.all_append, h1, h2]; rfl
theorem writable_apart : F.all.all writable = true := by
  unfold F.all
  exact (all_app (all_app (all_app (all_app (all_app (all_app (all_app (all_app (all_app (all_app (all_app (all_app (all_app
      (all_app (all_app (all_app (all_app (all_app (all_app (all_app (all_app (all_app w_tbl01_0 w_tbl02_0) w_tbl03_0)
      w_tbl03_1) w_tbl04_0) w_tbl05_0) w_tbl06_0) w_tbl07_0) w_tbl08_0) w_tbl09_0) w_tbl10_0) w_tbl11_0) w_tbl12_0) w_tbl12_1)
      w_tbl13_0) w_tbl14_0) w_tbl15_0) w_tbl15_1) w_tbl16_0) w_tbl17_0) w_tbl17_1) w_tbl18_0) w_tbl19_0)
theorem lo_apart : pairs.all (fun p => apart p.1) = true := by
  rfl
theorem seal_off {d i : Nat} (e : Nat) : fieldKey F.MGT_FENCE_DIE e 0 ≠ fieldKey F.HST_SEAL_SEAL d i ∧
    fieldKey F.MGT_FENCE_STATIONS e 0 ≠ fieldKey F.HST_SEAL_SEAL d i :=
  ⟨fieldKey_ne _ _ _ _ (by decide) (by decide) (by decide) (by decide) (by decide),
    fieldKey_ne _ _ _ _ (by decide) (by decide) (by decide) (by decide) (by decide)⟩
theorem keeps_notSealed (hs : Kept lasting false dry r s) (hb : lasting = true) (hn : sealed s = false) : sealed r = false := by
  by_contra h
  have h1 := hs.c_sealed hb (by simpa using h)
  have : sealed s = true := by simpa [sealed, flag, getF, fieldReset, F.HST_SEAL_SEAL] using h1
  rw [this] at hn
  cases hn
/-- Before the seal is set, the seal may be written. -/
theorem keeps_setSeal {d i v : Nat} (hs : Kept lasting false dry r s) (hn : sealed s = false) : Kept lasting false dry r (setF
    s F.HST_SEAL_SEAL d i v) := by
  unfold setF
  apply keeps_mk
  exact { hs with
    c_flds := tabWf_tput _ _ _ hs.c_flds
    c_fence := fun hb d' hd => by rw [tgetD_tput_other _ _ _ hs.c_flds (seal_off d').1]; exact hs.c_fence hb d' hd
    c_station := fun hb d' n hn hd => by rw [tgetD_tput_other _ _ _ hs.c_flds (seal_off d').2]; exact hs.c_station hb d' n hn hd
    c_sealed := fun hb hd => by rw [keeps_notSealed hs hb hn] at hd; cases hd }
theorem keeps_writeMember {die i v : Nat} {f : Fld} (hs : Kept lasting false dry r s) (hf : f ∈ F.all) : Kept lasting false dry
    r (writeField s die i v f) := by
  have hw := List.all_eq_true.mp writable_apart f hf
  simp only [writable, Bool.or_eq_true, Bool.and_eq_true, beq_iff_eq] at hw
  obtain ((h | h) | h) | ⟨h, rfl⟩ := hw
  · unfold writeField; rw [h]; exact hs
  · unfold writeField; rw [h]; exact hs
  · exact keeps_writeField hs h
  · unfold writeField
    rw [h]
    by_cases hn : sealed s = true
    · simp only [hn, if_true]; exact hs
    · simp only [hn]
      exact keeps_setSeal hs (by simpa using hn)
theorem keeps_writePart {s : State} {die v : Nat} {p : Fld × Nat} (hs : Kept lasting false dry r s) (hp : p.1 ∈ F.all) : Kept
    lasting false dry r (writePart s die v p) := by
  obtain ⟨f, i⟩ := p
  unfold writePart
  refine keeps_ite (keeps_ite hs (keeps_mk0 (keeps_at hs))) ?_
  split
  · rename_i l hl
    refine keeps_ite hs ?_
    have ha : apart l = true := by
      unfold loOf at hl
      cases h : pairs.find? (fun p => p.2 == f) with
      | none => rw [h] at hl; cases hl
      | some q =>
        rw [h] at hl
        cases hl
        exact List.all_eq_true.mp lo_apart q (List.mem_of_find?_eq_some h)
    split
    · exact keeps_setF (keeps_writeMember hs hp) ha
    · exact keeps_writeMember hs hp
  · exact keeps_writeMember hs hp

theorem mem_all_of_fieldsAt {die off : Nat} {p : Fld × Nat} (h : p ∈ fieldsAt die off) : p.1 ∈ F.all := by
  unfold fieldsAt at h
  obtain ⟨f, hf, h⟩ := List.mem_filterMap.mp h
  cases hi : instanceAt f die off with
  | none => rw [hi] at h; cases h
  | some i => rw [hi] at h; cases h; exact hf
theorem keeps_plainWrite {s : State} {src : Src} {die off v : Nat} (hs : Kept lasting false dry r s) : Kept lasting false dry r
    (plainWrite s src die off v) := by
  unfold plainWrite
  exact keeps_foldl_mem (keeps_ite (keeps_logErr hs) hs) (fun _ _ hm h => keeps_writePart h (mem_all_of_fieldsAt hm))

end Sys2Proof.Laws
end

