-- ==== Sys2Proof/Laws/KeepQueues.lean ====
section
/-! SUPPORT. What queues, descriptor life, movers, conversions and retirement keep (see Laws/Keep.lean), one lemma an operation. -/

namespace Sys2Proof.Laws

open Sys2Proof Sys2Proof.Machine

variable {lasting calm dry : Bool} {r s t : State} {α β γ : Type}

theorem keeps_setQState {s : State} {q : Nat} {v : Nat} (hs : Kept lasting calm dry r s) :
    Kept lasting calm dry r (setQState s q v) := by
  unfold setQState
  exact (keeps_setF hs rfl)

theorem keeps_setQEnable {s : State} {q : Nat} {v : Nat} (hs : Kept lasting calm dry r s) :
    Kept lasting calm dry r (setQEnable s q v) := by
  unfold setQEnable
  exact (keeps_setF hs rfl)

theorem keeps_queueError {s : State} {q : Nat} {err : Nat} (hs : Kept lasting calm false r s) :
    Kept lasting calm false r (queueError s q err) := by
  unfold queueError
  extract_lets s1
  have h2 : Kept lasting calm false r s1 := (keeps_setF (keeps_setQEnable (keeps_setQState hs)) rfl)
  exact (keeps_settle (keeps_laneLeft h2))

theorem keeps_stopHeldRuns {s : State} {q : Nat} {status : Nat} (hs : Kept lasting calm false r s) :
    Kept lasting calm false r (stopHeldRuns s q status) := by
  unfold stopHeldRuns
  exact (keeps_foldl hs (fun _ _ h1 => by
    split
    · extract_lets s2 s3
      have h4 : Kept lasting calm false r s3 := (keeps_setSched h1)
      split
      · refine keeps_ite ?_ ?_
        · exact h4
        · exact (keeps_completeDesc h4)
      · exact h4
    · exact h1
))

theorem keeps_abortQueue {s : State} {q : Nat} {status : Nat} (hs : Kept lasting calm false r s) :
    Kept lasting calm false r (abortQueue s q status) := by
  unfold abortQueue
  extract_lets s1 s2 s3 s4 s5 s6
  have h7 : Kept lasting calm false r s1 := (keeps_setQEnable (keeps_setQState hs))
  have h8 : Kept lasting calm false r s2 := (keeps_setF h7 rfl)
  have h9 : Kept lasting calm false r s4 := (keeps_setQInt h8)
  have h10 : Kept lasting calm false r s5 := (keeps_stopHeldRuns (keeps_laneLeft h9))
  have h11 : Kept lasting calm false r s6 := (keeps_foldl h10 (fun _ _ h12 => (keeps_cancelDesc h12)))
  refine keeps_ite ?_ ?_
  · exact hs
  · exact (keeps_settle (keeps_ite (keeps_setQState h11) h11))

theorem keeps_enableQueue {s : State} {q : Nat} (hs : Kept lasting calm dry r s) :
    Kept lasting calm dry r (enableQueue s q) := by
  unfold enableQueue
  extract_lets o1 s2 s3
  have h4 : Kept lasting calm dry r s2 := (keeps_setF (keeps_setF hs rfl) rfl)
  have h5 : Kept lasting calm dry r s3 := (keeps_setQInt h4)
  refine keeps_ite ?_ ?_
  · refine keeps_ite ?_ ?_
    · exact hs
    · exact (keeps_logErr hs)
  · split
    · exact (keeps_logErr (keeps_setF (keeps_setQEnable hs) rfl))
    · exact (keeps_setQEnable (keeps_setQState (keeps_setF h5 rfl)))

theorem keeps_disableQueue {s : State} {q : Nat} (hs : Kept lasting calm false r s) :
    Kept lasting calm false r (disableQueue s q) := by
  unfold disableQueue
  extract_lets s1 s2 s3
  have h4 : Kept lasting calm false r s2 := (keeps_setQInt (keeps_setQEnable hs))
  have h5 : Kept lasting calm false r s3 := (keeps_settle (keeps_laneLeft h4))
  refine keeps_ite ?_ ?_
  · exact (keeps_setQEnable hs)
  · refine keeps_ite ?_ ?_
    · exact (keeps_setQInt (keeps_setQState h5))
    · exact h5

theorem keeps_clearQueueErr {s : State} {q : Nat} (hs : Kept lasting calm dry r s) :
    Kept lasting calm dry r (clearQueueErr s q) := by
  unfold clearQueueErr
  extract_lets s1
  refine keeps_ite ?_ ?_
  · refine keeps_ite ?_ ?_
    · exact (keeps_setF (keeps_setQInt (keeps_setQState hs)) rfl)
    · exact (keeps_setQInt hs)
  · exact hs

theorem keeps_writeQCtrl {s : State} {src : Src} {q : Nat} {v : Nat} (hs : Kept lasting calm false r s) :
    Kept lasting calm false r (writeQCtrl s src q v) := by
  unfold writeQCtrl
  extract_lets m1 c2 s3 s4
  have h5 : Kept lasting calm false r s3 := (keeps_ite (keeps_setF hs rfl) (keeps_ite hs (keeps_logErr hs)))
  have h6 : Kept lasting calm false r s4 := (keeps_ite (keeps_abortQueue h5) (keeps_ite (keeps_enableQueue h5) (keeps_ite
      (keeps_disableQueue h5) h5)))
  refine keeps_ite ?_ ?_
  · exact (keeps_clearQueueErr h6)
  · exact h6

theorem keeps_qCtrlAccess {s : State} {src : Src} {q : Nat} {v : Nat} (hs : Kept lasting false false r s) :
    Kept lasting false false r (qCtrlAccess s src q v) := by
  unfold qCtrlAccess
  exact (keeps_gate hs (fun _ h1 => (keeps_ownedWrite h1 (fun _ h2 => (keeps_writeQCtrl h2)))))

theorem keeps_execQueueEnable {src : Src} {q : Nat} {mask : Nat} {s : State} (hs : Kept lasting false false r s) :
    KeptN lasting false false r (execQueueEnable src q mask s) := by
  unfold execQueueEnable
  exact (keepsN_next (keeps_qCtrlAccess hs))

theorem keeps_execQueueDisable {src : Src} {q : Nat} {mask : Nat} {s : State} (hs : Kept lasting false false r s) :
    KeptN lasting false false r (execQueueDisable src q mask s) := by
  unfold execQueueDisable
  exact (keepsN_next (keeps_qCtrlAccess hs))

theorem keeps_execQueueDrained {q : Nat} {s : State} (hs : Kept lasting calm dry r s) :
    KeptN lasting calm dry r (execQueueDrained q s) := by
  unfold execQueueDrained
  extract_lets s1
  have h2 : Kept lasting calm dry r s1 := (keeps_ite (keeps_setF hs rfl) hs)
  exact (keepsN_next (keeps_ite (keeps_setQInt (keeps_setQState h2)) hs))

theorem keeps_execQueueAbort {src : Src} {q : Nat} {s : State} (hs : Kept lasting false false r s) :
    KeptN lasting false false r (execQueueAbort src q s) := by
  unfold execQueueAbort
  exact (keepsN_next (keeps_qCtrlAccess hs))

theorem keeps_execQueueAbortDone {q : Nat} {s : State} (hs : Kept lasting calm dry r s) :
    KeptN lasting calm dry r (execQueueAbortDone q s) := by
  unfold execQueueAbortDone
  exact (keepsN_next (keeps_ite (keeps_setQState hs) hs))

theorem keeps_execQueueClrErr {src : Src} {q : Nat} {s : State} (hs : Kept lasting false false r s) :
    KeptN lasting false false r (execQueueClrErr src q s) := by
  unfold execQueueClrErr
  exact (keepsN_next (keeps_qCtrlAccess hs))

theorem keeps_storeRingCfg {s : State} {r0 : Nat} {v : Nat} (hs : Kept lasting calm dry r s) :
    Kept lasting calm dry r (storeRingCfg s r0 v) := by
  unfold storeRingCfg
  exact (keeps_foldl_mem hs (fun _ _ m2 h1 => (keeps_setF h1 (apart_mem rfl m2))))

theorem keeps_writeRingCfg {s : State} {src : Src} {r0 : Nat} {v : Nat} (hs : Kept lasting calm dry r s) :
    Kept lasting calm dry r (writeRingCfg s src r0 v) := by
  unfold writeRingCfg
  extract_lets d1 c2 o3 s4 s5 s6
  have h7 : Kept lasting calm dry r s4 := (keeps_storeRingCfg hs)
  have h8 : Kept lasting calm dry r s5 := (keeps_setF (keeps_setF h7 rfl) rfl)
  have h9 : Kept lasting calm dry r s6 := (keeps_setF (keeps_setF h8 rfl) rfl)
  refine keeps_ite ?_ ?_
  · exact (keeps_logErr hs)
  · refine keeps_ite ?_ ?_
    · exact (keeps_setF h7 rfl)
    · split
      · exact (keeps_logErr h7)
      · exact (keeps_setRInt (keeps_setF h9 rfl))

theorem keeps_ringCfgAccess {s : State} {src : Src} {r0 : Nat} {v : Nat} (hs : Kept lasting false dry r s) :
    Kept lasting false dry r (ringCfgAccess s src r0 v) := by
  unfold ringCfgAccess
  exact (keeps_gate hs (fun _ h1 => (keeps_ownedWrite h1 (fun _ h2 => (keeps_writeRingCfg h2)))))

theorem keeps_execCrEnable {src : Src} {r0 : Nat} {cfg : Nat} {s : State} (hs : Kept lasting false dry r s) :
    KeptN lasting false dry r (execCrEnable src r0 cfg s) := by
  unfold execCrEnable
  exact (keepsN_next (keeps_ringCfgAccess hs))

theorem keeps_execCrDisable {src : Src} {r0 : Nat} {cfg : Nat} {s : State} (hs : Kept lasting false dry r s) :
    KeptN lasting false dry r (execCrDisable src r0 cfg s) := by
  unfold execCrDisable
  exact (keepsN_next (keeps_ringCfgAccess hs))

theorem keeps_execPostHeldCompletion {r0 : Nat} {s : State} (hs : Kept lasting calm false r s) :
    KeptN lasting calm false r (execPostHeldCompletion r0 s) := by
  unfold execPostHeldCompletion
  extract_lets s1
  exact (keepsN_next (by
    split
    · exact hs
    · extract_lets s2 s3
      have h4 : Kept lasting calm false r s2 := (keeps_setRInt hs)
      have h5 : Kept lasting calm false r s3 := (keeps_ite (keeps_setF h4 rfl) h4)
      refine keeps_ite ?_ ?_
      · exact hs
      · exact (keeps_settle (keeps_releaseCpl (keeps_writeEntry h5)))
))

theorem keeps_execCrModTimer {r0 : Nat} {s : State} (hs : Kept lasting calm dry r s) :
    KeptN lasting calm dry r (execCrModTimer r0 s) := by
  unfold execCrModTimer
  exact (keepsN_next (keeps_fireRing hs))

theorem keeps_headDoorbell {s : State} {src : Src} {r0 : Nat} {value : Nat} (hs : Kept lasting calm dry r s) :
    Kept lasting calm dry r (headDoorbell s src r0 value) := by
  unfold headDoorbell
  extract_lets d1 c2 h3 h4 s5
  have h6 : Kept lasting calm dry r s5 := (keeps_setF hs rfl)
  refine keeps_ite ?_ ?_
  · exact (keeps_logErr hs)
  · exact (keeps_fireRing (keeps_ite (keeps_setF h6 rfl) h6))

theorem keeps_execCrHeadDoorbell {src : Src} {r0 : Nat} {size : Nat} {value : Nat} {s : State} (hs : Kept lasting false dry r s) :
    KeptN lasting false dry r (execCrHeadDoorbell src r0 size value s) := by
  unfold execCrHeadDoorbell
  exact (keepsN_next (keeps_gate hs (fun _ h1 => (keeps_ite (keeps_logErr h1) (keeps_ownedWrite h1 (fun _ h2 =>
      (keeps_headDoorbell h2)))))))

theorem keeps_ringQueue {s : State} {fn : Nat} {q : Nat} {tail : Nat} (hs : Kept lasting calm false r s) :
    Kept lasting calm false r (ringQueue s fn q tail) := by
  unfold ringQueue
  refine keeps_ite ?_ ?_
  · exact (keeps_logErr hs)
  · refine keeps_ite ?_ ?_
    · exact hs
    · refine keeps_ite ?_ ?_
      · exact (keeps_logErr (keeps_queueError hs))
      · exact (keeps_setF hs rfl)

theorem keeps_applyDoorbell {s : State} {fn : Nat} {off : Nat} {size : Nat} {value : Nat} (hs : Kept lasting calm false r s) :
    Kept lasting calm false r (applyDoorbell s fn off size value) := by
  unfold applyDoorbell
  refine keeps_ite ?_ ?_
  · exact (keeps_logErr hs)
  · split
    · exact hs
    · split
      · exact (keeps_ringQueue hs)
      · refine keeps_ite ?_ ?_
        · exact (keeps_ringQueue hs)
        · exact (keeps_logErr hs)

theorem keeps_execDoorbell {fn : Nat} {off : Nat} {size : Nat} {value : Nat} {s : State} (hs : Kept lasting calm false r s) :
    KeptN lasting calm false r (execDoorbell fn off size value s) := by
  unfold execDoorbell
  exact (keepsN_next (by
    split
    · extract_lets s1
      have h2 : Kept lasting calm false r s1 := (keeps_wakeFrom hs)
      refine keeps_ite ?_ ?_
      · exact (keeps_mk (keeps_at h2))
      · exact (keeps_applyDoorbell h2)
    · exact (keeps_applyDoorbell hs)
))

theorem keeps_headWriteBack {s : State} {q : Nat} (hs : Kept lasting calm false r s) :
    Kept lasting calm false r (headWriteBack s q) := by
  unfold headWriteBack
  extract_lets h1 i2 a3 s4
  have h5 : Kept lasting calm false r s4 := (keeps_setQInt hs)
  refine keeps_ite ?_ ?_
  · exact hs
  · refine keeps_ite ?_ ?_
    · exact (keeps_physWrite h5)
    · exact (keeps_hostWrite h5)

theorem keeps_execDescriptorFetch {q : Nat} {data : Option Bytes} {s : State} (hs : Kept lasting calm false r s) :
    KeptN lasting calm false r (execDescriptorFetch q data s) := by
  unfold execDescriptorFetch
  extract_lets i1 r2 c3
  exact (keepsN_next (keeps_ite (by
    split
    · exact (keeps_logErr (keeps_queueError hs))
    · extract_lets s4
      have h5 : Kept lasting calm false r s4 := (keeps_setQInt hs)
      exact (keeps_noteEligible (keeps_headWriteBack (keeps_setF h5 rfl)))
) hs))

theorem keeps_pickWrr {s : State} {k : Nat} {qs : List Nat} (hs : Kept lasting calm dry r s) :
    KeptOQ lasting calm dry r (pickWrr s k qs) := by
  unfold pickWrr
  exact (keepsOQ_map (fun _ => (keepsQ_mk (keeps_mk (keeps_at hs)))))

theorem keeps_pickQueue {s : State} {die : Nat} (hs : Kept lasting calm dry r s) :
    KeptOR lasting calm dry r (pickQueue s die) := by
  unfold pickQueue
  extract_lets q1 l2 o3
  refine keepsOR_ite ?_ ?_
  · exact (keepsOR_mapOQ (keeps_pickWrr hs) (fun _ h4 => (keepsR_mk (keepsQ_snd h4))))
  · exact (keepsOR_map (fun _ => (keepsR_mk hs)))

theorem keeps_popFetched {s : State} {q : Nat} (hs : Kept lasting calm dry r s) :
    Kept lasting calm dry r (popFetched s q) := by
  unfold popFetched
  extract_lets i1
  exact (keeps_setQInt (keeps_mk (keeps_at hs)))

theorem keeps_admitFront {s : State} {q : Nat} {floor : Bool} (hs : Kept lasting calm false r s) :
    Kept lasting calm false r (admitFront s q floor) := by
  unfold admitFront
  extract_lets s1
  have h2 : Kept lasting calm false r s1 := (keeps_popFetched hs)
  split
  · exact hs
  · extract_lets l3 d4
    split
    · extract_lets s5 s6
      have h7 : Kept lasting calm false r s6 := (keeps_ite h2 (keeps_mk (keeps_at h2)))
      exact (keeps_settle (keeps_postCpl h7))
    · exact (keeps_noteEligible (keeps_countOut (keeps_mk (keeps_at h2))))

theorem keeps_execAdmission {die : Nat} {s : State} (hs : Kept lasting calm false r s) :
    KeptN lasting calm false r (execAdmission die s) := by
  unfold execAdmission
  exact (keepsN_next (keeps_ite (by
    split
    · exact (keeps_admitFront (keepsOR_out ‹_› (keeps_pickQueue hs)))
    · exact hs
) hs))

theorem keeps_giveTo {s : State} {d : Desc} {k : Nat} (hs : Kept lasting calm dry r s) :
    Kept lasting calm dry r (giveTo s d k) := by
  unfold giveTo
  exact (keeps_updDesc hs)

theorem keeps_chooseReady {s : State} {die : Nat} {rs : List Desc} (hs : Kept lasting calm dry r s) :
    KeptOQ lasting calm dry r (chooseReady s die rs) := by
  unfold chooseReady
  extract_lets p1 i2 b3 l4 c5 s6 l7 t8
  have h9 : Kept lasting calm dry r s6 := (keeps_mk (keeps_at hs))
  split
  · exact (keepsOQ_map (fun _ => (keepsQ_mk (keepsOQ_out ‹_› (keeps_pickWrr h9)))))
  · exact keepsOQ_none

theorem keeps_execDispatch {die : Nat} {s : State} (hs : Kept lasting calm dry r s) :
    KeptN lasting calm dry r (execDispatch die s) := by
  unfold execDispatch
  extract_lets r1
  exact (keepsN_next (keeps_ite hs (by
    split
    · exact hs
    · split
      · exact (keeps_giveTo hs)
      · split
        · exact hs
        · refine keeps_ite ?_ ?_
          · exact (keeps_giveTo (keepsOQ_out ‹_› (keeps_chooseReady hs)))
          · exact (keeps_addF (keepsOQ_out ‹_› (keeps_chooseReady hs)) rfl)
)))

theorem keeps_execResourceWaitEnd {q : Nat} {tag : Nat} {s : State} (hs : Kept lasting calm false r s) :
    KeptN lasting calm false r (execResourceWaitEnd q tag s) := by
  unfold execResourceWaitEnd
  exact (keepsN_next (by
    split
    · refine keeps_ite ?_ ?_
      · exact (keeps_updDesc hs)
      · exact hs
    · exact hs
))

theorem keeps_execStationFifoRoom {die : Nat} {st : Nat} {s : State} (hs : Kept lasting calm false r s) :
    KeptN lasting calm false r (execStationFifoRoom die st s) := by
  unfold execStationFifoRoom
  exact (keepsN_next (by
    split
    · split
      · exact (keeps_settle (keeps_advance hs))
      · exact hs
    · refine keeps_ite ?_ ?_
      · exact (keeps_setFifo (keeps_mk (keeps_at hs)))
      · exact hs
))

theorem keeps_execNop {q : Nat} {tag : Nat} {s : State} (hs : Kept lasting calm false r s) :
    KeptN lasting calm false r (execNop q tag s) := by
  unfold execNop
  exact (keepsN_next (by
    split
    · exact (keeps_settle (keeps_endOp hs))
    · exact hs
))

theorem keeps_bar4Refuse {s : State} {fn : Nat} {off : Nat} (hs : Kept lasting calm dry r s) :
    Kept lasting calm dry r (bar4Refuse s fn off) := by
  unfold bar4Refuse
  exact (keeps_emit (keeps_logErr hs))

theorem keeps_execBar4Read {fn : Nat} {off : Nat} {len : Nat} {s : State} (hs : Kept lasting calm dry r s) :
    KeptN lasting calm dry r (execBar4Read fn off len s) := by
  unfold execBar4Read
  exact (keepsN_next (by
    split
    · exact hs
    · refine keeps_ite ?_ ?_
      · exact (keeps_bar4Refuse hs)
      · refine keeps_ite ?_ ?_
        · exact (keeps_emit hs)
        · exact (keeps_emit hs)
))

theorem keeps_execBar4Write {fn : Nat} {off : Nat} {data : Bytes} {s : State} (hs : Kept lasting calm false r s) :
    KeptN lasting calm false r (execBar4Write fn off data s) := by
  unfold execBar4Write
  exact (keepsN_next (by
    split
    · exact hs
    · extract_lets w1
      refine keeps_ite ?_ ?_
      · exact (keeps_bar4Refuse hs)
      · refine keeps_ite ?_ ?_
        · exact hs
        · exact (keeps_markDirty (keeps_mk (keeps_mem hs (wf_writeBytes _ _ (keeps_wfMem hs)))))
))

theorem keeps_execSeal {src : Src} {value : Nat} {s : State} (hs : Kept lasting false dry r s) :
    KeptN lasting false dry r (execSeal src value s) := by
  unfold execSeal
  exact (keepsN_next (keeps_pfWrite hs (fun _ h1 => by
    extract_lets t2
    have h3 : Kept lasting false dry r t2 := (keeps_plainWrite h1)
    refine keeps_ite ?_ ?_
    · exact (keeps_mk0 (keeps_at h3))
    · exact h3
)))

theorem keeps_readGate {s : State} {src : Src} {die : Nat} {k : State → State} (hs : Kept lasting calm dry r s) (hk : ∀ a0,
    Kept lasting calm dry r a0 → Kept lasting calm dry r (k a0)) :
    Kept lasting calm dry r (readGate s src die k) := by
  unfold readGate
  refine keeps_ite ?_ ?_
  · exact (keeps_emit (by
      split
      · exact (keeps_logErr hs)
      · exact hs
))
  · refine keeps_ite ?_ ?_
    · exact (keeps_emit (keeps_wakeByAccess hs))
    · refine keeps_ite ?_ ?_
      · exact (keeps_emit hs)
      · exact (hk _ (keeps_wakeByAccess hs))

theorem keeps_execStreamTailRead {src : Src} {die : Nat} {s : State} (hs : Kept lasting calm dry r s) :
    KeptN lasting calm dry r (execStreamTailRead src die s) := by
  unfold execStreamTailRead
  exact (keepsN_next (keeps_ite hs (keeps_readGate hs (fun _ h1 => (keeps_ite (keeps_emit h1) (by
      split
      · exact (keeps_emit (keeps_setF h1 rfl))
      · exact (keeps_emit (keeps_setF h1 rfl))
))))))

theorem keeps_execTickLoRead {src : Src} {s : State} (hs : Kept lasting calm dry r s) :
    KeptN lasting calm dry r (execTickLoRead src s) := by
  unfold execTickLoRead
  exact (keepsN_next (keeps_ite hs (keeps_readGate hs (fun _ h1 => (keeps_emit (keeps_setF h1 rfl))))))

theorem keeps_discardHeld {s : State} {port : Nat} (hs : Kept lasting calm dry r s) :
    Kept lasting calm dry r (discardHeld s port) := by
  unfold discardHeld
  exact (keeps_foldl hs (fun _ _ h1 => by
    extract_lets s2 s3 s4
    have h5 : Kept lasting calm dry r s3 := (keeps_setRInt h1)
    have h6 : Kept lasting calm dry r s4 := (keeps_setF h5 rfl)
    split
    · refine keeps_ite ?_ ?_
      · exact (keeps_foldl h6 (fun _ _ h7 => (keeps_releaseCpl (keeps_addF (keeps_countLost h7) rfl))))
      · exact h1
    · exact h1
))

theorem keeps_linkGoesDown {s : State} {port : Nat} (hs : Kept lasting false false r s) :
    Kept lasting false false r (linkGoesDown s port) := by
  unfold linkGoesDown
  extract_lets s1 q2
  have h3 : Kept lasting false false r s1 := (keeps_mk0 (keeps_at hs))
  exact (keeps_settle (keeps_discardHeld (keeps_foldl h3 (fun _ _ h4 => (keeps_queueError h4)))))

theorem keeps_execHostLinkDown {port : Nat} {s : State} (hs : Kept lasting false false r s) :
    KeptN lasting false false r (execHostLinkDown port s) := by
  unfold execHostLinkDown
  exact (keepsN_next (keeps_ite hs (keeps_linkGoesDown hs)))

theorem keeps_execHostLinkUp {port : Nat} {s : State} (hs : Kept lasting false dry r s) :
    KeptN lasting false dry r (execHostLinkUp port s) := by
  unfold execHostLinkUp
  extract_lets s1
  have h2 : Kept lasting false dry r s1 := (keeps_mk0 (keeps_at hs))
  exact (keepsN_next (keeps_ite hs (keeps_foldl h2 (fun _ _ h3 => by
    split
    · exact (keeps_logErr (keeps_mk0 (keeps_at h3)))
    · exact h3
))))

theorem keeps_execHostPortReset {port : Nat} {s : State} (hs : Kept lasting false false r s) :
    KeptN lasting false false r (execHostPortReset port s) := by
  unfold execHostPortReset
  extract_lets s1 s2
  have h3 : Kept lasting false false r s1 := (keeps_linkGoesDown hs)
  have h4 : Kept lasting false false r s2 := (keeps_mk0 (keeps_at h3))
  exact (keepsN_next (keeps_foldl h4 (fun _ _ h5 => (keeps_foldl_mem h5 (fun _ _ m7 h6 => (keeps_setF h6 (apart_mem rfl m7)))))))

theorem keeps_moverFlag {s : State} {q : Nat} {tag : Nat} {e : Nat} (hs : Kept lasting calm dry r s) :
    Kept lasting calm dry r (moverFlag s q tag e) := by
  unfold moverFlag
  exact (keeps_updDesc hs)

theorem keeps_moverCount {s : State} {die : Nat} {mover : Nat} {q : Nat} {tag : Nat} {n : Nat} (hs : Kept lasting calm dry r s) :
    Kept lasting calm dry r (moverCount s die mover q tag n) := by
  unfold moverCount
  extract_lets s1
  have h2 : Kept lasting calm dry r s1 := (keeps_addD hs rfl)
  exact (keeps_updDesc h2)

theorem keeps_pinExtent {s : State} {q : Nat} {tag : Nat} {sps : List (Option Span)} (hs : Kept lasting calm dry r s) :
    Kept lasting calm dry r (pinExtent s q tag sps) := by
  unfold pinExtent
  extract_lets r1 s2
  have h3 : Kept lasting calm dry r s2 := (keeps_mk (keeps_at hs))
  exact (keeps_updDesc h3)

theorem keeps_moverStreams {s : State} {die : Nat} {q : Nat} {tag : Nat} {ms : List Nat} (hs : Kept lasting calm false r s) :
    KeptOQ lasting calm false r (moverStreams s die q tag ms) := by
  unfold moverStreams
  exact (keepsOQ_foldl (keepsOQ_some (keepsQ_mk hs)) (fun _ _ h1 => by
    split
    · exact keepsOQ_none
    · split
      · exact keepsOQ_none
      · exact (keepsOQ_some (keepsQ_mk (keeps_updDesc (keepsOQ_out ‹_› (keeps_newStream (keepsOQ_pair ‹_›))))))
))

theorem keeps_runTiles {s : State} {d : Desc} {ms : List Nat} {far : Option (Nat × Nat × Nat)} {fill : Bool} {share : Nat → Nat
    → List CopyTile} {bad : Nat → Nat → Nat} {eflags : Nat} (hs : Kept lasting calm false r s) :
    Kept lasting calm false r (runTiles s d ms far fill share bad eflags) := by
  unfold runTiles
  extract_lets n1
  split
  · exact (keeps_updDesc hs)
  · exact (keeps_issueAll (keeps_setDetail (keepsOQ_out ‹_› (keeps_moverStreams hs))))

theorem keeps_runCopy {s : State} {d : Desc} {fill : Bool} (hs : Kept lasting calm false r s) :
    Kept lasting calm false r (runCopy s d fill) := by
  unfold runCopy
  extract_lets i1 d2 c3 r4 r5 s6 f7 s8 g9 d10 t11 t12 s13
  have h14 : Kept lasting calm false r s13 := (keeps_ite (keeps_pinExtent hs) hs)
  split
  · split
    · exact (keeps_endOp hs)
    · exact (keeps_endOp hs)
    · exact (keeps_runTiles h14)

theorem keeps_execMvCopy {q : Nat} {tag : Nat} {s : State} (hs : Kept lasting calm false r s) :
    KeptN lasting calm false r (execMvCopy q tag s) := by
  unfold execMvCopy
  exact (keepsN_next (by
    split
    · exact hs
    · split
      · exact (keeps_settle (keeps_rejectOp hs))
      · exact (keeps_settle (keeps_runCopy hs))
))

theorem keeps_execMvFill {q : Nat} {tag : Nat} {s : State} (hs : Kept lasting calm false r s) :
    KeptN lasting calm false r (execMvFill q tag s) := by
  unfold execMvFill
  exact (keepsN_next (by
    split
    · exact hs
    · split
      · exact (keeps_settle (keeps_rejectOp hs))
      · exact (keeps_settle (keeps_runCopy hs))
))

theorem keeps_runIndexed {s : State} {d : Desc} (hs : Kept lasting calm false r s) :
    Kept lasting calm false r (runIndexed s d) := by
  unfold runIndexed
  extract_lets i1 d2 c3 s4 s5 r6 m7
  have h8 : Kept lasting calm false r s4 := (keeps_touchRead hs)
  split
  · split
    · exact (keeps_endOp hs)
    · split
      · extract_lets x9 g10 t11 f12 s13
        have h14 : Kept lasting calm false r s13 := (keeps_ite (keeps_pinExtent h8) h8)
        refine keeps_ite ?_ ?_
        · exact (keeps_endOp hs)
        · exact (keeps_runTiles h14)

theorem keeps_execMvIndexed {q : Nat} {tag : Nat} {s : State} (hs : Kept lasting calm false r s) :
    KeptN lasting calm false r (execMvIndexed q tag s) := by
  unfold execMvIndexed
  exact (keepsN_next (by
    split
    · exact hs
    · split
      · exact (keeps_settle (keeps_rejectOp hs))
      · exact (keeps_settle (keeps_runIndexed hs))
))

theorem keeps_countDrop {s : State} {die : Nat} {mover : Nat} {cause : Nat} (hs : Kept lasting calm dry r s) :
    Kept lasting calm dry r (countDrop s die mover cause) := by
  unfold countDrop
  refine keeps_ite ?_ ?_
  · exact (keeps_addF hs rfl)
  · refine keeps_ite ?_ ?_
    · exact (keeps_addF hs rfl)
    · exact hs

theorem keeps_badLine {s : State} {sps : List (Option Span)} (hs : Kept lasting false dry r s) :
    Kept lasting false dry r (badLine s sps) := by
  unfold badLine
  split
  · extract_lets n1
    refine keeps_ite ?_ ?_
    · exact (keeps_logRec (keeps_addF (keeps_markLines hs) rfl))
    · exact hs
  · exact hs

theorem keeps_closeReq {s : State} {die : Nat} {mover : Nat} {r0 : Req} {status : Nat} (hs : Kept lasting calm dry r s) :
    Kept lasting calm dry r (closeReq s die mover r0 status) := by
  unfold closeReq
  exact (keeps_endReq (keeps_setReqs hs))

theorem keeps_fetched {s : State} {g : Geo} {sps : List (Option Span)} {extra : Nat} (hs : Kept lasting calm dry r s) :
    KeptQ lasting calm dry r (fetched s g sps extra) := by
  unfold fetched
  extract_lets c1
  refine keepsQ_ite ?_ ?_
  · exact (keepsQ_mk hs)
  · exact (keepsQ_mk (keepsQ_snd (keeps_freshFree hs)))

theorem keeps_countNarrow {s : State} {die : Nat} {mover : Nat} {r0 : Req} (hs : Kept lasting calm dry r s) :
    Kept lasting calm dry r (countNarrow s die mover r0) := by
  unfold countNarrow
  refine keeps_ite ?_ ?_
  · exact (keeps_moverFlag (keeps_addD hs rfl))
  · exact hs

theorem keeps_fillSlot {s : State} {die : Nat} {mover : Nat} {r0 : Req} {fn : Nat} {sps : List (Option Span)} {extra : Nat} (hs
    : Kept lasting calm dry r s) :
    KeptQ lasting calm dry r (fillSlot s die mover r0 fn sps extra) := by
  unfold fillSlot
  extract_lets x1
  have h2 : KeptQ lasting calm dry r x1 := (keeps_fetched hs)
  exact (keepsQ_mk (keepsQ_snd h2))

theorem keeps_endRead {s : State} {die : Nat} {mover : Nat} {r0 : Req} {sps : List (Option Span)} {demand : Bool} {bad : Bool}
    (hs : Kept lasting false dry r s) :
    Kept lasting false dry r (endRead s die mover r0 sps demand bad) := by
  unfold endRead
  extract_lets s1 x2 s3 s4
  have h5 : Kept lasting false dry r s1 := (keeps_ite (keeps_badLine hs) hs)
  have h6 : KeptQ lasting false dry r x2 := (keeps_fillSlot h5)
  have h7 : Kept lasting false dry r s3 := (keeps_ite (keepsQ_snd h6) (keeps_countDrop (keepsQ_snd h6)))
  have h8 : Kept lasting false dry r s4 := (keeps_countNarrow (keeps_addD h7 rfl))
  exact (keeps_closeReq (keeps_mk0 (keeps_at h8)))

theorem keeps_execMoverReadDone {die : Nat} {mover : Nat} {demand : Bool} {badEcc : Bool} {s : State} (hs : Kept lasting false
    false r s) :
    KeptN lasting false false r (execMoverReadDone die mover demand badEcc s) := by
  unfold execMoverReadDone
  exact (keepsN_next (by
    split
    · exact hs
    · extract_lets f1
      refine keeps_ite ?_ ?_
      · exact hs
      · refine keeps_ite ?_ ?_
        · refine keeps_ite ?_ ?_
          · exact (keeps_pump (keeps_endRead hs))
          · exact (keeps_addF hs rfl)
        · exact (keeps_pump (keeps_endRead hs))
))

theorem keeps_noteLate {s : State} {sps : List (Option Span)} (hs : Kept lasting false dry r s) :
    Kept lasting false dry r (noteLate s sps) := by
  unfold noteLate
  exact (keeps_logTier (keeps_addF hs rfl))

theorem keeps_releaseOut {s : State} {die : Nat} {mover : Nat} {r0 : Req} (hs : Kept lasting calm dry r s) :
    Kept lasting calm dry r (releaseOut s die mover r0) := by
  unfold releaseOut
  refine keeps_ite ?_ ?_
  · exact (keeps_releaseSlot hs)
  · refine keeps_ite ?_ ?_
    · exact hs
    · exact (keeps_releaseSlot hs)

theorem keeps_execTierAccessTimeout {die : Nat} {mover : Nat} {s : State} (hs : Kept lasting false false r s) :
    KeptN lasting false false r (execTierAccessTimeout die mover s) := by
  unfold execTierAccessTimeout
  exact (keepsN_next (by
    split
    · exact hs
    · extract_lets s1 x2 s3
      have h4 : Kept lasting false false r s1 := (keeps_noteLate hs)
      have h5 : Kept lasting false false r s3 := (keepsQ_snd (keeps_freshFree h4))
      refine keeps_ite ?_ ?_
      · exact hs
      · refine keeps_ite ?_ ?_
        · exact (keeps_pump (keeps_closeReq (keeps_releaseOut h4)))
        · exact (keeps_pump (keeps_closeReq (keeps_mk0 (keeps_at h5))))
))

theorem keeps_refetch {s : State} {x : Slot} (hs : Kept lasting calm dry r s) :
    KeptQ lasting calm dry r (refetch s x) := by
  unfold refetch
  extract_lets s1 k2 y3
  have h4 : KeptQ lasting calm dry r y3 := (keeps_fetched hs)
  exact (keepsQ_mk (keeps_foldl (keepsQ_snd h4) (fun _ _ h5 => (keeps_touchHome h5))))

theorem keeps_refetchOne {s : State} {x : Slot} {first : Bool} (hs : Kept lasting calm dry r s) :
    KeptQ lasting calm dry r (refetchOne s x first) := by
  unfold refetchOne
  extract_lets s1
  refine keepsQ_ite ?_ ?_
  · split
    · extract_lets s2 s3 s4
      have h5 : Kept lasting calm dry r s2 := (keeps_ite (keeps_addF (keepsQ_out ‹_› (keeps_refetch hs)) rfl) (keeps_addF
          (keepsQ_out ‹_› (keeps_refetch hs)) rfl))
      have h6 : Kept lasting calm dry r s3 := (keeps_ite (keeps_addF h5 rfl) h5)
      have h7 : Kept lasting calm dry r s4 := (keeps_ite (keeps_moverFlag h6) h6)
      exact (keepsQ_mk h7)
  · exact (keepsQ_mk hs)

theorem keeps_refetchAll {die : Nat} {n : Nat} {a : List Slot} {a3 : Bool} {a4 : State} (ha4 : Kept lasting calm dry r a4) :
    KeptQ lasting calm dry r (refetchAll die n a a3 a4) := by
  unfold refetchAll
  split
  · exact (keepsQ_mk (by assumption))
  · refine keepsQ_ite ?_ ?_
    · split
      · split
        · exact (keepsQ_mk (keepsQ_out ‹_› (keeps_refetchAll (keepsQ_out ‹_› (keeps_refetchOne (by assumption))))))
    · split
      · exact (keepsQ_mk (keepsQ_out ‹_› (keeps_refetchAll (by assumption))))

theorem keeps_sendTile {s : State} {die : Nat} {mover : Nat} {m : Micro} {n : Nat} {far : Nat × Nat × Nat} {todo : List
    CopyTile} {stores : List CopyTile} {left : Nat} {t : CopyTile} {bs : Bytes} {cause : Nat} (hs : Kept lasting calm dry r s) :
    Kept lasting calm dry r (sendTile s die mover m n far todo stores left t bs cause) := by
  unfold sendTile
  extract_lets r1 p2 c3 f4 s5 f6 s7
  have h8 : Kept lasting calm dry r s5 := (keeps_updMicro hs)
  have h9 : Kept lasting calm dry r s7 := (keeps_ite (keeps_sendMc h8) (keeps_sendPieces h8))
  exact (keeps_moverCount h9)

theorem keeps_handOver {s : State} {x : Slot} (hs : Kept lasting calm dry r s) :
    Kept lasting calm dry r (handOver s x) := by
  unfold handOver
  split
  · exact (keeps_updDesc hs)
  · split
    · exact (keeps_updMicro hs)
    · exact (keeps_releaseSlot (keeps_sendTile hs))
    · exact hs
  · exact hs

theorem keeps_commitSlot {s : State} {x : Slot} (hs : Kept lasting calm false r s) :
    Kept lasting calm false r (commitSlot s x) := by
  unfold commitSlot
  extract_lets s1 s2 b3 h4
  have h5 : Kept lasting calm false r s1 := (keeps_ite hs (keeps_addF hs rfl))
  have h6 : Kept lasting calm false r s2 := (keeps_mk (keeps_at h5))
  exact (keeps_handOver (keeps_commitTile h6))

theorem keeps_execSlotCommit {die : Nat} {stream : Nat} {s : State} (hs : Kept lasting calm false r s) :
    KeptN lasting calm false r (execSlotCommit die stream s) := by
  unfold execSlotCommit
  exact (keepsN_next (by
    split
    · exact hs
    · refine keeps_ite ?_ ?_
      · exact hs
      · refine keeps_ite ?_ ?_
        · refine keeps_ite ?_ ?_
          · exact hs
          · split
            · exact (keeps_mk (keeps_at (keepsQ_out ‹_› (keeps_refetchAll hs))))
        · exact (keeps_settle (keeps_commitSlot hs))
))

theorem keeps_execSlotAgeExpiry {die : Nat} {stream : Nat} {s : State} (hs : Kept lasting calm dry r s) :
    KeptN lasting calm dry r (execSlotAgeExpiry die stream s) := by
  unfold execSlotAgeExpiry
  extract_lets a1
  exact (keepsN_next (keeps_mk (keeps_at hs)))

theorem keeps_endWrite {s : State} {die : Nat} {mover : Nat} {r0 : Req} (hs : Kept lasting calm false r s) :
    Kept lasting calm false r (endWrite s die mover r0) := by
  unfold endWrite
  extract_lets s1 e2 s3
  have h4 : Kept lasting calm false r s3 := (keeps_ite (keeps_countNarrow (keeps_moverCount (keeps_writeSpans hs))) hs)
  exact (keeps_closeReq (keeps_releaseOut h4))

theorem keeps_execMoverWriteAck {die : Nat} {mover : Nat} {s : State} (hs : Kept lasting calm false r s) :
    KeptN lasting calm false r (execMoverWriteAck die mover s) := by
  unfold execMoverWriteAck
  exact (keepsN_next (by
    split
    · exact hs
    · refine keeps_ite ?_ ?_
      · exact hs
      · exact (keeps_settle (keeps_endWrite hs))
))

theorem keeps_writeScCtrl {s : State} {die : Nat} {j : Nat} {value : Nat} (hs : Kept lasting calm dry r s) :
    Kept lasting calm dry r (writeScCtrl s die j value) := by
  unfold writeScCtrl
  extract_lets s1
  have h2 : Kept lasting calm dry r s1 := (keeps_setF hs rfl)
  refine keeps_ite ?_ ?_
  · exact (keeps_clearAll h2 (by decide))
  · exact h2

theorem keeps_execQueScClear {src : Src} {die : Nat} {st : Nat} {value : Nat} {s : State} (hs : Kept lasting false dry r s) :
    KeptN lasting false dry r (execQueScClear src die st value s) := by
  unfold execQueScClear
  exact (keepsN_next (keeps_ite (keeps_pfWrite hs (fun _ h1 => (keeps_writeScCtrl h1))) hs))

theorem keeps_runConvert {s : State} {d : Desc} (hs : Kept lasting calm false r s) :
    Kept lasting calm false r (runConvert s d) := by
  unfold runConvert
  extract_lets i1 d2 s3 r4
  exact (keeps_withStreams hs (fun _ _ h5 => (keeps_runProgram (keeps_takeSnap h5))))

theorem keeps_execCvConvert {q : Nat} {tag : Nat} {s : State} (hs : Kept lasting calm false r s) :
    KeptN lasting calm false r (execCvConvert q tag s) := by
  unfold execCvConvert
  exact (keepsN_next (by
    split
    · exact hs
    · split
      · exact (keeps_settle (keeps_rejectOp hs))
      · exact (keeps_settle (keeps_runConvert hs))
))

theorem keeps_rejectClass3 {s : State} {d : Desc} {r0 : Nat} (hs : Kept lasting calm false r s) :
    Kept lasting calm false r (rejectClass3 s d r0) := by
  unfold rejectClass3
  exact (keeps_rejectOp hs)

theorem keeps_runRandom {op : Nat} {eff : State → Desc → State} {q : Nat} {tag : Nat} {s : State} (heff : ∀ a0 a1, Kept lasting
    calm false r a0 → Kept lasting calm false r (eff a0 a1)) (hs : Kept lasting calm false r s) :
    Kept lasting calm false r (runRandom op eff q tag s) := by
  unfold runRandom
  split
  · exact hs
  · split
    · exact (keeps_settle (keeps_rejectClass3 hs))
    · exact (keeps_settle (heff _ _ hs))

theorem keeps_execCvRandomSet {q : Nat} {tag : Nat} {s : State} (hs : Kept lasting calm false r s) :
    KeptN lasting calm false r (execCvRandomSet q tag s) := by
  unfold execCvRandomSet
  exact (keepsN_next (keeps_runRandom (fun _ _ h1 => (keeps_issueAll (keeps_setRS h1))) hs))

theorem keeps_execCvRandomAdvance {q : Nat} {tag : Nat} {s : State} (hs : Kept lasting calm false r s) :
    KeptN lasting calm false r (execCvRandomAdvance q tag s) := by
  unfold execCvRandomAdvance
  exact (keepsN_next (keeps_runRandom (fun _ _ h1 => by
    extract_lets n2 r3
    exact (keeps_issueAll (keeps_setRS h1))
) hs))

theorem keeps_execCvRandomMask {q : Nat} {tag : Nat} {s : State} (hs : Kept lasting calm false r s) :
    KeptN lasting calm false r (execCvRandomMask q tag s) := by
  unfold execCvRandomMask
  exact (keepsN_next (keeps_runRandom (fun _ _ h1 => by
    extract_lets i2 r3
    exact (keeps_runOut h1)
) hs))

theorem keeps_execCvRandomWords {q : Nat} {tag : Nat} {s : State} (hs : Kept lasting calm false r s) :
    KeptN lasting calm false r (execCvRandomWords q tag s) := by
  unfold execCvRandomWords
  exact (keepsN_next (keeps_runRandom (fun _ _ h1 => by
    extract_lets i2 r3
    exact (keeps_runOut h1)
) hs))

theorem keeps_runPolicy {op : Nat} {eff : State → Desc → State} {q : Nat} {tag : Nat} {s : State} (heff : ∀ a0 a1, Kept lasting
    calm false r a0 → Kept lasting calm false r (eff a0 a1)) (hs : Kept lasting calm false r s) :
    Kept lasting calm false r (runPolicy op eff q tag s) := by
  unfold runPolicy
  split
  · exact hs
  · split
    · exact (keeps_settle (keeps_rejectClass3 hs))
    · exact (keeps_settle (heff _ _ hs))

theorem keeps_execCkPolicyBind {q : Nat} {tag : Nat} {s : State} (hs : Kept lasting calm false r s) :
    KeptN lasting calm false r (execCkPolicyBind q tag s) := by
  unfold execCkPolicyBind
  exact (keepsN_next (keeps_runPolicy (fun _ _ h1 => (keeps_issueAll (keeps_setProf h1))) hs))

theorem keeps_execCkPolicyReset {q : Nat} {tag : Nat} {s : State} (hs : Kept lasting calm false r s) :
    KeptN lasting calm false r (execCkPolicyReset q tag s) := by
  unfold execCkPolicyReset
  exact (keepsN_next (keeps_runPolicy (fun _ _ h1 => by
    extract_lets n2 l3 s4
    exact (keeps_issueAll (keeps_setProf h1))
) hs))

theorem keeps_execCkPolicyUnbind {q : Nat} {tag : Nat} {s : State} (hs : Kept lasting calm false r s) :
    KeptN lasting calm false r (execCkPolicyUnbind q tag s) := by
  unfold execCkPolicyUnbind
  exact (keepsN_next (keeps_runPolicy (fun _ _ h1 => (keeps_issueAll (keeps_setProf h1))) hs))

theorem keeps_execCkPolicyRead {q : Nat} {tag : Nat} {s : State} (hs : Kept lasting calm false r s) :
    KeptN lasting calm false r (execCkPolicyRead q tag s) := by
  unfold execCkPolicyRead
  exact (keepsN_next (keeps_runPolicy (fun _ _ h1 => by
    extract_lets t2 p3
    exact (keeps_runOut h1)
) hs))

theorem keeps_disagreeOutcome {s : State} {die : Nat} {x : Sample} (hs : Kept lasting calm dry r s) :
    KeptP lasting calm dry r (disagreeOutcome s die x) := by
  unfold disagreeOutcome
  extract_lets f1 n2 p3 e4 s5 s6 q7 s8
  have h9 : Kept lasting calm dry r s5 := (keeps_addF hs rfl)
  have h10 : Kept lasting calm dry r s6 := (keeps_ite (keeps_setProf h9) h9)
  have h11 : Kept lasting calm dry r s8 := (keeps_ite (keeps_setProf h10) h10)
  split
  · exact (keepsP_mk h10)
  · exact (keepsP_mk h10)
  · refine keepsP_ite ?_ ?_
    · exact (keepsP_mk h10)
    · refine keepsP_ite ?_ ?_
      · exact (keepsP_mk h10)
      · refine keepsP_ite ?_ ?_
        · exact (keepsP_mk (keeps_addF h11 rfl))
        · exact (keepsP_mk h10)

theorem keeps_countSilent {s : State} {die : Nat} (hs : Kept lasting false dry r s) :
    Kept lasting false dry r (countSilent s die) := by
  unfold countSilent
  exact (keeps_logRec (keeps_addF hs rfl))

theorem keeps_execCkSampleDone {die : Nat} {corrupt : Bool} {s : State} (hs : Kept lasting false dry r s) :
    KeptN lasting false dry r (execCkSampleDone die corrupt s) := by
  unfold execCkSampleDone
  extract_lets s1 s2
  have h3 : Kept lasting false dry r s1 := (keeps_mk0 (keeps_at hs))
  have h4 : Kept lasting false dry r s2 := (keeps_countSamples (keeps_addF h3 rfl))
  exact (keepsN_next (by
    split
    · exact hs
    · extract_lets s5 s6
      have h7 : Kept lasting false dry r s6 := (keeps_ite (keeps_countSilent h4) h4)
      split
      · exact (keeps_finishEvent (keepsP_out ‹_› (keepsP_ite (keeps_disagreeOutcome h7) (keepsP_mk h7))))
))

theorem keeps_viewOf {s : State} {d : Desc} (hs : Kept lasting calm dry r s) :
    Kept lasting calm dry r (viewOf s d) := by
  unfold viewOf
  exact (keeps_viewed hs)

theorem keeps_endWork {s : State} {die : Nat} {st : Nat} {m : Micro} {rest : List Micro} {cause : Nat} (hs : Kept lasting calm
    dry r s) :
    Kept lasting calm dry r (endWork s die st m rest cause) := by
  unfold endWork
  exact (keeps_setFifo hs)

theorem keeps_showUsed {s : State} {d : Desc} {st : Nat} (hs : Kept lasting calm dry r s) :
    Kept lasting calm dry r (showUsed s d st) := by
  unfold showUsed
  extract_lets s1 p2
  have h3 : Kept lasting calm dry r s1 := (keeps_updDesc hs)
  refine keeps_ite ?_ ?_
  · exact h3
  · exact (keeps_setDetail (keepsQ_snd (keeps_freshFree h3)))

theorem keeps_endPass {s : State} {die : Nat} {st : Nat} {m : Micro} {rest : List Micro} {d : Desc} {rows : Nat} {skip : Nat}
    {k : Nat} {parity : Option Nat} (hs : Kept lasting false dry r s) :
    Kept lasting false dry r (endPass s die st m rest d rows skip k parity) := by
  unfold endPass
  extract_lets v1 c2 s3 s4 s5
  have h6 : Kept lasting false dry r v1 := (keeps_viewOf hs)
  have h7 : Kept lasting false dry r s3 := (keeps_countPass hs)
  have h8 : Kept lasting false dry r s4 := (keeps_updDesc h7)
  have h9 : Kept lasting false dry r s5 := (keeps_ite (keeps_updDesc (keeps_setFifo hs)) (keeps_endWork (keeps_showUsed h8)))
  exact (keeps_nextIssue h9)

theorem keeps_endHead {s : State} {die : Nat} {st : Nat} (hs : Kept lasting false dry r s) :
    Kept lasting false dry r (endHead s die st) := by
  unfold endHead
  refine keeps_ite ?_ ?_
  · exact hs
  · split
    · exact hs
    · split
      · refine keeps_ite ?_ ?_
        · exact hs
        · exact (keeps_endWork hs)
      · refine keeps_ite ?_ ?_
        · exact hs
        · exact (keeps_endPass hs)
      · exact hs

/-- What takes effect with a part keeps the state. -/
def KeptPart (lasting calm dry : Bool) (r : State) (p : Part) : Prop :=
    ∀ s, Kept lasting calm dry r s → Kept lasting calm dry r (p.after s)

theorem keeps_PartOf {d : Desc} {l : List PSpec} : KeptPart lasting calm dry r (Part.of d l) := fun _ h => h

theorem keeps_mxPart {v : State} {d : Desc} {k : Nat} : KeptPart lasting calm dry r (mxPart v d k) := by
  unfold mxPart
  extract_lets x table ps
  split
  · exact keeps_PartOf
  · split
    · exact keeps_PartOf
    · split
      · exact keeps_PartOf
      · intro s h
        refine keeps_ite ?_ (keeps_countConv ?_)
        · exact keeps_foldl (keepsQ_snd (keeps_freshFree h)) (fun _ _ g => keeps_countPoison g)
        · exact keeps_foldl (keepsQ_snd (keeps_freshFree h)) (fun _ _ g => keeps_countPoison g)

theorem keeps_slScanned {v : State} {d : Desc} : KeptPart lasting calm dry r (slScanned v d) :=
  fun _ h => keeps_ite (keepsQ_snd (keeps_freshFree h)) (keeps_countSliced (keepsQ_snd (keeps_freshFree h)))

theorem keeps_slOutput {v : State} {d : Desc} : KeptPart lasting calm dry r (slOutput v d) :=
  fun _ h => keeps_countSplit (keepsQ_snd (keeps_freshFree h))

theorem keeps_mergePart {v : State} {d : Desc} : KeptPart lasting calm dry r (mergePart v d) := by
  unfold mergePart
  extract_lets im die dd n st fs o
  split
  · exact fun _ h => keeps_countRows (keeps_countConv (keepsQ_snd (keeps_freshFree h)))
  · exact fun _ h => keeps_countRows h

/-- What takes effect with the results of any part keeps the state. -/
theorem keeps_partOf {v : State} {d : Desc} {k : Nat} {p : Part} (e : partOf v d k = some p) : KeptPart lasting calm dry r p := by
  unfold partOf at e
  extract_lets op at e
  split at e
  · cases e; exact keeps_mxPart
  split at e
  · cases e
    unfold gemmPart
    split
    · exact keeps_slScanned
    · exact keeps_slOutput
  split at e
  · cases e; exact fun _ h => keeps_countSplit (keeps_countSliced (keepsQ_snd (keeps_freshFree h)))
  split at e
  · cases e; exact fun _ h => keeps_countConv (keepsQ_snd (keeps_freshFree h))
  split at e
  · cases e; exact keeps_mergePart
  split at e
  · cases e; exact fun _ h => keepsQ_snd (keeps_freshFree h)
  · cases e

theorem keeps_finishPart {s : State} {d : Desc} {k : Nat} (hs : Kept lasting false false r s) :
    KeptO lasting false false r (finishPart s d k) := by
  unfold finishPart
  extract_lets v1 s2
  have h3 : Kept lasting false false r v1 := (keeps_viewOf hs)
  have h4 : Kept lasting false false r s2 := (keeps_updDesc hs)
  split
  · exact (keepsO_some (keeps_applyPart h4 (fun _ h => keeps_partOf ‹_› _ h)))
  · exact (keeps_atFinish h4 h3)
  · exact (keepsO_some h4)

theorem keeps_finishNext {s : State} (hs : Kept lasting false false r s) :
    KeptO lasting false false r (finishNext s) := by
  unfold finishNext
  exact (keepsO_findSome (fun _ => by
    split
    · exact (keepsO_mapO (keeps_finishPart hs) (fun _ h1 => (keeps_maybeComplete (keeps_advance h1))))
    · exact keepsO_none
))

theorem keeps_finishN {a : Nat} {a1 : State} (ha1 : Kept lasting false false r a1) :
    Kept lasting false false r (finishN a a1) := by
  unfold finishN
  split
  · exact (by assumption)
  · split
    · exact (keeps_finishN (keepsO_out ‹_› (keeps_finishNext (by assumption))))
    · exact (by assumption)

theorem keeps_finishAll {s : State} (hs : Kept lasting false false r s) :
    Kept lasting false false r (finishAll s) := by
  unfold finishAll
  exact (keeps_runRings (keeps_settle (keeps_finishN hs)))

theorem keeps_execMicroCommandRetire {die : Nat} {st : Nat} {s : State} (hs : Kept lasting false false r s) :
    KeptN lasting false false r (execMicroCommandRetire die st s) := by
  unfold execMicroCommandRetire
  exact (keepsN_next (keeps_ite (keeps_finishAll (keeps_retireHead (keeps_endHead hs))) hs))

end Sys2Proof.Laws
end

