-- ==== Sys2Proof/Laws/KeepFabric.lean ====
section
/-! SUPPORT. What the module map, the fabric and the ports keep (see Laws/Keep.lean), one lemma an operation. -/

namespace Sys2Proof.Laws

open Sys2Proof Sys2Proof.Machine

variable {lasting calm dry : Bool} {r s t : State} {α β γ : Type}

theorem keeps_runPg {s : State} {q : Nat} {tag : Nat} {op : Nat} (hs : Kept lasting calm false r s) :
    Kept lasting calm false r (runPg s q tag op) := by
  unfold runPg
  split
  · exact hs
  · refine keeps_ite ?_ ?_
    · exact (keeps_settle (keeps_issueAll hs))
    · exact (keeps_settle (keeps_showPg (keeps_arriveEdit (keeps_beginPg hs))))

theorem keeps_execPgOpen {q : Nat} {tag : Nat} {s : State} (hs : Kept lasting calm false r s) :
    KeptN lasting calm false r (execPgOpen q tag s) := by
  unfold execPgOpen
  exact (keepsN_next (keeps_runPg hs))

theorem keeps_execPgAppend {q : Nat} {tag : Nat} {s : State} (hs : Kept lasting calm false r s) :
    KeptN lasting calm false r (execPgAppend q tag s) := by
  unfold execPgAppend
  exact (keepsN_next (keeps_runPg hs))

theorem keeps_execPgTrim {q : Nat} {tag : Nat} {s : State} (hs : Kept lasting calm false r s) :
    KeptN lasting calm false r (execPgTrim q tag s) := by
  unfold execPgTrim
  exact (keepsN_next (keeps_runPg hs))

theorem keeps_execPgClose {q : Nat} {tag : Nat} {s : State} (hs : Kept lasting calm false r s) :
    KeptN lasting calm false r (execPgClose q tag s) := by
  unfold execPgClose
  exact (keepsN_next (keeps_runPg hs))

theorem keeps_execPgResume {q : Nat} {tag : Nat} {s : State} (hs : Kept lasting calm false r s) :
    KeptN lasting calm false r (execPgResume q tag s) := by
  unfold execPgResume
  exact (keepsN_next (keeps_runPg hs))

theorem keeps_execPgPin {q : Nat} {tag : Nat} {s : State} (hs : Kept lasting calm false r s) :
    KeptN lasting calm false r (execPgPin q tag s) := by
  unfold execPgPin
  exact (keepsN_next (keeps_runPg hs))

theorem keeps_execPgMove {q : Nat} {tag : Nat} {s : State} (hs : Kept lasting calm false r s) :
    KeptN lasting calm false r (execPgMove q tag s) := by
  unfold execPgMove
  exact (keepsN_next (keeps_runPg hs))

theorem keeps_execPgQuery {q : Nat} {tag : Nat} {s : State} (hs : Kept lasting calm false r s) :
    KeptN lasting calm false r (execPgQuery q tag s) := by
  unfold execPgQuery
  exact (keepsN_next (by
    split
    · exact hs
    · extract_lets n1 c2 d3
      split
      · exact (keeps_settle (keeps_rejectOp hs))
      · split
        · exact hs
        · extract_lets b4
          exact (keeps_settle (keeps_runOut (keeps_setDetail hs)))
))

theorem keeps_runRebuild {s : State} {q : Nat} {tag : Nat} {arg : Nat} (hs : Kept lasting calm false r s) :
    Kept lasting calm false r (runRebuild s q tag arg) := by
  unfold runRebuild
  extract_lets s1 x2
  have h3 : Kept lasting calm false r s1 := (keeps_beginPg hs)
  split
  · exact hs
  · split
    · exact (keeps_settle (keeps_rejectOp hs))
    · refine keeps_ite ?_ ?_
      · exact (keeps_settle (keeps_issueAll hs))
      · exact (keeps_settle (keeps_pumpRebuild (keeps_setRb h3)))

theorem keeps_execPgRebuildCompact {q : Nat} {tag : Nat} {s : State} (hs : Kept lasting calm false r s) :
    KeptN lasting calm false r (execPgRebuildCompact q tag s) := by
  unfold execPgRebuildCompact
  exact (keepsN_next (keeps_runRebuild hs))

theorem keeps_execPgRebuildRehome {q : Nat} {tag : Nat} {s : State} (hs : Kept lasting calm false r s) :
    KeptN lasting calm false r (execPgRebuildRehome q tag s) := by
  unfold execPgRebuildRehome
  exact (keepsN_next (keeps_runRebuild hs))

theorem keeps_copySpan {s : State} {die : Nat} {bank : Nat} {from_ : Nat} {dst : Nat} {span : Nat} (hs : Kept lasting calm dry
    r s) :
    Kept lasting calm dry r (copySpan s die bank from_ dst span) := by
  unfold copySpan
  extract_lets s1 d2 e3
  exact (keeps_mk (keeps_at hs))

theorem keeps_packSpans {die : Nat} {bank : Nat} {a : List (Nat × SeqRec)} {a3 : Nat} {a4 : Nat × State} (ha4 : KeptQ lasting
    calm dry r a4) :
    KeptQ lasting calm dry r (packSpans die bank a a3 a4) := by
  unfold packSpans
  split
  · exact (keepsQ_pair ‹_›)
  · extract_lets s1 s2
    have h3 : Kept lasting calm dry r s1 := (keeps_copySpan (keepsQ_pair ‹_›))
    have h4 : Kept lasting calm dry r s2 := (keeps_setSeq h3)
    exact (keeps_packSpans (keepsQ_mk h4))

theorem keeps_execRebuildSwap {die : Nat} {s : State} (hs : Kept lasting calm false r s) :
    KeptN lasting calm false r (execRebuildSwap die s) := by
  unfold execRebuildSwap
  extract_lets x1 b2
  exact (keepsN_next (keeps_ite (by
    split
    · extract_lets s3 o4 s5 s6 s7
      have h8 : Kept lasting calm false r s3 := (keeps_setF (keepsQ_out ‹_› (keeps_packSpans (keepsQ_mk hs))) rfl)
      have h9 : Kept lasting calm false r s5 := (keeps_mk (keeps_at h8))
      have h10 : Kept lasting calm false r s6 := (keeps_setF h9 rfl)
      have h11 : Kept lasting calm false r s7 := (keeps_endRebuild (keeps_setRb h10))
      exact (keeps_settle (keeps_showPg (keeps_pumpRebuild h11)))
) hs))

theorem keeps_execRemapCopyDone {die : Nat} {entry : Nat} {ok : Bool} {s : State} (hs : Kept lasting false false r s) :
    KeptN lasting false false r (execRemapCopyDone die entry ok s) := by
  unfold execRemapCopyDone
  exact (keepsN_next (by
    split
    · exact hs
    · extract_lets s1 s2 l3 g4 s5 x6 s7
      have h8 : Kept lasting false false r s1 := (keeps_noteCopy hs)
      have h9 : Kept lasting false false r s2 := (keeps_mk0 (keeps_at h8))
      have h10 : Kept lasting false false r s5 := (keeps_mk0 (keeps_at h8))
      have h11 : Kept lasting false false r s7 := (keeps_ite (keeps_landAlone (keeps_ite (keeps_setRb h10) h10))
          (keeps_releaseTarget (keeps_ite (keeps_updRemapEnt h10) h10)))
      refine keeps_ite ?_ ?_
      · refine keeps_ite ?_ ?_
        · exact (keeps_settle h9)
        · exact (keeps_settle (keeps_showPg (keeps_landEdit h9)))
      · exact (keeps_settle (keeps_fenceEmptied (keeps_showPg (keeps_pumpRebuild h11))))
))

theorem keeps_noteDemoted {s : State} {r0 : Remap} (hs : Kept lasting calm dry r s) :
    Kept lasting calm dry r (noteDemoted s r0) := by
  unfold noteDemoted
  split
  · exact (keeps_updEdit hs)
  · exact hs

theorem keeps_execPgDemotionDone {die : Nat} {entry : Nat} {ok : Bool} {s : State} (hs : Kept lasting false false r s) :
    KeptN lasting false false r (execPgDemotionDone die entry ok s) := by
  unfold execPgDemotionDone
  exact (keepsN_next (by
    split
    · exact hs
    · extract_lets s1 s2 l3 s4
      have h5 : Kept lasting false false r s1 := (keeps_noteCopy hs)
      have h6 : Kept lasting false false r s2 := (keeps_mk0 (keeps_at h5))
      have h7 : Kept lasting false false r s4 := (keeps_ite (keeps_updRemapEnt h6) (keeps_addF h6 rfl))
      refine keeps_ite ?_ ?_
      · exact (keeps_settle (keeps_showPg (keeps_landAlone (keeps_noteDemoted (keeps_addF h6 rfl)))))
      · split
        · exact (keeps_settle h7)
        · extract_lets s8
          have h9 : Kept lasting false false r s8 := (keeps_updEdit h7)
          split
          · exact h9
          · split
            · exact h9
            · exact (keeps_settle (keeps_showPg (keeps_parkStep h9)))
))

theorem keeps_execAppendParkTimeout {die : Nat} {seq : Nat} {s : State} (hs : Kept lasting calm false r s) :
    KeptN lasting calm false r (execAppendParkTimeout die seq s) := by
  unfold execAppendParkTimeout
  exact (keepsN_next (by
    split
    · exact hs
    · split
      · exact hs
      · refine keeps_ite ?_ ?_
        · exact (keeps_settle (keeps_showPg (keeps_preempt hs)))
        · exact hs
))

theorem keeps_execPgAgeSweep {die : Nat} {s : State} (hs : Kept lasting calm dry r s) :
    KeptN lasting calm dry r (execPgAgeSweep die s) := by
  unfold execPgAgeSweep
  extract_lets l1 o2
  exact (keepsN_next (keeps_ite (keeps_mk (keeps_at hs)) hs))

theorem keeps_execWalkBegin {die : Nat} {seq : Nat} {owner : Nat} {first : Nat} {last : Nat} {s : State} (hs : Kept lasting
    calm dry r s) :
    KeptN lasting calm dry r (execWalkBegin die seq owner first last s) := by
  unfold execWalkBegin
  exact (keepsN_next (keeps_ite hs (keeps_ite (keeps_mk (keeps_at hs)) (keeps_beginWalk hs))))

theorem keeps_execWalkEnd {die : Nat} {slot : Nat} {s : State} (hs : Kept lasting false false r s) :
    KeptN lasting false false r (execWalkEnd die slot s) := by
  unfold execWalkEnd
  exact (keepsN_next (by
    split
    · exact hs
    · exact (keeps_finishAll (keeps_showPg (keeps_pumpRebuild (keeps_endWalk hs))))
))

theorem keeps_answerTx {s : State} {die : Nat} {t : Tx} {type : Nat} {flags : Nat} {off : Nat} {seq : Nat} {len : Nat} (hs :
    Kept lasting calm dry r s) :
    Kept lasting calm dry r (answerTx s die t type flags off seq len) := by
  unfold answerTx
  exact (keeps_transmit hs)

theorem keeps_refuseTx {s : State} {die : Nat} {t : Tx} {flags : Nat} {off : Nat} {reason : Nat} (hs : Kept lasting calm dry r s) :
    Kept lasting calm dry r (refuseTx s die t flags off reason) := by
  unfold refuseTx
  exact (keeps_answerTx (keeps_addF hs rfl))

theorem keeps_showFlows {s : State} {die : Nat} (hs : Kept lasting calm dry r s) :
    Kept lasting calm dry r (showFlows s die) := by
  unfold showFlows
  exact (keeps_setF hs rfl)

theorem keeps_ackFlow {s : State} {die : Nat} {t : Tx} {f : RxFlow} (hs : Kept lasting false dry r s) :
    Kept lasting false dry r (ackFlow s die t f) := by
  unfold ackFlow
  exact (keeps_answerTx (keeps_mk0 (keeps_at hs)))

theorem keeps_applyWrite {s : State} {die : Nat} {t : Tx} (hs : Kept lasting false false r s) :
    KeptP lasting false false r (applyWrite s die t) := by
  unfold applyWrite
  refine keepsP_ite ?_ ?_
  · exact (keeps_wardWrite hs)
  · split
    · extract_lets v1
      refine keepsP_ite ?_ ?_
      · exact (keepsP_mk hs)
      · split
        · exact (keepsP_mk (keepsP_out ‹_› (keeps_jobWrite hs)))
    · exact (keepsP_mk hs)

theorem keeps_applySignal {s : State} {die : Nat} {t : Tx} (hs : Kept lasting calm dry r s) :
    KeptP lasting calm dry r (applySignal s die t) := by
  unfold applySignal
  split
  · exact (keepsP_mk (keeps_signalTok hs))
  · exact (keepsP_mk hs)

theorem keeps_applyFlow {s : State} {die : Nat} {t : Tx} (hs : Kept lasting false false r s) :
    Kept lasting false false r (applyFlow s die t) := by
  unfold applyFlow
  extract_lets f1 s2 f3
  split
  · refine keeps_ite ?_ ?_
    · exact (keeps_refuseTx (keeps_mk0 (keeps_at (keepsP_out ‹_› (keepsP_ite (keeps_applyWrite hs) (keeps_applySignal hs))))))
    · refine keeps_ite ?_ ?_
      · exact (keeps_ackFlow (keepsP_out ‹_› (keepsP_ite (keeps_applyWrite hs) (keeps_applySignal hs))))
      · exact (keeps_mk0 (keeps_at (keepsP_out ‹_› (keepsP_ite (keeps_applyWrite hs) (keeps_applySignal hs)))))

theorem keeps_rxFlowTx_go {die : Nat} {t : Tx} {s : State} {f : RxFlow} (hs : Kept lasting false false r s) :
    Kept lasting false false r (rxFlowTx.go die t s f) := by
  unfold rxFlowTx.go
  extract_lets d1
  refine keeps_ite ?_ ?_
  · exact (keeps_ackFlow (keeps_addF hs rfl))
  · refine keeps_ite ?_ ?_
    · exact hs
    · split
      · exact (keeps_foldl hs (fun _ _ h2 => (keeps_applyFlow h2)))
      · exact (keeps_mk0 (keeps_at hs))

theorem keeps_rxFlowTx {s : State} {die : Nat} {t : Tx} (hs : Kept lasting false false r s) :
    Kept lasting false false r (rxFlowTx s die t) := by
  unfold rxFlowTx
  extract_lets k1 s2
  have h3 : Kept lasting false false r s2 := (keeps_ite (keeps_addF hs rfl) hs)
  split
  · refine keeps_ite ?_ ?_
    · exact (keeps_answerTx h3)
    · exact (keeps_rxFlowTx_go (keeps_showFlows (keeps_mk0 (keeps_at hs))))
  · exact (keeps_rxFlowTx_go hs)

theorem keeps_setRecv {s : State} {r0 : McRecv} (hs : Kept lasting false dry r s) :
    Kept lasting false dry r (setRecv s r0) := by
  unfold setRecv
  refine keeps_ite ?_ ?_
  · exact (keeps_mk0 (keeps_at hs))
  · exact (keeps_mk0 (keeps_at hs))

theorem keeps_pullNext {s : State} {r0 : McRecv} (hs : Kept lasting calm dry r s) :
    Kept lasting calm dry r (pullNext s r0) := by
  unfold pullNext
  refine keeps_ite ?_ ?_
  · exact hs
  · split
    · exact (keeps_transmit hs)

theorem keeps_ackRecv {s : State} {r0 : McRecv} (hs : Kept lasting calm dry r s) :
    Kept lasting calm dry r (ackRecv s r0) := by
  unfold ackRecv
  split
  · exact (keeps_transmit hs)

theorem keeps_applyPiece {s : State} {die : Nat} {x : Nat} {r0 : McRecv} {t : Tx} (hs : Kept lasting false false r s) :
    Kept lasting false false r (applyPiece s die x r0 t) := by
  unfold applyPiece
  extract_lets r1
  split
  · split
    · extract_lets r2 s3
      have h4 : Kept lasting false false r s3 := (keeps_setRecv (keepsP_out ‹_› (keeps_applyWrite hs)))
      refine keeps_ite ?_ ?_
      · split
        · exact (keeps_transmit (keeps_addF h4 rfl))
      · exact (keeps_ackRecv h4)

theorem keeps_applyMc {s : State} {die : Nat} {x : Nat} {t : Tx} (hs : Kept lasting false false r s) :
    Kept lasting false false r (applyMc s die x t) := by
  unfold applyMc
  extract_lets r1
  refine keeps_ite ?_ ?_
  · exact (keeps_ackRecv (keeps_addF hs rfl))
  · split
    · exact (keeps_foldl (keeps_setRecv hs) (fun _ _ h2 => (keeps_applyPiece h2)))
    · exact (keeps_setRecv hs)

theorem keeps_pruneRecv {s : State} {die : Nat} {x : Nat} {cls : Nat} (hs : Kept lasting false dry r s) :
    Kept lasting false dry r (pruneRecv s die x cls) := by
  unfold pruneRecv
  extract_lets s1 r2
  exact (keeps_pullNext (keeps_setRecv hs))

theorem keeps_fillFlow {k : Nat} {a : Nat} {a2 : State} (ha2 : Kept lasting calm dry r a2) :
    Kept lasting calm dry r (fillFlow k a a2) := by
  unfold fillFlow
  split
  · exact (by assumption)
  · split
    · split
      · refine keeps_ite ?_ ?_
        · exact (keeps_fillFlow (keeps_transmit (keeps_mk (keeps_at (by assumption)))))
        · exact (by assumption)
      · exact (by assumption)
    · exact (by assumption)

theorem keeps_ackTx {s : State} {t : Tx} (hs : Kept lasting calm dry r s) :
    Kept lasting calm dry r (ackTx s t) := by
  unfold ackTx
  extract_lets k1 o2
  split
  · exact hs
  · extract_lets s3
    have h4 : Kept lasting calm dry r s3 := (keeps_mk (keeps_at hs))
    exact (keeps_fillFlow (keeps_foldl h4 (fun _ _ h5 => (keeps_ackMicro h5))))

theorem keeps_ackMc {s : State} {t : Tx} (hs : Kept lasting calm dry r s) :
    Kept lasting calm dry r (ackMc s t) := by
  unfold ackMc
  extract_lets k1
  split
  · exact hs
  · extract_lets m2
    refine keeps_ite ?_ ?_
    · exact (keeps_ackMicro (keeps_mk (keeps_at hs)))
    · exact (keeps_mk (keeps_at hs))

theorem keeps_nackTx {s : State} {t : Tx} (hs : Kept lasting false dry r s) :
    Kept lasting false dry r (nackTx s t) := by
  unfold nackTx
  extract_lets r1 k2
  refine keeps_ite ?_ ?_
  · refine keeps_ite ?_ ?_
    · exact (keeps_mk0 (keeps_at hs))
    · split
      · exact (keeps_failMicro hs)
      · exact hs
  · split
    · exact hs
    · refine keeps_ite ?_ ?_
      · exact (keeps_mk0 (keeps_at hs))
      · split
        · exact (keeps_failMicro hs)
        · exact hs

theorem keeps_wardRead {s : State} {t : Tx} (hs : Kept lasting calm dry r s) :
    Kept lasting calm dry r (wardRead s t) := by
  unfold wardRead
  refine keeps_ite ?_ ?_
  · exact (keeps_transmit hs)
  · exact (keeps_refuseTx hs)

theorem keeps_readTx {s : State} {t : Tx} (hs : Kept lasting calm dry r s) :
    Kept lasting calm dry r (readTx s t) := by
  unfold readTx
  refine keeps_ite ?_ ?_
  · exact (keeps_wardRead hs)
  · split
    · exact (keeps_transmit hs)
    · exact (keeps_answerTx hs)

theorem keeps_readDataTx {s : State} {die : Nat} {t : Tx} (hs : Kept lasting false false r s) :
    Kept lasting false false r (readDataTx s die t) := by
  unfold readDataTx
  refine keeps_ite ?_ ?_
  · exact hs
  · split
    · exact hs
    · extract_lets s1
      have h2 : Kept lasting false false r s1 := (keeps_applyMc hs)
      split
      · exact (keeps_pullNext h2)
      · exact h2

theorem keeps_deliverTx {s : State} {die : Nat} {t : Tx} (hs : Kept lasting false false r s) :
    Kept lasting false false r (deliverTx s die t) := by
  unfold deliverTx
  refine keeps_ite ?_ ?_
  · refine keeps_ite ?_ ?_
    · exact (keeps_applyMc hs)
    · refine keeps_ite ?_ ?_
      · exact (keeps_pruneRecv hs)
      · exact hs
  · split
    · exact (keeps_rxFlowTx hs)
    · exact (keeps_rxFlowTx hs)
    · refine keeps_ite ?_ ?_
      · exact (keeps_ackMc hs)
      · exact (keeps_ackTx hs)
    · exact (keeps_nackTx hs)
    · exact (keeps_readTx hs)
    · exact (keeps_readDataTx hs)
    · refine keeps_ite ?_ ?_
      · exact hs
      · exact (keeps_pruneRecv hs)
    · exact hs

theorem keeps_atDie {s : State} {die : Nat} {t : Tx} (hs : Kept lasting false false r s) :
    Kept lasting false false r (atDie s die t) := by
  unfold atDie
  extract_lets s1
  have h2 : Kept lasting false false r s1 := (keeps_wakeFrom hs)
  refine keeps_ite ?_ ?_
  · exact hs
  · refine keeps_ite ?_ ?_
    · exact (keeps_mk0 (keeps_at h2))
    · exact (keeps_deliverTx h2)

theorem keeps_discardTx {s : State} {port : Option Nat} (hs : Kept lasting calm dry r s) :
    Kept lasting calm dry r (discardTx s port) := by
  unfold discardTx
  split
  · exact (keeps_addF hs rfl)
  · exact hs

theorem keeps_openTx {s : State} {port : Option Nat} {die : Nat} {t : Tx} {k : State → Tx → State} (hs : Kept lasting calm dry
    r s) (hk : ∀ a0 a1, Kept lasting calm dry r a0 → Kept lasting calm dry r (k a0 a1)) :
    Kept lasting calm dry r (openTx s port die t k) := by
  unfold openTx
  extract_lets s1
  have h2 : Kept lasting calm dry r s1 := (keeps_addF hs rfl)
  split
  · exact (hk _ _ hs)
  · split
    · exact (hk _ _ hs)
    · refine keeps_ite ?_ ?_
      · split
        · exact (keeps_transmit h2)
      · exact (keeps_answerTx h2)

theorem keeps_groupTx {s : State} {port : Option Nat} {t : Tx} (hs : Kept lasting false false r s) :
    Kept lasting false false r (groupTx s port t) := by
  unfold groupTx
  refine keeps_ite (keeps_discardTx hs) ?_
  have h : ∀ l : List Nat, Kept lasting false false r (match l with
      | [] => s
      | d :: _ => openTx s port d t (fun s t => l.foldl (fun s d => atDie s d t) s)) := by
    intro l
    cases l with
    | nil => exact hs
    | cons d l => exact keeps_openTx hs (fun _ _ h => keeps_foldl h (fun _ _ h => keeps_atDie h))
  cases port with
  | none => exact h _
  | some p => exact keeps_injectMc (h _)

theorem keeps_recvTx {s : State} {port : Option Nat} {t : Tx} (hs : Kept lasting false false r s) :
    Kept lasting false false r (recvTx s port t) := by
  unfold recvTx
  extract_lets u1
  refine keeps_ite ?_ ?_
  · exact hs
  · refine keeps_ite ?_ ?_
    · exact (keeps_discardTx hs)
    · refine keeps_ite ?_ ?_
      · exact (keeps_groupTx hs)
      · refine keeps_ite ?_ ?_
        · exact (keeps_openTx hs (fun _ _ h2 => (keeps_atDie h2)))
        · split
          · refine keeps_ite ?_ ?_
            · exact (keeps_routeTx hs)
            · exact (keeps_discardTx hs)
          · exact hs

theorem keeps_arrive {type : Nat} {port : Option Nat} {t : Tx} {s : State} (hs : Kept lasting false false r s) :
    Kept lasting false false r (arrive type port t s) := by
  unfold arrive
  refine keeps_ite ?_ ?_
  · exact hs
  · exact (keeps_settle (keeps_recvTx hs))

theorem keeps_execWrite {port : Option Nat} {t : Tx} {s : State} (hs : Kept lasting false false r s) :
    KeptN lasting false false r (execWrite port t s) := by
  unfold execWrite
  exact (keepsN_next (keeps_arrive hs))

theorem keeps_execAck {port : Option Nat} {t : Tx} {s : State} (hs : Kept lasting false false r s) :
    KeptN lasting false false r (execAck port t s) := by
  unfold execAck
  exact (keepsN_next (keeps_arrive hs))

theorem keeps_execNack {port : Option Nat} {t : Tx} {s : State} (hs : Kept lasting false false r s) :
    KeptN lasting false false r (execNack port t s) := by
  unfold execNack
  exact (keepsN_next (keeps_arrive hs))

theorem keeps_execSignal {port : Option Nat} {t : Tx} {s : State} (hs : Kept lasting false false r s) :
    KeptN lasting false false r (execSignal port t s) := by
  unfold execSignal
  exact (keepsN_next (keeps_arrive hs))

theorem keeps_execRead {port : Option Nat} {t : Tx} {s : State} (hs : Kept lasting false false r s) :
    KeptN lasting false false r (execRead port t s) := by
  unfold execRead
  exact (keepsN_next (keeps_arrive hs))

theorem keeps_execReadData {port : Option Nat} {t : Tx} {s : State} (hs : Kept lasting false false r s) :
    KeptN lasting false false r (execReadData port t s) := by
  unfold execReadData
  exact (keepsN_next (keeps_arrive hs))

theorem keeps_execPrune {port : Option Nat} {t : Tx} {s : State} (hs : Kept lasting false false r s) :
    KeptN lasting false false r (execPrune port t s) := by
  unfold execPrune
  exact (keepsN_next (keeps_arrive hs))

theorem keeps_execFlowAckTimer {flow : Nat} {s : State} (hs : Kept lasting false dry r s) :
    KeptN lasting false dry r (execFlowAckTimer flow s) := by
  unfold execFlowAckTimer
  exact (keepsN_next (by
    split
    · refine keeps_ite ?_ ?_
      · exact hs
      · exact (keeps_ackFlow hs)
    · exact hs
))

theorem keeps_execFlowBusyRetry {flow : Nat} {s : State} (hs : Kept lasting calm dry r s) :
    KeptN lasting calm dry r (execFlowBusyRetry flow s) := by
  unfold execFlowBusyRetry
  exact (keepsN_next (by
    split
    · refine keeps_ite ?_ ?_
      · exact hs
      · exact (keeps_foldl (keeps_mk (keeps_at hs)) (fun _ _ h1 => (keeps_transmit h1)))
    · exact hs
))

theorem keeps_execFlowIdleRelease {flow : Nat} {s : State} (hs : Kept lasting false dry r s) :
    KeptN lasting false dry r (execFlowIdleRelease flow s) := by
  unfold execFlowIdleRelease
  extract_lets s1
  have h2 : Kept lasting false dry r s1 := (by
      unfold s1
      split
      · refine keeps_ite ?_ ?_
        · exact (keeps_mk0 (keeps_at hs))
        · exact hs
      · exact hs
)
  exact (keepsN_next (by
    split
    · refine keeps_ite ?_ ?_
      · exact (keeps_showFlows (keeps_mk0 (keeps_at h2)))
      · exact h2
    · exact h2
))

theorem keeps_execLossLimitExpiry {flow : Nat} {s : State} (hs : Kept lasting calm false r s) :
    KeptN lasting calm false r (execLossLimitExpiry flow s) := by
  unfold execLossLimitExpiry
  exact (keepsN_next (by
    split
    · extract_lets s1
      have h2 : Kept lasting calm false r s1 := (keeps_discardTx (keeps_mk (keeps_at hs)))
      refine keeps_ite ?_ ?_
      · exact hs
      · exact (keeps_settle (keeps_failTx h2))
    · split
      · split
        · exact (keeps_settle (keeps_failMicro hs))
        · exact hs
      · exact hs
))

theorem keeps_execMulticastBranchPrune {fdie : Nat} {port : Nat} {group : Nat} {xfer : Nat} {behind : Nat} {idle : Nat} {s :
    State} (hs : Kept lasting calm dry r s) :
    KeptN lasting calm dry r (execMulticastBranchPrune fdie port group xfer behind idle s) := by
  unfold execMulticastBranchPrune
  extract_lets e1 c2
  exact (keepsN_next (keeps_ite (keeps_pruneBranch hs) hs))

theorem keeps_execMulticastLagTimeout {die : Nat} {xfer : Nat} {s : State} (hs : Kept lasting false dry r s) :
    KeptN lasting false dry r (execMulticastLagTimeout die xfer s) := by
  unfold execMulticastLagTimeout
  exact (keepsN_next (by
    split
    · refine keeps_ite ?_ ?_
      · exact hs
      · exact (keeps_pruneRecv hs)
    · exact hs
))

theorem keeps_execRetentionLimitExpiry {die : Nat} {xfer : Nat} {s : State} (hs : Kept lasting calm false r s) :
    KeptN lasting calm false r (execRetentionLimitExpiry die xfer s) := by
  unfold execRetentionLimitExpiry
  exact (keepsN_next (by
    split
    · exact hs
    · extract_lets n1
      exact (keeps_settle (keeps_failMicro (keeps_mk (keeps_at hs))))
))

theorem keeps_setMode {s : State} {p : Nat} (hs : Kept lasting calm dry r s) :
    Kept lasting calm dry r (setMode s p) := by
  unfold setMode
  extract_lets h1 n2 s3
  have h4 : Kept lasting calm dry r s3 := (keeps_setF hs rfl)
  exact (keeps_setF h4 rfl)

theorem keeps_toRetrain {s : State} {p : Nat} (hs : Kept lasting calm dry r s) :
    Kept lasting calm dry r (toRetrain s p) := by
  unfold toRetrain
  exact (keeps_addF (keeps_setPortState hs) rfl)

theorem keeps_resendReplay {s : State} {p : Nat} (hs : Kept lasting calm dry r s) :
    Kept lasting calm dry r (resendReplay s p) := by
  unfold resendReplay
  extract_lets l1 s2 s3 s4
  have h5 : Kept lasting calm dry r s3 := (keeps_setPort hs)
  have h6 : Kept lasting calm dry r s4 := (keeps_mk (keeps_at h5))
  exact (keeps_foldl h6 (fun _ _ h7 => (keeps_routeTx h7)))

theorem keeps_pruneLost {s : State} {p : Nat} (hs : Kept lasting calm dry r s) :
    Kept lasting calm dry r (pruneLost s p) := by
  unfold pruneLost
  exact (keeps_foldl hs (fun _ _ h1 => by
    extract_lets k2 g3
    refine keeps_ite ?_ ?_
    · exact (keeps_pruneBranch h1)
    · exact h1
))

theorem keeps_portDown {s : State} {p : Nat} (hs : Kept lasting false false r s) :
    Kept lasting false false r (portDown s p) := by
  unfold portDown
  extract_lets s1
  have h2 : Kept lasting false false r s1 := (keeps_addF (keeps_setPortState hs) rfl)
  exact (keeps_settle (keeps_localNotice (keeps_pruneLost (keeps_resendReplay h2))))

theorem keeps_toTraining {s : State} {p : Nat} (hs : Kept lasting calm dry r s) :
    Kept lasting calm dry r (toTraining s p) := by
  unfold toTraining
  exact (keeps_setPortState hs)

theorem keeps_writePortCfg {s : State} {src : Src} {p : Nat} {v : Nat} (hs : Kept lasting false false r s) :
    Kept lasting false false r (writePortCfg s src p v) := by
  unfold writePortCfg
  extract_lets k1 o2 s3 s4
  have h5 : Kept lasting false false r s3 := (keeps_plainWrite hs)
  refine keeps_ite ?_ ?_
  · exact h5
  · refine keeps_ite ?_ ?_
    · refine keeps_ite ?_ ?_
      · exact (keeps_toTraining h5)
      · refine keeps_ite ?_ ?_
        · exact (keeps_settle (keeps_toRetrain h5))
        · exact h5
    · refine keeps_ite ?_ ?_
      · exact (keeps_settle (keeps_resendReplay (keeps_setPortState h5)))
      · exact (keeps_setPortState h5)

theorem keeps_execPortEnable {src : Src} {port : Nat} {value : Nat} {s : State} (hs : Kept lasting false false r s) :
    KeptN lasting false false r (execPortEnable src port value s) := by
  unfold execPortEnable
  exact (keepsN_next (keeps_ite (keeps_pfWrite hs (fun _ h1 => (keeps_writePortCfg h1))) hs))

theorem keeps_execPortDisable {src : Src} {port : Nat} {value : Nat} {s : State} (hs : Kept lasting false false r s) :
    KeptN lasting false false r (execPortDisable src port value s) := by
  unfold execPortDisable
  exact (keepsN_next (keeps_ite hs (keeps_pfWrite hs (fun _ h1 => (keeps_writePortCfg h1)))))

theorem keeps_execPortPartnerDetected {port : Nat} {s : State} (hs : Kept lasting calm dry r s) :
    KeptN lasting calm dry r (execPortPartnerDetected port s) := by
  unfold execPortPartnerDetected
  extract_lets s1 s2
  have h3 : Kept lasting calm dry r s2 := (keeps_setPort hs)
  exact (keepsN_next (keeps_ite (keeps_toTraining h3) h3))

theorem keeps_execPortTrained {port : Nat} {lanes : Nat} {s : State} (hs : Kept lasting calm false r s) :
    KeptN lasting calm false r (execPortTrained port lanes s) := by
  unfold execPortTrained
  extract_lets l1 s2 s3 s4 n5 s6
  have h7 : Kept lasting calm false r s3 := (keeps_setPort hs)
  have h8 : Kept lasting calm false r s4 := (keeps_setMode (keeps_setPortState h7))
  have h9 : Kept lasting calm false r s6 := (keeps_setF h8 rfl)
  exact (keepsN_next (keeps_ite hs (keeps_settle (keeps_retryWaits h9))))

theorem keeps_execTrainingTimeout {port : Nat} {s : State} (hs : Kept lasting false false r s) :
    KeptN lasting false false r (execTrainingTimeout port s) := by
  unfold execTrainingTimeout
  exact (keepsN_next (keeps_ite (keeps_portDown hs) hs))

theorem keeps_execPortMarginingDone {port : Nat} {s : State} (hs : Kept lasting calm false r s) :
    KeptN lasting calm false r (execPortMarginingDone port s) := by
  unfold execPortMarginingDone
  extract_lets s1 s2
  have h3 : Kept lasting calm false r s2 := (keeps_setPort hs)
  exact (keepsN_next (keeps_ite (keeps_ite (keeps_settle (keeps_toRetrain h3)) h3) hs))

theorem keeps_narrowRecord {s : State} {p : Nat} {lane : Nat} (hs : Kept lasting false dry r s) :
    Kept lasting false dry r (narrowRecord s p lane) := by
  unfold narrowRecord
  split
  · split
    · extract_lets r1 l2 s3
      have h4 : Kept lasting false dry r s3 := (keeps_addW (keeps_mk0 (keeps_rlog (keepsQ_out ‹_› (keeps_freshFree (keepsQ_out
          ‹_› (keeps_freshFree hs)))) (length_last _ _))) rfl)
      exact (keeps_logRec h4)

theorem keeps_execLaneErrorRetrain {port : Nat} {lane : Nat} {s : State} (hs : Kept lasting false false r s) :
    KeptN lasting false false r (execLaneErrorRetrain port lane s) := by
  unfold execLaneErrorRetrain
  extract_lets s1 s2 s3
  have h4 : Kept lasting false false r s2 := (keeps_setPort hs)
  have h5 : Kept lasting false false r s3 := (keeps_setF h4 rfl)
  exact (keepsN_next (keeps_ite hs (keeps_ite (keeps_portDown hs) (keeps_settle (keeps_toRetrain (keeps_narrowRecord h5))))))

theorem keeps_execRetrainDone {port : Nat} {s : State} (hs : Kept lasting calm false r s) :
    KeptN lasting calm false r (execRetrainDone port s) := by
  unfold execRetrainDone
  extract_lets s1 s2
  have h3 : Kept lasting calm false r s1 := (keeps_setMode (keeps_setPortState hs))
  have h4 : Kept lasting calm false r s2 := (keeps_ite h3 (keeps_setF h3 rfl))
  exact (keepsN_next (keeps_ite hs (keeps_settle (keeps_retryWaits h4))))

theorem keeps_execRetrainTimeout {port : Nat} {s : State} (hs : Kept lasting false false r s) :
    KeptN lasting false false r (execRetrainTimeout port s) := by
  unfold execRetrainTimeout
  exact (keepsN_next (keeps_ite (keeps_portDown hs) hs))

theorem keeps_execNoFlitTimeout {port : Nat} {s : State} (hs : Kept lasting false false r s) :
    KeptN lasting false false r (execNoFlitTimeout port s) := by
  unfold execNoFlitTimeout
  exact (keepsN_next (keeps_ite (keeps_portDown hs) hs))

theorem keeps_execPortLost {port : Nat} {s : State} (hs : Kept lasting false false r s) :
    KeptN lasting false false r (execPortLost port s) := by
  unfold execPortLost
  exact (keepsN_next (keeps_ite (keeps_portDown hs) hs))

theorem keeps_execRetrainHoldExpiry {port : Nat} {s : State} (hs : Kept lasting calm dry r s) :
    KeptN lasting calm dry r (execRetrainHoldExpiry port s) := by
  unfold execRetrainHoldExpiry
  exact (keepsN_next (keeps_ite (keeps_ite (keeps_toTraining hs) (keeps_setPortState hs)) hs))

theorem keeps_copyTables {s : State} {k : Nat} (hs : Kept lasting false dry r s) :
    Kept lasting false dry r (copyTables s k) := by
  unfold copyTables
  extract_lets a1
  exact (keeps_mk0 (keeps_at hs))

theorem keeps_startCopy {s : State} {k : Nat} (hs : Kept lasting calm dry r s) :
    Kept lasting calm dry r (startCopy s k) := by
  unfold startCopy
  refine keeps_ite ?_ ?_
  · exact (keeps_setF hs rfl)
  · exact (keeps_setF hs rfl)

theorem keeps_swapBanks {s : State} {k : Nat} (hs : Kept lasting calm false r s) :
    Kept lasting calm false r (swapBanks s k) := by
  unfold swapBanks
  refine keeps_ite ?_ ?_
  · exact (keeps_setF hs rfl)
  · exact (keeps_settle (keeps_retryWaits (keeps_setF hs rfl)))

theorem keeps_execRouteCopy {src : Src} {fdie : Nat} {s : State} (hs : Kept lasting false dry r s) :
    KeptN lasting false dry r (execRouteCopy src fdie s) := by
  unfold execRouteCopy
  exact (keepsN_next (keeps_ite (keeps_pfWrite hs (fun _ h1 => (keeps_startCopy h1))) hs))

theorem keeps_answerCopy {s : State} (hs : Kept lasting false dry r s) :
    Kept lasting false dry r (answerCopy s) := by
  unfold answerCopy
  refine keeps_ite ?_ ?_
  · exact (keeps_emit (keeps_mk0 (keeps_at hs)))
  · exact hs

theorem keeps_execRouteCopyDone {fdie : Nat} {s : State} (hs : Kept lasting false dry r s) :
    KeptN lasting false dry r (execRouteCopyDone fdie s) := by
  unfold execRouteCopyDone
  exact (keepsN_next (keeps_ite (keeps_answerCopy (keeps_setF (keeps_copyTables hs) rfl)) hs))

theorem keeps_execRouteSwap {src : Src} {fdie : Nat} {s : State} (hs : Kept lasting false false r s) :
    KeptN lasting false false r (execRouteSwap src fdie s) := by
  unfold execRouteSwap
  exact (keepsN_next (keeps_ite (keeps_pfWrite hs (fun _ h1 => (keeps_swapBanks h1))) hs))

theorem keeps_writeDrain {s : State} {k : Nat} {v : Nat} (hs : Kept lasting calm dry r s) :
    Kept lasting calm dry r (writeDrain s k v) := by
  unfold writeDrain
  extract_lets s1
  have h2 : Kept lasting calm dry r s1 := (keeps_setF hs rfl)
  refine keeps_ite ?_ ?_
  · exact h2
  · exact (keeps_setF h2 rfl)

theorem keeps_startDrain {s : State} {k : Nat} (hs : Kept lasting calm dry r s) :
    Kept lasting calm dry r (startDrain s k) := by
  unfold startDrain
  refine keeps_ite ?_ ?_
  · exact hs
  · exact (keeps_setF (keeps_setF (keeps_setF hs rfl) rfl) rfl)

theorem keeps_endDrain {s : State} {k : Nat} (hs : Kept lasting calm false r s) :
    Kept lasting calm false r (endDrain s k) := by
  unfold endDrain
  refine keeps_ite ?_ ?_
  · exact (keeps_settle (keeps_retryWaits (keeps_setF hs rfl)))
  · exact hs

theorem keeps_drainWrite {s : State} {k : Nat} {v : Nat} (hs : Kept lasting calm false r s) :
    Kept lasting calm false r (drainWrite s k v) := by
  unfold drainWrite
  extract_lets s1 s2
  have h3 : Kept lasting calm false r s1 := (keeps_writeDrain hs)
  have h4 : Kept lasting calm false r s2 := (keeps_ite (keeps_startDrain h3) h3)
  refine keeps_ite ?_ ?_
  · exact (keeps_endDrain h4)
  · exact h4

theorem keeps_execDrainGo {src : Src} {fdie : Nat} {value : Nat} {s : State} (hs : Kept lasting false false r s) :
    KeptN lasting false false r (execDrainGo src fdie value s) := by
  unfold execDrainGo
  exact (keepsN_next (keeps_ite (keeps_pfWrite hs (fun _ h1 => (keeps_drainWrite h1))) hs))

theorem keeps_execDrainComplete {fdie : Nat} {s : State} (hs : Kept lasting calm dry r s) :
    KeptN lasting calm dry r (execDrainComplete fdie s) := by
  unfold execDrainComplete
  extract_lets p1
  exact (keepsN_next (keeps_ite (keeps_setF hs rfl) hs))

theorem keeps_execDrainRelease {src : Src} {fdie : Nat} {value : Nat} {s : State} (hs : Kept lasting false false r s) :
    KeptN lasting false false r (execDrainRelease src fdie value s) := by
  unfold execDrainRelease
  exact (keepsN_next (keeps_ite (keeps_pfWrite hs (fun _ h1 => (keeps_drainWrite h1))) hs))

theorem keeps_execDrainHoldExpiry {fdie : Nat} {s : State} (hs : Kept lasting calm false r s) :
    KeptN lasting calm false r (execDrainHoldExpiry fdie s) := by
  unfold execDrainHoldExpiry
  exact (keepsN_next (keeps_ite (keeps_endDrain (keeps_ite hs (keeps_setF hs rfl))) hs))

end Sys2Proof.Laws
end

