-- ==== Sys2Proof/Laws/KeepFaults.lean ====
section
/-! SUPPORT. What the tiers, fences, draining, recovery, resets and tests keep (see Laws/Keep.lean), one lemma an operation. -/

namespace Sys2Proof.Laws

open Sys2Proof Sys2Proof.Machine

variable {lasting calm dry : Bool} {r s t : State} {α β γ : Type}

theorem keeps_rejectTier {s : State} {d : Desc} {r0 : Nat} (hs : Kept lasting calm false r s) :
    Kept lasting calm false r (rejectTier s d r0) := by
  unfold rejectTier
  exact (keeps_rejectOp hs)

theorem keeps_runTier {s : State} {q : Nat} {tag : Nat} {p : Bytes → Bool} {checks : State → Desc → List (Nat × Bool)} {eff :
    State → Desc → State} (hs : Kept lasting calm false r s) (heff : ∀ a0 a1, Kept lasting calm false r a0 → Kept lasting calm
    false r (eff a0 a1)) :
    Kept lasting calm false r (runTier s q tag p checks eff) := by
  unfold runTier
  split
  · exact hs
  · split
    · exact (keeps_settle (keeps_rejectTier hs))
    · exact (keeps_settle (heff _ _ hs))

theorem keeps_putPage {s : State} {fn : Nat} {va : Nat} {p : Page} (hs : Kept lasting calm dry r s) :
    Kept lasting calm dry r (putPage s fn va p) := by
  unfold putPage
  exact (keeps_mk (keeps_at hs))

theorem keeps_zeroRow {s : State} {r0 : Nat} (hs : Kept lasting calm false r s) :
    Kept lasting calm false r (zeroRow s r0) := by
  unfold zeroRow
  exact (keeps_foldl hs (fun _ _ h1 => by
    extract_lets a2
    exact (keeps_markLines (keeps_mk (keeps_mem h1 (wf_zeroBytes _ _ (keeps_wfMem h1)))))
))

theorem keeps_zeroRegion {s : State} {a : Nat} (hs : Kept lasting calm false r s) :
    Kept lasting calm false r (zeroRegion s a) := by
  unfold zeroRegion
  exact (keeps_markLines (keeps_mk (keeps_mem hs (wf_zeroBytes _ _ (keeps_wfMem hs)))))

theorem keeps_mapManaged {s : State} {fn : Nat} {va : Nat} {die : Nat} {tier : Nat} {w : Bool} {np : Bool} (hs : Kept lasting
    calm false r s) :
    KeptP lasting calm false r (mapManaged s fn va die tier w np) := by
  unfold mapManaged
  extract_lets m1 f2 t3 s4
  split
  · extract_lets s5 s6 s7
    have h8 : Kept lasting calm false r s5 := (keeps_setHome hs)
    have h9 : Kept lasting calm false r s6 := (keeps_setF h8 rfl)
    have h10 : Kept lasting calm false r s7 := (keeps_ite (keeps_setF h9 rfl) (keeps_addF h9 rfl))
    exact (keepsP_mk (keeps_putPage (keeps_zeroRegion h10)))
  · exact (keepsP_mk hs)

theorem keeps_mapRegions {d : Desc} {die : Nat} {tier : Nat} {w : Bool} {np : Bool} {a : Nat} {a6 : State} {a7 : Nat} {a8 :
    Nat} {a9 : Nat} (ha6 : Kept lasting calm false r a6) :
    KeptP lasting calm false r (mapRegions d die tier w np a a6 a7 a8 a9) := by
  unfold mapRegions
  split
  · exact (keepsP_mk (by assumption))
  · split
    · exact (keeps_mapRegions (keepsP_out ‹_› (keeps_mapManaged (by assumption))))
    · exact (keepsP_mk (keepsP_out ‹_› (keeps_mapManaged (by assumption))))

theorem keeps_runMap {s : State} {d : Desc} (hs : Kept lasting calm false r s) :
    Kept lasting calm false r (runMap s d) := by
  unfold runMap
  extract_lets i1 v2 n3 f4 a5 s6 s7 s8
  have h9 : Kept lasting calm false r s7 := (keeps_foldl hs (fun _ _ h10 => (keeps_putPage h10)))
  have h11 : Kept lasting calm false r s8 := (keeps_foldl hs (fun _ _ h12 => (keeps_putPage (keeps_zeroRow h12))))
  split
  · exact (keeps_endOp h9)
  · exact (keeps_endOp h11)
  · split
    · exact (keeps_endOp (keepsP_out ‹_› (keeps_mapRegions hs)))

theorem keeps_execTmMap {q : Nat} {tag : Nat} {s : State} (hs : Kept lasting calm false r s) :
    KeptN lasting calm false r (execTmMap q tag s) := by
  unfold execTmMap
  exact (keepsN_next (keeps_runTier hs (fun _ _ h1 => (keeps_runMap h1))))

theorem keeps_startJob {unmap : Bool} {s : State} {d : Desc} (hs : Kept lasting calm false r s) :
    Kept lasting calm false r (startJob unmap s d) := by
  unfold startJob
  extract_lets n1 s2 j3
  have h4 : Kept lasting calm false r s2 := (keeps_updDesc hs)
  exact (keeps_runJob (keeps_mk (keeps_at h4)))

theorem keeps_execTmUnmap {q : Nat} {tag : Nat} {s : State} (hs : Kept lasting calm false r s) :
    KeptN lasting calm false r (execTmUnmap q tag s) := by
  unfold execTmUnmap
  exact (keepsN_next (keeps_runTier hs (fun _ _ h1 => (keeps_startJob h1))))

theorem keeps_execTmMove {q : Nat} {tag : Nat} {s : State} (hs : Kept lasting calm false r s) :
    KeptN lasting calm false r (execTmMove q tag s) := by
  unfold execTmMove
  exact (keepsN_next (keeps_runTier hs (fun _ _ h1 => (keeps_startJob h1))))

theorem keeps_runPin {set : Bool} {s : State} {d : Desc} (hs : Kept lasting calm false r s) :
    Kept lasting calm false r (runPin set s d) := by
  unfold runPin
  extract_lets p1 s2
  have h3 : Kept lasting calm false r s2 := (keeps_foldl hs (fun _ _ h4 => (by
        split
        · extract_lets s5
          exact (keeps_setHome h4)
        · exact h4
)))
  exact (keeps_endOp h3)

theorem keeps_execTmPinSet {q : Nat} {tag : Nat} {s : State} (hs : Kept lasting calm false r s) :
    KeptN lasting calm false r (execTmPinSet q tag s) := by
  unfold execTmPinSet
  exact (keepsN_next (keeps_runTier hs (fun _ _ h1 => (keeps_runPin h1))))

theorem keeps_execTmPinClear {q : Nat} {tag : Nat} {s : State} (hs : Kept lasting calm false r s) :
    KeptN lasting calm false r (execTmPinClear q tag s) := by
  unfold execTmPinClear
  exact (keepsN_next (keeps_runTier hs (fun _ _ h1 => (keeps_runPin h1))))

theorem keeps_runMover {s : State} {d : Desc} {ws : List JobWrite} (hs : Kept lasting calm false r s) :
    Kept lasting calm false r (runMover s d ws) := by
  unfold runMover
  exact (keeps_issueAll hs)

theorem keeps_execTmQuery {q : Nat} {tag : Nat} {s : State} (hs : Kept lasting calm false r s) :
    KeptN lasting calm false r (execTmQuery q tag s) := by
  unfold execTmQuery
  exact (keepsN_next (keeps_runTier hs (fun _ _ h1 => by
    extract_lets p2 w3
    exact (keeps_runMover (keeps_setDetail h1))
)))

theorem keeps_runObj {op : Nat} {eff : State → Desc → State} {q : Nat} {tag : Nat} {s : State} (heff : ∀ a0 a1, Kept lasting
    calm false r a0 → Kept lasting calm false r (eff a0 a1)) (hs : Kept lasting calm false r s) :
    Kept lasting calm false r (runObj op eff q tag s) := by
  unfold runObj
  exact (keeps_runTier hs heff)

theorem keeps_execTmObjPut {q : Nat} {tag : Nat} {s : State} (hs : Kept lasting calm false r s) :
    KeptN lasting calm false r (execTmObjPut q tag s) := by
  unfold execTmObjPut
  exact (keepsN_next (keeps_runObj (fun _ _ h1 => by
    extract_lets i2 k3 l4 o5 s6
    have h7 : Kept lasting calm false r s6 := (keeps_touchRead h1)
    split
    · extract_lets o8
      refine keeps_ite ?_ ?_
      · exact (keeps_endOp h1)
      · refine keeps_ite ?_ ?_
        · exact (keeps_endOp h1)
        · exact (keeps_endOp (keeps_foldl (keeps_mk (keeps_at h7)) (fun _ _ h9 => (keeps_wearFlash h9))))
) hs))

theorem keeps_execTmObjGet {q : Nat} {tag : Nat} {s : State} (hs : Kept lasting calm false r s) :
    KeptN lasting calm false r (execTmObjGet q tag s) := by
  unfold execTmObjGet
  exact (keepsN_next (keeps_runObj (fun _ _ h1 => by
    extract_lets i2 l3 o4
    split
    · exact (keeps_endOp h1)
    · refine keeps_ite ?_ ?_
      · exact (keeps_endOp h1)
      · refine keeps_ite ?_ ?_
        · exact (keeps_endOp h1)
        · exact (keeps_runMover (keeps_setDetail h1))
) hs))

theorem keeps_execTmObjDelete {q : Nat} {tag : Nat} {s : State} (hs : Kept lasting calm false r s) :
    KeptN lasting calm false r (execTmObjDelete q tag s) := by
  unfold execTmObjDelete
  exact (keepsN_next (keeps_runObj (fun _ _ h1 => by
    extract_lets k2
    split
    · exact (keeps_endOp h1)
    · exact (keeps_endOp (keeps_mk (keeps_at h1)))
) hs))

theorem keeps_execTmObjStat {q : Nat} {tag : Nat} {s : State} (hs : Kept lasting calm false r s) :
    KeptN lasting calm false r (execTmObjStat q tag s) := by
  unfold execTmObjStat
  exact (keepsN_next (keeps_runObj (fun _ _ h1 => by
    split
    · exact (keeps_endOp h1)
    · exact (keeps_runMover (keeps_setDetail h1))
) hs))

theorem keeps_goOn {s : State} {m : Move} {n : Nat} (hs : Kept lasting false false r s) :
    Kept lasting false false r (goOn s m n) := by
  unfold goOn
  extract_lets s1
  have h2 : Kept lasting false false r s1 := (keeps_copyChunks (keeps_updMove hs))
  split
  · exact h2
  · refine keeps_ite ?_ ?_
    · exact (keeps_finishMove (keeps_landMove h2))
    · exact h2

theorem keeps_execMoveCopyDone {rec : Nat} {chunks : Nat} {result : CopyResult} {s : State} (hs : Kept lasting false false r s) :
    KeptN lasting false false r (execMoveCopyDone rec chunks result s) := by
  unfold execMoveCopyDone
  extract_lets h1
  exact (keepsN_next (by
    split
    · exact hs
    · refine keeps_ite ?_ ?_
      · exact (keeps_settle (keeps_failMove (keeps_noteCopy hs)))
      · refine keeps_ite ?_ ?_
        · exact (keeps_settle (keeps_failMove (keeps_logTier hs)))
        · refine keeps_ite ?_ ?_
          · exact (keeps_settle (keeps_failMove hs))
          · exact (keeps_settle (keeps_goOn hs))
))

theorem keeps_execMoveSourceRelease {rec : Nat} {s : State} (hs : Kept lasting false dry r s) :
    KeptN lasting false dry r (execMoveSourceRelease rec s) := by
  unfold execMoveSourceRelease
  exact (keepsN_next (keeps_fenceEmptied (keeps_mk0 (keeps_at hs))))

theorem keeps_policyMove {s : State} {m : Nat} {r0 : Nat} {tier : Nat} (hs : Kept lasting calm dry r s) :
    Kept lasting calm dry r (policyMove s m r0 tier) := by
  unfold policyMove
  extract_lets h1
  split
  · exact (keeps_requestMove hs)
  · exact (keeps_addF hs rfl)

theorem keeps_policyOne {s : State} {m : Nat} {j : Nat} (hs : Kept lasting false dry r s) :
    Kept lasting false dry r (policyOne s m j) := by
  unfold policyOne
  extract_lets d1 f2 l3 h4 k5 o6 s7 h8
  have h9 : Kept lasting false dry r s7 := (keeps_mk0 (keeps_at hs))
  refine keeps_ite ?_ ?_
  · exact h9
  · split
    · exact h9
    · extract_lets t10
      exact (keeps_policyMove h9)

theorem keeps_execPolicyDemote {mdie : Nat} {s : State} (hs : Kept lasting false dry r s) :
    KeptN lasting false dry r (execPolicyDemote mdie s) := by
  unfold execPolicyDemote
  exact (keepsN_next (keeps_ite (keeps_foldl hs (fun _ _ h1 => (keeps_policyOne h1))) hs))

theorem keeps_execFarDeviceFail {mdie : Nat} {_dev : Nat} {s : State} (hs : Kept lasting false false r s) :
    KeptN lasting false false r (execFarDeviceFail mdie _dev s) := by
  unfold execFarDeviceFail
  extract_lets s1 h2 l3 s4 o5 s6 i7
  have h8 : Kept lasting false false r s1 := (keeps_logRec (keeps_setF hs rfl))
  have h9 : Kept lasting false false r s4 := (keeps_foldl h8 (fun _ _ h10 => (keeps_loseRegion h10)))
  have h11 : Kept lasting false false r s6 := (keeps_foldl h9 (fun _ _ h12 => (keeps_failMove h12)))
  exact (keepsN_next (keeps_ite hs (keeps_showLevel (keeps_settle (keeps_loseFarPages (keeps_foldl h11 (fun _ _ h13 =>
      (keeps_failMove h13))))))))

theorem keeps_noteFence {s : State} {cls : Nat} {die : Nat} {unit : Nat} {cause : Nat} (hs : Kept lasting false dry r s) :
    Kept lasting false dry r (noteFence s cls die unit cause) := by
  unfold noteFence
  extract_lets s1
  exact (keeps_floodNotice (keeps_logRec hs))

theorem keeps_endMicro {s : State} {st : Nat} {m : Micro} (hs : Kept lasting calm false r s) :
    Kept lasting calm false r (endMicro s st m) := by
  unfold endMicro
  split
  · exact (keeps_maybeComplete (keeps_fenceProgram hs))
  · exact hs

theorem keeps_endStation {s : State} {die : Nat} {st : Nat} (hs : Kept lasting calm false r s) :
    Kept lasting calm false r (endStation s die st) := by
  unfold endStation
  extract_lets k1 m2 s3 s4
  have h5 : Kept lasting calm false r s3 := (keeps_setFifo (keeps_mk (keeps_at hs)))
  have h6 : Kept lasting calm false r s4 := (keeps_foldl h5 (fun _ _ h7 => (keeps_endMicro h7)))
  exact (keeps_foldl h6 (fun _ _ h8 => (keeps_maybeComplete (keeps_fenceProgram h8))))

theorem keeps_endPaged {s : State} {die : Nat} (hs : Kept lasting calm false r s) :
    Kept lasting calm false r (endPaged s die) := by
  unfold endPaged
  exact (keeps_foldl hs (fun _ _ h1 => by
    split
    · exact (keeps_maybeComplete (keeps_fenceProgram h1))
    · exact h1
))

theorem keeps_endPages {s : State} {die : Nat} (hs : Kept lasting calm false r s) :
    Kept lasting calm false r (endPages s die) := by
  unfold endPages
  extract_lets s1 s2 c3 s4 r5 s6 s7 s8
  have h9 : Kept lasting calm false r s1 := (keeps_endPaged hs)
  have h10 : Kept lasting calm false r s2 := (keeps_foldl (keeps_mk (keeps_at h9)) (fun _ _ h11 => (keeps_dropWalk h11)))
  have h12 : Kept lasting calm false r s6 := (keeps_mk (keeps_at h10))
  have h13 : Kept lasting calm false r s7 := (keeps_foldl h12 (fun _ _ h14 => (keeps_releaseTarget (keeps_ite
      (keeps_updRemapEnt h14) h14))))
  have h15 : Kept lasting calm false r s8 := (keeps_setF h13 rfl)
  exact (keeps_showPg (keeps_foldl h15 (fun _ _ h16 => (keeps_endPg h16))))

theorem keeps_endCalls {s : State} {die : Nat} (hs : Kept lasting calm false r s) :
    Kept lasting calm false r (endCalls s die) := by
  unfold endCalls
  extract_lets s1 s2
  have h3 : Kept lasting calm false r s1 := (keeps_foldl hs (fun _ _ h4 => (keeps_abandonCall h4)))
  have h5 : Kept lasting calm false r s2 := (keeps_foldl h3 (fun _ _ h6 => (keeps_freeRd h6)))
  exact (keeps_mk (keeps_at h5))

theorem keeps_showFenced {s : State} {die : Nat} {st : Nat} (hs : Kept lasting calm dry r s) :
    Kept lasting calm dry r (showFenced s die st) := by
  unfold showFenced
  refine keeps_ite ?_ ?_
  · exact (keeps_setF hs rfl)
  · refine keeps_ite ?_ ?_
    · exact (keeps_setF hs rfl)
    · refine keeps_ite ?_ ?_
      · exact (keeps_setF hs rfl)
      · refine keeps_ite ?_ ?_
        · exact (keeps_setF hs rfl)
        · exact hs

theorem bit_or {v k n : Nat} (hn : n < 16) (h : bit v n = true) : bit ((v ||| 2 ^ k) % 2 ^ 16) n = true := by
  have hb : ∀ x m, bit x m = x.testBit m := by
    intro x m
    rw [bit, Nat.testBit_eq_decide_div_mod_eq]
    cases h : decide (x / 2 ^ m % 2 = 1) <;> simp_all
  rw [hb] at h ⊢
  rw [Nat.testBit_mod_two_pow, Nat.testBit_or, h]
  simp [hn]
theorem keeps_setStations {d k : Nat} (hs : Kept lasting false false r s) :
    Kept lasting false false r (setF s F.MGT_FENCE_STATIONS d 0 (getF s F.MGT_FENCE_STATIONS d ||| 2 ^ k)) := by
  unfold setF
  apply keeps_mk
  refine { hs with
    c_flds := tabWf_tput _ _ _ hs.c_flds
    c_fence := fun hb d' hd => ?_
    c_station := fun hb d' n hn hd => ?_
    c_sealed := fun hb hd => ?_ }
  · rw [tgetD_tput_other _ _ _ hs.c_flds (fieldKey_ne _ _ _ _ (by decide) (by decide) (by decide) (by decide) (by decide))]
    exact hs.c_fence hb d' hd
  · by_cases e : fieldKey F.MGT_FENCE_STATIONS d' 0 = fieldKey F.MGT_FENCE_STATIONS d 0
    · rw [e]
      have hr : fieldReset F.MGT_FENCE_STATIONS d 0 = 0 := rfl
      have := tgetD_tput_same (fieldKey F.MGT_FENCE_STATIONS d 0)
        ((getF s F.MGT_FENCE_STATIONS d ||| 2 ^ k) % 2 ^ F.MGT_FENCE_STATIONS.width) 0 hs.c_flds
      rw [hr, this]
      refine bit_or hn ?_
      have h1 := hs.c_station hb d' n hn hd
      rw [e] at h1
      exact h1
    · rw [tgetD_tput_other _ _ _ hs.c_flds e]
      exact hs.c_station hb d' n hn hd
  · rw [tgetD_tput_other _ _ _ hs.c_flds (fieldKey_ne _ _ _ _ (by decide) (by decide) (by decide) (by decide) (by decide))]
    exact hs.c_sealed hb hd
theorem keeps_fenceStation {s : State} {die : Nat} {st : Nat} {cause : Nat} (hs : Kept lasting false false r s) :
    Kept lasting false false r (fenceStation s die st cause) := by
  unfold fenceStation
  split
  · exact hs
  · refine keeps_ite hs ?_
    exact keeps_showLevel (keeps_noteFence (keeps_runRings (keeps_settle (keeps_showFenced (keeps_endStation (keeps_ite
      (keeps_countSamples (keeps_mk0 (keeps_at (keeps_ite (keeps_endPages (keeps_setF (keeps_setStations (keeps_ite
          (keeps_endCalls hs) hs)) rfl))
        (keeps_setF (keeps_setStations (keeps_ite (keeps_endCalls hs) hs)) rfl)))))
      (keeps_ite (keeps_endPages (keeps_setF (keeps_setStations (keeps_ite (keeps_endCalls hs) hs)) rfl))
        (keeps_setF (keeps_setStations (keeps_ite (keeps_endCalls hs) hs)) rfl))))))))

theorem keeps_loseRegions {s : State} {here : Nat → Nat → Bool} (hs : Kept lasting calm false r s) :
    Kept lasting calm false r (loseRegions s here) := by
  unfold loseRegions
  extract_lets l1 s2 o3 s4 i5
  have h6 : Kept lasting calm false r s2 := (keeps_foldl hs (fun _ _ h7 => (keeps_loseRegion h7)))
  have h8 : Kept lasting calm false r s4 := (keeps_foldl h6 (fun _ _ h9 => (keeps_failMove h9)))
  exact (keeps_foldl h8 (fun _ _ h10 => (keeps_failMove h10)))

theorem keeps_losePages {s : State} {here : Nat → Bool} (hs : Kept lasting calm dry r s) :
    Kept lasting calm dry r (losePages s here) := by
  unfold losePages
  extract_lets m1
  exact (keeps_mk (keeps_at hs))

theorem keeps_loseStack {s : State} {n : Nat} (hs : Kept lasting calm false r s) :
    Kept lasting calm false r (loseStack s n) := by
  unfold loseStack
  extract_lets s1
  have h2 : Kept lasting calm false r s1 := (keeps_mk (keeps_at hs))
  exact (keeps_losePages (keeps_loseRegions h2))

theorem keeps_fenceStack {s : State} {n : Nat} {cause : Nat} {code : Nat} (hs : Kept lasting false false r s) :
    Kept lasting false false r (fenceStack s n cause code) := by
  unfold fenceStack
  extract_lets s1
  have h2 : Kept lasting false false r s1 := (keeps_logRec (keeps_loseStack hs))
  refine keeps_ite ?_ ?_
  · exact hs
  · exact (keeps_showLevel (keeps_settle (keeps_ite h2 (keeps_floodNotice h2))))

theorem keeps_failFlowsTo {s : State} {m : Nat} {dd : Nat} (hs : Kept lasting calm dry r s) :
    Kept lasting calm dry r (failFlowsTo s m dd) := by
  unfold failFlowsTo
  extract_lets h1
  exact (keeps_foldl hs (fun _ _ h2 => (keeps_foldl h2 (fun _ _ h3 => (keeps_failMicro h3)))))

theorem keeps_stopQueues {s : State} {die : Nat} (hs : Kept lasting calm dry r s) :
    Kept lasting calm dry r (stopQueues s die) := by
  unfold stopQueues
  extract_lets q1 s2
  have h3 : Kept lasting calm dry r s2 := (keeps_mk (keeps_at hs))
  exact (keeps_foldl h3 (fun _ _ h4 => (keeps_setQEnable (keeps_setQState h4))))

theorem keeps_endDie {s : State} {die : Nat} (hs : Kept lasting false false r s) :
    Kept lasting false false r (endDie s die) := by
  unfold endDie
  extract_lets m1 s2 s3 r4 f5 h6 f7 o8 r9 w10 a11 m12 j13 o14 w15 r16 d17 s18 r19 s20 c21 n22 l23 s24 s25 s26 s27 t28 r29 w30
      m31 m32 h33 l34 m35 s36 s37
  have h38 : Kept lasting false false r s36 := (keeps_mk0 (keeps_at hs))
  have h39 : Kept lasting false false r s37 := (keeps_stopQueues h38)
  exact (keeps_foldl h39 (fun _ _ h40 => (keeps_completeDesc h40)))

theorem keeps_fenceComp {s : State} {die : Nat} (hs : Kept lasting false false r s) :
    Kept lasting false false r (fenceComp s die) := by
  unfold fenceComp
  extract_lets s1 s2
  have h3 : Kept lasting false false r s1 := (keeps_endDie hs)
  have h4 : Kept lasting false false r s2 := (keeps_foldl_mem h3 (fun _ _ m6 h5 => (keeps_ite (keeps_setF h5 (apart_mem rfl
      m6)) h5)))
  exact (keeps_losePages (keeps_loseRegions h4))

theorem keeps_fenceFab {s : State} {die : Nat} (hs : Kept lasting false false r s) :
    Kept lasting false false r (fenceFab s die) := by
  unfold fenceFab
  extract_lets p1 s2 s3 s4
  have h5 : Kept lasting false false r s2 := (keeps_foldl hs (fun _ _ h6 => (keeps_pruneLost (keeps_resendReplay
      (keeps_setPortState h6)))))
  have h7 : Kept lasting false false r s3 := (keeps_mk0 (keeps_at h5))
  have h8 : Kept lasting false false r s4 := (by
      unfold s4
      split
      · refine keeps_ite ?_ ?_
        · exact h7
        · exact (keeps_linkGoesDown h7)
      · exact h7
)
  refine keeps_ite ?_ ?_
  · exact (keeps_setF h8 rfl)
  · exact h8

theorem keeps_fenceMem {s : State} {die : Nat} (hs : Kept lasting calm false r s) :
    Kept lasting calm false r (fenceMem s die) := by
  unfold fenceMem
  extract_lets k1 s2 h3 s4 s5
  have h6 : Kept lasting calm false r s2 := (keeps_setF (keeps_setF hs rfl) rfl)
  have h7 : Kept lasting calm false r s4 := (keeps_loseFarPages (keeps_loseRegions h6))
  exact (keeps_mk (keeps_at h7))

theorem keeps_noteFailed {before : Bool} {s : State} (hs : Kept lasting false dry r s) :
    Kept lasting false dry r (noteFailed before s) := by
  unfold noteFailed
  refine keeps_ite ?_ ?_
  · exact (keeps_logModule hs)
  · exact hs

theorem keeps_setFence {d : Nat} (hs : Kept lasting false false r s) : Kept lasting false false r (setF s F.MGT_FENCE_DIE d 0
    1) := by
  unfold setF
  apply keeps_mk
  refine { hs with
    c_flds := tabWf_tput _ _ _ hs.c_flds
    c_fence := fun hb d' hd => ?_
    c_station := fun hb d' n hn hd => ?_
    c_sealed := fun hb hd => ?_ }
  · by_cases e : fieldKey F.MGT_FENCE_DIE d' 0 = fieldKey F.MGT_FENCE_DIE d 0
    · rw [e]
      exact tgetD_tput_same (fieldKey F.MGT_FENCE_DIE d 0) 1 0 hs.c_flds
    · rw [tgetD_tput_other _ _ _ hs.c_flds e]
      exact hs.c_fence hb d' hd
  · rw [tgetD_tput_other _ _ _ hs.c_flds (fieldKey_ne _ _ _ _ (by decide) (by decide) (by decide) (by decide) (by decide))]
    exact hs.c_station hb d' n hn hd
  · rw [tgetD_tput_other _ _ _ hs.c_flds (fieldKey_ne _ _ _ _ (by decide) (by decide) (by decide) (by decide) (by decide))]
    exact hs.c_sealed hb hd
theorem keeps_fenceOne {s : State} {die : Nat} {cause : Nat} (hs : Kept lasting false false r s) :
    Kept lasting false false r (fenceOne s die cause) := by
  unfold fenceOne
  extract_lets failed s1 l2 s3 s4 s5
  have h6 : Kept lasting false false r s1 := (keeps_setF (keeps_setFence hs) rfl)
  have h7 : Kept lasting false false r s3 := (keeps_mk0 (keeps_at h6))
  have h8 : Kept lasting false false r s4 := (keeps_ite (keeps_fenceComp h7) (keeps_ite (keeps_fenceFab h7) (keeps_fenceMem h7)))
  have h9 : Kept lasting false false r s5 := (keeps_failFlowsTo h8)
  exact (keeps_noteFailed (keeps_showLevel (keeps_noteFence (keeps_runRings (keeps_settle (keeps_retryWaits h9))))))

theorem keeps_fenceCut {a : Nat} {a1 : State} (ha1 : Kept lasting false false r a1) :
    Kept lasting false false r (fenceCut a a1) := by
  unfold fenceCut
  split
  · exact (by assumption)
  · split
    · exact (keeps_fenceCut (keeps_fenceOne (by assumption)))
    · exact (by assumption)

theorem keeps_fenceDie {s : State} {die : Nat} {cause : Nat} (hs : Kept lasting false false r s) :
    Kept lasting false false r (fenceDie s die cause) := by
  unfold fenceDie
  refine keeps_ite ?_ ?_
  · exact hs
  · exact (keeps_fenceCut (keeps_fenceOne hs))

theorem keeps_execProgressTimeout {die : Nat} {st : Nat} {s : State} (hs : Kept lasting false false r s) :
    KeptN lasting false false r (execProgressTimeout die st s) := by
  unfold execProgressTimeout
  exact (keepsN_next (keeps_ite (keeps_fenceStation hs) hs))

theorem keeps_execStationFence {die : Nat} {st : Nat} {cause : Nat} {s : State} (hs : Kept lasting false false r s) :
    KeptN lasting false false r (execStationFence die st cause s) := by
  unfold execStationFence
  exact (keepsN_next (keeps_ite (keeps_fenceStation hs) hs))

theorem keeps_execDieFence {die : Nat} {cause : Nat} {s : State} (hs : Kept lasting false false r s) :
    KeptN lasting false false r (execDieFence die cause s) := by
  unfold execDieFence
  exact (keepsN_next (keeps_ite (keeps_fenceDie hs) hs))

theorem keeps_execInPackageLinkLost {a : Nat} {b0 : Nat} {s : State} (hs : Kept lasting false false r s) :
    KeptN lasting false false r (execInPackageLinkLost a b0 s) := by
  unfold execInPackageLinkLost
  exact (keepsN_next (keeps_ite (keeps_fenceCut (keeps_mk0 (keeps_at hs))) hs))

theorem keeps_drainRecord {s : State} {n : Nat} {r0 : Nat} (hs : Kept lasting calm dry r s) :
    Kept lasting calm dry r (drainRecord s n r0) := by
  unfold drainRecord
  extract_lets h1 s2
  have h3 : Kept lasting calm dry r s2 := (keeps_setHome hs)
  split
  · exact hs
  · exact (keeps_mk (keeps_at h3))

theorem keeps_drainPage {s : State} {n : Nat} {seq : Nat} {i : Nat} (hs : Kept lasting calm dry r s) :
    Kept lasting calm dry r (drainPage s n seq i) := by
  unfold drainPage
  split
  · exact hs
  · extract_lets d1
    exact (keeps_startRemap (keeps_setF hs rfl))

theorem keeps_drainStack {s : State} {n : Nat} (hs : Kept lasting calm dry r s) :
    Kept lasting calm dry r (drainStack s n) := by
  unfold drainStack
  extract_lets s1
  have h2 : Kept lasting calm dry r s1 := (keeps_foldl hs (fun _ _ h3 => (keeps_drainRecord h3)))
  exact (keeps_foldl h2 (fun _ _ h4 => (keeps_drainPage h4)))

theorem keeps_drainOut {s : State} {n : Nat} (hs : Kept lasting false false r s) :
    Kept lasting false false r (drainOut s n) := by
  unfold drainOut
  extract_lets s1 s2
  have h3 : Kept lasting false false r s1 := (keeps_drainStack hs)
  have h4 : Kept lasting false false r s2 := (keeps_ite (keeps_floodNotice (keeps_mk0 (keeps_at h3))) h3)
  exact (keeps_settle (keeps_fenceEmptied h4))

theorem keeps_freezeFn {s : State} {subject : Nat} {fn : Nat} (hs : Kept lasting calm false r s) :
    Kept lasting calm false r (freezeFn s subject fn) := by
  unfold freezeFn
  extract_lets s1 s2
  have h3 : Kept lasting calm false r s1 := (keeps_foldl hs (fun _ _ h4 => (by
        split
        · exact (keeps_setSched h4)
        · exact h4
)))
  have h5 : Kept lasting calm false r s2 := (keeps_foldl (keeps_settle h3) (fun _ _ h6 => (keeps_abortQueue h6)))
  exact (keeps_logErr h5)

theorem keeps_freezeFns {s : State} {subject : Nat} {fns : List Nat} (hs : Kept lasting calm false r s) :
    Kept lasting calm false r (freezeFns s subject fns) := by
  unfold freezeFns
  extract_lets s1 s2
  have h3 : Kept lasting calm false r s1 := (keeps_foldl hs (fun _ _ h4 => (keeps_freezeFn h4)))
  exact (keeps_runRings (keeps_settle (keeps_foldl h3 (fun _ _ h5 => (keeps_endPartner h5)))))

theorem keeps_freezeTag {s : State} {subject : Nat} {tag : Nat} (hs : Kept lasting calm false r s) :
    Kept lasting calm false r (freezeTag s subject tag) := by
  unfold freezeTag
  refine keeps_ite ?_ ?_
  · exact hs
  · exact (keeps_freezeFns hs)

theorem keeps_leaveJobs {s : State} (hs : Kept lasting false false r s) :
    Kept lasting false false r (leaveJobs s) := by
  unfold leaveJobs
  extract_lets m1 s2 s3
  have h4 : Kept lasting false false r s2 := (keeps_freezeFns hs)
  have h5 : Kept lasting false false r s3 := (keeps_setF h4 rfl)
  split
  · extract_lets n6
    exact (keeps_floodOut (keeps_emit (keeps_cacheNotice (keepsQ_out ‹_› (keeps_newNotice h5)))))

theorem keeps_heed {s : State} {n : Notice} (hs : Kept lasting false false r s) :
    Kept lasting false false r (heed s n) := by
  unfold heed
  extract_lets k1 s2
  have h3 : Kept lasting false false r s2 := (keeps_mk0 (keeps_at hs))
  split
  · refine keeps_ite ?_ ?_
    · refine keeps_ite ?_ ?_
      · exact (keeps_leaveJobs hs)
      · exact (keeps_freezeTag hs)
    · exact (keeps_freezeTag hs)
  · exact (keeps_freezeTag hs)
  · refine keeps_ite ?_ ?_
    · exact (keeps_runRings (keeps_settle (keeps_failFlowsTo h3)))
    · exact hs
  · exact hs

theorem keeps_forwardNotice {s : State} {port : Option Nat} {n : Notice} (hs : Kept lasting calm dry r s) :
    Kept lasting calm dry r (forwardNotice s port n) := by
  unfold forwardNotice
  refine keeps_ite ?_ ?_
  · exact hs
  · exact (keeps_addF (keeps_floodOut hs) rfl)

theorem keeps_noteHeartbeat {s : State} {m : Nat} (hs : Kept lasting false dry r s) :
    Kept lasting false dry r (noteHeartbeat s m) := by
  unfold noteHeartbeat
  exact (keeps_foldl hs (fun _ _ h1 => (keeps_ite (keeps_mk0 (keeps_at h1)) h1)))

theorem keeps_recvNotice {s : State} {port : Option Nat} {n : Notice} (hs : Kept lasting false false r s) :
    Kept lasting false false r (recvNotice s port n) := by
  unfold recvNotice
  refine keeps_ite ?_ ?_
  · exact (keeps_noteHeartbeat hs)
  · refine keeps_ite ?_ ?_
    · exact hs
    · refine keeps_ite ?_ ?_
      · exact (keeps_addF hs rfl)
      · exact (keeps_heed (keeps_forwardNotice (keeps_cacheNotice hs)))

theorem keeps_execNotice {port : Option Nat} {n : Notice} {s : State} (hs : Kept lasting false false r s) :
    KeptN lasting false false r (execNotice port n s) := by
  unfold execNotice
  exact (keepsN_next (by
    split
    · refine keeps_ite ?_ ?_
      · exact (keeps_recvNotice hs)
      · exact hs
    · exact (keeps_recvNotice hs)
))

theorem keeps_execHeartbeatSend {s : State} (hs : Kept lasting false dry r s) :
    KeptN lasting false dry r (execHeartbeatSend s) := by
  unfold execHeartbeatSend
  exact (keepsN_next (keeps_ite hs (keeps_foldl hs (fun _ _ h1 => (keeps_ite (by
      split
      · exact (keeps_transmit (keepsQ_out ‹_› (keeps_newNotice h1)))
) h1)))))

theorem keeps_execHeartbeatTimeout {entry : Nat} {s : State} (hs : Kept lasting false false r s) :
    KeptN lasting false false r (execHeartbeatTimeout entry s) := by
  unfold execHeartbeatTimeout
  extract_lets m1 t2 s3
  have h4 : Kept lasting false false r s3 := (keeps_setF hs rfl)
  exact (keepsN_next (keeps_ite (keeps_freezeTag (keeps_floodNotice (keeps_logModule h4))) hs))

theorem keeps_spoilProgram {s : State} {die : Nat} {tok : Nat} {d : Desc} (hs : Kept lasting calm false r s) :
    Kept lasting calm false r (spoilProgram s die tok d) := by
  unfold spoilProgram
  split
  · refine keeps_ite ?_ ?_
    · exact (keeps_maybeComplete (keeps_updDesc hs))
    · exact hs
  · exact hs

theorem keeps_spoilWaits {s : State} {die : Nat} {tok : Nat} (hs : Kept lasting calm false r s) :
    Kept lasting calm false r (spoilWaits s die tok) := by
  unfold spoilWaits
  extract_lets s1 o2 s3 s4
  have h5 : Kept lasting calm false r s3 := (keeps_mk (keeps_at hs))
  have h6 : Kept lasting calm false r s4 := (keeps_foldl h5 (fun _ _ h7 => (keeps_spoilProgram h7)))
  exact (keeps_foldl h6 (fun _ _ h8 => (keeps_completeDesc h8)))

theorem keeps_poolError {s : State} {die : Nat} {line : Nat} {word : Nat} (hs : Kept lasting calm false r s) :
    Kept lasting calm false r (poolError s die line word) := by
  unfold poolError
  extract_lets t1 s2 h3 s4
  have h5 : Kept lasting calm false r s2 := (keeps_spoilWaits (keeps_spoilWaits hs))
  have h6 : Kept lasting calm false r s4 := (keeps_mk (keeps_at hs))
  refine keeps_ite ?_ ?_
  · exact (keeps_runRings (keeps_settle (keeps_loseTok (keeps_loseTok h5))))
  · exact (keeps_markLines h6)

theorem keeps_sramError {s : State} {die : Nat} {a : SramPlace} (hs : Kept lasting false false r s) :
    Kept lasting false false r (sramError s die a) := by
  unfold sramError
  split
  · refine keeps_ite ?_ ?_
    · exact (keeps_poolError hs)
    · exact hs
  · extract_lets s1
    refine keeps_ite ?_ ?_
    · exact (keeps_setEnt hs)
    · exact hs
  · extract_lets s2
    have h3 : Kept lasting false false r s2 := (keeps_loseRegion hs)
    refine keeps_ite ?_ ?_
    · exact hs
    · exact (keeps_settle (keeps_foldl h3 (fun _ _ h4 => (keeps_failMove h4))))
  · split
    · refine keeps_ite ?_ ?_
      · exact (keeps_mk0 (keeps_at hs))
      · exact hs
    · exact hs
  · refine keeps_ite ?_ ?_
    · exact (keeps_settle (keeps_applyForce hs))
    · exact hs
  · exact (keeps_fenceDie hs)

theorem keeps_execPoolScrub {die : Nat} {place : SramPlace} {bad : EccResult} {s : State} (hs : Kept lasting false false r s) :
    KeptN lasting false false r (execPoolScrub die place bad s) := by
  unfold execPoolScrub
  exact (keepsN_next (keeps_ite hs (by
    split
    · exact hs
    · exact (keeps_logRec (keeps_addF hs rfl))
    · exact (keeps_sramError (keeps_logRec (keeps_addF hs rfl)))
)))

theorem keeps_retireChannel {s : State} {stack : Nat} {pc : Nat} (hs : Kept lasting false false r s) :
    Kept lasting false false r (retireChannel s stack pc) := by
  unfold retireChannel
  extract_lets s1 n2 f3 s4
  have h5 : Kept lasting false false r s1 := (keeps_mk0 (keeps_at hs))
  have h6 : Kept lasting false false r s4 := (keeps_setF h5 (by show apart (if _ then _ else _) = true; split <;> rfl))
  refine keeps_ite ?_ ?_
  · exact (keeps_drainOut (keeps_mk0 (keeps_at h6)))
  · exact h6

theorem keeps_countCorrected {s : State} {stack : Nat} {pc : Nat} (hs : Kept lasting false false r s) :
    Kept lasting false false r (countCorrected s stack pc) := by
  unfold countCorrected
  extract_lets k1 c2 c3 s4
  have h5 : Kept lasting false false r s4 := (keeps_mk0 (keeps_at hs))
  refine keeps_ite ?_ ?_
  · exact hs
  · refine keeps_ite ?_ ?_
    · exact (keeps_retireChannel h5)
    · exact h5

theorem keeps_execHbmPatrolScrub {stack : Nat} {line : Nat} {bad : EccResult} {s : State} (hs : Kept lasting false false r s) :
    KeptN lasting false false r (execHbmPatrolScrub stack line bad s) := by
  unfold execHbmPatrolScrub
  extract_lets a1
  exact (keepsN_next (keeps_ite hs (by
    split
    · exact hs
    · exact (keeps_countCorrected (keeps_logRec (keeps_addF hs rfl)))
    · exact (keeps_logRec (keeps_addF (keeps_markLines hs) rfl))
)))

theorem keeps_hardenRows {s : State} (hs : Kept lasting false dry r s) :
    Kept lasting false dry r (hardenRows s) := by
  unfold hardenRows
  extract_lets s1 s2
  have h3 : Kept lasting false dry r s2 := (keeps_mk0 (keeps_at hs))
  exact (keeps_foldl h3 (fun _ _ h4 => by
    extract_lets s5 s6 r7 l8
    have h9 : Kept lasting false dry r s6 := (keeps_addF h4 (by split <;> rfl))
    exact (keeps_addW (keeps_mk0 (keeps_rlog h9 (length_last _ _))) rfl)
))

theorem keeps_sampleStraps {s : State} {x : Straps} (hs : Kept lasting calm dry r s) :
    Kept lasting calm dry r (sampleStraps s x) := by
  unfold sampleStraps
  extract_lets s1 s2 d3 g4 o5 s6 s7
  have h8 : Kept lasting calm dry r s1 := (keeps_setF (keeps_setF (keeps_setF hs rfl) rfl) rfl)
  have h9 : Kept lasting calm dry r s2 := (keeps_setF h8 rfl)
  have h10 : Kept lasting calm dry r s6 := (keeps_foldl h9 (fun _ _ h11 => by
      extract_lets s12
      have h13 : Kept lasting calm dry r s12 := (keeps_setF (keeps_setF h11 rfl) rfl)
      refine keeps_ite ?_ ?_
      · exact (keeps_setF h13 rfl)
      · exact h13
))
  exact (keeps_setF (keeps_setF h10 rfl) rfl)

theorem keeps_buildDefaults {s : State} (hs : Kept lasting calm dry r s) :
    Kept lasting calm dry r (buildDefaults s) := by
  unfold buildDefaults
  refine keeps_ite ?_ ?_
  · exact (keeps_foldl hs (fun _ _ h1 => by
      extract_lets s2
      have h3 : Kept lasting calm dry r s2 := (keeps_setF (keeps_setF h1 rfl) rfl)
      exact (keeps_setF (keeps_setF h3 rfl) rfl)
))
  · exact hs

theorem tget?_filter {m : Tab α} (p : Nat × α → Bool) (k : Nat) (hp : ∀ v, p (k, v) = true) :
    ∀ {c : Nat}, risingFrom c m = true → tget? (m.filter p) k = tget? m k := by
  induction m with
  | nil => intro _ _; rfl
  | cons x l ih =>
    obtain ⟨a, v⟩ := x
    intro c hc
    simp only [risingFrom, Bool.and_eq_true, decide_eq_true_eq] at hc
    obtain ⟨_, hl⟩ := hc
    by_cases ha : a = k
    · subst ha
      simp [hp, tget?]
    · by_cases hq : p (a, v) = true
      · simp only [List.filter_cons, hq, if_true, tget?, if_neg ha]
        split
        · rfl
        · exact ih hl
      · rw [List.filter_cons_of_neg hq, ih hl]
        simp only [tget?, if_neg ha]
        split
        · exact tget?_below hl (by omega)
        · rfl
theorem keeps_coldState {s : State} (hs : Kept false false false r s) : Kept false false false r (coldState s) := by
  unfold coldState
  refine keeps_hardenRows (keeps_mkFrom s ?_)
  exact { hs with
    c_dry := fun e => nomatch e
    c_quiet := fun e => nomatch e
    c_flds := tabWf_filter _ hs.c_flds
    c_tokens := rfl
    c_mem := wf_filter _ hs.c_mem
    c_wardMem := wf_nil
    c_elog := Nat.zero_le _
    c_cache := Nat.zero_le _
    c_fence := fun e => nomatch e
    c_station := fun e => nomatch e
    c_sealed := fun e => nomatch e }

theorem keeps_coldReset {s : State} {cause : Nat} {x : Straps} (hs : Kept false false false r s) :
    Kept false false false r (coldReset s cause x) := by
  unfold coldReset
  extract_lets s1 o2 t3 t4
  have h5 : ∀ x6 x8, apart x6 = true → Kept false false false r x8 → Kept false false false r (o2 x6 x8) :=
      fun x6 x8 h7 h9 => (keeps_setF h9 h7)
  have h10 : Kept false false false r t3 := (keeps_buildDefaults (keeps_sampleStraps (keeps_coldState hs)))
  have h11 : Kept false false false r t4 := (h5 _ _ rfl (h5 _ _ rfl (keeps_setF h10 rfl)))
  exact (keeps_showCables hs (keeps_setF h11 rfl))

theorem keeps_showKept {s : State} (hs : Kept lasting calm dry r s) :
    Kept lasting calm dry r (showKept s) := by
  unfold showKept
  extract_lets s1 s2
  have h3 : Kept lasting calm dry r s1 := (keeps_foldl hs (fun _ _ h4 => by
      extract_lets s5
      have h6 : Kept lasting calm dry r s5 := (keeps_foldl h4 (fun _ _ h7 => (keeps_ite (keeps_showFenced h7) h7)))
      exact (keeps_layPool h6)
))
  have h8 : Kept lasting calm dry r s2 := (keeps_foldl h3 (fun _ _ h9 => (keeps_ite (keeps_setPortState h9) h9)))
  refine keeps_ite ?_ ?_
  · exact (keeps_setF h8 rfl)
  · exact h8

theorem mem_fieldsAt {f : Fld} {d : Nat} (hf : f ∈ F.all) (hi : instanceAt f d f.off = some 0) : (f, 0) ∈ fieldsAt d f.off := by
  unfold fieldsAt
  exact List.mem_filterMap.mpr ⟨f, hf, by simp [hi]⟩
theorem keepFields_same {flds : Tab Nat} {p : Fld → Bool} {f : Fld} {d dflt : Nat} (h : tabWf flds = true) (hf : f ∈ F.all)
    (hi : instanceAt f (homeDie f d) f.off = some 0) (ho : f.off < 2 ^ 25) (hl : f.lo < 32) (hp : p f = true) :
    tgetD (keepFields flds p) (fieldKey f d 0) dflt = tgetD flds (fieldKey f d 0) dflt := by
  unfold tgetD keepFields
  rw [tget?_filter _ _ _ h]
  intro v
  have h1 : fieldKey f d 0 / 2 ^ 50 = homeDie f d := by unfold fieldKey; omega
  have h2 : fieldKey f d 0 / 32 % 2 ^ 25 = f.off := by unfold fieldKey; omega
  have h3 : fieldKey f d 0 % 32 = f.lo := by unfold fieldKey; omega
  simp only [h1, h2, h3]
  exact List.any_eq_true.mpr ⟨(f, 0), mem_fieldsAt hf hi, by simp [hp]⟩
theorem fence_tbl : F.MGT_FENCE_DIE ∈ F.tbl17_0 := by
  unfold F.tbl17_0
  simp only [List.mem_cons, true_or, or_true]
theorem fence_mem : F.MGT_FENCE_DIE ∈ F.all := by
  unfold F.all
  repeat (first | exact fence_tbl | exact List.mem_append_right _ fence_tbl | apply List.mem_append_left)
theorem station_tbl : F.MGT_FENCE_STATIONS ∈ F.tbl17_0 := by
  unfold F.tbl17_0
  simp only [List.mem_cons, true_or, or_true]
theorem station_mem : F.MGT_FENCE_STATIONS ∈ F.all := by
  unfold F.all
  repeat (first | exact station_tbl | exact List.mem_append_right _ station_tbl | apply List.mem_append_left)
theorem seal_tbl : F.HST_SEAL_SEAL ∈ F.tbl03_0 := by
  unfold F.tbl03_0
  simp only [List.mem_cons, true_or, or_true]
theorem seal_mem : F.HST_SEAL_SEAL ∈ F.all := by
  unfold F.all
  repeat (first | exact seal_tbl | exact List.mem_append_right _ seal_tbl | apply List.mem_append_left)
theorem keeps_warmState {s : State} (hs : Kept lasting false false r s) : Kept lasting false false r (warmState s) := by
  unfold warmState
  refine keeps_showLevel (keeps_fenceEmptied (keeps_showKept (keeps_buildDefaults (keeps_mkFrom s ?_))))
  exact { hs with
    c_dry := fun e => nomatch e
    c_quiet := fun e => nomatch e
    c_flds := tabWf_filter _ hs.c_flds
    c_tokens := rfl
    c_mem := wf_filter _ hs.c_mem
    c_wardMem := by
      split
      · exact hs.c_wardMem
      · exact wf_nil
    c_cache := Nat.zero_le _
    c_fence := fun hb d hd => by
      rw [keepFields_same hs.c_flds fence_mem rfl (by decide) (by decide) rfl]
      exact hs.c_fence hb d hd
    c_station := fun hb d n hn hd => by
      rw [keepFields_same hs.c_flds station_mem rfl (by decide) (by decide) rfl]
      exact hs.c_station hb d n hn hd
    c_sealed := fun hb hd => by
      rw [keepFields_same hs.c_flds seal_mem rfl (by decide) (by decide) rfl]
      exact hs.c_sealed hb hd }

theorem keeps_warmReset {s : State} {cause : Nat} (hs : Kept lasting false false r s) :
    Kept lasting false false r (warmReset s cause) := by
  unfold warmReset
  extract_lets t1
  have h2 : Kept lasting false false r t1 := (keeps_setF (keeps_warmState hs) rfl)
  exact (keeps_showCables hs (keeps_mk0 (keeps_at h2)))

theorem keeps_repRec {s : State} {kind : Nat} {die : Nat} {unit : Nat} {result : Nat} {loc : Nat} {before : Nat} {after : Nat}
    (hs : Kept lasting false dry r s) :
    Kept lasting false dry r (repRec s kind die unit result loc before after) := by
  unfold repRec
  extract_lets l1
  exact (keeps_addW (keeps_mk0 (keeps_rlog hs (length_last _ _))) rfl)

theorem keeps_logRepair {s : State} {kind : Nat} {die : Nat} {unit : Nat} {result : Nat} {loc : Nat} {before : Nat} {after :
    Nat} (hs : Kept lasting false dry r s) :
    Kept lasting false dry r (logRepair s kind die unit result loc before after) := by
  unfold logRepair
  exact (keeps_logRec (keeps_repRec hs))

theorem keeps_leavePool {s : State} {n : Nat} (hs : Kept lasting calm dry r s) :
    Kept lasting calm dry r (leavePool s n) := by
  unfold leavePool
  extract_lets k1 c2 s3
  have h4 : ∀ x5 x7, KeptP lasting calm dry r x5 → KeptP lasting calm dry r (c2 x5 x7) := fun x5 x7 h6 => by
    unfold c2
    extract_lets h8
    exact (keepsP_mk (keeps_setF (keepsP_fst h6) rfl))

  exact (keepsP_fst (keepsP_foldl (keepsP_mk (keeps_setF hs rfl)) (fun _ _ h9 => (h4 _ _ h9))))

theorem keeps_endMargin {s : State} {die : Nat} (hs : Kept lasting false false r s) :
    Kept lasting false false r (endMargin s die) := by
  unfold endMargin
  extract_lets s1
  have h2 : Kept lasting false false r s1 := (keeps_setF (keeps_mk0 (keeps_at hs)) rfl)
  split
  · exact hs
  · extract_lets n3 s4
    have h5 : Kept lasting false false r s4 := (keeps_mk0 (keeps_at h2))
    refine keeps_ite ?_ ?_
    · refine keeps_ite ?_ ?_
      · exact h2
      · exact (keeps_settle (keeps_foldl h5 (fun _ _ h6 => (keeps_releaseRegion h6))))
    · exact (keeps_mk0 (keeps_at h2))

theorem keeps_voidMargin {s : State} {n : Nat} (hs : Kept lasting false false r s) :
    Kept lasting false false r (voidMargin s n) := by
  unfold voidMargin
  split
  · refine keeps_ite ?_ ?_
    · exact (keeps_endMargin hs)
    · exact hs
  · exact hs

end Sys2Proof.Laws
end

