-- ==== Sys2Proof/Laws/KeepPower.lean ====
section
/-! SUPPORT. What power, thermals and clocks keep (see Laws/Keep.lean), one lemma an operation. -/

namespace Sys2Proof.Laws

open Sys2Proof Sys2Proof.Machine

variable {lasting calm dry : Bool} {r s t : State} {α β γ : Type}

theorem keeps_updGov {s : State} {die : Nat} {f : Gov → Gov} (hs : Kept lasting calm dry r s) :
    Kept lasting calm dry r (updGov s die f) := by
  unfold updGov
  exact (keeps_mk (keeps_at hs))

theorem keeps_setOpp {s : State} {die : Nat} {i : Nat} (hs : Kept lasting calm dry r s) :
    Kept lasting calm dry r (setOpp s die i) := by
  unfold setOpp
  exact (keeps_setF (keeps_updGov hs) rfl)

theorem keeps_startStep {s : State} {die : Nat} (hs : Kept lasting calm dry r s) :
    Kept lasting calm dry r (startStep s die) := by
  unfold startStep
  refine keeps_ite ?_ ?_
  · exact hs
  · exact (keeps_updGov hs)

theorem keeps_startSteps {s : State} (hs : Kept lasting calm dry r s) :
    Kept lasting calm dry r (startSteps s) := by
  unfold startSteps
  exact (keeps_foldl hs (fun _ _ h1 => (keeps_startStep h1)))

theorem keeps_execOppStepDone {die : Nat} {s : State} (hs : Kept lasting calm dry r s) :
    KeptN lasting calm dry r (execOppStepDone die s) := by
  unfold execOppStepDone
  extract_lets a1 d2 s3 s4
  have h5 : Kept lasting calm dry r s4 := (keeps_updGov hs)
  exact (keepsN_next (keeps_ite hs (keeps_startStep (keeps_ite (keeps_setOpp h5) (keeps_ite (keeps_setOpp h5) h5)))))

theorem keeps_leaveManual {s : State} {die : Nat} (hs : Kept lasting calm dry r s) :
    Kept lasting calm dry r (leaveManual s die) := by
  unfold leaveManual
  extract_lets s1
  have h2 : Kept lasting calm dry r s1 := (keeps_setF (keeps_setF hs rfl) rfl)
  exact (keeps_startStep (keeps_updGov h2))

theorem keeps_override {s : State} {die : Nat} (hs : Kept lasting calm dry r s) :
    Kept lasting calm dry r (override s die) := by
  unfold override
  refine keeps_ite ?_ ?_
  · exact (keeps_leaveManual (keeps_setF hs rfl))
  · exact hs

theorem keeps_refuseVf {s : State} {src : Src} {die : Nat} {off : Nat} (hs : Kept lasting calm dry r s) :
    Kept lasting calm dry r (refuseVf s src die off) := by
  unfold refuseVf
  exact (keeps_logErr (keeps_setF hs rfl))

theorem keeps_execGvManualSet {src : Src} {die : Nat} {value : Nat} {s : State} (hs : Kept lasting false dry r s) :
    KeptN lasting false dry r (execGvManualSet src die value s) := by
  unfold execGvManualSet
  exact (keepsN_next (keeps_ite hs (keeps_pfWrite hs (fun _ h1 => by
    extract_lets w2 s3 s4
    have h5 : Kept lasting false dry r s3 := (keeps_setF (keeps_setF h1 rfl) rfl)
    have h6 : Kept lasting false dry r s4 := (keeps_updGov h5)
    refine keeps_ite ?_ ?_
    · refine keeps_ite ?_ ?_
      · exact h5
      · refine keeps_ite ?_ ?_
        · exact (keeps_refuseVf h5)
        · exact (keeps_setF (keeps_setF (keeps_setF h6 rfl) rfl) rfl)
    · refine keeps_ite ?_ ?_
      · exact (keeps_leaveManual h5)
      · exact h5
))))

theorem keeps_execGvFreqWrite {src : Src} {die : Nat} {value : Nat} {s : State} (hs : Kept lasting false dry r s) :
    KeptN lasting false dry r (execGvFreqWrite src die value s) := by
  unfold execGvFreqWrite
  extract_lets m1
  exact (keepsN_next (keeps_ite hs (keeps_pfWrite hs (fun _ h2 => (keeps_ite h2 (by
      split
      · extract_lets s3
        have h4 : Kept lasting false dry r s3 := (keeps_setF (keeps_updGov h2) rfl)
        refine keeps_ite ?_ ?_
        · exact (keeps_setF h4 rfl)
        · exact (keeps_refuseVf h2)
      · exact (keeps_refuseVf h2)
))))))

theorem keeps_execGvVoltWrite {src : Src} {die : Nat} {value : Nat} {s : State} (hs : Kept lasting false dry r s) :
    KeptN lasting false dry r (execGvVoltWrite src die value s) := by
  unfold execGvVoltWrite
  extract_lets m1
  exact (keepsN_next (keeps_ite hs (keeps_pfWrite hs (fun _ h2 => (keeps_ite h2 (keeps_ite (keeps_refuseVf h2) (keeps_setF
      (keeps_updGov h2) rfl)))))))

theorem keeps_showBudget {s : State} (hs : Kept lasting calm dry r s) :
    Kept lasting calm dry r (showBudget s) := by
  unfold showBudget
  exact (keeps_setF hs rfl)

theorem keeps_execBudgetDivision {draws : List Nat} {s : State} (hs : Kept lasting calm dry r s) :
    KeptN lasting calm dry r (execBudgetDivision draws s) := by
  unfold execBudgetDivision
  extract_lets s1 r2 s3
  have h4 : Kept lasting calm dry r s1 := (keeps_showBudget hs)
  have h5 : Kept lasting calm dry r s3 := (keeps_foldl h4 (fun _ _ h6 => (keeps_setF h6 rfl)))
  exact (keepsN_next (keeps_startSteps (keeps_setF h5 rfl)))

theorem keeps_cutMore {s : State} {die : Nat} (hs : Kept lasting calm dry r s) :
    Kept lasting calm dry r (cutMore s die) := by
  unfold cutMore
  exact (keeps_updGov hs)

theorem keeps_cutLess {s : State} {die : Nat} (hs : Kept lasting calm dry r s) :
    Kept lasting calm dry r (cutLess s die) := by
  unfold cutLess
  exact (keeps_updGov hs)

theorem keeps_execDieGovernorSample {die : Nat} {draw : Nat} {s : State} (hs : Kept lasting calm dry r s) :
    KeptN lasting calm dry r (execDieGovernorSample die draw s) := by
  unfold execDieGovernorSample
  extract_lets s1 s2 s3
  have h4 : Kept lasting calm dry r s1 := (keeps_setF hs rfl)
  have h5 : Kept lasting calm dry r s3 := (keeps_ite (keeps_cutMore (keeps_override h4)) (keeps_ite (keeps_cutLess h4)
      (keeps_updGov h4)))
  exact (keepsN_next (keeps_ite hs (keeps_startStep h5)))

theorem keeps_execBudgetWrite {src : Src} {backup : Bool} {value : Nat} {s : State} (hs : Kept lasting false dry r s) :
    KeptN lasting false dry r (execBudgetWrite src backup value s) := by
  unfold execBudgetWrite
  extract_lets o1 w2
  exact (keepsN_next (keeps_pfWrite hs (fun _ h3 => (keeps_ite (keeps_logErr h3) (keeps_plainWrite h3)))))

theorem keeps_execPwrUvWrite {src : Src} {value : Nat} {s : State} (hs : Kept lasting false dry r s) :
    KeptN lasting false dry r (execPwrUvWrite src value s) := by
  unfold execPwrUvWrite
  extract_lets w1
  exact (keepsN_next (keeps_pfWrite hs (fun _ h2 => (keeps_ite (keeps_logErr h2) (keeps_plainWrite h2)))))

theorem keeps_updSupply {s : State} {f : Supply → Supply} (hs : Kept lasting false dry r s) :
    Kept lasting false dry r (updSupply s f) := by
  unfold updSupply
  exact (keeps_mk0 (keeps_at hs))

theorem keeps_supplyNotice {s : State} {arg : Nat} (hs : Kept lasting false dry r s) :
    Kept lasting false dry r (supplyNotice s arg) := by
  unfold supplyNotice
  exact (keeps_localNotice hs)

theorem keeps_selectInput {s : State} {backup : Bool} (hs : Kept lasting calm dry r s) :
    Kept lasting calm dry r (selectInput s backup) := by
  unfold selectInput
  exact (keeps_startSteps (keeps_showBudget (keeps_setF hs rfl)))

theorem keeps_returnMain {s : State} (hs : Kept lasting false dry r s) :
    Kept lasting false dry r (returnMain s) := by
  unfold returnMain
  extract_lets s1 s2
  have h3 : Kept lasting false dry r s1 := (keeps_foldl hs (fun _ _ h4 => (keeps_updGov h4)))
  have h5 : Kept lasting false dry r s2 := (keeps_selectInput (keeps_addF h3 rfl))
  exact (keeps_supplyNotice (keeps_updSupply h5))

theorem keeps_execMainInputLoss {volts : Nat} {s : State} (hs : Kept lasting false dry r s) :
    KeptN lasting false dry r (execMainInputLoss volts s) := by
  unfold execMainInputLoss
  extract_lets s1 s2 s3
  have h4 : Kept lasting false dry r s1 := (keeps_updSupply (keeps_setF hs rfl))
  have h5 : Kept lasting false dry r s3 := (keeps_updSupply h4)
  exact (keepsN_next (keeps_ite hs (keeps_ite h4 (keeps_ite (keeps_supplyNotice (keeps_selectInput (keeps_addF h5 rfl)))
      (keeps_updSupply h4)))))

theorem keeps_execMainInputValid {volts : Nat} {s : State} (hs : Kept lasting false dry r s) :
    KeptN lasting false dry r (execMainInputValid volts s) := by
  unfold execMainInputValid
  extract_lets s1
  have h2 : Kept lasting false dry r s1 := (keeps_setF hs rfl)
  exact (keepsN_next (keeps_ite (keeps_ite (keeps_updSupply h2) h2) hs))

theorem keeps_execMainReturn {s : State} (hs : Kept lasting false dry r s) :
    KeptN lasting false dry r (execMainReturn s) := by
  unfold execMainReturn
  extract_lets f1 s2
  have h3 : Kept lasting false dry r s2 := (keeps_updSupply hs)
  exact (keepsN_next (keeps_ite hs (keeps_ite (keeps_ite (keeps_supplyNotice (keeps_addF h3 rfl)) h3) (keeps_returnMain hs))))

theorem keeps_execPwrReturnPermit {src : Src} {value : Nat} {s : State} (hs : Kept lasting false dry r s) :
    KeptN lasting false dry r (execPwrReturnPermit src value s) := by
  unfold execPwrReturnPermit
  exact (keepsN_next (keeps_pfWrite hs (fun _ h1 => (keeps_ite h1 (keeps_ite (keeps_returnMain h1) (keeps_updSupply h1))))))

theorem keeps_execBothInputsLoss {s : State} (hs : Kept lasting false dry r s) :
    KeptN lasting false dry r (execBothInputsLoss s) := by
  unfold execBothInputsLoss
  extract_lets s1
  have h2 : Kept lasting false dry r s1 := (keeps_setF (keeps_setF hs rfl) rfl)
  exact (keepsN_next (keeps_ite hs (keeps_updSupply h2)))

theorem keeps_stopOnHoldup {s : State} (hs : Kept lasting false dry r s) :
    Kept lasting false dry r (stopOnHoldup s) := by
  unfold stopOnHoldup
  extract_lets t1 s2
  have h3 : Kept lasting false dry r s2 := (keeps_foldl (keeps_logModule hs) (fun _ _ h4 => (keeps_floodNotice h4)))
  exact (keeps_updSupply h3)

theorem keeps_execHoldupStationsStop {s : State} (hs : Kept lasting false dry r s) :
    KeptN lasting false dry r (execHoldupStationsStop s) := by
  unfold execHoldupStationsStop
  exact (keepsN_next (keeps_ite (keeps_stopOnHoldup hs) hs))

theorem keeps_execPresentOpen {s : State} (hs : Kept lasting false dry r s) :
    KeptN lasting false dry r (execPresentOpen s) := by
  unfold execPresentOpen
  exact (keepsN_next (keeps_ite (keeps_stopOnHoldup (keeps_setF (keeps_setF hs rfl) rfl)) (keeps_ite (keeps_stopOnHoldup hs) hs)))

theorem keeps_execInputRestored {main : Bool} {s : State} (hs : Kept lasting false false r s) :
    KeptN lasting false false r (execInputRestored main s) := by
  unfold execInputRestored
  extract_lets t1 n2 s3 s4 s5 s6
  have h7 : Kept lasting false false r s3 := (keeps_setF hs (by split <;> rfl))
  have h8 : Kept lasting false false r s4 := (keeps_addF (keeps_updSupply h7) rfl)
  have h9 : Kept lasting false false r s5 := (keeps_selectInput h8)
  have h10 : Kept lasting false false r s6 := (keeps_ite (keeps_freezeFns h9) h9)
  exact (keepsN_next (keeps_ite hs (keeps_ite (keeps_settle (keeps_supplyNotice h10)) h9)))

theorem keeps_blackState {s : State} {powered : Bool} (hs : Kept false false false r s) : Kept false false false r (blackState
    s powered) := by
  unfold blackState
  have h1 : Kept false false false r (coldState s) := keeps_coldState hs
  have h3 : tabWf (if powered = true then keepFields s.flds (fun f => coldKept.contains f || aonFields.contains f)
      else (coldState s).flds) = true := by
    split
    · exact tabWf_filter _ hs.c_flds
    · exact h1.c_flds
  have h2 : Kept false false false r { coldState s with
      flds := if powered = true then keepFields s.flds (fun f => coldKept.contains f || aonFields.contains f) else (coldState
          s).flds
      powers := (List.range 16).map (fun d => (d, 5))
      supply := { Supply.reset with phase := 3 }
      aon := if powered = true then s.aon else 0 } :=
    keeps_mkFrom (coldState s) { h1 with
      c_quiet := fun e => nomatch e
      c_flds := h3
      c_fence := fun e => nomatch e
      c_station := fun e => nomatch e
      c_sealed := fun e => nomatch e }
  exact keeps_showCables hs (keeps_ite h2 (keeps_setF (keeps_setF h2 rfl) rfl))


theorem keeps_execHoldupSpent {s : State} (hs : Kept false false false r s) :
    KeptN false false false r (execHoldupSpent s) := by
  unfold execHoldupSpent
  exact (keepsN_next (keeps_ite (keeps_blackState hs) hs))

theorem keeps_setCool {s : State} {v : Nat} (hs : Kept lasting false dry r s) :
    Kept lasting false dry r (setCool s v) := by
  unfold setCool
  exact (keeps_logRec (keeps_setF hs rfl))

theorem keeps_execCoolantReading {flow : Nat} {inlet : Nat} {s : State} (hs : Kept lasting false dry r s) :
    KeptN lasting false dry r (execCoolantReading flow inlet s) := by
  unfold execCoolantReading
  extract_lets s1
  have h2 : Kept lasting false dry r s1 := (keeps_updSupply hs)
  exact (keepsN_next (keeps_ite (keeps_setCool h2) h2))

theorem keeps_execCoolOkRestore {s : State} (hs : Kept lasting false dry r s) :
    KeptN lasting false dry r (execCoolOkRestore s) := by
  unfold execCoolOkRestore
  exact (keepsN_next (keeps_ite (keeps_setCool hs) hs))

theorem keeps_showAlert {was : Bool} {s : State} (hs : Kept lasting calm dry r s) :
    Kept lasting calm dry r (showAlert was s) := by
  unfold showAlert
  refine keeps_ite ?_ ?_
  · exact hs
  · exact (keeps_emit hs)

theorem keeps_execDieTempReading {die : Nat} {temp : Nat} {s : State} (hs : Kept lasting false false r s) :
    KeptN lasting false false r (execDieTempReading die temp s) := by
  unfold execDieTempReading
  extract_lets w1 s2 l3 s4
  have h5 : Kept lasting false false r s2 := (keeps_setF hs rfl)
  have h6 : Kept lasting false false r s4 := (keeps_setF h5 rfl)
  exact (keepsN_next (keeps_ite hs (keeps_ite (keeps_showAlert (keeps_fenceDie (keeps_override h5))) (keeps_showAlert
      (keeps_ite (keeps_override h6) h6)))))

theorem keeps_execThrottleClockStep {die : Nat} {s : State} (hs : Kept lasting calm dry r s) :
    KeptN lasting calm dry r (execThrottleClockStep die s) := by
  unfold execThrottleClockStep
  extract_lets g1 s2
  have h3 : Kept lasting calm dry r s2 := (keeps_ite (keeps_ite (keeps_addF (keeps_updGov hs) rfl) hs) (keeps_updGov hs))
  exact (keepsN_next (keeps_ite hs (keeps_startStep h3)))

theorem keeps_followCritical {s : State} {n : Nat} {lvl : Nat} (hs : Kept lasting false false r s) :
    Kept lasting false false r (followCritical s n lvl) := by
  unfold followCritical
  extract_lets d1
  refine keeps_ite ?_ ?_
  · exact (keeps_drainOut (keeps_ite (keeps_mk0 (keeps_at hs)) hs))
  · refine keeps_ite ?_ ?_
    · exact (keeps_mk0 (keeps_at hs))
    · exact hs

theorem keeps_execStackTempReading {stack : Nat} {temp : Nat} {s : State} (hs : Kept lasting false false r s) :
    KeptN lasting false false r (execStackTempReading stack temp s) := by
  unfold execStackTempReading
  extract_lets d1 e2 w3 s4 o5 l6 s7 s8
  have h9 : Kept lasting false false r s4 := (keeps_setF hs (by split <;> rfl))
  have h10 : Kept lasting false false r s7 := (keeps_setF h9 (by split <;> rfl))
  have h11 : Kept lasting false false r s8 := (keeps_ite (keeps_voidMargin (keeps_addF h10 rfl)) h10)
  exact (keepsN_next (keeps_ite hs (keeps_ite h9 (keeps_showAlert (keeps_ite (keeps_fenceStack (keeps_voidMargin h11))
      (keeps_followCritical h11))))))

theorem keeps_execHotStackStep {stack : Nat} {s : State} (hs : Kept lasting calm dry r s) :
    KeptN lasting calm dry r (execHotStackStep stack s) := by
  unfold execHotStackStep
  extract_lets d1 b2 s3
  exact (keepsN_next (keeps_ite hs (keeps_ite (keeps_ite (keeps_mk (keeps_at hs)) (keeps_ite (keeps_setF hs
      (by unfold bandwidth; (repeat' split) <;> rfl)) hs)) (keeps_ite (keeps_setF hs
      (by unfold bandwidth; (repeat' split) <;> rfl)) (keeps_mk (keeps_at hs))))))

theorem keeps_execSequencerPowerWait {die : Nat} {seqr : Nat} {mode : Nat} {s : State} (hs : Kept lasting calm dry r s) :
    KeptN lasting calm dry r (execSequencerPowerWait die seqr mode s) := by
  unfold execSequencerPowerWait
  exact (keepsN_next (keeps_ite (keeps_mk (keeps_at hs)) hs))

theorem keeps_execGreyIdleTimer {die : Nat} {s : State} (hs : Kept lasting calm dry r s) :
    KeptN lasting calm dry r (execGreyIdleTimer die s) := by
  unfold execGreyIdleTimer
  exact (keepsN_next (keeps_ite (keeps_foldl hs (fun _ _ h1 => (keeps_ite (keeps_mk (keeps_at h1)) h1))) hs))

theorem keeps_execGreyEntry {die : Nat} {early : Bool} {s : State} (hs : Kept lasting calm dry r s) :
    KeptN lasting calm dry r (execGreyEntry die early s) := by
  unfold execGreyEntry
  exact (keepsN_next (keeps_ite (keeps_ite (keeps_addF (keeps_leaveWaits hs) rfl) (keeps_setPower hs)) hs))

theorem keeps_execCharcoalEntry {die : Nat} {s : State} (hs : Kept lasting false dry r s) :
    KeptN lasting false dry r (execCharcoalEntry die s) := by
  unfold execCharcoalEntry
  exact (keepsN_next (keeps_ite (keeps_setPower (keeps_mk0 (keeps_at hs))) hs))

theorem keeps_deliverHeld {s : State} {die : Nat} (hs : Kept lasting false false r s) :
    Kept lasting false false r (deliverHeld s die) := by
  unfold deliverHeld
  extract_lets d1 m2 s3
  have h4 : Kept lasting false false r s3 := (keeps_mk0 (keeps_at hs))
  exact (keeps_runRings (keeps_settle (keeps_foldl h4 (fun _ _ h5 => by
    split
    · exact (keeps_addTok h5)
    · exact (keeps_applyDoorbell h5)
    · exact (keeps_deliverTx h5)
))))

theorem keeps_startDomains {s : State} {die : Nat} (hs : Kept lasting false dry r s) :
    Kept lasting false dry r (startDomains s die) := by
  unfold startDomains
  exact (keeps_foldl hs (fun _ _ h1 => (keeps_ite (keeps_mk0 (keeps_at (keeps_setF (keeps_setF (keeps_setF (keeps_setF h1 rfl)
      rfl) rfl) rfl))) h1)))

theorem keeps_stopDomains {s : State} {die : Nat} (hs : Kept lasting false dry r s) :
    Kept lasting false dry r (stopDomains s die) := by
  unfold stopDomains
  extract_lets s1
  have h2 : Kept lasting false dry r s1 := (keeps_mk0 (keeps_at hs))
  exact (keeps_foldl h2 (fun _ _ h3 => by
    extract_lets s4
    have h5 : Kept lasting false dry r s4 := (keeps_setF (keeps_setF h3 rfl) rfl)
    exact (keeps_setF (keeps_setF (keeps_setF h5 rfl) rfl) rfl)
))

theorem keeps_execCharcoalReached {die : Nat} {s : State} (hs : Kept lasting false dry r s) :
    KeptN lasting false dry r (execCharcoalReached die s) := by
  unfold execCharcoalReached
  extract_lets c1 s2 w3 s4
  have h5 : ∀ x6 x8, Kept lasting false dry r x6 → apart x8 = true → Kept lasting false dry r (c1 x6 x8) :=
      fun x6 x8 h7 h9 => (keeps_ite (keeps_setF h7 h9) h7)
  have h10 : Kept lasting false dry r s2 := (h5 _ _ (h5 _ _ hs rfl) rfl)
  have h11 : Kept lasting false dry r s4 := (keeps_mk0 (keeps_at h10))
  exact (keepsN_next (keeps_ite hs (keeps_showLevel (keeps_setPower (keeps_stopDomains (keeps_updGov h11))))))

theorem keeps_execCharcoalWakeDone {die : Nat} {s : State} (hs : Kept lasting false false r s) :
    KeptN lasting false false r (execCharcoalWakeDone die s) := by
  unfold execCharcoalWakeDone
  extract_lets s1 l2 s3
  have h4 : Kept lasting false false r s1 := (keeps_setOpp (keeps_startDomains (keeps_setPower (keeps_leaveWaits hs))))
  have h5 : Kept lasting false false r s3 := (keeps_ite h4 (keeps_setF h4 rfl))
  exact (keepsN_next (keeps_ite hs (keeps_deliverHeld (keeps_showLevel h5))))

theorem keeps_wakeDie {direct : Bool} {grey : Bool} {s : State} {die : Nat} (hs : Kept lasting false false r s) :
    KeptP lasting false false r (wakeDie direct grey s die) := by
  unfold wakeDie
  extract_lets s1
  have h2 : Kept lasting false false r s1 := (keeps_addF (keeps_setPower (keeps_leaveWaits (keeps_mk0 (keeps_at hs)))) rfl)
  refine keepsP_ite ?_ ?_
  · exact (keepsP_mk hs)
  · split
    · refine keepsP_ite ?_ ?_
      · exact (keepsP_mk (keeps_setPower (keeps_leaveWaits hs)))
      · exact (keepsP_mk hs)
    · refine keepsP_ite ?_ ?_
      · exact (keepsP_mk (keeps_deliverHeld h2))
      · exact (keepsP_mk (keeps_mk0 (keeps_at hs)))
    · exact (keepsP_mk (keeps_setPower hs))
    · exact (keepsP_mk hs)

theorem keeps_wakeAll {s : State} {source : Nat} {port : Nat} {dies : List Nat} (hs : Kept lasting false false r s) :
    Kept lasting false false r (wakeAll s source port dies) := by
  unfold wakeAll
  extract_lets b1
  split
  · split
    · refine keeps_ite ?_ ?_
      · exact (keepsP_out ‹_› (keepsP_foldl (keepsP_mk hs) (fun _ _ h2 => by
          split
          · exact (keepsP_mk (keepsP_out ‹_› (keeps_wakeDie (keepsP_fst h2))))
)))
      · exact (keeps_recordWake (keepsP_out ‹_› (keepsP_foldl (keepsP_mk hs) (fun _ _ h3 => by
          split
          · exact (keepsP_mk (keepsP_out ‹_› (keeps_wakeDie (keepsP_fst h3))))
))))
    · exact (keepsP_out ‹_› (keepsP_foldl (keepsP_mk hs) (fun _ _ h4 => by
        split
        · exact (keepsP_mk (keepsP_out ‹_› (keeps_wakeDie (keepsP_fst h4))))
)))

theorem keeps_wakeBy {s : State} {source : Nat} {die : Nat} {port : Nat} (hs : Kept lasting false false r s) :
    Kept lasting false false r (wakeBy s source die port) := by
  unfold wakeBy
  refine keeps_ite ?_ ?_
  · exact hs
  · refine keeps_ite ?_ ?_
    · refine keeps_ite ?_ ?_
      · exact (keeps_recordWake (keeps_updSupply hs))
      · refine keeps_ite ?_ ?_
        · exact (keeps_emit hs)
        · exact hs
    · refine keeps_ite ?_ ?_
      · exact hs
      · exact (keeps_wakeAll hs)

theorem keeps_execWakeEvent {source : Nat} {die : Nat} {port : Nat} {s : State} (hs : Kept lasting false false r s) :
    KeptN lasting false false r (execWakeEvent source die port s) := by
  unfold execWakeEvent
  exact (keepsN_next (keeps_wakeBy hs))

theorem keeps_execAonTimerMatch {s : State} (hs : Kept lasting false false r s) :
    KeptN lasting false false r (execAonTimerMatch s) := by
  unfold execAonTimerMatch
  extract_lets c1
  exact (keepsN_next (keeps_ite (keeps_wakeBy hs) hs))

theorem keeps_execI3cAddressMatch {s : State} (hs : Kept lasting false false r s) :
    KeptN lasting false false r (execI3cAddressMatch s) := by
  unfold execI3cAddressMatch
  exact (keepsN_next (keeps_ite (keeps_wakeBy (keeps_emit hs)) hs))

theorem keeps_showRoot {s : State} (hs : Kept lasting calm dry r s) :
    Kept lasting calm dry r (showRoot s) := by
  unfold showRoot
  exact (keeps_setF hs rfl)

theorem keeps_takeSource {s : State} {n : Nat} (hs : Kept lasting false dry r s) :
    Kept lasting false dry r (takeSource s n) := by
  unfold takeSource
  extract_lets s1 s2 s3 s4
  have h5 : Kept lasting false dry r s1 := (keeps_setF (keeps_setF hs rfl) rfl)
  have h6 : Kept lasting false dry r s2 := (keeps_showRoot h5)
  have h7 : Kept lasting false dry r s3 := (keeps_addF h6 rfl)
  have h8 : Kept lasting false dry r s4 := (keeps_ite (keeps_addF h7 rfl) h7)
  refine keeps_ite ?_ ?_
  · exact hs
  · refine keeps_ite ?_ ?_
    · exact h6
    · exact (keeps_localNotice h8)

theorem keeps_execRefSelectWrite {src : Src} {value : Nat} {s : State} (hs : Kept lasting false dry r s) :
    KeptN lasting false dry r (execRefSelectWrite src value s) := by
  unfold execRefSelectWrite
  exact (keepsN_next (keeps_pfWrite hs (fun _ h1 => by
    extract_lets o2 s3 s4 s5
    have h6 : Kept lasting false dry r s3 := (keeps_plainWrite h1)
    have h7 : Kept lasting false dry r s4 := (keeps_ite h6 (keeps_setF h6 rfl))
    have h8 : Kept lasting false dry r s5 := (keeps_ite h7 (keeps_setF h7 rfl))
    exact (keeps_takeSource h8)
)))

theorem keeps_execRefSourceInvalid {source : Nat} {s : State} (hs : Kept lasting false dry r s) :
    KeptN lasting false dry r (execRefSourceInvalid source s) := by
  unfold execRefSourceInvalid
  exact (keepsN_next (by
    split
    · exact hs
    · extract_lets s1
      have h2 : Kept lasting false dry r s1 := (keeps_setF hs (apart_refOk ‹_›))
      refine keeps_ite ?_ ?_
      · exact (keeps_takeSource h2)
      · exact h2
))

theorem keeps_execReferenceSourceValid {source : Nat} {s : State} (hs : Kept lasting false dry r s) :
    KeptN lasting false dry r (execReferenceSourceValid source s) := by
  unfold execReferenceSourceValid
  exact (keepsN_next (by
    split
    · exact hs
    · extract_lets s1
      have h2 : Kept lasting false dry r s1 := (keeps_setF hs (apart_refOk ‹_›))
      refine keeps_ite ?_ ?_
      · exact hs
      · refine keeps_ite ?_ ?_
        · exact h2
        · exact (keeps_takeSource h2)
))

theorem keeps_execRefRevert {s : State} (hs : Kept lasting false dry r s) :
    KeptN lasting false dry r (execRefRevert s) := by
  unfold execRefRevert
  extract_lets b1
  exact (keepsN_next (keeps_ite (keeps_takeSource hs) hs))

theorem keeps_execAonCrystalStop {s : State} (hs : Kept lasting calm dry r s) :
    KeptN lasting calm dry r (execAonCrystalStop s) := by
  unfold execAonCrystalStop
  exact (keepsN_next (keeps_setF hs rfl))

theorem keeps_showSlew {s : State} (hs : Kept lasting calm dry r s) :
    Kept lasting calm dry r (showSlew s) := by
  unfold showSlew
  exact (keeps_setF hs rfl)

theorem keeps_recoverRates {s : State} (hs : Kept lasting calm dry r s) :
    Kept lasting calm dry r (recoverRates s) := by
  unfold recoverRates
  extract_lets u1
  refine keeps_ite ?_ ?_
  · exact (keeps_mk (keeps_at hs))
  · exact hs

theorem keeps_idleTick {s : State} (hs : Kept lasting false dry r s) :
    Kept lasting false dry r (idleTick s) := by
  unfold idleTick
  extract_lets p1 s2
  have h3 : Kept lasting false dry r s2 := (keeps_ite (keeps_mk0 (keeps_at hs)) hs)
  refine keeps_ite ?_ ?_
  · exact h3
  · refine keeps_ite ?_ ?_
    · exact (keeps_recoverRates (keeps_mk0 (keeps_at h3)))
    · refine keeps_ite ?_ ?_
      · exact (keeps_recoverRates (keeps_mk0 (keeps_at h3)))
      · refine keeps_ite ?_ ?_
        · exact (keeps_recoverRates (keeps_showSlew (keeps_mk0 (keeps_at h3))))
        · exact (keeps_showSlew (keeps_mk0 (keeps_at h3)))

theorem keeps_setTickTo {s : State} {t : Nat} (hs : Kept lasting false dry r s) :
    Kept lasting false dry r (setTickTo s t) := by
  unfold setTickTo
  extract_lets d1
  refine keeps_ite ?_ ?_
  · refine keeps_ite ?_ ?_
    · exact hs
    · exact (keeps_showSlew (keeps_mk0 (keeps_at hs)))
  · exact (keeps_showSlew (keeps_setF (keeps_mk0 (keeps_at hs)) rfl))

theorem keeps_execTickAlignSend {port : Nat} {s : State} (hs : Kept lasting calm dry r s) :
    KeptN lasting calm dry r (execTickAlignSend port s) := by
  unfold execTickAlignSend
  exact (keepsN_next (keeps_ite (keeps_emit hs) hs))

theorem keeps_takeTick {s : State} {port : Nat} {t : Nat} (hs : Kept lasting false dry r s) :
    Kept lasting false dry r (takeTick s port t) := by
  unfold takeTick
  extract_lets n1
  refine keeps_ite ?_ ?_
  · split
    · exact (keeps_setTickTo (keepsQ_out ‹_› (keeps_freshFree hs)))
  · exact hs

theorem keeps_domainLost {s : State} {die : Nat} {dom : Nat} (hs : Kept lasting false false r s) :
    Kept lasting false false r (domainLost s die dom) := by
  unfold domainLost
  refine keeps_ite ?_ ?_
  · exact (keeps_foldl hs (fun _ _ h1 => by
      extract_lets s2
      refine keeps_ite ?_ ?_
      · exact (keeps_portDown h1)
      · exact h1
))
  · refine keeps_ite ?_ ?_
    · exact (keeps_fenceCut (keeps_mk0 (keeps_at hs)))
    · exact hs

theorem keeps_forceDomain {s : State} {die : Nat} {dom : Nat} {runt : Bool} (hs : Kept lasting false false r s) :
    Kept lasting false false r (forceDomain s die dom runt) := by
  unfold forceDomain
  extract_lets s1 s2
  have h3 : Kept lasting false false r s1 := (keeps_setF (keeps_setF hs rfl) rfl)
  have h4 : Kept lasting false false r s2 := (keeps_addF h3 rfl)
  exact (keeps_domainLost (keeps_mk0 (keeps_at h4)))

theorem keeps_execClockSourceFail {die : Nat} {dom : Nat} {stop : Bool} {runt : Bool} {s : State} (hs : Kept lasting false
    false r s) :
    KeptN lasting false false r (execClockSourceFail die dom stop runt s) := by
  unfold execClockSourceFail
  extract_lets s1 s2 k3
  have h4 : Kept lasting false false r s2 := (keeps_setF hs (by unfold lockFld; (repeat' split) <;> rfl))
  exact (keepsN_next (keeps_ite hs (keeps_ite (keeps_setF (keeps_showSlew (keeps_mk0 (keeps_at hs))) rfl) (keeps_ite hs
      (keeps_ite (keeps_forceDomain (keeps_setF hs (by unfold lockFld; (repeat' split) <;> rfl))) (by
    split
    · refine keeps_ite ?_ ?_
      · exact (keeps_setF (keeps_mk0 (keeps_at h4)) rfl)
      · exact h4
    · exact h4
))))))

theorem keeps_execHoldoverExpiry {runts : List Nat} {s : State} (hs : Kept lasting false false r s) :
    KeptN lasting false false r (execHoldoverExpiry runts s) := by
  unfold execHoldoverExpiry
  extract_lets s1
  have h2 : Kept lasting false false r s1 := (keeps_addF hs rfl)
  exact (keepsN_next (keeps_ite hs (keeps_foldl h2 (fun _ _ h3 => by
    extract_lets d4 d5 s6
    have h7 : Kept lasting false false r s6 := (keeps_setF (keeps_setF h3 rfl) rfl)
    refine keeps_ite ?_ ?_
    · exact (keeps_forceDomain h7)
    · exact h3
))))

theorem keeps_fenceFar {s : State} {die : Nat} (hs : Kept lasting false false r s) :
    Kept lasting false false r (fenceFar s die) := by
  unfold fenceFar
  extract_lets k1 s2 h3
  have h4 : Kept lasting false false r s2 := (keeps_logRec (keeps_setF hs rfl))
  refine keeps_ite ?_ ?_
  · exact (keeps_showLevel (keeps_runRings (keeps_settle (keeps_loseFarPages (keeps_loseRegions h4)))))
  · exact hs

theorem keeps_execMemoryClockTimeout {die : Nat} {dom : Nat} {s : State} (hs : Kept lasting false false r s) :
    KeptN lasting false false r (execMemoryClockTimeout die dom s) := by
  unfold execMemoryClockTimeout
  exact (keepsN_next (keeps_ite hs (keeps_ite (keeps_runRings (keeps_fenceStack (keeps_fenceStack hs))) (keeps_ite
      (keeps_fenceFar hs) hs))))

theorem keeps_startSwitch {s : State} {die : Nat} {dom : Nat} (hs : Kept lasting false dry r s) :
    Kept lasting false dry r (startSwitch s die dom) := by
  unfold startSwitch
  extract_lets w1
  exact (keeps_setF (keeps_mk0 (keeps_at hs)) rfl)

theorem keeps_execDomainSwitch {src : Src} {die : Nat} {dom : Nat} {value : Nat} {s : State} (hs : Kept lasting false dry r s) :
    KeptN lasting false dry r (execDomainSwitch src die dom value s) := by
  unfold execDomainSwitch
  exact (keepsN_next (keeps_ite hs (keeps_pfWrite hs (fun _ h1 => by
    extract_lets s2
    have h3 : Kept lasting false dry r s2 := (keeps_setF h1 rfl)
    refine keeps_ite ?_ ?_
    · exact h3
    · refine keeps_ite ?_ ?_
      · exact (keeps_logErr (keeps_setF h3 rfl))
      · exact (keeps_startSwitch (keeps_setF h3 rfl))
))))

theorem keeps_execMarginAutoSwitch {die : Nat} {dom : Nat} {s : State} (hs : Kept lasting false dry r s) :
    KeptN lasting false dry r (execMarginAutoSwitch die dom s) := by
  unfold execMarginAutoSwitch
  exact (keepsN_next (keeps_ite hs (keeps_ite (keeps_logErr (keeps_setF hs rfl)) (keeps_startSwitch (keeps_setF hs rfl)))))

theorem keeps_rampDown {s : State} {die : Nat} {dom : Nat} {counted : Bool} (hs : Kept lasting false dry r s) :
    Kept lasting false dry r (rampDown s die dom counted) := by
  unfold rampDown
  extract_lets d1 s2 s3 s4
  have h5 : Kept lasting false dry r s2 := (keeps_setF hs rfl)
  have h6 : Kept lasting false dry r s3 := (keeps_setF (keeps_mk0 (keeps_at h5)) rfl)
  have h7 : Kept lasting false dry r s4 := (keeps_ite (keeps_addF h6 rfl) h6)
  refine keeps_ite ?_ ?_
  · exact h5
  · refine keeps_ite ?_ ?_
    · exact (keeps_startStep h7)
    · exact h7

theorem keeps_rampUp {s : State} {die : Nat} {dom : Nat} (hs : Kept lasting false dry r s) :
    Kept lasting false dry r (rampUp s die dom) := by
  unfold rampUp
  extract_lets d1 s2
  have h3 : Kept lasting false dry r s2 := (keeps_setF hs rfl)
  refine keeps_ite ?_ ?_
  · exact (keeps_setF (keeps_mk0 (keeps_at h3)) rfl)
  · exact (keeps_mk0 (keeps_at h3))

theorem keeps_execSwitchRampStep {die : Nat} {dom : Nat} {s : State} (hs : Kept lasting false dry r s) :
    KeptN lasting false dry r (execSwitchRampStep die dom s) := by
  unfold execSwitchRampStep
  exact (keepsN_next (keeps_ite hs (by
    split
    · exact hs
    · refine keeps_ite ?_ ?_
      · exact hs
      · exact (keeps_rampUp hs)
    · exact (keeps_rampUp hs)
    · exact (keeps_rampDown hs)
    · exact (keeps_rampDown hs)
)))

theorem keeps_showObs {s : State} (hs : Kept lasting calm dry r s) :
    Kept lasting calm dry r (showObs s) := by
  unfold showObs
  extract_lets v1
  exact (keeps_emit hs)

theorem keeps_execClkObsEnable {src : Src} {value : Nat} {s : State} (hs : Kept lasting false dry r s) :
    KeptN lasting false dry r (execClkObsEnable src value s) := by
  unfold execClkObsEnable
  exact (keepsN_next (keeps_pfWrite hs (fun _ h1 => by
    extract_lets s2 s3
    have h4 : Kept lasting false dry r s2 := (keeps_setF (keeps_setF h1 rfl) rfl)
    have h5 : Kept lasting false dry r s3 := (keeps_ite (keeps_setF h4 rfl) h4)
    refine keeps_ite ?_ ?_
    · exact (keeps_showObs (keeps_setF h5 rfl))
    · refine keeps_ite ?_ ?_
      · exact (keeps_logErr (keeps_setF h5 rfl))
      · exact (keeps_showObs (keeps_setF (keeps_setF h5 rfl) rfl))
)))

end Sys2Proof.Laws
end

