-- ==== Sys2Proof/Laws/KeepManage.lean ====
section
/-! SUPPORT. What collectives, counters, flits and management keep (see Laws/Keep.lean), one lemma an operation. -/

namespace Sys2Proof.Laws

open Sys2Proof Sys2Proof.Machine

variable {lasting calm dry : Bool} {r s t : State} {α β γ : Type}

theorem keeps_rejectRd {s : State} {d : Desc} {r0 : Nat} (hs : Kept lasting calm false r s) :
    Kept lasting calm false r (rejectRd s d r0) := by
  unfold rejectRd
  exact (keeps_completeDesc hs)

theorem keeps_execRdCommDefine {q : Nat} {tag : Nat} {s : State} (hs : Kept lasting calm false r s) :
    KeptN lasting calm false r (execRdCommDefine q tag s) := by
  unfold execRdCommDefine
  extract_lets d1
  exact (keepsN_next (by
    split
    · exact hs
    · extract_lets i2 n3 r4
      split
      · exact (keeps_settle (keeps_rejectRd hs))
      · split
        · extract_lets m5 m6 c7
          refine keeps_ite ?_ ?_
          · exact (keeps_settle (keeps_completeDesc hs))
          · refine keeps_ite ?_ ?_
            · exact (keeps_settle (keeps_rejectRd hs))
            · refine keeps_ite ?_ ?_
              · exact (keeps_settle (keeps_rejectRd hs))
              · exact (keeps_settle (keeps_endOp (keeps_setComm hs)))
))

theorem keeps_startCall {s : State} {d : Desc} {slot : Nat} {plan : List Bytes} {numbered : Bool} (hs : Kept lasting calm false
    r s) :
    Kept lasting calm false r (startCall s d slot plan numbered) := by
  unfold startCall
  extract_lets d1
  split
  · exact hs
  · extract_lets c2 s3 s4
    have h5 : Kept lasting calm false r s3 := (keeps_ite (keeps_setComm hs) hs)
    have h6 : Kept lasting calm false r s4 := (keeps_holdRd (keeps_takeSnap h5))
    refine keeps_ite ?_ ?_
    · exact (keeps_settle (keeps_endOp hs))
    · exact (keeps_settle (keeps_showActive (keeps_mk (keeps_at h6))))

theorem keeps_execRdCommRetire {q : Nat} {tag : Nat} {s : State} (hs : Kept lasting calm false r s) :
    KeptN lasting calm false r (execRdCommRetire q tag s) := by
  unfold execRdCommRetire
  exact (keepsN_next (by
    split
    · exact hs
    · split
      · exact (keeps_settle (keeps_rejectRd hs))
      · exact (keeps_startCall hs)
))

theorem keeps_runRd {p : Bytes → Bool} {checks : State → Desc → List (Nat × Bool)} {slotAt : Nat} {q : Nat} {tag : Nat} {s :
    State} (hs : Kept lasting calm false r s) :
    Kept lasting calm false r (runRd p checks slotAt q tag s) := by
  unfold runRd
  split
  · exact hs
  · split
    · exact (keeps_settle (keeps_rejectRd hs))
    · exact (keeps_startCall hs)

theorem keeps_execRdReduce {q : Nat} {tag : Nat} {s : State} (hs : Kept lasting calm false r s) :
    KeptN lasting calm false r (execRdReduce q tag s) := by
  unfold execRdReduce
  exact (keepsN_next (keeps_runRd hs))

theorem keeps_execRdA2a {q : Nat} {tag : Nat} {s : State} (hs : Kept lasting calm false r s) :
    KeptN lasting calm false r (execRdA2a q tag s) := by
  unfold execRdA2a
  exact (keepsN_next (keeps_runRd hs))

theorem keeps_execRdExpertDispatch {q : Nat} {tag : Nat} {s : State} (hs : Kept lasting calm false r s) :
    KeptN lasting calm false r (execRdExpertDispatch q tag s) := by
  unfold execRdExpertDispatch
  exact (keepsN_next (keeps_runRd hs))

theorem keeps_execRdExpertCombine {q : Nat} {tag : Nat} {s : State} (hs : Kept lasting calm false r s) :
    KeptN lasting calm false r (execRdExpertCombine q tag s) := by
  unfold execRdExpertCombine
  exact (keepsN_next (keeps_runRd hs))

theorem keeps_runListed {op : Nat} {checks : State → Desc → List (Nat × Bool)} {slotAt : Nat} {listAt : Nat} {k : Nat} {count :
    Bytes → Nat} {more : State → Desc → List Bytes → List (Nat × Bool)} {q : Nat} {tag : Nat} {s : State} (hs : Kept lasting
    calm false r s) :
    Kept lasting calm false r (runListed op checks slotAt listAt k count more q tag s) := by
  unfold runListed
  split
  · exact hs
  · extract_lets n1
    split
    · exact (keeps_settle (keeps_rejectRd hs))
    · split
      · refine keeps_ite ?_ ?_
        · exact (keeps_settle (keeps_completeDesc hs))
        · split
          · exact (keeps_settle (keeps_rejectRd hs))
          · exact (keeps_startCall hs)

theorem keeps_execRdGather {q : Nat} {tag : Nat} {s : State} (hs : Kept lasting calm false r s) :
    KeptN lasting calm false r (execRdGather q tag s) := by
  unfold execRdGather
  exact (keepsN_next (keeps_runListed hs))

theorem keeps_execRdPermute {q : Nat} {tag : Nat} {s : State} (hs : Kept lasting calm false r s) :
    KeptN lasting calm false r (execRdPermute q tag s) := by
  unfold execRdPermute
  exact (keepsN_next (keeps_runListed hs))

theorem keeps_execPermuteEpochAdvance {die : Nat} {fn : Nat} {s : State} (hs : Kept lasting calm false r s) :
    KeptN lasting calm false r (execPermuteEpochAdvance die fn s) := by
  unfold execPermuteEpochAdvance
  extract_lets o1
  exact (keepsN_next (by
    split
    · exact hs
    · split
      · exact hs
      · refine keeps_ite ?_ ?_
        · exact hs
        · exact (keeps_settle (keeps_permuteGo hs))
))

theorem keeps_execRdEpochRetire {q : Nat} {tag : Nat} {s : State} (hs : Kept lasting calm false r s) :
    KeptN lasting calm false r (execRdEpochRetire q tag s) := by
  unfold execRdEpochRetire
  exact (keepsN_next (by
    split
    · exact hs
    · extract_lets k1 k2
      split
      · exact (keeps_settle (keeps_rejectRd hs))
      · exact (keeps_settle (keeps_endOp (keeps_mk (keeps_at hs))))
))

theorem keeps_runExt {p : Nat → Bool} {eff : State → Desc → State} {q : Nat} {tag : Nat} {s : State} (heff : ∀ a0 a1, Kept
    lasting calm false r a0 → Kept lasting calm false r (eff a0 a1)) (hs : Kept lasting calm false r s) :
    Kept lasting calm false r (runExt p eff q tag s) := by
  unfold runExt
  split
  · exact hs
  · split
    · exact (keeps_settle (keeps_rejectRd hs))
    · exact (keeps_settle (heff _ _ hs))

theorem keeps_execRdExtWrite {q : Nat} {tag : Nat} {s : State} (hs : Kept lasting calm false r s) :
    KeptN lasting calm false r (execRdExtWrite q tag s) := by
  unfold execRdExtWrite
  extract_lets d1
  exact (keepsN_next (keeps_runExt (fun _ _ h2 => by
    extract_lets n3 b4
    split
    · extract_lets t5
      refine keeps_ite ?_ ?_
      · exact (keeps_completeDesc h2)
      · refine keeps_ite ?_ ?_
        · exact (keeps_rejectRd h2)
        · exact (keeps_endOp (keeps_mk (keeps_at h2)))
) hs))

theorem keeps_execRdExtSwap {q : Nat} {tag : Nat} {s : State} (hs : Kept lasting calm false r s) :
    KeptN lasting calm false r (execRdExtSwap q tag s) := by
  unfold execRdExtSwap
  exact (keepsN_next (keeps_runExt (fun _ _ h1 => (keeps_endOp (keeps_setF h1 rfl))) hs))

theorem keeps_execRdExtCopy {q : Nat} {tag : Nat} {s : State} (hs : Kept lasting calm false r s) :
    KeptN lasting calm false r (execRdExtCopy q tag s) := by
  unfold execRdExtCopy
  extract_lets d1
  exact (keepsN_next (keeps_runExt (fun _ _ h2 => by
    extract_lets b3 t4
    exact (keeps_endOp (keeps_mk (keeps_at h2)))
) hs))

theorem keeps_recArrives {kind : Nat} {s : State} {die : Nat} {r0 : CtlRec} {k : State → State} (hs : Kept lasting calm false r
    s) (hk : ∀ a0, Kept lasting calm false r a0 → Kept lasting calm false r (k a0)) :
    Kept lasting calm false r (recArrives kind s die r0 k) := by
  unfold recArrives
  split
  · exact hs
  · refine keeps_ite ?_ ?_
    · exact hs
    · exact (keeps_settle (hk _ (keepsP_fst (keeps_jobWrite hs))))

theorem keeps_execReady {die : Nat} {r0 : CtlRec} {s : State} (hs : Kept lasting calm false r s) :
    KeptN lasting calm false r (execReady die r0 s) := by
  unfold execReady
  exact (keepsN_next (keeps_recArrives hs (fun _ h1 => (keeps_addNote h1))))

theorem keeps_execData {die : Nat} {r0 : CtlRec} {s : State} (hs : Kept lasting calm false r s) :
    KeptN lasting calm false r (execData die r0 s) := by
  unfold execData
  exact (keepsN_next (keeps_recArrives hs (fun _ h1 => (keeps_addNote h1))))

theorem keeps_execClose {die : Nat} {r0 : CtlRec} {s : State} (hs : Kept lasting calm false r s) :
    KeptN lasting calm false r (execClose die r0 s) := by
  unfold execClose
  exact (keepsN_next (keeps_recArrives hs (fun _ h1 => (keeps_addNote h1))))

theorem keeps_execFail {die : Nat} {r0 : CtlRec} {s : State} (hs : Kept lasting calm false r s) :
    KeptN lasting calm false r (execFail die r0 s) := by
  unfold execFail
  exact (keepsN_next (keeps_recArrives hs (fun _ h1 => (keeps_addNote h1))))

theorem keeps_execList {die : Nat} {r0 : CtlRec} {s : State} (hs : Kept lasting calm false r s) :
    KeptN lasting calm false r (execList die r0 s) := by
  unfold execList
  exact (keepsN_next (keeps_recArrives hs (fun _ h1 => (keeps_addNote h1))))

theorem keeps_execGatherReq {die : Nat} {r0 : CtlRec} {s : State} (hs : Kept lasting calm false r s) :
    KeptN lasting calm false r (execGatherReq die r0 s) := by
  unfold execGatherReq
  exact (keepsN_next (keeps_recArrives hs (fun _ h1 => (keeps_addServe h1))))

theorem keeps_execStragglerWindowClose {die : Nat} {slot : Nat} {seq : Nat} {s : State} (hs : Kept lasting calm false r s) :
    KeptN lasting calm false r (execStragglerWindowClose die slot seq s) := by
  unfold execStragglerWindowClose
  exact (keepsN_next (by
    split
    · refine keeps_ite ?_ ?_
      · exact hs
      · refine keeps_ite ?_ ?_
        · refine keeps_ite ?_ ?_
          · exact (keeps_settle (keeps_closeNow hs))
          · exact hs
        · refine keeps_ite ?_ ?_
          · exact hs
          · split
            · exact (keeps_settle (keeps_gatherExpire hs))
            · exact hs
    · exact hs
))

theorem keeps_execCloseTimeout {die : Nat} {slot : Nat} {seq : Nat} {s : State} (hs : Kept lasting calm false r s) :
    KeptN lasting calm false r (execCloseTimeout die slot seq s) := by
  unfold execCloseTimeout
  exact (keepsN_next (by
    split
    · exact hs
    · refine keeps_ite ?_ ?_
      · exact (keeps_settle (keeps_endCall hs))
      · exact hs
))

theorem keeps_writeCntCtrl {s : State} {freeze : Fld} {cs : List Fld} {die : Nat} {i : Nat} {value : Nat} (hs : Kept lasting
    calm dry r s) (hfreeze : apart freeze = true) (hcs : ∀ f ∈ cs, apart f = true) :
    Kept lasting calm dry r (writeCntCtrl s freeze cs die i value) := by
  unfold writeCntCtrl
  extract_lets s1
  have h2 : Kept lasting calm dry r s1 := (keeps_setF hs hfreeze)
  refine keeps_ite ?_ ?_
  · exact (keeps_clearAll h2 hcs)
  · exact h2

theorem keeps_execMxCntClear {src : Src} {die : Nat} {st : Nat} {value : Nat} {s : State} (hs : Kept lasting false dry r s) :
    KeptN lasting false dry r (execMxCntClear src die st value s) := by
  unfold execMxCntClear
  exact (keepsN_next (keeps_ite (keeps_pfWrite hs (fun _ h1 => (keeps_writeCntCtrl h1 rfl (by decide)))) hs))

theorem keeps_execAtCntClear {src : Src} {die : Nat} {st : Nat} {value : Nat} {s : State} (hs : Kept lasting false dry r s) :
    KeptN lasting false dry r (execAtCntClear src die st value s) := by
  unfold execAtCntClear
  exact (keepsN_next (keeps_ite (keeps_pfWrite hs (fun _ h1 => (keeps_writeCntCtrl h1 rfl (by decide)))) hs))

theorem keeps_portTx {s : State} {p : Nat} {o : Option Tx} (hs : Kept lasting false false r s) :
    Kept lasting false false r (portTx s p o) := by
  unfold portTx
  split
  · exact (keeps_discardTx hs)
  · refine keeps_ite ?_ ?_
    · exact (keeps_recvNotice hs)
    · exact (keeps_settle (keeps_recvTx hs))

theorem keeps_payloadFlit {s : State} {p : Nat} {f : Bytes} (hs : Kept lasting false false r s) :
    Kept lasting false false r (payloadFlit s p f) := by
  unfold payloadFlit
  extract_lets k1 x2 o3 b4
  refine keeps_ite ?_ ?_
  · exact (keeps_discardTx hs)
  · split
    · extract_lets s5
      have h6 : Kept lasting false false r s5 := (keeps_setPort hs)
      exact (keeps_foldl h6 (fun _ _ h7 => (keeps_portTx h7)))

theorem keeps_dropAcked {s : State} {p : Nat} {a : Nat} (hs : Kept lasting calm dry r s) :
    Kept lasting calm dry r (dropAcked s p a) := by
  unfold dropAcked
  extract_lets s1
  exact (keeps_setPort hs)

theorem keeps_nakPort {s : State} {p : Nat} (hs : Kept lasting false false r s) :
    Kept lasting false false r (nakPort s p) := by
  unfold nakPort
  extract_lets s1 s2
  have h3 : Kept lasting false false r s1 := (keeps_addF hs rfl)
  split
  · exact h3
  · extract_lets s4
    have h5 : Kept lasting false false r s4 := (keeps_setPort h3)
    refine keeps_ite ?_ ?_
    · exact (keeps_portDown h3)
    · exact (keeps_foldl h5 (fun _ _ h6 => (keeps_emit h6)))

theorem keeps_creditBack {s : State} {p : Nat} {key : Nat} {n : Nat} (hs : Kept lasting calm dry r s) :
    Kept lasting calm dry r (creditBack s p key n) := by
  unfold creditBack
  extract_lets x1
  exact (keeps_setPort hs)

theorem keeps_flitAcks {s : State} {p : Nat} {f : Bytes} (hs : Kept lasting false false r s) :
    Kept lasting false false r (flitAcks s p f) := by
  unfold flitAcks
  extract_lets s1 s2 s3
  have h4 : Kept lasting false false r s1 := (keeps_dropAcked hs)
  have h5 : Kept lasting false false r s2 := (keeps_creditBack h4)
  have h6 : Kept lasting false false r s3 := (keeps_ite (keeps_nakPort h5) h5)
  exact (keeps_settle (keeps_retryWaits h6))

theorem keeps_discardFlit {s : State} {p : Nat} (hs : Kept lasting calm dry r s) :
    Kept lasting calm dry r (discardFlit s p) := by
  unfold discardFlit
  exact (keeps_emit hs)

theorem keeps_flitError {s : State} {p : Nat} {f : Fld} (hs : Kept lasting false dry r s) (hf : apart f = true) :
    Kept lasting false dry r (flitError s p f) := by
  unfold flitError
  exact (keeps_logRec (keeps_addF hs hf))

theorem keeps_goodFlit {s : State} {p : Nat} {f : Bytes} (hs : Kept lasting false false r s) :
    Kept lasting false false r (goodFlit s p f) := by
  unfold goodFlit
  extract_lets s1 x2 s3
  have h4 : Kept lasting false false r s1 := (keeps_flitAcks hs)
  have h5 : Kept lasting false false r s3 := (keeps_setPort h4)
  refine keeps_ite ?_ ?_
  · exact h4
  · split
    · exact (keeps_payloadFlit (keeps_emit (keeps_emit h5)))
    · exact (keeps_takeTick h4)
    · exact h4

theorem keeps_execFlitReceive {port : Nat} {flit : Bytes} {fecOk : Bool} {corrected : Nat} {s : State} (hs : Kept lasting false
    false r s) :
    KeptN lasting false false r (execFlitReceive port flit fecOk corrected s) := by
  unfold execFlitReceive
  extract_lets s1
  have h2 : Kept lasting false false r s1 := (keeps_addF hs rfl)
  exact (keepsN_next (keeps_ite hs (keeps_ite (keeps_discardFlit (keeps_flitError h2 rfl)) (keeps_ite (keeps_discardFlit
      (keeps_flitError h2 rfl)) (keeps_ite (keeps_discardFlit h2) (keeps_runRings (keeps_settle (keeps_goodFlit h2))))))))

theorem keeps_execColdStart {main : Bool} {straps : Straps} {s : State} (hs : Kept false false false r s) :
    KeptN false false false r (execColdStart main straps s) := by
  unfold execColdStart
  extract_lets t1 t2
  have h3 : Kept false false false r t1 := (keeps_setF (keeps_coldReset hs) rfl)
  have h4 : Kept false false false r t2 := (keeps_foldl h3 (fun _ _ h5 => (keeps_startDomains h5)))
  exact (keepsN_next (keeps_ite hs (keeps_showBudget (keeps_setF h4 (by split <;> rfl)))))

theorem keeps_execResetNAssert {straps : Straps} {s : State} (hs : Kept false false false r s) :
    KeptN false false false r (execResetNAssert straps s) := by
  unfold execResetNAssert
  exact (keepsN_next (keeps_ite hs (keeps_showBudget (keeps_coldReset hs))))

theorem keeps_activate {s : State} {cause : Nat} (hs : Kept lasting false false r s) :
    Kept lasting false false r (activate s cause) := by
  unfold activate
  refine keeps_ite ?_ ?_
  · exact hs
  · refine keeps_ite ?_ ?_
    · exact (keeps_showBudget (keeps_warmReset (keeps_setF hs rfl)))
    · exact (keeps_showBudget (keeps_warmReset hs))

theorem keeps_execMgtResetWarm {src : Src} {value : Nat} {s : State} (hs : Kept lasting false false r s) :
    KeptN lasting false false r (execMgtResetWarm src value s) := by
  unfold execMgtResetWarm
  exact (keepsN_next (keeps_pfWrite hs (fun _ h1 => by
    extract_lets s2
    have h3 : Kept lasting false false r s2 := (keeps_plainWrite h1)
    refine keeps_ite ?_ ?_
    · exact (keeps_activate h3)
    · exact h3
)))

theorem keeps_execManagementWatchdog {s : State} (hs : Kept lasting false false r s) :
    KeptN lasting false false r (execManagementWatchdog s) := by
  unfold execManagementWatchdog
  exact (keepsN_next (keeps_activate hs))

theorem keeps_enablePorts {s : State} (hs : Kept lasting calm dry r s) :
    Kept lasting calm dry r (enablePorts s) := by
  unfold enablePorts
  refine keeps_ite ?_ ?_
  · exact hs
  · exact (keeps_foldl hs (fun _ _ h1 => (keeps_ite h1 (keeps_ite (keeps_toTraining (keeps_setF h1 rfl)) (keeps_setF h1 rfl)))))

theorem keeps_deriveIdent {s : State} {die : Nat} {x : FwImage} (hs : Kept lasting false dry r s) :
    Kept lasting false dry r (deriveIdent s die x) := by
  unfold deriveIdent
  extract_lets s1 k2
  split
  · exact (keeps_mk0 (keeps_at (keepsQ_out ‹_› (keeps_freshFree hs))))

theorem keeps_deriveIdents {s : State} {x : FwImage} (hs : Kept lasting false dry r s) :
    Kept lasting false dry r (deriveIdents s x) := by
  unfold deriveIdents
  extract_lets s1
  have h2 : Kept lasting false dry r s1 := (keeps_ite hs (keeps_deriveIdent hs))
  refine keeps_ite ?_ ?_
  · exact h2
  · exact (keeps_deriveIdent h2)

theorem keeps_execBootVerify {slot : Nat} {img : FwImage} {s : State} (hs : Kept lasting false dry r s) :
    KeptN lasting false dry r (execBootVerify slot img s) := by
  unfold execBootVerify
  extract_lets m1 f2 x3 s4 s5 s6 s7
  have h8 : Kept lasting false dry r s4 := (keeps_mk0 (keeps_at hs))
  have h9 : Kept lasting false dry r s5 := (keeps_setF (keeps_setF h8 rfl) rfl)
  have h10 : Kept lasting false dry r s6 := (keeps_setF (keeps_setF h9 rfl) rfl)
  have h11 : Kept lasting false dry r s7 := (keeps_mk0 (keeps_at h8))
  exact (keepsN_next (keeps_ite hs (keeps_ite hs (keeps_ite (keeps_enablePorts (keeps_deriveIdents (keeps_setF h10 rfl)))
      (keeps_ite (keeps_setF h11 rfl) h11)))))

theorem keeps_execF4Takeover {s : State} (hs : Kept lasting calm dry r s) :
    KeptN lasting calm dry r (execF4Takeover s) := by
  unfold execF4Takeover
  exact (keepsN_next (keeps_ite (keeps_setF hs rfl) hs))

theorem keeps_execLimitedServiceEntry {die : Nat} {s : State} (hs : Kept lasting false false r s) :
    KeptN lasting false false r (execLimitedServiceEntry die s) := by
  unfold execLimitedServiceEntry
  extract_lets l1 s2 s3 s4
  have h5 : Kept lasting false false r s2 := (keeps_startDomains (keeps_startDomains (keeps_startDomains hs)))
  have h6 : Kept lasting false false r s3 := (keeps_setF h5 rfl)
  have h7 : Kept lasting false false r s4 := (keeps_ite (keeps_setF h6 rfl) h6)
  exact (keepsN_next (keeps_ite hs (keeps_ite (keeps_fenceDie hs) (keeps_showRoot (keeps_showLevel h7)))))

theorem keeps_execFullServiceEntry {die : Nat} {s : State} (hs : Kept lasting calm dry r s) :
    KeptN lasting calm dry r (execFullServiceEntry die s) := by
  unfold execFullServiceEntry
  extract_lets f1 s2 s3
  have h4 : Kept lasting calm dry r s2 := (keeps_setF (keeps_setF hs rfl) rfl)
  have h5 : Kept lasting calm dry r s3 := (keeps_ite (keeps_setF h4 rfl) h4)
  exact (keepsN_next (keeps_ite hs (keeps_startStep (keeps_showLevel h5))))

theorem keeps_reply {s : State} {code : Nat} (hs : Kept lasting calm dry r s) :
    Kept lasting calm dry r (reply s code) := by
  unfold reply
  exact (keeps_emit hs)

theorem keeps_oem {s : State} {data : Bytes} {n : Nat} {k : State → State} (hs : Kept lasting calm dry r s) (hk : ∀ a0, Kept
    lasting calm dry r a0 → Kept lasting calm dry r (k a0)) :
    Kept lasting calm dry r (oem s data n k) := by
  unfold oem
  refine keeps_ite ?_ ?_
  · exact hs
  · refine keeps_ite ?_ ?_
    · exact (keeps_reply hs)
    · exact (hk _ hs)

theorem keeps_execSetPlacement {data : Bytes} {s : State} (hs : Kept lasting false dry r s) :
    KeptN lasting false dry r (execSetPlacement data s) := by
  unfold execSetPlacement
  exact (keepsN_next (keeps_oem hs (fun _ h1 => (keeps_reply (keeps_mk0 (keeps_at h1))))))

theorem keeps_writeShadow {s : State} {put : State → Nat → State} (hs : Kept lasting calm dry r s) (hput : ∀ a0 a1, Kept
    lasting calm dry r a0 → Kept lasting calm dry r (put a0 a1)) :
    Kept lasting calm dry r (writeShadow s put) := by
  unfold writeShadow
  exact (keeps_foldl hs (fun _ _ h1 => (keeps_ite h1 (keeps_ite (keeps_setF h1 rfl) (hput _ _ h1)))))

theorem keeps_putMod {s : State} {k : Nat} {i : Nat} {v : Nat} (hs : Kept lasting false dry r s) :
    Kept lasting false dry r (putMod s k i v) := by
  unfold putMod
  exact (keeps_mk0 (keeps_at hs))

theorem keeps_putOvr {s : State} {k : Nat} {i : Nat} {v : Nat} (hs : Kept lasting false dry r s) :
    Kept lasting false dry r (putOvr s k i v) := by
  unfold putOvr
  exact (keeps_mk0 (keeps_at hs))

theorem keeps_putMc {s : State} {k : Nat} {i : Nat} {v : Nat} (hs : Kept lasting false dry r s) :
    Kept lasting false dry r (putMc s k i v) := by
  unfold putMc
  exact (keeps_mk0 (keeps_at hs))

theorem keeps_tableWrite {s : State} {data : Bytes} {w : Nat} {n : Nat} {most : Nat} {put : State → Nat → Nat → Nat → State}
    (hs : Kept lasting calm dry r s) (hput : ∀ a0 a1 a2 a3, Kept lasting calm dry r a0 → Kept lasting calm dry r (put a0 a1 a2
    a3)) :
    Kept lasting calm dry r (tableWrite s data w n most put) := by
  unfold tableWrite
  extract_lets f1 c2
  refine keeps_ite ?_ ?_
  · exact hs
  · refine keeps_ite ?_ ?_
    · exact (keeps_reply hs)
    · refine keeps_ite ?_ ?_
      · exact (keeps_reply hs)
      · exact (keeps_reply (keeps_writeShadow hs (fun _ _ h3 => (keeps_foldl h3 (fun _ _ h4 => (hput _ _ _ _ h4))))))

theorem keeps_execWriteModuleTable {data : Bytes} {s : State} (hs : Kept lasting false dry r s) :
    KeptN lasting false dry r (execWriteModuleTable data s) := by
  unfold execWriteModuleTable
  exact (keepsN_next (keeps_tableWrite hs (fun _ _ _ _ h1 => (keeps_putMod h1))))

theorem keeps_execWriteOverride {data : Bytes} {s : State} (hs : Kept lasting false dry r s) :
    KeptN lasting false dry r (execWriteOverride data s) := by
  unfold execWriteOverride
  exact (keepsN_next (keeps_tableWrite hs (fun _ _ _ _ h1 => (keeps_putOvr h1))))

theorem keeps_execWriteMulticast {data : Bytes} {s : State} (hs : Kept lasting false dry r s) :
    KeptN lasting false dry r (execWriteMulticast data s) := by
  unfold execWriteMulticast
  exact (keepsN_next (keeps_tableWrite hs (fun _ _ _ _ h1 => (keeps_putMc h1))))

theorem keeps_execCopyTables {data : Bytes} {s : State} (hs : Kept lasting false dry r s) :
    KeptN lasting false dry r (execCopyTables data s) := by
  unfold execCopyTables
  exact (keepsN_next (keeps_oem hs (fun _ h1 => by
    extract_lets s2
    have h3 : Kept lasting false dry r s2 := (keeps_foldl h1 (fun _ _ h4 => (keeps_ite h4 (keeps_startCopy h4))))
    exact (keeps_answerCopy (keeps_mk0 (keeps_at h3)))
)))

theorem keeps_putPlacement {s : State} {p : Bytes} (hs : Kept lasting calm dry r s) :
    Kept lasting calm dry r (putPlacement s p) := by
  unfold putPlacement
  extract_lets v1 s2 s3 s4 s5 d6 s7
  have h8 : Kept lasting calm dry r s2 := (keeps_setF (keeps_setF hs rfl) rfl)
  have h9 : Kept lasting calm dry r s3 := (keeps_setF (keeps_setF h8 rfl) rfl)
  have h10 : Kept lasting calm dry r s4 := (keeps_setF (keeps_setF h9 rfl) rfl)
  have h11 : Kept lasting calm dry r s5 := (keeps_setF (keeps_setF h10 rfl) rfl)
  have h12 : Kept lasting calm dry r s7 := (keeps_foldl h11 (fun _ _ h13 => by
      extract_lets s14
      have h15 : Kept lasting calm dry r s14 := (keeps_setF (keeps_setF h13 rfl) rfl)
      exact (keeps_setF (keeps_setF h15 rfl) rfl)
))
  exact (keeps_foldl h12 (fun _ _ h16 => by
    extract_lets v17
    exact (keeps_setF (keeps_setF h16 rfl) rfl)
))

theorem keeps_execCommitPlacement {data : Bytes} {s : State} (hs : Kept lasting false false r s) :
    KeptN lasting false false r (execCommitPlacement data s) := by
  unfold execCommitPlacement
  extract_lets s1
  have h2 : ∀ x3 x5, Kept lasting false false r x3 → Kept lasting false false r (s1 x3 x5) :=
      fun x3 x5 h4 => (keeps_ite h4 (keeps_setF h4 rfl))
  exact (keepsN_next (keeps_oem hs (fun _ h6 => by
    split
    · exact (keeps_reply h6)
    · extract_lets s7 s8 s9
      have h10 : Kept lasting false false r s7 := (keeps_putPlacement h6)
      have h11 : Kept lasting false false r s8 := (keeps_mk0 (keeps_at h10))
      have h12 : Kept lasting false false r s9 := (keeps_foldl h11 (fun _ _ h13 => (h2 _ _ h13)))
      refine keeps_ite ?_ ?_
      · exact (keeps_reply h6)
      · exact (keeps_reply (keeps_settle (keeps_retryWaits h12)))
)))

theorem keeps_startWatch {old : State} {s : State} (hold : Kept lasting false dry r old) (hs : Kept lasting false dry r s) :
    Kept lasting false dry r (startWatch old s) := by
  unfold startWatch
  exact (keeps_foldl hs (fun _ _ h1 => (keeps_ite (keeps_mk0 (keeps_at h1)) h1)))

theorem keeps_execSetRecovery {data : Bytes} {s : State} (hs : Kept lasting false dry r s) :
    KeptN lasting false dry r (execSetRecovery data s) := by
  unfold execSetRecovery
  exact (keepsN_next (keeps_oem hs (fun _ h1 => by
    extract_lets t2 t3 t4
    have h5 : Kept lasting false dry r t2 := (keeps_plainWrite (keeps_plainWrite h1))
    have h6 : Kept lasting false dry r t3 := (keeps_plainWrite h5)
    have h7 : Kept lasting false dry r t4 := (keeps_foldl h6 (fun _ _ h8 => (keeps_plainWrite h8)))
    exact (keeps_reply (keeps_startWatch h1 h7))
)))

theorem keeps_execWake {data : Bytes} {s : State} (hs : Kept lasting false false r s) :
    KeptN lasting false false r (execWake data s) := by
  unfold execWake
  exact (keepsN_next (keeps_oem hs (fun _ h1 => (keeps_reply (keeps_ite (keeps_wakeAll h1) h1)))))

theorem keeps_execSetPowerState {data : Bytes} {s : State} (hs : Kept false false false r s) :
    KeptN false false false r (execSetPowerState data s) := by
  unfold execSetPowerState
  extract_lets s1
  exact (keepsN_next (keeps_oem hs (fun _ h2 => (keeps_ite (keeps_reply (keeps_foldl h2 (fun _ _ h3 => (keeps_ite h3
      (keeps_setF h3 rfl))))) (keeps_ite (keeps_reply h2) (keeps_ite (keeps_reply h2) (keeps_blackState (keeps_reply h2))))))))

theorem keeps_execFence {data : Bytes} {bare : Bool} {s : State} (hs : Kept lasting false false r s) :
    KeptN lasting false false r (execFence data bare s) := by
  unfold execFence
  extract_lets d1 s2 n3
  exact (keepsN_next (keeps_oem hs (fun _ h4 => (keeps_ite (keeps_reply h4) (keeps_ite (keeps_reply h4) (keeps_ite (keeps_reply
      (keeps_fenceDie h4)) (keeps_reply (keeps_foldl h4 (fun _ _ h5 => (keeps_fenceStation h5))))))))))

theorem keeps_execAlignTick {data : Bytes} {bare : Bool} {s : State} (hs : Kept lasting false dry r s) :
    KeptN lasting false dry r (execAlignTick data bare s) := by
  unfold execAlignTick
  exact (keepsN_next (keeps_oem hs (fun _ h1 => (keeps_ite (keeps_reply h1) (keeps_reply (keeps_showRoot (keeps_mk0 (keeps_at
      (keeps_setTickTo h1)))))))))

theorem keeps_execWarmReset {data : Bytes} {s : State} (hs : Kept lasting false false r s) :
    KeptN lasting false false r (execWarmReset data s) := by
  unfold execWarmReset
  exact (keepsN_next (keeps_oem hs (fun _ h1 => (keeps_activate (keeps_reply h1)))))

theorem keeps_execColdReset {data : Bytes} {bare : Bool} {straps : Straps} {s : State} (hs : Kept false false false r s) :
    KeptN false false false r (execColdReset data bare straps s) := by
  unfold execColdReset
  exact (keepsN_next (keeps_oem hs (fun _ h1 => (keeps_ite (keeps_reply h1) (keeps_showBudget (keeps_coldReset (keeps_reply
      h1)))))))

theorem keeps_secure {s : State} {data : Bytes} {n : Nat} {secured : Bool} {k : State → State} (hs : Kept lasting calm dry r s)
    (hk : ∀ a0, Kept lasting calm dry r a0 → Kept lasting calm dry r (k a0)) :
    Kept lasting calm dry r (secure s data n secured k) := by
  unfold secure
  exact (keeps_oem hs (fun _ h1 => (keeps_ite (hk _ h1) (keeps_reply h1))))

theorem keeps_execCommitSvn {data : Bytes} {secured : Bool} {s : State} (hs : Kept lasting calm dry r s) :
    KeptN lasting calm dry r (execCommitSvn data secured s) := by
  unfold execCommitSvn
  extract_lets v1
  exact (keepsN_next (keeps_secure hs (fun _ h2 => (keeps_ite (keeps_reply h2) (keeps_reply (keeps_setF h2 rfl))))))

theorem keeps_execRevokeKey {data : Bytes} {secured : Bool} {s : State} (hs : Kept lasting calm dry r s) :
    KeptN lasting calm dry r (execRevokeKey data secured s) := by
  unfold execRevokeKey
  extract_lets k1
  exact (keepsN_next (keeps_secure hs (fun _ h2 => (keeps_ite (keeps_reply h2) (keeps_ite (keeps_reply h2) (keeps_reply
      (keeps_setF h2 rfl)))))))

theorem keeps_execFirmwareUpdate {img : FwImage} {s : State} (hs : Kept lasting false dry r s) :
    KeptN lasting false dry r (execFirmwareUpdate img s) := by
  unfold execFirmwareUpdate
  exact (keepsN_next (keeps_ite (keeps_reply (keeps_mk0 (keeps_at hs))) hs))

theorem keeps_execActivateFirmware {s : State} (hs : Kept lasting calm dry r s) :
    KeptN lasting calm dry r (execActivateFirmware s) := by
  unfold execActivateFirmware
  exact (keepsN_next (keeps_ite (keeps_reply (keeps_setF hs rfl)) hs))

theorem keeps_execLoadKey {data : Bytes} {secured : Bool} {s : State} (hs : Kept lasting false dry r s) :
    KeptN lasting false dry r (execLoadKey data secured s) := by
  unfold execLoadKey
  extract_lets n1 x2
  exact (keepsN_next (keeps_secure hs (fun _ h3 => (keeps_ite (keeps_reply h3) (keeps_reply (keeps_mk0 (keeps_at h3)))))))

theorem keeps_execKeySendSelect {data : Bytes} {secured : Bool} {s : State} (hs : Kept lasting false dry r s) :
    KeptN lasting false dry r (execKeySendSelect data secured s) := by
  unfold execKeySendSelect
  extract_lets s1
  exact (keepsN_next (keeps_secure hs (fun _ h2 => by
    split
    · extract_lets p3
      refine keeps_ite ?_ ?_
      · exact (keeps_reply h2)
      · exact (keeps_reply (keeps_mk0 (keeps_at h2)))
    · exact (keeps_reply h2)
)))

theorem keeps_execKeyEraseSlot {data : Bytes} {secured : Bool} {s : State} (hs : Kept lasting false dry r s) :
    KeptN lasting false dry r (execKeyEraseSlot data secured s) := by
  unfold execKeyEraseSlot
  extract_lets n1
  exact (keepsN_next (keeps_secure hs (fun _ h2 => (keeps_ite (keeps_reply h2) (keeps_reply (keeps_mk0 (keeps_at h2)))))))

theorem keeps_execKeyEraseAll {data : Bytes} {secured : Bool} {s : State} (hs : Kept lasting false dry r s) :
    KeptN lasting false dry r (execKeyEraseAll data secured s) := by
  unfold execKeyEraseAll
  exact (keepsN_next (keeps_secure hs (fun _ h1 => (keeps_reply (keeps_mk0 (keeps_at h1))))))

theorem keeps_execSpdmMessage {session : Nat} {msg : Bytes} {s : State} (hs : Kept lasting false dry r s) :
    KeptN lasting false dry r (execSpdmMessage session msg s) := by
  unfold execSpdmMessage
  extract_lets c1 m2
  exact (keepsN_next (keeps_ite hs (keeps_emit (keeps_mk0 (keeps_at hs)))))

theorem keeps_execPldmSensorRead {kind : Nat} {sensorNo : Nat} {s : State} (hs : Kept lasting calm dry r s) :
    KeptN lasting calm dry r (execPldmSensorRead kind sensorNo s) := by
  unfold execPldmSensorRead
  exact (keepsN_next (keeps_ite hs (by
    split
    · refine keeps_ite ?_ ?_
      · exact (keeps_emit (keepsQ_out ‹_› (keeps_freshFree hs)))
      · refine keeps_ite ?_ ?_
        · exact (keeps_emit (keepsQ_out ‹_› (keeps_freshFree hs)))
        · exact (keeps_emit (keepsQ_out ‹_› (keeps_freshFree hs)))
)))

end Sys2Proof.Laws
end

