-- ==== Sys2Proof/Laws/KeepRest.lean ====
section
/-! SUPPORT. What shards, snapshots, test, register commands, tiles and training keep (see Laws/Keep.lean), one lemma an operation. -/

namespace Sys2Proof.Laws

open Sys2Proof Sys2Proof.Machine

variable {lasting calm dry : Bool} {r s t : State} {α β γ : Type}

theorem keeps_runSh {s : State} {q : Nat} {tag : Nat} {p : Nat → Bool} {run : State → Desc → Nat → State} (hs : Kept lasting
    calm false r s) (hrun : ∀ a0 a1 a2, Kept lasting calm false r a0 → Kept lasting calm false r (run a0 a1 a2)) :
    Kept lasting calm false r (runSh s q tag p run) := by
  unfold runSh
  split
  · exact hs
  · split
    · exact (keeps_settle (keeps_rejectOp hs))
    · refine keeps_ite ?_ ?_
      · exact (keeps_settle (keeps_endOp hs))
      · exact (keeps_settle (hrun _ _ _ hs))

theorem keeps_execShCtlDefine {q : Nat} {tag : Nat} {s : State} (hs : Kept lasting calm false r s) :
    KeptN lasting calm false r (execShCtlDefine q tag s) := by
  unfold execShCtlDefine
  exact (keepsN_next (keeps_runSh hs (fun _ _ _ h1 => by
    extract_lets x2
    exact (keeps_endOp (keeps_setShard h1))
)))

theorem keeps_execShCtlBeginUpdate {q : Nat} {tag : Nat} {s : State} (hs : Kept lasting calm false r s) :
    KeptN lasting calm false r (execShCtlBeginUpdate q tag s) := by
  unfold execShCtlBeginUpdate
  exact (keepsN_next (keeps_runSh hs (fun _ _ _ h1 => (keeps_ite (keeps_addF (keeps_mk (keeps_at (keeps_holdRd (keeps_mk
      (keeps_at h1))))) rfl) (by
      split
      · refine keeps_ite ?_ ?_
        · exact (keeps_endOp (keepsP_out ‹_› (keeps_applyOp1 h1)))
        · exact (keeps_holdRd (keepsP_out ‹_› (keeps_applyOp1 h1)))
)))))

theorem keeps_execShCtlCommit {q : Nat} {tag : Nat} {s : State} (hs : Kept lasting calm false r s) :
    KeptN lasting calm false r (execShCtlCommit q tag s) := by
  unfold execShCtlCommit
  exact (keepsN_next (keeps_runSh hs (fun _ _ _ h1 => by
    extract_lets x2 s3 s4
    have h5 : Kept lasting calm false r s3 := (keeps_setShard h1)
    have h6 : Kept lasting calm false r s4 := (keeps_foldl h5 (fun _ _ h7 => (keeps_applyForce h7)))
    exact (keeps_endOp h6)
)))

theorem keeps_execShCtlQuery {q : Nat} {tag : Nat} {s : State} (hs : Kept lasting calm false r s) :
    KeptN lasting calm false r (execShCtlQuery q tag s) := by
  unfold execShCtlQuery
  exact (keepsN_next (keeps_runSh hs (fun _ _ _ h1 => by
    extract_lets x2 b3
    exact (keeps_runOut h1)
)))

theorem keeps_execShCtlFree {q : Nat} {tag : Nat} {s : State} (hs : Kept lasting calm false r s) :
    KeptN lasting calm false r (execShCtlFree q tag s) := by
  unfold execShCtlFree
  exact (keepsN_next (keeps_runSh hs (fun _ _ _ h1 => (keeps_endOp (keeps_setShard h1)))))

theorem keeps_endSn {s : State} {d : Desc} {status : Nat} {reason : Nat} {gen : Nat} {eflags : Nat} (hs : Kept lasting calm
    false r s) :
    Kept lasting calm false r (endSn s d status reason gen eflags) := by
  unfold endSn
  exact (keeps_settle (keeps_completeDesc hs))

theorem keeps_runSn {s : State} {q : Nat} {tag : Nat} {op : Nat} {checks : State → Desc → List (Nat × Bool)} {run : State →
    Desc → State} (hs : Kept lasting calm false r s) (hrun : ∀ a0 a1, Kept lasting calm false r a0 → Kept lasting calm false r
    (run a0 a1)) :
    Kept lasting calm false r (runSn s q tag op checks run) := by
  unfold runSn
  split
  · exact hs
  · split
    · exact (keeps_endSn hs)
    · exact (hrun _ _ hs)

theorem keeps_execSnDefine {q : Nat} {tag : Nat} {s : State} (hs : Kept lasting calm false r s) :
    KeptN lasting calm false r (execSnDefine q tag s) := by
  unfold execSnDefine
  exact (keepsN_next (keeps_runSn hs (fun _ _ h1 => by
    extract_lets k2 n3
    split
    · extract_lets n4 x5
      refine keeps_ite ?_ ?_
      · exact (keeps_endSn h1)
      · refine keeps_ite ?_ ?_
        · exact (keeps_endSn h1)
        · exact (keeps_endSn (keeps_setSet h1))
)))

theorem keeps_holdSn {s : State} {q : Nat} {tag : Nat} (hs : Kept lasting calm dry r s) :
    Kept lasting calm dry r (holdSn s q tag) := by
  unfold holdSn
  extract_lets k1
  split
  · exact hs
  · extract_lets s2
    have h3 : Kept lasting calm dry r s2 := (keeps_setFifo hs)
    exact (keeps_updDesc h3)

theorem keeps_freeSn {s : State} {q : Nat} {tag : Nat} {status : Nat} {gen : Nat} {eflags : Nat} (hs : Kept lasting calm false
    r s) :
    Kept lasting calm false r (freeSn s q tag status gen eflags) := by
  unfold freeSn
  extract_lets k1 m2 s3 s4 b5
  have h6 : Kept lasting calm false r s3 := (keeps_setFifo hs)
  split
  · exact hs
  · exact (keeps_maybeComplete (keeps_updDesc h6))

theorem keeps_execSnTake {q : Nat} {tag : Nat} {s : State} (hs : Kept lasting calm false r s) :
    KeptN lasting calm false r (execSnTake q tag s) := by
  unfold execSnTake
  exact (keepsN_next (by
    split
    · exact hs
    · extract_lets i1 n2 l3 r4
      refine keeps_ite ?_ ?_
      · exact hs
      · exact (keeps_runSn hs (fun _ _ h5 => (keeps_holdSn (keeps_updSet h5))))
))

theorem keeps_afterReads {s : State} {n : Nat} (hs : Kept lasting calm dry r s) :
    Kept lasting calm dry r (afterReads s n) := by
  unfold afterReads
  split
  · exact hs
  · split
    · exact hs
    · refine keeps_ite ?_ ?_
      · exact hs
      · refine keeps_ite ?_ ?_
        · exact (keeps_startPartner hs)
        · exact hs

theorem keeps_failLayers {s : State} {n : Nat} {status : Nat} (hs : Kept lasting calm dry r s) :
    Kept lasting calm dry r (failLayers s n status) := by
  unfold failLayers
  exact (keeps_foldl hs (fun _ _ h1 => (keeps_endLayer h1)))

theorem keeps_failCapture {s : State} {n : Nat} {r0 : SnRun} {status : Nat} (hs : Kept lasting calm false r s) :
    Kept lasting calm false r (failCapture s n r0 status) := by
  unfold failCapture
  extract_lets s1 s2
  have h3 : Kept lasting calm false r s1 := (keeps_freeSn hs)
  have h4 : Kept lasting calm false r s2 := (keeps_updRun h3)
  refine keeps_ite ?_ ?_
  · exact (keeps_endRun h4)
  · exact (keeps_failLayers h4)

theorem keeps_execCaptureDone {set : Nat} {s : State} (hs : Kept lasting calm false r s) :
    KeptN lasting calm false r (execCaptureDone set s) := by
  unfold execCaptureDone
  exact (keepsN_next (by
    split
    · exact hs
    · extract_lets p1
      split
      · exact hs
      · extract_lets i2 i3 s4 s5 s6
        have h7 : Kept lasting calm false r s4 := (keeps_setSet (keeps_mk (keeps_at hs)))
        have h8 : Kept lasting calm false r s5 := (keeps_freeSn h7)
        have h9 : Kept lasting calm false r s6 := (keeps_ite (keeps_endRun h8) (keeps_afterReads h8))
        refine keeps_ite ?_ ?_
        · exact hs
        · refine keeps_ite ?_ ?_
          · exact (keeps_settle (keeps_updSet hs))
          · split
            · exact (keeps_runRings (keeps_settle (keeps_failCapture hs)))
            · exact (keeps_runRings (keeps_settle h9))
))

theorem keeps_execSnapshotExtentRead {set : Nat} {extent : Nat} {s : State} (hs : Kept lasting calm false r s) :
    KeptN lasting calm false r (execSnapshotExtentRead set extent s) := by
  unfold execSnapshotExtentRead
  exact (keepsN_next (by
    split
    · exact hs
    · split
      · exact hs
      · extract_lets p1
        refine keeps_ite ?_ ?_
        · exact hs
        · split
          · exact hs
          · split
            · extract_lets s2 s3
              have h4 : Kept lasting calm false r s2 := (by
                  unfold s2
                  split
                  · exact (keeps_mk (keeps_at hs))
                  · exact hs
)
              have h5 : Kept lasting calm false r s3 := (keeps_updRun h4)
              refine keeps_ite ?_ ?_
              · exact (keeps_runRings (keeps_settle (keeps_failLayers hs)))
              · exact (keeps_runRings (keeps_settle (keeps_afterReads h5)))
))

theorem keeps_sendPkt {s : State} {c : Nat} {p : RocePkt} (hs : Kept lasting calm dry r s) :
    Kept lasting calm dry r (sendPkt s c p) := by
  unfold sendPkt
  split
  · refine keeps_ite ?_ ?_
    · exact hs
    · exact (keeps_emit hs)
  · exact hs

theorem keeps_queuePkts {s : State} {c : Nat} {a : List (Nat × Nat × Nat × Bytes × Nat)} (hs : Kept lasting calm dry r s) :
    Kept lasting calm dry r (queuePkts s c a) := by
  induction a generalizing s with
  | nil => exact hs
  | cons x l ih =>
    obtain ⟨kind, remote, rkey, data, set⟩ := x
    unfold queuePkts
    split
    · exact hs
    · exact ih (keeps_sendPkt (keeps_mk (keeps_at hs)))

theorem keeps_startShared {s : State} {n : Nat} {r0 : SnRun} {img : SnImage} (hs : Kept lasting calm dry r s) :
    Kept lasting calm dry r (startShared s n r0 img) := by
  unfold startShared
  split
  · exact (keeps_endLayer hs)
  · exact (keeps_queuePkts hs)

theorem keeps_execLocalLayerCommit {set : Nat} {ok : Bool} {s : State} (hs : Kept lasting calm false r s) :
    KeptN lasting calm false r (execLocalLayerCommit set ok s) := by
  unfold execLocalLayerCommit
  extract_lets s1
  exact (keepsN_next (by
    split
    · extract_lets i2 s3
      have h4 : Kept lasting calm false r s3 := (keeps_mk (keeps_at hs))
      split
      · exact hs
      · extract_lets s5 s6
        have h7 : Kept lasting calm false r s5 := (keeps_setSet h4)
        have h8 : Kept lasting calm false r s6 := (keeps_endLayer h7)
        refine keeps_ite ?_ ?_
        · exact hs
        · refine keeps_ite ?_ ?_
          · exact (keeps_runRings (keeps_settle (keeps_endLayer (keeps_endLayer hs))))
          · exact (keeps_runRings (keeps_settle (keeps_ite (keeps_startShared h8) h8)))
    · exact hs
))

theorem keeps_execSharedLayerCommit {set : Nat} {s : State} (hs : Kept lasting calm false r s) :
    KeptN lasting calm false r (execSharedLayerCommit set s) := by
  unfold execSharedLayerCommit
  exact (keepsN_next (by
    split
    · exact hs
    · refine keeps_ite ?_ ?_
      · exact hs
      · exact (keeps_runRings (keeps_settle (keeps_endLayer (keeps_updSet hs))))
))

theorem keeps_failConn {s : State} {c : Nat} (hs : Kept lasting calm dry r s) :
    Kept lasting calm dry r (failConn s c) := by
  unfold failConn
  extract_lets s1 h2
  have h3 : Kept lasting calm dry r s1 := (by
      unfold s1
      split
      · exact (keeps_mk (keeps_at hs))
      · exact hs
)
  exact (keeps_foldl h3 (fun _ _ h4 => (keeps_endLayer h4)))

theorem keeps_execRoceRetransmitTimeout {conn : Nat} {s : State} (hs : Kept lasting calm false r s) :
    KeptN lasting calm false r (execRoceRetransmitTimeout conn s) := by
  unfold execRoceRetransmitTimeout
  exact (keepsN_next (by
    split
    · exact hs
    · extract_lets s1
      have h2 : Kept lasting calm false r s1 := (keeps_mk (keeps_at hs))
      refine keeps_ite ?_ ?_
      · exact hs
      · refine keeps_ite ?_ ?_
        · exact (keeps_runRings (keeps_settle (keeps_failConn hs)))
        · exact (keeps_foldl h2 (fun _ _ h3 => (keeps_sendPkt h3)))
))

theorem keeps_execCongestionNotification {conn : Nat} {s : State} (hs : Kept lasting calm dry r s) :
    KeptN lasting calm dry r (execCongestionNotification conn s) := by
  unfold execCongestionNotification
  exact (keepsN_next (by
    split
    · exact (keeps_mk (keeps_at hs))
    · exact hs
))

theorem keeps_execRoceResponseReceive {conn : Nat} {psn : Nat} {_data : Bytes} {s : State} (hs : Kept lasting calm dry r s) :
    KeptN lasting calm dry r (execRoceResponseReceive conn psn _data s) := by
  unfold execRoceResponseReceive
  extract_lets a1
  exact (keepsN_next (by
    split
    · exact hs
    · refine keeps_ite ?_ ?_
      · exact hs
      · exact (keeps_mk (keeps_at hs))
))

theorem keeps_execPfcPauseFrame {sport : Nat} {prio : Nat} {quanta : Nat} {s : State} (hs : Kept lasting false dry r s) :
    KeptN lasting false dry r (execPfcPauseFrame sport prio quanta s) := by
  unfold execPfcPauseFrame
  extract_lets k1 w2 s3
  have h4 : Kept lasting false dry r s3 := (keeps_mk0 (keeps_at hs))
  exact (keepsN_next (keeps_ite hs (keeps_ite (keeps_foldl h4 (fun _ _ h5 => (keeps_foldl h5 (fun _ _ h6 => (keeps_emit h6)))))
      h4)))

theorem keeps_execSnConn {q : Nat} {tag : Nat} {s : State} (hs : Kept lasting calm false r s) :
    KeptN lasting calm false r (execSnConn q tag s) := by
  unfold execSnConn
  exact (keepsN_next (keeps_runSn hs (fun _ _ h1 => by
    extract_lets c2 s3
    have h4 : Kept lasting calm false r s3 := (keeps_failConn h1)
    refine keeps_ite ?_ ?_
    · exact (keeps_endSn (keeps_mk (keeps_at h4)))
    · split
      · extract_lets m5
        refine keeps_ite ?_ ?_
        · exact (keeps_endSn h1)
        · refine keeps_ite ?_ ?_
          · exact (keeps_endSn h1)
          · exact (keeps_endSn (keeps_mk (keeps_at h4)))
)))

theorem keeps_writeExts {s : State} {die : Nat} {fn : Nat} {a : List SnExtent} {a4 : List Bytes} (hs : Kept lasting calm false
    r s) :
    KeptP lasting calm false r (writeExts s die fn a a4) := by
  induction a generalizing s a4 with
  | nil => exact hs
  | cons e es ih =>
    cases a4 with
    | nil => exact hs
    | cons x bs =>
      have h : KeptP lasting calm false r (jobWrite s die fn e.va x 0) := keeps_jobWrite hs
      unfold writeExts
      split
      · exact ih (keepsP_out ‹_› h)
      · exact keepsP_mk (keepsP_out ‹_› h)

theorem keeps_takeBack {s : State} {die : Nat} {cls : Nat} (hs : Kept lasting calm dry r s) :
    Kept lasting calm dry r (takeBack s die cls) := by
  unfold takeBack
  refine keeps_ite ?_ ?_
  · exact (keeps_subF hs rfl)
  · exact (keeps_subF hs rfl)

theorem keeps_dropSeqs {s : State} {fn : Nat} (hs : Kept lasting calm false r s) :
    Kept lasting calm false r (dropSeqs s fn) := by
  unfold dropSeqs
  exact (keeps_foldl hs (fun _ _ h1 => by
    split
    · exact (keeps_releaseRegions (keeps_mk (keeps_at (keepsQ_out ‹_› (keeps_unmapPages h1)))))
))

theorem keeps_restorePage {s : State} {n : Nat} {x : SeqRec} {i : Nat} {it : SnItem} (hs : Kept lasting calm dry r s) :
    Kept lasting calm dry r (restorePage s n x i it) := by
  unfold restorePage
  extract_lets t1 r2 o3 e4 s5
  have h6 : Kept lasting calm dry r s5 := (keeps_ite (keeps_takeBack hs) hs)
  exact (keeps_syncPage (keeps_setPageEnt h6))

theorem keeps_restoreSeq {s : State} {fn : Nat} {items : List SnItem} {it : SnItem} (hs : Kept lasting calm dry r s) :
    Kept lasting calm dry r (restoreSeq s fn items it) := by
  unfold restoreSeq
  extract_lets n1 d2 b3 s4 c5
  refine keeps_ite ?_ ?_
  · exact hs
  · split
    · exact hs
    · extract_lets x6 s7 s8
      have h9 : Kept lasting calm dry r s7 := (keeps_setSeq hs)
      have h10 : Kept lasting calm dry r s8 := (keeps_foldl h9 (fun _ _ h11 => (keeps_restorePage h11)))
      exact (keeps_showPg h10)

theorem keeps_restoreMap {s : State} {fn : Nat} {items : List SnItem} (hs : Kept lasting calm false r s) :
    Kept lasting calm false r (restoreMap s fn items) := by
  unfold restoreMap
  extract_lets d1 s2 s3
  have h4 : Kept lasting calm false r s2 := (keeps_dropSeqs (keeps_foldl hs (fun _ _ h5 => (keeps_swapBanksPg h5))))
  have h6 : Kept lasting calm false r s3 := (keeps_foldl h4 (fun _ _ h7 => (keeps_restoreSeq h7)))
  exact (keeps_foldl h6 (fun _ _ h8 => (keeps_advanceAll h8)))

theorem keeps_restoreTables {s : State} {x : SnSet} {items : List SnItem} (hs : Kept lasting calm dry r s) :
    Kept lasting calm dry r (restoreTables s x items) := by
  unfold restoreTables
  extract_lets o1 s2 s3
  have h4 : Kept lasting calm dry r s2 := (keeps_ite (keeps_mk (keeps_at hs)) hs)
  have h5 : Kept lasting calm dry r s3 := (keeps_ite (keeps_mk (keeps_at h4)) h4)
  exact (keeps_foldl h5 (fun _ _ h6 => by
    extract_lets k7
    exact (keeps_mk (keeps_at h6))
))

theorem keeps_restoreExperts {s : State} {items : List SnItem} (hs : Kept lasting calm dry r s) :
    Kept lasting calm dry r (restoreExperts s items) := by
  unfold restoreExperts
  exact (keeps_foldl hs (fun _ _ h1 => by
    extract_lets b2 t3 t4
    exact (keeps_setF (keeps_mk (keeps_at h1)) rfl)
))

theorem keeps_restoreState {s : State} {d : Desc} {x : SnSet} {img : SnImage} (hs : Kept lasting calm false r s) :
    KeptP lasting calm false r (restoreState s d x img) := by
  unfold restoreState
  extract_lets p1
  split
  · extract_lets s2 s3 s4
    have h5 : Kept lasting calm false r s2 := (keeps_restoreTables (keepsP_out ‹_› (keeps_writeExts hs)))
    have h6 : Kept lasting calm false r s3 := (keeps_ite (keeps_restoreMap h5) h5)
    have h7 : Kept lasting calm false r s4 := (keeps_ite (keeps_restoreExperts h6) h6)
    refine keepsP_ite ?_ ?_
    · exact (keepsP_mk h7)
    · exact (keeps_jobWrite h7)
  · exact (keepsP_mk (keepsP_out ‹_› (keeps_writeExts hs)))

theorem keeps_restoreShards {s : State} {img : SnImage} (hs : Kept lasting calm false r s) :
    Kept lasting calm false r (restoreShards s img) := by
  unfold restoreShards
  exact (keeps_foldl hs (fun _ _ h1 => (keeps_forceShard h1)))

theorem keeps_execSnRestore {q : Nat} {tag : Nat} {image : Option SnImage} {s : State} (hs : Kept lasting calm false r s) :
    KeptN lasting calm false r (execSnRestore q tag image s) := by
  unfold execSnRestore
  exact (keepsN_next (keeps_runSn hs (fun _ _ h1 => by
    extract_lets n2 g3 p4
    split
    · refine keeps_ite ?_ ?_
      · exact (keeps_endSn (keeps_addF h1 rfl))
      · split
        · split
          · extract_lets s5 s6
            have h7 : Kept lasting calm false r s5 := (keeps_restoreShards (keepsP_out ‹_› (keepsP_ite (keeps_writeExts
                (keepsP_out ‹_› (keepsP_ite (keeps_restoreState h1) (keepsP_mk h1)))) (keepsP_mk (keepsP_out ‹_› (keepsP_ite
                (keeps_restoreState h1) (keepsP_mk h1)))))))
            have h8 : Kept lasting calm false r s6 := (keeps_ite (keeps_updSet h7) h7)
            exact (keeps_runRings (keeps_endSn h8))
          · exact (keeps_endSn (keepsP_out ‹_› (keepsP_ite (keeps_writeExts (keepsP_out ‹_› (keepsP_ite (keeps_restoreState h1)
              (keepsP_mk h1)))) (keepsP_mk (keepsP_out ‹_› (keepsP_ite (keeps_restoreState h1) (keepsP_mk h1)))))))
        · exact (keeps_endSn (keepsP_out ‹_› (keepsP_ite (keeps_restoreState h1) (keepsP_mk h1))))
    · exact (keeps_endSn h1)
)))

theorem keeps_allowed {s : State} {src : Src} {kind : Fld} {off : Nat} {k : State → State} (hs : Kept lasting calm dry r s)
    (hkind : apart kind = true) (hk : ∀ a0, Kept lasting calm dry r a0 → Kept lasting calm dry r (k a0)) :
    Kept lasting calm dry r (allowed s src kind off k) := by
  unfold allowed
  refine keeps_ite ?_ ?_
  · exact (hk _ hs)
  · refine keeps_ite ?_ ?_
    · exact (keeps_logErr hs)
    · exact hs

theorem keeps_showAtb {s : State} (hs : Kept lasting calm dry r s) :
    Kept lasting calm dry r (showAtb s) := by
  unfold showAtb
  extract_lets a1 b2
  exact (keeps_emit (keeps_emit hs))

theorem keeps_execAtbSelect {src : Src} {die : Nat} {value : Nat} {s : State} (hs : Kept lasting false dry r s) :
    KeptN lasting false dry r (execAtbSelect src die value s) := by
  unfold execAtbSelect
  extract_lets a1 b2 p3
  have h4 : ∀ x5, Kept lasting false dry r x5 → Kept lasting false dry r (p3 x5) := fun x5 h6 => by
    unfold p3
    extract_lets s7
    have h8 : Kept lasting false dry r s7 := (keeps_setF (keeps_setF h6 rfl) rfl)
    exact (keeps_showAtb (keeps_setF h8 rfl))

  exact (keepsN_next (keeps_pfWrite hs (fun _ h9 => (keeps_ite (h4 _ h9) (keeps_allowed h9 rfl h4)))))

theorem keeps_execAtbRoute {src : Src} {value : Nat} {s : State} (hs : Kept lasting false dry r s) :
    KeptN lasting false dry r (execAtbRoute src value s) := by
  unfold execAtbRoute
  extract_lets p1
  have h2 : ∀ x3, Kept lasting false dry r x3 → Kept lasting false dry r (p1 x3) := fun x3 h4 => by
    unfold p1
    extract_lets s5 s6 s7
    have h8 : Kept lasting false dry r s5 := (keeps_setF (keeps_setF h4 rfl) rfl)
    have h9 : Kept lasting false dry r s6 := (keeps_setF (keeps_setF h8 rfl) rfl)
    have h10 : Kept lasting false dry r s7 := (keeps_ite (keeps_showObs (keeps_setF (keeps_setF h9 rfl) rfl)) h9)
    exact (keeps_showAtb h10)

  exact (keepsN_next (keeps_pfWrite hs (fun _ h11 => (keeps_ite (keeps_allowed h11 rfl h2) (h2 _ h11)))))

theorem keeps_execBistStart {src : Src} {die : Nat} {value : Nat} {s : State} (hs : Kept lasting false dry r s) :
    KeptN lasting false dry r (execBistStart src die value s) := by
  unfold execBistStart
  extract_lets t1
  exact (keepsN_next (keeps_pfWrite hs (fun _ h2 => (keeps_ite (keeps_setF h2 rfl) (keeps_allowed h2 rfl (fun _ h3 => by
      extract_lets o4 s5
      have h6 : Kept lasting false dry r s5 := (keeps_setF h3 rfl)
      refine keeps_ite ?_ ?_
      · exact (keeps_setF (keeps_setF (keeps_mk0 (keeps_at h6)) rfl) rfl)
      · exact (keeps_setF h6 rfl)
))))))

theorem keeps_clearPool {s : State} {die : Nat} (hs : Kept lasting calm false r s) : Kept lasting calm false r (clearPool s
    die) := by
  unfold clearPool
  exact keeps_mk { hs with
    c_tokens := tabWf_filter _ (keeps_wfTokens hs)
    c_mem := wf_zeroBytes _ _ (keeps_wfMem hs)
    c_dry := fun e => nomatch e }

theorem keeps_clearShadow {s : State} {die : Nat} (hs : Kept lasting calm dry r s) :
    Kept lasting calm dry r (clearShadow s die) := by
  unfold clearShadow
  extract_lets l1
  exact (keeps_mk (keeps_at hs))

theorem keeps_bistLeaves {s : State} {die : Nat} {target : Nat} (hs : Kept lasting calm false r s) :
    Kept lasting calm false r (bistLeaves s die target) := by
  unfold bistLeaves
  refine keeps_ite ?_ ?_
  · exact (keeps_clearPool hs)
  · refine keeps_ite ?_ ?_
    · exact (keeps_clearShadow hs)
    · exact hs

theorem keeps_bistFail {s : State} {die : Nat} {target : Nat} {u : Nat} (hs : Kept lasting false false r s) :
    Kept lasting false false r (bistFail s die target u) := by
  unfold bistFail
  split
  · exact (keeps_fenceDie (keeps_repRec hs))
  · exact (keeps_fenceStation (keeps_repRec hs))
  · exact (keeps_fenceStation (keeps_repRec hs))
  · exact (keeps_fenceStation (keeps_repRec hs))

theorem keeps_execBistDone {die : Nat} {failed : List Nat} {s : State} (hs : Kept lasting false false r s) :
    KeptN lasting false false r (execBistDone die failed s) := by
  unfold execBistDone
  extract_lets s1 s2
  have h3 : Kept lasting false false r s1 := (keeps_setF (keeps_mk0 (keeps_at hs)) rfl)
  have h4 : Kept lasting false false r s2 := (keeps_setF (keeps_setF h3 rfl) rfl)
  exact (keepsN_next (by
    split
    · exact hs
    · extract_lets s5 s6
      have h7 : Kept lasting false false r s5 := (keeps_bistLeaves h4)
      have h8 : Kept lasting false false r s6 := (keeps_foldl h7 (fun _ _ h9 => (keeps_bistFail h9)))
      refine keeps_ite ?_ ?_
      · exact (keeps_settle (keeps_pumpRebuild h8))
      · exact h8
))

theorem keeps_abandonMargin {s : State} {die : Nat} (hs : Kept lasting false false r s) :
    Kept lasting false false r (abandonMargin s die) := by
  unfold abandonMargin
  exact (keeps_setF (keeps_endMargin hs) rfl)

theorem keeps_beginMargin {s : State} {die : Nat} {t : Nat} {repair : Bool} (hs : Kept lasting false false r s) :
    Kept lasting false false r (beginMargin s die t repair) := by
  unfold beginMargin
  extract_lets s1 s2 n3 s4 s5 p6
  have h7 : Kept lasting false false r s1 := (keeps_mk0 (keeps_at hs))
  have h8 : Kept lasting false false r s2 := (keeps_setF (keeps_setF h7 rfl) rfl)
  have h9 : Kept lasting false false r s4 := (keeps_leavePool h8)
  have h10 : Kept lasting false false r s5 := (keeps_drainOut (keeps_mk0 (keeps_at h9)))
  refine keeps_ite ?_ ?_
  · refine keeps_ite ?_ ?_
    · exact (keeps_abandonMargin h10)
    · exact h10
  · exact (keeps_settle (keeps_toRetrain (keeps_mk0 (keeps_at h8))))

theorem keeps_execMarginStart {src : Src} {die : Nat} {value : Nat} {s : State} (hs : Kept lasting false false r s) :
    KeptN lasting false false r (execMarginStart src die value s) := by
  unfold execMarginStart
  extract_lets t1 p2
  have h3 : ∀ x4, Kept lasting false false r x4 → Kept lasting false false r (p2 x4) :=
      fun x4 h5 => (keeps_setF (keeps_setF h5 rfl) rfl)
  exact (keepsN_next (keeps_ite hs (keeps_pfWrite hs (fun _ h6 => (keeps_ite (h3 _ h6) (keeps_allowed h6 rfl (fun _ h7 =>
      (keeps_ite (keeps_setF (h3 _ h7) rfl) (keeps_beginMargin (h3 _ h7))))))))))

theorem keeps_execMarginHoldBegin {die : Nat} {s : State} (hs : Kept lasting false false r s) :
    KeptN lasting false false r (execMarginHoldBegin die s) := by
  unfold execMarginHoldBegin
  exact (keepsN_next (by
    split
    · exact hs
    · extract_lets n1
      refine keeps_ite ?_ ?_
      · exact hs
      · refine keeps_ite ?_ ?_
        · exact (keeps_abandonMargin hs)
        · refine keeps_ite ?_ ?_
          · exact (keeps_mk0 (keeps_at hs))
          · exact hs
))

theorem keeps_fixLane {die : Nat} {n : Nat} {repair : Bool} {p : State × Bool} {chan : Nat} {lane : Nat} {x : LaneMargins} {y :
    LaneMargins} (hp : KeptP lasting false dry r p) :
    KeptP lasting false dry r (fixLane die n repair p chan lane x y) := by
  unfold fixLane
  extract_lets s1 b2 u3 k4 u5
  have h6 : Kept lasting false dry r s1 := (keepsP_fst hp)
  refine keepsP_ite ?_ ?_
  · exact hp
  · refine keepsP_ite ?_ ?_
    · exact (keepsP_mk (keeps_logRepair h6))
    · refine keepsP_ite ?_ ?_
      · exact (keepsP_mk (keeps_logRepair h6))
      · exact (keepsP_mk (keeps_logRepair (keeps_mk0 (keeps_at h6))))

theorem keeps_fixRow {die : Nat} {n : Nat} {repair : Bool} {s : State} {pc : Nat} {bank : Nat} {row : Nat} (hs : Kept lasting
    false dry r s) :
    Kept lasting false dry r (fixRow die n repair s pc bank row) := by
  unfold fixRow
  extract_lets u1 k2 v3 l4
  refine keeps_ite ?_ ?_
  · exact hs
  · refine keeps_ite ?_ ?_
    · exact (keeps_logRepair hs)
    · refine keeps_ite ?_ ?_
      · exact (keeps_logRepair hs)
      · exact (keeps_logRepair (keeps_mk0 (keeps_at hs)))

theorem keeps_fixStack {s : State} {die : Nat} {n : Nat} {repair : Bool} {found : List Finding} (hs : Kept lasting false dry r s) :
    KeptP lasting false dry r (fixStack s die n repair found) := by
  unfold fixStack
  exact (keepsP_foldl (keepsP_mk hs) (fun _ _ h1 => by
    split
    · exact (keeps_fixLane h1)
    · exact (keepsP_mk (keeps_fixRow (keepsP_fst h1)))
))

theorem keeps_fixPort {s : State} {die : Nat} {p : Nat} {repair : Bool} {found : List Finding} (hs : Kept lasting false dry r s) :
    KeptP lasting false dry r (fixPort s die p repair found) := by
  unfold fixPort
  extract_lets w1 g2 c3 s4 s5
  have h6 : Kept lasting false dry r s4 := (keeps_foldl hs (fun _ _ h7 => by
      split
      · extract_lets b8
        refine keeps_ite ?_ ?_
        · exact h7
        · refine keeps_ite ?_ ?_
          · exact (keeps_logRepair h7)
          · refine keeps_ite ?_ ?_
            · exact (keeps_logRepair h7)
            · exact (keeps_logRepair h7)
      · exact h7
))
  refine keepsP_ite ?_ ?_
  · exact (keepsP_mk h6)
  · refine keepsP_ite ?_ ?_
    · exact (keepsP_mk (keeps_setF (keeps_setPort h6) rfl))
    · exact (keepsP_mk h6)

theorem keeps_execMarginRunDone {die : Nat} {lane : Nat} {margin : Nat} {found : List Finding} {s : State} (hs : Kept lasting
    false false r s) :
    KeptN lasting false false r (execMarginRunDone die lane margin found s) := by
  unfold execMarginRunDone
  exact (keepsN_next (by
    split
    · exact hs
    · extract_lets n1
      refine keeps_ite ?_ ?_
      · exact (keeps_endMargin hs)
      · refine keeps_ite ?_ ?_
        · exact hs
        · split
          · extract_lets s2
            have h3 : Kept lasting false false r s2 := (keeps_setF (keeps_setF (keepsP_out ‹_› (keepsP_ite (keeps_fixStack hs)
                (keeps_fixPort hs))) rfl) rfl)
            exact (keeps_endMargin (keeps_setF h3 rfl))
))

theorem keeps_after {o : Host.Outcome State Fault Refusal} {s : State} (ho : KeptN lasting calm dry r o) (hs : Kept lasting
    calm dry r s) :
    Kept lasting calm dry r (after o s) := by
  unfold after
  split
  · exact (keepsN_pair ‹_›)
  · exact hs

theorem keeps_pfOnly {s : State} {src : Src} {k : State → State} (hs : Kept lasting calm dry r s) (hk : ∀ a0, Kept lasting calm
    dry r a0 → Kept lasting calm dry r (k a0)) :
    Kept lasting calm dry r (pfOnly s src k) := by
  unfold pfOnly
  split
  · refine keeps_ite ?_ ?_
    · exact (hk _ hs)
    · exact hs
  · exact (hk _ hs)

theorem keeps_writeQueueReg {s : State} {src : Src} {die : Nat} {off : Nat} {v : Nat} (hs : Kept lasting false false r s) :
    Kept lasting false false r (writeQueueReg s src die off v) := by
  unfold writeQueueReg
  extract_lets q1 r2
  exact (keeps_ownedWrite hs (fun _ h3 => (keeps_ite (keeps_writeQCtrl h3) (keeps_ite h3 (keeps_ite (keeps_logErr h3)
      (keeps_plainWrite h3))))))

theorem keeps_writeRingReg {s : State} {src : Src} {die : Nat} {off : Nat} {v : Nat} (hs : Kept lasting false dry r s) :
    Kept lasting false dry r (writeRingReg s src die off v) := by
  unfold writeRingReg
  extract_lets r1 r2
  exact (keeps_ownedWrite hs (fun _ h3 => (keeps_ite (keeps_writeRingCfg h3) (keeps_ite (keeps_logErr h3) (keeps_plainWrite h3)))))

theorem keeps_writeStall {s : State} {die : Nat} {v : Nat} (hs : Kept lasting calm dry r s) :
    Kept lasting calm dry r (writeStall s die v) := by
  unfold writeStall
  split
  · extract_lets x1
    exact (keeps_mk (keeps_at hs))
  · exact hs

theorem keeps_writeTokOwn {s : State} {src : Src} {die : Nat} {off : Nat} {v : Nat} (hs : Kept lasting false false r s) :
    Kept lasting false false r (writeTokOwn s src die off v) := by
  unfold writeTokOwn
  extract_lets t1
  have h2 : Kept lasting false false r t1 := (keeps_plainWrite hs)
  refine keeps_ite ?_ ?_
  · exact h2
  · exact (keeps_settle (keeps_allocToks h2))

theorem keeps_writePool {s : State} {src : Src} {die : Nat} {off : Nat} {v : Nat} (hs : Kept lasting false dry r s) :
    Kept lasting false dry r (writePool s src die off v) := by
  unfold writePool
  refine keeps_ite ?_ ?_
  · exact (keeps_logErr hs)
  · refine keeps_ite ?_ ?_
    · exact (keeps_plainWrite hs)
    · exact (keeps_layPool (keeps_plainWrite hs))

theorem keeps_writeWindow {s : State} {src : Src} {die : Nat} {off : Nat} {v : Nat} (hs : Kept lasting false dry r s) :
    Kept lasting false dry r (writeWindow s src die off v) := by
  unfold writeWindow
  extract_lets k1 w2 p3 l4
  have h5 : ∀ x6, Kept lasting false dry r (p3 x6) := fun x6 => (keeps_mk0 (keeps_at hs))
  refine keeps_ite ?_ ?_
  · exact (h5 _)
  · refine keeps_ite ?_ ?_
    · exact (keeps_logErr hs)
    · refine keeps_ite ?_ ?_
      · exact (keeps_mk0 (keeps_at hs))
      · refine keeps_ite ?_ ?_
        · exact (h5 _)
        · exact (h5 _)

theorem keeps_writeComp {s : State} {src : Src} {die : Nat} {off : Nat} {v : Nat} (hs : Kept lasting false false r s) :
    Kept lasting false false r (writeComp s src die off v) := by
  unfold writeComp
  refine keeps_ite ?_ ?_
  · exact (keeps_writeQueueReg hs)
  · refine keeps_ite ?_ ?_
    · exact (keeps_writeRingReg hs)
    · refine keeps_ite ?_ ?_
      · exact (keeps_pfOnly hs (fun _ h1 => (keeps_writeTokOwn h1)))
      · refine keeps_ite ?_ ?_
        · exact (keeps_pfOnly hs (fun _ h2 => (keeps_writeStall h2)))
        · refine keeps_ite ?_ ?_
          · exact (keeps_after (keeps_execMxCntClear hs) hs)
          · refine keeps_ite ?_ ?_
            · exact (keeps_after (keeps_execAtCntClear hs) hs)
            · refine keeps_ite ?_ ?_
              · exact (keeps_after (keeps_execQueScClear hs) hs)
              · refine keeps_ite ?_ ?_
                · exact (keeps_pfOnly hs (fun _ h3 => (keeps_writePool h3)))
                · refine keeps_ite ?_ ?_
                  · exact (keeps_pfOnly hs (fun _ h4 => (keeps_writeWindow h4)))
                  · refine keeps_ite ?_ ?_
                    · exact (keeps_pfOnly hs (fun _ h5 => (keeps_startStep (keeps_plainWrite h5))))
                    · refine keeps_ite ?_ ?_
                      · exact (keeps_after (keeps_execGvManualSet hs) hs)
                      · refine keeps_ite ?_ ?_
                        · exact (keeps_after (keeps_execGvFreqWrite hs) hs)
                        · refine keeps_ite ?_ ?_
                          · exact (keeps_after (keeps_execGvVoltWrite hs) hs)
                          · exact (keeps_pfOnly hs (fun _ h6 => (keeps_plainWrite h6)))

theorem keeps_writeFloor {s : State} {src : Src} {die : Nat} {off : Nat} {v : Nat} (hs : Kept lasting false dry r s) :
    Kept lasting false dry r (writeFloor s src die off v) := by
  unfold writeFloor
  extract_lets c1 f2
  refine keeps_ite ?_ ?_
  · exact (keeps_setF hs rfl)
  · exact (keeps_plainWrite hs)

theorem keeps_writeRouteCtrl {s : State} {die : Nat} {v : Nat} (hs : Kept lasting calm false r s) :
    Kept lasting calm false r (writeRouteCtrl s die v) := by
  unfold writeRouteCtrl
  extract_lets s1 s2
  have h3 : Kept lasting calm false r s1 := (keeps_ite (keeps_setF hs rfl) hs)
  have h4 : Kept lasting calm false r s2 := (keeps_ite (keeps_startCopy h3) h3)
  refine keeps_ite ?_ ?_
  · exact (keeps_swapBanks h4)
  · exact h4

theorem keeps_writeWord {s : State} {die : Nat} {lo : Fld} {word : Nat} {v : Nat} {old : Nat} {put : State → Nat → State} (hs :
    Kept lasting false dry r s) (hlo : apart lo = true) (hput : ∀ a0 a1, Kept lasting false dry r a0 → Kept lasting false dry r
    (put a0 a1)) :
    Kept lasting false dry r (writeWord s die lo word v old put) := by
  unfold writeWord
  extract_lets k1
  refine keeps_ite ?_ ?_
  · exact (keeps_mk0 (keeps_at hs))
  · refine keeps_ite ?_ ?_
    · exact (hput _ _ hs)
    · exact (hput _ _ hs)

theorem keeps_writeTable {s : State} {die : Nat} {off : Nat} {v : Nat} (hs : Kept lasting false dry r s) :
    Kept lasting false dry r (writeTable s die off v) := by
  unfold writeTable
  extract_lets b1 i2 g3
  refine keeps_ite ?_ ?_
  · exact (keeps_setF hs rfl)
  · refine keeps_ite ?_ ?_
    · exact (keeps_writeWord hs rfl (fun _ _ h4 => (keeps_putOvr h4)))
    · refine keeps_ite ?_ ?_
      · exact (keeps_putMod hs)
      · exact (keeps_writeWord hs rfl (fun _ _ h5 => (keeps_putMc h5)))

theorem keeps_writeFabReg {s : State} {src : Src} {die : Nat} {off : Nat} {v : Nat} (hs : Kept lasting false false r s) :
    Kept lasting false false r (writeFabReg s src die off v) := by
  unfold writeFabReg
  extract_lets p1
  refine keeps_ite ?_ ?_
  · refine keeps_ite ?_ ?_
    · exact (keeps_after (keeps_execPortEnable hs) hs)
    · exact (keeps_after (keeps_execPortDisable hs) hs)
  · refine keeps_ite ?_ ?_
    · exact (keeps_pfOnly hs (fun _ h2 => (keeps_writeFloor h2)))
    · refine keeps_ite ?_ ?_
      · exact (keeps_pfOnly hs (fun _ h3 => (keeps_writeRouteCtrl h3)))
      · refine keeps_ite ?_ ?_
        · exact (keeps_pfOnly hs (fun _ h4 => (keeps_settle (keeps_retryWaits (keeps_plainWrite h4)))))
        · refine keeps_ite ?_ ?_
          · exact (keeps_pfOnly hs (fun _ h5 => (keeps_writeTable h5)))
          · refine keeps_ite ?_ ?_
            · exact (keeps_pfOnly hs (fun _ h6 => (keeps_drainWrite h6)))
            · exact (keeps_pfOnly hs (fun _ h7 => (keeps_plainWrite h7)))

theorem keeps_writeBar4Cfg {s : State} {src : Src} {v : Nat} (hs : Kept lasting false dry r s) :
    Kept lasting false dry r (writeBar4Cfg s src v) := by
  unfold writeBar4Cfg
  refine keeps_ite ?_ ?_
  · exact hs
  · exact (keeps_plainWrite hs)

theorem keeps_write04 {s : State} {src : Src} {die : Nat} {off : Nat} {v : Nat} (hs : Kept lasting false false r s) :
    Kept lasting false false r (write04 s src die off v) := by
  unfold write04
  refine keeps_ite ?_ ?_
  · exact (keeps_after (keeps_execSeal hs) hs)
  · refine keeps_ite ?_ ?_
    · exact (keeps_pfOnly hs (fun _ h1 => (keeps_mk0 (keeps_at h1))))
    · refine keeps_ite ?_ ?_
      · exact (keeps_pfOnly hs (fun _ h2 => (keeps_writeBar4Cfg h2)))
      · refine keeps_ite ?_ ?_
        · exact (keeps_after (keeps_execPwrReturnPermit hs) hs)
        · refine keeps_ite ?_ ?_
          · exact (keeps_after (keeps_execBudgetWrite hs) hs)
          · refine keeps_ite ?_ ?_
            · exact (keeps_after (keeps_execBudgetWrite hs) hs)
            · refine keeps_ite ?_ ?_
              · exact (keeps_after (keeps_execPwrUvWrite hs) hs)
              · refine keeps_ite ?_ ?_
                · exact (keeps_after (keeps_execRefSelectWrite hs) hs)
                · refine keeps_ite ?_ ?_
                  · exact (keeps_after (keeps_execClkObsEnable hs) hs)
                  · refine keeps_ite ?_ ?_
                    · exact (keeps_pfOnly hs (fun _ h3 => (keeps_startWatch h3 (keeps_plainWrite h3))))
                    · refine keeps_ite ?_ ?_
                      · exact (keeps_after (keeps_execMgtResetWarm hs) hs)
                      · refine keeps_ite ?_ ?_
                        · exact (keeps_after (keeps_execAtbRoute hs) hs)
                        · refine keeps_ite ?_ ?_
                          · exact (keeps_logErr hs)
                          · exact (keeps_writeFabReg hs)

theorem keeps_writeAll {s : State} {src : Src} {die : Nat} {off : Nat} {v : Nat} (hs : Kept lasting false false r s) :
    KeptO lasting false false r (writeAll s src die off v) := by
  unfold writeAll
  refine keepsO_ite ?_ ?_
  · exact (keepsO_some hs)
  · refine keepsO_ite ?_ ?_
    · exact (keepsO_some (keeps_after (keeps_execDomainSwitch hs) hs))
    · refine keepsO_ite ?_ ?_
      · exact (keepsO_some (keeps_after (keeps_execAtbSelect hs) hs))
      · refine keepsO_ite ?_ ?_
        · exact (keepsO_some (keeps_after (keeps_execBistStart hs) hs))
        · refine keepsO_ite ?_ ?_
          · exact (keepsO_some (keeps_after (keeps_execMarginStart hs) hs))
          · exact keepsO_none

theorem keeps_applyReg {s : State} {src : Src} {die : Nat} {off : Nat} {v : Nat} (hs : Kept lasting false false r s) :
    Kept lasting false false r (applyReg s src die off v) := by
  unfold applyReg
  split
  · exact (keepsO_out ‹_› (keeps_writeAll hs))
  · refine keeps_ite ?_ ?_
    · exact (keeps_writeComp hs)
    · refine keeps_ite ?_ ?_
      · exact (keeps_write04 hs)
      · refine keeps_ite ?_ ?_
        · exact (keeps_writeFabReg hs)
        · exact (keeps_pfOnly hs (fun _ h1 => (keeps_plainWrite h1)))

theorem keeps_writeReg {s : State} {src : Src} {die : Nat} {off : Nat} {v : Nat} (hs : Kept lasting false false r s) :
    Kept lasting false false r (writeReg s src die off v) := by
  unfold writeReg
  exact (keeps_gate hs (fun _ h1 => (keeps_applyReg h1)))

theorem keeps_badWrite {s : State} {fn : Nat} {die : Nat} {off : Nat} (hs : Kept lasting calm dry r s) :
    Kept lasting calm dry r (badWrite s fn die off) := by
  unfold badWrite
  refine keeps_ite ?_ ?_
  · exact hs
  · refine keeps_ite ?_ ?_
    · exact (keeps_logErr hs)
    · refine keeps_ite ?_ ?_
      · exact hs
      · exact (keeps_logErr hs)

theorem keeps_barWrite {s : State} {fn : Nat} {off : Nat} {size : Nat} {v : Nat} (hs : Kept lasting false false r s) :
    Kept lasting false false r (barWrite s fn off size v) := by
  unfold barWrite
  extract_lets p1
  have h2 : ∀ x3 x5 x6 x7, Kept lasting false false r x3 → Kept lasting false false r (p1 x3 x5 x6 x7) :=
      fun x3 x5 x6 x7 h4 => (keeps_ite (keeps_gate h4 (fun _ h8 => (keeps_plainWrite h8))) (keeps_writeReg h4))
  split
  · exact hs
  · extract_lets t9
    have h10 : Kept lasting false false r t9 := (h2 _ _ _ _ hs)
    split
    · refine keeps_ite ?_ ?_
      · exact (keeps_gate hs (fun _ h11 => (keeps_after (keeps_execCrHeadDoorbell h11) h11)))
      · exact (keeps_badWrite hs)
    · refine keeps_ite ?_ ?_
      · exact (keeps_badWrite hs)
      · refine keeps_ite ?_ ?_
        · exact h10
        · split
          · exact (h2 _ _ _ _ h10)
          · exact h10

theorem keeps_execRegisterWrite {fn : Nat} {off : Nat} {size : Nat} {value : Nat} {s : State} (hs : Kept lasting false false r s) :
    KeptN lasting false false r (execRegisterWrite fn off size value s) := by
  unfold execRegisterWrite
  exact (keepsN_next (keeps_barWrite hs))

theorem keeps_execSetupWrite {data : Bytes} {bare : Bool} {s : State} (hs : Kept lasting false false r s) :
    KeptN lasting false false r (execSetupWrite data bare s) := by
  unfold execSetupWrite
  extract_lets a1 v2 d3 o4
  exact (keepsN_next (keeps_oem hs (fun _ h5 => (keeps_ite (keeps_reply h5) (keeps_ite (keeps_reply h5) (keeps_ite (keeps_reply
      (keeps_ite h5 (keeps_logErr h5))) (keeps_reply (keeps_writeReg h5))))))))

theorem keeps_readBlock {s : State} {src : Src} {die : Nat} {off : Nat} (hs : Kept lasting calm dry r s) :
    KeptQ lasting calm dry r (readBlock s src die off) := by
  unfold readBlock
  extract_lets v1 h2
  refine keepsQ_ite ?_ ?_
  · exact (keepsQ_mk hs)
  · refine keepsQ_ite ?_ ?_
    · exact (keepsQ_mk hs)
    · refine keepsQ_ite ?_ ?_
      · exact (keepsQ_mk hs)
      · refine keepsQ_ite ?_ ?_
        · exact (keepsQ_mk (keeps_setF hs rfl))
        · refine keepsQ_ite ?_ ?_
          · exact (keepsQ_mk (keeps_setF hs rfl))
          · refine keepsQ_ite ?_ ?_
            · split
              · exact (keepsQ_mk (keepsQ_out ‹_› (keeps_freshFree hs)))
            · exact (keepsQ_mk hs)

theorem keeps_setupRead {s : State} {die : Nat} {off : Nat} (hs : Kept lasting calm dry r s) :
    KeptQ lasting calm dry r (setupRead s die off) := by
  unfold setupRead
  exact (keeps_readBlock hs)

theorem keeps_barWord {s : State} {fn : Nat} {off : Nat} (hs : Kept lasting calm dry r s) :
    KeptQ lasting calm dry r (barWord s fn off) := by
  unfold barWord
  split
  · exact (keepsQ_mk hs)
  · extract_lets x1
    have h2 : KeptQ lasting calm dry r x1 := (keeps_readBlock hs)
    refine keepsQ_ite ?_ ?_
    · exact (keepsQ_mk hs)
    · refine keepsQ_ite ?_ ?_
      · exact (keepsQ_mk (keeps_logErr hs))
      · exact (keepsQ_mk (keeps_wakeByAccess (keepsQ_snd h2)))

theorem keeps_barRead {s : State} {fn : Nat} {off : Nat} {size : Nat} (hs : Kept lasting calm dry r s) : KeptOQ lasting calm
    dry r (barRead s fn off size) := by
  unfold barRead
  refine keepsOQ_ite keepsOQ_none (keepsOQ_ite ?_ (keepsOQ_ite ?_ keepsOQ_none))
  · extract_lets x y
    exact keepsOQ_some (keepsQ_mk (keepsQ_snd (keeps_barWord (keepsQ_snd (keeps_barWord hs)))))
  · extract_lets x
    exact keepsOQ_some (keepsQ_mk (keepsQ_snd (keeps_barWord hs)))

theorem keeps_execSetupRead {data : Bytes} {s : State} (hs : Kept lasting calm dry r s) :
    KeptN lasting calm dry r (execSetupRead data s) := by
  unfold execSetupRead
  extract_lets a1
  exact (keepsN_next (keeps_oem hs (fun _ h2 => (keeps_ite (keeps_reply h2) (by
      split
      · exact (keeps_emit (keepsQ_out ‹_› (keepsQ_ite (keeps_setupRead h2) (keepsQ_mk h2))))
)))))

theorem keeps_replayWrites {s : State} {die : Nat} (hs : Kept lasting false false r s) :
    Kept lasting false false r (replayWrites s die) := by
  unfold replayWrites
  extract_lets m1 s2
  have h3 : Kept lasting false false r s2 := (keeps_mk0 (keeps_at hs))
  exact (keeps_foldl h3 (fun _ _ h4 => by
    split
    · exact (keeps_after (keeps_execCrHeadDoorbell h4) h4)
    · exact (keeps_writeReg h4)
))

theorem keeps_execDomainResume {die : Nat} {dom : Nat} {pll : Nat} {s : State} (hs : Kept lasting false false r s) :
    KeptN lasting false false r (execDomainResume die dom pll s) := by
  unfold execDomainResume
  extract_lets s1 s2 s3 k4 s5
  have h6 : Kept lasting false false r s1 := (keeps_setF hs (by unfold lockFld; (repeat' split) <;> rfl))
  have h7 : Kept lasting false false r s2 := (keeps_setF (keeps_setF h6 rfl) rfl)
  have h8 : Kept lasting false false r s3 := (keeps_setF h7 rfl)
  have h9 : Kept lasting false false r s5 := (keeps_mk0 (keeps_at h8))
  exact (keepsN_next (keeps_ite hs (keeps_ite (keeps_mk0 (keeps_at hs)) (keeps_ite hs (keeps_ite (keeps_fenceDie h6) (keeps_ite
      (keeps_settle (keeps_replayWrites h9)) h9))))))

theorem keeps_failSignal {s : State} {desc : Option (Nat × Nat)} (hs : Kept lasting calm false r s) :
    Kept lasting calm false r (failSignal s desc) := by
  unfold failSignal
  split
  · exact hs
  · refine keeps_ite ?_ ?_
    · exact hs
    · exact (keeps_maybeComplete (keeps_updDesc hs))

theorem keeps_execTokenSignal {die : Nat} {tok : Nat} {sent : Signal} {s : State} (hs : Kept lasting calm false r s) :
    KeptN lasting calm false r (execTokenSignal die tok sent s) := by
  unfold execTokenSignal
  exact (keepsN_next (keeps_ite (keeps_ite (keeps_settle (keeps_failSignal hs)) (keeps_signalTok hs)) hs))

theorem keeps_execStreamCommit {die : Nat} {stream : Nat} {tile : Bytes} {s : State} (hs : Kept lasting calm false r s) :
    KeptN lasting calm false r (execStreamCommit die stream tile s) := by
  unfold execStreamCommit
  exact (keepsN_next (by
    split
    · exact hs
    · refine keeps_ite ?_ ?_
      · exact hs
      · exact (keeps_commitTile hs)
))

theorem keeps_execStreamRelease {die : Nat} {stream : Nat} {st : Nat} {s : State} (hs : Kept lasting calm false r s) :
    KeptN lasting calm false r (execStreamRelease die stream st s) := by
  unfold execStreamRelease
  exact (keepsN_next (keeps_pump (keeps_releaseSlot hs)))

theorem keeps_execPoolRequestAged {die : Nat} {bank : Nat} {first : Nat × Nat} {others : List (Nat × Nat)} {s : State}
    (hs : Kept lasting false dry r s) :
    KeptN lasting false dry r (execPoolRequestAged die bank first others s) := by
  unfold execPoolRequestAged
  exact (keepsN_next (by
    split
    · exact hs
    · extract_lets s1
      have h2 : Kept lasting false dry r s1 := (keeps_mk0 (keeps_at hs))
      refine keeps_ite ?_ ?_
      · exact (keeps_addF h2 rfl)
      · exact h2
))

theorem keeps_startRun {s : State} {d : Desc} {h0 : Bytes} (hs : Kept lasting calm false r s) :
    Kept lasting calm false r (startRun s d h0) := by
  unfold startRun
  have h : ∀ (o : Option (List Nat)) (c : List Nat → Schedule) (k f die slot : Nat), Kept lasting calm false r (match o with
      | none => rejectOp s d CONFLICT 7
      | some p => setF (setSched (updDesc s d.queue d.tag (fun d => { d with started := true })) k (c p))
          F.QUE_ST_NEXT_NEXT die slot f) := by
    intro o c k f die slot
    cases o with
    | none => exact keeps_rejectOp hs
    | some p => exact keeps_setF (keeps_setSched (keeps_updDesc hs)) rfl
  exact h _ (fun p => _) _ _ _ _

theorem keeps_execStRun {q : Nat} {tag : Nat} {s : State} (hs : Kept lasting calm false r s) :
    KeptN lasting calm false r (execStRun q tag s) := by
  unfold execStRun
  exact (keepsN_next (by
    split
    · exact hs
    · split
      · split
        · exact (keeps_settle (keeps_rejectOp hs))
        · refine keeps_ite ?_ ?_
          · exact (keeps_settle (keeps_endOp hs))
          · split
            · exact (keeps_settle (keeps_rejectOp hs))
            · exact (keeps_settle (keeps_startRun hs))
))

theorem keeps_runStop {mode : Nat} {eff : Schedule → Schedule} {q : Nat} {tag : Nat} {s : State} (hs : Kept lasting calm false
    r s) :
    Kept lasting calm false r (runStop mode eff q tag s) := by
  unfold runStop
  split
  · exact hs
  · extract_lets k1 s2
    have h3 : Kept lasting calm false r s2 := (by
        unfold s2
        split
        · exact (keeps_setSched hs)
        · exact hs
)
    split
    · exact (keeps_settle (keeps_rejectOp hs))
    · exact (keeps_settle (keeps_endOp h3))

theorem keeps_execStStopAtEnd {q : Nat} {tag : Nat} {s : State} (hs : Kept lasting calm false r s) :
    KeptN lasting calm false r (execStStopAtEnd q tag s) := by
  unfold execStStopAtEnd
  exact (keepsN_next (keeps_runStop hs))

theorem keeps_execStStopNow {q : Nat} {tag : Nat} {s : State} (hs : Kept lasting calm false r s) :
    KeptN lasting calm false r (execStStopNow q tag s) := by
  unfold execStStopNow
  exact (keepsN_next (keeps_runStop hs))

theorem keeps_execEntryRelease {die : Nat} {slot : Nat} {s : State} (hs : Kept lasting calm false r s) :
    KeptN lasting calm false r (execEntryRelease die slot s) := by
  unfold execEntryRelease
  extract_lets k1 s2
  have h3 : Kept lasting calm false r s2 := (keeps_noteSlotWaits hs)
  exact (keepsN_next (by
    split
    · exact h3
    · refine keeps_ite ?_ ?_
      · exact h3
      · split
        · exact h3
        · refine keeps_ite ?_ ?_
          · exact (keeps_settle (keeps_setSched h3))
          · split
            · exact (keeps_settle (keeps_setSched h3))
            · exact (keeps_settle (keeps_releaseEntry h3))
))

end Sys2Proof.Laws
end

