-- ==== Sys2Proof/Laws/Step.lean ====
section
/-! SUPPORT. What every command keeps: the lemmas of the meanings put together over exec. -/

namespace Sys2Proof.Laws

open Sys2Proof Sys2Proof.Machine

/-- Every command keeps the queue and the form of the state. -/
theorem exec_kept (c : Instr) {r s : State} (hs : Kept false false false r s) :
    KeptN false false false r (exec c s) := by
  cases c
  · exact keeps_execQueueEnable hs
  · exact keeps_execQueueDisable hs
  · exact keeps_execQueueDrained hs
  · exact keeps_execQueueAbort hs
  · exact keeps_execQueueAbortDone hs
  · exact keeps_execQueueClrErr hs
  · exact keeps_execCrEnable hs
  · exact keeps_execCrDisable hs
  · exact keeps_execDoorbell hs
  · exact keeps_execDescriptorFetch hs
  · exact keeps_execAdmission hs
  · exact keeps_execDispatch hs
  · exact keeps_execResourceWaitEnd hs
  · exact keeps_execStationFifoRoom hs
  · exact keeps_execNop hs
  · exact keeps_execMicroCommandRetire hs
  · exact keeps_execPostHeldCompletion hs
  · exact keeps_execCrModTimer hs
  · exact keeps_execCrHeadDoorbell hs
  · exact keeps_execBar4Read hs
  · exact keeps_execBar4Write hs
  · exact keeps_execSeal hs
  · exact keeps_execRegisterWrite hs
  · exact keeps_execStreamTailRead hs
  · exact keeps_execTickLoRead hs
  · exact keeps_execHostLinkDown hs
  · exact keeps_execHostLinkUp hs
  · exact keeps_execHostPortReset hs
  · exact keeps_execTokenSignal hs
  · exact keeps_execStreamCommit hs
  · exact keeps_execStreamRelease hs
  · exact keeps_execPoolRequestAged hs
  · exact keeps_execMxFwd hs
  · exact keeps_execMxDgrad hs
  · exact keeps_execMxWgrad hs
  · exact keeps_execMxLoad hs
  · exact keeps_execShadowReady hs
  · exact keeps_execMxStream hs
  · exact keeps_execMxCntClear hs
  · exact keeps_execSlGemm hs
  · exact keeps_execSlSlice hs
  · exact keeps_execVxEw hs
  · exact keeps_execCvConvert hs
  · exact keeps_execCvRandomSet hs
  · exact keeps_execCvRandomAdvance hs
  · exact keeps_execCvRandomMask hs
  · exact keeps_execCvRandomWords hs
  · exact keeps_execCkPolicyBind hs
  · exact keeps_execCkPolicyReset hs
  · exact keeps_execCkPolicyUnbind hs
  · exact keeps_execCkPolicyRead hs
  · exact keeps_execCkSampleDone hs
  · exact keeps_execAtFwd hs
  · exact keeps_execAtBwd hs
  · exact keeps_execAtBprep hs
  · exact keeps_execAtMerge hs
  · exact keeps_execRingWaitTimeout hs
  · exact keeps_execAtCntClear hs
  · exact keeps_execPgOpen hs
  · exact keeps_execPgAppend hs
  · exact keeps_execPgTrim hs
  · exact keeps_execPgClose hs
  · exact keeps_execPgResume hs
  · exact keeps_execPgPin hs
  · exact keeps_execPgMove hs
  · exact keeps_execPgQuery hs
  · exact keeps_execPgRebuildCompact hs
  · exact keeps_execPgRebuildRehome hs
  · exact keeps_execRebuildSwap hs
  · exact keeps_execWalkBegin hs
  · exact keeps_execWalkEnd hs
  · exact keeps_execRemapCopyDone hs
  · exact keeps_execPgDemotionDone hs
  · exact keeps_execAppendParkTimeout hs
  · exact keeps_execPgAgeSweep hs
  · exact keeps_execStRun hs
  · exact keeps_execStStopAtEnd hs
  · exact keeps_execStStopNow hs
  · exact keeps_execEntryRelease hs
  · exact keeps_execShCtlDefine hs
  · exact keeps_execShCtlBeginUpdate hs
  · exact keeps_execShCtlCommit hs
  · exact keeps_execShCtlQuery hs
  · exact keeps_execShCtlFree hs
  · exact keeps_execTmMap hs
  · exact keeps_execTmUnmap hs
  · exact keeps_execTmMove hs
  · exact keeps_execTmPinSet hs
  · exact keeps_execTmPinClear hs
  · exact keeps_execTmQuery hs
  · exact keeps_execTmObjPut hs
  · exact keeps_execTmObjGet hs
  · exact keeps_execTmObjDelete hs
  · exact keeps_execTmObjStat hs
  · exact keeps_execMoveCopyDone hs
  · exact keeps_execMoveSourceRelease hs
  · exact keeps_execPolicyDemote hs
  · exact keeps_execTierAccessTimeout hs
  · exact keeps_execFarDeviceFail (_dev := 0) hs
  · exact keeps_execMvCopy hs
  · exact keeps_execMvFill hs
  · exact keeps_execMvIndexed hs
  · exact keeps_execMoverReadDone hs
  · exact keeps_execMoverWriteAck hs
  · exact keeps_execSlotCommit hs
  · exact keeps_execSlotAgeExpiry hs
  · exact keeps_execQueScClear hs
  · exact keeps_execFlitReceive hs
  · exact keeps_execPortEnable hs
  · exact keeps_execPortDisable hs
  · exact keeps_execPortTrained hs
  · exact keeps_execTrainingTimeout hs
  · exact keeps_execPortMarginingDone hs
  · exact keeps_execLaneErrorRetrain hs
  · exact keeps_execRetrainDone hs
  · exact keeps_execRetrainTimeout hs
  · exact keeps_execNoFlitTimeout hs
  · exact keeps_execPortLost hs
  · exact keeps_execRetrainHoldExpiry hs
  · exact keeps_execWrite hs
  · exact keeps_execAck hs
  · exact keeps_execNack hs
  · exact keeps_execSignal hs
  · exact keeps_execRead hs
  · exact keeps_execReadData hs
  · exact keeps_execNotice hs
  · exact keeps_execPrune hs
  · exact keeps_execFlowAckTimer hs
  · exact keeps_execFlowBusyRetry hs
  · exact keeps_execFlowIdleRelease hs
  · exact keeps_execLossLimitExpiry hs
  · exact keeps_execMulticastBranchPrune hs
  · exact keeps_execMulticastLagTimeout hs
  · exact keeps_execRetentionLimitExpiry hs
  · exact keeps_execRouteCopy hs
  · exact keeps_execRouteCopyDone hs
  · exact keeps_execRouteSwap hs
  · exact keeps_execTickAlignSend hs
  · exact keeps_execRdCommDefine hs
  · exact keeps_execRdCommRetire hs
  · exact keeps_execRdReduce hs
  · exact keeps_execRdGather hs
  · exact keeps_execRdA2a hs
  · exact keeps_execRdPermute hs
  · exact keeps_execPermuteEpochAdvance hs
  · exact keeps_execRdEpochRetire hs
  · exact keeps_execRdExpertDispatch hs
  · exact keeps_execRdExpertCombine hs
  · exact keeps_execRdExtWrite hs
  · exact keeps_execRdExtSwap hs
  · exact keeps_execRdExtCopy hs
  · exact keeps_execReady hs
  · exact keeps_execData hs
  · exact keeps_execClose hs
  · exact keeps_execFail hs
  · exact keeps_execList hs
  · exact keeps_execGatherReq hs
  · exact keeps_execStragglerWindowClose hs
  · exact keeps_execCloseTimeout hs
  · exact keeps_execDrainGo hs
  · exact keeps_execDrainComplete hs
  · exact keeps_execDrainRelease hs
  · exact keeps_execDrainHoldExpiry hs
  · exact keeps_execMainInputLoss hs
  · exact keeps_execMainReturn hs
  · exact keeps_execPwrReturnPermit hs
  · exact keeps_execBothInputsLoss hs
  · exact keeps_execHoldupStationsStop hs
  · exact keeps_execInputRestored hs
  · exact keeps_execHoldupSpent hs
  · exact keeps_execBudgetDivision hs
  · exact keeps_execDieGovernorSample hs
  · exact keeps_execOppStepDone hs
  · exact keeps_execGvManualSet hs
  · exact keeps_execGvFreqWrite hs
  · exact keeps_execGvVoltWrite hs
  · exact keeps_execBudgetWrite hs
  · exact keeps_execPwrUvWrite hs
  · exact keeps_execDieTempReading hs
  · exact keeps_execThrottleClockStep hs
  · exact keeps_execStackTempReading hs
  · exact keeps_execHotStackStep hs
  · exact keeps_execSequencerPowerWait hs
  · exact keeps_execGreyIdleTimer hs
  · exact keeps_execGreyEntry hs
  · exact keeps_execCharcoalEntry hs
  · exact keeps_execCharcoalReached hs
  · exact keeps_execWakeEvent hs
  · exact keeps_execCharcoalWakeDone hs
  · exact keeps_execAonTimerMatch hs
  · exact keeps_execI3cAddressMatch hs
  · exact keeps_execRefSelectWrite hs
  · exact keeps_execRefSourceInvalid hs
  · exact keeps_execRefRevert hs
  · exact keeps_execHoldoverExpiry hs
  · exact keeps_execClockSourceFail hs
  · exact keeps_execDomainResume hs
  · exact keeps_execMemoryClockTimeout hs
  · exact keeps_execDomainSwitch hs
  · exact keeps_execMarginAutoSwitch hs
  · exact keeps_execSwitchRampStep hs
  · exact keeps_execClkObsEnable hs
  · exact keeps_execHeartbeatSend hs
  · exact keeps_execHeartbeatTimeout hs
  · exact keeps_execProgressTimeout hs
  · exact keeps_execStationFence hs
  · exact keeps_execDieFence hs
  · exact keeps_execPoolScrub hs
  · exact keeps_execHbmPatrolScrub hs
  · exact keeps_execSnDefine hs
  · exact keeps_execSnTake hs
  · exact keeps_execCaptureDone hs
  · exact keeps_execLocalLayerCommit hs
  · exact keeps_execSharedLayerCommit hs
  · exact keeps_execRoceRetransmitTimeout hs
  · exact keeps_execCongestionNotification hs
  · exact keeps_execSnRestore hs
  · exact keeps_execSnConn hs
  · exact keeps_execColdStart hs
  · exact keeps_execResetNAssert hs
  · exact keeps_execMgtResetWarm hs
  · exact keeps_execManagementWatchdog hs
  · exact keeps_execBootVerify hs
  · exact keeps_execF4Takeover hs
  · exact keeps_execLimitedServiceEntry hs
  · exact keeps_execFullServiceEntry hs
  · exact keeps_execSetPlacement hs
  · exact keeps_execWriteModuleTable hs
  · exact keeps_execWriteOverride hs
  · exact keeps_execWriteMulticast hs
  · exact keeps_execCopyTables hs
  · exact keeps_execCommitPlacement hs
  · exact keeps_execSetRecovery hs
  · exact keeps_execWake hs
  · exact keeps_execSetPowerState hs
  · exact keeps_execFence hs
  · exact keeps_execAlignTick hs
  · exact keeps_execSetupWrite hs
  · exact keeps_execSetupRead hs
  · exact keeps_execWarmReset hs
  · exact keeps_execColdReset hs
  · exact keeps_execCommitSvn hs
  · exact keeps_execRevokeKey hs
  · exact keeps_execLoadKey hs
  · exact keeps_execKeySendSelect hs
  · exact keeps_execKeyEraseSlot hs
  · exact keeps_execKeyEraseAll hs
  · exact keeps_execFirmwareUpdate hs
  · exact keeps_execActivateFirmware hs
  · exact keeps_execSpdmMessage hs
  · exact keeps_execPldmSensorRead hs
  · exact keeps_execBistStart hs
  · exact keeps_execBistDone hs
  · exact keeps_execMarginStart hs
  · exact keeps_execMarginHoldBegin hs
  · exact keeps_execMarginRunDone hs
  · exact keeps_execAtbSelect hs
  · exact keeps_execAtbRoute hs
  · exact keeps_execPresentOpen hs
  · exact keeps_execCoolantReading hs
  · exact keeps_execCoolOkRestore hs
  · exact keeps_execMainInputValid hs
  · exact keeps_execReferenceSourceValid hs
  · exact keeps_execAonCrystalStop hs
  · exact keeps_execPortPartnerDetected hs
  · exact keeps_execInPackageLinkLost hs
  · exact keeps_execRoceResponseReceive (_data := []) hs
  · exact keeps_execPfcPauseFrame hs
  · exact keeps_execSnapshotExtentRead hs

/-- Every command but the cold ones keeps the fences and the seal. -/
theorem exec_lasting (c : Instr) {r s : State} (hp : isCold c = false) (hs : Kept true false false r s) :
    KeptN true false false r (exec c s) := by
  cases c
  · exact keeps_execQueueEnable hs
  · exact keeps_execQueueDisable hs
  · exact keeps_execQueueDrained hs
  · exact keeps_execQueueAbort hs
  · exact keeps_execQueueAbortDone hs
  · exact keeps_execQueueClrErr hs
  · exact keeps_execCrEnable hs
  · exact keeps_execCrDisable hs
  · exact keeps_execDoorbell hs
  · exact keeps_execDescriptorFetch hs
  · exact keeps_execAdmission hs
  · exact keeps_execDispatch hs
  · exact keeps_execResourceWaitEnd hs
  · exact keeps_execStationFifoRoom hs
  · exact keeps_execNop hs
  · exact keeps_execMicroCommandRetire hs
  · exact keeps_execPostHeldCompletion hs
  · exact keeps_execCrModTimer hs
  · exact keeps_execCrHeadDoorbell hs
  · exact keeps_execBar4Read hs
  · exact keeps_execBar4Write hs
  · exact keeps_execSeal hs
  · exact keeps_execRegisterWrite hs
  · exact keeps_execStreamTailRead hs
  · exact keeps_execTickLoRead hs
  · exact keeps_execHostLinkDown hs
  · exact keeps_execHostLinkUp hs
  · exact keeps_execHostPortReset hs
  · exact keeps_execTokenSignal hs
  · exact keeps_execStreamCommit hs
  · exact keeps_execStreamRelease hs
  · exact keeps_execPoolRequestAged hs
  · exact keeps_execMxFwd hs
  · exact keeps_execMxDgrad hs
  · exact keeps_execMxWgrad hs
  · exact keeps_execMxLoad hs
  · exact keeps_execShadowReady hs
  · exact keeps_execMxStream hs
  · exact keeps_execMxCntClear hs
  · exact keeps_execSlGemm hs
  · exact keeps_execSlSlice hs
  · exact keeps_execVxEw hs
  · exact keeps_execCvConvert hs
  · exact keeps_execCvRandomSet hs
  · exact keeps_execCvRandomAdvance hs
  · exact keeps_execCvRandomMask hs
  · exact keeps_execCvRandomWords hs
  · exact keeps_execCkPolicyBind hs
  · exact keeps_execCkPolicyReset hs
  · exact keeps_execCkPolicyUnbind hs
  · exact keeps_execCkPolicyRead hs
  · exact keeps_execCkSampleDone hs
  · exact keeps_execAtFwd hs
  · exact keeps_execAtBwd hs
  · exact keeps_execAtBprep hs
  · exact keeps_execAtMerge hs
  · exact keeps_execRingWaitTimeout hs
  · exact keeps_execAtCntClear hs
  · exact keeps_execPgOpen hs
  · exact keeps_execPgAppend hs
  · exact keeps_execPgTrim hs
  · exact keeps_execPgClose hs
  · exact keeps_execPgResume hs
  · exact keeps_execPgPin hs
  · exact keeps_execPgMove hs
  · exact keeps_execPgQuery hs
  · exact keeps_execPgRebuildCompact hs
  · exact keeps_execPgRebuildRehome hs
  · exact keeps_execRebuildSwap hs
  · exact keeps_execWalkBegin hs
  · exact keeps_execWalkEnd hs
  · exact keeps_execRemapCopyDone hs
  · exact keeps_execPgDemotionDone hs
  · exact keeps_execAppendParkTimeout hs
  · exact keeps_execPgAgeSweep hs
  · exact keeps_execStRun hs
  · exact keeps_execStStopAtEnd hs
  · exact keeps_execStStopNow hs
  · exact keeps_execEntryRelease hs
  · exact keeps_execShCtlDefine hs
  · exact keeps_execShCtlBeginUpdate hs
  · exact keeps_execShCtlCommit hs
  · exact keeps_execShCtlQuery hs
  · exact keeps_execShCtlFree hs
  · exact keeps_execTmMap hs
  · exact keeps_execTmUnmap hs
  · exact keeps_execTmMove hs
  · exact keeps_execTmPinSet hs
  · exact keeps_execTmPinClear hs
  · exact keeps_execTmQuery hs
  · exact keeps_execTmObjPut hs
  · exact keeps_execTmObjGet hs
  · exact keeps_execTmObjDelete hs
  · exact keeps_execTmObjStat hs
  · exact keeps_execMoveCopyDone hs
  · exact keeps_execMoveSourceRelease hs
  · exact keeps_execPolicyDemote hs
  · exact keeps_execTierAccessTimeout hs
  · exact keeps_execFarDeviceFail (_dev := 0) hs
  · exact keeps_execMvCopy hs
  · exact keeps_execMvFill hs
  · exact keeps_execMvIndexed hs
  · exact keeps_execMoverReadDone hs
  · exact keeps_execMoverWriteAck hs
  · exact keeps_execSlotCommit hs
  · exact keeps_execSlotAgeExpiry hs
  · exact keeps_execQueScClear hs
  · exact keeps_execFlitReceive hs
  · exact keeps_execPortEnable hs
  · exact keeps_execPortDisable hs
  · exact keeps_execPortTrained hs
  · exact keeps_execTrainingTimeout hs
  · exact keeps_execPortMarginingDone hs
  · exact keeps_execLaneErrorRetrain hs
  · exact keeps_execRetrainDone hs
  · exact keeps_execRetrainTimeout hs
  · exact keeps_execNoFlitTimeout hs
  · exact keeps_execPortLost hs
  · exact keeps_execRetrainHoldExpiry hs
  · exact keeps_execWrite hs
  · exact keeps_execAck hs
  · exact keeps_execNack hs
  · exact keeps_execSignal hs
  · exact keeps_execRead hs
  · exact keeps_execReadData hs
  · exact keeps_execNotice hs
  · exact keeps_execPrune hs
  · exact keeps_execFlowAckTimer hs
  · exact keeps_execFlowBusyRetry hs
  · exact keeps_execFlowIdleRelease hs
  · exact keeps_execLossLimitExpiry hs
  · exact keeps_execMulticastBranchPrune hs
  · exact keeps_execMulticastLagTimeout hs
  · exact keeps_execRetentionLimitExpiry hs
  · exact keeps_execRouteCopy hs
  · exact keeps_execRouteCopyDone hs
  · exact keeps_execRouteSwap hs
  · exact keeps_execTickAlignSend hs
  · exact keeps_execRdCommDefine hs
  · exact keeps_execRdCommRetire hs
  · exact keeps_execRdReduce hs
  · exact keeps_execRdGather hs
  · exact keeps_execRdA2a hs
  · exact keeps_execRdPermute hs
  · exact keeps_execPermuteEpochAdvance hs
  · exact keeps_execRdEpochRetire hs
  · exact keeps_execRdExpertDispatch hs
  · exact keeps_execRdExpertCombine hs
  · exact keeps_execRdExtWrite hs
  · exact keeps_execRdExtSwap hs
  · exact keeps_execRdExtCopy hs
  · exact keeps_execReady hs
  · exact keeps_execData hs
  · exact keeps_execClose hs
  · exact keeps_execFail hs
  · exact keeps_execList hs
  · exact keeps_execGatherReq hs
  · exact keeps_execStragglerWindowClose hs
  · exact keeps_execCloseTimeout hs
  · exact keeps_execDrainGo hs
  · exact keeps_execDrainComplete hs
  · exact keeps_execDrainRelease hs
  · exact keeps_execDrainHoldExpiry hs
  · exact keeps_execMainInputLoss hs
  · exact keeps_execMainReturn hs
  · exact keeps_execPwrReturnPermit hs
  · exact keeps_execBothInputsLoss hs
  · exact keeps_execHoldupStationsStop hs
  · exact keeps_execInputRestored hs
  · cases hp
  · exact keeps_execBudgetDivision hs
  · exact keeps_execDieGovernorSample hs
  · exact keeps_execOppStepDone hs
  · exact keeps_execGvManualSet hs
  · exact keeps_execGvFreqWrite hs
  · exact keeps_execGvVoltWrite hs
  · exact keeps_execBudgetWrite hs
  · exact keeps_execPwrUvWrite hs
  · exact keeps_execDieTempReading hs
  · exact keeps_execThrottleClockStep hs
  · exact keeps_execStackTempReading hs
  · exact keeps_execHotStackStep hs
  · exact keeps_execSequencerPowerWait hs
  · exact keeps_execGreyIdleTimer hs
  · exact keeps_execGreyEntry hs
  · exact keeps_execCharcoalEntry hs
  · exact keeps_execCharcoalReached hs
  · exact keeps_execWakeEvent hs
  · exact keeps_execCharcoalWakeDone hs
  · exact keeps_execAonTimerMatch hs
  · exact keeps_execI3cAddressMatch hs
  · exact keeps_execRefSelectWrite hs
  · exact keeps_execRefSourceInvalid hs
  · exact keeps_execRefRevert hs
  · exact keeps_execHoldoverExpiry hs
  · exact keeps_execClockSourceFail hs
  · exact keeps_execDomainResume hs
  · exact keeps_execMemoryClockTimeout hs
  · exact keeps_execDomainSwitch hs
  · exact keeps_execMarginAutoSwitch hs
  · exact keeps_execSwitchRampStep hs
  · exact keeps_execClkObsEnable hs
  · exact keeps_execHeartbeatSend hs
  · exact keeps_execHeartbeatTimeout hs
  · exact keeps_execProgressTimeout hs
  · exact keeps_execStationFence hs
  · exact keeps_execDieFence hs
  · exact keeps_execPoolScrub hs
  · exact keeps_execHbmPatrolScrub hs
  · exact keeps_execSnDefine hs
  · exact keeps_execSnTake hs
  · exact keeps_execCaptureDone hs
  · exact keeps_execLocalLayerCommit hs
  · exact keeps_execSharedLayerCommit hs
  · exact keeps_execRoceRetransmitTimeout hs
  · exact keeps_execCongestionNotification hs
  · exact keeps_execSnRestore hs
  · exact keeps_execSnConn hs
  · cases hp
  · cases hp
  · exact keeps_execMgtResetWarm hs
  · exact keeps_execManagementWatchdog hs
  · exact keeps_execBootVerify hs
  · exact keeps_execF4Takeover hs
  · exact keeps_execLimitedServiceEntry hs
  · exact keeps_execFullServiceEntry hs
  · exact keeps_execSetPlacement hs
  · exact keeps_execWriteModuleTable hs
  · exact keeps_execWriteOverride hs
  · exact keeps_execWriteMulticast hs
  · exact keeps_execCopyTables hs
  · exact keeps_execCommitPlacement hs
  · exact keeps_execSetRecovery hs
  · exact keeps_execWake hs
  · cases hp
  · exact keeps_execFence hs
  · exact keeps_execAlignTick hs
  · exact keeps_execSetupWrite hs
  · exact keeps_execSetupRead hs
  · exact keeps_execWarmReset hs
  · cases hp
  · exact keeps_execCommitSvn hs
  · exact keeps_execRevokeKey hs
  · exact keeps_execLoadKey hs
  · exact keeps_execKeySendSelect hs
  · exact keeps_execKeyEraseSlot hs
  · exact keeps_execKeyEraseAll hs
  · exact keeps_execFirmwareUpdate hs
  · exact keeps_execActivateFirmware hs
  · exact keeps_execSpdmMessage hs
  · exact keeps_execPldmSensorRead hs
  · exact keeps_execBistStart hs
  · exact keeps_execBistDone hs
  · exact keeps_execMarginStart hs
  · exact keeps_execMarginHoldBegin hs
  · exact keeps_execMarginRunDone hs
  · exact keeps_execAtbSelect hs
  · exact keeps_execAtbRoute hs
  · exact keeps_execPresentOpen hs
  · exact keeps_execCoolantReading hs
  · exact keeps_execCoolOkRestore hs
  · exact keeps_execMainInputValid hs
  · exact keeps_execReferenceSourceValid hs
  · exact keeps_execAonCrystalStop hs
  · exact keeps_execPortPartnerDetected hs
  · exact keeps_execInPackageLinkLost hs
  · exact keeps_execRoceResponseReceive (_data := []) hs
  · exact keeps_execPfcPauseFrame hs
  · exact keeps_execSnapshotExtentRead hs

/-- An operation of a descriptor keeps what none of them reaches. -/
theorem exec_calm (c : Instr) {r s : State} (hp : isOp c = true) (hs : Kept false true false r s) :
    KeptN false true false r (exec c s) := by
  cases c
  · cases hp
  · cases hp
  · cases hp
  · cases hp
  · cases hp
  · cases hp
  · cases hp
  · cases hp
  · cases hp
  · cases hp
  · cases hp
  · cases hp
  · cases hp
  · cases hp
  · exact keeps_execNop hs
  · cases hp
  · cases hp
  · cases hp
  · cases hp
  · cases hp
  · cases hp
  · cases hp
  · cases hp
  · cases hp
  · cases hp
  · cases hp
  · cases hp
  · cases hp
  · cases hp
  · cases hp
  · cases hp
  · cases hp
  · exact keeps_execMxFwd hs
  · exact keeps_execMxDgrad hs
  · exact keeps_execMxWgrad hs
  · cases hp
  · cases hp
  · cases hp
  · cases hp
  · exact keeps_execSlGemm hs
  · exact keeps_execSlSlice hs
  · exact keeps_execVxEw hs
  · exact keeps_execCvConvert hs
  · exact keeps_execCvRandomSet hs
  · exact keeps_execCvRandomAdvance hs
  · exact keeps_execCvRandomMask hs
  · exact keeps_execCvRandomWords hs
  · exact keeps_execCkPolicyBind hs
  · exact keeps_execCkPolicyReset hs
  · exact keeps_execCkPolicyUnbind hs
  · exact keeps_execCkPolicyRead hs
  · cases hp
  · exact keeps_execAtFwd hs
  · exact keeps_execAtBwd hs
  · exact keeps_execAtBprep hs
  · exact keeps_execAtMerge hs
  · cases hp
  · cases hp
  · exact keeps_execPgOpen hs
  · exact keeps_execPgAppend hs
  · exact keeps_execPgTrim hs
  · exact keeps_execPgClose hs
  · exact keeps_execPgResume hs
  · exact keeps_execPgPin hs
  · exact keeps_execPgMove hs
  · exact keeps_execPgQuery hs
  · exact keeps_execPgRebuildCompact hs
  · exact keeps_execPgRebuildRehome hs
  · cases hp
  · cases hp
  · cases hp
  · cases hp
  · cases hp
  · cases hp
  · cases hp
  · exact keeps_execStRun hs
  · exact keeps_execStStopAtEnd hs
  · exact keeps_execStStopNow hs
  · cases hp
  · exact keeps_execShCtlDefine hs
  · exact keeps_execShCtlBeginUpdate hs
  · exact keeps_execShCtlCommit hs
  · exact keeps_execShCtlQuery hs
  · exact keeps_execShCtlFree hs
  · exact keeps_execTmMap hs
  · exact keeps_execTmUnmap hs
  · exact keeps_execTmMove hs
  · exact keeps_execTmPinSet hs
  · exact keeps_execTmPinClear hs
  · exact keeps_execTmQuery hs
  · exact keeps_execTmObjPut hs
  · exact keeps_execTmObjGet hs
  · exact keeps_execTmObjDelete hs
  · exact keeps_execTmObjStat hs
  · cases hp
  · cases hp
  · cases hp
  · cases hp
  · cases hp
  · exact keeps_execMvCopy hs
  · exact keeps_execMvFill hs
  · exact keeps_execMvIndexed hs
  · cases hp
  · cases hp
  · cases hp
  · cases hp
  · cases hp
  · cases hp
  · cases hp
  · cases hp
  · cases hp
  · cases hp
  · cases hp
  · cases hp
  · cases hp
  · cases hp
  · cases hp
  · cases hp
  · cases hp
  · cases hp
  · cases hp
  · cases hp
  · cases hp
  · cases hp
  · cases hp
  · cases hp
  · cases hp
  · cases hp
  · cases hp
  · cases hp
  · cases hp
  · cases hp
  · cases hp
  · cases hp
  · cases hp
  · cases hp
  · cases hp
  · cases hp
  · exact keeps_execRdCommDefine hs
  · exact keeps_execRdCommRetire hs
  · exact keeps_execRdReduce hs
  · exact keeps_execRdGather hs
  · exact keeps_execRdA2a hs
  · exact keeps_execRdPermute hs
  · cases hp
  · exact keeps_execRdEpochRetire hs
  · exact keeps_execRdExpertDispatch hs
  · exact keeps_execRdExpertCombine hs
  · exact keeps_execRdExtWrite hs
  · exact keeps_execRdExtSwap hs
  · exact keeps_execRdExtCopy hs
  · cases hp
  · cases hp
  · cases hp
  · cases hp
  · cases hp
  · cases hp
  · cases hp
  · cases hp
  · cases hp
  · cases hp
  · cases hp
  · cases hp
  · cases hp
  · cases hp
  · cases hp
  · cases hp
  · cases hp
  · cases hp
  · cases hp
  · cases hp
  · cases hp
  · cases hp
  · cases hp
  · cases hp
  · cases hp
  · cases hp
  · cases hp
  · cases hp
  · cases hp
  · cases hp
  · cases hp
  · cases hp
  · cases hp
  · cases hp
  · cases hp
  · cases hp
  · cases hp
  · cases hp
  · cases hp
  · cases hp
  · cases hp
  · cases hp
  · cases hp
  · cases hp
  · cases hp
  · cases hp
  · cases hp
  · cases hp
  · cases hp
  · cases hp
  · cases hp
  · cases hp
  · cases hp
  · cases hp
  · cases hp
  · cases hp
  · cases hp
  · cases hp
  · exact keeps_execSnDefine hs
  · exact keeps_execSnTake hs
  · cases hp
  · cases hp
  · cases hp
  · cases hp
  · cases hp
  · exact keeps_execSnRestore hs
  · exact keeps_execSnConn hs
  · cases hp
  · cases hp
  · cases hp
  · cases hp
  · cases hp
  · cases hp
  · cases hp
  · cases hp
  · cases hp
  · cases hp
  · cases hp
  · cases hp
  · cases hp
  · cases hp
  · cases hp
  · cases hp
  · cases hp
  · cases hp
  · cases hp
  · cases hp
  · cases hp
  · cases hp
  · cases hp
  · cases hp
  · cases hp
  · cases hp
  · cases hp
  · cases hp
  · cases hp
  · cases hp
  · cases hp
  · cases hp
  · cases hp
  · cases hp
  · cases hp
  · cases hp
  · cases hp
  · cases hp
  · cases hp
  · cases hp
  · cases hp
  · cases hp
  · cases hp
  · cases hp
  · cases hp
  · cases hp
  · cases hp
  · cases hp
  · cases hp
  · cases hp
  · cases hp

/-- A command that stores nothing keeps the memory. -/
theorem exec_dry (c : Instr) {r s : State} (hp : isDry c = true) (hs : Kept false false true r s) :
    KeptN false false true r (exec c s) := by
  cases c
  · cases hp
  · cases hp
  · exact keeps_execQueueDrained hs
  · cases hp
  · exact keeps_execQueueAbortDone hs
  · cases hp
  · exact keeps_execCrEnable hs
  · exact keeps_execCrDisable hs
  · cases hp
  · cases hp
  · cases hp
  · exact keeps_execDispatch hs
  · cases hp
  · cases hp
  · cases hp
  · cases hp
  · cases hp
  · exact keeps_execCrModTimer hs
  · exact keeps_execCrHeadDoorbell hs
  · exact keeps_execBar4Read hs
  · cases hp
  · exact keeps_execSeal hs
  · cases hp
  · exact keeps_execStreamTailRead hs
  · exact keeps_execTickLoRead hs
  · cases hp
  · exact keeps_execHostLinkUp hs
  · cases hp
  · cases hp
  · cases hp
  · cases hp
  · exact keeps_execPoolRequestAged hs
  · cases hp
  · cases hp
  · cases hp
  · exact keeps_execMxLoad hs
  · exact keeps_execShadowReady hs
  · exact keeps_execMxStream hs
  · exact keeps_execMxCntClear hs
  · cases hp
  · cases hp
  · cases hp
  · cases hp
  · cases hp
  · cases hp
  · cases hp
  · cases hp
  · cases hp
  · cases hp
  · cases hp
  · cases hp
  · exact keeps_execCkSampleDone hs
  · cases hp
  · cases hp
  · cases hp
  · cases hp
  · cases hp
  · exact keeps_execAtCntClear hs
  · cases hp
  · cases hp
  · cases hp
  · cases hp
  · cases hp
  · cases hp
  · cases hp
  · cases hp
  · cases hp
  · cases hp
  · cases hp
  · exact keeps_execWalkBegin hs
  · cases hp
  · cases hp
  · cases hp
  · cases hp
  · exact keeps_execPgAgeSweep hs
  · cases hp
  · cases hp
  · cases hp
  · cases hp
  · cases hp
  · cases hp
  · cases hp
  · cases hp
  · cases hp
  · cases hp
  · cases hp
  · cases hp
  · cases hp
  · cases hp
  · cases hp
  · cases hp
  · cases hp
  · cases hp
  · cases hp
  · cases hp
  · exact keeps_execMoveSourceRelease hs
  · exact keeps_execPolicyDemote hs
  · cases hp
  · cases hp
  · cases hp
  · cases hp
  · cases hp
  · cases hp
  · cases hp
  · cases hp
  · exact keeps_execSlotAgeExpiry hs
  · exact keeps_execQueScClear hs
  · cases hp
  · cases hp
  · cases hp
  · cases hp
  · cases hp
  · cases hp
  · cases hp
  · cases hp
  · cases hp
  · cases hp
  · cases hp
  · exact keeps_execRetrainHoldExpiry hs
  · cases hp
  · cases hp
  · cases hp
  · cases hp
  · cases hp
  · cases hp
  · cases hp
  · cases hp
  · exact keeps_execFlowAckTimer hs
  · exact keeps_execFlowBusyRetry hs
  · exact keeps_execFlowIdleRelease hs
  · cases hp
  · exact keeps_execMulticastBranchPrune hs
  · exact keeps_execMulticastLagTimeout hs
  · cases hp
  · exact keeps_execRouteCopy hs
  · exact keeps_execRouteCopyDone hs
  · cases hp
  · exact keeps_execTickAlignSend hs
  · cases hp
  · cases hp
  · cases hp
  · cases hp
  · cases hp
  · cases hp
  · cases hp
  · cases hp
  · cases hp
  · cases hp
  · cases hp
  · cases hp
  · cases hp
  · cases hp
  · cases hp
  · cases hp
  · cases hp
  · cases hp
  · cases hp
  · cases hp
  · cases hp
  · cases hp
  · exact keeps_execDrainComplete hs
  · cases hp
  · cases hp
  · exact keeps_execMainInputLoss hs
  · exact keeps_execMainReturn hs
  · exact keeps_execPwrReturnPermit hs
  · exact keeps_execBothInputsLoss hs
  · exact keeps_execHoldupStationsStop hs
  · cases hp
  · cases hp
  · exact keeps_execBudgetDivision hs
  · exact keeps_execDieGovernorSample hs
  · exact keeps_execOppStepDone hs
  · exact keeps_execGvManualSet hs
  · exact keeps_execGvFreqWrite hs
  · exact keeps_execGvVoltWrite hs
  · exact keeps_execBudgetWrite hs
  · exact keeps_execPwrUvWrite hs
  · cases hp
  · exact keeps_execThrottleClockStep hs
  · cases hp
  · exact keeps_execHotStackStep hs
  · exact keeps_execSequencerPowerWait hs
  · exact keeps_execGreyIdleTimer hs
  · exact keeps_execGreyEntry hs
  · exact keeps_execCharcoalEntry hs
  · exact keeps_execCharcoalReached hs
  · cases hp
  · cases hp
  · cases hp
  · cases hp
  · exact keeps_execRefSelectWrite hs
  · exact keeps_execRefSourceInvalid hs
  · exact keeps_execRefRevert hs
  · cases hp
  · cases hp
  · cases hp
  · cases hp
  · exact keeps_execDomainSwitch hs
  · exact keeps_execMarginAutoSwitch hs
  · exact keeps_execSwitchRampStep hs
  · exact keeps_execClkObsEnable hs
  · exact keeps_execHeartbeatSend hs
  · cases hp
  · cases hp
  · cases hp
  · cases hp
  · cases hp
  · cases hp
  · cases hp
  · cases hp
  · cases hp
  · cases hp
  · cases hp
  · cases hp
  · exact keeps_execCongestionNotification hs
  · cases hp
  · cases hp
  · cases hp
  · cases hp
  · cases hp
  · cases hp
  · exact keeps_execBootVerify hs
  · exact keeps_execF4Takeover hs
  · cases hp
  · exact keeps_execFullServiceEntry hs
  · exact keeps_execSetPlacement hs
  · exact keeps_execWriteModuleTable hs
  · exact keeps_execWriteOverride hs
  · exact keeps_execWriteMulticast hs
  · exact keeps_execCopyTables hs
  · cases hp
  · exact keeps_execSetRecovery hs
  · cases hp
  · cases hp
  · cases hp
  · exact keeps_execAlignTick hs
  · cases hp
  · exact keeps_execSetupRead hs
  · cases hp
  · cases hp
  · exact keeps_execCommitSvn hs
  · exact keeps_execRevokeKey hs
  · exact keeps_execLoadKey hs
  · exact keeps_execKeySendSelect hs
  · exact keeps_execKeyEraseSlot hs
  · exact keeps_execKeyEraseAll hs
  · exact keeps_execFirmwareUpdate hs
  · exact keeps_execActivateFirmware hs
  · exact keeps_execSpdmMessage hs
  · exact keeps_execPldmSensorRead hs
  · exact keeps_execBistStart hs
  · cases hp
  · cases hp
  · cases hp
  · cases hp
  · exact keeps_execAtbSelect hs
  · exact keeps_execAtbRoute hs
  · exact keeps_execPresentOpen hs
  · exact keeps_execCoolantReading hs
  · exact keeps_execCoolOkRestore hs
  · exact keeps_execMainInputValid hs
  · exact keeps_execReferenceSourceValid hs
  · exact keeps_execAonCrystalStop hs
  · exact keeps_execPortPartnerDetected hs
  · cases hp
  · exact keeps_execRoceResponseReceive (_data := []) hs
  · exact keeps_execPfcPauseFrame hs
  · cases hp

/-- The always-on count aside, nothing moves with the crystal. -/
theorem aonPart (s : State) (b : Bool) (n : Nat) : let u := if b then { s with aon := n } else s
    u.pending = s.pending ∧ u.tick = s.tick ∧ u.tickStop = s.tickStop ∧ u.flds = s.flds ∧ u.supply = s.supply ∧ u.slew = s.slew := by
  cases b <;> exact ⟨rfl, rfl, rfl, rfl, rfl, rfl⟩

/-- The storage rates leave the queue alone. -/
theorem recoverRates_pending (s : State) : (recoverRates s).pending = s.pending := by unfold recoverRates; split <;> rfl

/-- The storage rates leave the tick alone. -/
theorem recoverRates_tick (s : State) : (recoverRates s).tick = s.tick := by unfold recoverRates; split <;> rfl

/-- The selected source is a register. -/
theorem refSrc_flds {s t : State} (h : t.flds = s.flds) : refSrc t = refSrc s := by unfold refSrc getF; rw [h]

/-- A tick leaves the queue alone. -/
theorem idleTick_pending (s : State) : (idleTick s).pending = s.pending := by
  unfold idleTick
  extract_lets p u
  obtain ⟨h1, h2, h3, h4, h5, h6⟩ := aonPart s (flag s F.CLK_REF_STATE_AON_OK f0 && p) ((s.aon + 32768) % (2 ^ 48 * 100000000))
  rw [← h1]
  change _ = u.pending
  clear_value u
  split
  · rfl
  split
  · exact recoverRates_pending _
  split
  · exact recoverRates_pending _
  split
  · exact recoverRates_pending _
  · rfl

/-- The tick stands with no power, no source or a stopped clock. -/
theorem idleTick_stands (s : State) (h : s.tickStop = true ∨ refSrc s = 0 ∨ s.supply.phase ≥ 3) : (idleTick s).tick = s.tick := by
  unfold idleTick
  extract_lets p u
  obtain ⟨h1, h2, h3, h4, h5, h6⟩ := aonPart s (flag s F.CLK_REF_STATE_AON_OK f0 && p) ((s.aon + 32768) % (2 ^ 48 * 100000000))
  change u.tick = _ at h2
  change u.tickStop = _ at h3
  change u.flds = _ at h4
  change u.supply = _ at h5
  clear_value u
  rw [if_pos (by rw [h3, h5, refSrc_flds h4]; exact h), h2]

/-- The tick advances by one where it does not slew. -/
theorem idleTick_counts (s : State) (a : s.tickStop = false) (b : refSrc s ≠ 0) (c : s.supply.phase < 3) (d : s.slew = 0) : (idleTick s).tick = s.tick + 1 := by
  unfold idleTick
  extract_lets p u
  obtain ⟨h1, h2, h3, h4, h5, h6⟩ := aonPart s (flag s F.CLK_REF_STATE_AON_OK f0 && p) ((s.aon + 32768) % (2 ^ 48 * 100000000))
  change u.tick = _ at h2
  change u.tickStop = _ at h3
  change u.flds = _ at h4
  change u.supply = _ at h5
  change u.slew = _ at h6
  clear_value u
  rw [if_neg (by rw [h3, h5, refSrc_flds h4, a]; simp; exact ⟨b, c⟩), if_pos (by rw [h6, d]), recoverRates_tick, ← h2]

end Sys2Proof.Laws
end

