-- ==== Sys2Proof/WellFormed.lean ====
section
/-! DEFINITION. Which commands are well-formed: every operand lies in the range the spec gives what it names (R12, R53,
R59, R67, R74, R79, R95, R381, R382, R494). -/

namespace Sys2Proof.Instr

open Sys2Proof

/-- Queue numbers (R79). -/
def okQueue (q : Nat) : Bool := decide (q < 65536)
/-- Tags (R83). -/
def okTag (t : Nat) : Bool := decide (t < 65536)
/-- Die indices (R12). -/
def okDie (d : Nat) : Bool := decide (d < 32)
/-- Compute dies. -/
def okComp (d : Nat) : Bool := decide (d < 16)
/-- Fabric dies. -/
def okFab (d : Nat) : Bool := decide (16 ≤ d ∧ d < 24)
/-- Memory dies. -/
def okMem (d : Nat) : Bool := decide (24 ≤ d ∧ d < 32)
/-- Function indices (R74). -/
def okFn (f : Nat) : Bool := decide (f < 68)
/-- Sources of a register access. -/
def okSrc : Src → Bool
  | .fn f => okFn f
  | .mgmt => true
/-- Host ports (R74). -/
def okHostPort (p : Nat) : Bool := decide (p < 4)
/-- Fabric ports of the module (R377). -/
def okPort (p : Nat) : Bool := decide (p < 48)
/-- Station identifiers (R67). -/
def okStation (s : Nat) : Bool :=
  ([0x00, 0x01, 0x02, 0x03, 0x08, 0x09, 0x0C, 0x10, 0x18, 0x19, 0x1A, 0x20, 0x28, 0x29, 0x2A, 0x2B] : List Nat).contains s
/-- Movers of a die. -/
def okMover (m : Nat) : Bool := decide (0x28 ≤ m ∧ m ≤ 0x2B)
/-- Sequencers of a die. -/
def okSeqr (s : Nat) : Bool := decide (s < 4)
/-- Completion rings (R95). -/
def okRing (r : Nat) : Bool := decide (r < 4096)
/-- Streams of a die (R53). -/
def okStream (n : Nat) : Bool := decide (n < 1024)
/-- HBM stacks. -/
def okStack (n : Nat) : Bool := decide (n < 32)
/-- Tokens of a die (R59). -/
def okToken (n : Nat) : Bool := decide (n < 4096)
/-- Increments of a signal (R62). -/
def okInc (n : Nat) : Bool := decide (1 ≤ n ∧ n ≤ 65535)
/-- Clock domains of a die (R493); 4 is the TICK domain of F0 and F4. -/
def okDomain (n : Nat) : Bool := decide (n < 5)
/-- A 32-bit value. -/
def okWord (v : Nat) : Bool := decide (v < 2 ^ 32)
/-- A 64-bit value. -/
def okDWord (v : Nat) : Bool := decide (v < 2 ^ 64)
/-- A 16-bit mask. -/
def okMask (v : Nat) : Bool := decide (v < 65536)
/-- Access sizes of PCIe and of the register path. -/
def okSize (v : Nat) : Bool := decide (1 ≤ v ∧ v ≤ 64)
/-- A byte. -/
def okByte (v : Nat) : Bool := decide (v < 256)
/-- A bit. -/
def okBit (v : Nat) : Bool := decide (v < 2)
/-- Snapshot sets (R524). -/
def okSet (v : Nat) : Bool := decide (v < 4)
/-- Storage connections (R532). -/
def okConn (v : Nat) : Bool := decide (v < 16)
/-- Priorities of a storage port. -/
def okPrio (v : Nat) : Bool := decide (v < 8)
/-- Reference sources (R497). -/
def okSource (v : Nat) : Bool := decide (v < 4)
/-- Wake sources (R488). -/
def okWake (v : Nat) : Bool := decide (1 ≤ v ∧ v ≤ 9)
/-- Storage ports (R464). -/
def okStore (v : Nat) : Bool := decide (v < 2)
/-- Far-memory devices of a memory die (R317). -/
def okDev (v : Nat) : Bool := decide (v < 8)
/-- Bytes of a management request. -/
def okRequest (d : Bytes) : Bool := decide (d.length ≤ 4096)
/-- Fields of a transaction header (R382). -/
def okTx (t : Tx) : Bool :=
  decide (t.type < 256 ∧ t.srcModule < 65536 ∧ t.dstModule < 65536 ∧ t.dstDie < 256 ∧ t.srcDie < 256 ∧
    t.seq < 2 ^ 32 ∧ t.tag < 65536 ∧ t.cls < 8 ∧ t.lane < 2)
/-- Fields of a notice (R518). -/
def okNotice (n : Notice) : Bool := decide (n.kind < 256 ∧ n.hops < 256 ∧ n.origin < 65536 ∧ n.subject < 65536)
/-- Fields of a control record (R423). -/
def okRec (r : CtlRec) : Bool := decide (r.kind < 256 ∧ r.slot < 64 ∧ r.rank < 262144 ∧ r.seq < 2 ^ 32 ∧ r.arg < 2 ^ 32 ∧ r.body.length ≤ 48)

/-- A command is well-formed. -/
def wf : Instr → Bool
  | .queueEnable src q mask => okSrc src && okQueue q && okMask mask
  | .queueDisable src q mask => okSrc src && okQueue q && okMask mask
  | .queueDrained q => okQueue q
  | .queueAbort src q => okSrc src && okQueue q
  | .queueAbortDone q => okQueue q
  | .queueClrErr src q => okSrc src && okQueue q
  | .crEnable src r cfg => okSrc src && okRing r && okWord cfg
  | .crDisable src r cfg => okSrc src && okRing r && okWord cfg
  | .doorbell fn _ size value => okFn fn && okSize size && okDWord value
  | .descriptorFetch q _ => okQueue q
  | .admission die => okComp die
  | .dispatch die => okComp die
  | .resourceWaitEnd q tag => okQueue q && okTag tag
  | .stationFifoRoom die st => okComp die && okStation st
  | .nop q tag => okQueue q && okTag tag
  | .microCommandRetire die st => okComp die && okStation st
  | .postHeldCompletion r => okRing r
  | .crModTimer r => okRing r
  | .crHeadDoorbell src r size value => okSrc src && okRing r && okSize size && okDWord value
  | .bar4Read fn _ _ => okFn fn
  | .bar4Write fn _ _ => okFn fn
  | .seal src value => okSrc src && okWord value
  | .registerWrite fn _ size value => okFn fn && okSize size && okDWord value
  | .streamTailRead src die => okSrc src && okDie die
  | .tickLoRead src => okSrc src
  | .hostLinkDown port => okHostPort port
  | .hostLinkUp port => okHostPort port
  | .hostPortReset port => okHostPort port
  | .tokenSignal die tok sent => okComp die && okToken tok && okInc sent.inc
  | .streamCommit die stream _ => okComp die && okStream stream
  | .streamRelease die stream st => okComp die && okStream stream && okStation st
  | .poolRequestAged die bank first others => okComp die && okByte bank && (first :: others).all (fun x => decide (x.1 < 27)) &&
      decide (((first :: others).map (·.1)).Nodup)
  | .mxFwd q tag => okQueue q && okTag tag
  | .mxDgrad q tag => okQueue q && okTag tag
  | .mxWgrad q tag => okQueue q && okTag tag
  | .mxLoad die st => okComp die && okStation st
  | .shadowReady die st => okComp die && okStation st
  | .mxStream die st _ => okComp die && okStation st
  | .mxCntClear src die st value => okSrc src && okComp die && okStation st && okWord value
  | .slGemm q tag => okQueue q && okTag tag
  | .slSlice q tag => okQueue q && okTag tag
  | .vxEw q tag => okQueue q && okTag tag
  | .cvConvert q tag => okQueue q && okTag tag
  | .cvRandomSet q tag => okQueue q && okTag tag
  | .cvRandomAdvance q tag => okQueue q && okTag tag
  | .cvRandomMask q tag => okQueue q && okTag tag
  | .cvRandomWords q tag => okQueue q && okTag tag
  | .ckPolicyBind q tag => okQueue q && okTag tag
  | .ckPolicyReset q tag => okQueue q && okTag tag
  | .ckPolicyUnbind q tag => okQueue q && okTag tag
  | .ckPolicyRead q tag => okQueue q && okTag tag
  | .ckSampleDone die _ => okComp die
  | .atFwd q call => okQueue q && okTag call.tag
  | .atBwd q call => okQueue q && okTag call.tag
  | .atBprep q tag => okQueue q && okTag tag
  | .atMerge q tag => okQueue q && okTag tag
  | .ringWaitTimeout die st => okComp die && okStation st
  | .atCntClear src die st value => okSrc src && okComp die && okStation st && okWord value
  | .pgOpen q tag => okQueue q && okTag tag
  | .pgAppend q tag => okQueue q && okTag tag
  | .pgTrim q tag => okQueue q && okTag tag
  | .pgClose q tag => okQueue q && okTag tag
  | .pgResume q tag => okQueue q && okTag tag
  | .pgPin q tag => okQueue q && okTag tag
  | .pgMove q tag => okQueue q && okTag tag
  | .pgQuery q tag => okQueue q && okTag tag
  | .pgRebuildCompact q tag => okQueue q && okTag tag
  | .pgRebuildRehome q tag => okQueue q && okTag tag
  | .rebuildSwap die => okComp die
  | .walkBegin die _ _ _ _ => okComp die
  | .walkEnd die _ => okComp die
  | .remapCopyDone die _ _ => okComp die
  | .pgDemotionDone die _ _ => okComp die
  | .appendParkTimeout die _ => okComp die
  | .pgAgeSweep die => okComp die
  | .stRun q tag => okQueue q && okTag tag
  | .stStopAtEnd q tag => okQueue q && okTag tag
  | .stStopNow q tag => okQueue q && okTag tag
  | .entryRelease die _ => okComp die
  | .shCtlDefine q tag => okQueue q && okTag tag
  | .shCtlBeginUpdate q tag => okQueue q && okTag tag
  | .shCtlCommit q tag => okQueue q && okTag tag
  | .shCtlQuery q tag => okQueue q && okTag tag
  | .shCtlFree q tag => okQueue q && okTag tag
  | .tmMap q tag => okQueue q && okTag tag
  | .tmUnmap q tag => okQueue q && okTag tag
  | .tmMove q tag => okQueue q && okTag tag
  | .tmPinSet q tag => okQueue q && okTag tag
  | .tmPinClear q tag => okQueue q && okTag tag
  | .tmQuery q tag => okQueue q && okTag tag
  | .tmObjPut q tag => okQueue q && okTag tag
  | .tmObjGet q tag => okQueue q && okTag tag
  | .tmObjDelete q tag => okQueue q && okTag tag
  | .tmObjStat q tag => okQueue q && okTag tag
  | .moveCopyDone _ _ _ => true
  | .moveSourceRelease _ => true
  | .policyDemote mdie => okMem mdie
  | .tierAccessTimeout die mover => okComp die && okMover mover
  | .farDeviceFail mdie dev => okMem mdie && okDev dev
  | .mvCopy q tag => okQueue q && okTag tag
  | .mvFill q tag => okQueue q && okTag tag
  | .mvIndexed q tag => okQueue q && okTag tag
  | .moverReadDone die mover _ _ => okComp die && okMover mover
  | .moverWriteAck die mover => okComp die && okMover mover
  | .slotCommit die stream => okComp die && okStream stream
  | .slotAgeExpiry die stream => okComp die && okStream stream
  | .queScClear src die st value => okSrc src && okComp die && okStation st && okWord value
  | .flitReceive port _ _ _ => okPort port
  | .portEnable src port value => okSrc src && okPort port && okWord value
  | .portDisable src port value => okSrc src && okPort port && okWord value
  | .portTrained port _ => okPort port
  | .trainingTimeout port => okPort port
  | .portMarginingDone port => okPort port
  | .laneErrorRetrain port _ => okPort port
  | .retrainDone port => okPort port
  | .retrainTimeout port => okPort port
  | .noFlitTimeout port => okPort port
  | .portLost port => okPort port
  | .retrainHoldExpiry port => okPort port
  | .write _ t => okTx t
  | .ack _ t => okTx t
  | .nack _ t => okTx t
  | .signal _ t => okTx t
  | .read _ t => okTx t
  | .readData _ t => okTx t
  | .notice _ n => okNotice n
  | .prune _ t => okTx t
  | .flowAckTimer _ => true
  | .flowBusyRetry _ => true
  | .flowIdleRelease _ => true
  | .lossLimitExpiry _ => true
  | .multicastBranchPrune fdie port _ _ _ _ => okFab fdie && okPort port
  | .multicastLagTimeout die _ => okComp die
  | .retentionLimitExpiry die _ => okComp die
  | .routeCopy src fdie => okSrc src && okFab fdie
  | .routeCopyDone fdie => okFab fdie
  | .routeSwap src fdie => okSrc src && okFab fdie
  | .tickAlignSend port => okPort port
  | .rdCommDefine q tag => okQueue q && okTag tag
  | .rdCommRetire q tag => okQueue q && okTag tag
  | .rdReduce q tag => okQueue q && okTag tag
  | .rdGather q tag => okQueue q && okTag tag
  | .rdA2a q tag => okQueue q && okTag tag
  | .rdPermute q tag => okQueue q && okTag tag
  | .permuteEpochAdvance die fn => okComp die && okFn fn
  | .rdEpochRetire q tag => okQueue q && okTag tag
  | .rdExpertDispatch q tag => okQueue q && okTag tag
  | .rdExpertCombine q tag => okQueue q && okTag tag
  | .rdExtWrite q tag => okQueue q && okTag tag
  | .rdExtSwap q tag => okQueue q && okTag tag
  | .rdExtCopy q tag => okQueue q && okTag tag
  | .ready die rec => okComp die && okRec rec
  | .data die rec => okComp die && okRec rec
  | .close die rec => okComp die && okRec rec
  | .fail die rec => okComp die && okRec rec
  | .list die rec => okComp die && okRec rec
  | .gatherReq die rec => okComp die && okRec rec
  | .stragglerWindowClose die _ _ => okComp die
  | .closeTimeout die _ _ => okComp die
  | .drainGo src fdie value => okSrc src && okFab fdie && okWord value
  | .drainComplete fdie => okFab fdie
  | .drainRelease src fdie value => okSrc src && okFab fdie && okWord value
  | .drainHoldExpiry fdie => okFab fdie
  | .mainInputLoss _ => true
  | .mainReturn => true
  | .pwrReturnPermit src value => okSrc src && okWord value
  | .bothInputsLoss => true
  | .holdupStationsStop => true
  | .inputRestored _ => true
  | .holdupSpent => true
  | .budgetDivision _ => true
  | .dieGovernorSample die _ => okDie die
  | .oppStepDone die => okDie die
  | .gvManualSet src die value => okSrc src && okDie die && okWord value
  | .gvFreqWrite src die value => okSrc src && okDie die && okWord value
  | .gvVoltWrite src die value => okSrc src && okDie die && okWord value
  | .budgetWrite src _ value => okSrc src && okWord value
  | .pwrUvWrite src value => okSrc src && okWord value
  | .dieTempReading die _ => okDie die
  | .throttleClockStep die => okDie die
  | .stackTempReading stack _ => okStack stack
  | .hotStackStep stack => okStack stack
  | .sequencerPowerWait die seqr _ => okComp die && okSeqr seqr
  | .greyIdleTimer die => okComp die
  | .greyEntry die _ => okComp die
  | .charcoalEntry die => okComp die
  | .charcoalReached die => okComp die
  | .wakeEvent source die port => okWake source && okDie die && okPort port
  | .charcoalWakeDone die => okComp die
  | .aonTimerMatch => true
  | .i3cAddressMatch => true
  | .refSelectWrite src value => okSrc src && okWord value
  | .refSourceInvalid source => okSource source
  | .refRevert => true
  | .holdoverExpiry _ => true
  | .clockSourceFail die dom _ _ => okDie die && okDomain dom
  | .domainResume die dom pll => okDie die && okDomain dom && okBit pll
  | .memoryClockTimeout die dom => okDie die && okDomain dom
  | .domainSwitch src die dom value => okSrc src && okDie die && okDomain dom && okWord value
  | .marginAutoSwitch die dom => okDie die && okDomain dom
  | .switchRampStep die dom => okDie die && okDomain dom
  | .clkObsEnable src value => okSrc src && okWord value
  | .heartbeatSend => true
  | .heartbeatTimeout _ => true
  | .progressTimeout die st => okDie die && okStation st
  | .stationFence die st _ => okDie die && okStation st
  | .dieFence die _ => okDie die
  | .poolScrub die _ _ => okDie die
  | .hbmPatrolScrub stack _ _ => okStack stack
  | .snDefine q tag => okQueue q && okTag tag
  | .snTake q tag => okQueue q && okTag tag
  | .captureDone set => okSet set
  | .localLayerCommit set _ => okSet set
  | .sharedLayerCommit set => okSet set
  | .roceRetransmitTimeout conn => okConn conn
  | .congestionNotification conn => okConn conn
  | .snRestore q tag _ => okQueue q && okTag tag
  | .snConn q tag => okQueue q && okTag tag
  | .coldStart _ _ => true
  | .resetNAssert _ => true
  | .mgtResetWarm src value => okSrc src && okWord value
  | .managementWatchdog => true
  | .bootVerify _ _ => true
  | .f4Takeover => true
  | .limitedServiceEntry die => okDie die
  | .fullServiceEntry die => okDie die
  | .setPlacement bs => okRequest bs
  | .writeModuleTable bs => okRequest bs
  | .writeOverride bs => okRequest bs
  | .writeMulticast bs => okRequest bs
  | .copyTables bs => okRequest bs
  | .commitPlacement bs => okRequest bs
  | .setRecovery bs => okRequest bs
  | .wake bs => okRequest bs
  | .setPowerState bs => okRequest bs
  | .fence bs _ => okRequest bs
  | .alignTick bs _ => okRequest bs
  | .setupWrite bs _ => okRequest bs
  | .setupRead bs => okRequest bs
  | .warmReset bs => okRequest bs
  | .coldReset bs _ _ => okRequest bs
  | .commitSvn bs _ => okRequest bs
  | .revokeKey bs _ => okRequest bs
  | .loadKey bs _ => okRequest bs
  | .keySendSelect bs _ => okRequest bs
  | .keyEraseSlot bs _ => okRequest bs
  | .keyEraseAll bs _ => okRequest bs
  | .firmwareUpdate _ => true
  | .activateFirmware => true
  | .spdmMessage _ _ => true
  | .pldmSensorRead _ _ => true
  | .bistStart src die value => okSrc src && okDie die && okWord value
  | .bistDone die _ => okDie die
  | .marginStart src die value => okSrc src && okDie die && okWord value
  | .marginHoldBegin die => okDie die
  | .marginRunDone die _ _ _ => okDie die
  | .atbSelect src die value => okSrc src && okDie die && okWord value
  | .atbRoute src value => okSrc src && okWord value
  | .presentOpen => true
  | .coolantReading _ _ => true
  | .coolOkRestore => true
  | .mainInputValid _ => true
  | .referenceSourceValid source => okSource source
  | .aonCrystalStop => true
  | .portPartnerDetected port => okPort port
  | .inPackageLinkLost a b => okDie a && okDie b
  | .roceResponseReceive conn _ _ => okConn conn
  | .pfcPauseFrame sport prio _ => okStore sport && okPrio prio
  | .snapshotExtentRead set _ => okSet set

end Sys2Proof.Instr
end

