-- ==== Sys2Proof/Tests/Slice0.lean ====
section
/-! SUPPORT. Tests: each check of WellFormed refuses an ill-formed command; for every statement, states and operands that meet its
premises; and small examples taken from the spec. -/



namespace Sys2Proof.Tests

set_option Elab.async false

open Sys2Proof Sys2Proof.Machine Sys2Proof.Laws

/-! ## Ill-formed commands -/

/-- A transaction with empty fields. -/
def tx0 : Tx := ⟨1, 0, 0, 0, 0, 0, 0, 0, 0, 0, 0, [], 0, 0, none⟩
/-- A notice with empty fields. -/
def notice0 : Notice := ⟨1, 0, 0, 0, 0, 0, 0, 0, 0⟩
/-- A control record with empty fields. -/
def rec0 : CtlRec := ⟨1, 0, 0, 0, 0, []⟩

theorem test_wf_good : Instr.wf (.queueEnable (.fn 17) 65535 65535) = true := by decide
theorem test_wf_queue : Instr.wf (.queueDrained 65536) = false := by decide
theorem test_wf_tag : Instr.wf (.nop 0 65536) = false := by decide
theorem test_wf_die : Instr.wf (.dieFence 32 1) = false := by decide
theorem test_wf_comp : Instr.wf (.admission 16) = false := by decide
theorem test_wf_fab : Instr.wf (.routeCopyDone 15) = false ∧ Instr.wf (.routeCopyDone 24) = false := by decide
theorem test_wf_mem : Instr.wf (.policyDemote 23) = false := by decide
theorem test_wf_fn : Instr.wf (.bar4Read 68 0 4) = false := by decide
theorem test_wf_src : Instr.wf (.tickLoRead (.fn 68)) = false := by decide
theorem test_wf_hostPort : Instr.wf (.hostLinkDown 4) = false := by decide
theorem test_wf_storePort : Instr.wf (.pfcPauseFrame 2 0 0) = false := by decide
theorem test_wf_port : Instr.wf (.portLost 48) = false := by decide
theorem test_wf_station : Instr.wf (.stationFifoRoom 0 0x04) = false := by decide
theorem test_wf_mover : Instr.wf (.moverWriteAck 0 0x27) = false ∧ Instr.wf (.moverWriteAck 0 0x2C) = false := by decide
theorem test_wf_seqr : Instr.wf (.sequencerPowerWait 0 4 1) = false := by decide
theorem test_wf_ring : Instr.wf (.crModTimer 4096) = false := by decide
theorem test_wf_stream : Instr.wf (.slotCommit 0 1024) = false := by decide
theorem test_wf_stack : Instr.wf (.hotStackStep 32) = false := by decide
theorem test_wf_token : Instr.wf (.tokenSignal 0 4096 ⟨1, none⟩) = false := by decide
theorem test_wf_inc : Instr.wf (.tokenSignal 0 0 ⟨0, none⟩) = false ∧ Instr.wf (.tokenSignal 0 0 ⟨65536, none⟩) = false := by decide
theorem test_wf_domain : Instr.wf (.marginAutoSwitch 0 5) = false := by decide
theorem test_wf_word : Instr.wf (.seal .mgmt (2 ^ 32)) = false := by decide
theorem test_wf_dword : Instr.wf (.doorbell 0 0 8 (2 ^ 64)) = false := by decide
theorem test_wf_mask : Instr.wf (.queueEnable .mgmt 0 65536) = false := by decide
theorem test_wf_size : Instr.wf (.registerWrite 0 0 0 0) = false ∧ Instr.wf (.registerWrite 0 0 65 0) = false := by decide
theorem test_wf_byte : Instr.wf (.poolRequestAged 0 256 (0, 64) []) = false ∧ Instr.wf (.poolRequestAged 0 0 (27, 0) []) = false := by decide
theorem test_wf_bit : Instr.wf (.domainResume 0 0 2) = false := by decide
theorem test_wf_set : Instr.wf (.captureDone 4) = false := by decide
theorem test_wf_conn : Instr.wf (.congestionNotification 16) = false := by decide
theorem test_wf_prio : Instr.wf (.pfcPauseFrame 0 8 0) = false := by decide
theorem test_wf_source : Instr.wf (.refSourceInvalid 4) = false := by decide
theorem test_wf_wake : Instr.wf (.wakeEvent 0 0 0) = false ∧ Instr.wf (.wakeEvent 10 0 0) = false := by decide
theorem test_wf_dev : Instr.wf (.farDeviceFail 24 8) = false := by decide
theorem test_wf_request : Instr.wf (.warmReset (List.replicate 4097 0)) = false := by decide +kernel
theorem test_wf_tx : Instr.wf (.ack none { tx0 with type := 256 }) = false := by decide
theorem test_wf_notice : Instr.wf (.notice none { notice0 with kind := 256 }) = false := by decide
theorem test_wf_rec : Instr.wf (.ready 0 { rec0 with slot := 64 }) = false := by decide

/-! ## Small states -/

/-- A state with some register fields set: field, die, index, value. -/
def setAll (s : State) (l : List (Fld × Nat × Nat × Nat)) : State := l.foldl (fun s x => setF s x.1 x.2.1 x.2.2.1 x.2.2.2) s

/-- An image with some fields placed: offset, bytes, value. -/
def image (l : List (Nat × Nat × Nat)) : Bytes :=
  l.foldl (fun b x => b.take x.1 ++ toLe x.2.1 x.2.2 ++ b.drop (x.1 + x.2.1)) (List.replicate 128 0)

/-- A descriptor of queue 0 with tag 0 that a sequencer has taken and whose operation has not started. -/
def taken (img : Bytes) : Desc := ⟨0, 0, img, 0, 0, 0, false, 0, false, false, 0, 0, [], none, [], [], 0, [], false, 0, 0, 0, [], [], [],
  none, 0, []⟩

theorem reaches_of {s : State} {die : Nat}
    (h : (decide (s.supply.phase < 3) && !dieFenced s die && !inCharcoal s die && !coreForced s die) = true) : reaches s die := by
  simp only [Bool.and_eq_true, decide_eq_true_eq, Bool.not_eq_true'] at h
  exact ⟨h.1.1.1, h.1.1.2, h.1.2, h.2⟩

theorem sound_of {s : State} (h1 : tabWf s.flds = true) (h2 : s.tokens = []) (h3 : s.mem = []) (h4 : s.hostMem = []) (h5 : s.wardMem = [])
    (h6 : s.elog = []) (h7 : s.rlog = []) (h8 : s.noticeCache = []) : Sound s :=
  ⟨h1, h2 ▸ rfl, h3 ▸ by decide, h4 ▸ by decide, h5 ▸ by decide, h6 ▸ by decide, h7 ▸ by decide, h8 ▸ by decide⟩

/-- PF 0 owns the queues of group 0 of C0 and ring 0, which is enabled; queue 0 has 64 slots. -/
def s1 : State := setAll State.reset [(F.QUE_GRP_OWN_OWNER, 0, 0, 128), (F.QUE_CR_OWN_OWNER, 0, 0, 128), (F.QUE_CR_CFG_ENABLE, 0, 0, 1),
  (F.QUE_CR_CFG_SIZE_LOG2, 0, 0, 6), (F.QUE_CR_CFG_VEC, 0, 0, 1), (F.QUE_Q_CFG_SIZE_LOG2, 0, 0, 6)]
/-- The same with queue 0 running. -/
def s2 : State := setAll s1 [(F.QUE_Q_STATUS_STATE, 0, 0, 1), (F.QUE_Q_CTRL_ENABLE, 0, 0, 1)]

/-! ## Queues, rings and doorbells -/

theorem witness_Queues_enable : reaches s1 (qDie 0) ∧ s1 = wakeByAccess s1 (.fn 0) (qDie 0) ∧ mayWrite (.fn 0) (queueOwner s1 0) ∧ Sound s1 ∧
    qState s1 0 = 0 ∧ enableFail (setF s1 F.QUE_Q_CTRL_OPC_MASK 0 0 65535) 0 = none ∧
    enableFail (setF (setF s1 F.QUE_Q_CFG_SIZE_LOG2 0 0 13) F.QUE_Q_CTRL_OPC_MASK 0 0 65535) 0 = some 2 :=
  ⟨reaches_of (by decide +kernel), (wakeByAccess_white (by decide +kernel)).symm, .inr ⟨0, rfl, .inl (by decide +kernel)⟩,
    sound_of (by decide +kernel) rfl rfl rfl rfl rfl rfl rfl, by decide +kernel, by decide +kernel, by decide +kernel⟩

/-- An access by a function wakes a die that sleeps: the state before and the state after differ. -/
theorem witness_Queues_wake : reaches { s1 with powers := [(0, 1)] } (qDie 0) ∧
    powerOf { s1 with powers := [(0, 1)] } 0 = 1 ∧ powerOf (wakeByAccess { s1 with powers := [(0, 1)] } (.fn 0) (qDie 0)) 0 = 0 ∧
    qState (wakeByAccess { s1 with powers := [(0, 1)] } (.fn 0) (qDie 0)) 0 = 0 :=
  ⟨reaches_of (by decide +kernel), by decide +kernel⟩

theorem witness_Queues_control : reaches s2 (qDie 0) ∧ s2 = wakeByAccess s2 (.fn 0) (qDie 0) ∧ mayWrite (.fn 0) (queueOwner s2 0) ∧ Sound s2 ∧
    getF s2 F.QUE_Q_CTRL_OPC_MASK (qDie 0) (qLoc 0) < 65536 ∧ qState s2 0 = 1 ∧ qState (setQState s2 0 2) 0 = 2 ∧
    queueOwner s2 0 = some 0 ∧ isPF 17 = true ∧
    (let t := setQInt s2 0 { QInt.reset with draining := true }
     (getQInt t 0).draining = true ∧ qIdle t 0 = true ∧ qState t 0 = 1 ∧
       (let u := setQState t 0 2
        (getQInt u 0).draining = true ∧ qIdle u 0 = true ∧ qState u 0 = 2)) ∧
    (let t := setQState s2 0 3
     qState t 0 = 3 ∧ qIdle t 0 = true ∧ qIdle { t with descs := [taken (image [])] } 0 = false) :=
  ⟨reaches_of (by decide +kernel), (wakeByAccess_white (by decide +kernel)).symm, .inr ⟨0, rfl, .inl (by decide +kernel)⟩,
    sound_of (by decide +kernel) rfl rfl rfl rfl rfl rfl rfl, by decide +kernel⟩

theorem witness_CompletionRings_config : reaches s1 0 ∧ s1 = wakeByAccess s1 (.fn 0) (0 / 256) ∧ mayWrite (.fn 0) (ringOwner s1 0) ∧
    (let t := setF s1 F.QUE_CR_CFG_ENABLE 0 0 0
     flag t F.QUE_CR_CFG_ENABLE 0 0 = false ∧ ringFail (storeRingCfg t 0 (setBits 0x10006 6 1 1)) 0 = none) ∧
    ringUnused s1 0 = true ∧ (getRInt s1 0).held = [] ∧ flag s1 F.QUE_CR_CFG_ENABLE 0 0 = true ∧
    flag s2 F.QUE_CR_CFG_ENABLE 0 0 = true ∧ ringUnused s2 0 = false :=
  ⟨reaches_of (by decide +kernel), (wakeByAccess_white (by decide +kernel)).symm, .inr ⟨0, rfl, .inl (by decide +kernel)⟩, by decide +kernel⟩

theorem witness_CompletionRings_posting :
    (let t := setRInt s2 0 { RInt.reset with held := [⟨0, 0, 0, 0, [], 0, false, false⟩] }
     (getRInt t 0).held ≠ [] ∧ ringFull t 0 = false) ∧
    ringFull (setF s2 F.QUE_CR_TAIL_TAIL 0 0 64) 0 = true ∧ reaches s2 (die04 s2) ∧ mayWrite (.fn 0) (ringOwner s2 0) ∧
    (let t := setF s2 F.QUE_CR_TAIL_TAIL 0 0 5
     ringPending t 0 = 5 ∧ (5 % 2 ^ 32 + 2 ^ 32 - getF t F.QUE_CR_HEAD_HEAD 0 0) % 2 ^ 32 ≤ ringPending t 0 ∧
       (6 % 2 ^ 32 + 2 ^ 32 - getF t F.QUE_CR_HEAD_HEAD 0 0) % 2 ^ 32 > ringPending t 0) :=
  ⟨by decide +kernel, by decide +kernel, reaches_of (by decide +kernel), .inr ⟨0, rfl, .inl (by decide +kernel)⟩, by decide +kernel⟩

theorem witness_Doorbell : Sound s2 ∧ doorbellQueue s2 0 0 = some 0 ∧ s2 = wakeFrom s2 7 (qDie 0) ∧ dieFenced s2 (qDie 0) = false ∧
    powerOf s2 (qDie 0) < 2 ∧
    (let s := { s2 with powers := [(0, 3)] }
     doorbellQueue s 0 0 = some 0 ∧ dieFenced (wakeFrom s 7 (qDie 0)) (qDie 0) = false ∧ powerOf (wakeFrom s 7 (qDie 0)) (qDie 0) ≥ 2) ∧
    queueOwner s2 0 = some 0 ∧ qState s2 0 = 1 ∧ isLane s2 0 = false ∧ qTail s2 0 ≠ 64 % 65536 ∧
    (64 + 2 ^ 16 - qFetch s2 0) % 2 ^ 16 ≤ qSize s2 0 ∧ (65 + 2 ^ 16 - qFetch s2 0) % 2 ^ 16 > qSize s2 0 ∧
    doorbellQueue s2 17 0 = some 0 ∧ qState s1 0 ≠ 1 ∧
    (let s := setF s2 F.QUE_GRP_OWN_OWNER 0 0 0
     doorbellQueue s 0 0 = some 0 ∧ queueOwner s 0 = none) :=
  ⟨sound_of (by decide +kernel) rfl rfl rfl rfl rfl rfl rfl, by decide +kernel, (by
    have h : powerOf s2 (qDie 0) = 0 := by decide +kernel
    exact (wakeByAccess_white (src := .fn 0) h).symm), by decide +kernel⟩

theorem witness_DispatchAndRetire_fetch :
    (let t := setF s2 F.QUE_Q_HEAD_TAIL 0 0 1
     qState t 0 = 1 ∧ qEnabled t 0 = true ∧ isLane t 0 = false ∧ dieServes t (qDie 0) = true ∧ qFetch t 0 ≠ qTail t 0 ∧
       (queueDescs t 0).length + (getQInt t 0).fetched.length ≤ getF t F.QUE_Q_CFG_OUTST_M1 (qDie 0) (qLoc 0) ∧
       dieRoom t (qDie 0) (qPrio t 0) = true ∧
       fetchData t 0 none = none ∧ fetchData t 0 (some (List.replicate 64 0)) = some (List.replicate 64 0)) := by decide +kernel

/-- 800 descriptors of queue 0 fill the pool and the floor of its level: the queue fetches no more. -/
theorem witness_DispatchAndRetire_full_die :
    dieRoom { s2 with descs := List.replicate 768 (taken []) ++ List.replicate 32 { taken [] with inFloor := true } } (qDie 0) 0 = false := by
  decide +kernel

theorem witness_DispatchAndRetire_admission :
    (let t := setQInt (setAll s2 [(F.QUE_Q_HEAD_TAIL, 0, 0, 2), (F.QUE_Q_HEAD_FETCH_HEAD, 0, 0, 1), (F.QUE_Q_CFG_OUTST_M1, 0, 0, 255)]) 0
       { QInt.reset with fetched := [⟨0, List.replicate 64 0⟩] }
     dieServes t 0 = true ∧ admitsNone t = false ∧ (pickQueue t 0).isSome = true) := by decide +kernel

theorem witness_DispatchAndRetire_dispatch :
    (let d := { taken (image []) with seqr := 4 }
     let g := { taken (image [(4, 1, 4)]) with seqr := 4 }
     let t := { s2 with descs := [d] }
     let u := setF { s2 with descs := [d, { d with tag := 1, seqr := 0 }] } F.GV_POWER_SHARE 0 0 0
     dieServes t 0 = true ∧ t.descs.filter (isReady t 0) ≠ [] ∧ pickSeqr t 0 = some 0 ∧
       oldest ((t.descs.filter (isReady t 0)).filter (fun d => hGlobal d.image)) = none ∧
       (chooseReady t 0 (t.descs.filter (isReady t 0))).map (·.1) = some d ∧ fits t 0 (hClass d.image) = true ∧
       (chooseReady u 0 (u.descs.filter (isReady u 0))).map (·.1) = some d ∧ (pickSeqr u 0).isSome = true ∧ fits u 0 (hClass d.image) = false ∧
       oldest (({ s2 with descs := [g] }.descs.filter (isReady { s2 with descs := [g] } 0)).filter (fun d => hGlobal d.image)) = some g ∧
       admitsNone (setF s2 F.MGT_SVC_RECOVERY f0 0 1) = true) := by decide +kernel

theorem witness_DispatchAndRetire_waits :
    (let t := { s2 with descs := [{ taken (image []) with waiting := true }] }
     descOf t 0 0 = some { taken (image []) with waiting := true } ∧ (newStream t (qDie 0) 0x28 3 tileLines [0x28]).isSome = true) ∧
    (let d := { taken (image []) with todo := [.push 0x18 ⟨0, 0, 0, .plain, false, false, 0, [], 0⟩] }
     let t := { s2 with descs := [d] }
     tgetD t.overs (fifoKey 0 0x18) [] = [] ∧ oldest (t.descs.filter (pushesTo 0 0x18)) = some d ∧
       oldest (s2.descs.filter (pushesTo 0 0x18)) = none) ∧
    (let m : Micro := ⟨0, 0, 0, .plain, false, false, 0, [], 0⟩
     let t := { s2 with overs := [(fifoKey 0 0x18, [m])] }
     tgetD t.overs (fifoKey 0 0x18) [] = [m] ∧ (fifo t 0 0x18).length < 64 ∧
       (fifo (setFifo t 0 0x18 (List.replicate 64 m)) 0 0x18).length ≥ 64) ∧
    opDesc { s2 with descs := [taken (image [])] } 0 0 (fun i => opcode i == 0) = some (taken (image [])) ∧
    isComp 15 = true ∧ stations.contains 0x2B = true := by decide +kernel

theorem witness_DispatchAndRetire_full :
    newStream { s2 with streams := [(streamKey 0 0, ⟨0, 1, streamLines, 0x28, [], 0, 0, 0⟩)] } 0 0x28 3 tileLines [0x28] = none := by
  decide +kernel

/-! ## Host accesses, tokens and streams -/

/-- The module with an aperture of 1 GiB for each physical function. -/
def s3 : State := { State.reset with bar4 := 1 }

theorem witness_HostAccess_aperture : apertureAddr s3 0 0x40 64 = some 0x40 ∧ inMemory s3 0x40 64 = true ∧ physLost s3 0x40 = false ∧
    physLost s3 (0x40 + 64 - 1) = false ∧ apertureAddr s3 0 (2 ^ 30 - 1) 1 = some (2 ^ 30 - 1) ∧ apertureAddr s3 0 (2 ^ 30) 1 = none ∧
    (let t := setF s3 F.HST_BAR4_BASE_HI_BASE f0 0 0x8000
     (apertureAddr t 0 0 4).isSome = true ∧ inMemory t ((apertureAddr t 0 0 4).getD 0) 4 = false) := by decide +kernel

theorem witness_ApertureReadBack : Sound s3 ∧ (∃ t, exec (.bar4Write 0 0x40 [1, 2]) s3 = .next t) ∧ apertureAddr s3 0 0x40 2 = some 0x40 ∧
    inMemory s3 0x40 2 = true ∧ physLost s3 0x40 = false ∧ physLost s3 0x41 = false :=
  ⟨sound_of rfl rfl rfl rfl rfl rfl rfl rfl, ⟨_, rfl⟩, by decide +kernel⟩

theorem witness_HostAccess_seal : reaches State.reset (die04 State.reset) ∧ isPfSrc (.fn 0) = true ∧ sealed State.reset = false ∧
    sealed (plainWrite State.reset (.fn 0) f0 0x100 1) = true ∧ sealed (setF State.reset F.HST_SEAL_SEAL f0 0 1) = true :=
  ⟨reaches_of (by decide +kernel), by decide +kernel⟩

theorem witness_HostAccess_write : barPlace s1 18 0 = none ∧ barPlace s1 0 0x0C = some (0, 0x0C) ∧ crdbRing 0 0x0C = none ∧
    barPlace s1 0 0x1FFFFF8 = some (0, 0x1FFFFF8) ∧ (8 : Nat) % 8 = 0 ∧ barPlace (writeReg s1 (.fn 0) 0 8 0) 0 12 = some (0, 12) ∧
    reaches s1 0 ∧ holdsReg 0 0x100000 = true ∧ barPlace s1 0 0x100000 = some (0, 0x100000) ∧ crdbRing 0 0x100000 = none :=
  ⟨by decide +kernel, by decide +kernel, by decide +kernel, by decide +kernel, by decide +kernel, by decide +kernel,
    reaches_of (by decide +kernel), by decide +kernel⟩

/-- A stream of two slots of one line on C0 from the convert station to mover 0x28, with one tile in it. -/
def st0 : Stream := ⟨0, 2, 2, 0x18, [(0x28, 0)], 1, 0, 0⟩
/-- The module with that stream. -/
def s4 : State := { State.reset with streams := [(streamKey 0 0, st0)] }

theorem witness_HostAccess_reads : s4 = wakeByAccess s4 .mgmt 0 ∧ isPfSrc .mgmt = true ∧ reaches s4 0 ∧ isComp 0 = true ∧
    tget? s4.streams (streamKey 0 (getF s4 F.QUE_STREAM_SEL_STREAM 0)) = some st0 ∧
    tget? s1.streams (streamKey 0 (getF s1 F.QUE_STREAM_SEL_STREAM 0)) = none ∧ reaches s4 (die04 s4) ∧
    dieFenced (setF s4 F.MGT_FENCE_DIE 0 0 1) 0 = true ∧ inCharcoal { s4 with powers := [(0, 3)] } 0 = true ∧
    tget? s4.linkDown 0 = none ∧ tget? { s4 with linkDown := [(0, 1)] }.linkDown 0 = some 1 ∧
    dieFenced s4 (16 + 2 * 0) = false ∧ dieFenced (setF s4 F.MGT_FENCE_DIE 16 0 1) (16 + 2 * 0) = true :=
  ⟨rfl, rfl, reaches_of (by decide +kernel), rfl, by decide +kernel, by decide +kernel, reaches_of (by decide +kernel), by decide +kernel⟩

/-- A tile of `n` rows of 32 BF16 elements. -/
def tile0 (n : Nat) : Bytes := toLe 8 (3 + 2 ^ 16 * n + 2 ^ 32 * 32 + 2 ^ 48 * 64) ++ List.replicate (56 + 64 * n) 0

theorem witness_TokensAndStreams : tget? s4.streams (streamKey 0 0) = some st0 ∧ streamFill st0 < st0.slots ∧
    tileOk (tile0 1) = true ∧ (tile0 1).length ≤ 64 * { st0 with slotLines := 2 }.slotLines ∧ stFenced s4 0 st0.producer = false ∧
    streamFill { st0 with tail := 2 } ≥ st0.slots ∧ tileOk [] = false ∧ (tile0 2).length > 64 * st0.slotLines ∧
    stFenced (setF s4 F.MGT_FENCE_DIE 0 0 1) 0 st0.producer = true ∧
    ((st0.consumers.any (fun c => c.2 == st0.tail)) = false ∧ ({ st0 with tail := 0 }.consumers.any (fun c => c.2 == (0 : Word))) = true) ∧
    (let cs := st0.consumers.map (fun c => if c.1 = 0x28 ∧ c.2 ≠ st0.tail then (c.1, c.2 + 1) else c)
     cs ≠ st0.consumers) ∧
    isComp 15 = true ∧ dieFenced State.reset 15 = false ∧ dieFenced (setF State.reset F.MGT_FENCE_DIE 15 0 1) 15 = true ∧ isComp 16 = false ∧
    eldest (([(3, 64), (9, 70), (20, 12)] : List (Nat × Nat)).filter (fun x => decide (x.2 ≥ 64))) = some (9, 70) ∧
    ((∀ x ∈ ([(9, 5), (20, 63)] : List (Nat × Nat)), x.2 < 64) ∧
      (∀ k, 1 ≤ k → k < 2 → ∀ x ∈ ([(9, 5), (20, 63)] : List (Nat × Nat)), portRank x.1 ≠ k) ∧
      nextPort 0 ((([(9, 5), (20, 63)] : List (Nat × Nat)).map (·.1)).filter (fun p => portRank p == 2)) = some 9) :=
  ⟨by decide +kernel, by decide +kernel, by decide +kernel, by decide +kernel, by decide +kernel, by decide +kernel, by decide +kernel,
    by decide +kernel, by decide +kernel, by decide +kernel, by decide +kernel, by decide +kernel, by decide +kernel, by decide +kernel,
    by decide +kernel, by decide +kernel, by decide,
    fun k h1 h2 x hx => by
      obtain rfl : k = 1 := by omega
      revert x; decide,
    by decide⟩

/-! ## Matrix, slice, element-wise, convert and check stations -/

/-- The module with one descriptor taken by a sequencer. -/
def op1 (img : Bytes) : State := { State.reset with descs := [taken img] }

/-- A matrix operation on BF16 operands of 16 by 16, with rows of 64 bytes. -/
def mxImage (op : Nat) : Bytes := image [(0, 1, op), (0x10, 8, 2 ^ 52 + 0x1000), (0x18, 8, 2 ^ 52 + 0x2000), (0x20, 8, 2 ^ 52 + 0x3000),
  (0x28, 4, 16), (0x2C, 4, 16), (0x30, 2, 16), (0x32, 1, 3), (0x33, 1, 3), (0x34, 1, 3)]

theorem witness_MatrixStations_ops : ∀ op ∈ [0x10, 0x11, 0x12], opDesc (op1 (mxImage op)) 0 0 (fun i => opcode i == op) = some (taken (mxImage op)) ∧
    firstFail (mxChecks (op1 (mxImage op)) (taken (mxImage op))) = none ∧ pairOf (mxBody (mxImage op)).af (mxBody (mxImage op)).bf = some .bf16 ∧
    (let bad := image [(0, 1, op)]
     opDesc (op1 bad) 0 0 (fun i => opcode i == op) = some (taken bad) ∧ firstFail (mxChecks (op1 bad) (taken bad)) = some 1) := by
  decide +kernel

/-- A micro-command of descriptor 0 of queue 0. -/
def mc (k : MKind) : Micro := ⟨0, 0, 0, k, false, false, 0, [], 0⟩

theorem witness_MatrixStations_events : stFenced State.reset 0 3 = false ∧ halted State.reset 0 3 = false ∧
    getF State.reset F.MX_STATE_SHADOW 0 3 ≠ 1 ∧ nextLoad (fifo (setFifo State.reset 0 3 [mc .load]) 0 3) = true ∧
    (let t := setF (setFifo State.reset 0 3 [mc .load, mc (.pass 1 0 true 0 none)]) F.MX_STATE_SHADOW 0 3 1
     getF t F.MX_STATE_SHADOW 0 3 = 1 ∧ getF t F.MX_STATE_ISSUE 0 3 = 0) ∧
    (let t := setFifo State.reset 0 3 [mc (.pass 16 0 true 0 none)]
     getF t F.MX_STATE_ISSUE 0 3 = 0 ∧ nextPass (fifo t 0 3) = some (mc (.pass 16 0 true 0 none)) ∧ getF t F.MX_STATE_SHADOW 0 3 ≠ 2 ∧
       getF (setF t F.MX_STATE_SHADOW 0 3 2) F.MX_STATE_SHADOW 0 3 = 2 ∧ getF (setF t F.MX_STATE_SHADOW 0 3 2) F.MX_STATE_ISSUE 0 3 = 0) ∧
    (let t := setFifo State.reset 0 3 [mc (.pass 16 2 false 0 none)]
     nextPass (fifo t 0 3) = some (mc (.pass 16 2 false 0 none))) ∧
    stFenced (setF State.reset F.MGT_FENCE_STATIONS 0 0 8) 0 3 = true ∧ halted (setF State.reset F.CLK_DOM_STATE_STATE 0 0 2) 0 3 = true :=
  by decide +kernel

/-- A pass of 16 rows that has started, of a call whose inputs have been read and are clean. -/
def passing : State :=
  setFifo { State.reset with descs := [{ taken (mxImage 0x10) with inputs := [⟨0x1000, List.replicate 1024 0, 0, none⟩,
    ⟨0x2000, List.replicate 1024 0, 0, none⟩] }] } 0 3 [{ mc (.pass 16 0 true 0 none) with started := true }]

theorem witness_MatrixStations_issued : isComp 0 = true ∧ halted passing 0 3 = false ∧
    fifo passing 0 3 = [{ mc (.pass 16 0 true 0 none) with started := true }] ∧
    (match descOf passing 0 0 with
     | some d => inputsDone passing d.queue d.tag && !mixedAt (viewOf passing d) d 0 && causeOfPass (viewOf passing d) d 0 == 0 &&
       (let t := mxCount (mxCount passing F.MX_CYC_VALID_VALID 0 3 (16 * rowCycles passing d.queue d.tag)) F.MX_ROWS_SKIP_SKIP 0 3 0
        !flag t F.MX_CNT_CTRL_FREEZE 0 3)
     | none => false) = true := by decide +kernel

theorem witness_MatrixStations_counters : reaches State.reset 15 ∧ State.reset = wakeByAccess State.reset (.fn 51) 15 ∧
    isPfSrc (.fn 51) = true ∧ isComp 15 = true :=
  ⟨reaches_of (by decide +kernel), (wakeByAccess_white (by decide +kernel)).symm, by decide, by decide⟩

/-- SL_GEMM of FP32 operands with three slices. -/
def slImage : Bytes := image [(0, 1, 0x20), (0x10, 8, 2 ^ 52 + 0x1000), (0x18, 8, 2 ^ 52 + 0x2000), (0x20, 8, 2 ^ 52 + 0x3000),
  (0x28, 4, 16), (0x2C, 4, 16), (0x30, 2, 16), (0x32, 1, 4), (0x33, 1, 4), (0x34, 1, 4), (0x35, 1, 3), (0x3C, 4, 1)]

theorem witness_ConvertAndCheck_sliced : opDesc (op1 slImage) 0 0 (fun i => opcode i == 0x20) = some (taken slImage) ∧
    firstFail (gemmChecks (op1 slImage) (taken slImage)) = none ∧ firstFail (gemmChecks (op1 slImage) (taken (image []))) = some 1 ∧
    (let i := image [(0, 1, 0x21), (0x10, 8, 2 ^ 52 + 0x1000), (0x18, 8, 2 ^ 52 + 0x2000), (0x20, 4, 16), (0x24, 4, 16), (0x28, 1, 4), (0x29, 1, 8)]
     opDesc (op1 i) 0 0 (fun i => opcode i == 0x21) = some (taken i) ∧ firstFail (sliceChecks i) = none ∧
       firstFail (sliceChecks (image [(0, 1, 0x21), (0x28, 1, 4)])) = some 2) := by decide +kernel

theorem witness_ConvertAndCheck_convert :
    (let i := image [(0, 1, 0x28), (0x10, 8, 2 ^ 52 + 0x1000), (0x18, 8, 2 ^ 52 + 0x2000), (0x20, 4, 16), (0x24, 2, 16), (0x26, 1, 4), (0x27, 1, 3)]
     opDesc (op1 i) 0 0 (fun i => opcode i == 0x28) = some (taken i) ∧ firstFail (convertChecks (op1 i) (taken i)) = none ∧
       firstFail (convertChecks (op1 i) (taken (image []))) = some 1) ∧
    (let i := image [(0, 1, 0x50), (0x2E, 1, 5), (0x2F, 1, 2)]
     opDesc (op1 i) 0 0 (fun i => opcode i == 0x50) = some (taken i) ∧ fld i 0x2F 1 ≤ 2 ∧ fld i 0x2E 1 = 5 ∧ fld (image [(0x2F, 1, 3)]) 0x2F 1 > 2) := by decide +kernel

/-- The module in which one function owns the first random streams and check profiles of C0. -/
def own1 (f : Nat) (img : Bytes) : State := setAll (op1 img) [(F.SEC_RS_OWN_OWNER, 0, 0, 128 + f), (F.SEC_PF_OWN_OWNER, 0, 0, 128 + f)]

theorem witness_ConvertAndCheck_random :
    (let i := image [(0, 1, 0x29), (0x14, 4, 7), (0x18, 8, 9)]
     opDesc (own1 0 i) 0 0 (isRandom 0) = some (taken i) ∧ firstFail (randomChecks (own1 0 i) (taken i)) = none) ∧
    (let i := image [(0, 1, 0x29), (0x10, 1, 1)]
     opDesc (own1 0 i) 0 0 (isRandom 1) = some (taken i) ∧ firstFail (randomChecks (own1 0 i) (taken i)) = none ∧
       firstFail (randomChecks (own1 17 i) (taken i)) = some 8) ∧
    (let i := image [(0, 1, 0x29), (0x10, 1, 2), (0x20, 8, 2 ^ 52 + 0x1000), (0x28, 4, 2), (0x2C, 2, 16)]
     opDesc (own1 0 i) 0 0 (isRandom 2) = some (taken i) ∧ firstFail (randomChecks (own1 0 i) (taken i)) = none) ∧
    (let i := image [(0, 1, 0x29), (0x10, 1, 3), (0x20, 8, 2 ^ 52 + 0x1000), (0x28, 4, 2), (0x2C, 2, 16)]
     opDesc (own1 0 i) 0 0 (isRandom 3) = some (taken i) ∧ firstFail (randomChecks (own1 0 i) (taken i)) = none) := by
  decide +kernel

theorem witness_ConvertAndCheck_policy :
    (let i := image [(0, 1, 0x2A), (0x10, 4, 5)]
     opDesc (own1 0 i) 0 0 (isPolicy 0) = some (taken i) ∧ firstFail (policyChecks (own1 0 i) (taken i)) = none ∧
       firstFail (policyChecks (own1 17 i) (taken i)) = some 8) ∧
    (∀ op ∈ [1, 2], let i := image [(0, 1, 0x2A), (0x10, 4, 5), (0x14, 1, op)]
     let s := setProf (own1 0 i) 0 5 (bindProfile (image [(0x10, 4, 5)]))
     opDesc s 0 0 (isPolicy op) = some (taken i) ∧ firstFail (policyChecks s (taken i)) = none) ∧
    (let i := image [(0, 1, 0x2A), (0x10, 4, 5), (0x14, 1, 3), (0x20, 8, 0x1000)]
     opDesc (own1 0 i) 0 0 (isPolicy 3) = some (taken i) ∧ firstFail (policyChecks (own1 0 i) (taken i)) = none) := by
  decide +kernel

theorem witness_ConvertAndCheck_sample : ∃ x : Sample,
    { State.reset with samples := [x] }.samples.find? (fun x => qDie x.queue == 0) = some x ∧ x.disagrees = false ∧
    (x.split && false) = false ∧ State.reset.samples.find? (fun x => qDie x.queue == 0) = none :=
  ⟨⟨0, 0, 0, 0, false, false, 0⟩, by decide +kernel⟩

/-! ## Attention and paging -/

/-- The module with a writable page of PF 0 at address 0 that lies at 256 MiB of stack 0, some bytes in it, and one descriptor taken. -/
def job (mem : List (Nat × Bytes)) (img : Bytes) : State :=
  { op1 img with pages := [(0, ⟨0, false, true, false, 0x10000000⟩)],
                 mem := mem.foldl (fun m x => writeBytes m (0x10000000 + x.1) x.2) [] }

/-- A parameter block of one BF16 head of 64 elements, and a ring plan entry. -/
def atPar : Bytes := image [(0, 1, 3), (1, 1, 3), (4, 2, 64), (6, 2, 1), (8, 2, 1), (10, 2, 5), (12, 4, 0x3F800000), (16, 4, 0x3F800000),
  (24, 4, 1), (0x20, 8, 0x1000), (0x28, 8, 2 * 2 ^ 52 + 0x2000), (0x30, 8, 2 * 2 ^ 52 + 0x3000), (0x48, 8, 0x8000),
  (0x50, 8, 2 * 2 ^ 52 + 0x4000), (0x58, 8, 4 * 2 ^ 52 + 0x5000), (0x68, 1, 3), (0x70, 8, 4 * 2 ^ 52 + 0x6000), (0x78, 8, 4 * 2 ^ 52 + 0x7000)]
/-- The plan entry of one hop. -/
def atPlan : Bytes := image [(0, 8, 2 * 2 ^ 52 + 0x2000), (8, 8, 2 * 2 ^ 52 + 0x3000), (0x10, 8, 4 * 2 ^ 52 + 0x6000),
  (0x18, 8, 4 * 2 ^ 52 + 0x7000)]
/-- A call of an attention opcode on that block. -/
def atImage (op ctl fmt : Nat) : Bytes := image [(0, 1, op), (0x18, 8, 2 * 2 ^ 52 + 0x9000),
  (0x20, 8, if op = 0x32 then 3 else 0), (0x3A, 2, 1), (0x3C, 1, ctl), (0x3D, 1, fmt)]
/-- A call is prepared, and something holds of it. -/
def prepared (s : State) (d : Desc) (p : AtCall → Bool) : Bool :=
  match atPrepare s d with
  | .ok x => p x
  | .error _ => false

theorem witness_Attention_calls : ∀ x ∈ [(0x30, 3), (0x31, 0), (0x32, 0)], let i := atImage x.1 0 x.2
    let s := job [(0, atPar)] i
    opDesc s 0 0 (fun i => opcode i == x.1) = some (taken i) ∧
      prepared s (taken i) (fun c => !atAllFenced s 0 && (walksFail s c).isNone && !At.ring c && !At.paged c) = true ∧
      atPrepare (op1 i) (taken i) = .error (.read 2) ∧
      (let t := setF s F.MGT_FENCE_STATIONS 0 0 0x30
       prepared t (taken i) (fun _ => atAllFenced t 0) = true) := by decide +kernel

theorem witness_Attention_ring : ∀ x ∈ [(0x30, 3), (0x31, 0)], let i := atImage x.1 4 x.2
    let s := job [(0, atPar), (0x8000, atPlan)] i
    prepared s (taken i) (fun c => !atAllFenced s 0 && (walksFail s c).isNone && At.ring c) = true := by decide +kernel

theorem witness_Attention_walk : let i := atImage 0x30 8 3
    let s := job [(0, (atPar.take 0x28) ++ toLe 16 0 ++ atPar.drop 0x38), (0x1000, toLe 4 0 ++ toLe 4 1)] i
    prepared s (taken i) (fun c => !atAllFenced s 0 && (walksFail s c).isSome) = true := by decide +kernel

theorem witness_Attention_merge :
    (let i := image [(0, 1, 0x33), (0x10, 8, 2 ^ 52 * 0 + 0x1000), (0x20, 8, 0x2000), (0x38, 3, 1), (0x3B, 1, 2), (0x3C, 1, 2), (0x3E, 1, 3)]
     opDesc (op1 i) 0 0 (fun i => opcode i == 0x33) = some (taken i) ∧ firstFail (mergeChecks (op1 i) (taken i)) = none ∧
       atAllFenced (op1 i) 0 = false ∧ atAllFenced (setF (op1 i) F.MGT_FENCE_DIE 0 0 1) 0 = true ∧
       firstFail (mergeChecks (op1 i) (taken (image [(0, 1, 0x33)]))) = some 1) ∧
    (let m := mc (.token 7 1)
     let r : RingCall := ⟨0, 0, ⟨image [(0, 1, 0x30)], atPar, [], [], [], [], 0, 0, []⟩, 0, 0, 0, some 0, [], [], [], 0, 0, 0, none⟩
     let s := { setFifo State.reset 0 0x08 [m] with rings := [r] }
     fifo s 0 0x08 = [m] ∧ s.rings.find? (fun r => r.queue == m.queue && r.tag == m.tag && r.wait == some m.idx) = some r ∧
       At.ringLimit r.call ≠ 0 ∧ fifo State.reset 0 0x08 = []) := by decide +kernel

/-- A sequence of PF 0 on C0 with BF16 rows of one head, one mapped page of one, no edit. -/
def seq0 : SeqRec := ⟨1, 0, 3, 0, 64, 1, 0x100000, 4096, 0, 0, 0, 10, 0, 1, 0, 1, none, []⟩
/-- The page of sequence 0 is being moved. -/
def ent0 : PEntry := { PEntry.reset with valid := true, moving := true }

theorem witness_Attention_paged : let i := atImage 0x30 8 3
    let s := { job [(0, (atPar.take 0x28) ++ toLe 16 0 ++ atPar.drop 0x38), (0x1000, toLe 4 0 ++ toLe 4 1)] i with seqs := [(0, seq0)] }
    prepared s (taken i) (fun c => !atAllFenced s 0 && (walksFail s c).isNone && !At.ring c && At.paged c) = true := by decide +kernel

theorem witness_PageOps : (∀ op ∈ [0x40, 0x41, 0x42, 0x43, 0x44, 0x45, 0x46], let i := image [(0, 1, op)]
     opDesc (op1 i) 0 0 (fun i => opcode i == op) = some (taken i) ∧ stFenced (op1 i) (qDie 0) 0x0C = false ∧
       stFenced (setF (op1 i) F.MGT_FENCE_DIE 0 0 1) (qDie 0) 0x0C = true) ∧
    (let i := image [(0, 1, 0x47), (0x28, 4, 1)]
     let s := { op1 i with seqs := [(0, seq0)] }
     opDesc s 0 0 (fun i => opcode i == 0x47) = some (taken i) ∧ firstFail (pgChecks s (taken i)) = none ∧ getSeq s 0 = some seq0 ∧
       firstFail (pgChecks (op1 i) (taken i)) = some 2) ∧
    (∀ arg ∈ [0, 1], let i := image [(0, 1, 0x48), (0x25, 1, arg)]
     opDesc (op1 i) 0 0 (fun i => opcode i == 0x48 && (fld i 0x25 1 == arg || (arg == 0 && fld i 0x25 1 > 1))) = some (taken i) ∧
       firstFail (pgChecks (op1 i) (taken i)) = none ∧
       firstFail (pgChecks (op1 i) (taken (image [(0, 1, 0x48), (0x10, 2, 1)]))) = some 1) := by decide +kernel

theorem witness_PageEvents_walks :
    (let s := { State.reset with rebuilds := [(0, { Rebuild.reset with running := true })] }
     (getRb State.reset 0).running = false ∧ (getRb s 0).running = true ∧ (getRb s 0).kind = 0 ∧ isComp 0 = true ∧
       stFenced s 0 0x0C = false ∧ s.walks.any (fun w => w.die == 0) = false ∧ dieSeqs s 0 = [] ∧
       stFenced (setF s F.MGT_FENCE_DIE 0 0 1) 0 0x0C = true) ∧
    (let w : Walk := ⟨0, 0, 0, 0, 0, 1, false, 0, 4096, [], none⟩
     let s := { State.reset with seqs := [(0, seq0)], pmap := [(0, { ent0 with moving := false })], walks := [w] }
     walkOk s 0 0 0 = true ∧ (0 : Nat) ≤ 9 ∧ getSeq s 0 = some seq0 ∧ freeWalk s 0 = some 1 ∧
       ((List.range seq0.mapped).filter (fun i => decide (firstPage seq0 ≤ i))).filter
         (fun i => decide (0 / seqPos seq0 ≤ i ∧ i ≤ 9 / seqPos seq0)) = [0] ∧
       freeWalk { s with walks := (List.range 32).map (fun k => { w with slot := k }) } 0 = none ∧
       walkOk s 0 0 1 = false ∧ s.walks.find? (fun w => w.die == 0 && w.slot == 0) = some w) := by decide +kernel

theorem witness_PageEvents_copies :
    (let r : Remap := ⟨0, 0, 0, 0, 0, 0, 0x20000000, 0, 0, 0, none, []⟩
     let s := { State.reset with seqs := [(0, seq0)], pmap := [(0, ent0)], remaps := [r, { r with page := 1 }] }
     let last := { s with remaps := [r] }
     s.remaps.find? (fun r => r.die == 0 && r.why != 1 && r.copied.isNone && pageCmd r == 0) = some r ∧
       (let t := { noteCopy s true r.addr with remaps := updFirst (fun x => x == r) (fun x => { x with copied := some true }) s.remaps }
        (t.remaps.any (fun x => x.seq == r.seq && x.why == 0 && x.copied.isNone) || pagesLeft t r.seq) = true) ∧
       last.remaps.find? (fun r => r.die == 0 && r.why != 1 && r.copied.isNone && pageCmd r == 0) = some r ∧
       (let t := { noteCopy last false r.addr with remaps := updFirst (fun x => x == r) (fun x => { x with copied := some false }) last.remaps }
        (t.remaps.any (fun x => x.seq == r.seq && x.why == 0 && x.copied.isNone) || pagesLeft t r.seq) = false)) ∧
    (∀ why ∈ [2, 3], let r : Remap := ⟨0, 0, 0, 0, 0, 0, 0x20000000, why, 0, 0, none, []⟩
     let s := { State.reset with seqs := [(0, seq0)], pmap := [(0, ent0)], remaps := [r] }
     s.remaps.find? (fun r => r.die == 0 && r.why != 1 && r.copied.isNone && pageCmd r == 0) = some r ∧
       (true && remapGood s r) = true ∧ (false && remapGood s r) = false) ∧
    (let r : Remap := ⟨0, 0, 0, 0, 0, 0, 0x20000000, 1, 0, 0, none, []⟩
     let s := { State.reset with seqs := [(0, seq0)], pmap := [(0, ent0)], remaps := [r] }
     s.remaps.find? (fun r => r.die == 0 && r.why == 1 && r.copied.isNone && pageCmd r == 0) = some r ∧
       remapGood { noteCopy s true r.addr with remaps := delFirst (fun x => x == r) s.remaps } r = true ∧
       (let t := { noteCopy s false r.addr with remaps := delFirst (fun x => x == r) s.remaps }
        let u := if remapLive t r then updRemapEnt t r (fun e => { e with moving := false }) else addF t F.PG_CNT_STALE_STALE 0 0 1
        grower u r = none)) ∧
    (let r : Remap := ⟨0, 0, 0, 0, 0, 0, 0x20000000, 1, 0, 0, none, []⟩
     let e : Edit := ⟨0, 0, 0x41, some 1, 0, 0, 0, [], [], [], 0, []⟩
     let s := { State.reset with seqs := [(0, { seq0 with current := some e })], pmap := [(0, ent0)], remaps := [r] }
     let t := { noteCopy s false r.addr with remaps := delFirst (fun x => x == r) s.remaps }
     let u := if remapLive t r then updRemapEnt t r (fun e => { e with moving := false }) else addF t F.PG_CNT_STALE_STALE 0 0 1
     s.remaps.find? (fun r => r.die == 0 && r.why == 1 && r.copied.isNone && pageCmd r == 0) = some r ∧
       (false && remapGood t r) = false ∧ grower u r = some (0, { seq0 with current := some e }) ∧
       ((getSeq (updEdit u 0 (fun e => { e with tried := e.tried ++ [(r.seq, r.page)] })) 0).map (fun x => x.current.isSome)) = some true ∧
       getSeq s 0 = some { seq0 with current := some e } ∧ (0 : Nat) / 4096 = 0 ∧ e.parked.isSome = true) ∧
    isComp 0 = true ∧ stFenced State.reset 0 0x0C = false ∧ stFenced (setF State.reset F.MGT_FENCE_DIE 0 0 1) 0 0x0C = true := by
  decide +kernel

/-! ## Schedules and shard entries -/

/-- A schedule of one stage whose lane 0 is queue 1 and whose table lies at address 0x1000 of PF 0. -/
def sched0 : Schedule :=
  { queue := 0, tag := 0, fn := 0, table := 0x1000, first := 0, count := 1, lanes := [1, 0xFFFF, 0xFFFF, 0xFFFF], log := 0, drop := false,
    lead := 0, stages := [⟨0, 0x100000, 4, 1, [0]⟩], step := 0, replay := false, ahead := 0, plan := [], pos := [0, 0, 0, 0],
    items := [none, none, none, none], stash := [], stepItems := 0, stepDropped := 0, stepRerun := 0, stepLate := 0, drops := [],
    lastDone := 0, waited := [], stopping := 0, ending := none, eflags := 0 }

/-- ST_RUN of a table of one entry at address 0x1000, and the table's header. -/
def runImage : Bytes := image [(0, 1, 0xA0), (0x10, 8, 0x1000), (0x1C, 4, 1), (0x20, 2, 1), (0x22, 2, 0xFFFF), (0x24, 2, 0xFFFF),
  (0x26, 2, 0xFFFF)]
/-- The header of that table. -/
def runHeader : Bytes := image [(0, 4, 1), (4, 1, 1), (0x48, 4, 0x200000), (0x4C, 2, 1), (0x4E, 1, 1)]

theorem witness_ScheduleRuns :
    (let s := setAll (job [(0x1000, runHeader)] runImage) [(F.QUE_GRP_OWN_OWNER, 0, 0, 128), (F.QUE_Q_STATUS_STATE, 0, 1, 1),
       (F.QUE_Q_CTRL_ENABLE, 0, 1, 1)]
     let h := (jobRead s 0 0x1000 0x140).1
     opDesc s 0 0 (fun i => opcode i == 0xA0) = some (taken runImage) ∧ (jobRead s 0 0x1000 0x140).2 = 0 ∧
       firstFail ((runChecks s (taken runImage) h).take 3) = none ∧ firstFail (runChecks s (taken runImage) h) = none ∧
       (jobRead (op1 runImage) 0 0x1000 0x140).2 = 2 ∧ firstFail ((runChecks (op1 runImage) (taken runImage) []).take 3) = some 3 ∧
       firstFail (runChecks s (taken runImage) []) = some 4) ∧
    (∀ x ∈ [0, 1], let i := image [(0, 1, 0xA1), (0x11, 1, x)]
     let s := { op1 i with scheds := [(schedKey 0 0, sched0)] }
     opDesc s 0 0 (fun i => opcode i == 0xA1 && (if x = 0 then fld i 0x11 1 != 1 else fld i 0x11 1 == 1)) = some (taken i) ∧
       firstFail (stopChecks s (taken i)) = none ∧ firstFail (stopChecks (op1 i) (taken i)) = some 2) := by decide +kernel

theorem witness_ScheduleRuns_entries :
    (let s := { job [] (image []) with scheds := [(schedKey 0 0, sched0)] }
     tget? (noteSlotWaits State.reset (schedKey 0 0)).scheds (schedKey 0 0) = none ∧
       tget? (noteSlotWaits s (schedKey 0 0)).scheds (schedKey 0 0) = some sched0 ∧ sched0.stopping ≠ 3 ∧ dieServes s 0 = true ∧
       (pickLane s (schedKey 0 0) sched0).map (fun x => (x.2.2.2.1, x.2.2.2.2)) = some (0, none) ∧
       (pickLane s (schedKey 0 0) { sched0 with stages := [] }).map (fun x => (x.2.2.2.1, x.2.2.2.2)) = some (0, some 8) ∧
       (pickLane s (schedKey 0 0) { sched0 with table := 0x200000 }).map (fun x => x.2.2.2.1) = some 2 ∧
       pickLane s (schedKey 0 0) { sched0 with lanes := [0xFFFF, 0xFFFF, 0xFFFF, 0xFFFF] } = none) := by decide +kernel

theorem witness_ShardEntries :
    (∀ x ∈ [(0, (0 : Nat)), (1, 1), (2, 3), (3, 1), (4, 1)], let i := image [(0, 1, 0xA2), (0x12, 1, x.1)]
     let s := { op1 i with shards := [((0 : Nat), { Shard.free with state := x.2 })] }
     opDesc s 0 0 (fun i => opcode i == 0xA2 && (if x.1 = 0 then fld i 0x12 1 == 0 || decide (fld i 0x12 1 > 4) else fld i 0x12 1 == x.1)) =
         some (taken i) ∧ firstFail (shChecks s (taken i)) = none ∧ stFenced s (qDie 0) 0x20 = false ∧
       stFenced (setF s F.MGT_FENCE_DIE 0 0 1) (qDie 0) 0x20 = true ∧ snapAwaits s 0 0 = false ∧
       firstFail (shChecks (setF s F.SEC_SH_OWN_OWNER 0 0 145) (taken i)) = some 9) := by decide +kernel

/-! ## Memory tiers, objects and movers -/

/-- The same with a page table for PF 0, and 100 free units of user flash on M0. -/
def tier (img : Bytes) : State := setAll (job [] img) [(F.TM_FN_TBL_VALID, f0, 0, 1)]

/-- The module with a managed page of PF 0 at address 0 whose region lies in stack 0, in a move to far memory. -/
def moving : State :=
  { State.reset with pages := [(0, ⟨2, false, true, false, 5⟩)], homes := [(5, { HomeRec.empty with state := 1, location := 200 })],
                     moves := [⟨5, 0, 0, 300, 0, none, true, 0, 0, [], [], []⟩] }

theorem witness_Tiers_pages :
    (let i := image [(0, 1, 0x88), (0x10, 8, 0x200000), (0x18, 4, 1), (0x1C, 1, 2)]
     opDesc (tier i) 0 0 (fun i => opcode i == 0x88) = some (taken i) ∧ firstFail (mapChecks (tier i) (taken i)) = none ∧
       firstFail (mapChecks (op1 i) (taken i)) = some 5) ∧
    (∀ x ∈ [(0x89, 0, 0), (0x8A, 0, 0), (0x8B, 1, 0), (0x8B, 0, 0), (0x8C, 0, 0x1000)],
     let i := image [(0, 1, x.1), (0x18, 4, 1), (0x1C, 1, x.2.1), (0x20, 8, x.2.2)]
     let s := { tier i with pages := moving.pages, homes := [(5, HomeRec.empty)] }
     opDesc s 0 0 (fun i => opcode i == x.1 && (x.1 != 0x8B || ((fld i 0x1C 1 != 0) == (x.2.1 == 1)))) = some (taken i) ∧
       firstFail (pageChecks s (taken i)) = none ∧ firstFail (pageChecks s (taken (image [(0, 1, x.1)]))) = some 1) := by decide +kernel

theorem witness_Tiers_objects :
    (∀ x ∈ [(0, 0, 0x1000), (1, 0, 0x1000), (2, 0, 0), (3, 0, 0)],
     let i := image [(0, 1, 0x8D), (0x18, 8, 7), (0x20, 8, x.2.2), (0x30, 1, x.1)]
     let s := { tier i with objects := [⟨0, 7, 0, List.replicate 0x1000 0⟩] }
     opDesc s 0 0 (fun i => opcode i == 0x8D &&
         (if x.1 = 0 then fld i 0x30 1 == 0 || decide (fld i 0x30 1 > 3) else fld i 0x30 1 == x.1)) = some (taken i) ∧
       firstFail (objChecks s (taken i)) = none ∧ (findObj s 0 7).isSome = true ∧ findObj (tier i) 0 7 = none ∧
       firstFail (objChecks (tier i) (taken i)) = none ∧
       (jobRead s 0 0 0x1000).2 = 0 ∧
       (let u := setAll (op1 i) [(F.TM_FN_TBL_VALID, f0, 0, 1)]
        (jobRead u 0 0 0x1000).2 = 2 ∧ firstFail (objChecks u (taken i)) = none)) ∧
    ceilDiv 0x1000 region ≤ moduleFlash State.reset + 1 ∧
    (let s := { setAll State.reset ((List.range 8).map (fun k => (F.MGT_FENCE_DIE, 24 + k, 0, 1))) with objects := [⟨0, 7, 0, []⟩] }
     ceilDiv 0x1000 region > moduleFlash s + ((findObj s 0 7).map (fun o => ceilDiv o.data.length region)).getD 0 ∧
       lostPieces s 0 0x1000 = true) ∧
    0x800 + 0x1000 > (List.replicate 0x1000 (0 : Byte)).length ∧ 0 + 0x1000 ≤ (List.replicate 0x1000 (0 : Byte)).length ∧
    lostPieces State.reset 0 0x1000 = false := by decide +kernel

/-- A request of a mover for 64 bytes at address 0. -/
def req0 (write : Bool) : Req :=
  ⟨0, 0, 0, 0, write, 0, 0, ⟨⟨0, 64, 1, 64, 0, 0, 0⟩, Head.raw⟩, List.replicate 64 1, 0, 0, [], none, 0, none⟩

theorem witness_TierEvents :
    (moveOf moving 5).isSome = true ∧ (getHome moving 5).state ≠ 3 ∧ (moveOf moving 5).map (destLost moving) = some false ∧
    (moveOf moving 5).map (destLost { moving with stackState := [(0, 1)] }) = some true ∧
    (getHome { moving with homes := [(5, { HomeRec.empty with state := 3 })] } 5).state = 3 ∧
    isMem 24 = true ∧ dieFenced moving 24 = false ∧ dieFenced (setF moving F.MGT_FENCE_DIE 24 0 1) 24 = true ∧
    (∀ w ∈ [true, false], let r := req0 w
     let s := { moving with reqs := [(fifoKey 0 0x28, [r])] }
     stFenced s 0 0x28 = false ∧ (moverReqs s 0 0x28).head? = some r ∧ r.write = w) ∧
    flag (setF State.reset F.TM_STATE_FAR_OK 24 0 1) F.TM_STATE_FAR_OK 24 = true ∧
    (logRec (setF State.reset F.TM_STATE_FAR_OK 24 0 0) 1 24 0xFF 4 0 0).homes = [] ∧
    (logRec (setF State.reset F.TM_STATE_FAR_OK 24 0 0) 1 24 0xFF 4 0 0).moves = [] ∧
    flag (setF State.reset F.TM_STATE_FAR_OK 24 0 0) F.TM_STATE_FAR_OK 24 = false := by decide +kernel

theorem witness_Movers_ops :
    (∀ x ∈ [(0x80, false), (0x81, true)], let i := image [(0, 1, x.1), (0x20, 4, if x.2 then 0 else 64), (0x24, 4, 64), (0x28, 4, 1), (0x2C, 4, 64)]
     opDesc (op1 i) 0 0 (fun i => opcode i == x.1) = some (taken i) ∧ firstFail (copyChecks x.2 i) = none ∧
       firstFail (copyChecks x.2 (image [(0, 1, x.1)])) = some 2) ∧
    (let i := image [(0, 1, 0x82), (0x28, 4, 1), (0x2C, 4, 32), (0x30, 4, 32), (0x34, 4, 1)]
     opDesc (op1 i) 0 0 (fun i => opcode i == 0x82) = some (taken i) ∧ firstFail (indexedChecks i) = none ∧
       firstFail (indexedChecks (image [(0, 1, 0x82)])) = some 1) := by decide +kernel

theorem witness_Movers_events :
    (∀ w ∈ [true, false], let r := req0 w
     let s := { job [] (image []) with reqs := [(fifoKey 0 0x28, [r])] }
     let nopf := { s with pages := [(0, ⟨0, false, true, true, 0x10000000⟩)] }
     oldestReq s 0 0x28 w = some r ∧ stFenced s 0 0x28 = false ∧ stFenced (setF s F.MGT_FENCE_DIE 0 0 1) 0 0x28 = true ∧
       isNopf s (fnOf s r.queue r.tag) r.job.geo.va (imageOf s r.queue r.tag) = false ∧ oldestReq nopf 0 0x28 w = some r ∧
       isNopf nopf (fnOf nopf r.queue r.tag) r.job.geo.va (imageOf nopf r.queue r.tag) = true) ∧
    (let s := job [] (image [])
     let sps := geoSpans s 0 (req0 true).job.geo
     writeStatus s (refreshed s sps) = 0 ∧ writeStatus s (refreshed s (geoSpans State.reset 0 (req0 true).job.geo)) ≠ 0) ∧
    (let x : Slot := ⟨0, 0x28, 0, (req0 false).job, 0, List.replicate 64 0, 0, 0, some 128, none, 1, false, 0, 0, none⟩
     let s := { s4 with slots := [x], streams := [(streamKey 0 0, { st0 with tail := 0 })] }
     let old := { s with gens := [(128, 1)] }
     s.slots.find? (fun x => x.die == 0 && x.stream == 0) = some x ∧ tailReached s 0 0 = true ∧
       (isStale s x || (x.aged && decide (x.fetches < 5))) = false ∧ tailReached s4 0 0 = false ∧
       tailReached old 0 0 = true ∧ (isStale old x || (x.aged && decide (x.fetches < 5))) = true ∧
       behindWrite old 0 (geoSpans old x.fn x.job.geo) = false ∧
       (isStale s { x with aged := true } || (true && decide (x.fetches < 5))) = true ∧
       (let p := job [] (image [])
        let sps := geoSpans p 0 (req0 true).job.geo
        behindWrite { p with reqs := [(fifoKey 0 0x29, [{ req0 true with spans := sps }])] } 0 sps = true)) := by decide +kernel

/-! ## Ports, transactions and drains -/

/-- A flit of zeros with its CRC. -/
def flit0 : Bytes := List.replicate 252 0 ++ toLe 4 (crc32c (List.replicate 252 0))
/-- Port 0 in a state. -/
def port0 (st : Nat) : State := setF State.reset F.FAB_PORT_STATE_STATE 16 0 st

theorem witness_Ports_flits : portActive (port0 0) 0 = false ∧ portActive (port0 2) 0 = true ∧ flitGood flit0 = true ∧
    flitSeq flit0 = (getPort (port0 2) 0).expect ∧ flitGood [] = false ∧
    flitSeq flit0 ≠ (getPort (setPort (port0 2) 0 { PortInt.reset with expect := 1 }) 0).expect := by decide +kernel

theorem witness_Ports_events : reaches State.reset (portDie 47) ∧ isPfSrc (.fn 0) = true ∧ portState (port0 1) 0 = 1 ∧
    4 ≤ (lanesIn 0x0F).length ∧ (lanesIn 0x07).length < 4 ∧ portState (port0 2) 0 = 2 ∧ (getPort (port0 2) 0).margined = false ∧
    (usedLanes (setF (port0 2) F.FAB_PORT_LANES_MAP 16 0 0xFAC688) 0).contains 7 = true ∧
    flag (port0 2) F.FAB_PORT_STATE_NARROW 16 0 = false ∧
    flag (setF (port0 2) F.FAB_PORT_STATE_NARROW 16 0 1) F.FAB_PORT_STATE_NARROW 16 0 = true ∧
    portState (port0 3) 0 = 3 ∧ State.reset.remargin.contains 0 = false ∧ portState (port0 4) 0 = 4 ∧ portState (port0 0) 0 = 0 ∧
    portEnabled (setF (port0 4) F.FAB_PORT_CFG_ENABLE 16 0 1) 0 = true ∧ portEnabled (setF (port0 4) F.FAB_PORT_CFG_ENABLE 16 0 0) 0 = false :=
  ⟨reaches_of (by decide +kernel), by decide +kernel⟩

/-- A module with an identity whose port 0 leads to x+ and is ACTIVE, and which knows module 9 at x = 1. -/
def linked : State :=
  { setAll State.reset [(F.FAB_SELF_VALID, 16, 0, 1), (F.FAB_SELF_MODULE, 16, 0, 8), (F.FAB_PORT_STATE_STATE, 16, 0, 2),
      (F.FAB_DIM_X, 16, 0, 3), (F.FAB_PORT_CFG_DIR, 16, 0, 0)] with modTab := [(9, 2 ^ 31 + 2 ^ 6)] }

/-- A WRITE of Indigo to module 9. -/
def tx9 : Tx := { tx0 with srcModule := 7, dstModule := 9, cls := 1 }

/-- R390: Crimson goes first, but not twice within 16 slots while Indigo waits; Indigo has 8 turns of its weight. -/
theorem test_port_classes :
    (let w (c : Nat) : Waiting × Nat × Wrr := (⟨{ tx9 with cls := c }, 16, none, 0, none⟩, 0, ⟨0, 0⟩)
     let s := setPort linked 0 { getPort linked 0 with since := 5 }
     (pickClass linked 0 [w 1, w 0]).1 = 0 ∧ (pickClass s 0 [w 1, w 0]).1 = 1 ∧ (pickClass s 0 [w 0]).1 = 0 ∧
       (pickClass s 0 [w 1, w 3]).2.2 = ⟨1, 7⟩) := by decide +kernel

theorem witness_CreditLimits :
    (let w : Waiting := ⟨tx9, 16, none, 0, none⟩
     let full := setPort linked 0 { getPort linked 0 with used := [(2, 4544), (3, 512)] }
     portTakes linked none tx9 0 = true ∧
       (waitPorts full w).contains 0 = true ∧
       full.waits = [] ∧ (waitPorts full w).all (fun p => !portTakes full none tx9 p) = true ∧
       (queueTx full w).waits = [w] ∧ (queueTx linked w).waits = [] ∧ usedOn (queueTx linked w) 0 2 = 1 ∧
       (queueTx (creditBack full 0 2 1) w).waits = []) ∧
    (let s := setPort linked 0 { getPort linked 0 with used := [(2, 9)] }
     usedOn (creditBack s 0 2 4) 0 2 = 5 ∧ protectTx s 16 { tx9 with lane := 0 } = some ({ tx9 with lane := 0 }, s)) ∧
    (portActive linked 0 = true ∧ tx9.type = 1 ∧ goodModule 9 = true ∧ isGroup 9 = false ∧ toSelf linked 9 = false ∧
      selfValid linked = true) := by decide +kernel

theorem witness_Fabric : ([1, 2, 3, 4, 5, 6, 8] : List Nat).all (fun k => ({ tx0 with type := k } : Tx).type == k) = true ∧
    portActive (port0 2) 0 = true ∧ portActive (port0 0) 0 = false := by decide +kernel

theorem witness_Fabric_flows :
    (let s := { State.reset with rxFlows := [(9, ⟨0, [], 1, []⟩)] }
     tget? s.rxFlows 9 = some ⟨0, [], 1, []⟩ ∧ tget? s.txFlows 9 = none) ∧
    (let x : Sent := ⟨tx0, 0, 0, 0⟩
     let s := { State.reset with txFlows := [(txKey tx0, ⟨1, [x], [], true⟩)] }
     tget? s.txFlows (txKey tx0) = some ⟨1, [x], [], true⟩ ∧ tget? s.rxFlows (txKey tx0) = none ∧
       s.waits.find? (fun w => txKey w.tx == txKey tx0) = none) ∧
    (let w : Waiting := ⟨tx0, 16, none, 0, none⟩
     let s := { State.reset with waits := [w] }
     s.waits.find? (fun w => txKey w.tx == txKey tx0) = some w ∧ heldByDrain s w = false) ∧
    (let r : McRecv := ⟨0, 4, 0, 0, [], none, false, []⟩
     let s := { State.reset with mcRecvs := [r] }
     mcRecvOf s 0 4 = some r ∧ r.lagging = false ∧ recvDone r = false ∧ recvDone { r with base := 2, last := some 1 } = true) ∧
    (let s := { State.reset with mcTab := [(bankKey 16 0 1024 3, 2 ^ 95 + 2 ^ 32)] }
     (isFab 16 && bit (mcEntry s 16 (activeBank s 16) 3) 95 && bit (bits (mcEntry s 16 (activeBank s 16) 3) 32 48) 0
       && !s.pruned.contains (7, 0)) = true ∧ s.mcSends = [] ∧ s.mcRecvs = [] ∧
       4294967295 ≥ getF s F.FAB_MC_LAG_FLITS 16) ∧
    (let m : McSend := ⟨0, 4, 0, 0, 0, 0, [], 1, [], 0⟩
     mySend { State.reset with mcSends := [m] } 0 4 = some m) := by decide +kernel

theorem witness_RoutingAndDrain : isFab 23 = true ∧ reaches State.reset 23 ∧ isPfSrc (.fn 0) = true ∧
    flag (setF State.reset F.FAB_ROUTE_CTRL_BUSY 23 0 1) F.FAB_ROUTE_CTRL_BUSY 23 = true ∧ flag State.reset F.FAB_ROUTE_CTRL_BUSY 23 = false ∧
    bit 0x40 6 = true ∧ bit 0x80 7 = true ∧ bit 0 6 = false ∧ bit 0 7 = false ∧
    (let s := setF (setF State.reset F.FAB_DRAIN_ACTIVE 16 0 1) F.FAB_DRAIN_PORTS 16 0 63
     flag s F.FAB_DRAIN_ACTIVE 16 = true ∧ flag State.reset F.FAB_DRAIN_ACTIVE 16 = false ∧
       ((List.range 6).filter (fun i => bit (getF s F.FAB_DRAIN_PORTS 16) i)).any (fun i => holdsDrained s (portOn 16 i)) = false ∧
       (let u := setPort s 0 { getPort s 0 with partial_ := [(2, [1])] }
        flag u F.FAB_DRAIN_ACTIVE 16 = true ∧
          ((List.range 6).filter (fun i => bit (getF u F.FAB_DRAIN_PORTS 16) i)).any (fun i => holdsDrained u (portOn 16 i)) = true) ∧
       flag s F.FAB_DRAIN_DRAINED 16 = false ∧ flag (setF s F.FAB_DRAIN_DRAINED 16 0 1) F.FAB_DRAIN_DRAINED 16 = true) :=
  ⟨by decide, reaches_of (by decide +kernel), by decide +kernel⟩

/-! ## Collectives -/

/-- A communicator of PF 0 on C0 whose rank 0 is C0 of this module, with a receive area of 1 GiB. -/
def comm0 (s : State) (n : Nat) : Comm :=
  ⟨0, 0xFFFF, 0, (List.range n).map (fun r => (myId s * 2 ^ 48 + r * 2 ^ 43, 0)), 0, 2 ^ 30, 0, 1, 0, ⟨[], [], []⟩⟩
/-- A state with that communicator in slot 0. -/
def rd (img : Bytes) : State := { job [] img with comms := [(commKey 0 0, comm0 (job [] img) 2)] }

theorem witness_Collectives_comm :
    (let i := image [(0, 1, 0x60), (0x12, 2, 0xFFFF), (0x14, 4, 1), (0x20, 8, 0x1000), (0x30, 8, 0x200000)]
     let s := job [(0x1000, toLe 8 (myId State.reset * 2 ^ 48))] i
     opDesc s 0 0 (fun i => opcode i == 0x60 && fld i 0x11 1 != 1) = some (taken i) ∧ (jobRead s 0 0x1000 16).2 = 0 ∧
       firstFail (commChecks s (taken i) false) = none ∧
       (let me := ((memberList (jobRead s 0 0x1000 16).1 1).getD 0 (0, 0)).1
        me / 2 ^ 48 = myId s ∧ me / 2 ^ 43 % 32 = qDie 0) ∧
       badMembers (jobRead s 0 0x1000 16).1 1 = false ∧
       (let u := job [(0x1000, toLe 8 (myId State.reset * 2 ^ 48) ++ toLe 8 (2 ^ 16))] i
        (jobRead u 0 0x1000 16).2 = 0 ∧ firstFail (commChecks u (taken i) false) = none ∧ badMembers (jobRead u 0 0x1000 16).1 1 = true ∧
          ((memberList (jobRead u 0 0x1000 16).1 1).getD 0 (0, 0)).1 / 2 ^ 48 = myId u) ∧
       (jobRead (op1 i) 0 0x1000 16).2 = 2 ∧ firstFail (commChecks s (taken (image [(0, 1, 0x60)])) false) = some 1 ∧
       (((memberList (jobRead (job [] i) 0 0x1000 16).1 1).getD 0 (0, 0)).1) / 2 ^ 48 ≠ myId s) ∧
    (let i := image [(0, 1, 0x60), (0x11, 1, 1)]
     opDesc (rd i) 0 0 (fun i => opcode i == 0x60 && fld i 0x11 1 == 1) = some (taken i) ∧ firstFail (commChecks (rd i) (taken i) true) = none ∧
       firstFail (commChecks (op1 i) (taken i) true) = some 4) := by decide +kernel

theorem witness_Collectives_calls :
    (let i := image [(0, 1, 0x61), (0x20, 4, 16), (0x26, 1, 4), (0x27, 1, 4)]
     opDesc (rd i) 0 0 (fun i => opcode i == 0x61) = some (taken i) ∧ firstFail (reduceChecks (rd i) (taken i)) = none ∧
       firstFail (reduceChecks (rd i) (taken (image []))) = some 1) ∧
    (let i := image [(0, 1, 0x63), (0x20, 4, 64)]
     opDesc (rd i) 0 0 (fun i => opcode i == 0x63) = some (taken i) ∧ firstFail (a2aChecks (rd i) (taken i)) = none ∧
       firstFail (a2aChecks (rd i) (taken (image []))) = some 2) ∧
    (∀ op ∈ [0, 1], let i := image [(0, 1, 0x66), (0x10, 8, 2 ^ 52), (0x20, 8, 2 ^ 52), (0x28, 4, 1), (0x2C, 4, 1), (0x30, 2, 16), (0x32, 1, 3),
       (0x33, 1, 3), (0x34, 1, 1), (0x35, 1, op)]
     opDesc (rd i) 0 0 (fun i => opcode i == 0x66 && ((fld i 0x35 1 == 1) == (op == 1))) = some (taken i) ∧
       firstFail (expertChecks (rd i) (taken i)) = none ∧ firstFail (expertChecks (rd i) (taken (image []))) = some 1) := by decide +kernel

theorem witness_Collectives_listed :
    (let i := image [(0, 1, 0x62), (0x20, 4, 64)]
     opDesc (rd i) 0 0 (fun i => opcode i == 0x62) = some (taken i) ∧ (jobRead (rd i) 0 0 0).2 = 0 ∧
       firstFail (gatherChecks (rd i) (taken i)) = none ∧ firstFail (listChecks 2 (cutList 64 0 [])) = none ∧
       firstFail (gatherChecks (rd i) (taken (image []))) = some 2) ∧
    (let i := image [(0, 1, 0x62), (0x29, 1, 2), (0x2A, 2, 1), (0x30, 8, 0x1000)]
     firstFail (gatherChecks (rd i) (taken i)) = none ∧ (jobRead (rd i) 0 0x1000 64).2 = 0 ∧ (jobRead (op1 i) 0 0x1000 64).2 = 2 ∧
       firstFail (listChecks 2 (cutList 64 1 (jobRead (rd i) 0 0x1000 64).1)) = some 2) ∧
    (let i := image [(0, 1, 0x64), (0x18, 4, 1), (0x1C, 2, 1)]
     opDesc (rd i) 0 0 (fun i => opcode i == 0x64) = some (taken i) ∧ firstFail (permuteChecks (rd i) (taken i)) = none ∧
       (jobRead (rd i) 0 0 32).2 = 0 ∧ firstFail (permuteMapChecks (cutList 32 1 (toLe 16 0 ++ toLe 16 64))) = none ∧
       firstFail (permuteMapChecks (cutList 32 1 (jobRead (rd i) 0 0 32).1)) = some 2 ∧
       firstFail (permuteChecks (rd i) (taken (image []))) = some 2) := by decide +kernel

/-- A call of PF 0 on slot 0 of C0. -/
def call0 (op : Nat) : RdCall := ⟨0, 0, 0, 0, image [(0, 1, op), (0x2C, 4, 100)], 0, 5, 0, 0, [], [], false, false, [], [], [], 0, 0, 0, [],
  none, (0, 0)⟩

theorem witness_Collectives_epochs :
    (let s := { rd (image [(0, 1, 0x64)]) with calls := [call0 0x64] }
     s.calls.find? (fun c => c.die == 0 && c.fn == 0 && opcode c.image == 0x64 && c.phase == 0) = some (call0 0x64) ∧
       getComm s 0 0 = some (comm0 s 2) ∧ inFlight s (call0 0x64) = true ∧ s.calls.takeWhile (fun x => !sameCall (call0 0x64) x) = [] ∧
       inFlight { s with calls := { call0 0x63 with tag := 1 } :: s.calls } (call0 0x64) = false) ∧
    (let i := image [(0, 1, 0x65)]
     let s := { op1 i with epochs := [(epochKey 0 0, 1)] }
     opDesc s 0 0 (fun i => opcode i == 0x65) = some (taken i) ∧ firstFail (epochChecks s (taken i)) = none ∧
       firstFail (epochChecks (op1 i) (taken i)) = some 6) ∧
    (∀ op ∈ [0, 1, 2], let i := image [(0, 1, 0x67), (0x10, 1, op), (0x12, 2, 1)]
     opDesc (op1 i) 0 0 (fun i => opcode i == 0x67 && (if op = 0 then fld i 0x10 1 != 1 && fld i 0x10 1 != 2 else fld i 0x10 1 == op)) =
         some (taken i) ∧ firstFail (extChecks i) = none ∧ firstFail (extChecks (image [(0, 1, 0x67), (0x10, 1, 3)])) = some 1) := by
  decide +kernel

theorem witness_CollectiveEvents :
    (∀ k ∈ [1, 2, 3, 4, 5, 6], let s := rd (image [])
     getComm State.reset 0 0 = none ∧ getComm s 0 0 = some (comm0 s 2) ∧ ({ rec0 with kind := k } : CtlRec).rank < (comm0 s 2).n ∧
       stFenced s 0 0x20 = false ∧ ({ rec0 with rank := 2 } : CtlRec).rank ≥ (comm0 s 2).n) ∧
    (∀ op ∈ [0x61, 0x62], let s := { rd (image [(0, 1, op)]) with calls := [call0 op] }
     callAt s 0 0 5 = some (call0 op) ∧ getComm s 0 0 = some (comm0 s 2) ∧ callWindow (call0 op) ≠ 0 ∧ inFlight s (call0 op) = true ∧
       (comm0 s 2).rank = 0 ∧ closeOf s (call0 op) = none ∧ (call0 op).closing = none ∧ bit (rCtl (call0 op)) 3 = false ∧
       gMode (call0 op) ≠ 2 ∧ (call0 op).expired = false ∧ { comm0 s 2 with rank := 1 }.rank ≠ 0 ∧
       (descOf s 0 0).isSome = true ∧ { call0 op with phase := 9 }.phase ≥ sentPhase (call0 op)) := by decide +kernel

/-! ## Power, thermals, power states and clocks -/

theorem witness_PowerInputs :
    (let s := State.reset
     s.supply.phase = 0 ∧ getF s F.PWR_UV_THRESH f0 > 0 ∧ flag s F.PWR_STATE_MAIN_OK f0 = true ∧
     (let t := updSupply (setF s F.PWR_STATE_MAIN_OK f0 0 0) (fun x => { x with mainAt := 0 })
      flag t F.PWR_STATE_SRC f0 = false ∧ flag t F.PWR_STATE_BACKUP_OK f0 = true ∧ flag (setF t F.PWR_STATE_SRC f0 0 1) F.PWR_STATE_SRC f0 = true ∧
        flag (setF t F.PWR_STATE_BACKUP_OK f0 0 0) F.PWR_STATE_BACKUP_OK f0 = false)) ∧
    (let s := updSupply (setF State.reset F.PWR_STATE_SRC f0 0 1) (fun x => { x with mainAt := 5 })
     s.supply.phase = 0 ∧ flag s F.PWR_STATE_SRC f0 = true ∧ flag s F.PWR_STATE_MAIN_OK f0 = true ∧ s.supply.mainAt ≠ 0 ∧ s.supply.waits = false ∧
       (updSupply s (fun x => { x with waits := true, returned := 3 })).supply.returned ≠ 0 ∧ s.supply.returned = 0) ∧
    reaches State.reset (die04 State.reset) ∧ isPfSrc (.fn 0) = true ∧
    (let s := updSupply State.reset (fun x => { x with waits := true, mainAt := 5 })
     let u := updSupply (setF State.reset F.PWR_STATE_SRC f0 0 1) (fun x => { x with waits := true })
     bit 0x10 4 = true ∧ bit 0 4 = false ∧ State.reset.supply.waits = false ∧ s.supply.waits = true ∧ s.supply.mainAt ≠ 0 ∧
       u.supply.waits = true ∧ u.supply.phase = 0 ∧ flag u F.PWR_STATE_SRC f0 = true ∧ flag u F.PWR_STATE_MAIN_OK f0 = true ∧
       u.supply.mainAt = 0) ∧
    (updSupply State.reset (fun x => { x with phase := 1 })).supply.phase = 1 ∧ (updSupply State.reset (fun x => { x with phase := 2 })).supply.phase = 2 ∧
    flag State.reset F.SN_CFG_FREEZE f0 = true ∧ flag (setF State.reset F.SN_CFG_FREEZE f0 0 0) F.SN_CFG_FREEZE f0 = false ∧
    65535 > getF State.reset F.PWR_UV_THRESH f0 ∧ flag (setF State.reset F.PWR_STATE_MAIN_OK f0 0 0) F.PWR_STATE_MAIN_OK f0 = false :=
  ⟨by decide +kernel, by decide +kernel, reaches_of (by decide +kernel), by decide +kernel⟩

theorem witness_GovernorRules : isComp 15 = true ∧ dieFenced State.reset 15 = false ∧ powerOf State.reset 15 < 2 ∧ isComp 16 = false ∧
    (let t := setF State.reset F.GV_POWER_DRAW 15 0 (sat 4095 100)
     getF t F.GV_POWER_SHARE 15 = 585 ∧ 100 * 100 ≤ getF t F.GV_POWER_SHARE 15 * 95 ∧ 586 > getF t F.GV_POWER_SHARE 15 ∧
       585 * 100 > getF t F.GV_POWER_SHARE 15 * 95) ∧
    (let s := updGov State.reset 15 (fun g => { g with stepping := true })
     let up := setOpp s 15 0
     let ramping := updGov up 15 (fun g => { g with ramp := 1 })
     let down := setOpp s 15 14
     (govOf up 15).stepping = true ∧ targetOpp up 15 > oppOf up 15 ∧ (govOf up 15).ramp = 0 ∧
       (govOf ramping 15).stepping = true ∧ targetOpp ramping 15 > oppOf ramping 15 ∧ (govOf ramping 15).ramp ≠ 0 ∧
       now ramping + 1 < (govOf ramping 15).ramp + 200000 ∧
       (govOf down 15).stepping = true ∧ targetOpp down 15 ≤ oppOf down 15 ∧ targetOpp down 15 < oppOf down 15 ∧
       (govOf s 15).stepping = true ∧ targetOpp s 15 = oppOf s 15 ∧ (govOf State.reset 15).stepping = false) := by decide +kernel

theorem witness_GovernorRules_manual : State.reset = wakeByAccess State.reset (.fn 0) 15 ∧ reaches State.reset 15 ∧ isPfSrc (.fn 0) = true ∧
    flag State.reset F.GV_CTRL_MANUAL 15 = false ∧
    (let t := setF (setF State.reset F.GV_CTRL_AUTO_GREY 15 0 (bits 1 1 1)) F.GV_CTRL_GREY_IDLE 15 0 (bits 1 16 16)
     anyEnabled t 15 = false) ∧
    (let t := setF (setF s2 F.GV_CTRL_AUTO_GREY 0 0 (bits 1 1 1)) F.GV_CTRL_GREY_IDLE 0 0 (bits 1 16 16)
     flag s2 F.GV_CTRL_MANUAL 0 = false ∧ anyEnabled t 0 = true) ∧
    flag (setF State.reset F.GV_CTRL_MANUAL 15 0 1) F.GV_CTRL_MANUAL 15 = true ∧
    (let s := updGov (setF State.reset F.GV_CTRL_MANUAL 15 0 1) 15 (fun g => { g with mv3 := oppVolt 3 })
     flag s F.GV_CTRL_MANUAL 15 = true ∧ (List.range 15).find? (fun i => oppMhz i == oppMhz 2) = some 2 ∧ carried (govOf s 15).mv3 = some 3 ∧
       (List.range 15).find? (fun i => oppMhz i == oppMhz 4) = some 4 ∧ (List.range 15).find? (fun i => oppMhz i == 1) = none) ∧
    3 * bits 4095 0 12 ≥ oppVolt (oppOf State.reset 15) ∧ 3 * bits 1 0 12 < oppVolt (oppOf State.reset 15) :=
  ⟨(wakeByAccess_white (by decide +kernel)).symm, reaches_of (by decide +kernel), by decide, by decide +kernel, by decide +kernel,
    by decide +kernel, by decide +kernel, by decide +kernel, by decide +kernel, by decide +kernel⟩

theorem witness_GovernorRules_limits : reaches State.reset (die04 State.reset) ∧ isPfSrc (.fn 0) = true ∧ sealed State.reset = false ∧
    5700 ≤ bits 5700 0 16 ∧ bits 13000 0 16 ≤ 13000 ∧ bits 5699 0 16 < 5700 ∧ bits 13001 0 16 > 13000 ∧
    4600 ≤ bits 4600 0 16 ∧ bits 5000 0 16 ≤ 5000 ∧ bits 4599 0 16 < 4600 ∧ bits 5001 0 16 > 5000 ∧
    reaches (setF State.reset F.HST_SEAL_SEAL f0 0 1) (die04 (setF State.reset F.HST_SEAL_SEAL f0 0 1)) ∧
    sealed (setF State.reset F.HST_SEAL_SEAL f0 0 1) = true :=
  ⟨reaches_of (by decide +kernel), by decide, by decide +kernel, by decide, by decide, by decide, by decide, by decide, by decide, by decide,
    by decide, reaches_of (by decide +kernel), by decide +kernel⟩

theorem witness_Thermals : isComp 15 = true ∧ dieFenced State.reset 15 = false ∧ dieLevel 0 114 = 2 ∧ dieLevel 0 20 ≠ 2 ∧
    powerOf State.reset 15 < 2 ∧ getF (setF State.reset F.GV_STATE_DIE_LVL 15 0 2) F.GV_STATE_DIE_LVL 15 = 2 ∧
    (govOf State.reset 15).heatCut < 14 ∧ (govOf (updGov State.reset 15 (fun g => { g with heatCut := 14 })) 15).heatCut ≥ 14 ∧
    dieFenced (setF State.reset F.MGT_FENCE_DIE 15 0 1) 15 = true ∧ tgetD State.reset.stackState 31 0 ≠ 1 ∧
    stackLevel State.reset 31 < 2 ∧ heatLevel 0 109 ≥ 2 ∧ heatLevel 0 20 < 2 ∧
    (let s := setF State.reset F.GV_STATE_STK1_LVL 15 0 2
     stackLevel s 31 ≥ 2 ∧ tgetD s.hotStep 31 0 < 2 ∧ tgetD { s with hotStep := [(31, 2)] }.hotStep 31 0 ≥ 2 ∧
       getF s (bandwidth 31) 15 > 4 ∧ getF s (bandwidth 31) 15 ≥ 8 ∧ getF (setF s (bandwidth 31) 15 0 7) (bandwidth 31) 15 < 8 ∧
       getF (setF s (bandwidth 31) 15 0 4) (bandwidth 31) 15 ≤ 4) ∧
    flag State.reset F.PWR_STATE_COOL_OK f0 = true ∧
    (let s := updSupply (setF State.reset F.PWR_STATE_COOL_OK f0 0 0) (fun x => { x with flow := 205, inlet := 390 })
     flag s F.PWR_STATE_COOL_OK f0 = false ∧ s.supply.flow ≥ 205 ∧ s.supply.inlet ≤ 390) := by decide +kernel

/-- All four sequencers of C0 wait in a mode. -/
def wait0 (m : Nat) : State := { State.reset with modes := [(0, m + 1), (1, m + 1), (2, m + 1), (3, m + 1)] }

theorem witness_PowerStates : isComp 0 = true ∧ dieFenced State.reset 0 = false ∧ powerOf State.reset 0 = 0 ∧
    (let s := setF State.reset F.GV_PS_TARGET_TARGET 0 0 2
     dieIdle s 0 = true ∧ getF s F.GV_PS_TARGET_TARGET 0 = 2) ∧
    getF State.reset F.GV_PS_TARGET_TARGET 0 = 0 ∧ powerOf { State.reset with powers := [(0, 2)] } 0 ≥ 2 ∧
    flag State.reset F.GV_CTRL_AUTO_GREY 0 = true ∧ dieIdle State.reset 0 = true ∧ dieIdle (op1 (image [])) 0 = false ∧
    entryMode (wait0 1) 0 = 1 ∧ powerOf (wait0 1) 0 = 0 ∧ entryMode (wait0 2) 0 = 2 ∧ entryMode State.reset 0 ≠ 1 ∧
    powerOf { State.reset with powers := [(0, 2)] } 0 = 2 ∧ entryMode (wait0 1) 0 ≠ 0 ∧ (3 : Nat) < 4 := by decide +kernel

theorem witness_Wakes :
    bit (getF State.reset F.AON_WAKE_EN_EN f0) (5 - 1) = true ∧ bit (getF State.reset F.AON_WAKE_EN_EN f0) (1 - 1) = true ∧
    (updSupply State.reset (fun x => { x with phase := 3 })).supply.phase = 3 ∧
    bit (getF (updSupply State.reset (fun x => { x with phase := 3 })) F.AON_WAKE_EN_EN f0) (1 - 1) = true ∧
    bit (getF (updSupply State.reset (fun x => { x with phase := 3 })) F.AON_WAKE_EN_EN f0) (5 - 1) = true ∧ State.reset.supply.phase < 3 ∧
    bit (getF (setF State.reset F.AON_WAKE_EN_EN f0 0 0) F.AON_WAKE_EN_EN f0) (1 - 1) = false ∧
    (let s := { State.reset with powers := [(0, 4)] }
     powerOf s 0 = 4 ∧ isComp 0 = true ∧ dieFenced s 0 = false) ∧
    powerOf State.reset 0 ≠ 4 ∧
    (let s := setF State.reset F.AON_CMP_LO_CMP f0 0 7
     flag s F.CLK_REF_STATE_AON_OK f0 = true ∧ getPair s F.AON_CMP_LO_CMP F.AON_CMP_HI_CMP f0 ≠ 0 ∧
       aonCount { s with aon := 700000000 } = getPair s F.AON_CMP_LO_CMP F.AON_CMP_HI_CMP f0 ∧
       aonCount s ≠ getPair s F.AON_CMP_LO_CMP F.AON_CMP_HI_CMP f0) := by decide +kernel

theorem witness_References : reaches State.reset (die04 State.reset) ∧ isPfSrc (.fn 0) = true ∧ refOk 1 = some F.CLK_REF_STATE_PRI_OK ∧
    refOk 3 = some F.CLK_REF_STATE_LOC_OK ∧ refOk 0 = none ∧
    (let s := setAll State.reset [(F.CLK_REF_SEL_REVERT, f0, 0, 1), (F.CLK_REF_SEL_PRI_EN, f0, 0, 1), (F.CLK_REF_STATE_PRI_OK, f0, 0, 1)]
     flag s F.CLK_REF_SEL_REVERT f0 = true ∧ refBest s = 1 ∧ refSrc s = 3) ∧
    flag State.reset F.CLK_REF_SEL_REVERT f0 = false ∧
    refSrc (setF State.reset F.CLK_REF_STATE_LOC_OK f0 0 0) = 3 ∧ 1 ≠ refSrc (setF State.reset F.CLK_REF_STATE_PRI_OK f0 0 0) ∧
    portActive State.reset (refPort State.reset 1) = false ∧ portActive (port0 2) (refPort (port0 2) 1) = true ∧
    refGood (setF State.reset F.CLK_REF_STATE_LOC_OK f0 0 1) (refSrc (setF State.reset F.CLK_REF_STATE_LOC_OK f0 0 1)) = true ∧
    (let s := setF (setF State.reset F.CLK_REF_STATE_SRC f0 0 0) F.CLK_REF_STATE_LOC_OK f0 0 1
     refGood s (refSrc s) = false ∧ refSrc s = 0) ∧ refSrc State.reset ≠ 0 :=
  ⟨reaches_of (by decide +kernel), by decide +kernel⟩

theorem witness_Clocks_failure : hasDomain State.reset 16 4 = true ∧ hasDomain State.reset 0 0 = true ∧ hasDomain State.reset 0 1 = true ∧
    hasDomain State.reset 0 3 = false ∧ dieFenced State.reset 0 = false ∧
    domState (setF State.reset F.CLK_DOM_STATE_STATE 0 1 2) 0 1 = 2 ∧ domState (setF State.reset F.CLK_DOM_STATE_STATE 0 0 2) 0 0 = 2 ∧
    domState (setF State.reset F.CLK_DOM_STATE_STATE 24 1 2) 24 1 = 2 ∧ isMem 24 = true ∧ domState (startDomains State.reset 0) 0 0 < 2 ∧
    tget? (setF State.reset (lockFld (1 - getF State.reset F.CLK_DOM_STATE_SRC 0 0)) 0 0 0).swaps (domKey 0 0) = none ∧
    flag (setF State.reset F.CLK_DOM_STATE_RUNT 0 0 1) F.CLK_DOM_STATE_RUNT 0 = true ∧ flag State.reset F.CLK_DOM_STATE_RUNT 0 = false := by
  decide +kernel

theorem witness_Clocks_switch : hasDomain State.reset 15 0 = true ∧ reaches State.reset 15 ∧ isPfSrc (.fn 0) = true ∧ bit 1 0 = true ∧
    switchRefused (setF (wakeByAccess State.reset (.fn 0) 15) F.CLK_DOM_CTRL_MARGIN_SW 15 0 (bits 1 1 1)) 15 0 = true ∧
    (let s := startDomains State.reset 15
     switchRefused (setF (wakeByAccess s (.fn 0) 15) F.CLK_DOM_CTRL_MARGIN_SW 15 0 (bits 1 1 1)) 15 0 = false ∧
       dieFenced s 15 = false ∧ flag s F.CLK_DOM_CTRL_MARGIN_SW 15 0 = false) ∧
    (let s := setF (startDomains State.reset 15) F.CLK_DOM_CTRL_MARGIN_SW 15 0 1
     switchRefused s 15 0 = false ∧ flag s F.CLK_DOM_CTRL_MARGIN_SW 15 0 = true ∧
       (let u := setF State.reset F.CLK_DOM_CTRL_MARGIN_SW 15 0 1
        switchRefused u 15 0 = true ∧ flag u F.CLK_DOM_CTRL_MARGIN_SW 15 0 = true)) ∧
    (∀ x ∈ [1, 2, 3, 4], tget? { State.reset with swaps := [(domKey 15 0, x)] }.swaps (domKey 15 0) = some x) ∧
    tget? State.reset.swaps (domKey 15 0) = none ∧ (govOf State.reset 15).stepping = false ∧
    (govOf (updGov State.reset 15 (fun g => { g with stepping := true })) 15).stepping = true ∧
    reaches State.reset (die04 State.reset) ∧ bit 0x100 8 = true ∧ bit 0x200 8 = false ∧
    flag State.reset F.TST_ATB_ROUTE_EN_B f0 = false ∧ flag (setF State.reset F.TST_ATB_ROUTE_EN_B f0 0 1) F.TST_ATB_ROUTE_EN_B f0 = true :=
  ⟨by decide +kernel, reaches_of (by decide +kernel), by decide +kernel, by decide +kernel, by decide +kernel, by decide +kernel, by decide +kernel,
    by decide +kernel, by decide +kernel, by decide +kernel, by decide +kernel, reaches_of (by decide +kernel), by decide +kernel⟩

/-! ## Fences, snapshots and storage -/

theorem witness_FencesAndScrubs : flag State.reset F.SN_HB_CFG_EN f0 = false ∧
    (let s := setAll State.reset [(F.SN_HB_CFG_EN, f0, 0, 1), (F.SN_HB_WATCH_VALID, f0, 7, 1), (F.SN_HB_CFG_MISSES, f0, 0, 0)]
     flag s F.SN_HB_CFG_EN f0 = true ∧ flag s F.SN_HB_WATCH_VALID f0 7 = true ∧ flag s F.SN_HB_WATCH_FAILED f0 7 = false ∧
       now s ≥ tgetD s.hbLast 7 0 + heartbeatLimit s) ∧
    isComp 15 = true ∧ stations.contains 0x2B = true ∧ fifo (setFifo State.reset 15 0x2B [mc .plain]) 15 0x2B ≠ [] ∧
    fifo State.reset 15 0x2B = [] ∧ isComp 16 = false ∧ dieFenced State.reset 31 = false ∧
    dieFenced (setF State.reset F.MGT_FENCE_DIE 31 0 1) 31 = true ∧ 64 * (stackBytes / 64 - 1) < stackBytes ∧
    lostAt State.reset (31 * stackBytes + 64 * (stackBytes / 64 - 1)) = false ∧
    lostAt { State.reset with stackState := [(31, 1)] } (31 * stackBytes) = true := by decide +kernel

/-- A snapshot set of PF 0 with one state extent and one shard extent. -/
def set0 : SnSet := ⟨0, [], 0, [⟨0, 64, 1, 0, 0⟩, ⟨64, 64, 0, 0, 0⟩], 0, 0, none, none, none, none, none, none⟩
/-- A take of that set on its way. -/
def take0 (layers : Nat) : SnRun := ⟨0, 0, 1, layers, layers, 0, 0, 0, 0, 0, false, [], false, false, false⟩
/-- An image of that set. -/
def img0 : SnImage := ⟨0, 0, 0, 0, none, [], [List.replicate 64 0], [List.replicate 64 0], true⟩

theorem witness_SnapshotOps_define : let i := image [(0, 1, 0x90), (0x10, 8, 0x1000), (0x18, 4, 1)]
    let s := job [] i
    opDesc s 0 0 (fun i => opcode i == 0x90) = some (taken i) ∧ firstFail (defineChecks s (taken i)) = none ∧
      (jobRead s 0 0x1000 96).2 = 0 ∧ (jobRead (op1 i) 0 0x1000 96).2 = 2 ∧ badManifest (jobRead s 0 0x1000 96).1 1 = true ∧
      badManifest (toLe 64 0 ++ toLe 8 0 ++ toLe 8 4096 ++ toLe 16 1) 1 = false ∧ tget? s.sets 0 = none ∧
      tget? { s with sets := [(0, set0)] }.sets 0 = some set0 ∧ firstFail (defineChecks s (taken (image []))) = some 1 := by decide +kernel

theorem witness_SnapshotOps_take : let i := image [(0, 1, 0x91)]
    let s := { job [] i with sets := [(0, set0)] }
    opDesc s 0 0 (fun i => opcode i == 0x91) = some (taken i) ∧ foreignSet s (taken i) 0 = false ∧ runOf s 0 = none ∧
      (runOf { s with sets := [(0, { set0 with run := some (take0 0) })] } 0).isSome = true ∧
      firstFail (takeChecks s (taken i)) = none ∧ firstFail (takeChecks (op1 i) (taken i)) = some 2 := by decide +kernel

theorem witness_SnapshotOps_restore : ∀ parts ∈ [1, 2, 3], let i := image [(0, 1, 0x92), (0x11, 1, 3), (0x12, 1, parts)]
    let s := { job [] i with sets := [(0, set0)] }
    opDesc s 0 0 (fun i => opcode i == 0x92) = some (taken i) ∧ firstFail (restoreChecks (some img0) s (taken i)) = none ∧
      tget? s.sets 0 = some set0 ∧ restoreImage s (taken i) (some img0) = some img0 ∧ img0.intact = true ∧
      firstFail (restoreChecks none s (taken i)) = some 7 ∧
      ((parts = 1 ∨ parts = 3) → (restoreState s (taken i) set0 img0).2 = 0) ∧
      ((parts = 2 ∨ parts = 3) → (writeExts s 0 0 (set0.exts.filter (fun e => e.kind == 0)) img0.shards).2 = 0) := by decide +kernel

theorem witness_SnapshotOps_conn : (∀ x ∈ [0, 1], let i := image [(0, 1, 0x93), (0x10, 8, 0x1000), (0x19, 1, x)]
    let s := job [(0x1000, toLe 3 0 ++ toLe 1 1)] i
    opDesc s 0 0 (fun i => opcode i == 0x93) = some (taken i) ∧ firstFail (connChecks s (taken i)) = none ∧
      (jobRead s 0 0x1000 128).2 = 0 ∧ badRecord (jobRead s 0 0x1000 128).1 = false ∧
      (s.conns.filter (fun p => p.1 != 0 && fld p.2.record 0 1 == fld (jobRead s 0 0x1000 128).1 0 1)).length < 8) ∧
    (let i := image [(0, 1, 0x93), (0x10, 8, 0x1000)]
     badRecord (jobRead (job [] i) 0 0x1000 128).1 = true ∧ (jobRead (op1 i) 0 0x1000 128).2 = 2 ∧
       firstFail (connChecks (op1 i) (taken (image [(0x18, 1, 16)]))) = some 1) := by decide +kernel

/-- The module in which a take of set 0 is captured, with its image. -/
def captured (layers : Nat) (rd : List Nat) : State :=
  { job [] (image [(0, 1, 0x91)]) with sets := [(0, { set0 with run := some { take0 layers with captured := true, read := rd } })],
                                       images := [(imgKey 2 0 0, img0)] }

theorem witness_SnapshotPhases :
    (let s := { job [] (image [(0, 1, 0x91)]) with sets := [(0, { set0 with run := some (take0 0) })] }
     tget? s.sets 0 = some { set0 with run := some (take0 0) } ∧ (take0 0).captured = false ∧ (descOf s 0 0).isSome = true ∧
       ((descOf s 0 0).map (fun d => d.override.isNone && d.seqr != 5)) = some true ∧
       (((set0.exts.filter (fun e => e.kind == 1)).map (fun e => jobRead s 0 e.va e.bytes)).find? (fun p => p.2 != 0)) = none ∧
       (((set0.exts.filter (fun e => e.kind == 1)).map (fun e => jobRead (op1 []) 0 e.va e.bytes)).find? (fun p => p.2 != 0)).isSome = true ∧
       descOf { s with descs := [] } 0 0 = none) ∧
    (let s := captured 2 [1]
     buildImg s 0 = some img0 ∧ (runOf s 0).isSome = true ∧ bit 2 1 = true ∧ (shardExts set0).all (fun i => ([1] : List Nat).contains i) = true ∧
       flashWhole (setAll s ((List.range 8).map (fun k => (F.TM_STATE_FLASH_OK, 24 + k, 0, 1)))) = true ∧
       flashWhole (setAll s ((List.range 8).map (fun k => (F.TM_STATE_FLASH_OK, 24 + k, 0, 0)))) = false) ∧
    (let s := { captured 4 [1] with conns := [(0, ⟨[], 0, [], 0, 16⟩)] }
     bit 4 2 = true ∧ bit 4 1 = false ∧ owesPkts s 0 0 = false ∧ owesPkts (captured 4 [1]) 0 0 = true) ∧
    (let s := captured 2 []
     ([] : List Nat).contains 1 = false ∧ (shardExts set0).contains 1 = true ∧ set0.exts[1]? = some ⟨64, 64, 0, 0, 0⟩ ∧
       (jobRead s 0 64 64).2 = 0 ∧ (jobRead (op1 []) 0 64 64).2 ≠ 0 ∧ buildImg { s with images := [] } 0 = none) ∧
    ((∀ x, tget? State.reset.sets 0 = some x → x.run = none) ∧ runOf State.reset 0 = none) :=
  ⟨by decide +kernel, by decide +kernel, by decide +kernel, by decide +kernel, And.intro (fun x hx => by cases hx) (by decide +kernel)⟩

theorem witness_StoragePorts :
    (let x : Conn := ⟨[], 0, [⟨0, 0, 0, 0, [], 0⟩], 0, 16⟩
     connGone State.reset x = false ∧ connGone (setF State.reset F.MGT_FENCE_DIE 17 0 1) x = true ∧
       dieFenced State.reset (storageDie 1) = false ∧ dieFenced (setF State.reset F.MGT_FENCE_DIE 21 0 1) (storageDie 1) = true) ∧
    (let x : Conn := ⟨[], 0, [⟨0, 0, 0, 0, [], 0⟩], 0, 16⟩
     let s := { State.reset with conns := [(15, x)] }
     getConn s 15 = some x ∧ x.unacked ≠ [] ∧ x.retries < 7 ∧ { x with retries := 7 }.retries ≥ 7 ∧ getConn s 0 = none ∧
       s.conns.any (fun p => connPort p.2 == 0 * 8 + 0) = true ∧ tget? s.paused 0 = none ∧
       (tget? { s with paused := [(0, 5)] }.paused 0).isSome = true ∧ s.conns.any (fun p => connPort p.2 == 1 * 8 + 7) = false) := by
  decide +kernel

/-! ## Resets, boot, management and test -/

theorem witness_Resets : State.reset.supply.phase < 3 ∧ (updSupply State.reset (fun x => { x with phase := 3 })).supply.phase ≥ 3 ∧
    reaches State.reset (die04 State.reset) ∧ isPfSrc (.fn 0) = true ∧ bit 1 0 = true ∧
    flag State.reset F.MGT_FW_STATE_PENDING f0 = false ∧ flag (setF State.reset F.MGT_FW_STATE_PENDING f0 0 1) F.MGT_FW_STATE_PENDING f0 = true ∧
    answers State.reset = true ∧ barred State.reset true = false ∧ barred (setF State.reset F.HST_SEAL_SEAL f0 0 1) true = true :=
  ⟨by decide, by decide, reaches_of (by decide +kernel), by decide +kernel⟩

theorem witness_BootAndService : managed State.reset = true ∧ getF State.reset F.MGT_SVC_DIES_LIMITED f0 = 0 ∧
    getF State.reset F.MGT_FW_STATE_SLOT f0 = 0 ∧ verifies State.reset ⟨1, 255, 3, true, []⟩ = true ∧ verifies State.reset ⟨1, 0, 4, true, []⟩ = false ∧
    managed (setAll State.reset [(F.MGT_FENCE_DIE, 16, 0, 1), (F.MGT_FENCE_DIE, 20, 0, 1)]) = false ∧ dieFenced State.reset 20 = false ∧
    isComp 15 = true ∧ flag State.reset F.MGT_SVC_RECOVERY f0 = false ∧ strapFault State.reset = false ∧ powerOf State.reset 15 < 2 ∧
    bit (getF State.reset F.MGT_SVC_DIES_LIMITED f0) 15 = false ∧ (stacksReady State.reset 15 && linkGroup State.reset 15) = true ∧
    (stacksReady { State.reset with stackState := [(30, 1), (31, 1)] } 15 && linkGroup State.reset 15) = false ∧
    bit (getF (setF State.reset F.MGT_SVC_DIES_LIMITED f0 0 32768) F.MGT_SVC_DIES_LIMITED f0) 15 = true ∧
    bit (getF State.reset F.MGT_SVC_DIES_FULL f0) 15 = false ∧
    dieFenced (setF State.reset F.MGT_FENCE_DIE 20 0 1) 20 = true ∧ managed (setF State.reset F.MGT_FENCE_DIE 20 0 1) = true ∧
    (let s := { State.reset with bootBad := [0] }
     s.bootBad.contains (getF s F.MGT_FW_STATE_SLOT f0 + 2 * manager s) = true) := by decide +kernel

theorem witness_ManagementCommands_placement : answers State.reset = true ∧ (List.replicate 60 (0 : Byte)).length = 60 ∧
    answers (setF State.reset F.MGT_SVC_RECOVERY f0 0 1) = false ∧
    (∀ x ∈ [(4, 16384, 256), (12, 4096, 64), (12, 1024, 64)], let d := toLe 2 (x.2.1 - x.2.2) ++ toLe 2 x.2.2 ++ List.replicate (x.1 * x.2.2) 0
     fld d 2 2 ≠ 0 ∧ fld d 2 2 ≤ x.2.2 ∧ fld d 0 2 + fld d 2 2 ≤ x.2.1 ∧ d.length = 4 + x.1 * fld d 2 2) ∧
    (let p := toLe 60 0
     let s := { State.reset with staged := some p }
     noCopy s = true ∧ (newIdentity s p = false ∨ noJob s = true) ∧ noCopy (setF s F.FAB_ROUTE_CTRL_BUSY 16 0 1) = false ∧
       newIdentity s (toLe 60 0x4001) = true ∧ noJob (setF s F.FAB_RX_FLOWS_FLOWS 0 0 1) = false ∧ State.reset.staged = none) := by
  decide +kernel

theorem witness_ManagementCommands_oem : answers State.reset = true ∧ (toLe 40 0).length = 40 ∧
    bit (getF State.reset F.AON_WAKE_EN_EN f0) 8 = true ∧ bit (getF (setF State.reset F.AON_WAKE_EN_EN f0 0 0) F.AON_WAKE_EN_EN f0) 8 = false ∧
    State.reset.descs = [] ∧ (op1 (image [])).descs ≠ [] ∧ barred State.reset true = false ∧
    barred (setF State.reset F.HST_SEAL_SEAL f0 0 1) true = true ∧ fld (toLe 8 (31 * 2 ^ 25 + 0x100000)) 0 4 / 2 ^ 25 = 31 ∧
    fld (toLe 8 (32 * 2 ^ 25)) 0 4 / 2 ^ 25 ≥ 32 := by decide +kernel

theorem witness_SessionsAndSensors : answers State.reset = true ∧ inSession { State.reset with sessions := [1] } true = true ∧
    inSession { State.reset with sessions := [1] } false = false ∧
    getF State.reset F.MGT_FW_STATE_SVN_MIN f0 ≤ 0 ∧ 0 ≤ getF State.reset F.MGT_FW_STATE_SVN f0 ∧
    255 > getF State.reset F.MGT_FW_STATE_SVN f0 ∧ keyLeft State.reset 3 = false ∧
    keyLeft { State.reset with fwSlots := [(0, ⟨1, 0, 1, true, []⟩)] } 3 = true ∧
    (let d := toLe 1 0 ++ toLe 1 0 ++ toLe 2 5 ++ toLe 1 7 ++ toLe 7 0 ++ toLe 32 9
     keyFits (fld d 0 1) (keyOf d) = true ∧ keyClashes State.reset (fld d 0 1) (keyOf d) = false ∧
       keyClashes { State.reset with keys := [(1, keyOf d)] } (fld d 0 1) (keyOf d) = true ∧
       tget? { State.reset with keys := [(1, keyOf d)] }.keys 1 = some (keyOf d) ∧ (keyOf d).kind = 0 ∧ tget? State.reset.keys 1 = none) ∧
    keyFits 64 (keyOf (toLe 1 64 ++ toLe 11 1 ++ toLe 64 3)) = true ∧
    managed State.reset = true ∧ flag State.reset F.MGT_SVC_RECOVERY f0 = false := by decide +kernel

theorem witness_TestControl : reaches State.reset 15 ∧ State.reset = wakeByAccess State.reset (.fn 0) 15 ∧ isPfSrc (.fn 0) = true ∧ bit 8 3 = true ∧
    tget? State.reset.bists 15 = none ∧ tget? { State.reset with bists := [(15, 4)] }.bists 15 = some 4 ∧
    tget? { State.reset with bists := [(15, 2)] }.bists 15 = some 2 ∧ isMem 15 = false ∧
    (let m : MarginRun := ⟨0, false, false⟩
     let s := { State.reset with margins := [(15, m)], drains := [(marginStack 15 0, 3)] }
     let home := { HomeRec.empty with state := 1, location := 49152 * marginStack 15 0 }
     tget? s.margins 15 = some m ∧ isComp 15 = true ∧ m.hold = false ∧ tgetD s.drains (marginStack 15 m.target) 0 = 3 ∧
       stranded s (marginStack 15 0) = false ∧ stackEmpty s (marginStack 15 0) = true ∧
       stranded { s with homes := [(5, home)] } (marginStack 15 0) = true ∧
       stackEmpty { s with releases := [⟨0, 49152 * marginStack 15 0, 5⟩] } (marginStack 15 0) = false ∧
       stranded { s with releases := [⟨0, 49152 * marginStack 15 0, 5⟩] } (marginStack 15 0) = false) ∧
    (let s := { State.reset with margins := [(15, ⟨0, true, true⟩), (16, ⟨0, true, true⟩)] }
     tget? s.margins 15 = some ⟨0, true, true⟩ ∧ tgetD s.stackState (marginStack 15 0) 0 ≠ 1 ∧ isComp 16 = false ∧
       tget? s.margins 16 = some ⟨0, true, true⟩ ∧ tgetD { s with stackState := [(30, 1)] }.stackState (marginStack 15 0) 0 = 1) ∧
    reaches State.reset (die04 State.reset) ∧ bit 0x20 5 = true ∧ bit 0x2000 13 = true ∧ bit 0 5 = false ∧ bit 0 13 = false ∧
    (linkedTo 0).contains 16 = true ∧ (linkedTo 0).contains 2 = false :=
  ⟨reaches_of (by decide +kernel), (wakeByAccess_white (by decide +kernel)).symm, by decide +kernel, by decide, by decide +kernel,
    by decide +kernel, by decide +kernel, by decide, by decide +kernel, by decide +kernel, reaches_of (by decide +kernel), by decide +kernel⟩

/-! ## Every command -/

/-- A register write waits, then a scrub. -/
def waiting : State := { State.reset with pending := [.registerWrite 0 0x100 4 1, .f4Takeover] }

theorem witness_StepRunsFront : waiting.pending = .registerWrite 0 0x100 4 1 :: [.f4Takeover] := rfl

theorem witness_QueueIsFifo : Sound waiting ∧ (∃ t, exec .f4Takeover waiting = .next t) ∧ ∃ t, step waiting = .next t :=
  ⟨sound_of rfl rfl rfl rfl rfl rfl rfl rfl, ⟨_, rfl⟩, _, rfl⟩

theorem witness_IdleStep : State.reset.pending = [] ∧ State.reset.tickStop = false ∧ refSrc State.reset ≠ 0 ∧ State.reset.supply.phase < 3 ∧
    State.reset.slew = 0 ∧ { State.reset with tickStop := true }.tickStop = true := by decide +kernel

theorem witness_SoundKept : Sound State.reset ∧ ∃ t, step State.reset = .next t :=
  ⟨sound_of rfl rfl rfl rfl rfl rfl rfl rfl, _, rfl⟩

theorem witness_FencesPermanent :
    (let s := { setAll State.reset [(F.MGT_FENCE_DIE, 5, 0, 1), (F.MGT_FENCE_STATIONS, 6, 0, 1)] with pending := [.warmReset []] }
     Sound s ∧ (∀ c r, s.pending = c :: r → isCold c = false) ∧ (∃ t, step s = .next t) ∧ dieFenced s 5 = true ∧ stFenced s 6 0 = true) :=
  ⟨sound_of (by decide +kernel) rfl rfl rfl rfl rfl rfl rfl, fun c r h => by cases h; rfl, ⟨_, rfl⟩, by decide +kernel, by decide +kernel⟩

theorem witness_SealPermanent :
    (let s := { setAll State.reset [(F.HST_SEAL_SEAL, f0, 0, 1)] with pending := [.warmReset []] }
     Sound s ∧ (∀ c r, s.pending = c :: r → isCold c = false) ∧ (∃ t, step s = .next t) ∧ sealed s = true) :=
  ⟨sound_of (by decide +kernel) rfl rfl rfl rfl rfl rfl rfl, fun c r h => by cases h; rfl, ⟨_, rfl⟩, by decide +kernel⟩

theorem witness_OpsStayInside : Sound (op1 (image [])) ∧ isOp (.nop 0 0) = true ∧ ∃ t, exec (.nop 0 0) (op1 (image [])) = .next t :=
  ⟨sound_of rfl rfl rfl rfl rfl rfl rfl rfl, rfl, _, rfl⟩

theorem witness_MemoryFrame : Sound State.reset ∧ isDry (.tickAlignSend 0) = true ∧ ∃ t, exec (.tickAlignSend 0) State.reset = .next t :=
  ⟨sound_of rfl rfl rfl rfl rfl rfl rfl rfl, rfl, _, rfl⟩

theorem witness_WritesTurnedAway :
    writeOf State.reset (.gvFreqWrite (.fn 0) 15 7) = some (.fn 0, 15, 0x600018, 7) ∧
    writeOf State.reset (.gvFreqWrite (.fn 1) 15 7) = some (.fn 1, 15, 0x600018, 7) ∧ isPF 1 = false ∧ isPfSrc (.fn 0) = true ∧
    (updSupply State.reset (fun x => { x with phase := 3 })).supply.phase ≥ 3 ∧
    dieFenced (setF State.reset F.MGT_FENCE_DIE 15 0 1) 15 = true ∧ inCharcoal { State.reset with powers := [(15, 3)] } 15 = true ∧
    coreForced (setF State.reset F.CLK_DOM_STATE_STATE 15 0 2) 15 = true ∧ State.reset.supply.phase < 3 ∧
    inCharcoal (setF State.reset F.CLK_DOM_STATE_STATE 15 0 2) 15 = false := by decide +kernel

theorem witness_PairWrite : Sound State.reset ∧ pairs ≠ [] ∧ sealed State.reset = false ∧ (31 : Nat) < 32 ∧ (4095 : Nat) < 4096 :=
  ⟨sound_of rfl rfl rfl rfl rfl rfl rfl rfl, by decide, by decide +kernel, by decide, by decide⟩

theorem witness_TokenWait : let i := image [(1, 1, 8), (6, 2, 4095), (8, 4, 1)]
    let s := signalTok (op1 i) 0 4095 1
    isReady s 0 { taken i with seqr := 4 } = true ∧ hWait i = true ∧ waitHolds s 0 4095 1 = true ∧ waitHolds s 0 4095 2 = false ∧
      waitHolds s 0 4095 (2 ^ 31 + 1) = false ∧ waitHolds s 0 4095 (2 ^ 31 + 2) = true ∧ waitHolds s 0 4095 (2 ^ 31) = false := by
  decide +kernel

theorem witness_CompletionEntry : Sound s2 ∧ (⟨0, 0, 0, 0, List.replicate 6 0, 0, false, false⟩ : Cpl).detail.length = 6 ∧
    flag s2 F.QUE_CR_CFG_LOC 0 0 = false ∧ flag (setF s2 F.QUE_CR_CFG_LOC 0 0 1) F.QUE_CR_CFG_LOC 0 0 = true :=
  ⟨sound_of (by decide +kernel) rfl rfl rfl rfl rfl rfl rfl, by decide +kernel⟩

theorem witness_QueueConfigLocked : Sound s2 ∧ s2 = wakeByAccess s2 (.fn 0) (qDie 0) ∧ reaches s2 (qDie 0) ∧
    mayWrite (.fn 0) (queueOwner s2 0) ∧ mayWrite .mgmt (queueOwner s2 0) ∧ qState s2 0 ≠ 0 ∧ answers s2 = true ∧ barred s2 false = false ∧
    fld (toLe 4 0x10001C ++ toLe 4 5) 0 4 = qDie 0 * 2 ^ 25 + queueOff 0 + 0x1C ∧ fld (toLe 4 0x10001C ++ toLe 4 5) 4 4 = 5 ∧
    (∀ k ∈ [0x00, 0x04, 0x08, 0x0C, 0x18, 0x1C], barPlace s2 0 (0x100000 + k) = some (qDie 0, queueOff 0 + k) ∧ (0x100000 + k) % 4 = 0) ∧
    (1 / 2 ^ 16 ≠ getF s2 F.QUE_Q_CTRL_OPC_MASK 0 0 ∧ bit 1 1 = false ∧ bit 1 2 = false ∧ qState s2 0 = 1 ∧ qEnabled s2 0 = true ∧ bit 1 0 = true) ∧
    (let s := setQState s2 0 3
     qState s 0 = 3 ∧ 65536 / 2 ^ 16 ≠ getF s F.QUE_Q_CTRL_OPC_MASK 0 0 ∧ bit 65536 0 = false ∧ bit 65536 1 = false ∧ bit 65536 2 = false) :=
  ⟨sound_of (by decide +kernel) rfl rfl rfl rfl rfl rfl rfl, (wakeByAccess_white (by decide +kernel)).symm, reaches_of (by decide +kernel),
    .inr ⟨0, rfl, .inl (by decide +kernel)⟩, .inl rfl, by decide +kernel⟩

theorem witness_AbsentAndAsleep : barPlace State.reset 0 0x050000 = some (0, 0x050000) ∧ holdsReg 0 0x050000 = false ∧ reaches State.reset 0 ∧
    answers State.reset = true ∧ fld (toLe 4 0x050000) 0 4 = 0 * 2 ^ 25 + 0x050000 ∧
    inCharcoal { State.reset with powers := [(0, 3)] } 0 = true ∧ dieFenced State.reset 0 = false ∧
    answers { State.reset with powers := [(0, 3)] } = true ∧ coreForced { State.reset with powers := [(0, 3)] } 0 = false ∧
    (let s := { State.reset with powers := [(0, 3)] }
     barPlace s 0 0x600010 = some (0, 0x600010) ∧ crdbRing 0 0x600010 = none ∧ fld (toLe 4 0x600010) 0 4 = 0 * 2 ^ 25 + 0x600010 ∧
       0x600000 ≤ 0x600010 ∧ 0x600010 < 0x600038 ∧ powerOf (wakeByAccess s (.fn 0) 0) 0 = 4) :=
  ⟨by decide +kernel, by decide +kernel, reaches_of (by decide +kernel), by decide +kernel⟩

/-- The clauses about a fenced die: die 3 fenced, seen by a physical function and by the management controller. -/
theorem witness_FencedAccess : dieFenced { setF State.reset F.MGT_FENCE_DIE 3 0 1 with winSel := [(0, 3)] } 3 = true ∧
    barPlace { setF State.reset F.MGT_FENCE_DIE 3 0 1 with winSel := [(0, 3)] } 0 0x600010 = some (3, 0x600010) ∧ crdbRing 3 0x600010 = none ∧
    answers { setF State.reset F.MGT_FENCE_DIE 3 0 1 with winSel := [(0, 3)] } = true ∧
    fld (toLe 4 (3 * 2 ^ 25 + 0x600010)) 0 4 = 3 * 2 ^ 25 + 0x600010 := by decide +kernel

theorem witness_NumberFormats : (∀ c ∈ [0x1E, 0x0D, 0x0A, 0x00, 0x3F], c < 64) ∧ 4 * 1 < ([0x1E, 0x0D, 0x0A, 0x00, 0x3F] : List Nat).length ∧
    7 < (([0x1E, 0x0D, 0x0A, 0x00, 0x3F] : List Nat).length + 3) / 4 * 4 ∧ 3 < (([15, 0, 7] : List Nat).length + 1) / 2 * 2 ∧
    (∀ c ∈ [15, 0, 7], c < 16) ∧ 2 * 1 < ([15, 0, 7] : List Nat).length ∧ elemVal 0x01 (convPlain 0x01 false .rne .nan).1 = .nan := by
  decide +kernel

theorem witness_SplitBound : unmet 0 60 1000 = true ∧ unmet 0 10 0 = false ∧ (255 : Nat) ≤ 255 := by decide

/-! ## Examples of the spec -/

/-- Topology: C0 of an A1 module reads HST_DIE_ID = 0x0001_1100, F0 0x0001_1210 and M3 0x0001_131B; a healthy QM-D32-C reads MGT_MOD_ID =
0x0040_4001. -/
theorem test_die_ids : regWord State.reset 0 0 = 0x00011100 ∧ regWord State.reset 16 0 = 0x00011210 ∧ regWord State.reset 27 0 = 0x0001131B ∧
    regWord State.reset 16 0x10 = 0x00404001 := by decide +kernel

/-- R93-R99: a ring of 64 entries writes its first entry with phase 1 and the 65th with phase 0. -/
theorem test_phase : bit ((entryBytes s2 0 ⟨0, 7, 0, 0, List.replicate 6 0, 0, false, false⟩).getD 15 0).toNat 7 = true ∧
    bit ((entryBytes (setF s2 F.QUE_CR_TAIL_TAIL 0 0 64) 0 ⟨0, 7, 0, 0, List.replicate 6 0, 0, false, false⟩).getD 15 0).toNat 7 = false := by
  decide +kernel

/-- R165: the example group 0x1E, 0x0D, 0x0A, 0x00 of FP6 is stored as the bytes 0x5E, 0xA3, 0x00. -/
theorem test_pack : packRow 0x0A [0x1E, 0x0D, 0x0A, 0x00] = [0x5E, 0xA3, 0x00] := by decide +kernel

/-- R174: the example block: scale 0x7B, codes 0x1E, 0x0D, 0x0A and 0x00 with one underflow. -/
theorem test_block : (let v (n : Int) (e : Int) : Val × RMode := (.fin false ⟨n, 1, e⟩, .rne)
    let r := convBlock 0x0A true ([v 7 (-4), v 13 (-7), v 19 (-8), v 3 (-10)] ++ List.replicate 28 (v 0 0))
    r.1.take 4 = [0x1E, 0x0D, 0x0A, 0x00] ∧ r.2.1 = 0x7B ∧ r.2.2.isUnder = 1) := by decide +kernel

/-- R169: under stochastic rounding element 2 of that block gives 1.25 for the word 0x3A00_0000 and 1.125, coded 0x09, for 0xC000_0000. -/
theorem test_stochastic : (let c (u : Nat) : Nat := ((convBlock 0x0A true ((.fin false ⟨7, 1, -4⟩, .rne) ::
      (.fin false ⟨19, 1, -8⟩, .sr u) :: List.replicate 30 (.fin false ⟨0, 1, 0⟩, .rne))).1).getD 1 0
    c 0x3A000000 = 0x0A ∧ c 0xC0000000 = 0x09) := by decide +kernel

/-- R177-R179: the example element (1,000, 700) of 13,824 columns lies in counting tile 190 and takes word 0 of the named call. -/
theorem test_random : countTile 13824 1000 700 = 190 ∧
    elemWord ⟨0x0123456789ABCDEF, 7, true⟩ false 0x0A10 13824 1000 700 = (philox 0x342F 0xBE 0x0A10 7 0x89ABCDEF 0x01234567).1 ∧
    elemWord ⟨0x0123456789ABCDEF, 7, true⟩ true 0x0A10 13824 1000 700 = (philox 0x342F 0xBE 0x0A10 7 0x89ABCDEF 0x01234566).1 := by
  decide +kernel

/-- R176: the published known answer of Philox4x32-10 for a zero counter and a zero key. -/
theorem test_philox : philox 0 0 0 0 0 0 = (0x6627E8D5, 0xE169C58D, 0xBC57AC4C, 0x9B00DBD8) := by decide +kernel

/-- R380: the published check value of CRC-32C, of the digits 1 to 9. -/
theorem test_crc : crc32c [0x31, 0x32, 0x33, 0x34, 0x35, 0x36, 0x37, 0x38, 0x39] = 0xE3069283 := by decide +kernel

/-- R195: the example tensor has 864 counting tiles, of which 240, 496 and 752 are sampled. -/
theorem test_sampled : tilesOf 4096 13824 = 864 ∧ sampledTiles 8 0x0A10 4096 13824 = [240, 496, 752] := by decide +kernel

/-- R386: from C0 the way to F5 takes 3 hops on the torus. -/
theorem test_torus : fabHops 0 21 = 3 ∧ torusHops 0 10 = 4 ∧ torusHops 0 11 = 3 := by decide +kernel

/-- R474: a budget of 8.0 kW selects 1.2 GHz. -/
theorem test_budget : oppMhz (budgetPoint 8000) = 1200 := by decide +kernel

/-- R214-R218: the example of two blocks: lse2 = 5 + log₂ 1.25 rounds to 0x40AA_4D3C, and −0.4 to BF16 0xBECD. -/
theorem test_lse : lse2Code (exInt 5) ⟨5, 1, -2⟩ = 0x40AA4D3C ∧ (convPlain 0x03 false .rne (.fin true ⟨-2, 5, 0⟩)).1 = 0xBECD := by
  decide +kernel

/-- R62, R63: a signal of 1 to a token of C0 adds 1 to it. -/
theorem test_signal : getTok (signalTok State.reset 0 7 1) 0 7 = 1 ∧ getTok (signalTok State.reset 0 7 1) 0 8 = 0 := by decide +kernel

/-- R81: the enable of a queue that passes the checks starts it. -/
theorem test_enable : (match exec (.queueEnable (.fn 0) 0 65535) s1 with
    | .next t => qState t 0 == 1 && qEnabled t 0
    | _ => false) = true := by decide +kernel

/-- R13: a write of 1 to the seal register sets the seal. -/
theorem test_seal : (match exec (.seal (.fn 0) 1) State.reset with
    | .next t => sealed t
    | _ => false) = true := by decide +kernel

/-- No row of the table gives bits. -/
theorem test_decode : decodeTableWord 0 0 = none := rfl

end Sys2Proof.Tests
end

section
/-! Writes to the two halves of a register pair (R15, R601). -/

namespace Sys2Proof.Proofs.RegisterPairs

open Sys2Proof Sys2Proof.Machine Sys2Proof.Laws

variable {s : State} {l h f : Fld} {die i v w : Nat}

/-! ## The table of pairs -/

/-- Every half of a pair is one of the two only, and names its partner; both halves have one access code, and it stores. -/
theorem pairs_roles : ∀ p ∈ pairs, isLo p.1 = true ∧ isLo p.2 = false ∧ loOf p.2 = some p.1 ∧ p.2.acc = p.1.acc ∧
    p.1.acc ∈ [.rw, .rws, .rwl] := by decide

/-- The halves of a pair stand in different registers of a die block. -/
theorem pairs_places : ∀ p ∈ pairs, p.1.off < 2 ^ 25 ∧ p.2.off < 2 ^ 25 ∧ p.1.lo < 32 ∧ p.2.lo < 32 ∧ p.1.off ≠ p.2.off := by decide

theorem fieldKey_hi_ne_lo (hp : (l, h) ∈ pairs) (d e i j : Nat) : fieldKey h d i ≠ fieldKey l e j := by
  obtain ⟨hl, hh, ll, lh, hne⟩ := pairs_places _ hp
  exact fieldKey_ne d e i j hh hl lh ll fun heq => hne heq.1.symm

/-! ## One field -/

/-- The field of a write's value fits the field. -/
theorem fieldOf_mod (f : Fld) (v : Nat) : fieldOf f v % 2 ^ f.width = fieldOf f v := Nat.mod_mod _ _

/-- A field's value is a matter of the register table alone. -/
theorem getF_eq_of_flds {t u : State} (heq : t.flds = u.flds) (f : Fld) (d j : Nat) : getF t f d j = getF u f d j := by
  unfold getF; rw [heq]

/-- A field that stores, and that the seal does not hold, takes its part of the value written (R13, R14). -/
theorem writeField_flds (ha : f.acc ∈ [.rw, .rws, .rwl]) (ho : f.acc = .rwl → sealed s = false) :
    (writeField s die i v f).flds = (setF s f die i (fieldOf f v)).flds := by
  simp only [List.mem_cons, List.not_mem_nil, or_false] at ha
  unfold writeField
  obtain ha | ha | ha := ha
  case inr.inr => simp [ha, ho ha]
  all_goals
    simp only [ha]
    split <;> rfl

/-! ## The two halves -/

/-- The low half waits. -/
theorem writePart_lo (hl : isLo l = true) (ho : l.acc = .rwl → sealed s = false) :
    writePart s die v (l, i) = { s with loPend := tins s.loPend (fieldKey l die i) (fieldOf l v) } := by
  have hopen : (l.acc == .rwl && sealed s) = false := by simpa using ho
  simp [writePart, hl, hopen]

/-- The high half brings in the low half that waits. -/
theorem writePart_hi {x : Nat} (hh : isLo h = false) (hlo : loOf h = some l) (ho : h.acc = .rwl → sealed s = false)
    (hx : tget? s.loPend (fieldKey l die i) = some x) :
    writePart s die w (h, i) = setF (writeField s die i w h) l die i x := by
  have hopen : (h.acc == .rwl && sealed s) = false := by simpa using ho
  simp [writePart, hh, hlo, hopen, hx]

/-- After both writes each half of the pair reads as its own part of the value written to it. -/
theorem getF_writePart_hi (hw : tabWf s.flds = true) (hp : (l, h) ∈ pairs) (ho : l.acc = .rwl → sealed s = false)
    (hx : tget? s.loPend (fieldKey l die i) = some (fieldOf l v)) :
    getF (writePart s die w (h, i)) l die i = fieldOf l v ∧ getF (writePart s die w (h, i)) h die i = fieldOf h w := by
  obtain ⟨-, hh, hlo, hacc, hstores⟩ := pairs_roles _ hp
  have ho' : h.acc = .rwl → sealed s = false := fun e => ho (hacc ▸ e)
  have hflds := writeField_flds (s := s) (die := die) (i := i) (v := w) (hacc ▸ hstores) ho'
  have hw' : tabWf (writeField s die i w h).flds = true := hflds ▸ tabWf_setF hw _ _ _ _
  rw [writePart_hi hh hlo ho' hx]
  constructor
  · rw [getF_setF_same hw', fieldOf_mod]
  · rw [getF_setF_key hw' _ _ _ _ (fieldKey_hi_ne_lo hp die die i i), getF_eq_of_flds hflds, getF_setF_same hw, fieldOf_mod]

end Sys2Proof.Proofs.RegisterPairs

namespace Sys2Proof.Proofs

open Sys2Proof.Machine Sys2Proof.Laws RegisterPairs

/-- Settles O53: the low half goes to the pending values and to no field; the high half finds it there, and the keys of the two halves
differ. -/
theorem pairWrite : Obligations.PairWrite := by
  intro s t u die i v w l h hs hp ho _ _ ht hu
  rw [writePart_lo (pairs_roles _ hp).1 ho] at ht
  subst ht hu
  exact ⟨fun _ _ _ => rfl, getF_writePart_hi hs.flds hp ho (tget?_tins_same _ _ _)⟩

end Sys2Proof.Proofs
end

section
/-! Waits on a token (R61) and the header wait of a descriptor (R85). -/

namespace Sys2Proof.Proofs.TokenWaits

open Sys2Proof Sys2Proof.Machine

variable {s : State} {die : Nat} {d : Desc}

/-- R61: the sign bit that the model tests is the sign of the difference as a signed 32-bit integer. -/
theorem waitHolds_iff (s : State) (die tok v : Nat) :
    waitHolds s die tok v = true ↔ 0 ≤ (getTok s die tok - BitVec.ofNat 32 v).toInt := by
  rw [waitHolds, BitVec.msb_eq_toInt, Bool.not_eq_true', decide_eq_false_iff_not, Int.not_lt]

/-- R85: the wait of a ready descriptor's header, where it has one, is satisfied. -/
theorem waitHolds_of_isReady (hr : isReady s die d = true) (hw : hWait d.image = true) :
    waitHolds s die (hWaitTok d.image) (hWaitVal d.image) = true := by
  simp only [isReady, Bool.and_eq_true] at hr
  obtain ⟨-, hwait⟩ := hr
  simpa only [hw, Bool.not_true, Bool.false_or] using hwait

end Sys2Proof.Proofs.TokenWaits

namespace Sys2Proof.Proofs

open Sys2Proof.Machine TokenWaits

/-- Settles O54: the wait is a test of the difference's sign, and a ready descriptor with a header wait has passed it. -/
theorem tokenWait : Obligations.TokenWait :=
  ⟨waitHolds_iff, fun s die _ hr hw => (waitHolds_iff s die _ _).mp (waitHolds_of_isReady hr hw)⟩

end Sys2Proof.Proofs
end

section
/-! Where a completion entry lies, what its bytes are, and how the ring takes it (R94, R96). -/

namespace Sys2Proof.Proofs.CompletionEntries

open Sys2Proof Sys2Proof.Machine Sys2Proof.Laws

variable {s : State} {r : Nat} {c : Cpl}

/-! ## The bytes of an entry -/

/-- A number laid out in `n` bytes has `n` bytes. -/
@[simp] theorem toLe_length : ∀ (n v : Nat), (toLe n v).length = n
  | 0, _ => rfl
  | n + 1, v => by simp [toLe, toLe_length n]

/-- The last byte of an entry: the phase bit above seven flags. -/
def phaseByte (s : State) (r : Nat) (c : Cpl) : Nat :=
  b2n (getF s F.QUE_CR_TAIL_TAIL (r / 256) (r % 256) / ringSize s r % 2 == 0) * 128 + c.flags % 128

/-- The 15 bytes of an entry before the phase byte. -/
def entryBody (s : State) (c : Cpl) : Bytes :=
  toLe 2 c.tag ++ toLe 2 c.queue ++ toLe 1 c.status ++ toLe 1 c.station ++ toLe 3 (now s) ++ c.detail

theorem entryBytes_eq (s : State) (r : Nat) (c : Cpl) : entryBytes s r c = entryBody s c ++ toLe 1 (phaseByte s r c) := rfl

theorem entryBody_length (hc : c.detail.length = 6) : (entryBody s c).length = 15 := by
  simp [entryBody, hc]

theorem entryBytes_length (hc : c.detail.length = 6) : (entryBytes s r c).length = 16 := by
  simp [entryBytes_eq, entryBody_length hc]

/-- Byte 15 of an entry is its phase byte. -/
theorem entryBytes_last (hc : c.detail.length = 6) : (entryBytes s r c).getD 15 0 = BitVec.ofNat 8 (phaseByte s r c) := by
  rw [entryBytes_eq, List.getD_append_right _ _ _ _ (entryBody_length hc).le, entryBody_length hc]
  rfl

/-- Bit 7 above seven flags is the bit put there. -/
theorem bit_seven_above (b : Bool) (x : Nat) : bit (b2n b * 128 + x % 128) 7 = b := by
  cases b
  · simp [bit, b2n]
  · simp [bit, b2n]

theorem phaseByte_lt : phaseByte s r c < 256 := by
  unfold phaseByte b2n
  split <;> omega

/-- The phase is 1 on an even pass of the ring (R96). -/
theorem entryBytes_phase (hc : c.detail.length = 6) : bit ((entryBytes s r c).getD 15 0).toNat 7 =
    (getF s F.QUE_CR_TAIL_TAIL (r / 256) (r % 256) / ringSize s r % 2 == 0) := by
  rw [entryBytes_last hc, BitVec.toNat_ofNat, Nat.mod_eq_of_lt phaseByte_lt]
  exact bit_seven_above _ _

/-! ## The ring takes the entry -/

/-- Where the entry at the ring's tail lies (R96). -/
def entryAddr (s : State) (r : Nat) : Nat :=
  getPair s F.QUE_CR_BASE_LO_BASE F.QUE_CR_BASE_HI_BASE (r / 256) (r % 256) +
    16 * (getF s F.QUE_CR_TAIL_TAIL (r / 256) (r % 256) % ringSize s r)

/-- The ring counts an entry written: its stamp, its heat and its tail, and then its vector (R99). -/
def countEntry (s t : State) (r : Nat) (c : Cpl) : State :=
  fireRing (addW (setRInt t r
    { getRInt t r with
      stamps := (getRInt t r).stamps ++ [(getF s F.QUE_CR_TAIL_TAIL (r / 256) (r % 256), now t)],
      hot := statusKind c.status == .fault || c.irq }) F.QUE_CR_TAIL_TAIL (r / 256) (r % 256) 1) r

theorem writeEntry_module (h : flag s F.QUE_CR_CFG_LOC (r / 256) (r % 256) = true) :
    writeEntry s r c = countEntry s (physWrite s (entryAddr s r) (entryBytes s r c) 0) r c := by
  simp only [writeEntry, h, if_true]; rfl

theorem writeEntry_host (h : flag s F.QUE_CR_CFG_LOC (r / 256) (r % 256) = false) :
    writeEntry s r c = countEntry s (hostWrite s (portOf ((ringOwner s r).getD 0)) (entryAddr s r) (entryBytes s r c)) r c := by
  simp only [writeEntry, h, Bool.false_eq_true, if_false]; rfl

/-- A vector fired stores to no byte of the module's memory. -/
theorem fireRing_mem (s : State) (r : Nat) : (fireRing s r).mem = s.mem := by
  unfold fireRing
  split
  · extract_lets armed ring fired
    cases ringOwner fired r <;> simp [fired, armed]
  · rfl

theorem countEntry_mem (s t : State) (r : Nat) (c : Cpl) : (countEntry s t r c).mem = t.mem := fireRing_mem _ _

/-- A write of bytes at a physical address stores them there. -/
theorem physWrite_mem {a cause : Nat} {bs : Bytes} (h : bs ≠ []) : (physWrite s a bs cause).mem = writeBytes s.mem a bs := by
  simp [physWrite, markLines, h]

/-- A ring in memory of the module holds the entry at its place. -/
theorem readBytes_writeEntry (hm : Memory.wf s.mem) (hc : c.detail.length = 6)
    (h : flag s F.QUE_CR_CFG_LOC (r / 256) (r % 256) = true) :
    readBytes (writeEntry s r c).mem (entryAddr s r) 16 = entryBytes s r c := by
  have hlen : (entryBytes s r c).length = 16 := entryBytes_length hc
  have hne : entryBytes s r c ≠ [] := List.ne_nil_of_length_eq_add_one hlen
  rw [writeEntry_module h, countEntry_mem, physWrite_mem hne, ← hlen]
  exact readBytes_writeBytes hm

end Sys2Proof.Proofs.CompletionEntries

namespace Sys2Proof.Proofs

open Sys2Proof.Machine CompletionEntries

/-- Settles O56: the place is the model's own `entryAddr`, the phase is the top bit of the entry's last byte, and the count of the entry
leaves the memory written. -/
theorem completionEntry : Obligations.CompletionEntry := by
  rintro s r e a c hs hc rfl rfl
  exact ⟨entryBytes_length hc, entryBytes_phase hc, readBytes_writeEntry hs.mem hc, writeEntry_host⟩

end Sys2Proof.Proofs
end

section
/-! The configuration of a queue is locked while STATE is not 0 (R82), by either way to its registers. -/

namespace Sys2Proof.Proofs.QueueLock

open Sys2Proof Sys2Proof.Machine Sys2Proof.Laws

variable {s w : State} {src : Src} {q k v : Nat}

/-! ## Where the registers of a queue stand -/

theorem queueOff_bounds (q : Nat) : 0x100000 ≤ queueOff q ∧ queueOff q + 32 ≤ 0x120000 ∧ queueOff q % 32 = 0 := by
  unfold queueOff qLoc
  omega

theorem qDie_lt (hq : q < 65536) : qDie q < 16 := by
  unfold qDie
  omega

/-- An offset in the registers of a queue leads back to the queue. -/
theorem queue_of_offset (hk : k < 32) : 4096 * qDie q + (queueOff q + k - 0x100000) / 32 = q := by
  unfold queueOff qDie qLoc
  omega

/-- A field that the seal holds stands outside the registers of the queues. -/
def sealedOffQueues (f : Fld) : Bool :=
  f.acc != .rwl || decide (f.off + f.stride * f.count < 0x100000) || decide (0x120000 ≤ f.off)

theorem all_sealedOffQueues : F.all.all sealedOffQueues = true := by decide +kernel

/-- A field found at an offset has that offset within its span. -/
theorem instanceAt_bounds {f : Fld} {die off i : Nat} (h : instanceAt f die off = some i) :
    f.off ≤ off ∧ off ≤ f.off + f.stride * f.count := by
  unfold instanceAt at h
  extract_lets holds at h
  split_ifs at h with hin hstride hplace hplace
  all_goals simp only [Bool.or_eq_true, decide_eq_true_eq, not_or, not_lt] at hin
  case pos => omega
  case pos =>
    have := Nat.div_add_mod (off - f.off) f.stride
    have := Nat.mul_le_mul_left f.stride hplace.2.le
    omega

theorem instanceAt_of_mem_fieldsAt {die off : Nat} {p : Fld × Nat} (h : p ∈ fieldsAt die off) : instanceAt p.1 die off = some p.2 := by
  obtain ⟨f, -, hf⟩ := List.mem_filterMap.mp h
  obtain ⟨i, hi, rfl⟩ := Option.map_eq_some_iff.mp hf
  exact hi

/-- The seal holds no register of a queue. -/
theorem changesSealed_queue {die off : Nat} (hlo : 0x100000 ≤ off) (hhi : off < 0x120000) : changesSealed s die off v = false := by
  have hfree : ∀ p ∈ fieldsAt die off, p.1.acc ≠ .rwl := by
    intro p hp hacc
    have hspan := instanceAt_bounds (instanceAt_of_mem_fieldsAt hp)
    have hoff := List.all_eq_true.mp all_sealedOffQueues p.1 (mem_all_of_fieldsAt hp)
    simp only [sealedOffQueues, hacc, bne_self_eq_false, Bool.false_or, Bool.or_eq_true, decide_eq_true_eq] at hoff
    omega
  have hany : (fieldsAt die off).any (fun p => p.1.acc == .rwl && getF s p.1 die p.2 != fieldOf p.1 v) = false := by
    rw [List.any_eq_false]
    intro p hp
    simp [hfree p hp]
  simp [changesSealed, hany]

/-! ## The write at the register -/

/-- A record of an error leaves every field outside the error ring's own registers. -/
theorem getF_logErr {x : Fld} {fn code detail e j : Nat} {queue : Option Nat} (h : tabWf s.flds = true) (hoff : x.off < 2 ^ 25)
    (hlo : x.lo < 32) (hne : x.off ≠ F.HST_FN_ERR_TAIL_TAIL.off) :
    getF (logErr s fn code detail queue) x e j = getF s x e j := by
  unfold logErr
  extract_lets base tail head t
  split
  · rfl
  · split
    · exact getF_setF_other h _ _ _ _ _ _ _ (by decide) hoff (by decide) hlo fun he => hne he.1
    · exact getF_setF_other (s := t) h _ _ _ _ _ _ _ (by decide) hoff (by decide) hlo fun he => hne he.1

theorem qState_logErr {fn code detail : Nat} {queue : Option Nat} (h : tabWf s.flds = true) :
    qState (logErr s fn code detail queue) q = qState s q := getF_logErr h (by decide) (by decide) (by decide)

theorem qEnabled_logErr {fn code detail : Nat} {queue : Option Nat} (h : tabWf s.flds = true) :
    qEnabled (logErr s fn code detail queue) q = qEnabled s q :=
  congrArg (· == 1) (getF_logErr h (by decide) (by decide) (by decide))

/-- A write that reaches a register of a queue and that the queue's owner makes is the register's own. -/
theorem writeReg_queue (hq : q < 65536) (hk : k < 32) (hr : reaches s (qDie q)) (hw : w = wakeByAccess s src (qDie q))
    (hm : mayWrite src (queueOwner w q)) :
    writeReg s src (qDie q) (queueOff q + k) v =
      if k = 0x0C then writeQCtrl w src q v
      else if k = 0x10 ∨ k = 0x14 then w
      else if qState w q ≠ 0 then logErr w (eventFn src (queueOwner w q)) CFG_WHILE_ENABLED (queueOff q + k) (some q)
      else plainWrite w src (qDie q) (queueOff q + k) v := by
  obtain ⟨hlo, hhi, hal⟩ := queueOff_bounds q
  have hall : writeAll w src (qDie q) (queueOff q + k) v = none := by
    unfold writeAll
    repeat rw [if_neg (by omega)]
  have hcomp : isComp (qDie q) = true := decide_eq_true (qDie_lt hq)
  have hreg : (queueOff q + k) % 32 = k := by omega
  rw [writeReg, gate_reaches hr, ← hw, applyReg, hall]
  simp only [hcomp, if_true]
  rw [writeComp, if_pos ⟨by omega, by omega⟩, writeQueueReg]
  simp only [queue_of_offset hk, hreg]
  exact ownedWrite_may hm

/-- The writes to the registers of a queue that R82 locks: by register, and OPC_MASK by the value that would change it. -/
def LockedWrite (w : State) (q k v : Nat) : Prop :=
  k = 0x00 ∨ k = 0x04 ∨ k = 0x08 ∨ k = 0x18 ∨ k = 0x1C ∨
    (k = 0x0C ∧ v < 2 ^ 32 ∧ v / 2 ^ 16 ≠ getF w F.QUE_Q_CTRL_OPC_MASK (qDie q) (qLoc q) ∧ bit v 1 = false ∧ bit v 2 = false ∧
      (qState w q = 1 ∧ qEnabled w q = true ∧ bit v 0 = true ∨ qState w q = 3 ∧ bit v 0 = false))

/-- A locked write is to a word of the queue's registers. -/
theorem LockedWrite.word (h : LockedWrite w q k v) : k < 32 ∧ k % 4 = 0 := by
  unfold LockedWrite at h
  omega

/-- The 32 bits that a register takes of a value lock as the value does. -/
theorem LockedWrite.mod (h : LockedWrite w q k v) : LockedWrite w q k (v % 2 ^ 32) := by
  obtain h | h | h | h | h | ⟨hk, hv, h⟩ := h
  case inr.inr.inr.inr.inr => rw [Nat.mod_eq_of_lt hv]; exact .inr (.inr (.inr (.inr (.inr ⟨hk, hv, h⟩))))
  all_goals
    simp [LockedWrite, h]

/-- A change of OPC_MASK while STATE is not 0 does no more than its record, where the rest of the write asks for nothing new. -/
theorem writeQCtrl_locked (hf : tabWf w.flds = true) (hs : qState w q ≠ 0) (hv : v < 2 ^ 32)
    (hmask : v / 2 ^ 16 ≠ getF w F.QUE_Q_CTRL_OPC_MASK (qDie q) (qLoc q)) (habort : bit v 1 = false) (hclear : bit v 2 = false)
    (hrun : qState w q = 1 ∧ qEnabled w q = true ∧ bit v 0 = true ∨ qState w q = 3 ∧ bit v 0 = false) :
    writeQCtrl w src q v = logErr w (eventFn src (queueOwner w q)) CFG_WHILE_ENABLED (queueOff q + 0x0C) (some q) := by
  have hbits : bits v 16 16 = v / 2 ^ 16 := Nat.mod_eq_of_lt (by omega)
  unfold writeQCtrl
  simp only [hbits, hs, hmask, habort, hclear, if_false, Bool.false_eq_true]
  obtain ⟨hone, hen, hbit⟩ | ⟨hthree, hbit⟩ := hrun
  · simp [hbit, enableQueue, qState_logErr hf, qEnabled_logErr hf, hone, hen]
  · simp [hbit, qState_logErr hf, hthree]

/-- A locked write that reaches the queue and that its owner makes is recorded and does no more. -/
theorem writeReg_locked (hf : tabWf w.flds = true) (hq : q < 65536) (hr : reaches s (qDie q)) (hw : w = wakeByAccess s src (qDie q))
    (hm : mayWrite src (queueOwner w q)) (hs : qState w q ≠ 0) (hl : LockedWrite w q k v) :
    writeReg s src (qDie q) (queueOff q + k) v =
      logErr w (eventFn src (queueOwner w q)) CFG_WHILE_ENABLED (queueOff q + k) (some q) := by
  rw [writeReg_queue hq hl.word.1 hr hw hm]
  obtain rfl | rfl | rfl | rfl | rfl | ⟨rfl, hv, hmask, habort, hclear, hrun⟩ := hl
  case inr.inr.inr.inr.inr => exact writeQCtrl_locked hf hs hv hmask habort hclear hrun
  all_goals simp [hs]

/-! ## The two ways to the register -/

/-- An aligned 32-bit write through a function's window, to a place that is no doorbell and no error head, is the write of the
register there. -/
theorem registerWrite_word {fn off die o : Nat} (hp : barPlace s fn off = some (die, o)) (hd : crdbRing die o = none)
    (ha : off % 4 = 0) (hwin : isPF fn = true ∨ off < 0x30000) :
    exec (.registerWrite fn off 4 v) s = .next (writeReg s (.fn fn) die o (v % 2 ^ 32)) := by
  have hput : (!isPF fn && decide (0x30000 ≤ off)) = false := by
    obtain h | h := hwin
    · simp [h]
    · simp [Nat.not_le.mpr h]
  change Host.Outcome.next (barWrite s fn off 4 v) = _
  simp [barWrite, hp, hd, ha, hput]

/-- A write of the management controller that a die's registers take, and that the seal does not hold, succeeds. -/
theorem setupWrite_word {data : Bytes} {bare : Bool} {die o : Nat} (hans : answers s = true) (hbar : barred s bare = false)
    (hlen : data.length = 8) (hplace : fld data 0 4 = die * 2 ^ 25 + o) (hval : fld data 4 4 = v) (hdie : die < 32)
    (ho : o < 2 ^ 25) (ha : o % 4 = 0) (hfree : changesSealed s die o v = false) :
    exec (.setupWrite data bare) s = .next (reply (writeReg s .mgmt die o v) PLDM_SUCCESS) := by
  have hd : fld data 0 4 / 2 ^ 25 = die := by omega
  have hoff : fld data 0 4 % 2 ^ 25 = o := by omega
  change Host.Outcome.next (oem s data 8 _) = _
  simp [-Nat.reducePow, oem, hans, hlen, hval, hd, hoff, hbar, Nat.not_le.mpr hdie, ha, hfree]

/-- No register of a queue is a head doorbell. -/
theorem crdbRing_queue (hq : q < 65536) (o : Nat) : crdbRing (qDie q) o = none := by
  have := qDie_lt hq
  exact if_neg (by omega)

/-- The management controller's records go to the ring of function 0. -/
theorem eventFn_mgmt (o : Option Nat) : eventFn .mgmt o = 0 := by
  cases o <;> rfl

/-- The register table after the wake of an access is in its one form. -/
theorem tabWf_wakeByAccess {die : Nat} (hs : Sound s) : tabWf (wakeByAccess s src die).flds = true :=
  (keeps_at (keeps_wakeByAccess (keeps_refl (lasting := false) (calm := false) (dry := false) hs))).c_flds

end Sys2Proof.Proofs.QueueLock

namespace Sys2Proof.Proofs

open Sys2Proof.Machine Sys2Proof.Laws QueueLock

/-- Settles O57: both ways to a queue's registers end in the one register write, and there each locked write is recorded and stops. -/
theorem queueConfigLocked : Obligations.QueueConfigLocked := by
  rintro s w src q k v hs hw hq hr hm hstate (hl : LockedWrite w q k v)
  have hf : tabWf w.flds = true := hw ▸ tabWf_wakeByAccess hs
  refine ⟨writeReg_locked hf hq hr hw hm hstate hl, ?window, ?management⟩
  case window =>
    rintro fn off rfl hp ha hwin
    rw [registerWrite_word hp (crdbRing_queue hq _) ha hwin, writeReg_locked hf hq hr hw hm hstate hl.mod]
  case management =>
    rintro data bare rfl hans hbar hlen hplace hval
    obtain ⟨hk, hword⟩ := hl.word
    obtain ⟨hlo, hhi, hal⟩ := queueOff_bounds q
    have hfree : changesSealed s (qDie q) (queueOff q + k) v = false := changesSealed_queue (by omega) (by omega)
    have hdie := qDie_lt hq
    rw [setupWrite_word hans hbar hlen (hplace.trans (Nat.add_assoc _ _ _)) hval (by omega) (by omega) (by omega) hfree,
      writeReg_locked hf hq hr hw hm hstate hl, eventFn_mgmt, hw, wakeByAccess_mgmt]

end Sys2Proof.Proofs
end

section
/-! How element codes lie packed in a row, and which codes a conversion writes (R165, R167). -/

namespace Sys2Proof.Proofs.NumberFormats

open Sys2Proof Sys2Proof.Machine CompletionEntries

variable {fmt j i k n : Nat} {cs : List Nat}

/-! ## Bytes and lists -/

/-- A number laid out in `n` bytes reads back modulo `256 ^ n`. -/
theorem leNat_toLe : ∀ (n v : Nat), leNat (toLe n v) = v % 256 ^ n
  | 0, v => by simp [toLe, leNat, Nat.mod_one]
  | n + 1, v => by rw [toLe, leNat, leNat_toLe n, BitVec.toNat_ofNat, pow_succ' 256, Nat.mod_mul]

/-- One byte of a row, read as a number. -/
theorem leNat_take_one (l : Bytes) (i : Nat) : leNat ((l.drop i).take 1) = (l.getD i 0).toNat := by
  rcases Nat.lt_or_ge i l.length with hi | hi
  · rw [List.drop_eq_getElem_cons hi, List.getD_eq_getElem l 0 hi]
    rfl
  · simp [List.drop_eq_nil_of_le hi, leNat, List.getElem?_eq_none hi]

/-- An element of a piece of a list is the list's element there; both read as 0 past the end. -/
theorem getD_group {t : Nat} (ht : t < n) (a : Nat) : ((cs.drop a).take n).getD t 0 = cs.getD (a + t) 0 := by
  simp [List.getElem?_take_of_lt ht]

/-- A bound on every element also bounds the zeros past the end. -/
theorem getD_lt {b : Nat} (hc : ∀ c ∈ cs, c < b) (hb : 0 < b) (j : Nat) : cs.getD j 0 < b := by
  rcases Nat.lt_or_ge j cs.length with hj | hj
  · rw [List.getD_eq_getElem cs 0 hj]
    exact hc _ (List.getElem_mem hj)
  · rwa [List.getD_eq_default cs 0 hj]

/-! ## Packed groups -/

/-- When each chunk of `n` elements is laid out in `k` bytes, bytes `k * i` on are those of elements `n * i` on. -/
theorem flatMap_chunks_group {g : List Nat → Bytes} (hg : ∀ x, (g x).length = k) (hn : 0 < n) :
    ∀ (fuel i : Nat) (cs : List Nat), cs.length ≤ fuel → n * i < cs.length →
      (((chunks fuel n cs).flatMap g).drop (k * i)).take k = g ((cs.drop (n * i)).take n)
  | 0, i, cs, hf, hi => by omega
  | fuel + 1, i, cs, hf, hi => by
    have hne : cs.isEmpty = false := List.isEmpty_eq_false_iff.mpr (List.ne_nil_of_length_pos (by omega))
    have hcons : chunks (fuel + 1) n cs = cs.take n :: chunks fuel n (cs.drop n) := by simp [chunks, hne]
    rw [hcons, List.flatMap_cons]
    cases i with
    | zero => simp [List.take_left' (hg _)]
    | succ i =>
      have hlen : n * (i + 1) = n + n * i := by ring
      have hpast : k * (i + 1) = (g (cs.take n)).length + k * i := by rw [hg]; ring
      rw [hpast, List.drop_length_add_append, flatMap_chunks_group hg hn fuel i (cs.drop n) (by simp; omega) (by simp; omega),
        List.drop_drop, hlen]

/-- Four FP6 codes as one number of 24 bits (R165). -/
def fp6Group (g : List Nat) : Nat := g.getD 0 0 + g.getD 1 0 * 2 ^ 6 + g.getD 2 0 * 2 ^ 12 + g.getD 3 0 * 2 ^ 18

/-- Two FP4 codes as one byte (R165). -/
def fp4Group (g : List Nat) : Nat := g.getD 0 0 + g.getD 1 0 * 16

theorem packRow_fp6 (h : fmt = 0x0A ∨ fmt = 0x0B) (cs : List Nat) :
    packRow fmt cs = (chunks cs.length 4 cs).flatMap fun g => toLe 3 (fp6Group g) := by
  obtain rfl | rfl := h <;> rfl

theorem packRow_fp4 (cs : List Nat) : packRow 0x0C cs = (chunks cs.length 2 cs).flatMap fun g => toLe 1 (fp4Group g) := rfl

theorem elemCode_fp6 (h : fmt = 0x0A ∨ fmt = 0x0B) (row : Bytes) (j : Nat) :
    elemCode fmt row j = leNat ((row.drop (3 * (j / 4))).take 3) / 2 ^ (6 * (j % 4)) % 64 := by
  rw [Nat.mul_comm 3]; obtain rfl | rfl := h <;> rfl

theorem elemCode_fp4 (row : Bytes) (j : Nat) :
    elemCode 0x0C row j = (row.getD (j / 2) 0).toNat / 2 ^ (4 * (j % 2)) % 16 := by
  rw [← leNat_take_one]; rfl

/-- The 3 bytes of FP6 group `i` are its four codes, lowest first. -/
theorem leNat_packRow_fp6 (h : fmt = 0x0A ∨ fmt = 0x0B) (hc : ∀ c ∈ cs, c < 64) (hi : 4 * i < cs.length) :
    leNat (((packRow fmt cs).drop (3 * i)).take 3) = cs.getD (4 * i) 0 + cs.getD (4 * i + 1) 0 * 2 ^ 6 +
      cs.getD (4 * i + 2) 0 * 2 ^ 12 + cs.getD (4 * i + 3) 0 * 2 ^ 18 := by
  have hlt (t : Nat) : cs.getD t 0 < 64 := getD_lt hc (by decide) t
  rw [packRow_fp6 h, flatMap_chunks_group (fun _ => toLe_length 3 _) (by decide) _ i cs le_rfl hi, leNat_toLe, fp6Group,
    getD_group (by decide), getD_group (by decide), getD_group (by decide), getD_group (by decide), Nat.add_zero]
  have h0 := hlt (4 * i)
  have h1 := hlt (4 * i + 1)
  have h2 := hlt (4 * i + 2)
  have h3 := hlt (4 * i + 3)
  omega

/-- Byte `i` of an FP4 row is its two codes, the even one in the low half. -/
theorem packRow_fp4_byte (hc : ∀ c ∈ cs, c < 16) (hi : 2 * i < cs.length) :
    ((packRow 0x0C cs).getD i 0).toNat = cs.getD (2 * i) 0 + cs.getD (2 * i + 1) 0 * 16 := by
  have hbyte := flatMap_chunks_group (fun g => toLe_length 1 (fp4Group g)) (by decide) _ i cs le_rfl hi
  rw [Nat.one_mul] at hbyte
  rw [packRow_fp4, ← leNat_take_one, hbyte, leNat_toLe, fp4Group, getD_group (by decide), getD_group (by decide), Nat.add_zero]
  have h0 : cs.getD (2 * i) 0 < 16 := getD_lt hc (by decide) _
  have h1 : cs.getD (2 * i + 1) 0 < 16 := getD_lt hc (by decide) _
  omega

/-- Unpacking an FP6 row gives every element back, and zero for the padding of the last group. -/
theorem elemCode_packRow_fp6 (h : fmt = 0x0A ∨ fmt = 0x0B) (hc : ∀ c ∈ cs, c < 64) (hj : j < (cs.length + 3) / 4 * 4) :
    elemCode fmt (packRow fmt cs) j = cs.getD j 0 := by
  have hlt (t : Nat) : cs.getD t 0 < 64 := getD_lt hc (by decide) t
  rw [elemCode_fp6 h, leNat_packRow_fp6 h hc (by omega)]
  have h0 := hlt (4 * (j / 4))
  have h1 := hlt (4 * (j / 4) + 1)
  have h2 := hlt (4 * (j / 4) + 2)
  have h3 := hlt (4 * (j / 4) + 3)
  obtain ht | ht | ht | ht : j % 4 = 0 ∨ j % 4 = 1 ∨ j % 4 = 2 ∨ j % 4 = 3 := by omega
  all_goals
    conv_rhs => rw [← Nat.div_add_mod j 4]
    simp only [ht, Nat.mul_zero, Nat.add_zero, pow_zero, Nat.div_one]
    omega

/-- Unpacking an FP4 row gives every element back, and zero for the padding of the last byte. -/
theorem elemCode_packRow_fp4 (hc : ∀ c ∈ cs, c < 16) (hj : j < (cs.length + 1) / 2 * 2) :
    elemCode 0x0C (packRow 0x0C cs) j = cs.getD j 0 := by
  rw [elemCode_fp4, packRow_fp4_byte hc (by omega)]
  have h0 : cs.getD (2 * (j / 2)) 0 < 16 := getD_lt hc (by decide) _
  have h1 : cs.getD (2 * (j / 2) + 1) 0 < 16 := getD_lt hc (by decide) _
  obtain ht | ht := Nat.mod_two_eq_zero_or_one j
  all_goals
    conv_rhs => rw [← Nat.div_add_mod j 2]
    simp only [ht, Nat.mul_zero, Nat.add_zero, pow_zero, Nat.div_one]
    omega

/-- The padding code reads as +0 (R165). -/
theorem elemVal_padding (h : fmt = 0x0A ∨ fmt = 0x0B ∨ fmt = 0x0C) : ∃ x, elemVal fmt 0 = .fin false x ∧ x.n = 0 := by
  obtain rfl | rfl | rfl := h <;> exact ⟨_, rfl, rfl⟩

/-! ## The codes a conversion writes -/

variable {f : FloatFmt} {c : Nat}

/-- The sign bit of a code. -/
def signBit (f : FloatFmt) (neg : Bool) : Nat := if neg then 2 ^ (f.m + f.ebits) else 0

/-- The code of infinity: all exponent bits set, no fraction. -/
def infCode (f : FloatFmt) : Nat := (2 ^ f.ebits - 1) * 2 ^ f.m

theorem signBit_add_mod (hc : c < 2 ^ (f.m + f.ebits)) (neg : Bool) : (signBit f neg + c) % 2 ^ (f.m + f.ebits) = c := by
  cases neg <;> simp [signBit, Nat.mod_eq_of_lt hc]

theorem infCode_lt (f : FloatFmt) : infCode f < 2 ^ (f.m + f.ebits) := by
  rw [infCode, Nat.add_comm, pow_add]
  exact Nat.mul_lt_mul_of_pos_right (Nat.sub_lt (by positivity) (by decide)) (by positivity)

/-- A magnitude up to the largest finite one is no NaN, with either sign. -/
theorem floatVal_finite (hc : c ≤ f.maxCode) (hmax : f.maxCode < 2 ^ (f.m + f.ebits)) (neg : Bool) :
    floatVal f (signBit f neg + c) ≠ .nan := by
  simp [floatVal, signBit_add_mod (hc.trans_lt hmax), hc]

/-- An infinity of a format that has them is no NaN. -/
theorem floatVal_inf (hinf : f.hasInf = true) (neg : Bool) : floatVal f (signBit f neg + infCode f) ≠ .nan := by
  have hfrac : infCode f % 2 ^ f.m = 0 := Nat.mul_mod_left _ _
  simp only [floatVal, signBit_add_mod (infCode_lt f), hinf, hfrac]
  split <;> simp

/-- The last step of a rounding: a magnitude above the largest finite one is replaced by it. -/
theorem capped_code (f : FloatFmt) (sgn code : Nat) (isUnder : Bool) :
    ∃ c ≤ f.maxCode,
      (if code > f.maxCode then (⟨sgn + f.maxCode, true, false⟩ : Rounded) else ⟨sgn + code, false, isUnder⟩).code = sgn + c := by
  split
  case isTrue => exact ⟨f.maxCode, le_rfl, rfl⟩
  case isFalse hle => exact ⟨code, Nat.le_of_not_gt hle, rfl⟩

/-- Rounding answers with a sign and a finite magnitude, also when the value lay above the range (R169). -/
theorem roundFin_code (f : FloatFmt) (mode : RMode) (neg : Bool) (x : Ex) :
    ∃ c ≤ f.maxCode, (roundFin f mode neg x).code = signBit f neg + c := by
  have hsign : (if neg then 2 ^ (f.m + f.ebits) else 0) = signBit f neg := rfl
  unfold roundFin
  rw [hsign]
  split
  case isTrue => exact ⟨0, Nat.zero_le _, rfl⟩
  case isFalse => exact capped_code f _ _ _

/-- A conversion writes a finite code, an infinity the format has, or the format's NaN. -/
theorem convPlain_nan_or (hf : floatFmt fmt = some f) (hmax : f.maxCode < 2 ^ (f.m + f.ebits)) (sat : Bool) (mode : RMode) (v : Val) :
    (convPlain fmt sat mode v).1 = f.nan ∨ floatVal f (convPlain fmt sat mode v).1 ≠ .nan := by
  simp only [convPlain, hf]
  cases v with
  | nan => exact .inl rfl
  | inf neg =>
    dsimp only
    split
    case isTrue hinf => exact .inr (floatVal_inf hinf neg)
    case isFalse =>
      split
      case isTrue => exact .inr (floatVal_finite le_rfl hmax neg)
      case isFalse => exact .inl rfl
  | fin neg x =>
    obtain ⟨c, hc, hcode⟩ := roundFin_code f mode neg x
    have hround : floatVal f (roundFin f mode neg x).code ≠ .nan := hcode ▸ floatVal_finite hc hmax neg
    dsimp only
    split
    case isFalse => exact .inr hround
    case isTrue =>
      split
      case isTrue => exact .inr hround
      case isFalse =>
        split
        case isTrue hinf => exact .inr (floatVal_inf hinf neg)
        case isFalse => exact .inl rfl

/-- A NaN is converted to the format's own. -/
theorem convPlain_nan (hf : floatFmt fmt = some f) (sat : Bool) (mode : RMode) : (convPlain fmt sat mode .nan).1 = f.nan := by
  simp only [convPlain, hf]

theorem elemVal_eq_floatVal (hf : floatFmt fmt = some f) (code : Nat) : elemVal fmt code = floatVal f code := by
  simp only [elemVal, hf]

/-- The canonical NaNs of R167: the layout of each format names its own, and reads it as a NaN. -/
theorem floatFmt_canonical {nan : Nat} (h : fmt = 0x01 ∧ nan = 0x7F ∨ fmt = 0x02 ∧ nan = 0x7F ∨ fmt = 0x03 ∧ nan = 0x7FC0 ∨
      fmt = 0x04 ∧ nan = 0x7FC00000 ∨ fmt = 0x05 ∧ nan = 0x7FF8000000000000) :
    ∃ f, floatFmt fmt = some f ∧ f.nan = nan ∧ f.maxCode < 2 ^ (f.m + f.ebits) ∧ floatVal f nan = .nan := by
  obtain ⟨rfl, rfl⟩ | ⟨rfl, rfl⟩ | ⟨rfl, rfl⟩ | ⟨rfl, rfl⟩ | ⟨rfl, rfl⟩ := h
  all_goals exact ⟨_, rfl, rfl, by decide, by decide⟩

end Sys2Proof.Proofs.NumberFormats

namespace Sys2Proof.Proofs

open Sys2Proof.Machine NumberFormats

/-- Settles O59: a packed row is read group by group, and a conversion's result is finite, an infinity or the format's own NaN. -/
theorem numberFormats : Obligations.NumberFormats := by
  refine ⟨fun _ _ _ h hc hi => leNat_packRow_fp6 h hc hi, fun _ _ hc hi => packRow_fp4_byte hc hi,
    fun _ _ _ h hc hj => elemCode_packRow_fp6 h hc hj, fun _ _ hc hj => elemCode_packRow_fp4 hc hj,
    fun _ h => elemVal_padding h, ?canonical⟩
  case canonical =>
    intro fmt nan sat mode v h
    obtain ⟨f, hf, rfl, hmax, hnan⟩ := floatFmt_canonical h
    simp only [elemVal_eq_floatVal hf]
    refine ⟨(convPlain_nan_or hf hmax sat mode v).resolve_right ∘ not_not_intro, ?_⟩
    rintro rfl
    exact ⟨convPlain_nan hf sat mode, hnan⟩

end Sys2Proof.Proofs
end

section
/-! Accesses to places that hold no register, to a die in Charcoal and to a fenced die (R76, R599, R603, R634). -/

namespace Sys2Proof.Proofs.AbsentRegisters

open Sys2Proof Sys2Proof.Machine Sys2Proof.Laws QueueLock

variable {s : State} {src : Src} {b : Blk} {die o v base step count i : Nat}

/-! ## Which words hold a register -/

/-- A die is of the kind that holds the registers of a block. -/
def hasBlk (b : Blk) (die : Nat) : Bool :=
  match b with
  | .comp => isComp die
  | .fab => isFab die
  | .mem => isMem die
  | .f04 => die == 16 || die == 20
  | .all => true

/-- The register tables list a register of a block at this first offset, this distance apart and this many times. -/
def hasRow (b : Blk) (base step count : Nat) : Bool :=
  F.all.any (fun f => f.blk == b && f.off == base && f.stride == step && f.count == count)

/-- A die holds every repetition of a register of its block. -/
theorem instanceAt_place {f : Fld} (hb : hasBlk f.blk die = true) (hi : i < f.count) :
    (instanceAt f die (f.off + f.stride * i)).isSome = true := by
  unfold instanceAt
  extract_lets holds
  have hheld : holds = true := hb
  by_cases hs : f.stride = 0
  · simp [hheld, hs]
  · simp [hheld, hs, hi]

/-- A word without fields is no repetition of a listed register. -/
theorem ne_of_hasRow (hr : hasRow b base step count = true) (hb : hasBlk b die = true) (h : fieldsAt die o = []) (hi : i < count) :
    o ≠ base + step * i := by
  rintro rfl
  obtain ⟨f, hf, hrow⟩ := List.any_eq_true.mp hr
  simp only [Bool.and_eq_true, beq_iff_eq] at hrow
  obtain ⟨⟨⟨rfl, rfl⟩, rfl⟩, rfl⟩ := hrow
  obtain ⟨j, hj⟩ := Option.isSome_iff_exists.mp (instanceAt_place hb hi)
  have hnone := List.filterMap_eq_nil_iff.mp h f hf
  simp [hj] at hnone

/-- A word without fields is none of the listed registers that stand once in a block. -/
theorem not_mem_of_hasRow {ws : List Nat} (hr : ws.all (hasRow b · 0 1) = true) (hb : hasBlk b die = true)
    (h : fieldsAt die o = []) : o ∉ ws := fun ho =>
  ne_of_hasRow (List.all_eq_true.mp hr o ho) hb h Nat.one_pos (i := 0) rfl

/-- The registers of a compute die that stand once and whose write does more than store. -/
def compWords : List Nat :=
  [0x040018, 0x300004, 0x300008, 0x440004, 0x440008, 0x44000C, 0x440010, 0x60000C, 0x600010, 0x600018, 0x60001C]

/-- Such registers of a fabric die. -/
def fabWords : List Nat :=
  [0x501100, 0x501104, 0x501204, 0x501208, 0x50120C, 0x501304, 0x501404, 0x501408, 0x50140C, 0x501500]

/-- Such registers of the F0 block. -/
def f04Words : List Nat :=
  [0x000100, 0x000104, 0x000108, 0x070000, 0x070004, 0x070008, 0x07000C, 0x090000, 0x090020, 0x0A0010, 0x0C0014, 0x0E0004]

/-- Such registers of every die. -/
def allWords : List Nat := [0x700000, 0x700004, 0x700008]

/-- The registers whose read latches or measures: the tail of a stream, and the tick and the reference of the F0 block. -/
theorem latching_hasRow : hasRow .comp 0x040010 0 1 = true ∧ [0x090004, 0x090008].all (hasRow .f04 · 0 1) = true := by decide +kernel

/-- Every word of a queue's 32 bytes holds a register. -/
theorem queueWords_hasRow : ∀ j < 8, hasRow .comp (0x100000 + 4 * j) 32 4096 = true := by decide +kernel

/-- What an offset without a register is: no head doorbell, outside the ring sets of a compute die, and a word without fields, or one
of domain 3 on a die that lacks it (R97, R493, R599). -/
theorem holdsReg_false (h : holdsReg die o = false) (ha : o % 4 = 0) :
    crdbRing die o = none ∧ (isComp die = true → ¬(0x140000 ≤ o ∧ o < 0x142000)) ∧
      (fieldsAt die o = [] ∨ isMem die = false ∧ 0x640030 ≤ o ∧ o < 0x640040) := by
  have hword : o / 4 * 4 = o := by omega
  simp only [holdsReg, hword, Bool.or_eq_false_iff, Bool.and_eq_false_iff, Bool.not_eq_false', List.isEmpty_iff, Option.isSome_eq_false_iff,
    Option.isNone_iff_eq_none, Bool.and_eq_true, decide_eq_true_eq, decide_eq_false_iff_not] at h
  obtain ⟨⟨hbell, hfields⟩, hring⟩ := h
  refine ⟨hbell, fun hc hspan => ?_, hfields⟩
  simp only [hc, Bool.true_eq_false, false_or] at hring
  omega

/-! ## A write there -/

/-- A plain write stores to the fields of the word alone. -/
theorem plainWrite_absent (h : fieldsAt die o = []) : plainWrite s src die o v = s := by
  simp [plainWrite, changesSealed, h]

theorem pfOnly_plainWrite_absent (h : fieldsAt die o = []) : pfOnly s src (fun s => plainWrite s src die o v) = s := by
  cases src <;> simp [pfOnly, plainWrite_absent h]

/-- Every special write of a compute die is at a word with fields, or in the sets of the rings. -/
theorem writeComp_absent (hc : isComp die = true) (h : fieldsAt die o = []) (ha : o % 4 = 0) (hring : ¬(0x140000 ≤ o ∧ o < 0x142000)) :
    writeComp s src die o v = s := by
  have hw : o ∉ compWords := not_mem_of_hasRow (b := .comp) (by decide +kernel) hc h
  have hr {base step count i : Nat} (hrow : hasRow .comp base step count = true) (hi : i < count) : o ≠ base + step * i :=
    ne_of_hasRow hrow hc h hi
  have hqueue : ¬(0x100000 ≤ o ∧ o < 0x120000) := fun hp =>
    hr (queueWords_hasRow (o % 32 / 4) (by omega)) (i := (o - 0x100000) / 32) (by omega) (by omega)
  have htok : ¬(0x150100 ≤ o ∧ o < 0x1501C0) := fun hp =>
    hr (by decide +kernel : hasRow .comp 0x150100 4 48 = true) (i := (o - 0x150100) / 4) (by omega) (by omega)
  have hmx : ¬(0x200000 ≤ o ∧ o < 0x200400 ∧ o % 256 = 4) := fun hp =>
    hr (by decide +kernel : hasRow .comp 0x200004 256 4 = true) (i := (o - 0x200000) / 256) (by omega) (by omega)
  have hat : ¬(0x2C0000 ≤ o ∧ o < 0x2C0200 ∧ o % 256 = 4) := fun hp =>
    hr (by decide +kernel : hasRow .comp 0x2C0004 256 2 = true) (i := (o - 0x2C0000) / 256) (by omega) (by omega)
  have hsc : ¬(0x3C0000 ≤ o ∧ o < 0x3C0380 ∧ o % 64 = 0) := fun hp =>
    hr (by decide +kernel : hasRow .comp 0x3C0000 64 14 = true) (i := (o - 0x3C0000) / 64) (by omega) (by omega)
  have hclass : ¬(0x300010 ≤ o ∧ o ≤ 0x30001C) := fun hp =>
    hr (by decide +kernel : hasRow .comp 0x300010 4 4 = true) (i := (o - 0x300010) / 4) (by omega) (by omega)
  simp only [compWords, List.mem_cons, List.not_mem_nil, or_false, not_or] at hw
  obtain ⟨hstall, hbase, hcount, hwcfg, hwlo, hwhi, hwlen, hcap, hman, hfreq, hvolt⟩ := hw
  have hwin : ¬(0x440004 ≤ o ∧ o ≤ 0x440010) := by omega
  rw [writeComp, if_neg hqueue, if_neg hring, if_neg htok, if_neg hstall, if_neg hmx, if_neg hat, if_neg hsc,
    if_neg (not_or.mpr ⟨hbase, not_or.mpr ⟨hcount, hclass⟩⟩), if_neg hwin, if_neg hcap, if_neg hman, if_neg hfreq, if_neg hvolt,
    pfOnly_plainWrite_absent h]

/-- Every special write of a fabric die is at a word with fields. -/
theorem writeFabReg_absent (hf : isFab die = true) (h : fieldsAt die o = []) (ha : o % 4 = 0) : writeFabReg s src die o v = s := by
  have hw : o ∉ fabWords := not_mem_of_hasRow (b := .fab) (by decide +kernel) hf h
  have hport : ¬(0x500000 ≤ o ∧ o < 0x500600 ∧ o % 256 = 0) := fun hp =>
    ne_of_hasRow (by decide +kernel : hasRow .fab 0x500000 256 6 = true) hf h (i := (o - 0x500000) / 256) (by omega) (by omega)
  have hfloor : ¬(0x501000 ≤ o ∧ o ≤ 0x501010) := fun hp =>
    ne_of_hasRow (by decide +kernel : hasRow .fab 0x501000 4 5 = true) hf h (i := (o - 0x501000) / 4) (by omega) (by omega)
  simp only [fabWords, List.mem_cons, List.not_mem_nil, or_false, not_or] at hw
  obtain ⟨hroute, hdim, hmatch, hplo, hphi, hmod, hdies, hmlo, hmhi, hdrain⟩ := hw
  have htable : ¬((0x501204 ≤ o ∧ o ≤ 0x50120C) ∨ o = 0x501304 ∨ (0x501404 ≤ o ∧ o ≤ 0x50140C)) := by omega
  rw [writeFabReg, if_neg hport, if_neg hfloor, if_neg hroute, if_neg hdim, if_neg htable, if_neg hdrain, pfOnly_plainWrite_absent h]

/-- Every special write of the F0 block is at a word with fields, or at a head doorbell. -/
theorem write04_absent (hd : die = 16 ∨ die = 20) (h : fieldsAt die o = []) (ha : o % 4 = 0) (hbell : crdbRing die o = none) :
    write04 s src die o v = s := by
  have hb : hasBlk .f04 die = true := by simpa [hasBlk] using hd
  have hfab : isFab die = true := by obtain rfl | rfl := hd <;> rfl
  have hw : o ∉ f04Words := not_mem_of_hasRow (b := .f04) (by decide +kernel) hb h
  have hwatch : ¬(0x0A0020 ≤ o ∧ o ≤ 0x0A003C) := fun hp =>
    ne_of_hasRow (by decide +kernel : hasRow .f04 0x0A0020 4 8 = true) hb h (i := (o - 0x0A0020) / 4) (by omega) (by omega)
  have hdoor : ¬(0x1000000 ≤ o ∧ o < 0x1008000) := fun hp => by simp [crdbRing, hd, hp] at hbell
  simp only [f04Words, List.mem_cons, List.not_mem_nil, or_false, not_or] at hw
  obtain ⟨hseal, hwin, hbar, hret, hmain, hback, huv, href, hobs, hbeat, hwarm, hatb⟩ := hw
  rw [write04, if_neg hseal, if_neg hwin, if_neg hbar, if_neg hret, if_neg hmain, if_neg hback, if_neg huv, if_neg href, if_neg hobs,
    if_neg (not_or.mpr ⟨hbeat, hwatch⟩), if_neg hwarm, if_neg hatb, if_neg hdoor, writeFabReg_absent hfab h ha]

/-- The registers that every die has stand at words with fields; of a clock domain that the die lacks no write does anything. -/
theorem writeAll_absent (h : fieldsAt die o = []) : writeAll s src die o v = none ∨ writeAll s src die o v = some s := by
  have hw : o ∉ allWords := not_mem_of_hasRow (b := .all) (by decide +kernel) rfl h
  have hdom : ¬(0x640000 ≤ o ∧ o < 0x640040 ∧ o % 16 = 4) := fun hp =>
    ne_of_hasRow (by decide +kernel : hasRow .all 0x640004 16 4 = true) rfl h (i := (o - 0x640000) / 16) (by omega) (by omega)
  simp only [allWords, List.mem_cons, List.not_mem_nil, or_false, not_or] at hw
  obtain ⟨hatb, hbist, hmargin⟩ := hw
  by_cases hlack : 0x640000 ≤ o ∧ o < 0x640040 ∧ !hasDomain s die ((o - 0x640000) / 16)
  · exact .inr (if_pos hlack)
  · exact .inl (by rw [writeAll, if_neg hlack, if_neg hdom, if_neg hatb, if_neg hbist, if_neg hmargin])

/-- Domain 3 is an M die's (R493). -/
theorem hasDomain_three (hm : isMem die = false) (hlo : 0x640030 ≤ o) (hhi : o < 0x640040) :
    hasDomain s die ((o - 0x640000) / 16) = false := by
  have hthree : (o - 0x640000) / 16 = 3 := by omega
  simp [hasDomain, hthree, hm]

/-- A write to a word that holds no register, once it has reached its die, does nothing (R599). -/
theorem applyReg_absent (h : holdsReg die o = false) (ha : o % 4 = 0) : applyReg s src die o v = s := by
  obtain ⟨hbell, hring, hfields | ⟨hm, hlo, hhi⟩⟩ := holdsReg_false h ha
  case inr =>
    have hlack : 0x640000 ≤ o ∧ o < 0x640040 ∧ !hasDomain s die ((o - 0x640000) / 16) :=
      ⟨by omega, hhi, by rw [hasDomain_three hm hlo hhi]; rfl⟩
    rw [applyReg, writeAll, if_pos hlack]
  case inl =>
    unfold applyReg
    obtain hall | hall := writeAll_absent (s := s) (src := src) (v := v) hfields
    · rw [hall]
      dsimp only
      split_ifs with hc hd hf
      · exact writeComp_absent hc hfields ha (hring hc)
      · exact write04_absent hd hfields ha hbell
      · exact writeFabReg_absent hf hfields ha
      · exact pfOnly_plainWrite_absent hfields
    · rw [hall]

/-- A write to a word that holds no register leaves what its access woke (R488, R599). -/
theorem writeReg_absent (h : holdsReg die o = false) (ha : o % 4 = 0) (hr : reaches s die) :
    writeReg s src die o v = wakeByAccess s src die := by
  rw [writeReg, gate_reaches hr, applyReg_absent h ha]

/-- A write to a die in Charcoal leaves what its access woke; in Black there is no access (R483, R488, R634). -/
theorem writeReg_charcoal (hc : inCharcoal s die = true) (hf : dieFenced s die = false) :
    writeReg s src die o v = if s.supply.phase ≥ 3 then s else wakeByAccess s src die := by
  split_ifs with hp
  · exact gate_black hp
  · exact gate_charcoal (Nat.not_le.mp hp) hf hc

/-- The management controller's write to a fenced die is dropped (R603). -/
theorem writeReg_fenced_mgmt (hf : dieFenced s die = true) : writeReg s .mgmt die o v = s := by
  simp [writeReg, gate, hf]

/-! ## A read there -/

/-- A fenced die reads all ones (R603). -/
theorem readBlock_fenced (hf : dieFenced s die = true) : readBlock s src die o = (0xFFFFFFFF, s) := if_pos hf

/-- A die in Charcoal reads 0 outside its GV_ registers (R634). -/
theorem readBlock_charcoal (hc : inCharcoal s die = true) (hf : dieFenced s die = false) (ho : o < 0x600000 ∨ 0x600038 ≤ o) :
    readBlock s src die o = (0, s) := by
  have hout : (decide (0x600000 ≤ o) && decide (o < 0x600038)) = false := by
    rw [Bool.and_eq_false_iff, decide_eq_false_iff_not, decide_eq_false_iff_not]
    omega
  simp [readBlock, hf, hc, hout]

/-- A register that latches nothing reads as its value and leaves the state, where its die answers. -/
theorem readBlock_quiet (hf : dieFenced s die = false) (hc : inCharcoal s die = false ∨ 0x600000 ≤ o ∧ o < 0x600038)
    (hk : coreForced s die = false) (htail : isComp die = true → o ≠ 0x040010)
    (hclock : die = 16 ∨ die = 20 → o ≠ 0x090004 ∧ o ≠ 0x090008) : readBlock s src die o = (readReg s src die o, s) := by
  have hawake : (inCharcoal s die && !(decide (0x600000 ≤ o) && decide (o < 0x600038))) = false := by
    obtain hc | ⟨hlo, hhi⟩ := hc
    · simp [hc]
    · simp [hlo, hhi]
  rw [readBlock, hf, hawake, hk]
  simp only [Bool.false_eq_true, if_false]
  rw [if_neg fun hp => htail hp.1 hp.2, if_neg fun hp => (hclock hp.1).2 hp.2, if_neg fun hp => (hclock hp.1).1 hp.2.1]

/-- A word that holds no register reads 0 (R599). -/
theorem readReg_absent (h : holdsReg die o = false) (ha : o % 4 = 0) : readReg s src die o = 0 := by
  obtain ⟨-, -, hfields | ⟨hm, hlo, hhi⟩⟩ := holdsReg_false h ha
  · exact if_pos (.inr (by rw [hfields]; rfl))
  · have hview : viewReg s src die o = some 0 :=
      if_pos ⟨by omega, hhi, by rw [hasDomain_three hm hlo hhi]; rfl⟩
    rw [readReg, hview]
    exact ite_self 0

/-- No register that latches on a read is absent. -/
theorem readBlock_absent (h : holdsReg die o = false) (ha : o % 4 = 0) (hr : reaches s die) : readBlock s src die o = (0, s) := by
  obtain ⟨-, hf, hc, hk⟩ := hr
  obtain ⟨-, -, hfields⟩ := holdsReg_false h ha
  have hempty (ho : o < 0x640030) : fieldsAt die o = [] := hfields.resolve_right (by omega)
  rw [readBlock_quiet hf (.inl hc) hk ?tail ?clock, readReg_absent h ha]
  case tail =>
    rintro hcomp rfl
    exact ne_of_hasRow latching_hasRow.1 hcomp (hempty (by omega)) Nat.one_pos (i := 0) rfl
  case clock =>
    intro hd
    have hw := not_mem_of_hasRow (o := o) latching_hasRow.2 (by simpa [hasBlk] using hd)
    constructor <;> rintro rfl <;> exact hw (hempty (by omega)) (by decide)

/-! ## SetupRead -/

/-- The answer of the management controller to a read of a word: of a die's register what the die's block gives, of no die 0. -/
theorem setupRead_word {data : Bytes} (hans : answers s = true) (hlen : data.length = 4) (hplace : fld data 0 4 = die * 2 ^ 25 + o)
    (ho : o < 2 ^ 25) (ha : o % 4 = 0) (hread : die < 32 → readBlock s .mgmt die o = (v, s)) (hnone : 32 ≤ die → v = 0) :
    exec (.setupRead data) s = .next (emit s (.mgmt PLDM_SUCCESS (toLe 4 v))) := by
  have hd : fld data 0 4 / 2 ^ 25 = die := by omega
  have hoff : fld data 0 4 % 2 ^ 25 = o := by omega
  have hword : fld data 0 4 % 4 = 0 := by omega
  change Host.Outcome.next (oem s data 4 _) = _
  by_cases hdie : die < 32
  · simp [-Nat.reducePow, oem, hans, hlen, hword, hd, hoff, hdie, setupRead, hread hdie]
  · simp [-Nat.reducePow, oem, hans, hlen, hword, hd, hdie, hnone (Nat.not_lt.mp hdie)]

end Sys2Proof.Proofs.AbsentRegisters

namespace Sys2Proof.Proofs

open Sys2Proof.Machine Sys2Proof.Laws QueueLock AbsentRegisters

/-- Settles O58: a write whose effect is more than a store is at a word with fields, so that one elsewhere does nothing; the gate before
every write turns away what is fenced or in Charcoal, and reads ask the same two questions first. -/
theorem absentAndAsleep : Obligations.AbsentAndAsleep := by
  refine ⟨?absentWrite, ?asleepWrite, ?absentWindow, ?absentRead, ?asleepWindow, ?asleepRead, ?fencedWindow, ?fencedWrite, ?fencedRead⟩
  case absentWrite => exact fun s src die o v ha _ h hr => writeReg_absent h ha hr
  case asleepWrite => exact fun s src die o v hc hf => writeReg_charcoal hc hf
  case absentWindow =>
    intro s fn off v die o hp hoff ha _ hwin h hr
    rw [registerWrite_word hp (holdsReg_false h ha).1 hoff hwin, writeReg_absent h ha hr]
  case absentRead =>
    intro s data die o hans hlen hplace ho ha h hr
    exact setupRead_word hans hlen hplace ho ha (fun _ => readBlock_absent h ha hr) (fun _ => rfl)
  case asleepWindow =>
    intro s fn off v die o hp hoff hc hf hbell hwin
    rw [registerWrite_word hp hbell hoff hwin, writeReg_charcoal hc hf]
  case asleepRead =>
    intro s data die o hans hlen hplace ho ha hc hf
    have hcomp : die < 16 := of_decide_eq_true (Bool.and_eq_true_iff.mp hc).1
    refine ⟨fun hout => ?_, fun hlo hhi hk => ?_⟩
    · exact setupRead_word hans hlen hplace ho ha (fun _ => readBlock_charcoal hc hf hout) (by omega)
    · have hgv := readBlock_quiet (src := .mgmt) hf (.inr ⟨hlo, hhi⟩) hk (fun _ => by omega) (by omega)
      exact setupRead_word hans hlen hplace ho ha (fun _ => hgv) (by omega)
  case fencedWindow =>
    intro s fn off v die o hp hbell hoff hwin hphase hf
    rw [registerWrite_word hp hbell hoff hwin, writeReg, gate_fenced hphase hf]
  case fencedWrite => exact fun s die o v hf => writeReg_fenced_mgmt hf
  case fencedRead =>
    intro s data die o hans hlen hplace ho ha hdie hf
    exact setupRead_word hans hlen hplace ho ha (fun _ => readBlock_fenced hf) (by omega)

end Sys2Proof.Proofs
end

section
/-! What every step keeps: the invariant, the queue, fences and the seal (R13, R14, R514, R515, R520, R547, R584); what operations and dry
commands leave alone; what a step does on an empty queue. -/

namespace Sys2Proof.Proofs.StepInvariants

open Sys2Proof Sys2Proof.Machine Sys2Proof.Laws

variable {lasting calm dry : Bool} {r s t : State} {c : Instr} {rest : List Instr}

/-! ## Reading off what is kept -/

theorem kept_sound (h : Kept lasting calm dry r s) : Sound s :=
  ⟨h.c_flds, h.c_tokens, h.c_mem, h.c_hostMem, h.c_wardMem, h.c_elog, h.c_rlog, h.c_cache⟩

/-- A fence of a die is a register whose reset value is 0. -/
theorem kept_dieFenced (h : Kept true calm dry r s) {die : Nat} (hf : dieFenced r die = true) : dieFenced s die = true :=
  beq_iff_eq.mpr (h.c_fence rfl die hf)

theorem stBit_lt {st b : Nat} (h : stBit st = some b) : b < 16 := by
  unfold stBit at h
  split at h <;> simp_all <;> omega

/-- A station is fenced with its die or by its bit. -/
theorem kept_stFenced (h : Kept true calm dry r s) {die st : Nat} (hf : stFenced r die st = true) : stFenced s die st = true := by
  unfold stFenced at hf ⊢
  rw [Bool.or_eq_true] at hf ⊢
  refine hf.imp (kept_dieFenced h) fun hbit => ?_
  cases hb : stBit st with
  | none => simp [hb] at hbit
  | some b =>
    rw [hb] at hbit
    exact h.c_station rfl die b (stBit_lt hb) hbit

theorem kept_sealed (h : Kept true calm dry r s) (hf : sealed r = true) : sealed s = true :=
  beq_iff_eq.mpr (h.c_sealed rfl hf)

theorem quietAt_unmoved (h : Kept lasting true dry r s) : Unmoved r s := by
  cases h.c_quiet rfl
  constructor <;> assumption

/-! ## A step -/

theorem step_cons (hp : s.pending = c :: rest) : step s = exec c { s with pending := rest } := by
  rw [step, hp]

theorem step_nil (hp : s.pending = []) : step s = .next (idleTick s) := by
  rw [step, hp]

/-- The invariant does not speak of the queue. -/
theorem sound_withPending (h : Sound s) : Sound { s with pending := rest } :=
  ⟨h.flds, h.tokens, h.mem, h.hostMem, h.wardMem, h.elog, h.rlog, h.noticeCache⟩

/-- Every arm of `exec` is a next state. -/
theorem exec_completes (c : Instr) (s : State) : completes (exec c s) := by
  cases c <;> exact ⟨_, rfl⟩

/-- A step is kept from the state whose queue is the rest: its front command's meaning, or a tick, keeps everything. -/
theorem step_kept (hs : Sound s) (ht : step s = .next t) : ∃ rest, Kept false false false { s with pending := rest } t := by
  cases hp : s.pending with
  | nil =>
    rw [step_nil hp] at ht
    exact ⟨s.pending, Host.Outcome.next.inj ht ▸ keeps_idleTick (keeps_refl hs)⟩
  | cons c rest =>
    rw [step_cons hp] at ht
    exact ⟨rest, exec_kept c (keeps_refl (sound_withPending hs)) t ht⟩

/-- A step whose front command is not a cold reset or a loss of power keeps fences and the seal. -/
theorem step_lasting (hs : Sound s) (hcold : ∀ c r, s.pending = c :: r → isCold c = false) (ht : step s = .next t) :
    ∃ rest, Kept true false false { s with pending := rest } t := by
  cases hp : s.pending with
  | nil =>
    rw [step_nil hp] at ht
    exact ⟨s.pending, Host.Outcome.next.inj ht ▸ keeps_idleTick (keeps_refl hs)⟩
  | cons c rest =>
    rw [step_cons hp] at ht
    exact ⟨rest, exec_lasting c (hcold c rest hp) (keeps_refl (sound_withPending hs)) t ht⟩

end Sys2Proof.Proofs.StepInvariants

namespace Sys2Proof.Proofs

open Sys2Proof.Machine Sys2Proof.Laws StepInvariants

/-- Settles O46: every meaning, and the tick of an empty queue, keeps the invariant. -/
theorem soundKept : Obligations.SoundKept := by
  intro s t hs ht
  obtain ⟨_, hk⟩ := step_kept hs ht
  exact kept_sound hk

/-- Settles O47: a meaning writes the two fence registers only to set bits. -/
theorem fencesPermanent : Obligations.FencesPermanent := by
  intro s t hs hcold ht
  obtain ⟨_, hk⟩ := step_lasting hs hcold ht
  exact ⟨fun _ hf => kept_dieFenced hk hf, fun _ _ hf => kept_stFenced hk hf⟩

/-- Settles O48: no meaning but a cold one writes 0 to the seal. -/
theorem sealPermanent : Obligations.SealPermanent := by
  intro s t hs hcold ht hseal
  obtain ⟨_, hk⟩ := step_lasting hs hcold ht
  exact kept_sealed hk hseal

/-- Settles O49: each operation's meaning is calm. -/
theorem opsStayInside : Obligations.OpsStayInside :=
  fun c _ t hs hop ht => quietAt_unmoved (exec_calm c hop (keeps_refl hs) t ht)

/-- Settles O41: the queue is one of the parts that every meaning keeps. -/
theorem queueIsFifo : Obligations.QueueIsFifo := by
  refine ⟨fun c _ t hs ht => (exec_kept c (keeps_refl hs) t ht).c_pending, fun s t c r hs hp ht => ?_⟩
  rw [step_cons hp] at ht
  exact (exec_kept c (keeps_refl (sound_withPending hs)) t ht).c_pending

/-- Settles O50: the meaning of each such command leaves the memory itself. -/
theorem memoryFrame : Obligations.MemoryFrame := by
  intro c s t hs hdry ht a
  rw [(exec_dry c hdry (keeps_refl hs) t ht).c_dry rfl]

/-- Settles O45: the maps of the reset state are empty. -/
theorem soundAtReset : Obligations.SoundAtReset :=
  ⟨by decide, by decide, wf_nil, wf_nil, wf_nil, by decide, by decide, by decide⟩

/-- Settles O40: the step function's first case. -/
theorem stepRunsFront : Obligations.StepRunsFront := fun _ _ _ hp => step_cons hp

/-- Settles O42: the empty queue's step is a tick, which leaves the queue. -/
theorem idleStep : Obligations.IdleStep :=
  fun s hp => ⟨idleTick s, step_nil hp, (idleTick_pending s).trans hp, idleTick_stands s, idleTick_counts s⟩

/-- Settles O43: a step is a command's meaning or a tick. -/
theorem noCommandEnds : Obligations.NoCommandEnds := by
  refine ⟨exec_completes, fun s => ?_⟩
  unfold safeStep
  cases hp : s.pending with
  | nil => exact ⟨_, step_nil hp⟩
  | cons c rest => exact step_cons hp ▸ exec_completes c _

/-- Settles O44: nothing is listed in the register table, the tokens and the memories of the reset state, so each reads its default, which
for each of the fields named is 0. -/
theorem resetState : Obligations.ResetState :=
  ⟨rfl, fun _ _ _ => rfl, fun _ => ⟨rfl, rfl⟩, fun _ => ⟨rfl, rfl⟩, fun _ => ⟨rfl, rfl⟩, rfl, fun _ => rfl, fun _ _ => rfl, rfl, rfl, rfl⟩

end Sys2Proof.Proofs
end

section
/-! Numbers in memory (R9), bytes stored through an aperture (R42, R78), the cause of a tile (R624) and the bound of a split call
(R150, R151). -/

namespace Sys2Proof.Proofs.StoredWords

open Sys2Proof Sys2Proof.Machine Sys2Proof.Laws CompletionEntries NumberFormats

/-! ## Little-endian numbers -/

/-- Byte `i` of a number laid out low byte first. -/
theorem getD_toLe : ∀ {n i : Nat} (v : Nat), i < n → (toLe n v).getD i 0 = BitVec.ofNat 8 (v / 256 ^ i)
  | _ + 1, 0, v, _ => by simp [toLe]
  | n + 1, i + 1, v, h => by
    rw [toLe, List.getD_cons_succ, getD_toLe (v / 256) (Nat.lt_of_succ_lt_succ h), Nat.div_div_eq_div_mul, Nat.pow_succ']

/-- A byte string spells its own number. -/
theorem toLe_leNat : ∀ b : Bytes, toLe b.length (leNat b) = b
  | [] => rfl
  | x :: b => by
    have hlow : BitVec.ofNat 8 (x.toNat + 256 * leNat b) = x := by
      apply BitVec.eq_of_toNat_eq
      rw [BitVec.toNat_ofNat]
      omega
    have hhigh : (x.toNat + 256 * leNat b) / 256 = leNat b := by omega
    rw [List.length_cons, leNat, toLe, hlow, hhigh, toLe_leNat b]

/-! ## The aperture -/

variable {s : State} {fn off a : Nat} {data : Bytes}

/-- A write through an aperture to memory that is not lost. -/
theorem exec_bar4Write (ha : apertureAddr s fn off data.length = some a) (hin : inMemory s a data.length = true)
    (hlost : physLost s a = false) (hend : physLost s (a + data.length - 1) = false) :
    exec (.bar4Write fn off data) s = .next (markDirty { s with mem := writeBytes s.mem a data, lines := s.lines.filter (fun p =>
      !(decide (a ≤ 64 * p.1) && decide (64 * p.1 + 64 ≤ a + data.length))) } a data.length) := by
  change execBar4Write fn off data s = _
  simp [execBar4Write, ha, hin, hlost, hend]

/-! ## The cause of a tile -/

/-- R624: the order in which the causes are asked for. -/
theorem worstCause_eq (cs : List Nat) : worstCause cs = if 6 ∈ cs then 6 else if 1 ∈ cs then 1 else if 4 ∈ cs then 4 else
    if 3 ∈ cs then 3 else if 2 ∈ cs then 2 else if 5 ∈ cs then 5 else 0 := by
  unfold worstCause
  simp only [List.find?_cons, List.find?_nil, List.contains_eq_mem]
  split_ifs <;> simp_all

/-! ## The bound of a split call -/

/-- R150: a bound within the range is met where the slices carry it over the spread. -/
theorem le_beta {b : Nat} (s delta : Nat) (hb : b ≤ 255) (hpos : b ≠ 0) : b ≤ beta s delta ↔ b + 6 + delta ≤ 7 * s := by
  unfold beta sat
  split <;> omega

/-- R151: an automatic call takes the least number of slices from 2 that carries the bound over the spread, and no more than 8. -/
theorem slicesUsed_auto (b delta : Nat) : slicesUsed 0 b delta = min 8 (max 2 ((b + 6 + delta + 6) / 7)) := by
  have hceil : ceilDiv (b + 6 + delta) 7 = (b + 6 + delta + 6) / 7 := rfl
  rw [slicesUsed, if_neg (not_not.mpr rfl), hceil]
  dsimp only
  split_ifs <;> omega

theorem unmet_auto (b delta : Nat) : unmet 0 b delta = decide (8 < (b + 6 + delta + 6) / 7) := rfl

end Sys2Proof.Proofs.StoredWords

namespace Sys2Proof.Proofs

open Sys2Proof.Machine Sys2Proof.Laws CompletionEntries NumberFormats StoredWords

/-- Settles O52: byte `i` is the number over 256^i, and the memory gives back what was stored. -/
theorem littleEndian : Obligations.LittleEndian := by
  have value (n v : Nat) : leNat (toLe n v) = v % 2 ^ (8 * n) := by rw [leNat_toLe, Nat.pow_mul]
  refine ⟨fun n v => ⟨toLe_length n v, value n v, fun i hi => ?_⟩, toLe_leNat, fun m a n v hm => ?_⟩
  · rw [getD_toLe v hi, BitVec.toNat_ofNat, bits, Nat.pow_mul]
  · have hread := readBytes_writeBytes (a := a) (bs := toLe n v) hm
    rw [toLe_length] at hread
    rw [hread, value]

/-- Settles O5: the bytes stored are the ones read back, the others are left, and the command keeps the invariant as every command does. -/
theorem apertureReadBack : Obligations.ApertureReadBack := by
  intro s t fn off a data hs ht ha hin hlost hend
  have hsound : Sound t := StepInvariants.kept_sound (exec_kept _ (keeps_refl hs) t ht)
  rw [exec_bar4Write ha hin hlost hend] at ht
  have hmem : t.mem = writeBytes s.mem a data := by
    rw [← Host.Outcome.next.inj ht]; rfl
  rw [hmem]
  exact ⟨readBytes_writeBytes hs.mem, hsound, fun b hb => readByte_writeBytes_other hs.mem hb⟩

/-- Settles O55: the order asks only which causes are among the lines'. -/
theorem poisonOrder : Obligations.PoisonOrder := by
  refine ⟨fun cs _ => ⟨?first, ?second, ?third, ?fourth, ?fifth, ?last⟩, fun cs ds h => ?sameCauses, rfl, rfl, rfl, rfl, rfl, rfl⟩
  case first => intro h6; simp [worstCause_eq, h6]
  case second => intro h6 h1; simp [worstCause_eq, h6, h1]
  case third => intro h6 h1 h4; simp [worstCause_eq, h6, h1, h4]
  case fourth => intro h6 h1 h4 h3; simp [worstCause_eq, h6, h1, h4, h3]
  case fifth => intro h6 h1 h4 h3 h2; simp [worstCause_eq, h6, h1, h4, h3, h2]
  case last =>
    intro hne h5
    have hmem (c : Nat) : c ∈ cs ↔ c = 5 := by
      refine ⟨h5 c, ?_⟩
      rintro rfl
      obtain ⟨x, hx⟩ := List.exists_mem_of_ne_nil cs hne
      exact h5 x hx ▸ hx
    simp [worstCause_eq, hmem]
  case sameCauses => simp only [worstCause_eq, h]

/-- Settles O60: the bound is linear in the slices, so that the least number that meets it is a quotient rounded up. -/
theorem splitBound : Obligations.SplitBound := by
  refine ⟨fun s delta => ?clamped, fun b delta hb => ?auto, fun s b delta hs => ?fixed⟩
  case clamped =>
    unfold beta sat
    split <;> omega
  case auto =>
    rw [slicesUsed_auto, unmet_auto, decide_eq_true_eq, decide_eq_false_iff_not]
    refine ⟨by omega, by omega, fun hmet => ?_, fun hunmet => by omega, fun hpos => ⟨fun s hs hless => ?_, fun hunmet => ?_⟩⟩
    · rcases Nat.eq_zero_or_pos b with rfl | hpos
      · exact Nat.zero_le _
      · rw [le_beta _ _ hb (by omega)]
        omega
    · rw [← Nat.not_le, le_beta _ _ hb hpos]
      omega
    · rw [← Nat.not_le, le_beta _ _ hb hpos]
      omega
  case fixed => exact ⟨if_pos hs, by simp [unmet, hs]⟩

end Sys2Proof.Proofs
end

section
/-! A transaction leaves by a port only against its credits (R388, R389, R392). -/

namespace Sys2Proof.Proofs.CreditPorts

open Sys2Proof Sys2Proof.Machine Sys2Proof.Laws

variable {s : State} {w : Waiting}

/-- The credits of a port are no matter of what waits. -/
theorem portTakes_waits (s : State) (ws : List Waiting) (port : Option Nat) (t : Tx) (p : Nat) :
    portTakes { s with waits := ws } port t p = portTakes s port t p := rfl

theorem waitPorts_waits (s : State) (ws : List Waiting) (w : Waiting) : waitPorts { s with waits := ws } w = waitPorts s w := rfl

theorem portActive_of_portTakes {port : Option Nat} {t : Tx} {p : Nat} (h : portTakes s port t p = true) : portActive s p = true := by
  simp only [portTakes, portOpen, Bool.and_eq_true] at h
  obtain ⟨⟨⟨⟨hup, -⟩, -⟩, -⟩, -⟩ := h
  exact hup

theorem nearPorts_nil (c : Nat) : nearPorts c [] = [] := by
  simp [nearPorts]

/-- Where no port takes it, a transaction has none to leave by. -/
theorem leavePort_none {older : List Waiting} (h : ∀ p ∈ waitPorts s w, portTakes s w.port w.tx p = false) :
    leavePort s older w = none := by
  have hnone : (waitPorts s w).filter (fun p => portTakes s w.port w.tx p && !mustFollow s w p older) = [] :=
    List.filter_eq_nil_iff.mpr fun p hp => by simp [h p hp]
  rw [leavePort, hnone, nearPorts_nil]
  rfl

/-- Alone, and with no port that takes it, a transaction goes on waiting. -/
theorem retryWaits_alone (h : ∀ p ∈ waitPorts s w, portTakes s w.port w.tx p = false) :
    retryWaits { s with waits := [w] } = { s with waits := [w] } := by
  have hstay : leaving { s with waits := [w] } [] [w] = [] := by
    rw [leaving, leavePort_none (by simpa only [waitPorts_waits, portTakes_waits] using h), leaving]
  rw [retryWaits, List.length_singleton, sendWaits, hstay]

/-- Alone, and with no port that takes it, a transaction waits, and at most the count of held transactions moves. -/
theorem queueTx_alone (hw : s.waits = []) (h : ∀ p ∈ waitPorts s w, portTakes s w.port w.tx p = false) :
    (queueTx s w).waits = [w] ∧ (queueTx s w).ports = s.ports ∧ (queueTx s w).out = s.out := by
  rw [queueTx, hw, List.nil_append, retryWaits_alone h]
  dsimp only
  split <;> exact ⟨rfl, rfl, rfl⟩

end Sys2Proof.Proofs.CreditPorts

namespace Sys2Proof.Proofs

open Sys2Proof.Machine Sys2Proof.Laws CreditPorts

/-- Settles O19: the transaction is queued at the port's die; with nothing before it, only a port that takes it lets it go. -/
theorem creditLimits : Obligations.CreditLimits := by
  refine ⟨fun s q t hup htype hgood hgroup hself hvalid => ?_, fun s w hw h => queueTx_alone hw h, fun s w hw hgone => ?_⟩
  · change execWrite (some q) t s = _
    simp [execWrite, arrive, recvTx, routeTx, hup, htype, hgood, hgroup, hself, hvalid]
  · by_contra hnone
    push Not at hnone
    have hshut : ∀ p ∈ waitPorts s w, portTakes s w.port w.tx p = false := fun p hp =>
      Bool.eq_false_iff.mpr fun ht => hnone p hp (portActive_of_portTakes ht) ht
    rw [(queueTx_alone hw hshut).1] at hgone
    exact List.cons_ne_nil _ _ hgone

end Sys2Proof.Proofs
end

section
/-! Register writes that do not reach their die (R76, R77, R483, R488, R603, R634). -/

namespace Sys2Proof.Proofs.WriteGate

open Sys2Proof Sys2Proof.Machine Sys2Proof.Laws

variable {s : State} {src : Src} {die off v : Nat} {k : State → State} {P : Prop} {b : Bool}

/-- Where a command is a register write, its outcome is that of the gate before a physical function's write. -/
def Gated (s : State) (w : Option (Src × Nat × Nat × Nat)) (o : Host.Outcome State Fault Refusal) : Prop :=
  ∀ src die off v, w = some (src, die, off, v) → ∃ k, o = .next (pfWrite s src die off v k)

theorem gated_none {o : Host.Outcome State Fault Refusal} : Gated s none o := fun _ _ _ _ h => nomatch h

theorem gated_some : Gated s (some (src, die, off, v)) (.next (pfWrite s src die off v k)) := by
  rintro _ _ _ _ ⟨⟩
  exact ⟨k, rfl⟩

theorem gated_if [Decidable P] : Gated s (if P then some (src, die, off, v) else none)
    (.next (if P then pfWrite s src die off v k else s)) := by
  split
  · exact gated_some
  · exact gated_none

theorem gated_unless [Decidable P] : Gated s (if P then none else some (src, die, off, v))
    (.next (if P then s else pfWrite s src die off v k)) := by
  split
  · exact gated_none
  · exact gated_some

theorem gated_ifNot : Gated s (if b then some (src, die, off, v) else none) (.next (if !b then s else pfWrite s src die off v k)) := by
  cases b
  · exact gated_none
  · exact gated_some

/-- Every command that is a register write goes through the gate. (A constructor's name alone may be a word of Lean: the cases are named
under `command`.) -/
theorem exec_writeOf (s : State) (c : Instr) : Gated s (writeOf s c) (exec c s) := by
  refine ?command
  cases c
  case command.seal | budgetWrite | pwrUvWrite | pwrReturnPermit | refSelectWrite | clkObsEnable | mgtResetWarm | atbSelect | atbRoute |
    bistStart => exact gated_some
  case mxCntClear | atCntClear | queScClear | portEnable | routeCopy | routeSwap | drainGo | drainRelease => exact gated_if
  case portDisable | domainSwitch | marginStart => exact gated_unless
  case gvManualSet | gvFreqWrite | gvVoltWrite => exact gated_ifNot
  all_goals exact gated_none

end Sys2Proof.Proofs.WriteGate

namespace Sys2Proof.Proofs

open Sys2Proof.Machine Sys2Proof.Laws WriteGate

/-- Settles O51: every such command asks the gate first, and the gate turns the write away before its effect. -/
theorem writesTurnedAway : Obligations.WritesTurnedAway := by
  intro c s src die off v hw
  obtain ⟨k, hk⟩ := exec_writeOf s c src die off v hw
  rw [hk]
  refine ⟨fun f hsrc hvf => ?virtual, fun hblack => ?black, fun hpf hpower => ⟨fun hf => ?fenced, fun hf hc => ?charcoal, ?forced⟩⟩
  case virtual => rw [pfWrite_vf (hsrc ▸ hvf)]
  case black =>
    cases hp : isPfSrc src with
    | false => rw [pfWrite_vf hp]
    | true => rw [pfWrite_pf hp, gate_black hblack]
  case fenced =>
    rw [pfWrite_pf hpf]
    refine ⟨fun f hsrc => ?_, fun hsrc => ?_⟩
    · rw [hsrc, gate_fenced hpower hf]
    · simp [hsrc, gate, hf]
  case charcoal => rw [pfWrite_pf hpf, gate_charcoal hpower hf hc]
  case forced =>
    intro hf hc hforced
    rw [pfWrite_pf hpf, gate_forced hpower hf hc hforced]

end Sys2Proof.Proofs
end

section
/-! The commands of a queue (R80, R81, R101, R103, R104). -/

namespace Sys2Proof.Proofs.QueueCommands

open Sys2Proof Sys2Proof.Machine Sys2Proof.Laws QueueLock

variable {s w t : State} {src : Src} {q v m low : Nat}

/-! ## The word of QUE_Q_CTRL -/

theorem ctrl_mask (hm : m < 65536) (hl : low < 65536) : bits (m * 65536 + low) 16 16 = m := by
  unfold bits
  omega

theorem ctrl_bits (m low : Nat) : bit (m * 65536 + low) 0 = bit low 0 ∧ bit (m * 65536 + low) 1 = bit low 1 ∧
    bit (m * 65536 + low) 2 = bit low 2 := by
  have h0 : (m * 65536 + low) / 2 ^ 0 % 2 = low / 2 ^ 0 % 2 := by omega
  have h1 : (m * 65536 + low) / 2 ^ 1 % 2 = low / 2 ^ 1 % 2 := by omega
  have h2 : (m * 65536 + low) / 2 ^ 2 % 2 = low / 2 ^ 2 % 2 := by omega
  exact ⟨congrArg (· == 1) h0, congrArg (· == 1) h1, congrArg (· == 1) h2⟩

/-! ## The access -/

theorem qCtrlAccess_may (hr : reaches s (qDie q)) (hw : w = wakeByAccess s src (qDie q)) (hm : mayWrite src (queueOwner w q)) :
    qCtrlAccess s src q v = writeQCtrl w src q v := by
  rw [qCtrlAccess, gate_reaches hr, ← hw, ownedWrite_may hm]

theorem qCtrlAccess_other {f o : Nat} (hr : reaches s (qDie q)) (hw : w = wakeByAccess s (.fn f) (qDie q)) (hpf : isPF f = true)
    (ho : queueOwner w q = some o) (hne : o ≠ f) :
    qCtrlAccess s (.fn f) q v = logErr w f NOT_OWNED (queueOff q + 0x0C) (some q) := by
  rw [qCtrlAccess, gate_reaches hr, ← hw, ho, ownedWrite_other hne hpf]

/-- A wake leaves OPC_MASK of a queue. -/
theorem keepMask_wakeByAccess (hs : Sound s) (die : Nat) : keepMask (wakeByAccess s src die) q = keepMask s q :=
  congrArg (· * 65536) (getF_wakeByAccess hs.flds (by decide))

/-- OPC_MASK is no part of the state of a queue. -/
theorem qState_setMask (h : tabWf w.flds = true) : qState (setF w F.QUE_Q_CTRL_OPC_MASK (qDie q) (qLoc q) v) q = qState w q :=
  getF_setF_other h _ _ _ _ _ _ _ (by decide) (by decide) (by decide) (by decide) (by decide)

/-! ## The write -/

/-- The enable of a stopped queue with a new mask. -/
theorem writeQCtrl_enable (hm : m < 65536) (hstate : qState w q = 0) :
    writeQCtrl w src q (m * 65536 + 1) = enableQueue (setF w F.QUE_Q_CTRL_OPC_MASK (qDie q) (qLoc q) m) q := by
  obtain ⟨h0, h1, h2⟩ := ctrl_bits m 1
  rw [writeQCtrl, ctrl_mask hm (by decide), h0, h1, h2]
  simp only [hstate, if_true]
  rfl

/-- What the low bits of a write that keeps OPC_MASK ask of a queue that is not stopped. -/
def ctrlEffect (w : State) (q low : Nat) : State :=
  let t := if bit low 1 then abortQueue w q ABORTED_BY_HOST else if bit low 0 then enableQueue w q
    else if qState w q = 1 ∨ (qState w q = 2 ∧ !bit low 2) then disableQueue w q else w
  if bit low 2 then clearQueueErr t q else t

theorem writeQCtrl_kept (hm : getF w F.QUE_Q_CTRL_OPC_MASK (qDie q) (qLoc q) < 65536) (hstate : qState w q ≠ 0) (hl : low < 65536) :
    writeQCtrl w src q (keepMask w q + low) = ctrlEffect w q low := by
  obtain ⟨h0, h1, h2⟩ := ctrl_bits (getF w F.QUE_Q_CTRL_OPC_MASK (qDie q) (qLoc q)) low
  rw [keepMask, writeQCtrl, ctrl_mask hm hl, h0, h1, h2]
  simp only [hstate, if_true, if_false, ctrlEffect]

/-- R81: an enable that passes every check. -/
theorem enableQueue_passes (hstate : qState t q = 0) (hpass : enableFail t q = none) : enableQueue t q =
    setQEnable (setQState (setF (setQInt (setF (setF t F.QUE_Q_HEAD_FETCH_HEAD (qDie q) (qLoc q) 0)
      F.QUE_Q_HEAD_TAIL (qDie q) (qLoc q) 0) q QInt.reset) F.QUE_Q_STATUS_ERR (qDie q) (qLoc q) 0) q 1) q 1 := by
  simp only [enableQueue, hstate, hpass, ne_eq, not_true_eq_false, if_false]

/-- R81: an enable that fails a check. -/
theorem enableQueue_fails {k : Nat} (hstate : qState t q = 0) (hfail : enableFail t q = some k) : enableQueue t q =
    logErr (setF (setQEnable t q 0) F.QUE_Q_STATUS_ERR (qDie q) (qLoc q) 3) ((queueOwner t q).getD 0) ENABLE_REFUSED k (some q) := by
  simp only [enableQueue, hstate, hfail, ne_eq, not_true_eq_false, if_false]

/-- R81: enables of a stopped queue. -/
theorem queueEnable : Claims.QueueEnable := by
  intro s w t src q mask hr hw hm hmask hs hstate ht
  have hflds : tabWf w.flds = true := hw ▸ tabWf_wakeByAccess hs
  have hexec : exec (.queueEnable src q mask) s = .next (enableQueue t q) := by
    change Host.Outcome.next (qCtrlAccess s src q (mask * 65536 + 1)) = _
    rw [qCtrlAccess_may hr hw hm, writeQCtrl_enable hmask hstate, ht]
  have hstopped : qState t q = 0 := by rw [ht, qState_setMask hflds, hstate]
  rw [hexec]
  exact ⟨fun hpass => by rw [enableQueue_passes hstopped hpass], fun k hfail => by rw [enableQueue_fails hstopped hfail]⟩

/-- R101, R103, R104: the other commands of a queue, of its owner and of another function, and the two ends. -/
theorem queueControl : Claims.QueueControl := by
  refine ⟨?owner, ?drained, ?aborted, ?other⟩
  case owner =>
    intro s w src q hr hw hm hs hmask hstate
    have hkeep : keepMask s q = keepMask w q := by rw [hw, keepMask_wakeByAccess hs]
    have hwrite (low : Nat) (hl : low < 65536) : qCtrlAccess s src q (keepMask s q + low) = ctrlEffect w q low := by
      rw [qCtrlAccess_may hr hw hm, hkeep, writeQCtrl_kept hmask hstate hl]
    refine ⟨fun hrun => ?disable, ?abort, fun herr => ?clear⟩
    case disable =>
      have hzero := hwrite 0 (by decide)
      rw [Nat.add_zero, hkeep] at hzero
      change Host.Outcome.next (qCtrlAccess s src q (keepMask w q)) = _
      rw [hzero]
      simp [ctrlEffect, bit, hrun]
    case abort =>
      change Host.Outcome.next (qCtrlAccess s src q (keepMask s q + 2)) = _
      rw [hwrite 2 (by decide)]
      rfl
    case clear =>
      change Host.Outcome.next (qCtrlAccess s src q (keepMask s q + 4)) = _
      rw [hwrite 4 (by decide)]
      simp [ctrlEffect, bit, herr]
  case drained =>
    intro s q hdrain hidle
    refine ⟨fun hrun => ?_, fun herr => ?_⟩
    all_goals change execQueueDrained q s = _
    · simp [execQueueDrained, hdrain, hidle, hrun]
    · simp [execQueueDrained, hdrain, hidle, herr]
  case aborted =>
    intro s q hstate
    refine ⟨fun hidle => ?_, fun hidle => ?_⟩
    all_goals
      change execQueueAbortDone q s = _
      simp [execQueueAbortDone, hstate, hidle]
  case other =>
    intro s w f o q mask hr hw hpf ho hne
    have hlog (v : Nat) := qCtrlAccess_other (v := v) hr hw hpf ho hne
    exact ⟨congrArg _ (hlog _), congrArg _ (hlog _), congrArg _ (hlog _)⟩

end Sys2Proof.Proofs.QueueCommands

namespace Sys2Proof.Proofs

open QueueCommands

/-- Settles O1: each command is one word written to QUE_Q_CTRL, behind the gate of its die and its owner. -/
theorem queues : Obligations.Queues := ⟨queueEnable, queueControl⟩

end Sys2Proof.Proofs
end

section
/-! The commands of a completion ring (R97-R99, R632) and the tail doorbell (R87, R88, R486, R488). -/

namespace Sys2Proof.Proofs.RingCommands

open Sys2Proof Sys2Proof.Machine Sys2Proof.Laws

variable {s w : State} {src : Src} {r v : Nat}

/-! ## The configuration -/

theorem ringCfgAccess_may (hr : reaches s (r / 256)) (hw : w = wakeByAccess s src (r / 256)) (hm : mayWrite src (ringOwner w r)) :
    ringCfgAccess s src r v = writeRingCfg w src r v := by
  rw [ringCfgAccess, gate_reaches hr, ← hw, ownedWrite_may hm]

theorem bit_setEnable (cfg : Nat) : bit (setBits cfg 6 1 1) 6 = true := by
  have h : setBits cfg 6 1 1 / 2 ^ 6 % 2 = 1 := by unfold setBits bits; omega
  exact beq_iff_eq.mpr h

theorem bit_clearEnable (cfg : Nat) : bit (setBits cfg 6 1 0) 6 = false := by
  have h : setBits cfg 6 1 0 / 2 ^ 6 % 2 = 0 := by unfold setBits bits; omega
  exact beq_eq_false_iff_ne.mpr (by omega)

/-- R97, R98, R632: what a write of a ring's configuration does. -/
theorem ringConfig : Claims.RingConfig := by
  intro s w t src r cfg hr hw hm
  have henable : exec (.crEnable src r cfg) s = .next (writeRingCfg w src r (setBits cfg 6 1 1)) :=
    congrArg _ (ringCfgAccess_may hr hw hm)
  have hdisable : exec (.crDisable src r cfg) s = .next (writeRingCfg w src r (setBits cfg 6 1 0)) :=
    congrArg _ (ringCfgAccess_may hr hw hm)
  rw [henable, hdisable]
  refine ⟨fun hoff ht hpass => ?enabled, fun hunused hheld => ?disabled, fun hon => ?already, fun hon hused => ?used⟩
  case enabled =>
    rw [ht] at hpass
    simp [writeRingCfg, hoff, bit_setEnable, hpass, ht]
  case disabled => simp [writeRingCfg, bit_clearEnable, hunused, hheld]
  case already => simp [writeRingCfg, hon, bit_setEnable]
  case used => simp [writeRingCfg, hon, bit_clearEnable, hused]

/-! ## Posting -/

/-- A head doorbell of 8 bytes by the owner. -/
theorem crHeadDoorbell_may {f value : Nat} (hr : reaches s (die04 s)) (hm : mayWrite (.fn f) (ringOwner s r)) :
    exec (.crHeadDoorbell (.fn f) r 8 value) s = .next (headDoorbell s (.fn f) r value) := by
  change execCrHeadDoorbell (.fn f) r 8 value s = _
  rw [execCrHeadDoorbell, gate_awake hr (wakeByAccess_notComp isComp_die04), if_neg (by simp), ownedWrite_may hm]

/-- R98, R99: held completions, the moderation timer and head doorbells. -/
theorem ringPosting : Claims.RingPosting := by
  refine ⟨fun s r c rest hheld hroom => ?room, fun s r hfull => ?full, fun _ _ => rfl, fun s f r value hr hm => ?head⟩
  case room =>
    change execPostHeldCompletion r s = _
    simp [execPostHeldCompletion, hheld, hroom]
  case full =>
    change execPostHeldCompletion r s = _
    rw [execPostHeldCompletion]
    split
    · rfl
    · rw [if_pos hfull]
  case head =>
    rw [crHeadDoorbell_may hr hm]
    refine ⟨fun hout => ?_, fun hin harm => ?_⟩
    · rw [headDoorbell, if_pos hout]
    · rw [headDoorbell, if_neg (Nat.not_lt.mpr hin), harm]
      rfl

/-! ## The tail doorbell -/

variable {f off size value q : Nat}

/-- A doorbell that names a queue, after the wake that it is for its die. -/
theorem exec_doorbell (hq : doorbellQueue s f off = some q) (hw : w = wakeFrom s 7 (qDie q)) :
    exec (.doorbell f off size value) s = .next (if powerOf w (qDie q) ≥ 2 ∧ !dieFenced w (qDie q) then
      { w with held := w.held ++ [.bell (qDie q) f off size value] } else applyDoorbell w f off size value) := by
  change execDoorbell f off size value s = _
  simp [execDoorbell, hq, hw]

/-- A doorbell of the right form goes by the owner of its queue, for an unowned queue under the name of function 0. -/
theorem applyDoorbell_owned {g : Nat} (hq : doorbellQueue w f off = some q) (hoff : off % 8 = 0)
    (hg : queueOwner w q = some f ∧ g = f ∨ queueOwner w q = none ∧ g = 0) :
    applyDoorbell w f off 8 value = ringQueue w g q (value % 65536) := by
  obtain ⟨ho, rfl⟩ | ⟨ho, rfl⟩ := hg
  all_goals simp [applyDoorbell, hoff, hq, ho]

end Sys2Proof.Proofs.RingCommands

namespace Sys2Proof.Proofs

open Sys2Proof.Machine Sys2Proof.Laws RingCommands

/-- Settles O2: a configuration write is one word behind the gates; posting and head doorbells ask for room and range. -/
theorem completionRings : Obligations.CompletionRings := ⟨ringConfig, ringPosting⟩

/-- Settles O3: the doorbell is held or applied by the die's power; applied, it passes its form, its owner, the queue's state and its
range in turn. -/
theorem doorbell : Obligations.Doorbell := by
  intro s w f off size value q hs hq hw
  have hwq : doorbellQueue w f off = some q := by rw [hw, doorbellQueue_wakeFrom hs.flds, hq]
  rw [exec_doorbell hq hw]
  refine ⟨fun hf hasleep => ?held, fun hawake => ?_⟩
  case held => rw [if_pos ⟨hasleep, by rw [hf]; rfl⟩]
  rw [if_neg fun h => Nat.not_le.mpr hawake h.1]
  refine ⟨fun hform => ?form, ?wellFormed⟩
  case form => rw [applyDoorbell, if_pos hform]
  case wellFormed =>
    rintro rfl hoff
    refine ⟨fun o ho hne => ?other, fun g hg => ?_⟩
    case other => simp [applyDoorbell, hoff, hwq, ho, hne]
    rw [applyDoorbell_owned hwq hoff hg]
    refine ⟨fun hstate => ?stopped, fun hstate hlane hf hnew => ⟨fun hin => ?inside, fun hout => ?outside⟩⟩
    case stopped => rw [ringQueue, if_pos (.inl hstate)]
    all_goals
      have hruns : ¬ (qState w q ≠ 1 ∨ isLane w q = true ∨ dieFenced w (qDie q) = true) := by simp [hstate, hlane, hf]
      rw [ringQueue, if_neg hruns, if_neg hnew]
    case inside => rw [if_neg (Nat.not_lt.mpr hin)]
    case outside => rw [if_pos hout]

end Sys2Proof.Proofs
end

section
/-! A descriptor from its fetch to its retirement (R70-R72, R84, R89, R91, R477). -/

namespace Sys2Proof.Proofs.DescriptorPath

open Sys2Proof Sys2Proof.Machine Sys2Proof.Laws

variable {s t : State} {die k : Nat}

/-! ## Dispatch -/

/-- A dispatch at a die that serves, with a descriptor that is ready and a sequencer that has room. -/
theorem exec_dispatch (hserves : dieServes s die = true) (hready : s.descs.filter (isReady s die) ≠ [])
    (hseqr : pickSeqr s die = some k) : exec (.dispatch die) s =
      .next (match oldest ((s.descs.filter (isReady s die)).filter (fun d => hGlobal d.image)) with
        | some d => giveTo s d k
        | none =>
          match chooseReady s die (s.descs.filter (isReady s die)) with
          | none => s
          | some (d, t) => if fits s die (hClass d.image) then giveTo t d k else addF t F.GV_CNT_HOLD_HOLD die 0 1) := by
  have hgo : ¬ ((!dieServes s die) = true ∨ (s.descs.filter (isReady s die)).isEmpty = true) := by
    simpa [hserves] using hready
  change execDispatch die s = _
  rw [execDispatch]
  dsimp only
  rw [if_neg hgo, hseqr] <;> rfl

/-- R70, R71, R89, R91, R477: fetch, admission, dispatch, and the two waits. -/
theorem fetchToDispatch : Claims.FetchToDispatch := by
  refine ⟨?fetch, ?noRoom, ?takesFront, ?noneTaken, ?global, ?chosen, ?resources, ?push, ?overflow⟩
  case fetch =>
    intro s q data b hstate hen hlane hserves hnew hplaces hroom
    have hgo : qState s q = 1 ∧ qEnabled s q = true ∧ (!isLane s q) = true ∧ dieServes s (qDie q) = true ∧ qFetch s q ≠ qTail s q ∧
        (queueDescs s q).length + (getQInt s q).fetched.length ≤ getF s F.QUE_Q_CFG_OUTST_M1 (qDie q) (qLoc q) ∧
        dieRoom s (qDie q) (qPrio s q) = true := ⟨hstate, hen, by simp [hlane], hserves, hnew, hplaces, hroom⟩
    refine ⟨fun hdata => ?_, fun hdata => ?_⟩
    all_goals
      change execDescriptorFetch q data s = _
      rw [execDescriptorFetch]
      dsimp only
      rw [if_pos hgo, hdata]
  case noRoom =>
    intro s q data hroom
    change execDescriptorFetch q data s = _
    simp [execDescriptorFetch, hroom]
  case takesFront =>
    intro s t die q floor hserves hadmits hpick
    change execAdmission die s = _
    simp [execAdmission, hserves, hadmits, hpick]
  case noneTaken =>
    intro s die hadmits
    change execAdmission die s = _
    simp [execAdmission, hadmits]
  case global =>
    intro s die k d hserves hready hseqr hold
    rw [exec_dispatch hserves hready hseqr, hold]
  case chosen =>
    intro s t die k d hserves hready hseqr hold hchosen
    rw [exec_dispatch hserves hready hseqr, hold, hchosen]
    exact ⟨fun hfits => by simp only [hfits, if_true], fun hfits => by simp only [hfits, Bool.false_eq_true, if_false]⟩
  case resources =>
    intro s q tag d hd hwait
    refine ⟨fun hstream => ?_, fun hstream => ?_⟩
    all_goals
      change execResourceWaitEnd q tag s = _
      simp [execResourceWaitEnd, hd, hwait, hstream]
  case push =>
    intro s die st hover
    refine ⟨fun d hold => ?_, fun hold => ?_⟩
    all_goals
      change execStationFifoRoom die st s = _
      simp [execStationFifoRoom, hover, hold]
  case overflow =>
    intro s die st m r hover
    refine ⟨fun hroom => ?_, fun hfull => ?_⟩
    all_goals
      change execStationFifoRoom die st s = _
      rw [execStationFifoRoom, hover]
      dsimp only
    · rw [if_pos hroom]
    · rw [if_neg (Nat.not_lt.mpr hfull)]

/-- R72, R84: NOP, and the head of a station. -/
theorem nopAndRetire : Claims.NopAndRetire := by
  refine ⟨fun s q tag d hd => ?_, fun s die st hcomp hst => ?_⟩
  · change execNop q tag s = _
    rw [execNop, hd]
  · change execMicroCommandRetire die st s = _
    rw [execMicroCommandRetire, hcomp, hst]
    rfl

end Sys2Proof.Proofs.DescriptorPath

namespace Sys2Proof.Proofs

open DescriptorPath

/-- Settles O4: each meaning asks the conditions that the clause names, in that order. -/
theorem dispatchAndRetire : Obligations.DispatchAndRetire := ⟨fetchToDispatch, nopAndRetire⟩

end Sys2Proof.Proofs
end

section
/-! What a host does through its windows, and its link (R14, R66, R75-R78, R104, R508, R548, R598, R600). -/

namespace Sys2Proof.Proofs.HostWindows

open Sys2Proof Sys2Proof.Machine Sys2Proof.Laws QueueLock StoredWords

variable {s : State} {fn off v : Nat}

/-- R75, R78: accesses through the aperture. -/
theorem aperture : Claims.Aperture := by
  intro s fn off
  refine ⟨fun len a ha hin hlost hend => ?read, fun len a ha hin => ?readOut, fun len ha => ?readNone,
    fun data a ha hin hlost hend => exec_bar4Write ha hin hlost hend, fun data a ha hin => ?writeOut, fun data ha => ?writeNone⟩
  case read =>
    change execBar4Read fn off len s = _
    simp [execBar4Read, ha, hin, hlost, hend]
  case readOut =>
    change execBar4Read fn off len s = _
    simp [execBar4Read, ha, hin]
  case readNone =>
    change execBar4Read fn off len s = _
    rw [execBar4Read, ha]
  case writeOut =>
    change execBar4Write fn off data s = _
    simp [execBar4Write, ha, hin]
  case writeNone =>
    change execBar4Write fn off data s = _
    rw [execBar4Write, ha]

/-- R14, R564: the write of the seal. -/
theorem sealWrite : Claims.SealWrite := by
  intro s t src value hr hp ht
  have hexec : exec (.seal src value) s = .next (if sealed t && !sealed s then { t with sealBytes := rwlBytes t } else t) := by
    change execSeal src value s = _
    rw [execSeal, pfWrite_awake hr hp (wakeByAccess_notComp isComp_die04), ht]
  rw [hexec]
  exact ⟨fun hset hopen => by simp [hset, hopen], fun hset => by simp [hset]⟩

/-- R77: a physical function writes at any place of its window, a virtual one its error ring alone from 0x30000. -/
theorem window_open (hwin : isPF fn = true ∨ off < 0x30000) : (!isPF fn && decide (0x30000 ≤ off)) = false := by
  obtain h | h := hwin
  · simp [h]
  · simp [Nat.not_le.mpr h]

/-- R598: a write of a wrong form that reaches a register is logged. -/
theorem badWrite_reaches {die o : Nat} (hr : reaches s die) (hreg : holdsReg die o = true) :
    badWrite s fn die o = logErr s fn SETUP_FORMAT (formatDetail die o) := by
  obtain ⟨hpower, hf, hc, -⟩ := hr
  simp [badWrite, Nat.not_le.mpr hpower, hf, hc, hreg]

/-- R13, R75-R77, R598: writes by the window of a function. -/
theorem registerWrite : Claims.RegisterWrite := by
  intro s fn off value
  refine ⟨fun hp size => ?outside, fun die o hp hbell hwin =>
    ⟨fun ha => registerWrite_word hp hbell ha hwin, fun d1 o1 ha hwin1 hp1 => ?halves, fun size hform hr hreg => ?malformed⟩⟩
  case outside =>
    change Host.Outcome.next (barWrite s fn off size value) = _
    rw [barWrite, hp]
  case halves =>
    have ha' : ¬ (off % 8 ≠ 0 ∨ ¬ (8 = 4 ∨ True)) := by simp [ha]
    change Host.Outcome.next (barWrite s fn off 8 value) = _
    rw [barWrite, hp]
    simp only [hbell, window_open hwin, Bool.false_eq_true, if_false]
    rw [if_neg ha', if_neg (by decide), hp1]
  case malformed =>
    change Host.Outcome.next (barWrite s fn off size value) = _
    rw [barWrite, hp]
    simp only [hbell]
    rw [if_pos hform, badWrite_reaches hr hreg]

/-- R66, R76, R488, R508, R600: the reads that latch. -/
theorem latchingReads : Claims.LatchingReads := by
  intro s w src die hp hw
  refine ⟨fun hr hcomp => ?tail, fun hr => ?tick, fun hf => ?fenced, fun hf hc => ?charcoal⟩
  case tail =>
    refine ⟨fun st hst => ?_, fun hst => ?_⟩
    all_goals
      change execStreamTailRead src die s = _
      rw [execStreamTailRead, hp, readGate_reaches hr, ← hw]
      simp [hcomp, hst]
  case tick =>
    change execTickLoRead src s = _
    rw [execTickLoRead, hp, readGate_reaches hr, wakeByAccess_notComp isComp_die04]
    rfl
  case fenced =>
    refine ⟨?_, fun f hsrc => ?_⟩
    · change execStreamTailRead .mgmt die s = _
      simp [execStreamTailRead, isPfSrc, readGate, hf]
    · change execStreamTailRead src die s = _
      rw [execStreamTailRead, hp, hsrc]
      simp [readGate, hf]
  case charcoal =>
    change execStreamTailRead src die s = _
    rw [execStreamTailRead, hp, hw]
    simp [readGate, hf, hc]

/-- R24, R37, R104, R548: the link of a host port. -/
theorem hostPorts : Claims.HostPorts := by
  intro s port
  refine ⟨fun hup => ⟨?goesDown, ?isUp⟩, fun n hdown => ⟨?isDown, fun hf => ?fenced, fun hf => ?comesUp⟩, rfl⟩
  case goesDown =>
    change execHostLinkDown port s = _
    simp [execHostLinkDown, hup]
  case isUp =>
    change execHostLinkUp port s = _
    simp [execHostLinkUp, hup]
  case isDown =>
    change execHostLinkDown port s = _
    simp [execHostLinkDown, hdown]
  case fenced =>
    change execHostLinkUp port s = _
    simp [execHostLinkUp, hf]
  case comesUp =>
    have hgo : ¬ ((tget? s.linkDown port).isNone = true ∨ dieFenced s (16 + 2 * port) = true) := by simp [hdown, hf]
    exact congrArg Host.Outcome.next (if_neg hgo)

end Sys2Proof.Proofs.HostWindows

namespace Sys2Proof.Proofs

open HostWindows

/-- Settles O6: windows by place and form, latching reads by the gate before a read, and the link by whether it is up. -/
theorem hostAccess : Obligations.HostAccess := ⟨aperture, sealWrite, registerWrite, latchingReads, hostPorts⟩

end Sys2Proof.Proofs
end

section
/-! Tokens, streams and the grants of the pool (R44, R46, R55-R57, R62, R63, R65, R66). -/

namespace Sys2Proof.Proofs.TokensStreams

open Sys2Proof Sys2Proof.Machine Sys2Proof.Laws

variable {s : State} {die stream bank : Nat}

/-- R62, R63, R65: a signal of a token. -/
theorem tokenSignal : Claims.TokenSignal := by
  intro s die tok inc desc
  change (_ → _ → _ → _ → (_ → execTokenSignal die tok ⟨inc, desc⟩ s = _) ∧ (_ → execTokenSignal die tok ⟨inc, desc⟩ s = _)) ∧
    (_ → execTokenSignal die tok ⟨inc, desc⟩ s = _)
  unfold execTokenSignal
  refine ⟨fun hlo hhi htok hcomp => ⟨fun hf => ?live, fun hf => ?fenced⟩, fun hbad => ?ignored⟩
  case live => rw [if_pos ⟨hlo, hhi, htok, hcomp⟩, hf, if_neg Bool.false_ne_true]
  case fenced => rw [if_pos ⟨hlo, hhi, htok, hcomp⟩, if_pos hf]
  case ignored =>
    rw [if_neg]
    rintro ⟨hlo, hhi, htok, hcomp⟩
    simp only at hlo hhi
    obtain h | h | h | h := hbad
    · omega
    · omega
    · omega
    · simp [h] at hcomp

/-! ## Streams -/

/-- R46, R55-R57, R66: commits and releases of a stream. -/
theorem streams : Claims.Streams := by
  intro s die stream x hx
  refine ⟨fun tile t e hroom hform hlen hlive het => ?commit, fun tile hbad => ?ignored, fun st cs t e hcs het => ?release⟩
  case commit =>
    have hgo : ¬ (streamFill x ≥ x.slots ∨ (!tileOk tile) = true ∨ tile.length > 64 * x.slotLines ∨
        stFenced s die x.producer = true) := by simp [hform, hlive]; omega
    change execStreamCommit die stream tile s = _
    rw [execStreamCommit, hx]
    dsimp only
    rw [if_neg hgo, commitTile, hx]
    dsimp only
    rw [← het]
  case ignored =>
    have hstop : streamFill x ≥ x.slots ∨ (!tileOk tile) = true ∨ tile.length > 64 * x.slotLines ∨ stFenced s die x.producer = true := by
      simpa using hbad
    change execStreamCommit die stream tile s = _
    rw [execStreamCommit, hx]
    dsimp only
    rw [if_pos hstop]
  case release =>
    change Host.Outcome.next (pump (releaseSlot s die stream st)) = _
    rw [releaseSlot, hx]
    dsimp only
    rw [← hcs, ← het]

/-! ## The pool -/

/-- The eldest request is one of the requests. -/
theorem eldest_mem {x : Nat × Nat} : ∀ {l : List (Nat × Nat)}, eldest l = some x → x ∈ l
  | [], h => nomatch h
  | y :: r, h => by
    rw [eldest] at h
    split at h
    case h_1 z hz =>
      have hmem := eldest_mem hz
      split_ifs at h with hlate
      · exact .tail _ (Option.some.inj h ▸ hmem)
      · exact Option.some.inj h ▸ .head _
    case h_2 => exact Option.some.inj h ▸ .head _

/-- A class that does not ask has no next port. -/
theorem nextPort_absent {reqs : List (Nat × Nat)} {k : Nat} (last : Nat) (h : ∀ x ∈ reqs, portRank x.1 ≠ k) :
    nextPort last ((reqs.map (·.1)).filter (fun p => portRank p == k)) = none := by
  have hnone : (reqs.map (·.1)).filter (fun p => portRank p == k) = [] := by
    rw [List.filter_eq_nil_iff]
    intro p hp
    obtain ⟨x, hx, rfl⟩ := List.mem_map.mp hp
    simpa using h x hx
  rw [hnone]
  rfl

/-- R44: without an aged request, the first class that asks has the turn. -/
theorem bankGrant_turn {reqs : List (Nat × Nat)} {r p : Nat} (hyoung : ∀ x ∈ reqs, x.2 < 64) (hr : r ∈ [1, 2, 3, 4, 5, 6])
    (hbefore : ∀ k, 1 ≤ k → k < r → ∀ x ∈ reqs, portRank x.1 ≠ k)
    (hnext : nextPort (tgetD s.bankTurn (bankKeyOf die bank r) 0) ((reqs.map (·.1)).filter (fun p => portRank p == r)) = some p) :
    bankGrant s die bank reqs = some p := by
  have hnoAged : reqs.filter (fun x => decide (x.2 ≥ 64)) = [] := by
    rw [List.filter_eq_nil_iff]
    intro x hx
    simpa using hyoung x hx
  rw [bankGrant, hnoAged]
  change ([1, 2, 3, 4, 5, 6] : List Nat).findSome? _ = some p
  obtain ⟨before, after, hsplit⟩ := List.append_of_mem hr
  rw [List.findSome?_eq_some_iff]
  refine ⟨before, r, after, hsplit, hnext, fun k hk => nextPort_absent _ (hbefore k ?_ ?_)⟩
  · have hmem : k ∈ ([1, 2, 3, 4, 5, 6] : List Nat) := hsplit ▸ List.mem_append_left _ hk
    simp at hmem
    omega
  · have hrising : ([1, 2, 3, 4, 5, 6] : List Nat).Pairwise (· < ·) := by decide
    rw [hsplit] at hrising
    obtain ⟨-, -, hcross⟩ := List.pairwise_append.mp hrising
    exact hcross k hk r (.head _)

/-- R44: the grant of a bank, by age or by turn. -/
theorem poolAged : Claims.PoolAged := by
  rintro s die bank q rest reqs rfl
  refine ⟨fun x hx => ?aged, fun hyoung r p hr hbefore hnext => ?turn⟩
  case aged =>
    have hmem := List.mem_filter.mp (eldest_mem hx)
    have hany : (q :: rest).any (fun x => decide (x.2 ≥ 64)) = true := List.any_eq_true.mpr ⟨x, hmem⟩
    change execPoolRequestAged die bank q rest s = _
    rw [execPoolRequestAged, bankGrant, hx]
    dsimp only
    rw [if_pos hany]
  case turn =>
    have hany : ¬ (q :: rest).any (fun x => decide (x.2 ≥ 64)) = true := by
      rw [List.any_eq_true]
      rintro ⟨x, hx, hage⟩
      have := hyoung x hx
      simp at hage
      omega
    change execPoolRequestAged die bank q rest s = _
    rw [execPoolRequestAged, bankGrant_turn hyoung hr hbefore hnext]
    dsimp only
    rw [if_neg hany]

end Sys2Proof.Proofs.TokensStreams

namespace Sys2Proof.Proofs

open TokensStreams

/-- Settles O7: signals, commits and releases by their conditions; of a bank's requests the eldest aged one, or the next of the first class
that asks. -/
theorem tokensAndStreams : Obligations.TokensAndStreams := ⟨tokenSignal, streams, poolAged⟩

end Sys2Proof.Proofs
end

section
/-! How an operation of a dispatched descriptor runs: its checks, then its effect (R84-R86). -/

namespace Sys2Proof.Proofs.DescriptorOps

open Sys2Proof Sys2Proof.Machine

variable {s : State} {q tag : Nat} {p : Bytes → Bool} {d : Desc} {checks : State → Desc → List (Nat × Bool)}
  {reject : State → Desc → Nat → State} {run : State → Desc → State}

theorem descOf_names (h : descOf s q tag = some d) : d.queue = q ∧ d.tag = tag := by
  have hd := List.find?_some h
  simpa using hd

/-- The descriptor found is the one named. -/
theorem opDesc_names (h : opDesc s q tag p = some d) : d.queue = q ∧ d.tag = tag := by
  unfold opDesc at h
  split at h
  case h_1 e he =>
    split_ifs at h
    exact Option.some.inj h ▸ descOf_names he
  case h_2 => cases h

/-- A descriptor whose first failed check, if any, ends it. -/
def checked (checks : State → Desc → List (Nat × Bool)) (reject : State → Desc → Nat → State) (run : State → Desc → State) (s : State)
    (d : Desc) : State :=
  match firstFail (checks s d) with
  | some r => settle (reject s d r)
  | none => settle (run s d)

theorem checked_passes (h : firstFail (checks s d) = none) : checked checks reject run s d = settle (run s d) := by
  rw [checked, h]

theorem checked_fails {r : Nat} (h : firstFail (checks s d) = some r) : checked checks reject run s d = settle (reject s d r) := by
  rw [checked, h]

/-- A meaning that runs the checked operation of its descriptor. -/
theorem opRuns_of_checked {c : Nat → Nat → Instr}
    (h : ∀ s q tag d, opDesc s q tag p = some d → exec (c q tag) s = .next (checked checks reject run s d)) :
    opRuns c p checks reject run := by
  intro s q tag d hd
  rw [h s q tag d hd]
  exact ⟨fun hpass => by rw [checked_passes hpass], fun r hfail => by rw [checked_fails hfail]⟩

end Sys2Proof.Proofs.DescriptorOps
end

section
/-! The matrix stations, and the counter controls of the stations (R111-R114, R126, R131, R135, R139, R140, R250, R375). -/

namespace Sys2Proof.Proofs.MatrixWork

open Sys2Proof Sys2Proof.Machine Sys2Proof.Laws DescriptorOps

variable {s : State} {die st : Nat}

/-- R126, R131: the three matrix operations run alike. -/
theorem matrixOps : Claims.MatrixOps := by
  intro s q tag op d c hc hd
  have hexec : exec c s = .next (runMxOp op q tag s) := by
    obtain ⟨rfl, rfl⟩ | ⟨rfl, rfl⟩ | ⟨rfl, rfl⟩ := hc <;> rfl
  rw [hexec, runMxOp, hd]
  dsimp only
  exact ⟨fun kind hpass hkind => by rw [hpass, hkind], fun r hfail => by rw [hfail]⟩

/-! ## Loads and passes -/

/-- A pass that is next at a resting station that is not fenced or halted starts when its set can be used, and else waits. -/
theorem exec_mxStream {parity : Option Nat} {m : Micro} (hst : st < 4) (hf : stFenced s die st = false) (hh : halted s die st = false)
    (hrest : getF s F.MX_STATE_ISSUE die st = 0) (hm : nextPass (fifo s die st) = some m) :
    exec (.mxStream die st parity) s =
      .next (if setReady s die st m then startPass s die st parity else setF s F.MX_STATE_ISSUE die st 2) := by
  have hgo : st < 4 ∧ ¬ stFenced s die st = true ∧ ¬ halted s die st = true := by simp [hst, hf, hh]
  change execMxStream die st parity s = _
  rw [execMxStream, if_pos hgo, hrest, hm]
  rfl

/-- A pass on the active set. -/
theorem startPass_active {parity : Option Nat} {m : Micro} {rows skip k : Nat} {p : Option Nat}
    (hm : nextPass (fifo s die st) = some m) (hkind : m.kind = .pass rows skip false k p) : startPass s die st parity =
      setF (setFifo s die st (updFirst (fun x => x == m) (fun x => noteParity parity { x with started := true }) (fifo s die st)))
        F.MX_STATE_ISSUE die st 1 := by
  rw [startPass, hm]
  dsimp only
  rw [hkind]

/-- A pass that swaps the shadow set in. -/
theorem startPass_swap {parity : Option Nat} {m : Micro} {rows skip k : Nat} {p : Option Nat}
    (hm : nextPass (fifo s die st) = some m) (hkind : m.kind = .pass rows skip true k p) : startPass s die st parity =
      setF (setFifo (swapSets s die st) die st (updFirst (fun x => x == m) (fun x => noteParity parity { x with started := true })
        (fifo (swapSets s die st) die st))) F.MX_STATE_ISSUE die st 1 := by
  rw [startPass, hm]
  dsimp only
  rw [hkind]

/-- R135, R139, R140: the end of a clean pass of a station whose counters run. -/
theorem endHead_cleanPass {t : State} {m : Micro} {rest : List Micro} {d : Desc} {rows skip k : Nat} {swap : Bool}
    (hh : halted s die st = false) (hfifo : fifo s die st = m :: rest) (hkind : m.kind = .pass rows skip swap k none)
    (hd : descOf s m.queue m.tag = some d) (hstarted : m.started = true) (hready : m.ready = false)
    (hin : inputsDone s d.queue d.tag = true) (hmixed : mixedAt (viewOf s d) d k = false) (hcause : causeOfPass (viewOf s d) d k = 0)
    (ht : t = mxCount (mxCount s F.MX_CYC_VALID_VALID die st (rows * rowCycles s d.queue d.tag)) F.MX_ROWS_SKIP_SKIP die st skip)
    (hruns : flag t F.MX_CNT_CTRL_FREEZE die st = false) :
    endHead s die st = nextIssue (endWork (showUsed (updDesc (addW t F.MX_PASSES_PASSES die st 1) d.queue d.tag
      (fun d => { d with marks := d.marks ++ [] })) d st) die st m rest 0) die st := by
  have hcount : countPass s die st rows skip (rowCycles s d.queue d.tag) none = addW t F.MX_PASSES_PASSES die st 1 := by
    simp [countPass, ← ht, hruns]
  have hgo : ¬ ((!m.started) = true ∨ m.ready = true ∨ (!inputsDone s d.queue d.tag) = true) := by simp [hstarted, hready, hin]
  rw [endHead, hh, if_neg Bool.false_ne_true, hfifo]
  dsimp only
  rw [hkind, hd]
  dsimp only
  rw [if_neg hgo, endPass]
  simp [hmixed, hcause, hcount]

/-- R111-R114, R135, R139, R140: the events of a matrix station. -/
theorem matrixEvents : Claims.MatrixEvents := by
  refine ⟨fun s die st hst hcomp => ⟨fun hf hh hshadow hload => ?load, fun hf hshadow t ht => ?shadowReady, ?swap, ?active,
    fun hf => ?fencedShadow, fun hoff => ⟨?offLoad, fun parity => ?offPass⟩⟩, ?passDone⟩
  case load =>
    change execMxLoad die st s = _
    simp [execMxLoad, hst, hcomp, hf, hh, hshadow, hload]
  case shadowReady =>
    change execShadowReady die st s = _
    rw [execShadowReady, if_pos ⟨hst, hshadow, by simp [hf]⟩, ← ht]
    simp
  case swap =>
    intro parity m rows skip k p hf hh hrest hm hkind
    rw [exec_mxStream hst hf hh hrest hm, startPass_swap hm hkind, setReady, hkind]
    refine ⟨fun hshadow => ?_, fun hshadow t ht => ?_⟩
    · simp [hshadow]
    · simp [hshadow, ht, swapSets]
  case active =>
    intro parity m rows skip k p hf hh hrest hm hkind
    rw [exec_mxStream hst hf hh hrest hm, startPass_active hm hkind, setReady, hkind]
    rfl
  case fencedShadow =>
    change execShadowReady die st s = _
    simp [execShadowReady, hf]
  case offLoad =>
    change execMxLoad die st s = _
    obtain h | h := hoff <;> simp [execMxLoad, h]
  case offPass =>
    change execMxStream die st parity s = _
    obtain h | h := hoff <;> simp [execMxStream, h]
  case passDone =>
    intro s t u die st m rest d rows skip k swap hst hcomp hh hfifo hkind hd hstarted hready hin hmixed hcause ht hruns hu
    have hstation : stations.contains st = true := by
      interval_cases st <;> rfl
    change execMicroCommandRetire die st s = _
    rw [execMicroCommandRetire, hcomp, hstation, endHead_cleanPass hh hfifo hkind hd hstarted hready hin hmixed hcause ht hruns, hu]
    rfl

/-! ## Counter controls -/

/-- R140, R250, R375: the counter controls. -/
theorem counterClears : Claims.CounterClears := by
  intro s w src die st value hr hw hp hcomp
  have gated (off : Nat) (k : State → State) : pfWrite s src die off value k = k w := by rw [pfWrite_reaches hr hp, hw]
  refine ⟨fun hst => ?matrix, fun hst => ?attention, fun hst => ?copy, fun hst => ⟨?noMatrix, ?noAttention, ?noCopy⟩⟩
  case matrix => exact congrArg Host.Outcome.next ((if_pos ⟨hcomp, hst⟩).trans (gated _ _))
  case attention => exact congrArg Host.Outcome.next ((if_pos ⟨hcomp, hst⟩).trans (gated _ _))
  case copy => exact congrArg Host.Outcome.next ((if_pos ⟨hcomp, hst⟩).trans (gated _ _))
  case noMatrix => exact congrArg Host.Outcome.next (if_neg (by omega))
  case noAttention => exact congrArg Host.Outcome.next (if_neg (by omega))
  case noCopy => exact congrArg Host.Outcome.next (if_neg (by omega))

end Sys2Proof.Proofs.MatrixWork

namespace Sys2Proof.Proofs

open MatrixWork

/-- Settles O8: the operations by their checks, the station's events by its FIFO and its sets, the counters behind the gate. -/
theorem matrixStations : Obligations.MatrixStations := ⟨matrixOps, matrixEvents, counterClears⟩

end Sys2Proof.Proofs
end

section
/-! The sliced, element-wise, convert, random and check operations (R155, R157, R162, R183, R185, R199, R631). -/

namespace Sys2Proof.Proofs.ConvertCheck

open Sys2Proof Sys2Proof.Machine DescriptorOps

variable {s : State} {q tag op : Nat} {d : Desc} {eff run : State → Desc → State}

/-- R155, R157, R162, R183: the tensor operations. -/
theorem tensorOps : Claims.TensorOps := by
  refine ⟨opRuns_of_checked fun s q tag d hd => ?gemm, opRuns_of_checked fun s q tag d hd => ?slice,
    opRuns_of_checked fun s q tag d hd => ?convert, fun s q tag d hd => ?elementwise⟩
  case gemm =>
    change execSlGemm q tag s = _
    rw [execSlGemm, hd]
    rfl
  case slice =>
    change execSlSlice q tag s = _
    rw [execSlSlice, hd]
    rfl
  case convert =>
    change execCvConvert q tag s = _
    rw [execCvConvert, hd]
    rfl
  case elementwise =>
    change (_ → _ → execVxEw q tag s = _) ∧ (_ → execVxEw q tag s = _)
    rw [execVxEw, hd]
    exact ⟨fun hop hfmt => congrArg Host.Outcome.next (if_neg (not_or.mpr ⟨Nat.not_lt.mpr hop, not_not.mpr hfmt⟩)),
      fun hbad => congrArg Host.Outcome.next (if_pos hbad)⟩

theorem runRandom_checked (hd : opDesc s q tag (isRandom op) = some d) (heff : eff s d = run s d) :
    runRandom op eff q tag s = checked randomChecks rejectClass3 run s d := by
  simp only [runRandom, hd, heff]
  rfl

theorem runPolicy_checked (hd : opDesc s q tag (isPolicy op) = some d) (heff : eff s d = run s d) :
    runPolicy op eff q tag s = checked policyChecks rejectClass3 run s d := by
  simp only [runPolicy, hd, heff]
  rfl

/-- R185: the operations on a random stream. -/
theorem randomStreams : Claims.RandomStreams := by
  refine ⟨opRuns_of_checked ?_, opRuns_of_checked ?_, opRuns_of_checked ?_, opRuns_of_checked ?_⟩
  all_goals
    intro s q tag d hd
    obtain ⟨rfl, rfl⟩ := opDesc_names hd
    exact congrArg Host.Outcome.next (runRandom_checked hd rfl)

/-- R199, R631: the operations on a check profile, and the end of a sample. -/
theorem checkProfiles : Claims.CheckProfiles := by
  refine ⟨opRuns_of_checked ?_, opRuns_of_checked ?_, opRuns_of_checked ?_, opRuns_of_checked ?_, ?agrees, ?noSample⟩
  case agrees =>
    intro s die corrupt x hx hagree hsplit
    have hloud : (x.split && (corrupt || x.disagrees)) = false := by rw [hagree, Bool.or_false, hsplit]
    change execCkSampleDone die corrupt s = _
    rw [execCkSampleDone, hx]
    dsimp only
    rw [hloud, hagree]
    rfl
  case noSample =>
    intro s die corrupt hx
    change execCkSampleDone die corrupt s = _
    rw [execCkSampleDone, hx]
  all_goals
    intro s q tag d hd
    obtain ⟨rfl, rfl⟩ := opDesc_names hd
    exact congrArg Host.Outcome.next (runPolicy_checked hd rfl)

end Sys2Proof.Proofs.ConvertCheck

namespace Sys2Proof.Proofs

open ConvertCheck

/-- Settles O9: each operation is its checks and its effect on the descriptor found. -/
theorem convertAndCheck : Obligations.ConvertAndCheck := ⟨tensorOps, randomStreams, checkProfiles⟩

end Sys2Proof.Proofs
end

section
/-! The attention operations and the ring wait (R225, R228-R230, R238, R250). -/

namespace Sys2Proof.Proofs.AttentionCalls

open Sys2Proof Sys2Proof.Machine DescriptorOps

/-- R225, R228, R229, R250: how a call that has a parameter block ends or begins. -/
theorem attentionOps : Claims.AttentionOps := by
  intro s t q tag op d c par hc hd ht
  have hexec : exec c s = .next (runAt op q tag par s) := by
    obtain ⟨rfl, rfl⟩ | ⟨rfl, rfl⟩ | ⟨rfl, rfl, rfl⟩ := hc <;> rfl
  rw [hexec, runAt, hd]
  dsimp only
  rw [← ht]
  refine ⟨fun e hprep => ?unprepared, fun x hprep hfenced => ?fenced, fun x hprep hlive =>
    ⟨fun st r hwalk => ?unwalkable, fun hwalk hring => ?ring, fun hwalk hring hpaged => ?paged, fun hwalk hring hpaged => ?block⟩⟩
  case unprepared =>
    rw [hprep]
  case fenced =>
    rw [hprep]
    exact congrArg Host.Outcome.next (if_pos hfenced)
  all_goals
    rw [hprep]
    dsimp only
    rw [hlive, if_neg Bool.false_ne_true, hwalk]
  all_goals dsimp only
  case ring => rw [runCall, hring, if_pos rfl]
  case paged => rw [runCall, hring, hpaged, if_neg Bool.false_ne_true, if_pos rfl]
  case block => rw [runCall, hring, hpaged, if_neg Bool.false_ne_true, if_neg Bool.false_ne_true]

/-- R230, R238: AT_MERGE, and the limit of a ring wait. -/
theorem mergeAndRingWait : Claims.MergeAndRingWait := by
  refine ⟨fun s q tag d hd => ?merge, fun s die st m rest r tok v hfifo hring hkind hlimit _ => ?expired, fun s die st hfifo => ?empty⟩
  case merge =>
    change (_ → _ → execAtMerge q tag s = _) ∧ (_ → _ → execAtMerge q tag s = _) ∧ (∀ r, _ → execAtMerge q tag s = _)
    rw [execAtMerge, hd]
    dsimp only
    refine ⟨fun hpass hlive => ?_, fun hpass hfenced => ?_, fun r hfail => ?_⟩
    · rw [hpass, hlive]; rfl
    · rw [hpass, hfenced]; rfl
    · rw [hfail]
  case expired =>
    change execRingWaitTimeout die st s = _
    rw [execRingWaitTimeout, hfifo]
    dsimp only
    rw [hring, hkind]
    exact congrArg Host.Outcome.next (if_neg hlimit)
  case empty =>
    change execRingWaitTimeout die st s = _
    rw [execRingWaitTimeout, hfifo]

end Sys2Proof.Proofs.AttentionCalls

namespace Sys2Proof.Proofs

open AttentionCalls

/-- Settles O10: the three calls run alike, by preparation, stations, walks and mode. -/
theorem attention : Obligations.Attention := ⟨attentionOps, mergeAndRingWait⟩

end Sys2Proof.Proofs
end

section
/-! The page operations and the events of the page engine (R252, R256, R260, R261, R263, R266-R270, R272-R279). -/

namespace Sys2Proof.Proofs.PageEngine

open Sys2Proof Sys2Proof.Machine DescriptorOps

variable {s t : State} {die q tag : Nat}

/-! ## Rebuilds -/

/-- R277, R278: a swap with no walk of its die under way. -/
theorem exec_rebuildSwap {bank k : Nat} (hcomp : isComp die = true) (hrun : (getRb s die).running = true) (hkind : (getRb s die).kind = 0)
    (hlive : stFenced s die 0x0C = false) (hbank : bank = 1 - getF s F.PG_STATE_ACT_BANK die)
    (hpack : packSpans die bank (bySpan (dieSeqs s die)) 0 (0, s) = (k, t))
    (hwalks : (setF t F.PG_STATE_ACT_BANK die 0 bank).walks.any (fun w => w.die == die) = false) :
    exec (.rebuildSwap die) s = .next (settle (showPg (pumpRebuild (endRebuild (setRb (setF
      { setF t F.PG_STATE_ACT_BANK die 0 bank with walks := ((setF t F.PG_STATE_ACT_BANK die 0 bank).walks.map
        (fun w => if w.die = die then { w with preswap := true } else w)) } F.PG_STATE_REBUILD die 0 0) die
          { getRb s die with moved := k }) die) die) die)) := by
  have hgo : (isComp die && (getRb s die).running && (getRb s die).kind == 0 && !stFenced s die 0x0C) = true := by
    simp [hcomp, hrun, hkind, hlive]
  change execRebuildSwap die s = _
  simp only [execRebuildSwap, hgo, ← hbank, hpack, hwalks, if_true, Bool.false_eq_true, if_false]

theorem rebuildSwap_off (h : (getRb s die).running = false ∨ stFenced s die 0x0C = true) : exec (.rebuildSwap die) s = .next s := by
  change execRebuildSwap die s = _
  obtain h | h := h <;> simp [execRebuildSwap, h]

end Sys2Proof.Proofs.PageEngine

namespace Sys2Proof.Proofs

open Sys2Proof.Machine PageEngine DescriptorOps

/-- Settles O11: edits and rebuilds go to the page engine where it is not fenced, and queries and rebuilds are checked first. -/
theorem pageOps : Obligations.PageOps := by
  refine ⟨fun s q tag op d c hc hd => ?edit, fun s q tag d hd => ?query, fun s q tag arg d c hc hd => ?rebuild⟩
  case edit =>
    have hexec : exec c s = .next (runPg s q tag op) := by
      obtain ⟨rfl, rfl⟩ | ⟨rfl, rfl⟩ | ⟨rfl, rfl⟩ | ⟨rfl, rfl⟩ | ⟨rfl, rfl⟩ | ⟨rfl, rfl⟩ | ⟨rfl, rfl⟩ := hc <;> rfl
    rw [hexec, runPg, hd]
    exact ⟨fun hlive => congrArg Host.Outcome.next (if_neg (by simp [hlive])), fun hf => congrArg Host.Outcome.next (if_pos hf)⟩
  case query =>
    change (∀ r, _ → execPgQuery q tag s = _) ∧ (∀ x bs, _ → _ → _ → execPgQuery q tag s = _)
    rw [execPgQuery, hd]
    dsimp only
    refine ⟨fun r hfail => ?_, fun x bs hpass hx hbs => ?_⟩
    · rw [hfail]
    · rw [hpass, hx, hbs]
  case rebuild =>
    have hexec : exec c s = .next (runRebuild s q tag arg) := by
      obtain ⟨rfl, rfl⟩ | ⟨rfl, rfl⟩ := hc <;> rfl
    rw [hexec, runRebuild, hd]
    dsimp only
    refine ⟨fun r hfail => ?_, fun hpass hlive t ht => ?_⟩
    · rw [hfail]
    · rw [hpass, hlive, ht]
      rfl

/-- Settles O12: each event finds its walk, remap, edit or rebuild, and goes on as it stands. -/
theorem pageEvents : Obligations.PageEvents := by
  refine ⟨fun s die h => rebuildSwap_off h, fun s t die bank k => exec_rebuildSwap, ?refusedWalk, ?waitingWalk, ?beginWalk, ?endWalk,
    ?editCopy, ?loneCopy, ?demoted, ?abandoned, ?parked, ?sweep, ?fencedSweep⟩
  case refusedWalk =>
    intro s die seq owner first last hbad
    change execWalkBegin die seq owner first last s = _
    exact congrArg Host.Outcome.next (if_pos (by simpa using hbad))
  case waitingWalk =>
    intro s die seq owner first last hok horder hfree
    change execWalkBegin die seq owner first last s = _
    simp [execWalkBegin, hok, Nat.not_lt.mpr horder, hfree]
  case beginWalk =>
    intro s t die seq owner first last x slot mine hok horder hx hslot hmine ht
    have hgo : ¬ ((!walkOk s die seq owner) = true ∨ last < first) := by simp [hok, horder]
    subst hmine ht
    change execWalkBegin die seq owner first last s = _
    rw [execWalkBegin, if_neg hgo, hslot, if_neg (by simp), beginWalk, hx, hslot]
    simp only [List.contains_nil, Bool.or_false]
  case endWalk =>
    intro s die slot w hw
    change execWalkEnd die slot s = _
    rw [execWalkEnd, hw]
  case editCopy =>
    intro s die entry ok r hr hwhy t ht
    change (_ → execRemapCopyDone die entry ok s = _) ∧ (_ → execRemapCopyDone die entry ok s = _)
    rw [execRemapCopyDone, hr]
    subst ht
    exact ⟨fun hmore => congrArg Host.Outcome.next ((if_pos hwhy).trans (if_pos hmore)),
      fun hlast => congrArg Host.Outcome.next ((if_pos hwhy).trans (if_neg (Bool.eq_false_iff.mp hlast)))⟩
  case loneCopy =>
    intro s die entry ok r hr hwhy t ht
    change (_ → execRemapCopyDone die entry ok s = _) ∧ (_ → execRemapCopyDone die entry ok s = _)
    rw [execRemapCopyDone, hr]
    dsimp only
    rw [if_neg hwhy, ← ht]
    refine ⟨fun hgood => ?_, fun hbad => ?_⟩
    · rw [hgood]; rfl
    · rw [hbad]; rfl
  case demoted =>
    intro s die entry r hr t ht hgood
    change execPgDemotionDone die entry true s = _
    rw [execPgDemotionDone, hr]
    dsimp only
    rw [← ht, hgood]
    rfl
  case abandoned =>
    intro s t u die entry ok r hr ht hbad hu
    change (_ → execPgDemotionDone die entry ok s = _) ∧ (∀ n y v x e, _ → _ → _ → _ → execPgDemotionDone die entry ok s = _)
    rw [execPgDemotionDone, hr]
    dsimp only
    rw [← ht, hbad, if_neg Bool.false_ne_true, ← hu]
    refine ⟨fun hnone => by rw [hnone], fun n y v x e hgrow hv hx he => ?_⟩
    rw [hgrow]
    dsimp only
    rw [← hv, hx]
    dsimp only
    rw [he]
  case parked =>
    intro s die seq x e hx he hdie hparked
    change execAppendParkTimeout die seq s = _
    rw [execAppendParkTimeout, hx]
    dsimp only
    rw [he]
    exact congrArg Host.Outcome.next (if_pos ⟨hdie, hparked⟩)
  case sweep =>
    intro s die hcomp hlive
    change execPgAgeSweep die s = _
    simp only [execPgAgeSweep, hcomp, hlive]
    rfl
  case fencedSweep =>
    intro s die hf
    change execPgAgeSweep die s = _
    simp [execPgAgeSweep, hf]

end Sys2Proof.Proofs
end

section
/-! Stage schedules (R285, R289, R291, R294) and shard entries (R301, R302). -/

namespace Sys2Proof.Proofs.SchedulesShards

open Sys2Proof Sys2Proof.Machine DescriptorOps

variable {s : State} {q tag : Nat} {d : Desc}

/-! ## Schedules -/

/-- R294: a stop of either mode changes the schedule of its slot and ends DONE. -/
theorem runStop_checked {mode : Nat} {eff : Schedule → Schedule} {run : State → Desc → State}
    (hd : opDesc s q tag (fun i => opcode i == 0xA1 && (if mode = 0 then fld i 0x11 1 != 1 else fld i 0x11 1 == 1)) = some d)
    (hrun : run s d = endOp (match tget? s.scheds (schedKey (qDie q) (bits (fld d.image 0x10 1) 0 2)) with
      | some c => setSched s (schedKey (qDie q) (bits (fld d.image 0x10 1) 0 2)) (eff c)
      | none => s) d DONE (seqStation d) []) :
    runStop mode eff q tag s = checked stopChecks (fun s d r => rejectOp s d CONFLICT r) run s d := by
  rw [runStop, hd, checked, hrun] <;> rfl

/-- R285, R294: the start and the stops of a schedule. -/
theorem schedules : Claims.Schedules := by
  refine ⟨fun s q tag d h cause hd hread => ?run, opRuns_of_checked fun s q tag d hd => ?atEnd,
    opRuns_of_checked fun s q tag d hd => ?now⟩
  case run =>
    change (∀ r, _ → execStRun q tag s = _) ∧
      (_ → (_ → execStRun q tag s = _) ∧ (_ → (∀ r, _ → execStRun q tag s = _) ∧ (_ → execStRun q tag s = _)))
    rw [execStRun, hd]
    dsimp only
    rw [hread]
    dsimp only
    refine ⟨fun r hbody => by rw [hbody], fun hbody => ?_⟩
    rw [hbody]
    dsimp only
    refine ⟨fun hbad => by rw [if_pos hbad], fun hgood => ?_⟩
    rw [if_neg (not_not.mpr hgood)]
    exact ⟨fun r hfail => by rw [hfail], fun hpass => by rw [hpass]⟩
  case atEnd =>
    obtain ⟨rfl, rfl⟩ := opDesc_names hd
    exact congrArg Host.Outcome.next (runStop_checked (mode := 0) hd rfl)
  case now =>
    obtain ⟨rfl, rfl⟩ := opDesc_names hd
    exact congrArg Host.Outcome.next (runStop_checked (mode := 1) hd rfl)

/-- R289, R291: the release of an entry. -/
theorem entryRelease : Claims.EntryRelease := by
  intro s die slot t c ht
  change (_ → execEntryRelease die slot s = _) ∧ (_ → (_ → execEntryRelease die slot s = _) ∧ (_ → _ →
    (_ → execEntryRelease die slot s = _) ∧ (∀ l i e, _ → execEntryRelease die slot s = _) ∧
    (∀ l i e r, _ → execEntryRelease die slot s = _) ∧ (∀ l i e cause bad, _ → _ → execEntryRelease die slot s = _)))
  rw [execEntryRelease]
  dsimp only
  rw [← ht]
  refine ⟨fun hnone => by rw [hnone], fun hsched => ?_⟩
  rw [hsched]
  dsimp only
  refine ⟨fun hoff => ?off, fun hgoes hserves => ?_⟩
  case off => rw [if_pos (by simpa using hoff)]
  have hgo : ¬ (c.stopping = 3 ∨ (!dieServes t die) = true) := by simp [hgoes, hserves]
  rw [if_neg hgo]
  refine ⟨fun hlane => ?_, fun l i e hlane => ?_, fun l i e r hlane => ?_, fun l i e cause bad hbad hlane => ?_⟩
  all_goals rw [hlane]
  · rfl
  · rfl
  · exact congrArg Host.Outcome.next (if_pos hbad)

/-! ## Shard entries -/

variable {p : Nat → Bool} {run : State → Desc → Nat → State}

theorem runSh_fails {r : Nat} (hd : opDesc s q tag (fun i => opcode i == 0xA2 && p (fld i 0x12 1)) = some d)
    (h : firstFail (shChecks s d) = some r) :
    runSh s q tag p run = settle (rejectOp s d (if r = 9 then FAULT_PROTECTION else CONFLICT) r) := by
  rw [runSh, hd]
  dsimp only
  rw [h]

/-- An op whose checks pass: FENCED at a fenced Reduce station, its effect elsewhere. -/
theorem runSh_passes (hd : opDesc s q tag (fun i => opcode i == 0xA2 && p (fld i 0x12 1)) = some d)
    (h : firstFail (shChecks s d) = none) : runSh s q tag p run =
      if stFenced s (qDie q) 0x20 then settle (endOp s d FENCED 0x20 []) else settle (run s d (fld d.image 0x10 2)) := by
  rw [runSh, hd]
  dsimp only
  rw [h]

theorem runSh_live (hd : opDesc s q tag (fun i => opcode i == 0xA2 && p (fld i 0x12 1)) = some d)
    (h : firstFail (shChecks s d) = none) (hlive : stFenced s (qDie q) 0x20 = false) :
    runSh s q tag p run = settle (run s d (fld d.image 0x10 2)) := by
  rw [runSh_passes hd h, hlive, if_neg Bool.false_ne_true]

end Sys2Proof.Proofs.SchedulesShards

namespace Sys2Proof.Proofs

open Sys2Proof Sys2Proof.Machine SchedulesShards

/-- Settles O13: a start passes its body, its read and its header in turn; a release goes by the lane that is picked. -/
theorem scheduleRuns : Obligations.ScheduleRuns := ⟨schedules, entryRelease⟩

/-- Settles O14: the five operations share their checks and the fence, and each has its own effect. -/
theorem shardEntries : Obligations.ShardEntries := by
  intro s q tag d p c hc hd
  have hexec : ∃ run, exec c s = .next (runSh s q tag p run) := by
    obtain ⟨rfl, rfl⟩ | ⟨rfl, rfl⟩ | ⟨rfl, rfl⟩ | ⟨rfl, rfl⟩ | ⟨rfl, rfl⟩ := hc <;> exact ⟨_, rfl⟩
  refine ⟨fun r hfail => ?rejected, fun hpass hfenced => ?fenced, fun hpass hlive n x hn hx => ?effects⟩
  case rejected =>
    obtain ⟨run, hrun⟩ := hexec
    rw [hrun, runSh_fails hd hfail]
  case fenced =>
    obtain ⟨run, hrun⟩ := hexec
    rw [hrun, runSh_passes hd hpass, if_pos hfenced]
  case effects =>
    subst hn hx
    refine ⟨?define, ?free, ?commit, ?begin, ?held, ?query⟩
    all_goals
      rintro rfl
      obtain rfl : p = _ := by simpa using hc
    case define => exact congrArg Host.Outcome.next (runSh_live hd hpass hlive)
    case free => exact congrArg Host.Outcome.next (runSh_live hd hpass hlive)
    case commit => exact congrArg Host.Outcome.next (runSh_live hd hpass hlive)
    case begin =>
      intro hsnap t done happly
      refine congrArg Host.Outcome.next ((runSh_live hd hpass hlive).trans ?_)
      rw [hsnap, happly]
      rfl
    case held =>
      intro hsnap t ht
      refine congrArg Host.Outcome.next ((runSh_live hd hpass hlive).trans ?_)
      rw [hsnap, ht]
      rfl
    case query => exact congrArg Host.Outcome.next (runSh_live hd hpass hlive)

end Sys2Proof.Proofs
end

section
/-! The memory tiers: their operations (R325-R348) and their events (R330-R342). -/

namespace Sys2Proof.Proofs.MemoryTiers

open Sys2Proof Sys2Proof.Machine DescriptorOps

variable {s : State} {q tag : Nat} {d : Desc} {p : Bytes → Bool} {checks : State → Desc → List (Nat × Bool)}
  {eff run : State → Desc → State}

/-! ## Operations -/

/-- A tier opcode is a checked operation; an effect that names its descriptor by queue and tag is compared at that descriptor. -/
theorem runTier_checked (hd : opDesc s q tag p = some d) (heff : eff s d = run s d) :
    runTier s q tag p checks eff = checked checks rejectTier run s d := by
  simp only [runTier, hd, heff]
  rfl

/-- R325, R330, R332, R343, R628: the operations on pages. -/
theorem tierOps : Claims.TierOps := by
  refine ⟨opRuns_of_checked fun s q tag d hd => ?_, opRuns_of_checked fun s q tag d hd => ?_,
    opRuns_of_checked fun s q tag d hd => ?_, opRuns_of_checked fun s q tag d hd => ?_,
    opRuns_of_checked fun s q tag d hd => ?_, opRuns_of_checked fun s q tag d hd => ?query⟩
  case query =>
    obtain ⟨rfl, rfl⟩ := opDesc_names hd
    exact congrArg Host.Outcome.next (runTier_checked hd rfl)
  all_goals exact congrArg Host.Outcome.next (runTier_checked hd rfl)

/-! ## Objects -/

/-- What the bodies of one operation on objects say of their opcode and op byte. -/
abbrev isObjOp (op : Nat) : Bytes → Bool :=
  fun i => opcode i == 0x8D && (if op = 0 then fld i 0x30 1 == 0 || decide (fld i 0x30 1 > 3) else fld i 0x30 1 == op)

/-- An operation on objects whose checks pass has its effect. -/
theorem runObj_passes {op : Nat} (hd : opDesc s q tag (isObjOp op) = some d) (hpass : firstFail (objChecks s d) = none) :
    runObj op eff q tag s = settle (eff s d) :=
  (runTier_checked hd rfl).trans (checked_passes hpass)

/-- R347, R348: put, get, delete and stat. -/
theorem flashObjects : Claims.FlashObjects := by
  intro s q tag op key d hd hkey hpass
  subst hkey
  refine ⟨?put, ?get, ?delete, ?stat, fun habsent => ⟨?getAbsent, ?deleteAbsent, ?statAbsent⟩⟩
  all_goals rintro rfl
  case put =>
    intro bs cause hread
    change (_ → execTmObjPut q tag s = _) ∧ (_ → ∀ old, _ → (_ → execTmObjPut q tag s = _) ∧ (_ → execTmObjPut q tag s = _))
    rw [execTmObjPut, runObj_passes hd hpass]
    dsimp only
    rw [hread]
    dsimp only
    refine ⟨fun hbad => by rw [if_pos hbad], fun hgood old hold => ?_⟩
    subst hold
    rw [if_neg (not_not.mpr hgood)]
    exact ⟨fun hfull => by rw [if_pos hfull], fun hroom => by rw [if_neg (Nat.not_lt.mpr hroom)]⟩
  case get =>
    intro o ho
    change (_ → execTmObjGet q tag s = _) ∧ (_ → (_ → execTmObjGet q tag s = _) ∧ (_ → execTmObjGet q tag s = _))
    rw [execTmObjGet, runObj_passes hd hpass]
    dsimp only
    rw [ho]
    dsimp only
    refine ⟨fun hpast => by rw [if_pos hpast], fun hinside => ?_⟩
    rw [if_neg (Nat.not_lt.mpr hinside)]
    exact ⟨fun hlost => by rw [if_pos hlost], fun hwhole => by rw [hwhole, if_neg Bool.false_ne_true]⟩
  case delete =>
    intro o ho
    change execTmObjDelete q tag s = _
    rw [execTmObjDelete, runObj_passes hd hpass]
    dsimp only
    rw [ho]
  case stat =>
    intro o ho
    change execTmObjStat q tag s = _
    rw [execTmObjStat, runObj_passes hd hpass]
    rw [ho]
  case getAbsent =>
    change execTmObjGet q tag s = _
    rw [execTmObjGet, runObj_passes hd hpass]
    dsimp only
    rw [habsent]
  case deleteAbsent =>
    change execTmObjDelete q tag s = _
    rw [execTmObjDelete, runObj_passes hd hpass]
    dsimp only
    rw [habsent]
  case statAbsent =>
    change execTmObjStat q tag s = _
    rw [execTmObjStat, runObj_passes hd hpass]
    rw [habsent]

end Sys2Proof.Proofs.MemoryTiers

namespace Sys2Proof.Proofs

open Sys2Proof Sys2Proof.Machine MemoryTiers

/-- Settles O15: every operation passes its checks, and then goes by what it reads or finds. -/
theorem tiers : Obligations.Tiers := ⟨tierOps, flashObjects⟩

/-- Settles O16: each event by the branches of its meaning; a far device with nothing on it loses its pages alone. -/
theorem tierEvents : Obligations.TierEvents := by
  refine ⟨fun s rec m hm => ⟨fun chunks => ?sourceFailed, fun chunks res hres hlost => ?sourceLost, fun chunks hstate => ?targets⟩,
    fun s rec => rfl, fun s mdie hmem => ⟨fun hlive => ?demote, fun hfenced => ?demoteFenced⟩,
    fun s t die mover r hlive hr ht => ?timeout, fun s mdie dev hoff => ?farOff, fun s t mdie dev hmem hok ht hhomes hmoves => ?far⟩
  case sourceFailed =>
    change execMoveCopyDone rec chunks .sourceFailed s = _
    simp [execMoveCopyDone, hm]
  case sourceLost =>
    change execMoveCopyDone rec chunks res s = _
    have hbne : (res != .sourceFailed) = true := by revert hres; cases res <;> decide
    simp [execMoveCopyDone, hm, hres, hlost, hbne]
  case targets =>
    change execMoveCopyDone rec chunks .targetFailed s = _ ∧ (_ → execMoveCopyDone rec chunks .copied s = _) ∧
      (_ → execMoveCopyDone rec chunks .copied s = _)
    simp only [execMoveCopyDone, hm]
    refine ⟨by simp [hstate], fun hdest => by simp [hstate, hdest], fun hdest => by simp [hstate, hdest]⟩
  case demote =>
    change execPolicyDemote mdie s = _
    simp only [execPolicyDemote, hmem, hlive, Bool.not_false, Bool.and_true, if_true]
    rfl
  case demoteFenced =>
    change execPolicyDemote mdie s = _
    simp [execPolicyDemote, hfenced]
  case timeout =>
    subst ht
    change (_ → execTierAccessTimeout die mover s = _) ∧ (_ → execTierAccessTimeout die mover s = _)
    simp only [execTierAccessTimeout, hr, hlive, Bool.false_eq_true, if_false]
    exact ⟨fun hwrite => by rw [if_pos hwrite], fun hread => by rw [hread, if_neg Bool.false_ne_true]⟩
  case farOff =>
    change execFarDeviceFail mdie dev s = _
    obtain hmem | hdown := hoff
    · simp [execFarDeviceFail, hmem]
    · simp [execFarDeviceFail, hdown]
  case far =>
    change execFarDeviceFail mdie dev s = _
    rw [execFarDeviceFail, hmem, hok, if_neg (by decide)]
    dsimp only
    rw [← ht, hhomes, List.filter_nil, List.foldl_nil, hmoves, List.filter_nil, List.foldl_nil, hmoves]
    rfl

end Sys2Proof.Proofs
end

section
/-! The movers: their operations (R368-R370), the ends of reads and writes, and the commit of slots (R352-R366). -/

namespace Sys2Proof.Proofs.MoverRules

open Sys2Proof Sys2Proof.Machine DescriptorOps

/-- R368-R370: the operations. -/
theorem moverOps : Claims.MoverOps := by
  refine ⟨opRuns_of_checked fun s q tag d hd => ?copy, opRuns_of_checked fun s q tag d hd => ?fill,
    opRuns_of_checked fun s q tag d hd => ?indexed⟩
  case copy =>
    change execMvCopy q tag s = _
    simp only [execMvCopy, hd]
    rfl
  case fill =>
    change execMvFill q tag s = _
    simp only [execMvFill, hd]
    rfl
  case indexed =>
    change execMvIndexed q tag s = _
    simp only [execMvIndexed, hd]
    rfl

/-- R352: a read that ends is delivered, left to a demand, or waits at a fenced mover. -/
theorem readDone {s : State} {die mover : Nat} {r : Req} (demand bad : Bool) (hr : oldestReq s die mover false = some r) :
    execMoverReadDone die mover demand bad s = .next (if stFenced s die mover then s
      else if isNopf s (fnOf s r.queue r.tag) r.job.geo.va (imageOf s r.queue r.tag) then
        if demand then pump (endRead s die mover r (geoSpans s (fnOf s r.queue r.tag) r.job.geo) true bad)
        else addF s F.MV_CNT_NOPF_NOPF die (mover - 0x28) 1
      else pump (endRead s die mover r (refreshed s r.spans) demand bad)) := by
  rw [execMoverReadDone, hr]

theorem writeAck {s : State} {die mover : Nat} {r : Req} (hr : oldestReq s die mover true = some r) :
    execMoverWriteAck die mover s = .next (if stFenced s die mover then s else settle (endWrite s die mover r)) := by
  rw [execMoverWriteAck, hr]

/-- R364-R366: a slot at the tail is committed, or fetched again where it is stale or aged. -/
theorem slotCommit {s : State} {die stream : Nat} {x : Slot}
    (hx : s.slots.find? (fun x => x.die == die && x.stream == stream) = some x) :
    execSlotCommit die stream s = .next (if !tailReached s die stream then s
      else if isStale s x || (x.aged && decide (x.fetches < 5)) then
        if behindWrite s die (geoSpans s x.fn x.job.geo) then s
        else { (refetchAll die stream s.slots true s).2 with slots := (refetchAll die stream s.slots true s).1 }
      else settle (commitSlot s x)) := by
  rw [execSlotCommit, hx]

/-- R352-R366: the events. -/
theorem moverEvents : Claims.MoverEvents := by
  refine ⟨fun s die mover demand bad r hr => ?read, fun s t die mover r hr => ?write, fun s die stream x hx => ?slot,
    fun s die stream => rfl⟩
  case read =>
    refine ⟨fun hfenced => (readDone demand bad hr).trans ?_, fun hlive hpf => (readDone demand bad hr).trans ?_,
      fun hlive hnopf => ⟨(readDone false bad hr).trans ?_, (readDone true bad hr).trans ?_⟩⟩
    · rw [if_pos hfenced]
    · rw [hlive, hpf, if_neg Bool.false_ne_true, if_neg Bool.false_ne_true]
    all_goals rw [hlive, hnopf, if_neg Bool.false_ne_true, if_pos rfl]
    · rw [if_neg Bool.false_ne_true]
    · rw [if_pos rfl]
  case write =>
    refine ⟨fun hfenced => (writeAck hr).trans (by rw [if_pos hfenced]), fun hlive => ⟨fun hgood ht => ?stored, fun hbad => ?failed⟩⟩
    all_goals
      refine (writeAck hr).trans ?_
      rw [hlive, if_neg Bool.false_ne_true, endWrite]
    case stored => rw [if_pos hgood, hgood, ht]
    case failed => rw [if_neg hbad]
  case slot =>
    refine ⟨fun hfar => (slotCommit hx).trans (by rw [hfar, if_pos (by decide)]), fun htail hagain => ?again,
      fun htail hfresh => (slotCommit hx).trans
        (by rw [htail, if_neg (by decide), hfresh, if_neg Bool.false_ne_true])⟩
    have hslot := slotCommit hx
    rw [htail, if_neg (by decide), if_pos hagain] at hslot
    refine ⟨fun hbehind => hslot.trans (by rw [if_pos hbehind]), fun ys t hclear hall => hslot.trans ?_⟩
    rw [hclear, if_neg Bool.false_ne_true, hall]

end Sys2Proof.Proofs.MoverRules

namespace Sys2Proof.Proofs

open Sys2Proof Sys2Proof.Machine MoverRules

/-- Settles O17: the operations are checked and run; reads, writes and slots end by the rule of each. -/
theorem movers : Obligations.Movers := ⟨moverOps, moverEvents⟩

end Sys2Proof.Proofs
end

section
/-! The Eskan ports (R380, R408-R412, R459), and the routing banks and drains of a fabric die (R402, R457-R460, R500). -/

namespace Sys2Proof.Proofs.PortRules

open Sys2Proof Sys2Proof.Machine Sys2Proof.Laws

variable {s : State} {src : Src} {die off v : Nat} {k : State → State}

/-- A write that reaches a die other than a compute die is done: there is nothing to wake. -/
theorem pfWrite_notComp (hd : isComp die = false) (h : reaches s die) (hp : isPfSrc src = true) : pfWrite s src die off v k = k s :=
  pfWrite_awake h hp (wakeByAccess_notComp hd)

/-- A port is a fabric die's. -/
theorem isComp_portDie (p : Nat) : isComp (portDie p) = false := by
  unfold isComp portDie
  split <;> exact decide_eq_false (by omega)

theorem isComp_of_isFab (h : isFab die = true) : isComp die = false := by
  simp only [isFab, Bool.and_eq_true, decide_eq_true_eq] at h
  simp only [isComp, decide_eq_false_iff_not]
  omega

/-! ## Flits -/

/-- R380: a flit passes its FEC, its CRC and its number in turn. -/
theorem flitReceive : Claims.FlitReceive := by
  intro s t port corrected flit
  change (_ → ∀ fec, execFlitReceive port flit fec corrected s = _) ∧ (_ → _ → execFlitReceive port flit false corrected s = _ ∧
    (_ → execFlitReceive port flit true corrected s = _) ∧ (_ → _ → execFlitReceive port flit true corrected s = _) ∧
    (_ → _ → execFlitReceive port flit true corrected s = _))
  refine ⟨fun hdown fec => by rw [execFlitReceive, hdown, if_pos (by decide)], fun hup ht => ?_⟩
  simp only [execFlitReceive, hup, ← ht, Bool.not_true, Bool.not_false, Bool.false_eq_true, if_true, if_false]
  refine ⟨trivial, fun hcrc => ?_, fun hcrc hseq => ?_, fun hcrc hseq => ?_⟩
  · rw [hcrc, if_pos (by decide)]
  · rw [hcrc, if_neg (by decide), if_pos hseq]
  · rw [hcrc, if_neg (by decide), if_neg (not_not.mpr hseq)]

/-! ## Events -/

/-- R408-R412, R459: each event acts in the states it is for. -/
theorem portEvents : Claims.PortEvents := by
  intro s src port value
  refine ⟨fun hr hp => ⟨fun hon => ?enable, fun hoff => ?disable⟩, fun lanes t htraining hlanes ht => ?trained,
    fun lanes hnone => ?notTrained, fun htraining => ?trainingTimeout, fun hother => ?noTrainingTimeout,
    fun hactive hfirst t ht => ?margining, fun lane hactive hlane => ?laneError, fun hretrain hfree => ?retrain,
    fun hnone => ?noRetrain, fun hactive => ?lost, fun hlost => ?hold, fun t ht => ?partner⟩
  case enable =>
    change execPortEnable src port value s = _
    rw [execPortEnable, if_pos hon, pfWrite_notComp (isComp_portDie port) hr hp]
  case disable =>
    change execPortDisable src port value s = _
    rw [execPortDisable, hoff, if_neg Bool.false_ne_true, pfWrite_notComp (isComp_portDie port) hr hp]
  case trained =>
    change execPortTrained port lanes s = _
    subst ht
    exact congrArg Host.Outcome.next (if_neg (by simp only [htraining]; omega))
  case notTrained =>
    exact congrArg Host.Outcome.next (if_pos hnone)
  case trainingTimeout => exact congrArg Host.Outcome.next (if_pos htraining)
  case noTrainingTimeout => exact congrArg Host.Outcome.next (if_neg hother)
  case margining =>
    subst ht
    exact congrArg Host.Outcome.next (if_pos ⟨hactive, by rw [hfirst]; rfl⟩)
  case laneError =>
    change (_ → execLaneErrorRetrain port lane s = _) ∧ (_ → execLaneErrorRetrain port lane s = _)
    have hin : ¬ (portState s port ≠ 2 ∨ (!(usedLanes s port).contains lane) = true) := by rw [hactive, hlane]; decide
    rw [execLaneErrorRetrain, if_neg hin]
    exact ⟨fun hnarrow => by rw [if_pos hnarrow], fun hwide => by rw [hwide, if_neg Bool.false_ne_true]⟩
  case retrain =>
    intro t ht
    subst ht
    exact ⟨congrArg Host.Outcome.next (if_neg (by rw [hretrain, hfree]; decide)),
      congrArg Host.Outcome.next (if_pos ⟨hretrain, by rw [hfree]; rfl⟩)⟩
  case noRetrain =>
    refine ⟨congrArg Host.Outcome.next (if_pos hnone), congrArg Host.Outcome.next (if_neg ?_)⟩
    rintro ⟨hretrain, hfree⟩
    obtain hother | hmargin := hnone
    · exact hother hretrain
    · rw [hmargin] at hfree
      cases hfree
  case lost => exact ⟨congrArg Host.Outcome.next (if_pos hactive), congrArg Host.Outcome.next (if_pos hactive)⟩
  case hold =>
    change (_ → execRetrainHoldExpiry port s = _) ∧ (_ → execRetrainHoldExpiry port s = _)
    rw [execRetrainHoldExpiry, if_pos hlost]
    exact ⟨fun hon => by rw [if_pos hon], fun hoff => by rw [hoff, if_neg Bool.false_ne_true]⟩
  case partner =>
    subst ht
    exact ⟨fun hstart => congrArg Host.Outcome.next (if_pos hstart),
      fun hstay => congrArg Host.Outcome.next (if_neg (by rw [hstay]; exact Bool.false_ne_true))⟩

/-! ## Routing banks and drains -/

/-- R402, R500: the banks and the tick. -/
theorem routingControl : Claims.RoutingControl := by
  intro s src fdie hf
  refine ⟨fun hr hp => ⟨?copy, ?swap⟩, fun hbusy => congrArg Host.Outcome.next (if_pos ⟨hf, hbusy⟩),
    fun hidle => congrArg Host.Outcome.next (if_neg fun h => Bool.false_ne_true (hidle.symm.trans h.2)),
    fun port hup => ?send, fun port hdown => ?noSend⟩
  case copy =>
    change execRouteCopy src fdie s = _
    rw [execRouteCopy, if_pos hf, pfWrite_notComp (isComp_of_isFab hf) hr hp]
  case swap =>
    change execRouteSwap src fdie s = _
    rw [execRouteSwap, if_pos hf, pfWrite_notComp (isComp_of_isFab hf) hr hp]
  case send =>
    change execTickAlignSend port s = _
    rw [execTickAlignSend, if_pos hup]
  case noSend =>
    change execTickAlignSend port s = _
    rw [execTickAlignSend, hdown, if_neg Bool.false_ne_true]

/-- R458-R460: drains. -/
theorem drainControl : Claims.DrainControl := by
  intro s src fdie value hf
  refine ⟨fun hr hp => ⟨fun hgo => ?go, fun hrel => ?release⟩, fun hnone => ?noGo, fun hnone => ?noRelease,
    fun hactive => ⟨fun hempty => ?complete, fun hholds => ?waits, fun hdrained => ?drained, fun hlate => ?late⟩,
    fun hidle => ⟨?idleComplete, ?idleExpiry⟩⟩
  case go =>
    change execDrainGo src fdie value s = _
    rw [execDrainGo, hf, hgo, if_pos (by decide), pfWrite_notComp (isComp_of_isFab hf) hr hp]
  case release =>
    change execDrainRelease src fdie value s = _
    rw [execDrainRelease, hf, hrel, if_pos (by decide), pfWrite_notComp (isComp_of_isFab hf) hr hp]
  case noGo =>
    change execDrainGo src fdie value s = _
    rw [execDrainGo, hnone, Bool.and_false, if_neg Bool.false_ne_true]
  case noRelease =>
    change execDrainRelease src fdie value s = _
    rw [execDrainRelease, hnone, Bool.and_false, if_neg Bool.false_ne_true]
  case complete => exact congrArg Host.Outcome.next (if_pos (by rw [hf, hactive, hempty]; rfl))
  case waits => exact congrArg Host.Outcome.next (if_neg (by rw [hf, hactive, hholds]; exact Bool.false_ne_true))
  case drained =>
    change execDrainHoldExpiry fdie s = _
    rw [execDrainHoldExpiry, hf, hactive, if_pos (by decide), if_pos hdrained]
  case late =>
    change execDrainHoldExpiry fdie s = _
    rw [execDrainHoldExpiry, hf, hactive, if_pos (by decide), hlate, if_neg Bool.false_ne_true]
  case idleComplete => exact congrArg Host.Outcome.next (if_neg (by rw [hidle, Bool.and_false, Bool.false_and]; exact Bool.false_ne_true))
  case idleExpiry => exact congrArg Host.Outcome.next (if_neg (by rw [hidle, Bool.and_false]; exact Bool.false_ne_true))

end Sys2Proof.Proofs.PortRules

namespace Sys2Proof.Proofs

open Sys2Proof Sys2Proof.Machine PortRules

/-- Settles O18: a flit passes its checks in turn, and an event acts in the states it is for. -/
theorem ports : Obligations.Ports := ⟨flitReceive, portEvents⟩

/-- Settles O21: a write of a fabric die's registers wakes nothing, and the ends of copies and drains go by their flags. -/
theorem routingAndDrain : Obligations.RoutingAndDrain := ⟨routingControl, drainControl⟩

end Sys2Proof.Proofs
end

section
/-! Transactions and notices that arrive, and the timers of flows and multicast transfers (R395-R407, R520). -/

namespace Sys2Proof.Proofs.FabricRules

open Sys2Proof Sys2Proof.Machine

/-- A transaction of its command's type is received. -/
theorem arrive_same {s : State} {port : Option Nat} {t : Tx} {k : Nat} (h : t.type = k) : arrive k port t s = settle (recvTx s port t) :=
  if_neg (not_not.mpr h)

/-- A transaction of another type is none of its command's. -/
theorem arrive_other {s : State} {port : Option Nat} {t : Tx} {k : Nat} (h : t.type ≠ k) : arrive k port t s = s := if_pos h

/-- R395-R397, R405-R407: the seven types that a transaction may have. -/
theorem transactions : Claims.Transactions := by
  intro s port t k c hc
  have hexec : exec c s = .next (arrive k port t s) := by
    obtain ⟨rfl, rfl⟩ | ⟨rfl, rfl⟩ | ⟨rfl, rfl⟩ | ⟨rfl, rfl⟩ | ⟨rfl, rfl⟩ | ⟨rfl, rfl⟩ | ⟨rfl, rfl⟩ := hc <;> rfl
  exact ⟨fun hsame => by rw [hexec, arrive_same hsame], fun hother => by rw [hexec, arrive_other hother]⟩

/-- R520: notices. -/
theorem noticeArrives : Claims.NoticeArrives := by
  intro s p n
  refine ⟨fun hup => ?up, fun hdown => ?down, rfl⟩
  case up =>
    change execNotice (some p) n s = _
    simp [execNotice, hup]
  case down =>
    change execNotice (some p) n s = _
    simp [execNotice, hdown]

/-- The transactions of a sending end that nothing moves for are none. -/
theorem not_idle {f : TxFlow} (h : f.unacked ≠ [] ∨ f.waiting ≠ []) : (f.unacked.isEmpty && f.waiting.isEmpty) = false := by
  simpa [or_iff_not_imp_left] using h

/-- R397, R398, R405-R407: the timers. -/
theorem flowTimers : Claims.FlowTimers := by
  refine ⟨fun s flow f hf => ⟨fun howed => ?ack, fun hnone => ?noAck⟩, fun s flow f hf => ⟨fun hbusy => ?busy, fun hfree => ?notBusy⟩,
    fun s flow f hf hrx => ⟨fun hun hwait => ?txIdle, fun hmoves => ?txMoves⟩,
    fun s flow f htx hf => ⟨fun hnone => ?rxIdle, fun howed => ?rxOwes⟩,
    fun s flow w hw => ⟨fun hheld => ?drained, fun hfree => ?waited⟩, fun s flow f x xs hnone hf hx => ?unacked,
    fun s die xfer r hr => ⟨fun hlate => ?lags, fun hdone => ?lagsNot⟩,
    fun s fdie port group xfer behind idle hbranch hsends hrecvs => ⟨fun hlate => ?prune, fun hbehind hidle => ?keep⟩,
    fun s die xfer m hm => ?retention⟩
  case ack =>
    change execFlowAckTimer flow s = _
    rw [execFlowAckTimer, hf]
    exact congrArg Host.Outcome.next (if_neg howed)
  case noAck =>
    change execFlowAckTimer flow s = _
    rw [execFlowAckTimer, hf]
    exact congrArg Host.Outcome.next (if_pos hnone)
  case busy =>
    change execFlowBusyRetry flow s = _
    rw [execFlowBusyRetry, hf]
    exact congrArg Host.Outcome.next (if_neg (by rw [hbusy]; decide))
  case notBusy =>
    change execFlowBusyRetry flow s = _
    rw [execFlowBusyRetry, hf]
    exact congrArg Host.Outcome.next (if_pos (by rw [hfree]; decide))
  case txIdle =>
    change execFlowIdleRelease flow s = _
    simp only [execFlowIdleRelease, hf, hun, hwait, List.isEmpty_nil, Bool.and_self, if_true, hrx]
  case txMoves =>
    change execFlowIdleRelease flow s = _
    simp only [execFlowIdleRelease, hf, not_idle hmoves, Bool.false_eq_true, if_false, hrx]
  case rxIdle =>
    change execFlowIdleRelease flow s = _
    simp only [execFlowIdleRelease, htx, hf, if_pos hnone]
  case rxOwes =>
    change execFlowIdleRelease flow s = _
    simp only [execFlowIdleRelease, htx, hf, if_neg howed]
  case drained =>
    change execLossLimitExpiry flow s = _
    simp only [execLossLimitExpiry, hw, hheld, if_true]
  case waited =>
    change execLossLimitExpiry flow s = _
    simp only [execLossLimitExpiry, hw, hfree, Bool.false_eq_true, if_false]
  case unacked =>
    change execLossLimitExpiry flow s = _
    simp only [execLossLimitExpiry, hnone, hf, hx]
  case lags =>
    change execMulticastLagTimeout die xfer s = _
    simp [execMulticastLagTimeout, hr, hlate]
  case lagsNot =>
    change execMulticastLagTimeout die xfer s = _
    rw [execMulticastLagTimeout, hr]
    exact congrArg Host.Outcome.next (if_pos hdone)
  case prune =>
    change execMulticastBranchPrune fdie port group xfer behind idle s = _
    have hlimit : (decide (behind ≥ getF s F.FAB_MC_LAG_FLITS fdie) || decide (idle ≥ getF s F.FAB_MC_LAG_TIME fdie)) = true := by
      simpa using hlate
    rw [execMulticastBranchPrune]
    dsimp only
    rw [hbranch, hlimit, hsends, hrecvs]
    rfl
  case keep =>
    change execMulticastBranchPrune fdie port group xfer behind idle s = _
    have hlimit : (decide (behind ≥ getF s F.FAB_MC_LAG_FLITS fdie) || decide (idle ≥ getF s F.FAB_MC_LAG_TIME fdie)) = false := by
      simp [hbehind, hidle]
    rw [execMulticastBranchPrune]
    dsimp only
    rw [hlimit, Bool.and_false]
    rfl
  case retention =>
    change execRetentionLimitExpiry die xfer s = _
    simp only [execRetentionLimitExpiry, hm]

end Sys2Proof.Proofs.FabricRules

namespace Sys2Proof.Proofs

open Sys2Proof Sys2Proof.Machine FabricRules

/-- Settles O20: transactions are received by type, notices by their port, and each timer acts on the flow or transfer it finds. -/
theorem fabric : Obligations.Fabric := ⟨transactions, noticeArrives, flowTimers⟩

end Sys2Proof.Proofs
end

section
/-! The collectives: their operations (R418-R445), control records and the timers of calls (R427-R434). -/

namespace Sys2Proof.Proofs.CollectiveRules

open Sys2Proof Sys2Proof.Machine DescriptorOps

variable {s : State} {q tag : Nat} {d : Desc}

/-! ## Communicators and calls -/

/-- R418: a definition passes its checks, the read of its list, its own place in it and the reserved bits. -/
theorem communicators : Claims.Communicators := by
  refine ⟨fun s q tag d b cause hd hread => ?define, fun s q tag d hd => ?retire⟩
  case define =>
    change (∀ r, _ → execRdCommDefine q tag s = _) ∧ (_ → (_ → execRdCommDefine q tag s = _) ∧ (_ → ∀ ms me, _ → _ →
      (_ → execRdCommDefine q tag s = _) ∧ (_ → _ → _ → execRdCommDefine q tag s = _) ∧ (_ → _ → _ → execRdCommDefine q tag s = _)))
    rw [execRdCommDefine, hd]
    dsimp only
    refine ⟨fun r hfail => by rw [hfail], fun hpass => ?_⟩
    rw [hpass]
    dsimp only
    rw [hread]
    dsimp only
    refine ⟨fun hbad => by rw [if_pos hbad], fun hgood ms me hms hme => ?_⟩
    rw [if_neg (not_not.mpr hgood), ← hms, ← hme]
    refine ⟨fun hnot => by rw [if_pos hnot], fun hmod hdie hbad => ?_, fun hmod hdie hok => ?_⟩
    · rw [if_neg (not_or.mpr ⟨not_not.mpr hmod, not_not.mpr hdie⟩), if_pos hbad]
    · rw [if_neg (not_or.mpr ⟨not_not.mpr hmod, not_not.mpr hdie⟩), hok, if_neg Bool.false_ne_true]
  case retire =>
    change (∀ r, _ → execRdCommRetire q tag s = _) ∧ (_ → execRdCommRetire q tag s = _)
    rw [execRdCommRetire, hd]
    dsimp only
    exact ⟨fun r hfail => by rw [hfail], fun hpass => by rw [hpass]⟩

variable {p : Bytes → Bool} {checks : State → Desc → List (Nat × Bool)}

/-- A call whose checks need nothing from memory starts, or ends with the reason of the check that fails. -/
theorem runRd_desc {slotAt : Nat} (hd : opDesc s q tag p = some d) :
    (firstFail (checks s d) = none → runRd p checks slotAt q tag s = startCall s d (fld d.image slotAt 1) [] true) ∧
    (∀ r, firstFail (checks s d) = some r → runRd p checks slotAt q tag s = settle (rejectRd s d r)) := by
  simp only [runRd, hd]
  exact ⟨fun hpass => by rw [hpass], fun r hfail => by rw [hfail]⟩

/-- R425, R436, R444, R445: the four calls. -/
theorem collectiveCalls : Claims.CollectiveCalls := by
  intro s q tag slotAt d p checks c hc hd
  have hexec : exec c s = .next (runRd p checks slotAt q tag s) := by
    obtain ⟨rfl, rfl, rfl, rfl⟩ | ⟨rfl, rfl, rfl, rfl⟩ | ⟨rfl, rfl, rfl, rfl⟩ | ⟨rfl, rfl, rfl, rfl⟩ := hc <;> rfl
  obtain ⟨hpass, hfail⟩ := runRd_desc (checks := checks) (slotAt := slotAt) hd
  exact ⟨fun h => by rw [hexec, hpass h], fun r h => by rw [hexec, hfail r h]⟩

/-- A call that reads a list passes its checks, the read, and the checks of the entries. -/
theorem runListed_desc {op slotAt listAt k : Nat} {count : Bytes → Nat} {more : State → Desc → List Bytes → List (Nat × Bool)}
    {b : Bytes} {cause : Nat} (hd : opDesc s q tag (fun i => opcode i == op) = some d)
    (hread : jobRead s d.fn (addrOf (fld d.image listAt 8)) (k * count d.image) = (b, cause)) :
    (∀ r, firstFail (checks s d) = some r → runListed op checks slotAt listAt k count more q tag s = settle (rejectRd s d r)) ∧
    (firstFail (checks s d) = none →
      (cause ≠ 0 → runListed op checks slotAt listAt k count more q tag s =
        settle (completeDesc s d (causeStatus cause) (seqStation d) [] 0)) ∧
      (cause = 0 →
        (∀ r, firstFail (more s d (cutList k (count d.image) b)) = some r →
          runListed op checks slotAt listAt k count more q tag s = settle (rejectRd s d r)) ∧
        (firstFail (more s d (cutList k (count d.image) b)) = none → runListed op checks slotAt listAt k count more q tag s =
          startCall s d (fld d.image slotAt 1) (cutList k (count d.image) b) true))) := by
  simp only [runListed, hd, hread]
  refine ⟨fun r hfail => by rw [hfail], fun hpass => ?_⟩
  simp only [hpass]
  refine ⟨fun hbad => by rw [if_pos hbad], fun hgood => ?_⟩
  rw [if_neg (not_not.mpr hgood)]
  exact ⟨fun r hfail => by rw [hfail], fun hlist => by rw [hlist]⟩

/-- R433, R439: a gather and a permute. -/
theorem listedCalls : Claims.ListedCalls := by
  refine ⟨fun s q tag n d b cause hd hn hread => ?gather, fun s q tag n d b cause hd hn hread => ?permute⟩
  all_goals subst hn
  case gather =>
    obtain ⟨hfail, hpass⟩ := runListed_desc (checks := gatherChecks) (slotAt := 0x28)
      (count := fun im => if fld im 0x29 1 = 2 then fld im 0x2A 2 else 0)
      (more := fun s d es => listChecks (((getComm s (qDie d.queue) (fld d.image 0x28 1)).map (·.n)).getD 0) es) hd hread
    refine ⟨fun r h => congrArg Host.Outcome.next (hfail r h), fun h => ?_⟩
    obtain ⟨hbad, hgood⟩ := hpass h
    refine ⟨fun h => congrArg Host.Outcome.next (hbad h), fun h m hm => ?_⟩
    subst hm
    obtain ⟨hentry, hstart⟩ := hgood h
    exact ⟨fun r h => congrArg Host.Outcome.next (hentry r h), fun h => congrArg Host.Outcome.next (hstart h)⟩
  case permute =>
    obtain ⟨hfail, hpass⟩ := runListed_desc (checks := permuteChecks) (slotAt := 0x1E) (count := fun im => fld im 0x18 4)
      (more := fun _ _ es => permuteMapChecks es) hd hread
    refine ⟨fun r h => congrArg Host.Outcome.next (hfail r h), fun h => ?_⟩
    obtain ⟨hbad, hgood⟩ := hpass h
    refine ⟨fun h => congrArg Host.Outcome.next (hbad h), fun h => ?_⟩
    obtain ⟨hentry, hstart⟩ := hgood h
    exact ⟨fun r h => congrArg Host.Outcome.next (hentry r h), fun h => congrArg Host.Outcome.next (hstart h)⟩

/-! ## Epochs and the routing table -/

/-- An op of RD_EXT is a checked operation; an effect that names its die by the queue is compared at the descriptor's own. -/
theorem runExt_checked {p : Nat → Bool} {eff run : State → Desc → State}
    (hd : opDesc s q tag (fun i => opcode i == 0x67 && p (fld i 0x10 1)) = some d) (heff : eff s d = run s d) :
    runExt p eff q tag s = checked (fun _ d => extChecks d.image) rejectRd run s d := by
  simp only [runExt, hd, heff]
  rfl

/-- R439, R441, R442: epochs, and the routing table. -/
theorem epochsAndRouting : Claims.EpochsAndRouting := by
  refine ⟨fun s die fn c cm hc hcm => ⟨fun hgone => ?notInFlight, fun hflies hfirst => ?advance⟩, opRuns_of_checked fun s q tag d hd => ?retire,
    opRuns_of_checked fun s q tag d hd => ?write, opRuns_of_checked fun s q tag d hd => ?swap, opRuns_of_checked fun s q tag d hd => ?copy⟩
  case notInFlight =>
    change execPermuteEpochAdvance die fn s = _
    rw [execPermuteEpochAdvance, hc]
    dsimp only
    rw [hcm]
    exact congrArg Host.Outcome.next (if_pos (by rw [hgone]; rfl))
  case advance =>
    change execPermuteEpochAdvance die fn s = _
    rw [execPermuteEpochAdvance, hc]
    dsimp only
    rw [hcm, hfirst]
    exact congrArg Host.Outcome.next (if_neg (by rw [hflies]; exact Bool.false_ne_true))
  case retire =>
    obtain ⟨rfl, rfl⟩ := opDesc_names hd
    change execRdEpochRetire _ _ s = _
    simp only [execRdEpochRetire, hd]
    rfl
  case write =>
    obtain ⟨rfl, rfl⟩ := opDesc_names hd
    exact congrArg Host.Outcome.next (runExt_checked (p := fun op => op != 1 && op != 2) hd rfl)
  case swap =>
    obtain ⟨rfl, rfl⟩ := opDesc_names hd
    exact congrArg Host.Outcome.next (runExt_checked (p := fun op => op == 1) hd rfl)
  case copy =>
    obtain ⟨rfl, rfl⟩ := opDesc_names hd
    exact congrArg Host.Outcome.next (runExt_checked (p := fun op => op == 2) hd rfl)

/-! ## Control records and timers -/

section Records

variable {die k : Nat} {r : CtlRec} {cm : Comm} {note : State → State}

/-- A record to a slot that is not defined changes nothing. -/
theorem recArrives_noSlot (h : getComm s die r.slot = none) : recArrives k s die r note = s := by
  rw [recArrives, h]

/-- A record of another kind, of no member, or to a fenced engine changes nothing. -/
theorem recArrives_refused (h : getComm s die r.slot = some cm) (hbad : r.kind ≠ k ∨ r.rank ≥ cm.n ∨ stFenced s die 0x20 = true) :
    recArrives k s die r note = s := by
  rw [recArrives, h]
  exact if_pos hbad

/-- A record is stored in its sender's place and noted. -/
theorem recArrives_stored (h : getComm s die r.slot = some cm) (hkind : r.kind = k) (hrank : r.rank < cm.n)
    (hlive : stFenced s die 0x20 = false) :
    recArrives k s die r note = settle (note (jobWrite s die cm.owner (cm.rx + 64 * r.rank) (recBytes r) 0).1) := by
  rw [recArrives, h]
  exact if_neg (by simp [hkind, hrank, hlive])

end Records

/-- How a record of kind `k` is noted: a request is served, and every other one kept as a notice (R434). -/
def noted (k die : Nat) (r : CtlRec) (s : State) : State := if k = 6 then addServe s die r else addNote s die r

/-- R427-R429, R432, R434, R444: control records. -/
theorem controlRecords : Claims.ControlRecords := by
  intro s die k r c hc
  have hexec : exec c s = .next (recArrives k s die r (noted k die r)) := by
    obtain ⟨rfl, rfl⟩ | ⟨rfl, rfl⟩ | ⟨rfl, rfl⟩ | ⟨rfl, rfl⟩ | ⟨rfl, rfl⟩ | ⟨rfl, rfl⟩ := hc <;> rfl
  rw [hexec]
  refine ⟨fun hnone => by rw [recArrives_noSlot hnone], fun cm hcm => ⟨fun hbad => by rw [recArrives_refused hcm hbad],
    fun hkind hrank hlive t ht => ?_⟩⟩
  subst ht
  rw [recArrives_stored hcm hkind hrank hlive]
  exact ⟨fun hother => by rw [noted, if_neg hother], fun hserve => by rw [noted, if_pos hserve]⟩

/-- R428, R432: the timers of calls. -/
theorem callTimers : Claims.CallTimers := by
  refine ⟨fun s die slot seq c cm hc hcm hwindow hflies => ?window, fun s die slot seq c hc => ?close⟩
  case window =>
    change (_ → _ → _ → _ → _ → execStragglerWindowClose die slot seq s = _) ∧ (_ → _ → execStragglerWindowClose die slot seq s = _) ∧
      (_ → _ → _ → ∀ d, _ → execStragglerWindowClose die slot seq s = _)
    have hopen : ¬ (callWindow c = 0 ∨ (!inFlight s c) = true) := by simp [hwindow, hflies]
    simp only [execStragglerWindowClose, hc, hcm]
    rw [if_neg hopen]
    refine ⟨fun hred hroot hnoClose hnone hwaits => ?root, fun hred hother => ?member, fun hgather hmode hfresh d hd => ?gather⟩
    case root => rw [if_pos hred, hroot, hnoClose, hnone, hwaits, if_pos (by decide)]
    case member =>
      have hnot : (decide (cm.rank = 0) && (closeOf s c).isNone && c.closing.isNone && !bit (rCtl c) 3) = false := by
        rw [decide_eq_false hother, Bool.false_and, Bool.false_and, Bool.false_and]
      rw [if_pos hred, hnot, if_neg Bool.false_ne_true]
    case gather => rw [if_neg hgather, if_neg (by simp [hmode, hfresh]), hd]
  case close =>
    change (_ → _ → _ → execCloseTimeout die slot seq s = _) ∧ (_ → execCloseTimeout die slot seq s = _)
    simp only [execCloseTimeout, hc]
    refine ⟨fun hflies hnone hsent => ?_, fun hgone => ?_⟩
    · rw [hflies, hnone, decide_eq_true hsent, if_pos (by decide)]
    · rw [hgone, Bool.false_and, Bool.false_and, if_neg Bool.false_ne_true]

end Sys2Proof.Proofs.CollectiveRules

namespace Sys2Proof.Proofs

open Sys2Proof Sys2Proof.Machine CollectiveRules

/-- Settles O22: every operation passes its checks in turn, those of its list among them, and then starts its call or has its effect. -/
theorem collectives : Obligations.Collectives := ⟨communicators, collectiveCalls, listedCalls, epochsAndRouting⟩

/-- Settles O23: a record is stored and noted where its slot and member take it, and a timer ends an open call. -/
theorem collectiveEvents : Obligations.CollectiveEvents := ⟨controlRecords, callTimers⟩

end Sys2Proof.Proofs
end

section
/-! What the power entry does as its inputs go and come (R465-R468, R612). -/

namespace Sys2Proof.Proofs.SupplyRules

open Sys2Proof Sys2Proof.Machine Sys2Proof.Laws

variable {s : State} {src : Src} {off v : Nat} {k : State → State}

/-- A write of the managing die's registers that reaches them wakes nothing. -/
theorem pfWrite_die04 (h : reaches s (die04 s)) (hp : isPfSrc src = true) : pfWrite s src (die04 s) off v k = k s :=
  pfWrite_awake h hp (wakeByAccess_notComp isComp_die04)

/-- R465, R467, R468: a main input that falls below its threshold while the module runs. -/
theorem mainInputLoss_falls {volts : Nat} (hrun : s.supply.phase = 0) (hlow : volts < getF s F.PWR_UV_THRESH f0) {t : State}
    (ht : t = updSupply (setF s F.PWR_STATE_MAIN_OK f0 0 0) (fun x => { x with mainAt := 0 })) :
    exec (.mainInputLoss volts) s = .next (if flag t F.PWR_STATE_SRC f0 then t
      else if flag t F.PWR_STATE_BACKUP_OK f0 then supplyNotice (selectInput (addF (updSupply t (fun x =>
          { x with waits := (t.supply.returned != 0 && decide (now t + 1 ≤ t.supply.returned + 100000000)) }))
            F.PWR_CNT_SWITCH_TO_BACKUP f0 0 1) true) 1
      else updSupply t (fun x => { x with phase := 1 })) := by
  subst ht
  exact congrArg Host.Outcome.next (if_neg (not_or.mpr ⟨not_not.mpr hrun, Nat.not_le.mpr hlow⟩))

/-- R465, R468: a return that nothing stands against is made, or held where the last one failed. -/
theorem mainReturn_due (hrun : s.supply.phase = 0) (hsrc : flag s F.PWR_STATE_SRC f0 = true) (hok : flag s F.PWR_STATE_MAIN_OK f0 = true)
    (hat : s.supply.mainAt ≠ 0) : exec .mainReturn s = .next (if s.supply.waits then
      if s.supply.returned != 0 then supplyNotice (addF (updSupply s (fun x => { x with mainAt := 0, returned := 0 }))
        F.PWR_CNT_SWITCH_HELD f0 0 1) 3
      else updSupply s (fun x => { x with mainAt := 0, returned := 0 })
      else returnMain s) :=
  congrArg Host.Outcome.next (if_neg (by simp [hrun, hsrc, hok, hat]))

/-- R467: an input that is valid again before the hold-up is spent. -/
theorem inputRestored_rides {main : Bool} {t : State} (hride : s.supply.phase = 1 ∨ s.supply.phase = 2)
    (ht : t = selectInput (addF (updSupply (setF s (if main then F.PWR_STATE_MAIN_OK else F.PWR_STATE_BACKUP_OK) f0 0 1)
      (fun x => { x with phase := 0, named := [] })) F.PWR_CNT_SWITCH_RIDE f0 0 1) (!main)) :
    exec (.inputRestored main) s = .next (if s.supply.phase == 2 then settle (supplyNotice
      (if flag t F.SN_CFG_FREEZE f0 then freezeFns t (myId t) (s.supply.named.flatMap (fnsOfTag t)) else t) 4) else t) := by
  change execInputRestored main s = _
  rw [execInputRestored, if_neg (by omega), ht]

end Sys2Proof.Proofs.SupplyRules

namespace Sys2Proof.Proofs

open Sys2Proof Sys2Proof.Machine SupplyRules

/-- Settles O24: each event by the phase of the module and the inputs it finds. -/
theorem powerInputs : Obligations.PowerInputs := by
  intro s
  refine ⟨fun volts hnone => congrArg Host.Outcome.next (if_pos hnone), fun volts t hrun hlow ht => ?falls,
    fun hrun hsrc hok hat => ?returns, fun hnone => ?noReturn, fun src value hr hp => ?permit,
    fun hrun => ⟨congrArg Host.Outcome.next (if_neg (not_not.mpr hrun)), congrArg Host.Outcome.next (if_pos hrun)⟩,
    fun hnot => congrArg Host.Outcome.next (if_pos hnot),
    fun hride => ⟨congrArg Host.Outcome.next (if_pos hride), ?presentOpen⟩, fun hnot => congrArg Host.Outcome.next (if_neg hnot),
    fun hhold => congrArg Host.Outcome.next (if_pos hhold),
    fun hnot1 hnot2 => ⟨congrArg Host.Outcome.next (if_neg (not_or.mpr ⟨hnot1, hnot2⟩)),
      fun main => congrArg Host.Outcome.next (if_pos ⟨hnot1, hnot2⟩)⟩,
    fun main hride => ?restored, fun main t hstopped ht => ?restoredTold, fun volts t hrun hhigh hbad ht => ?valid,
    fun volts hnone => ?notValid⟩
  case falls =>
    rw [mainInputLoss_falls hrun hlow ht]
    refine ⟨fun hsrc => by rw [if_pos hsrc], fun hsrc hback => ?_, fun hsrc hback => ?_⟩
    · rw [hsrc, hback, if_neg Bool.false_ne_true, if_neg Bool.false_ne_true]
    · rw [hsrc, if_neg Bool.false_ne_true, if_pos hback]
  case returns =>
    rw [mainReturn_due hrun hsrc hok hat]
    refine ⟨fun hfree => by rw [hfree, if_neg Bool.false_ne_true], fun hwaits hfirst => ?_, fun hwaits hagain => ?_⟩
    · rw [if_pos hwaits, if_pos (by simpa using hfirst)]
    · rw [if_pos hwaits, if_neg (by simpa using hagain)]
  case noReturn => exact congrArg Host.Outcome.next (if_pos (by simpa using hnone))
  case permit =>
    have hexec : exec (.pwrReturnPermit src value) s = _ := congrArg Host.Outcome.next (pfWrite_die04 hr hp)
    rw [hexec]
    refine ⟨fun hnone => congrArg Host.Outcome.next (if_pos (by simpa using hnone)), fun hreturn hwaits hat => ?_,
      fun hreturn hwaits hrun hsrc hok hat => ?_⟩
    all_goals refine congrArg Host.Outcome.next ((if_neg (by simp [hreturn, hwaits])).trans ?_)
    · exact if_neg (by simp [hat])
    · exact if_pos (by simp [hrun, hsrc, hok, hat])
  case presentOpen => exact congrArg Host.Outcome.next ((if_neg (by omega)).trans (if_pos hride))
  case restored =>
    rw [inputRestored_rides (.inl hride) rfl, hride, if_neg (by decide)]
  case restoredTold =>
    rw [inputRestored_rides (.inr hstopped) ht, hstopped, if_pos (by decide)]
    exact ⟨fun hgo => by rw [hgo, if_neg Bool.false_ne_true], fun hfreeze => by rw [if_pos hfreeze]⟩
  case valid =>
    subst ht
    exact congrArg Host.Outcome.next (if_pos ⟨hrun, hhigh, by rw [hbad]; rfl⟩)
  case notValid =>
    refine congrArg Host.Outcome.next (if_neg ?_)
    rintro ⟨hrun, hhigh, hbad⟩
    obtain hnot | hlow | hok := hnone
    · exact hnot hrun
    · omega
    · rw [hok] at hbad
      cases hbad

end Sys2Proof.Proofs
end

section
/-! The budget, the governor of a die (R470-R475, R492), and heat (R472-R481, R620). -/

namespace Sys2Proof.Proofs.GovernorHeat

open Sys2Proof Sys2Proof.Machine Sys2Proof.Laws SupplyRules

/-! ## The governor -/

/-- R470: a step of a die that is due ends, and the ramp after a switch-over goes on where the target is further. -/
theorem oppStepDone_due {s : State} {die : Nat} (hcomp : isComp die = true) (hstep : (govOf s die).stepping = true)
    (hdue : ¬ (targetOpp s die > oppOf s die ∧ (govOf s die).ramp ≠ 0 ∧ now s + 1 < (govOf s die).ramp + 200000)) {t : State}
    (ht : t = updGov s die (fun g => { g with
      stepping := false
      ramp := if (govOf s die).ramp = 0 ∨ targetOpp s die ≤ oppOf s die + 1 then 0 else now s + 1 })) :
    exec (.oppStepDone die) s = .next (startStep (if targetOpp s die > oppOf s die then setOpp t die (oppOf s die + 1)
      else if targetOpp s die < oppOf s die then setOpp t die (oppOf s die - 1) else t) die) := by
  subst ht
  refine congrArg Host.Outcome.next (if_neg ?_)
  rw [hcomp, hstep]
  simpa using hdue

/-- R470, R471, R473, R475: the division, a sample, and the end of a step. -/
theorem governor : Claims.Governor := by
  refine ⟨fun s t draws ht => ?division, fun s t die draw hcomp hlive hawake ht => ?sample, fun s die draw hnone => ?noSample,
    fun s t die hcomp hstep => ⟨fun hup hdue ht => ?up, fun hup hramp hearly => ?early, fun hnotUp ht => ?down⟩,
    fun s die hidle => ?noStep⟩
  case division =>
    subst ht
    rfl
  case sample =>
    have hexec : exec (.dieGovernorSample die draw) s = .next (startStep (if draw > getF t F.GV_POWER_SHARE die then
        cutMore (override t die) die
      else if draw * 100 ≤ getF t F.GV_POWER_SHARE die * 95 then cutLess t die
      else updGov t die (fun g => { g with backAt := 0 })) die) := by
      subst ht
      exact congrArg Host.Outcome.next (if_neg (by simp [hcomp, hlive, hawake]))
    rw [hexec]
    refine ⟨fun hover => by rw [if_pos hover], fun hunder hfar => ?_, fun hunder hnear => ?_⟩
    · rw [if_neg (Nat.not_lt.mpr hunder), if_pos hfar]
    · rw [if_neg (Nat.not_lt.mpr hunder), if_neg (Nat.not_le.mpr hnear)]
  case noSample => exact congrArg Host.Outcome.next (if_pos (by simpa using hnone))
  case up =>
    rw [oppStepDone_due hcomp hstep (by omega) ht, if_pos hup]
  case early => exact congrArg Host.Outcome.next (if_pos (.inr (.inr ⟨hup, hramp, hearly⟩)))
  case down =>
    have hramp : (if (govOf s die).ramp = 0 ∨ targetOpp s die ≤ oppOf s die + 1 then 0 else now s + 1) = 0 := if_pos (by omega)
    have hexec := oppStepDone_due hcomp hstep (by omega) rfl
    rw [hramp, ← ht, if_neg (Nat.not_lt.mpr hnotUp)] at hexec
    rw [hexec]
    exact ⟨fun hless => by rw [if_pos hless], fun heq => by rw [if_neg (by omega)]⟩
  case noStep => exact congrArg Host.Outcome.next (if_pos (.inr (.inl (by rw [hidle]; rfl))))

section Manual

variable {s w : State} {src : Src} {die value off : Nat} {k : State → State}

/-- A manual write that reaches its compute die meets the die as the access woke it. -/
theorem manualWrite (hw : w = wakeByAccess s src die) (hr : reaches s die) (hp : isPfSrc src = true) (hcomp : isComp die = true) :
    (if (!isComp die) = true then s else pfWrite s src die off value k) = k w := by
  rw [hcomp, if_neg (by decide), pfWrite_reaches hr hp, hw]

end Manual

/-- R471: manual mode. -/
theorem manualPoint : Claims.ManualPoint := by
  intro s w t src die value hw hr hp hcomp
  have hset : exec (.gvManualSet src die value) s = _ := congrArg Host.Outcome.next (manualWrite hw hr hp hcomp)
  have hfreq : exec (.gvFreqWrite src die value) s = _ := congrArg Host.Outcome.next (manualWrite hw hr hp hcomp)
  have hvolt : exec (.gvVoltWrite src die value) s = _ := congrArg Host.Outcome.next (manualWrite hw hr hp hcomp)
  refine ⟨fun ht hauto => ?set, fun hauto => ⟨?freqAuto, ?voltAuto⟩,
    fun hmanual => ⟨fun i top hi htop => ?freq, fun hnone => ?noFreq, fun hlow => ?voltLow, fun hhigh => ?voltHigh⟩⟩
  case set =>
    subst ht
    rw [hset]
    refine ⟨fun hoff => congrArg Host.Outcome.next ?_, fun hon hany => congrArg Host.Outcome.next ?_,
      fun hon hnone => congrArg Host.Outcome.next ?_⟩
    · exact (if_neg (by rw [hoff]; exact Bool.false_ne_true)).trans (if_neg (by rw [hauto]; exact Bool.false_ne_true))
    · exact (if_pos hon).trans ((if_neg (by rw [hauto]; exact Bool.false_ne_true)).trans (if_pos hany))
    · exact (if_pos hon).trans ((if_neg (by rw [hauto]; exact Bool.false_ne_true)).trans
        (if_neg (by rw [hnone]; exact Bool.false_ne_true)))
  case freqAuto =>
    rw [hfreq]
    exact congrArg Host.Outcome.next (if_pos (by rw [hauto]; rfl))
  case voltAuto =>
    rw [hvolt]
    exact congrArg Host.Outcome.next (if_pos (by rw [hauto]; rfl))
  case freq =>
    rw [hfreq]
    dsimp only
    rw [hmanual, if_neg (by decide), hi, htop]
    exact ⟨fun hcarried => congrArg Host.Outcome.next (if_pos hcarried),
      fun hover => congrArg Host.Outcome.next (if_neg (Nat.not_le.mpr hover))⟩
  case noFreq =>
    rw [hfreq]
    dsimp only
    rw [hmanual, if_neg (by decide), hnone]
  case voltLow =>
    rw [hvolt]
    exact congrArg Host.Outcome.next ((if_neg (by rw [hmanual]; decide)).trans (if_pos hlow))
  case voltHigh =>
    rw [hvolt]
    exact congrArg Host.Outcome.next ((if_neg (by rw [hmanual]; decide)).trans (if_neg (Nat.not_lt.mpr hhigh)))

/-- R474, R492: the limits. -/
theorem powerLimits : Claims.PowerLimits := by
  intro s src value hr hp
  have hmain : exec (.budgetWrite src false value) s = _ := congrArg Host.Outcome.next (pfWrite_die04 hr hp)
  have hback : exec (.budgetWrite src true value) s = _ := congrArg Host.Outcome.next (pfWrite_die04 hr hp)
  have huv : exec (.pwrUvWrite src value) s = _ := congrArg Host.Outcome.next (pfWrite_die04 hr hp)
  rw [hmain, hback, huv]
  have taken {lo hi : Nat} {a b : State} (h1 : lo ≤ bits value 0 16) (h2 : bits value 0 16 ≤ hi) :
      (if (!sealed s && (decide (bits value 0 16 < lo) || decide (bits value 0 16 > hi))) = true then a else b) = b :=
    if_neg (by simp [Nat.not_lt.mpr h1, Nat.not_lt.mpr h2])
  have refused {lo hi : Nat} {a b : State} (hs : sealed s = false) (h : bits value 0 16 < lo ∨ bits value 0 16 > hi) :
      (if (!sealed s && (decide (bits value 0 16 < lo) || decide (bits value 0 16 > hi))) = true then a else b) = a :=
    if_pos (by simpa [hs] using h)
  have past {lo hi : Nat} {a b : State} (hs : sealed s = true) :
      (if (!sealed s && (decide (bits value 0 16 < lo) || decide (bits value 0 16 > hi))) = true then a else b) = b :=
    if_neg (by simp [hs])
  exact ⟨fun h1 h2 => ⟨congrArg Host.Outcome.next (taken h1 h2), congrArg Host.Outcome.next (taken h1 h2)⟩,
    fun hs h => ⟨congrArg Host.Outcome.next (refused hs h), congrArg Host.Outcome.next (refused hs h)⟩,
    fun h1 h2 => congrArg Host.Outcome.next (taken h1 h2), fun hs h => congrArg Host.Outcome.next (refused hs h),
    fun hs => ⟨congrArg Host.Outcome.next (past hs), congrArg Host.Outcome.next (past hs), congrArg Host.Outcome.next (past hs)⟩⟩

/-! ## Heat -/

/-- R472, R478: the hottest junction of a die that is not fenced. -/
theorem dieTempReading_live {s t : State} {die temp : Nat} (hcomp : isComp die = true) (hlive : dieFenced s die = false)
    (ht : t = setF s F.GV_TEMP_DIE die 0 (sat 255 temp)) :
    exec (.dieTempReading die temp) s = .next (if temp ≥ 115 then showAlert (anyWarm s) (fenceDie (override t die) die 4)
      else showAlert (anyWarm s) (if dieLevel (getF t F.GV_STATE_DIE_LVL die) temp = 2 then
          override (setF t F.GV_STATE_DIE_LVL die 0 (dieLevel (getF t F.GV_STATE_DIE_LVL die) temp)) die
        else setF t F.GV_STATE_DIE_LVL die 0 (dieLevel (getF t F.GV_STATE_DIE_LVL die) temp))) := by
  subst ht
  exact congrArg Host.Outcome.next (if_neg (by simp [hcomp, hlive]))

/-- R478: the clock step of a die that is not fenced and not asleep. -/
theorem throttleClockStep_live {s : State} {die : Nat} (hcomp : isComp die = true) (hlive : dieFenced s die = false)
    (hawake : powerOf s die < 2) :
    exec (.throttleClockStep die) s = .next (startStep (if getF s F.GV_STATE_DIE_LVL die = 2 then
        if (govOf s die).heatCut < 14 then
          addF (updGov s die (fun g => { g with heatCut := g.heatCut + 1 })) F.GV_CNT_THROTTLE_THROTTLE die 0 1
        else s
      else updGov s die (fun g => { g with heatCut := g.heatCut - 1 })) die) :=
  congrArg Host.Outcome.next (if_neg (by simp [hcomp, hlive, hawake]))

/-- R478-R481: a stack in service takes its level from its temperature. -/
theorem stackTempReading_live {s t : State} {stack temp : Nat} (hcomp : isComp (stack / 2) = true)
    (hlive : dieFenced s (stack / 2) = false)
    (ht : t = setF s (if stack % 2 == 0 then F.GV_TEMP_STK0 else F.GV_TEMP_STK1) (stack / 2) 0 (sat 255 temp))
    (hserves : tgetD t.stackState stack 0 ≠ 1) {l : Nat} (hl : l = heatLevel (stackLevel t stack) temp) {u v : State}
    (hu : u = setF t (if stack % 2 == 0 then F.GV_STATE_STK0_LVL else F.GV_STATE_STK1_LVL) (stack / 2) 0 l)
    (hv : v = if stackLevel t stack < 2 ∧ l ≥ 2 then voidMargin (addF u F.GV_CNT_HOT_HOT (stack / 2) 0 1) stack else u) :
    exec (.stackTempReading stack temp) s = .next (showAlert (anyWarm s)
      (if temp ≥ 110 then fenceStack (voidMargin v stack) stack 4 2 else followCritical v stack l)) := by
  subst hv hu hl ht
  exact congrArg Host.Outcome.next ((if_neg (by simp [hcomp, hlive])).trans (if_neg hserves))

/-- R479: the step of a stack in service. -/
theorem hotStackStep_live {s : State} {stack : Nat} (hcomp : isComp (stack / 2) = true) (hlive : dieFenced s (stack / 2) = false)
    (hserves : tgetD s.stackState stack 0 ≠ 1) :
    exec (.hotStackStep stack) s = .next (if stackLevel s stack ≥ 2 then
        if tgetD s.hotStep stack 0 < 2 then { s with hotStep := tins s.hotStep stack (tgetD s.hotStep stack 0 + 1) }
        else if getF s (bandwidth stack) (stack / 2) > 4 then
          setF s (bandwidth stack) (stack / 2) 0 (getF s (bandwidth stack) (stack / 2) - 1)
        else s
      else if getF s (bandwidth stack) (stack / 2) < 8 then
        setF s (bandwidth stack) (stack / 2) 0 (getF s (bandwidth stack) (stack / 2) + 1)
      else { s with hotStep := tput s.hotStep stack (tgetD s.hotStep stack 0 - 1) 0 }) :=
  congrArg Host.Outcome.next (if_neg (by simp [hcomp, hlive, hserves]))

end Sys2Proof.Proofs.GovernorHeat

namespace Sys2Proof.Proofs

open Sys2Proof Sys2Proof.Machine GovernorHeat

/-- Settles O25: the governor's events by draw, share and target; a manual write meets the die it woke; a limit is one comparison. -/
theorem governorRules : Obligations.GovernorRules := ⟨governor, manualPoint, powerLimits⟩

/-- Settles O26: a reading sets its level, and each level or step has its one consequence. -/
theorem thermals : Obligations.Thermals := by
  refine ⟨fun s t die temp hcomp hlive ht => ?die, fun s die hcomp hlive hawake => ?clock, fun s die temp stack hfenced hdie => ?fenced,
    fun s t u stack temp l hcomp hlive ht hserves hl hu => ?stack, fun s stack hcomp hlive hserves => ?step,
    fun s t flow inlet ht => ?coolant, fun s => ?restore⟩
  case die =>
    rw [dieTempReading_live hcomp hlive ht]
    refine ⟨fun htrip => by rw [if_pos htrip], fun hcool l hl => ?_⟩
    rw [if_neg (Nat.not_le.mpr hcool), ← hl]
    exact ⟨fun hthrottle => by rw [if_pos hthrottle, hthrottle], fun hbelow => by rw [if_neg hbelow]⟩
  case clock =>
    rw [throttleClockStep_live hcomp hlive hawake]
    refine ⟨fun hhot hroom => by rw [if_pos hhot, if_pos hroom], fun hhot hmax => ?_, fun hcool => by rw [if_neg hcool]⟩
    rw [if_pos hhot, if_neg (Nat.not_lt.mpr hmax)]
  case fenced =>
    subst hdie
    exact ⟨congrArg Host.Outcome.next (if_pos (.inr hfenced)), congrArg Host.Outcome.next (if_pos (.inr (.inl hfenced))),
      congrArg Host.Outcome.next (if_pos (.inr hfenced)), congrArg Host.Outcome.next (if_pos (.inr (.inl hfenced)))⟩
  case stack =>
    have hexec := stackTempReading_live hcomp hlive ht hserves hl hu rfl
    refine ⟨fun hcool hsame => ?_, fun hcool hwas hhot => ?_, fun htrip hwas => ?_⟩
    · rw [hexec, if_neg (Nat.not_le.mpr hcool), if_neg (by omega)]
    · rw [hexec, if_neg (Nat.not_le.mpr hcool), if_pos ⟨hwas, hhot⟩]
    · rw [hexec, if_pos htrip, if_neg (by omega)]
  case step =>
    rw [hotStackStep_live hcomp hlive hserves]
    refine ⟨fun hhot hfirst => ?_, fun hhot hlater hwide => ?_, fun hhot hlater hleast => ?_, fun hcool hless => ?_, fun hcool hfull => ?_⟩
    · rw [if_pos hhot, if_pos hfirst]
    · rw [if_pos hhot, if_neg (Nat.not_lt.mpr hlater), if_pos hwide]
    · rw [if_pos hhot, if_neg (Nat.not_lt.mpr hlater), if_neg (Nat.not_lt.mpr hleast)]
    · rw [if_neg (Nat.not_le.mpr hcool), if_pos hless]
    · rw [if_neg (Nat.not_le.mpr hcool), if_neg (Nat.not_lt.mpr hfull)]
  case coolant =>
    subst ht
    exact ⟨fun hbad hok => congrArg Host.Outcome.next (if_pos ⟨hbad, hok⟩),
      fun hflow hinlet => congrArg Host.Outcome.next (if_neg (by omega))⟩
  case restore =>
    refine ⟨fun hbad hflow hinlet => congrArg Host.Outcome.next (if_pos ⟨by rw [hbad]; rfl, hflow, hinlet⟩),
      fun hnone => congrArg Host.Outcome.next (if_neg ?_)⟩
    rintro ⟨hbad, hflow, hinlet⟩
    obtain hok | hlow | hwarm := hnone
    · rw [hok] at hbad
      cases hbad
    · omega
    · omega

end Sys2Proof.Proofs
end

section
/-! How a die enters Grey and Charcoal, and what wakes it (R484-R490). -/

namespace Sys2Proof.Proofs.PowerModes

open Sys2Proof Sys2Proof.Machine

variable {s : State} {die k mode : Nat}

/-! ## Modes (R484) -/

/-- GV_PS_TARGET names the state of an idle die. -/
theorem firmwareMode_target (hidle : dieIdle s die = true)
    (ht : getF s F.GV_PS_TARGET_TARGET die = 1 ∨ getF s F.GV_PS_TARGET_TARGET die = 2) :
    firmwareMode s die mode = getF s F.GV_PS_TARGET_TARGET die :=
  if_pos (by simpa [hidle] using ht)

/-- Elsewhere the mode is the one the sequencer was given, of which 3 reads as 0. -/
theorem firmwareMode_given
    (h : dieIdle s die = false ∨ getF s F.GV_PS_TARGET_TARGET die = 0 ∨ getF s F.GV_PS_TARGET_TARGET die > 2) :
    firmwareMode s die mode = if mode % 4 = 3 then 0 else mode % 4 := by
  refine if_neg ?_
  simp only [Bool.and_eq_true, Bool.or_eq_true, beq_iff_eq]
  rintro ⟨hidle, htarget⟩
  obtain hbusy | hother := h
  · rw [hbusy] at hidle
    cases hidle
  · omega

/-- A wait is taken on a compute die that is not fenced and not asleep. -/
theorem sequencerPowerWait_awake (hcomp : isComp die = true) (hlive : dieFenced s die = false) (hk : k < 4) (hawake : powerOf s die < 2) :
    exec (.sequencerPowerWait die k mode) s =
      .next { s with modes := tins s.modes (die * 4 + k) (1 + firmwareMode s die mode) } :=
  congrArg Host.Outcome.next (if_pos ⟨hcomp, hk, by rw [hlive]; rfl, hawake⟩)

/-- A die enters the shallowest mode of its four sequencers, once it is idle. -/
theorem entryMode_le (h : entryMode s die ≠ 0) (hk : k < 4) : dieIdle s die = true ∧ entryMode s die ≤ waitMode s die k := by
  unfold entryMode at h ⊢
  split at h
  case isFalse => exact absurd rfl h
  case isTrue hgo =>
    simp only [Bool.and_eq_true] at hgo
    obtain ⟨⟨hcomp, hlive⟩, hidle⟩ := hgo
    rw [if_pos (by rw [hcomp, hlive, hidle]; rfl)]
    refine ⟨hidle, ?_⟩
    interval_cases k <;> omega

/-! ## Wakes (R488) -/

section Sources

variable {source port : Nat}

/-- A disabled source wakes nothing. -/
theorem wakeBy_disabled (h : bit (getF s F.AON_WAKE_EN_EN f0) (source - 1) = false) : wakeBy s source die port = s :=
  if_pos (.inr (.inr (by rw [h]; rfl)))

/-- An enabled source acts by the phase of the module. -/
theorem wakeBy_enabled (h : bit (getF s F.AON_WAKE_EN_EN f0) (source - 1) = true) (hlo : 1 ≤ source) (hhi : source ≤ 9) :
    wakeBy s source die port = if s.supply.phase = 3 then
        if source = 1 ∨ source = 2 ∨ source = 4 then recordWake (updSupply s (fun x => { x with phase := 4 })) source die port
        else if source = 5 then emit s (.pin 0 0)
        else s
      else if s.supply.phase = 4 then s
      else wakeAll s source port (wakeTargets s source die port) := by
  refine if_neg ?_
  rw [h]
  rintro (hzero | hbig | hoff)
  · omega
  · omega
  · cases hoff

end Sources

end Sys2Proof.Proofs.PowerModes

namespace Sys2Proof.Proofs

open Sys2Proof Sys2Proof.Machine PowerModes

/-- Settles O27: each event acts on a die in the power state it is for, and the entry mode is a minimum over the sequencers. -/
theorem powerStates : Obligations.PowerStates := by
  refine ⟨fun s die k mode hcomp hlive => ⟨fun hk hawake => ⟨fun hidle ht => ?target, fun hother => ?given⟩, fun hasleep => ?asleep⟩,
    fun s die hcomp hlive hwhite hauto hidle => congrArg Host.Outcome.next (if_pos ⟨hcomp, by rw [hlive]; rfl, hwhite, hauto, hidle⟩),
    fun s die hnone => ?noTimer, fun s die hwhite hmode => ⟨?grey, ?abort⟩, fun s die early hnone => ?noGrey,
    fun s die hawake hmode => congrArg Host.Outcome.next (if_pos ⟨hawake, hmode⟩), fun s die hnone => ?noCharcoal,
    fun s t u die hentry ht hu => ?reached, fun s die hother => congrArg Host.Outcome.next (if_pos hother),
    fun s die k hmode hk => entryMode_le hmode hk⟩
  case target => rw [sequencerPowerWait_awake hcomp hlive hk hawake, firmwareMode_target hidle ht]
  case given => rw [sequencerPowerWait_awake hcomp hlive hk hawake, firmwareMode_given hother]
  case asleep => exact congrArg Host.Outcome.next (if_neg (by omega))
  case noTimer =>
    refine congrArg Host.Outcome.next (if_neg ?_)
    rintro ⟨-, -, -, hauto, hidle⟩
    obtain hoff | hbusy := hnone
    · exact Bool.false_ne_true (hoff.symm.trans hauto)
    · exact Bool.false_ne_true (hbusy.symm.trans hidle)
  case grey => exact congrArg Host.Outcome.next ((if_pos ⟨hwhite, hmode⟩).trans (if_neg Bool.false_ne_true))
  case abort => exact congrArg Host.Outcome.next ((if_pos ⟨hwhite, hmode⟩).trans (if_pos rfl))
  case noGrey => exact congrArg Host.Outcome.next (if_neg (by omega))
  case noCharcoal => exact congrArg Host.Outcome.next (if_neg (by omega))
  case reached =>
    subst hu ht
    exact congrArg Host.Outcome.next (if_neg (not_not.mpr hentry))

/-- Settles O28: a source acts by its enable and the phase of the module; the timer and the address match are sources 4 and 1. -/
theorem wakes : Obligations.Wakes := by
  refine ⟨fun s source die port hon hlo hhi => ⟨fun hblack hstarts => ?start, fun hblack halert => ?alert, fun hpowered => ?powered⟩,
    fun s source die port hoff => congrArg Host.Outcome.next (wakeBy_disabled hoff), fun s t u die hwakes hcomp hlive ht hu => ?woken,
    fun s die hother => congrArg Host.Outcome.next (if_pos (.inl hother)),
    fun s hok hcmp => ⟨fun hmatch => congrArg Host.Outcome.next (if_pos ⟨hcmp, hmatch, hok⟩),
      fun hnot => congrArg Host.Outcome.next (if_neg fun h => hnot h.2.1)⟩,
    fun s => ⟨fun hblack => congrArg Host.Outcome.next (if_pos hblack),
      fun hpowered => congrArg Host.Outcome.next (if_neg (Nat.not_le.mpr hpowered))⟩⟩
  case start => exact congrArg Host.Outcome.next ((wakeBy_enabled hon hlo hhi).trans ((if_pos hblack).trans (if_pos hstarts)))
  case alert =>
    exact congrArg Host.Outcome.next
      ((wakeBy_enabled hon hlo hhi).trans ((if_pos hblack).trans ((if_neg (by omega)).trans (if_pos halert))))
  case powered =>
    exact congrArg Host.Outcome.next ((wakeBy_enabled hon hlo hhi).trans ((if_neg (by omega)).trans (if_neg (by omega))))
  case woken =>
    subst hu ht
    exact congrArg Host.Outcome.next (if_neg (by simp [hwakes, hcomp, hlive]))

end Sys2Proof.Proofs
end

section
/-! The module reference (R494-R499), failed clocks and the switch of a domain between its PLLs (R502-R509). -/

namespace Sys2Proof.Proofs.ClockRules

open Sys2Proof Sys2Proof.Machine Sys2Proof.Laws SupplyRules

variable {s : State} {die dom : Nat}

/-! ## Failed clocks -/

/-- A clock that fails in a domain of a die that is not fenced. -/
theorem clockSourceFail_domain {stop runt : Bool} (hdom : hasDomain s die dom = true) (hlive : dieFenced s die = false) :
    exec (.clockSourceFail die dom stop runt) s = .next (if dom = 4 then
        setF (showSlew { s with tickStop := true, slew := 0 }) F.CLK_TICK_VALID f0 0 0
      else if domState s die dom ≥ 2 then s
      else if stop then forceDomain (setF s (lockFld (getF s F.CLK_DOM_STATE_SRC die dom)) die dom 0) die dom runt
      else match tget? (setF s (lockFld (1 - getF s F.CLK_DOM_STATE_SRC die dom)) die dom 0).swaps (domKey die dom) with
        | some x =>
          if x ≤ 2 then setF { setF s (lockFld (1 - getF s F.CLK_DOM_STATE_SRC die dom)) die dom 0 with
            swaps := tins (setF s (lockFld (1 - getF s F.CLK_DOM_STATE_SRC die dom)) die dom 0).swaps (domKey die dom) 4 }
              F.CLK_DOM_CTRL_LAST die dom CONFLICT
          else setF s (lockFld (1 - getF s F.CLK_DOM_STATE_SRC die dom)) die dom 0
        | none => setF s (lockFld (1 - getF s F.CLK_DOM_STATE_SRC die dom)) die dom 0) :=
  congrArg Host.Outcome.next (if_neg (by simp [hdom, hlive]))

/-- A domain of a die that is not fenced resumes where it was forced, on a PLL there is. -/
theorem domainResume_domain {pll : Nat} (hdom : hasDomain s die dom = true) (hlive : dieFenced s die = false) :
    execDomainResume die dom pll s = .next (if dom = 4 then { s with tickStop := false }
      else if domState s die dom ≠ 2 ∨ pll > 1 then s
      else if dom = 0 ∧ flag (setF s (lockFld pll) die dom 1) F.CLK_DOM_STATE_RUNT die 0 then fenceDie (setF s (lockFld pll) die dom 1) die 5
      else
        let u := setF (setF (setF (setF s (lockFld pll) die dom 1) F.CLK_DOM_STATE_SRC die dom pll) F.CLK_DOM_STATE_STATE die dom 0)
          F.CLK_DOM_STATE_DIV die dom 16
        let v := { u with swaps := tins u.swaps (domKey die dom) 5, stopped := tdel u.stopped (domKey die dom) }
        if dom = 0 then settle (replayWrites v die) else v) :=
  congrArg Host.Outcome.next (if_neg (by simp [hdom, hlive]))

/-- R502-R504: failures, resumption and the limit of a memory domain. -/
theorem clockFailure : Claims.ClockFailure := by
  refine ⟨fun s die dom stop runt hdom hlive => ⟨fun htick => ?tick, fun hother hforced => ?forced, fun hother hruns => ?stop,
      fun hother hruns hnone => ?lock⟩,
    fun s die dom hnone => ⟨fun stop runt => ?noFail, fun pll => ?noResume⟩,
    fun s t u die dom pll hdom hlive => ⟨fun htick => ?tickResumes, fun hother hnot => ?notForced, fun hother hforced hpll ht =>
      ⟨fun hcore hrunt => ?runt, fun hu => ⟨fun hcore hclean => ?core, fun hnotCore => ?other⟩⟩⟩,
    fun s die hlive hforced => ⟨fun hcomp => ?hbm, fun hnotComp hmem => ?far⟩, fun s die dom hnone => congrArg Host.Outcome.next (if_pos hnone)⟩
  case tick => rw [clockSourceFail_domain hdom hlive, if_pos htick]
  case forced => rw [clockSourceFail_domain hdom hlive, if_neg hother, if_pos hforced]
  case stop => rw [clockSourceFail_domain hdom hlive, if_neg hother, if_neg (Nat.not_le.mpr hruns), if_pos rfl]
  case lock =>
    rw [clockSourceFail_domain hdom hlive, if_neg hother, if_neg (Nat.not_le.mpr hruns), if_neg Bool.false_ne_true, hnone]
  case noFail => exact congrArg Host.Outcome.next (if_pos (by simpa using hnone))
  case noResume => exact congrArg Host.Outcome.next (if_pos (by simpa using hnone))
  case tickResumes => exact (domainResume_domain hdom hlive).trans (congrArg Host.Outcome.next (if_pos htick))
  case notForced => exact (domainResume_domain hdom hlive).trans (congrArg Host.Outcome.next ((if_neg hother).trans (if_pos hnot)))
  case runt =>
    subst ht
    exact (domainResume_domain hdom hlive).trans (congrArg Host.Outcome.next
      ((if_neg hother).trans ((if_neg (by omega)).trans (if_pos ⟨hcore, hrunt⟩))))
  case core =>
    subst hu ht
    exact (domainResume_domain hdom hlive).trans (congrArg Host.Outcome.next ((if_neg hother).trans ((if_neg (by omega)).trans
      ((if_neg fun h => Bool.false_ne_true (hclean.symm.trans h.2)).trans (if_pos hcore)))))
  case other =>
    subst hu ht
    exact (domainResume_domain hdom hlive).trans (congrArg Host.Outcome.next ((if_neg hother).trans ((if_neg (by omega)).trans
      ((if_neg fun h => hnotCore h.1).trans (if_neg hnotCore)))))
  case hbm => exact congrArg Host.Outcome.next ((if_neg (by simp [hlive, hforced])).trans (if_pos hcomp))
  case far =>
    exact congrArg Host.Outcome.next ((if_neg (by simp [hlive, hforced])).trans
      ((if_neg (by rw [hnotComp]; exact Bool.false_ne_true)).trans (if_pos hmem)))

/-! ## Switches -/

/-- R505, R507, R509: a switch asked for or automatic, its ramp, and the clock observation. -/
theorem clockSwitch : Claims.ClockSwitch := by
  refine ⟨fun s t src die dom value hother hdom hr hp ht => ?asked, fun s die dom hother hdom hlive => ?automatic,
    fun s die dom hfast => ?ramp, fun s t src value hr hp ht => ?observe⟩
  case asked =>
    have hexec : exec (.domainSwitch src die dom value) s = _ :=
      congrArg Host.Outcome.next ((if_neg (by simp [hother, hdom])).trans (pfWrite_reaches hr hp))
    subst ht
    rw [hexec]
    refine ⟨fun hoff => congrArg Host.Outcome.next (if_pos (by rw [hoff]; rfl)), fun hon hrefused => ?_, fun hon hgo => ?_⟩
    all_goals refine congrArg Host.Outcome.next ((if_neg (by rw [hon]; decide)).trans ?_)
    · exact if_pos hrefused
    · exact if_neg (by rw [hgo]; exact Bool.false_ne_true)
  case automatic =>
    refine ⟨fun hoff => congrArg Host.Outcome.next (if_pos (by simp [hoff])), fun hon => ?_⟩
    have hexec : exec (.marginAutoSwitch die dom) s = _ := congrArg Host.Outcome.next (if_neg (by simp [hother, hdom, hlive, hon]))
    rw [hexec]
    exact ⟨fun hrefused => congrArg Host.Outcome.next (if_pos hrefused),
      fun hgo => congrArg Host.Outcome.next (if_neg (by rw [hgo]; exact Bool.false_ne_true))⟩
  case ramp =>
    have hexec : exec (.switchRampStep die dom) s = _ := congrArg Host.Outcome.next (if_neg (Nat.not_le.mpr hfast))
    rw [hexec]
    refine ⟨fun h => by rw [h], fun h hsteps => ?_, fun h hfree => ?_, fun h => ?_, fun h => ?_, fun x hx h => ?_⟩
    · rw [h]
      exact congrArg Host.Outcome.next (if_pos hsteps)
    · rw [h]
      exact congrArg Host.Outcome.next (if_neg (by rw [hfree]; exact Bool.false_ne_true))
    · rw [h]
      rfl
    · rw [h]
      rfl
    · obtain ⟨n, rfl⟩ : ∃ n, x = n + 4 := ⟨x - 4, by omega⟩
      rw [h]
      rfl
  case observe =>
    have hexec : exec (.clkObsEnable src value) s = _ := congrArg Host.Outcome.next (pfWrite_die04 hr hp)
    subst ht
    rw [hexec]
    refine ⟨fun hoff => congrArg Host.Outcome.next (if_pos (by rw [hoff]; rfl)), fun hon hheld => ?_, fun hon hfree => ?_⟩
    all_goals refine congrArg Host.Outcome.next ((if_neg (by rw [hon]; decide)).trans ?_)
    · exact if_pos hheld
    · exact if_neg (by rw [hfree]; exact Bool.false_ne_true)

end Sys2Proof.Proofs.ClockRules

namespace Sys2Proof.Proofs

open Sys2Proof Sys2Proof.Machine SupplyRules ClockRules

/-- Settles O29: each event takes the first valid source where its condition holds, and leaves the source otherwise. -/
theorem references : Obligations.References := by
  refine ⟨fun s t u v src value hr hp ht hu hv => ?select, fun s source f hf t ht => ?invalid,
    fun s => ⟨fun hrevert hsome hearlier => congrArg Host.Outcome.next (if_pos ⟨hrevert, hsome, hearlier⟩), fun hnone => ?noRevert⟩,
    fun s source f hf => ⟨fun hport hdown => ?notRecovered, fun hgood t ht => ?valid⟩, fun s source hnone => ⟨?none, ?noneInvalid⟩,
    fun s runts hsome => congrArg Host.Outcome.next (if_pos hsome), fun s runts hnone => congrArg Host.Outcome.next (if_neg (not_not.mpr hnone)),
    fun s => rfl⟩
  case select =>
    subst hv hu ht
    exact congrArg Host.Outcome.next (pfWrite_die04 hr hp)
  case invalid =>
    subst ht
    change (_ → execRefSourceInvalid source s = _) ∧ (_ → execRefSourceInvalid source s = _)
    rw [execRefSourceInvalid, hf]
    exact ⟨fun hselected => congrArg Host.Outcome.next (if_pos hselected), fun hother => congrArg Host.Outcome.next (if_neg hother)⟩
  case noRevert =>
    refine congrArg Host.Outcome.next (if_neg ?_)
    rintro ⟨hrevert, hsome, hearlier⟩
    obtain hoff | hnothing := hnone
    · exact Bool.false_ne_true (hoff.symm.trans hrevert)
    · omega
  case notRecovered =>
    change execReferenceSourceValid source s = _
    rw [execReferenceSourceValid, hf]
    exact congrArg Host.Outcome.next (if_pos ⟨hport, by rw [hdown]; rfl⟩)
  case valid =>
    subst ht
    have hgo : ¬ (source < 3 ∧ (!portActive s (refPort s source)) = true) := by
      rintro ⟨hport, hdown⟩
      obtain hlocal | hup := hgood
      · omega
      · rw [hup] at hdown
        cases hdown
    change (_ → execReferenceSourceValid source s = _) ∧ (_ → execReferenceSourceValid source s = _)
    rw [execReferenceSourceValid, hf]
    exact ⟨fun hhas => congrArg Host.Outcome.next ((if_neg (by omega)).trans (if_pos hhas)),
      fun hnot => congrArg Host.Outcome.next ((if_neg (by omega)).trans (if_neg (by rw [hnot]; exact Bool.false_ne_true)))⟩
  case none =>
    change execReferenceSourceValid source s = _
    rw [execReferenceSourceValid, hnone]
  case noneInvalid =>
    change execRefSourceInvalid source s = _
    rw [execRefSourceInvalid, hnone]

/-- Settles O30: a failure and a switch each go by the state of the domain, its lock and its place in the ramp. -/
theorem clocks : Obligations.Clocks := ⟨clockFailure, clockSwitch⟩

end Sys2Proof.Proofs
end

section
/-! Heartbeats, fences and scrubs (R511-R515, R521), and the storage connections (R464, R533). -/

namespace Sys2Proof.Proofs.FaultRules

open Sys2Proof Sys2Proof.Machine

variable {s : State}

/-- R511: a scrub of the protected SRAM of a die that is not fenced. -/
theorem poolScrub_live {die : Nat} {place : SramPlace} (hlive : dieFenced s die = false) :
    exec (.poolScrub die place .corrected) s = .next (logRec (addF s F.MGT_ERR_CE_SRAM die 0 1) 0 die 0xFF 0 0 0) ∧
    exec (.poolScrub die place .uncorrectable) s =
      .next (sramError (logRec (addF s F.MGT_ERR_UE_SRAM die 0 1) 1 die 0xFF 1 0 0) die place) :=
  have hgo : ¬ dieFenced s die = true := by rw [hlive]; exact Bool.false_ne_true
  ⟨congrArg Host.Outcome.next (if_neg hgo), congrArg Host.Outcome.next (if_neg hgo)⟩

/-- A clean line of the protected SRAM changes nothing. -/
theorem poolScrub_clean {die : Nat} {place : SramPlace} : exec (.poolScrub die place .clean) s = .next s :=
  congrArg Host.Outcome.next (ite_self s)

/-- A clean line of a stack changes nothing. -/
theorem hbmPatrolScrub_clean {stack line : Nat} : exec (.hbmPatrolScrub stack line .clean) s = .next s :=
  congrArg Host.Outcome.next (ite_self s)

/-- R464: a pause frame of a port and a priority that some connection uses. -/
theorem pfcPauseFrame_used {sport prio quanta : Nat} (hport : sport ≤ 1) (hprio : prio ≤ 7)
    (hlive : dieFenced s (storageDie sport) = false) (hused : s.conns.any (fun p => connPort p.2 == sport * 8 + prio) = true) :
    exec (.pfcPauseFrame sport prio quanta) s = .next (if quanta = 0 ∧ (tget? s.paused (sport * 8 + prio)).isSome = true then
        (s.conns.filter (fun p => connPort p.2 == sport * 8 + prio)).foldl (fun s p => p.2.unacked.foldl
          (fun s x => emit s (.storage p.1 x.kind x.data)) s) { s with paused := tput s.paused (sport * 8 + prio) quanta 0 }
      else { s with paused := tput s.paused (sport * 8 + prio) quanta 0 }) :=
  congrArg Host.Outcome.next (if_neg (by simp [hlive, hused, hport, hprio]))

end Sys2Proof.Proofs.FaultRules

namespace Sys2Proof.Proofs

open Sys2Proof Sys2Proof.Machine FaultRules

/-- Settles O31: heartbeats by their configuration, fences by the die, scrubs by what is found and whether it still serves. -/
theorem fencesAndScrubs : Obligations.FencesAndScrubs := by
  refine ⟨fun s hoff => ⟨?sendOff, fun e => ?timeoutOff⟩, fun s hon => ?send, fun s e he hon hvalid hgood hlate t ht => ?timeout,
    fun s die st hcomp hst => ⟨fun hwork => ?progress, fun hnone => ?noProgress⟩,
    fun s die st cause => ⟨fun hcomp => congrArg Host.Outcome.next (if_pos hcomp), fun hother => ?noStation⟩,
    fun s die cause => ⟨fun hdie => congrArg Host.Outcome.next (if_pos hdie),
      fun hnone => congrArg Host.Outcome.next (if_neg (Nat.not_lt.mpr hnone))⟩,
    fun s die place => ⟨poolScrub_clean, fun hlive => poolScrub_live hlive,
      fun hfenced bad => congrArg Host.Outcome.next (if_pos hfenced)⟩,
    fun s stack line a ha => ⟨hbmPatrolScrub_clean, fun hstack hline hserves => ?found, fun hlost bad => ?lost⟩⟩
  case sendOff => exact congrArg Host.Outcome.next (if_pos (by rw [hoff]; rfl))
  case timeoutOff => exact congrArg Host.Outcome.next (if_neg fun h => Bool.false_ne_true (hoff.symm.trans h.2.1))
  case send => exact congrArg Host.Outcome.next (if_neg (by rw [hon]; decide))
  case timeout =>
    subst ht
    exact congrArg Host.Outcome.next (if_pos ⟨he, hon, hvalid, by rw [hgood]; rfl, hlate⟩)
  case progress =>
    have hbusy : (fifo s die st).isEmpty = false := by simpa using hwork
    exact congrArg Host.Outcome.next (if_pos (by rw [hcomp, hst, hbusy]; rfl))
  case noProgress => exact congrArg Host.Outcome.next (if_neg (by rw [hnone]; simp))
  case noStation => exact congrArg Host.Outcome.next (if_neg (by rw [hother]; exact Bool.false_ne_true))
  case found =>
    subst ha
    have hgo : ¬ (stack ≥ 32 ∨ 64 * line ≥ stackBytes ∨ lostAt s (stack * stackBytes + 64 * line) = true) := by
      rw [hserves]
      rintro (hbig | hlong | hlost)
      · omega
      · exact absurd hline (Nat.not_lt.mpr hlong)
      · cases hlost
    exact ⟨congrArg Host.Outcome.next (if_neg hgo), congrArg Host.Outcome.next (if_neg hgo)⟩
  case lost =>
    subst ha
    exact congrArg Host.Outcome.next (if_pos (.inr (.inr hlost)))

/-- Settles O34: a connection acts where there is one and its port stands, and a pause frame on a priority in use. -/
theorem storagePorts : Obligations.StoragePorts := by
  refine ⟨fun s conn x hx => ⟨fun hnone => ?idle, fun hsome hlast => ?fails, fun hsome hmore => ?resends, ?congestion,
      fun psn data hgone => ?gone, fun psn data hstands => ?response⟩,
    fun s conn psn data hnone => ⟨?noTimeout, ?noCongestion, ?noResponse⟩,
    fun s sport prio quanta hport hprio hlive hused => ⟨fun hpause => ?pause, fun hfresh => ?fresh, fun hpaused => ?resume⟩,
    fun s sport prio quanta hnone => ?noPause⟩
  case idle =>
    change execRoceRetransmitTimeout conn s = _
    rw [execRoceRetransmitTimeout, hx]
    exact congrArg Host.Outcome.next (if_pos (by rw [hnone]; rfl))
  case fails =>
    change execRoceRetransmitTimeout conn s = _
    rw [execRoceRetransmitTimeout, hx]
    exact congrArg Host.Outcome.next ((if_neg (by simpa using hsome)).trans (if_pos hlast))
  case resends =>
    change execRoceRetransmitTimeout conn s = _
    rw [execRoceRetransmitTimeout, hx]
    exact congrArg Host.Outcome.next ((if_neg (by simpa using hsome)).trans (if_neg (Nat.not_le.mpr hmore)))
  case congestion =>
    change execCongestionNotification conn s = _
    rw [execCongestionNotification, hx]
  case gone =>
    change execRoceResponseReceive conn psn data s = _
    rw [execRoceResponseReceive, hx]
    exact congrArg Host.Outcome.next (if_pos hgone)
  case response =>
    change execRoceResponseReceive conn psn data s = _
    rw [execRoceResponseReceive, hx]
    exact congrArg Host.Outcome.next (if_neg (by rw [hstands]; exact Bool.false_ne_true))
  case noTimeout =>
    change execRoceRetransmitTimeout conn s = _
    rw [execRoceRetransmitTimeout, hnone]
  case noCongestion =>
    change execCongestionNotification conn s = _
    rw [execCongestionNotification, hnone]
  case noResponse =>
    change execRoceResponseReceive conn psn data s = _
    rw [execRoceResponseReceive, hnone]
  case pause => rw [pfcPauseFrame_used hport hprio hlive hused, if_neg fun h => hpause h.1]
  case fresh => rw [pfcPauseFrame_used hport hprio hlive hused, hfresh, if_neg (by simp)]
  case resume => rw [pfcPauseFrame_used hport hprio hlive hused, if_pos ⟨rfl, hpaused⟩]
  case noPause => exact congrArg Host.Outcome.next (if_pos (by simpa using hnone))

end Sys2Proof.Proofs
end

section
/-! The snapshot operations (R525, R527, R532, R536) and the phases of a capture (R527-R533). -/

namespace Sys2Proof.Proofs.SnapshotRules

open Sys2Proof Sys2Proof.Machine DescriptorOps

variable {s : State} {q tag op : Nat} {d : Desc} {checks : State → Desc → List (Nat × Bool)} {run : State → Desc → State}

/-! ## Operations -/

/-- An operation whose checks pass has its effect. -/
theorem runSn_passes (hd : opDesc s q tag (fun i => opcode i == op) = some d) (h : firstFail (checks s d) = none) :
    runSn s q tag op checks run = run s d := by
  rw [runSn, hd]
  dsimp only
  rw [h]

/-- An operation that fails a check ends with its reason. -/
theorem runSn_fails {r : Nat} (hd : opDesc s q tag (fun i => opcode i == op) = some d) (h : firstFail (checks s d) = some r) :
    runSn s q tag op checks run = endSn s d (snStatus r) r 0 0 := by
  rw [runSn, hd]
  dsimp only
  rw [h]

/-- R527: a take of a set on which no take runs is checked, and holds until its capture. -/
theorem snTake_free {n : Nat} (hd : opDesc s q tag (fun i => opcode i == 0x91) = some d) (hn : n = fld d.image 0x10 1)
    (hfree : runOf s n = none) : exec (.snTake q tag) s = .next (runSn s q tag 0x91 takeChecks (fun s _ =>
      holdSn (updSet s n (fun x => { x with run := (some
        ⟨q, tag, fld d.image 0x14 4, fld d.image 0x11 1, fld d.image 0x11 1, fld d.image 0x12 1, fld d.image 0x18 8, fld d.image 0x20 4,
          fld d.image 0x24 2, fld d.image 0x26 2, false, [], false, false, false⟩) })) q tag)) := by
  subst hn
  change execSnTake q tag s = _
  rw [execSnTake, hd]
  exact congrArg Host.Outcome.next (if_neg (by rw [hfree]; simp))

end Sys2Proof.Proofs.SnapshotRules

namespace Sys2Proof.Proofs

open Sys2Proof Sys2Proof.Machine DescriptorOps SnapshotRules

/-- Settles O32: an operation passes its checks, and then its reads, its image or its record in turn. -/
theorem snapshotOps : Obligations.SnapshotOps := by
  refine ⟨fun s q tag op d checks c image hc hd r hfail => ?checked, fun s q tag d m cause hd hpass hread => ?define,
    fun s q tag n d hd hn => ⟨fun hown hruns => ?busy, fun hfree => ?take⟩,
    fun s q tag d image hd hpass => ?restore, fun s t q tag d m cause hd hpass ht => ?conn⟩
  case checked =>
    obtain ⟨rfl, rfl, rfl⟩ | ⟨rfl, rfl, rfl⟩ | ⟨rfl, rfl, rfl⟩ := hc
    all_goals exact congrArg Host.Outcome.next (runSn_fails hd hfail)
  case define =>
    have hexec : exec (.snDefine q tag) s = _ := congrArg Host.Outcome.next (runSn_passes hd hpass)
    dsimp only at hexec
    rw [hread] at hexec
    rw [hexec]
    refine ⟨fun hbad => congrArg Host.Outcome.next (if_pos hbad), fun hgood hbad => ?_, fun hgood hok hnew => ?_, fun hgood hok o ho => ?_⟩
    all_goals refine congrArg Host.Outcome.next ((if_neg (not_not.mpr hgood)).trans ?_)
    · exact if_pos hbad
    · exact (if_neg (by rw [hok]; exact Bool.false_ne_true)).trans (by rw [hnew])
    · exact (if_neg (by rw [hok]; exact Bool.false_ne_true)).trans (by rw [ho])
  case busy =>
    subst hn
    change execSnTake q tag s = _
    rw [execSnTake, hd]
    exact congrArg Host.Outcome.next (if_pos ⟨by rw [hown]; rfl, hruns⟩)
  case take =>
    rw [snTake_free hd hn hfree]
    exact ⟨fun r hfail => congrArg Host.Outcome.next (runSn_fails hd hfail), fun hpass => congrArg Host.Outcome.next (runSn_passes hd hpass)⟩
  case restore =>
    have hexec : exec (.snRestore q tag image) s = _ := congrArg Host.Outcome.next (runSn_passes hd hpass)
    rw [hexec]
    refine ⟨?absent, fun x img hx himg => ?found⟩
    case absent =>
      rintro (hnone | hnone)
      · simp only [hnone]
      · cases hset : tget? s.sets (fld d.image 0x10 1)
        all_goals simp only [hset, hnone]
    case found =>
      simp only [hx, himg]
      refine ⟨fun hbad => by rw [hbad, if_pos (by decide)], fun hok t e u f v ht => ?intact⟩
      rw [hok, if_neg (by decide), ht]
      refine ⟨fun hfail => ?stateFails, fun hgood hu => ?written⟩
      case stateFails =>
        obtain ⟨n, rfl⟩ := Nat.exists_eq_succ_of_ne_zero hfail
        rfl
      case written =>
        subst hgood
        simp only [hu]
        refine ⟨fun hfail => ?extentsFail, fun hgood hv => ?whole⟩
        case extentsFail =>
          obtain ⟨n, rfl⟩ := Nat.exists_eq_succ_of_ne_zero hfail
          rfl
        case whole =>
          subst hgood hv
          rfl
  case conn =>
    have hexec : exec (.snConn q tag) s = _ := congrArg Host.Outcome.next (runSn_passes hd hpass)
    dsimp only at hexec
    rw [← ht] at hexec
    rw [hexec]
    refine ⟨fun hclear => congrArg Host.Outcome.next (if_pos hclear), fun hset hread => ?_⟩
    rw [if_neg hset, hread]
    refine ⟨fun hbad => congrArg Host.Outcome.next (if_pos hbad), fun hgood hbad => ?_, fun hgood hok hroom => ?_⟩
    all_goals refine congrArg Host.Outcome.next ((if_neg (not_not.mpr hgood)).trans ?_)
    · exact if_pos (.inl hbad)
    · exact if_neg (by rw [hok]; simpa using hroom)

/-- Settles O33: a phase acts on the run of a captured set, and advances it by what it read or wrote. -/
theorem snapshotPhases : Obligations.SnapshotPhases := by
  refine ⟨fun s set extent ok hidle hnone => ?noRun, fun s set x r hx hr hopen => ?capture, fun s set x r hx hr hdone => ?captured,
    fun s set x r img hx himg hr => ?layer, fun s set r hr => ?shared,
    fun s set extent cause x r e bs hx hr hdone hlayers hfresh hshard he hread => ?extent⟩
  case noRun =>
    refine ⟨?_, ?_, ?_, ?_⟩
    · change execCaptureDone set s = _
      rw [execCaptureDone]
      cases hx : tget? s.sets set with
      | none => rfl
      | some x =>
        dsimp only
        rw [hidle x hx]
    · change execLocalLayerCommit set ok s = _
      rw [execLocalLayerCommit]
      cases hx : tget? s.sets set with
      | none => rfl
      | some x =>
        cases buildImg s set with
        | none => rfl
        | some img =>
          dsimp only
          rw [hidle x hx]
    · change execSharedLayerCommit set s = _
      rw [execSharedLayerCommit, hnone]
    · change execSnapshotExtentRead set extent s = _
      rw [execSnapshotExtentRead]
      cases hx : tget? s.sets set with
      | none => rfl
      | some x =>
        dsimp only
        rw [hidle x hx]
  case capture =>
    change (_ → execCaptureDone set s = _) ∧ (∀ d p, _ → _ → _ → _ → execCaptureDone set s = _) ∧
      (∀ d parts img t u, _ → _ → _ → _ → _ → _ → _ → _ → execCaptureDone set s = _)
    rw [execCaptureDone, hx]
    dsimp only
    rw [hr]
    dsimp only
    rw [if_neg (by rw [hopen]; exact Bool.false_ne_true)]
    refine ⟨fun hgone => ?gone, fun d p hd hover hseqr hbad => ?unread, fun d parts img t u hd hover hseqr hparts hread himg ht hu => ?stored⟩
    case gone =>
      rw [hgone]
      exact congrArg Host.Outcome.next (if_pos rfl)
    case unread =>
      rw [hd, hbad]
      exact congrArg Host.Outcome.next (if_neg (by simp [hover, hseqr]))
    case stored =>
      subst hu ht himg hparts
      rw [hd, hread]
      exact congrArg Host.Outcome.next (if_neg (by simp [hover, hseqr]))
  case captured =>
    change execCaptureDone set s = _
    rw [execCaptureDone, hx]
    dsimp only
    rw [hr]
    exact congrArg Host.Outcome.next (if_pos hdone)
  case layer =>
    change (_ → ∀ ok, execLocalLayerCommit set ok s = _) ∧ (_ → _ → _ → (_ → execLocalLayerCommit set false s = _) ∧
      (_ → ∀ ok, execLocalLayerCommit set ok s = _) ∧ (_ → ∀ im t, _ → _ → execLocalLayerCommit set true s = _))
    simp only [execLocalLayerCommit, hx, himg, hr]
    refine ⟨fun hnot ok => congrArg Host.Outcome.next (if_pos ?notYet), fun hcap hlayer hall => ?due⟩
    case notYet =>
      obtain hopen | hoff := hnot
      · exact .inl (by rw [hopen]; rfl)
      · exact .inr (.inl (by rw [hoff]; rfl))
    case due =>
      have hdue : ¬ ((!r.captured) = true ∨ (!bit r.layers 1) = true ∨ (!(shardExts x).all (fun i => r.read.contains i)) = true) := by
        rw [hcap, hlayer, hall]
        decide
      refine ⟨fun hwhole => ?failed, fun hlost ok => ?fenced, fun hwhole im t him ht => ?written⟩
      case failed => exact congrArg Host.Outcome.next ((if_neg hdue).trans ((if_pos (.inl rfl)).trans (by rw [if_pos hwhole])))
      case fenced =>
        exact congrArg Host.Outcome.next ((if_neg hdue).trans ((if_pos (.inr (by rw [hlost]; rfl))).trans
          (by rw [hlost, if_neg Bool.false_ne_true])))
      case written =>
        subst ht him
        exact congrArg Host.Outcome.next ((if_neg hdue).trans (if_neg (by rw [hwhole]; decide)))
  case shared =>
    change (_ → _ → _ → _ → execSharedLayerCommit set s = _) ∧ (_ → execSharedLayerCommit set s = _)
    rw [execSharedLayerCommit, hr]
    refine ⟨fun hcap hlayer hlocal hacked => congrArg Host.Outcome.next (if_neg (by rw [hcap, hlayer, hlocal, hacked]; decide)),
      fun hnot => congrArg Host.Outcome.next (if_pos (by simpa using hnot))⟩
  case extent =>
    change (_ → execSnapshotExtentRead set extent s = _) ∧ (_ → _ → execSnapshotExtentRead set extent s = _) ∧
      (_ → ∀ img place, _ → _ → execSnapshotExtentRead set extent s = _)
    have hdue : ¬ ((!r.captured) = true ∨ r.layers = 0 ∨ r.read.contains extent = true ∨ (!(shardExts x).contains extent) = true) := by
      rw [hdone, hfresh, hshard]
      simp [hlayers]
    rw [execSnapshotExtentRead, hx]
    dsimp only
    rw [hr]
    dsimp only
    rw [if_neg hdue, he]
    dsimp only
    rw [hread]
    refine ⟨fun hbad => congrArg Host.Outcome.next (if_pos hbad), fun hgood hnone => ?noImage, fun hgood img place himg hplace => ?image⟩
    case noImage =>
      rw [hnone]
      exact congrArg Host.Outcome.next (if_neg (not_not.mpr hgood))
    case image =>
      subst hplace
      rw [himg]
      exact congrArg Host.Outcome.next (if_neg (not_not.mpr hgood))

end Sys2Proof.Proofs
end

section
/-! Resets (R548, R550), boot and service (R551-R562), and the management commands (R557-R568). -/

namespace Sys2Proof.Proofs.ManagementRules

open Sys2Proof Sys2Proof.Machine

variable {s : State} {data : Bytes} {n : Nat} {k : State → State}

/-! ## Resets -/

/-- R548, R562: a warm reset while the module is powered: an activation that is pending takes it. -/
theorem activate_powered {cause : Nat} (h : s.supply.phase < 3) :
    activate s cause = if flag s F.MGT_FW_STATE_PENDING f0 then
        showBudget (warmReset (setF s F.MGT_FW_STATE_SLOT f0 0 (1 - getF s F.MGT_FW_STATE_RUNNING f0)) 6)
      else showBudget (warmReset s cause) :=
  if_neg (Nat.not_le.mpr h)

/-! ## Requests -/

/-- While the management firmware does not answer, no command acts. -/
theorem oem_silent (h : answers s = false) : oem s data n k = s := if_pos (by rw [h]; rfl)

/-- A request of another length completes with INVALID_LENGTH. -/
theorem oem_otherLength (h : answers s = true) (hlen : data.length ≠ n) : oem s data n k = reply s PLDM_INVALID_LENGTH :=
  (if_neg (by rw [h]; decide)).trans (if_pos hlen)

/-- A request of its length is served. -/
theorem oem_served (h : answers s = true) (hlen : data.length = n) : oem s data n k = k s :=
  (if_neg (by rw [h]; decide)).trans (if_neg (not_not.mpr hlen))

variable {secured : Bool}

theorem secure_inSession (h : answers s = true) (hlen : data.length = n) (hin : inSession s secured = true) :
    secure s data n secured k = k s :=
  (oem_served h hlen).trans (if_pos hin)

/-- R560: a command of a session that comes outside one is refused. -/
theorem secure_outside (h : answers s = true) (hlen : data.length = n) (hout : inSession s secured = false) :
    secure s data n secured k = reply s OEM_NOT_IN_SESSION :=
  (oem_served h hlen).trans (if_neg (by rw [hout]; exact Bool.false_ne_true))

/-! ## Tables -/

section Tables

variable {w most : Nat} {put : State → Nat → Nat → Nat → State}

/-- R558: a write of table entries that does not answer, is out of range, has the wrong length, or writes the shadow banks. -/
theorem tableWrite_silent (h : answers s = false) : tableWrite s data w n most put = s := if_pos (by rw [h]; rfl)

theorem tableWrite_range (h : answers s = true) (hbad : fld data 2 2 = 0 ∨ fld data 2 2 > most ∨ fld data 0 2 + fld data 2 2 > n) :
    tableWrite s data w n most put = reply s PLDM_INVALID_DATA :=
  (if_neg (by rw [h]; decide)).trans (if_pos hbad)

theorem tableWrite_inRange (h : answers s = true) (hsome : fld data 2 2 ≠ 0) (hmost : fld data 2 2 ≤ most)
    (hn : fld data 0 2 + fld data 2 2 ≤ n) : tableWrite s data w n most put = if data.length ≠ 4 + w * fld data 2 2 then
      reply s PLDM_INVALID_LENGTH
    else reply (writeShadow s (fun s k => (List.range (fld data 2 2)).foldl
      (fun s i => put s k (fld data 0 2 + i) (fld data (4 + w * i) w)) s)) PLDM_SUCCESS :=
  (if_neg (by rw [h]; decide)).trans (if_neg (by omega))

end Tables

/-- R558, R559: the placement and the routing tables. -/
theorem placementCommands : Claims.PlacementCommands := by
  intro s data
  refine ⟨fun hoff => ⟨?_, ?_, ?_, ?_, ?_, ?_⟩, fun hon => ⟨fun hlen => ?staged, fun hlen => ?badLength,
    fun c w n most put hc => ?tables, fun t ht => ?copy, fun hnone => ?nothing, fun p hp hnot => ?notReady, fun p t hp hcopy hmay ht => ?commit⟩⟩
  · exact congrArg Host.Outcome.next (oem_silent hoff)
  · exact congrArg Host.Outcome.next (tableWrite_silent hoff)
  · exact congrArg Host.Outcome.next (tableWrite_silent hoff)
  · exact congrArg Host.Outcome.next (tableWrite_silent hoff)
  · exact congrArg Host.Outcome.next (oem_silent hoff)
  · exact congrArg Host.Outcome.next (oem_silent hoff)
  case staged => exact congrArg Host.Outcome.next (oem_served hon hlen)
  case badLength => exact congrArg Host.Outcome.next (oem_otherLength hon hlen)
  case tables =>
    have hexec : exec c s = .next (tableWrite s data w n most put) := by
      obtain ⟨rfl, rfl, rfl, rfl, rfl⟩ | ⟨rfl, rfl, rfl, rfl, rfl⟩ | ⟨rfl, rfl, rfl, rfl, rfl⟩ := hc <;> rfl
    refine ⟨fun hbad => by rw [hexec, tableWrite_range hon hbad], fun hsome hmost hn => ?_⟩
    rw [hexec, tableWrite_inRange hon hsome hmost hn]
    exact ⟨fun hlen => by rw [if_pos hlen], fun hlen => by rw [if_neg (not_not.mpr hlen)]⟩
  case copy =>
    change execCopyTables [] s = _
    rw [execCopyTables, oem_served hon List.length_nil, ht]
  all_goals
    change execCommitPlacement [] s = _
    rw [execCommitPlacement, oem_served hon List.length_nil]
    dsimp only
  case nothing => rw [hnone]
  case notReady =>
    rw [hp]
    exact congrArg Host.Outcome.next (if_pos (by simpa using hnot))
  case commit =>
    have hgo : (!noCopy s || (newIdentity s p && !noJob s)) = false := by
      obtain hsame | hidle := hmay
      · rw [hcopy, hsame]
        rfl
      · rw [hcopy, hidle, Bool.not_true, Bool.and_false]
        rfl
    rw [hp, ht]
    dsimp only
    rw [hgo, if_neg Bool.false_ne_true]

/-! ## OEM commands -/

/-- R560: after the seal a request outside a session is refused. -/
theorem oem_barred {bare : Bool} (h : answers s = true) (hlen : data.length = n) (hbar : barred s bare = true) :
    oem s data n (fun s => if barred s bare then reply s OEM_NOT_IN_SESSION else k s) = reply s OEM_NOT_IN_SESSION :=
  (oem_served h hlen).trans (if_pos hbar)

theorem oem_notBarred {bare : Bool} (h : answers s = true) (hlen : data.length = n) (hfree : barred s bare = false) :
    oem s data n (fun s => if barred s bare then reply s OEM_NOT_IN_SESSION else k s) = k s :=
  (oem_served h hlen).trans (if_neg (by rw [hfree]; exact Bool.false_ne_true))

end Sys2Proof.Proofs.ManagementRules

namespace Sys2Proof.Proofs

open Sys2Proof Sys2Proof.Machine Sys2Proof.Laws SupplyRules ManagementRules

/-- Settles O35: each reset by the phase of the module, its request and what is pending. -/
theorem resets : Obligations.Resets := by
  refine ⟨fun s main straps hpowered => congrArg Host.Outcome.next (if_pos hpowered), fun s t main straps hblack ht => ?cold,
    fun s straps => ⟨fun hpowered => congrArg Host.Outcome.next (if_neg (Nat.not_le.mpr hpowered)),
      fun hblack => congrArg Host.Outcome.next (if_pos hblack)⟩,
    fun s t src value hr hp ht => ?register, fun s => ⟨fun hblack => congrArg Host.Outcome.next (if_pos hblack),
      fun hpowered hnone => ?watchdog, fun hpowered hpending => ?activation⟩,
    fun s hon => congrArg Host.Outcome.next (oem_served hon rfl),
    fun s bare straps hon => ⟨fun hfree => congrArg Host.Outcome.next (oem_notBarred hon rfl hfree),
      fun hbar => congrArg Host.Outcome.next (oem_barred hon rfl hbar)⟩⟩
  case cold =>
    change execColdStart main straps s = _
    rw [execColdStart, if_neg (Nat.not_lt.mpr hblack), ht]
  case register =>
    change (_ → execMgtResetWarm src value s = _) ∧ (_ → execMgtResetWarm src value s = _)
    rw [execMgtResetWarm, pfWrite_die04 hr hp, ← ht]
    exact ⟨fun hset => by rw [if_pos hset], fun hclear => by rw [hclear, if_neg Bool.false_ne_true]⟩
  case watchdog =>
    exact congrArg Host.Outcome.next ((activate_powered hpowered).trans (if_neg (by rw [hnone]; exact Bool.false_ne_true)))
  case activation => exact congrArg Host.Outcome.next ((activate_powered hpowered).trans (if_pos hpending))

/-- Settles O36: a boot by the slot and its image, an entry into service by the die, an update by the module. -/
theorem bootAndService : Obligations.BootAndService := by
  refine ⟨fun s t img slot hon hfirst hslot htry ht => ?boot, fun s img slot hoff => ⟨?offBoot, ?offTakeover, ?offUpdate, ?offActivate⟩,
    fun s img hon => ⟨fun hlive => congrArg Host.Outcome.next (if_pos ⟨hon, by rw [hlive]; rfl⟩), fun hfenced => ?noTakeover,
      congrArg Host.Outcome.next (if_pos hon), congrArg Host.Outcome.next (if_pos hon)⟩,
    fun s t die hon hcomp hlive hrec hstrap hawake hnew => ?limited, fun s t die hon hcomp hlive hlim hnew ht => ?full,
    fun s die hnone => ⟨?noLimited, ?noFull⟩⟩
  case boot =>
    have hexec : exec (.bootVerify slot img) s = _ := congrArg Host.Outcome.next ((if_neg (by simp [hon, hfirst, hslot])).trans
      (if_neg (by
        rintro ⟨hother, hnot⟩
        obtain hsame | hbad := htry
        · exact hother hsame
        · rw [hbad] at hnot
          cases hnot)))
    subst ht
    refine ⟨fun hgood => hexec.trans (congrArg Host.Outcome.next (if_pos hgood)), fun hbad u hu => ?_⟩
    subst hu
    exact hexec.trans (congrArg Host.Outcome.next (if_neg (by rw [hbad]; exact Bool.false_ne_true)))
  case offBoot => exact congrArg Host.Outcome.next (if_pos (.inl (by rw [hoff]; rfl)))
  case offTakeover => exact congrArg Host.Outcome.next (if_neg fun h => Bool.false_ne_true (hoff.symm.trans h.1))
  case offUpdate => exact congrArg Host.Outcome.next (if_neg (by rw [hoff]; exact Bool.false_ne_true))
  case offActivate => exact congrArg Host.Outcome.next (if_neg (by rw [hoff]; exact Bool.false_ne_true))
  case noTakeover => exact congrArg Host.Outcome.next (if_neg fun h => by rw [hfenced] at h; cases h.2)
  case limited =>
    have hexec : exec (.limitedServiceEntry die) s = _ :=
      congrArg Host.Outcome.next (if_neg (by simp [hon, hcomp, hlive, hrec, hstrap, hawake, hnew]))
    refine ⟨fun hnot => hexec.trans (congrArg Host.Outcome.next (if_pos (by rw [hnot]; rfl))), fun hready ht => ?_⟩
    subst ht
    exact hexec.trans (congrArg Host.Outcome.next (if_neg (by rw [hready]; decide)))
  case full =>
    subst ht
    exact congrArg Host.Outcome.next (if_neg (by simp [hon, hcomp, hlive, hlim, hnew]))
  all_goals
    obtain hoff | hother | hfenced := hnone
    · exact congrArg Host.Outcome.next (if_pos (.inl (by rw [hoff]; rfl)))
    · exact congrArg Host.Outcome.next (if_pos (.inr (.inl (by rw [hother]; rfl))))
    · exact congrArg Host.Outcome.next (if_pos (.inr (.inr (.inl hfenced))))

end Sys2Proof.Proofs
end

section
/-! The commands of the management controller: OEM commands, those of a session, attestation and sensors (R557-R568). -/

namespace Sys2Proof.Proofs.CommandRules

open Sys2Proof Sys2Proof.Machine ManagementRules

/-! ## OEM commands -/

section Oem

variable {s : State} {data : Bytes} {bare : Bool}

/-- R514, R515, R558: a fence request that may be made. -/
theorem fence_served (hon : answers s = true) (hlen : data.length = 3) (hfree : barred s bare = false) :
    execFence data bare s = .next (if fld data 0 1 ≥ 32 ∨ (fld data 1 2 ≠ 0 ∧ (!isComp (fld data 0 1)) = true) then
        reply s PLDM_INVALID_DATA
      else if fld data 1 2 = 0 then reply (fenceDie s (fld data 0 1) 3) PLDM_SUCCESS
      else reply ((stations.filter (fun st => match stBit st with
        | some b => bit (fld data 1 2) b
        | none => false)).foldl (fun s st => fenceStation s (fld data 0 1) st 3) s) PLDM_SUCCESS) := by
  rw [execFence, oem_served hon hlen]
  exact congrArg Host.Outcome.next (if_neg (by rw [hfree]; exact Bool.false_ne_true))

/-- R558, R560: a write of a setup register that may be made. -/
theorem setupWrite_served (hon : answers s = true) (hlen : data.length = 8) (hfree : barred s bare = false) {die off : Nat}
    (hdie : die = fld data 0 4 / 2 ^ 25) (hoff : off = fld data 0 4 % 2 ^ 25) :
    exec (.setupWrite data bare) s = .next (if die ≥ 32 then reply s PLDM_SUCCESS
      else if off % 4 ≠ 0 then
        reply (if dieFenced s die then s else logErr s 0 SETUP_FORMAT (formatDetail die off)) PLDM_INVALID_DATA
      else reply (writeReg s .mgmt die off (fld data 4 4))
        (if !dieFenced s die && !inCharcoal s die && changesSealed s die off (fld data 4 4) then OEM_SEALED else PLDM_SUCCESS)) := by
  subst hdie hoff
  change execSetupWrite data bare s = _
  rw [execSetupWrite, oem_served hon hlen]
  exact congrArg Host.Outcome.next (if_neg (by rw [hfree]; exact Bool.false_ne_true))

/-- R560: each of the three commands that the seal bars is refused before anything else. -/
theorem barred_refused (hon : answers s = true) (hbar : barred s true = true) :
    (data.length = 3 → exec (.fence data true) s = .next (reply s OEM_NOT_IN_SESSION)) ∧
    (data.length = 8 → exec (.alignTick data true) s = .next (reply s OEM_NOT_IN_SESSION) ∧
      exec (.setupWrite data true) s = .next (reply s OEM_NOT_IN_SESSION)) := by
  change (_ → execFence data true s = _) ∧ (_ → execAlignTick data true s = _ ∧ execSetupWrite data true s = _)
  refine ⟨fun hlen => ?_, fun hlen => ⟨?_, ?_⟩⟩
  · rw [execFence, oem_served hon hlen]
    exact congrArg Host.Outcome.next (if_pos hbar)
  · rw [execAlignTick, oem_served hon hlen]
    exact congrArg Host.Outcome.next (if_pos hbar)
  · rw [execSetupWrite, oem_served hon hlen]
    exact congrArg Host.Outcome.next (if_pos hbar)

end Oem

/-- R14, R500, R514, R515, R558, R560: the OEM commands. -/
theorem oemCommands : Claims.OemCommands := by
  intro s hon
  refine ⟨fun data t hlen ht => ?recovery, fun data hlen => ?wake, fun data hlen => ?power, fun data bare hlen hfree => ?fence,
    fun data bare hlen hfree => ?tick, fun data bare die off hlen hfree hdie hoff => ?write, fun data v t hlen haligned => ?read,
    fun data hlen hodd => ?oddRead, fun data hbar => barred_refused hon hbar⟩
  case recovery =>
    change execSetRecovery data s = _
    rw [execSetRecovery, oem_served hon hlen, ht]
  case wake =>
    change (_ → execWake data s = _) ∧ (_ → execWake data s = _)
    rw [execWake, oem_served hon hlen]
    exact ⟨fun hset => by rw [if_pos hset], fun hclear => by rw [hclear, if_neg Bool.false_ne_true]⟩
  case power =>
    change (_ → execSetPowerState data s = _) ∧ (_ → _ → execSetPowerState data s = _) ∧ (_ → _ → execSetPowerState data s = _) ∧
      (_ → _ → execSetPowerState data s = _)
    rw [execSetPowerState, oem_served hon hlen]
    dsimp only
    refine ⟨fun hcharcoal => by rw [if_pos hcharcoal], fun hblack hsome => ?_, fun hblack hnone => ?_, fun hnot2 hnot3 => ?_⟩
    · rw [hblack, if_neg (by decide), if_neg (by decide), if_pos (by simpa using hsome)]
    · rw [hblack, if_neg (by decide), if_neg (by decide), hnone, if_neg (by decide)]
    · rw [if_neg hnot2, if_pos hnot3]
  case fence =>
    change (_ → _ → execFence data bare s = _) ∧ (_ → _ → execFence data bare s = _) ∧ (_ → execFence data bare s = _)
    rw [fence_served hon hlen hfree]
    refine ⟨fun hdie hall => ?_, fun hcomp hsome => ?_, fun hbad => ?_⟩
    · rw [if_neg (by omega), if_pos hall]
    · have hdie : fld data 0 1 < 16 := of_decide_eq_true hcomp
      have hgo : ¬ (fld data 0 1 ≥ 32 ∨ (fld data 1 2 ≠ 0 ∧ (!isComp (fld data 0 1)) = true)) := by
        rw [hcomp]
        rintro (hbig | ⟨-, hnot⟩)
        · omega
        · cases hnot
      exact congrArg Host.Outcome.next ((if_neg hgo).trans (if_neg hsome))
    · exact congrArg Host.Outcome.next (if_pos (by simpa using hbad))
  case tick =>
    change execAlignTick data bare s = _
    rw [execAlignTick, oem_served hon hlen]
    exact congrArg Host.Outcome.next (if_neg (by rw [hfree]; exact Bool.false_ne_true))
  case write =>
    rw [setupWrite_served hon hlen hfree hdie hoff]
    refine ⟨fun hnone => by rw [if_pos hnone], fun hsome hodd => ?_, fun hsome haligned => ?_⟩
    · rw [if_neg (Nat.not_le.mpr hsome), if_pos hodd]
    · rw [if_neg (Nat.not_le.mpr hsome), if_neg (not_not.mpr haligned)]
  case read =>
    change (_ → _ → execSetupRead data s = _) ∧ (_ → execSetupRead data s = _)
    rw [execSetupRead, oem_served hon hlen]
    dsimp only
    rw [if_neg (not_not.mpr haligned)]
    refine ⟨fun hsome hread => ?_, fun hnone => ?_⟩
    · rw [if_pos hsome, hread]
    · rw [if_neg (Nat.not_lt.mpr hnone)]
  case oddRead =>
    change execSetupRead data s = _
    rw [execSetupRead, oem_served hon hlen]
    exact congrArg Host.Outcome.next (if_pos hodd)

/-! ## Sessions -/

/-- R562, R565, R568: the commands of a session. -/
theorem securedCommands : Claims.SecuredCommands := by
  intro s hon
  refine ⟨fun hin => ⟨fun data hlen => ?firmware, fun data hlong hfits hfree => ?load, fun data hbad => ?noLoad,
    fun data x hlen hx => ?select, fun data hlen => ?erase⟩, fun data hout => ⟨fun hlen => ?outFirmware, ?outLoad, fun hlen => ?outKeys⟩⟩
  case firmware =>
    change (_ → _ → execCommitSvn data true s = _) ∧ (_ → execCommitSvn data true s = _) ∧ (_ → execRevokeKey data true s = _) ∧
      (_ → _ → execRevokeKey data true s = _) ∧ (_ → _ → execRevokeKey data true s = _)
    rw [execCommitSvn, execRevokeKey, secure_inSession hon hlen hin, secure_inSession hon hlen hin]
    dsimp only
    refine ⟨fun hmin hmax => ?_, fun hbad => ?_, fun hbig => ?_, fun hkey hlast => ?_, fun hkey hleft => ?_⟩
    · rw [if_neg (by omega)]
    · rw [if_pos hbad]
    · rw [if_pos hbig]
    · rw [if_neg (Nat.not_lt.mpr hkey), hlast, if_pos (by decide)]
    · rw [if_neg (Nat.not_lt.mpr hkey), hleft, if_neg (by decide)]
  case load =>
    change execLoadKey data true s = _
    rw [execLoadKey, secure_inSession hon rfl hin]
    refine congrArg Host.Outcome.next (if_neg ?_)
    rw [hfits, hfree]
    rintro (hshort | hnot | hclash)
    · omega
    · cases hnot
    · cases hclash
  case noLoad =>
    change execLoadKey data true s = _
    rw [execLoadKey, secure_inSession hon rfl hin]
    exact congrArg Host.Outcome.next (if_pos (by simpa using hbad))
  case select =>
    change (_ → execKeySendSelect data true s = _) ∧ (_ → _ → execKeySendSelect data true s = _)
    rw [execKeySendSelect, secure_inSession hon hlen hin]
    dsimp only
    rw [hx]
    exact ⟨fun hbad => congrArg Host.Outcome.next (if_pos hbad),
      fun hlink hsel => congrArg Host.Outcome.next (if_neg (not_or.mpr ⟨not_not.mpr hlink, Nat.not_lt.mpr hsel⟩))⟩
  case erase =>
    change (_ → execKeySendSelect data true s = _) ∧ (_ → execKeyEraseSlot data true s = _) ∧ (_ → execKeyEraseSlot data true s = _) ∧
      execKeyEraseAll data true s = _
    rw [execKeySendSelect, execKeyEraseSlot, execKeyEraseAll, secure_inSession hon hlen hin, secure_inSession hon hlen hin,
      secure_inSession hon hlen hin]
    dsimp only
    exact ⟨fun hnone => by rw [hnone], fun hslot => by rw [if_neg (Nat.not_lt.mpr hslot)], fun hbig => by rw [if_pos hbig], rfl⟩
  case outFirmware =>
    exact ⟨congrArg Host.Outcome.next (secure_outside hon hlen hout), congrArg Host.Outcome.next (secure_outside hon hlen hout)⟩
  case outLoad => exact congrArg Host.Outcome.next (secure_outside hon rfl hout)
  case outKeys =>
    exact ⟨congrArg Host.Outcome.next (secure_outside hon hlen hout), congrArg Host.Outcome.next (secure_outside hon hlen hout),
      congrArg Host.Outcome.next (secure_outside hon hlen hout)⟩

/-! ## Attestation and sensors -/

/-- R557, R563, R564: SPDM and sensors. -/
theorem attestation : Claims.Attestation := by
  refine ⟨fun s session msg => ⟨fun hoff => congrArg Host.Outcome.next (if_pos (by rw [hoff]; rfl)),
    fun hon => congrArg Host.Outcome.next (if_neg (by rw [hon]; decide))⟩,
    fun s kind n => ⟨fun hnone => ?silent, fun hon hkind k t hfree => ?answered⟩⟩
  case silent =>
    change execPldmSensorRead kind n s = _
    rw [execPldmSensorRead]
    exact congrArg Host.Outcome.next (if_pos (by simpa using hnone))
  case answered =>
    have hgo : ¬ ((!managed s) = true ∨ (flag s F.MGT_SVC_RECOVERY f0 = true ∧ kind ≠ 0)) := by
      rw [hon]
      rintro (hoff | ⟨hrec, hother⟩)
      · cases hoff
      · obtain hnot | hbase := hkind
        · exact Bool.false_ne_true (hnot.symm.trans hrec)
        · exact hother hbase
    change (_ → execPldmSensorRead kind n s = _) ∧ (_ → execPldmSensorRead kind n s = _) ∧ (_ → _ → execPldmSensorRead kind n s = _)
    rw [execPldmSensorRead, if_neg hgo, hfree]
    dsimp only
    exact ⟨fun htype2 => by rw [if_pos htype2], fun htype4 => by rw [htype4, if_neg (by decide), if_pos rfl],
      fun hnot2 hnot4 => by rw [if_neg hnot2, if_neg hnot4]⟩

end Sys2Proof.Proofs.CommandRules

namespace Sys2Proof.Proofs

open Sys2Proof Sys2Proof.Machine ManagementRules CommandRules

/-- Settles O37: a command that is answered goes by its length, the seal and its operands. -/
theorem managementCommands : Obligations.ManagementCommands := ⟨placementCommands, oemCommands⟩

/-- Settles O38: a command of a session is refused outside one, and goes by its operands inside. -/
theorem sessionsAndSensors : Obligations.SessionsAndSensors := ⟨securedCommands, attestation⟩

end Sys2Proof.Proofs
end

section
/-! Self-tests, margin runs, the analog test bus and a lost link of the package (R515, R574-R583). -/

namespace Sys2Proof.Proofs.TestRules

open Sys2Proof Sys2Proof.Machine Sys2Proof.Laws

/-- R582: the hold of a stack whose drain a margin run began. -/
theorem marginHoldBegin_draining {s : State} {die : Nat} {m : MarginRun} (hm : tget? s.margins die = some m) (hcomp : isComp die = true)
    (hopen : m.hold = false) (hdrains : tgetD s.drains (marginStack die m.target) 0 = 3) :
    exec (.marginHoldBegin die) s = .next (if stranded s (marginStack die m.target) then abandonMargin s die
      else if stackEmpty s (marginStack die m.target) then { s with margins := tins s.margins die { m with hold := true },
                                                                    stackState := tins s.stackState (marginStack die m.target) 2 }
      else s) := by
  change execMarginHoldBegin die s = _
  rw [execMarginHoldBegin, hm]
  exact congrArg Host.Outcome.next (if_neg (by simp [hcomp, hopen, hdrains]))

/-- R580-R584: the end of a margin run: void on a stack that left service, early before its hold, and else with its findings. -/
theorem marginRunDone_running {s : State} {die lane margin : Nat} {found : List Finding} {m : MarginRun}
    (hm : tget? s.margins die = some m) :
    exec (.marginRunDone die lane margin found) s = .next
      (if isComp die = true ∧ tgetD s.stackState (marginStack die m.target) 0 = 1 then endMargin s die
      else if isComp die = true ∧ (!m.hold) = true then s
      else
        let r := if isComp die then fixStack s die (marginStack die m.target) m.repair found
          else fixPort s die (portOn die m.target) m.repair found
        endMargin (setF (setF (setF r.1 F.TST_MARGIN_LANE die 0 lane) F.TST_MARGIN_MARGIN die 0 margin) F.TST_MARGIN_WEAK die 0
          (b2n r.2)) die) := by
  change execMarginRunDone die lane margin found s = _
  rw [execMarginRunDone, hm]

/-- R578: the end of a self-test that runs. -/
theorem bistDone_running {s t : State} {die k : Nat} {failed : List Nat} (hk : tget? s.bists die = some k)
    (ht : t = failed.foldl (fun s u => bistFail s die k u) (bistLeaves (setF (setF (setF
      { s with bists := tdel s.bists die } F.TST_BIST_BUSY die 0 0) F.TST_BIST_PASS die 0 (b2n failed.isEmpty)) F.TST_BIST_FAILS die 0
        (sat 255 failed.length)) die k)) :
    exec (.bistDone die failed) s = .next (if k = 4 then settle (pumpRebuild t die) else t) := by
  change execBistDone die failed s = _
  rw [execBistDone, hk, ht]

end Sys2Proof.Proofs.TestRules

namespace Sys2Proof.Proofs

open Sys2Proof Sys2Proof.Machine Sys2Proof.Laws SupplyRules TestRules

/-- Settles O39: a start passes its gate and its permission, and an end acts on the run or test there is. -/
theorem testControl : Obligations.TestControl := by
  refine ⟨fun s w src die value hw hr hp => ?bist, fun s t die failed => ⟨fun hnone => ?noBist, fun k hk ht => ?bistEnds⟩,
    fun s w src die value put hmem hw hr hp hput => ?margin, fun s die m hm hcomp hopen hdrains => ?hold,
    fun s die lane margin found => ⟨fun hnone => ?noMargin, fun m t weak hm => ?marginEnds⟩,
    fun s w src die value put hw hr hp hput => ?select, fun s t src value hr hp hA hB ht => ?routeOff,
    fun s src value route put hr hp hon hroute hput => ?routeOn,
    fun s a b => ⟨fun ha hlink => congrArg Host.Outcome.next (if_pos ⟨ha, hlink⟩), fun hnone => ?noLink⟩⟩
  case bist =>
    change (_ → execBistStart src die value s = _) ∧ (_ → execBistStart src die value s = _)
    rw [execBistStart, pfWrite_reaches hr hp, ← hw]
    dsimp only
    refine ⟨fun hstop => by rw [hstop, if_pos (by decide)], fun hstart => by rw [hstart, if_neg (by decide)]⟩
  case noBist =>
    change execBistDone die failed s = _
    rw [execBistDone, hnone]
  case bistEnds =>
    rw [bistDone_running hk ht]
    exact ⟨fun hmap => by rw [if_pos hmap], fun hother => by rw [if_neg hother]⟩
  case margin =>
    subst hput
    change (_ → execMarginStart src die value s = _) ∧ (_ → execMarginStart src die value s = _)
    rw [execMarginStart, hmem, if_neg Bool.false_ne_true, pfWrite_reaches hr hp, ← hw]
    dsimp only
    refine ⟨fun hstop => by rw [hstop, if_pos (by decide)], fun hstart => by rw [hstart, if_neg (by decide)]⟩
  case hold =>
    rw [marginHoldBegin_draining hm hcomp hopen hdrains]
    refine ⟨fun hleft => by rw [if_pos hleft], fun hgone hempty => ?_, fun hgone hused => ?_⟩
    · rw [hgone, if_neg Bool.false_ne_true, if_pos hempty]
    · rw [hgone, hused, if_neg Bool.false_ne_true, if_neg Bool.false_ne_true]
  case noMargin =>
    change execMarginRunDone die lane margin found s = _ ∧ execMarginHoldBegin die s = _
    rw [execMarginRunDone, execMarginHoldBegin, hnone]
    exact ⟨rfl, rfl⟩
  case marginEnds =>
    rw [marginRunDone_running hm]
    refine ⟨fun hcomp hlost => by rw [if_pos ⟨hcomp, hlost⟩], fun hcomp hserves hearly => ?early, fun hcomp hserves hheld hfix => ?stack,
      fun hport hfix => ?port⟩
    case early => rw [if_neg fun h => hserves h.2, if_pos ⟨hcomp, by rw [hearly]; rfl⟩]
    case stack =>
      rw [if_neg fun h => hserves h.2, if_neg (by rw [hheld]; simp)]
      dsimp only
      rw [if_pos hcomp, hfix]
    case port =>
      have hnot : ¬ isComp die = true := by rw [hport]; exact Bool.false_ne_true
      rw [if_neg fun h => hnot h.1, if_neg fun h => hnot h.1]
      dsimp only
      rw [if_neg hnot, hfix]
  case select =>
    subst hput
    change (_ → _ → execAtbSelect src die value s = _) ∧ (_ → execAtbSelect src die value s = _)
    rw [execAtbSelect, pfWrite_reaches hr hp, ← hw]
    exact ⟨fun ha hb => congrArg Host.Outcome.next (if_pos ⟨ha, hb⟩), fun hsome => congrArg Host.Outcome.next (if_neg (by omega))⟩
  case routeOff =>
    subst ht
    change execAtbRoute src value s = _
    rw [execAtbRoute, pfWrite_die04 hr hp, hA, hB]
    dsimp only
    rw [if_neg (by simp), if_neg (by simp)]
  case routeOn =>
    subst hput hroute
    change execAtbRoute src value s = _
    rw [execAtbRoute, pfWrite_die04 hr hp]
    exact congrArg Host.Outcome.next (if_pos hon)
  case noLink =>
    refine congrArg Host.Outcome.next (if_neg ?_)
    rintro ⟨ha, hlink⟩
    obtain hbig | hnot := hnone
    · omega
    · exact Bool.false_ne_true (hnot.symm.trans hlink)

end Sys2Proof.Proofs
end
